-- ==== Sys2Proof/Word.lean ====
section
/-! DEFINITION. The word types of the NQ40 model: the 32-bit register word, the byte, and the
plainest arithmetic on them (reading a word as a signed number, cutting an exact integer back to a
word). -/

namespace Sys2Proof

/-- A 32-bit register word, sample or table word. -/
abbrev Word := BitVec 32

/-- A memory byte. -/
abbrev Byte := BitVec 8

/-- A 64-bit value: a KEEP64 EQ output, a free draw. -/
abbrev DWord := BitVec 64

/-- The 72-bit accumulator of Ibex, Oryx and EQ (Q10.62, R12). -/
abbrev Acc72 := BitVec 72

namespace Word

/-- An exact integer cut to 32 bits (two's complement). -/
def ofInt (z : Int) : Word := BitVec.ofInt 32 z

/-- A natural number cut to 32 bits. -/
def ofNat (n : Nat) : Word := BitVec.ofNat 32 n

end Word

end Sys2Proof
end

