-- ==== Sys2Proof/Syntax.lean ====
section
/-! DEFINITION. The commands of the NQ40: one constructor of `Instr` per row of
spec/opcode_table.json, with the operands the row's rule needs. A command is a host or master
access, an event on a pin or a link, a physical measurement that an engine takes, or one operation
that an Ibex core issues. Everything a command does is in Sys2Proof/Machine. -/

namespace Sys2Proof

/-- Which operation of which core issues (R97, R99, R103). `adv` is how many issue cycles the core
has advanced since its previous operation of the model: 0 puts the operation into the same bundle.
`pred` is the predicate register the slot word names. -/
structure Issue where
  core : Nat
  slot : Nat
  pred : BitVec 3
  adv  : Nat
  deriving DecidableEq, Repr

/-- The addressing modes of the load/store slot (R137). Immediates are signed and scaled by the
access width. -/
inductive AMode where
  | off   (imm : BitVec 9)
  | idx   (am : BitVec 4)
  | postI (imm : BitVec 9)
  | postR (am : BitVec 4)
  | circ  (k : BitVec 3) (imm : BitVec 6)
  | circR (k : BitVec 3) (am : BitVec 4)
  deriving DecidableEq, Repr

/-- Access widths of a load or store (R166): 4, 8 or 16 bytes. -/
inductive AWidth where
  | w4 | w8 | w16
  deriving DecidableEq, Repr

/-- One access of a paired-form word (R166): base register A0–A7, D register, and the PM field. -/
structure PairAcc where
  store : Bool
  w     : AWidth
  an    : BitVec 3
  dr    : BitVec 6
  pm    : BitVec 2
  deriving DecidableEq, Repr

/-- The conditions of CMP and CMPI (R165). -/
inductive Cond where
  | eq | ne | lt | le | ltu | leu | gt | ge
  deriving DecidableEq, Repr

/-- The operands of MAC and MSU (layout MA of R165). -/
structure MacArgs where
  acc  : BitVec 3
  da   : BitVec 6
  db   : BitVec 6
  psh  : BitVec 2
  dual : Bool
  clr  : Bool
  deriving DecidableEq, Repr

/-- Who makes a bus or register access: the bus masters of R230 and, beside them, the QSPI slave and
the JTAG debug port. -/
inductive Master where
  | clus (c : Nat) | oryx | eq | delay | ring | port | dma (e : Nat)
  | pcie | mgmt | qspi | jtag
  deriving DecidableEq, Repr

/-- One access at a register page, table window or memory: the internal address, the width in bytes,
the byte enables (bit b enables byte b) and, for a write, the data (lowest byte first in the word). -/
structure Access where
  addr    : Nat
  size    : Nat
  enables : BitVec 8
  data    : DWord
  by_     : Master
  deriving DecidableEq, Repr

/-- The fields of a marker body beyond TYPE, SYNC and the type-specific word are inside the body:
a control block body as received, body bit 0 the most significant bit (R243, R245). -/
abbrev Body := BitVec 254

/-- A cell as it arrives: the fields of its body (R280, R283). -/
structure Cell where
  stream  : BitVec 12
  sub     : Bool
  wrap    : Bool
  samples : List Word
  ocrc    : BitVec 16
  deriving DecidableEq, Repr

/-- How a PCIe reset came (R58, reset table). -/
inductive PcieReset where
  | perst | hotReset | linkDown
  deriving DecidableEq, Repr

/-- The results of an I²C transaction (R67, R68). -/
inductive I2cResult where
  | ok | addrNack | dataNack | busStuck
  deriving DecidableEq, Repr

/-- Why a core stops for debug (R161). -/
inductive HaltCause where
  | request | bp0 | bp1 | step
  deriving DecidableEq, Repr

/-- What the host sets up in the configuration space of the PCIe endpoint: Bus Master Enable, MSI-X Enable and
Function Mask of the MSI-X capability, and the bases of BAR0, BAR2 and BAR4 (R30, R52, R57). -/
structure PcieCfg where
  busMaster : Bool
  msixEn    : Bool
  fnMask    : Bool
  bar0      : Nat
  bar2      : Nat
  bar4      : Nat
  deriving DecidableEq, Repr

/-- The sensed voltage and current of an amplifier channel, decimated to Fs (R365). -/
structure SensePair where
  chan : Nat
  v    : Word
  i    : Word
  deriving DecidableEq, Repr

/-- A QSPI frame that is no Write or Status frame (R60): its command byte, 0x0B for a Read frame, and how many
wait bytes would pass before the data of a read is ready. -/
structure QspiFrame where
  cmd   : Byte
  waits : Nat
  deriving DecidableEq, Repr

/-- The input pins of R417 by what terminates or pulls them: lane and PCIe receive pairs, port inputs, sense and boost
inputs, XO_IN, the reference inputs (WCLK_IN, REF10M_IN, PPS_IN), RESET_N; TCK, TMS and TDI; TRST_N. -/
inductive InPin where
  | receive | port | sense | xo | reference | resetN | jtag | trstN
  deriving DecidableEq, Repr

/-- The pins that carry a level of their own (R416, R417): clock outputs, PPS_OUT, the bypass controls of
rings A and B, interrupts, GPIO, the four gates of an amplifier channel (HA, LA, HB, LB), its group's
driver enable, a boost gate, the outputs of an audio port (TXBCLK, TXFS, DOUT, RXBCLK, RXFS; BCLK, WS and DOUT of
I²S are 0 to 2), a lane's transmit pair; PCIE_TX; SCL and SDA of an I²C master; the pins of the QSPI slave and of the
flash master (0 is CS_N, 1 SCK, then IO0 to IO3); TDO; the inputs of a kind; and every other signal pin. -/
inductive Pin where
  | mclkOut (n : Nat)
  | wclkOut (n : Nat)
  | ppsOut
  | bypCtl (ringB : Bool)
  | irqN (m : Nat)
  | gpio (n : Nat)
  | ampGate (chan leg : Nat)
  | ampDrvEn (g : Nat)
  | boostGate (k : Nat)
  | portOut (port role : Nat)
  | laneTx (n : Nat)
  | pcieTx (n : Nat)
  | i2c (m : Nat) (sda : Bool)
  | qspi (master : Bool) (n : Nat)
  | tdo
  | input (kind : InPin) (n : Nat)
  | other (n : Nat)
  deriving DecidableEq, Repr

/-- One pin's level under boundary scan (R70). -/
structure PinLevel where
  pin   : Pin
  level : Bool
  deriving DecidableEq, Repr

/-- What one frame brought at the receive pins (R342, R353): its length in bit clocks, the bits at DIN, bit `k` being
that of bit clock `k` from its FS active edge on, the time from its last bit to the next Fs tick in 1/64 frame, the
measured frame rate relative to Fs in 2^-8 ppb (R354), and the ROOT_CLK periods since its FS active edge. -/
structure RxFrame where
  len   : Nat
  din   : Nat
  frac  : Nat
  rate  : Int
  since : Nat
  deriving DecidableEq, Repr

/-- The commands of the NQ40, one per row of the opcode table. -/
inductive Instr where
  -- reset, root clock, boot, frame timing
  | resetNLow (ns : Nat)
  | resetNRise
  | rootPllLock
  | rootUnlock
  | xoLoss
  | bootReady (vcoreMv : Nat)
  | devRst (key : Word)
  | devRstRelease
  | fsSelWrite (value : Word)
  | fsChangeApply
  | mclkSelApply
  | nominalCycleStart
  | fsTick (sense : List SensePair)
  | passStart (pass : Nat)
  | clusterPassOverrun (pass : Nat)
  -- register pages, tables, commit
  | registerWrite (acc : Access)
  | tableWrite (acc : Access)
  | softRst (page : Nat)
  | sync (page : Nat)
  | syncDone (page : Nat)
  | irqForce (page : Nat) (bits : Word)
  | pageLock (page : Nat)
  | commitGo (ctrl : Word)
  | commitAbort (ctrl : Word)
  | commitValidationDone
  | commitApply
  | vectorAssert (v : Nat)
  | vecEoi (reg : Nat) (bits : Word)
  -- PCIe and QSPI
  | pcieReset (kind : PcieReset)
  | dstateChange (d3 : Bool)
  | qspiWrite (addr : Word) (cnt : Byte) (words : List Word)
  | qspiRead (addr : Word) (cnt : Byte) (frame : QspiFrame)
  | qspiStatus
  -- management controller mailbox
  | getVersion (len tag : Byte)
  | getUid (len tag : Byte)
  | flashRead (len tag : Byte)
  | flashWrite (len tag : Byte)
  | flashErase (len tag : Byte)
  | imageVerify (len tag : Byte)
  | imageSetPref (len tag : Byte)
  | imageSwitch (len tag : Byte)
  | thermalRead (len tag : Byte)
  | thermalSetAlarm (len tag : Byte)
  | debugChallenge (len tag : Byte)
  | debugResponse (len tag : Byte)
  | debugKeyProgram (len tag : Byte)
  | rollbackAdvance (len tag : Byte)
  | mbxCommandEnd (verdict : Bool)
  | watchdogRestart
  | controllerRestartDone
  -- GPIO, I²C, boundary scan
  | gpioSet (bits : Word)
  | gpioClr (bits : Word)
  | gpioEdge (pin : Nat) (level : Bool)
  | i2cGo (m : Nat) (cmd : Word)
  | i2cTransactionEnd (m : Nat) (result : I2cResult) (wrDone : Nat) (rdata : List Byte)
  | stretchTmo (m : Nat) (wrDone : Nat) (rdata : List Byte)
  | extest (on : Bool) (drive : List PinLevel)
  -- frame path registers, Signal Plane, clip counter
  | frameCfgWrite (value : Word)
  | signalPlaneWrite (acc : Access) (core : Nat)
  | clipDataRead
  -- Ibex cluster frames
  | stageInStart (c : Nat)
  | coreFrameStart (c : Nat)
  | stageOutStart (c : Nat)
  | stageOutDone (c : Nat)
  | frameBarrierReached (n : Nat)
  | coreOverrun (n : Nat)
  | interruptEntry (n : Nat)
  | doorbell (n : Nat) (value : Word)
  | csyncRelease (c : Nat)
  | ibexEccWriteback (addr : Nat)
  -- Ibex instructions
  | nop (at_ : Issue)
  | mac (at_ : Issue) (a : MacArgs)
  | msu (at_ : Issue) (a : MacArgs)
  | mova (at_ : Issue) (acc : BitVec 3) (dx : BitVec 6) (sh : BitVec 6)
  | ext (at_ : Issue) (dd : BitVec 6) (acc : BitVec 3) (sh : BitVec 5)
  | extd (at_ : Issue) (dd : BitVec 6) (acc : BitVec 3) (sh : BitVec 5)
  | mul (at_ : Issue) (dd da db : BitVec 6)
  | divs (at_ : Issue) (acc : BitVec 3) (dq dy : BitVec 6)
  | divq (at_ : Issue) (acc : BitVec 3) (dq dx dy : BitVec 6)
  | add (at_ : Issue) (dd da db : BitVec 6)
  | sub (at_ : Issue) (dd da db : BitVec 6)
  | adds (at_ : Issue) (dd da db : BitVec 6)
  | subs (at_ : Issue) (dd da db : BitVec 6)
  | and (at_ : Issue) (dd da db : BitVec 6)
  | or (at_ : Issue) (dd da db : BitVec 6)
  | xor (at_ : Issue) (dd da db : BitVec 6)
  | shli (at_ : Issue) (dd da : BitVec 6) (n : BitVec 5)
  | shri (at_ : Issue) (dd da : BitVec 6) (n : BitVec 5)
  | srai (at_ : Issue) (dd da : BitVec 6) (n : BitVec 5)
  | addi (at_ : Issue) (dd da : BitVec 6) (imm : BitVec 12)
  | mov (at_ : Issue) (dd da : BitVec 6)
  | movi (at_ : Issue) (dd : BitVec 6) (imm : BitVec 18)
  | movhi (at_ : Issue) (dd : BitVec 6) (imm : BitVec 16)
  | abs (at_ : Issue) (dd da : BitVec 6)
  | neg (at_ : Issue) (dd da : BitVec 6)
  | min (at_ : Issue) (dd da db : BitVec 6)
  | max (at_ : Issue) (dd da db : BitVec 6)
  | cmp (at_ : Issue) (pd : BitVec 3) (c : Cond) (da db : BitVec 6)
  | cmpi (at_ : Issue) (pd : BitVec 3) (c : Cond) (da : BitVec 6) (imm : BitVec 12)
  | ld (at_ : Issue) (w : AWidth) (dr : BitVec 6) (an : BitVec 4) (mode : AMode)
  | st (at_ : Issue) (w : AWidth) (dr : BitVec 6) (an : BitVec 4) (mode : AMode)
  | lda (at_ : Issue) (ar an : BitVec 4) (mode : AMode)
  | sta (at_ : Issue) (ar an : BitVec 4) (mode : AMode)
  | pairedAccess (at_ : Issue) (a0 a1 : Option PairAcc)
  | aaddi (at_ : Issue) (an : BitVec 4) (imm : BitVec 17)
  | aadd (at_ : Issue) (an am : BitVec 4)
  | amovi (at_ : Issue) (an : BitVec 4) (imm : BitVec 17)
  | amovhi (at_ : Issue) (an : BitVec 4) (imm : BitVec 16)
  | amov (at_ : Issue) (an : BitVec 4) (dm : BitVec 6)
  | rda (at_ : Issue) (dd : BitVec 6) (an : BitVec 4)
  | br (at_ : Issue) (target : BitVec 12)
  | brl (at_ : Issue) (an : BitVec 4) (target : BitVec 12)
  | brr (at_ : Issue) (an : BitVec 4)
  | reti (at_ : Issue)
  | swi (at_ : Issue)
  | rep (at_ : Issue) (len : BitVec 4) (count : BitVec 6)
  | loop (at_ : Issue) (len : BitVec 6)
  | fbar (at_ : Issue)
  | csync (at_ : Issue)
  | mfsr (at_ : Issue) (dd : BitVec 6) (srn : BitVec 6)
  | mtsr (at_ : Issue) (dm : BitVec 6) (srn : BitVec 6)
  | mtsri (at_ : Issue) (imm : BitVec 16) (srn : BitVec 6)
  | plog (at_ : Issue) (pd pa pb : BitVec 3) (tt : BitVec 4)
  | reservedEncodingIssue (at_ : Issue)
  -- Ibex debug and migration
  | haltReq (n : Nat)
  | coreHalted (n : Nat) (cause : HaltCause)
  | resume (n : Nat)
  | step (n : Nat)
  | migStart (c : Nat) (source : BitVec 2)
  | migrationCopyStart (c : Nat)
  | migFollowing (c : Nat)
  | migCancel (c : Nat) (cause : Byte)
  -- Store, bus, DMA
  | storeEccWriteback (addr : Nat)
  | busTransaction (by_ : Master) (write : Bool) (addr : Nat) (bytes : List Byte) (strobes : List Bool)
      (qos : BitVec 4) (core : Nat) (inL0 : Bool)
  | busRetry (by_ : Master) (inL0 : Bool)
  | sliceCtrlWrite (value : Word)
  | zfill (bits : Word)
  | zfillDone (bank : Nat)
  | scrubPassStart
  | scrubPassEnd
  | scrubLate
  | dmaDescriptorStart (e : Nat)
  | dmaDescriptorDone (e : Nat) (busErr : Bool) (moved : Nat)
  | dmaTimeout (e : Nat) (moved : Nat)
  -- lanes: received blocks
  | markerReceive (lane : Nat) (body : Body) (arrive : Nat)
  | markerMissing (lane : Nat)
  | idleReceive (lane : Nat) (body : Body)
  | serviceReceive (lane : Nat) (body : Body) (arrive : Nat)
  | ts1Receive (lane : Nat) (body : Body)
  | ts2Receive (lane : Nat) (body : Body)
  | loopTestReceive (lane : Nat) (body : Body)
  | invalidHeader (lane : Nat)
  -- lanes: training
  | retrain (lane : Nat)
  | laneEnable (lane : Nat) (en : Bool)
  | laneTrainGranted (lane : Nat)
  | trainPhaseAdvance (lane : Nat)
  | confirmCountDone (lane : Nat)
  | trainPhaseTimeout (lane : Nat)
  | trainTotalTimeout (lane : Nat)
  | backoffExpiry (lane : Nat)
  | energyDetect (lane : Nat)
  | beaconBurst (lane : Nat)
  | spurHuntTimeout (lane : Nat)
  -- lanes: tests
  | testCtrlWrite (lane : Nat) (value : Word)
  | chkRestart (lane : Nat)
  | chkBitsLoRead (lane : Nat)
  | injGo (lane : Nat) (value : Word)
  | injPeriod (lane : Nat)
  | ltSend (lane : Nat)
  | ltTimeout (lane : Nat)
  -- ring
  | cellReceive (trunk : Nat) (cell : Cell) (arrive : Nat)
  | spurCellReceive (spur : Nat) (cell : Cell) (arrive : Nat)
  | wrappedCellExpiry (trunk : Nat)
  | insSet (ringB : Bool)
  | insertionProceed (ringB : Bool)
  | insDone (ringB : Bool)
  | insFail (ringB : Bool)
  | insClear (ringB : Bool)
  | svcSend (port : Nat)
  | svcPop (port : Nat)
  | streamStatRead
  -- references and time
  | freqMeasurement (k : Nat) (raw : Word)
  | refActivityLoss (k : Nat)
  | soakComplete (k : Nat)
  | numFreqWrite (value : Word)
  | numPhaseWrite (value : Word)
  | dpllPhaseSample (err : Word)
  | dpllLocked
  | holdoverEvaluate
  | pstepGo (ctrl : Word)
  | pstepDone
  | align
  | alignDone
  | set
  | setDone
  | ntNowRead (at_ : Nat)
  | ppsInEdge (at_ : Nat)
  | ppsOutCycWrite (value : Word)
  -- scheduled actions
  | arm (k : Nat) (ctrl : Word)
  | disarm (k : Nat) (ctrl : Word)
  | schedCommit (k : Nat)
  | schedPortStart (k : Nat)
  | schedPhaseStep (k : Nat)
  | schedMute (k : Nat)
  | schedUnmute (k : Nat)
  | schedTrunkInsert (k : Nat)
  | schedUserEvent (k : Nat)
  -- audio ports
  | portStartWrite (groups : Word)
  | portStartTick
  | portRxFrame (port : Nat) (frame : RxFrame)
  | portTxFrame (port : Nat) (len frac : Nat) (rate : Int)
  | clkLoss (port : Nat) (tx : Bool)
  | maskImmWrite (port : Nat) (tx : Bool) (mask : Word)
  | portStop (port : Nat)
  -- amplifier and boost
  | senseSample (chan : Nat) (v i : Word)
  | carrierPeriod (chan : Nat)
  | ocpComparator (chan : Nat)
  | ampEnable (chan : Nat) (en : Bool)
  | probeStart (chan : Nat)
  | probeDone (chan : Nat) (meanV meanI : Word)
  | holdExpiry (chan : Nat)
  | attemptsClear (chan : Nat)
  | latchClr (chan : Nat)
  | probeReq (chan : Nat)
  | mute (chan : Nat) (on : Bool)
  | pilotWindowEnd (chan : Nat)
  | calGo (ctrl : Word)
  | calStepEnd
  | boostEnable (k : Nat) (en : Bool)
  | boostRiseGranted (k : Nat)
  | railReady (k : Nat)
  | railCfgWrite (k : Nat) (value : Word)
  | boostSwitchPeriod (k : Nat) (peak vsn : Nat)
  | railOv (k : Nat)
  | railUv (k : Nat)
  -- power, ledger, thermal, core supply
  | pwrReqGo (req : Word)
  | retSigDone
  | domainStopped
  | domainWakeGranted
  | domainWakeDone
  | ledgerGrant
  | ledgerTimeout (kind inst : Nat)
  | thermalSample (temps : List Int)
  | vcoreEvaluate (wantMv : Nat)
  | vcoreMove (acks : List Bool)
  -- later rows of the table
  | chkLocked (lane : Nat)
  | chkLockLost (lane : Nat)
  | refActivityReturn (k : Nat)
  | pcieLinkUp (speed : Nat) (x2 : Bool) (cfg : PcieCfg)
  | holdoverEstimatorMean
  | ntBit31Change (at_ : Nat)
  deriving DecidableEq, Repr

end Sys2Proof
end

