-- ==== Sys2Proof/Decode.lean ====
section
/-! DEFINITION. The command that a word spells by the bits of the command table. No row of the table
gives bits: the commands reach the block as accesses, pins and events, not as words. -/

namespace Sys2Proof

/-- The command of a word of `nbits` bits: none, since the table gives no row any bits. -/
def decodeTableWord (_nbits _w : Nat) : Option Instr := none

end Sys2Proof
end

