-- ==== Sys2Proof/Config.lean ====
section
/-! DEFINITION. What an implementation fixes and the spec leaves open: the free values. Each is a
constant without a body, so that nothing can be proved of a particular value; every statement about
one holds for whatever value it has. -/

namespace Sys2Proof.Config

/-- A free value: what the hardware puts where the spec states no value. Applied to a counter of the
state that each use advances (log entry 3). -/
opaque freeValue : Nat → DWord

/-- The interpolator of the amplifier path (R363) at a node Fs: its coefficient, in 2^-31, at a distance in sense
samples from its centre, the same before and after it (linear phase). The spec gives the response, not the
coefficients (log entry 98). -/
opaque interpTap : Nat → Nat → Int

/-- Whether a sample of the pilot tone (R379) at LEVEL and phase index F × n mod 614,400 is rounded up from its exact
value: the spec gives no rounding (log entry 98). -/
opaque pilotUp : Nat → Nat → Bool

/-- The modulation at which the sensed output voltage of a channel in PROBE is `mv` millivolts (R378), by a number
that stands for the load and the rail (log entry 37). -/
opaque probeDrive : Nat → Nat → DWord

/-- The line bits that a lane in far-end loopback has received in a cycle, as a number of whose bits the line's are
the lowest (R276): nothing in the machine determines them. -/
opaque receivedLine : Nat → Nat

/-- The natural frequency of the DPLL's loop at a bandwidth in 0.1 Hz, in 2^-40 per link cycle (R317): the spec gives
bandwidth and damping, and does not say which of a loop's bandwidths it means (log entry 30). -/
opaque loopRate : Nat → Nat

/-- The holdover estimate at a nominal start where fewer seconds have been recorded than R319 averages: 0 the
frequency, 1 the temperature (log entry 102). -/
opaque hoShort : Nat → Nat → DWord

/-- PAGE_CAP.BLOCK_CAP of a page: the spec leaves its bits to the chapters of the blocks, and none
defines any (log entry 6). -/
opaque blockCap : Nat → BitVec 24

/-- The 16 bytes of the device unique ID that GET_UID returns (R63): fixed per device. -/
opaque uid : Nat → Byte

/-- Where in its 256-byte header an image holds the magic value (R61): the byte offset, 0 to 252. -/
opaque magicAt : Fin 253

/-- Whether the body of an image matches the SHA-256 hash in its header (R61), by the bytes of its slot that
are not erased. -/
opaque bodyHashOk : List (Nat × Byte) → Bool

/-- Whether the ECDSA P-256 signature over header bytes 0 to 127 verifies against an unrevoked key whose hash
OTP holds (R61), by the 256 header bytes. -/
opaque headerSigned : List Byte → Bool

/-- The security version that an image header holds (R61). -/
opaque securityVersion : List Byte → Nat

/-- The version of an image that GET_VERSION returns (R63), by its header. -/
opaque imageVersion : List Byte → Nat

/-- Whether a 64-byte signature over the SHA-256 hash of a nonce, the UID and a debug level verifies against the
customer debug key under ECDSA P-256 (R71): key, nonce, UID, level, signature. -/
opaque debugVerifies : List Byte → List Byte → List Byte → Nat → List Byte → Bool

/-- The subsystem vendor and device ID that the flash configuration block gives (R57), by its bytes that are
not erased. -/
opaque subsystemIds : List (Nat × Byte) → BitVec 32

/-- The PMBus address of the VDD_CORE regulator that the flash configuration block gives (R424). -/
opaque regulatorAddr : List (Nat × Byte) → BitVec 7

end Sys2Proof.Config
end

