-- ==== Sys2Proof/Machine/RegMap.lean ====
section
/-! DEFINITION. The register fields of every page, written from the register tables of the spec's
chapters 01 to 15: for each field its page offset, lowest bit, width, reset value and access type
(R36), and for each block the list of its registers. A field of a replicated register is a function
of the index in the register's name. -/

namespace Sys2Proof.Machine

/-- The access types of R36. -/
inductive Ty where
  | rw | rws | ro | wo | w1c | w1s | rc
  deriving DecidableEq, Repr

/-- One field of a register page: offset of its register in the page, lowest bit, width, reset
value, access type. -/
structure Fld where
  off : Nat
  lo  : Nat
  w   : Nat
  rst : Nat
  ty  : Ty
  deriving DecidableEq, Repr

/-- One register of a map, or `count` of them `stride` bytes apart; `flds` are the fields of the
first. -/
structure RegD where
  off    : Nat
  stride : Nat
  count  : Nat
  flds   : List Fld
  deriving DecidableEq, Repr

/-! ### The common page header (spec chapter 02) -/

def HDR.PAGE_ID.LAYOUT : Fld := ⟨0x0, 0, 8, 1, .ro⟩
def HDR.PAGE_ID.INSTANCE : Fld := ⟨0x0, 8, 8, 0, .ro⟩
def HDR.PAGE_ID.BLOCK_TYPE : Fld := ⟨0x0, 16, 16, 0, .ro⟩
def HDR.PAGE_CAP.SHADOW : Fld := ⟨0x4, 0, 1, 0, .ro⟩
def HDR.PAGE_CAP.TABLES : Fld := ⟨0x4, 1, 1, 0, .ro⟩
def HDR.PAGE_CAP.DOMAIN : Fld := ⟨0x4, 4, 4, 0, .ro⟩
def HDR.PAGE_CAP.BLOCK_CAP : Fld := ⟨0x4, 8, 24, 0, .ro⟩
def HDR.PAGE_CTRL.EN : Fld := ⟨0x8, 0, 1, 0, .rw⟩
def HDR.PAGE_CTRL.SOFT_RST : Fld := ⟨0x8, 1, 1, 0, .w1s⟩
def HDR.PAGE_CTRL.VIEW : Fld := ⟨0x8, 4, 1, 0, .rw⟩
def HDR.PAGE_CTRL.SYNC : Fld := ⟨0x8, 5, 1, 0, .w1s⟩
def HDR.PAGE_CTRL.COMMIT_GROUP : Fld := ⟨0x8, 12, 3, 0, .rw⟩
def HDR.PAGE_STAT.READY : Fld := ⟨0xc, 0, 1, 0, .ro⟩
def HDR.PAGE_STAT.BUSY : Fld := ⟨0xc, 1, 1, 0, .ro⟩
def HDR.PAGE_STAT.DOMAIN_STATE : Fld := ⟨0xc, 2, 2, 0, .ro⟩
def HDR.PAGE_STAT.ERR : Fld := ⟨0xc, 8, 1, 0, .ro⟩
def HDR.IRQ_RAW.RAW : Fld := ⟨0x10, 0, 32, 0, .w1c⟩
def HDR.IRQ_EN.EN : Fld := ⟨0x14, 0, 32, 0, .rw⟩
def HDR.IRQ_PEND.PEND : Fld := ⟨0x18, 0, 32, 0, .ro⟩
def HDR.IRQ_FORCE.FORCE : Fld := ⟨0x1c, 0, 32, 0, .wo⟩
def HDR.SET_STAT.ACTIVE_SET : Fld := ⟨0x20, 0, 1, 0, .ro⟩
def HDR.SET_STAT.SHADOW_DIRTY : Fld := ⟨0x20, 1, 1, 0, .ro⟩
def HDR.SET_STAT.COMMIT_PENDING : Fld := ⟨0x20, 2, 1, 0, .ro⟩
def HDR.SET_STAT.DEFERRED : Fld := ⟨0x20, 3, 1, 0, .ro⟩
def HDR.ERR_COUNT.COUNT : Fld := ⟨0x24, 0, 16, 0, .rc⟩
def HDR.ERR_LAST.NT_STAMP : Fld := ⟨0x28, 0, 24, 0, .ro⟩
def HDR.ERR_LAST.CODE : Fld := ⟨0x28, 24, 8, 0, .ro⟩
def HDR.PAGE_LOCK.LOCK : Fld := ⟨0x2c, 0, 1, 0, .w1s⟩
def HDR.PAGE_LOCK.OVERRIDDEN : Fld := ⟨0x2c, 1, 1, 0, .ro⟩

/-- The registers of the common page header. -/
def HDR.regs : List RegD :=
  [⟨0x0, 0, 1, [HDR.PAGE_ID.LAYOUT, HDR.PAGE_ID.INSTANCE, HDR.PAGE_ID.BLOCK_TYPE]⟩,
   ⟨0x4, 0, 1, [HDR.PAGE_CAP.SHADOW, HDR.PAGE_CAP.TABLES, HDR.PAGE_CAP.DOMAIN,
      HDR.PAGE_CAP.BLOCK_CAP]⟩,
   ⟨0x8, 0, 1, [HDR.PAGE_CTRL.EN, HDR.PAGE_CTRL.SOFT_RST, HDR.PAGE_CTRL.VIEW, HDR.PAGE_CTRL.SYNC,
      HDR.PAGE_CTRL.COMMIT_GROUP]⟩,
   ⟨0xc, 0, 1, [HDR.PAGE_STAT.READY, HDR.PAGE_STAT.BUSY, HDR.PAGE_STAT.DOMAIN_STATE,
      HDR.PAGE_STAT.ERR]⟩,
   ⟨0x10, 0, 1, [HDR.IRQ_RAW.RAW]⟩, ⟨0x14, 0, 1, [HDR.IRQ_EN.EN]⟩,
   ⟨0x18, 0, 1, [HDR.IRQ_PEND.PEND]⟩, ⟨0x1c, 0, 1, [HDR.IRQ_FORCE.FORCE]⟩,
   ⟨0x20, 0, 1, [HDR.SET_STAT.ACTIVE_SET, HDR.SET_STAT.SHADOW_DIRTY, HDR.SET_STAT.COMMIT_PENDING,
      HDR.SET_STAT.DEFERRED]⟩,
   ⟨0x24, 0, 1, [HDR.ERR_COUNT.COUNT]⟩,
   ⟨0x28, 0, 1, [HDR.ERR_LAST.NT_STAMP, HDR.ERR_LAST.CODE]⟩,
   ⟨0x2c, 0, 1, [HDR.PAGE_LOCK.LOCK, HDR.PAGE_LOCK.OVERRIDDEN]⟩]

/-! ### CLK page (spec chapter 01) -/

def CLK.CLK_CTRL.FS_SEL : Fld := ⟨0x40, 0, 2, 1, .rw⟩
def CLK.CLK_STAT.ROOT_LOCK : Fld := ⟨0x44, 0, 1, 0, .ro⟩
def CLK.CLK_STAT.XO_ACTIVE : Fld := ⟨0x44, 1, 1, 0, .ro⟩
def CLK.CLK_STAT.FS_ACTIVE : Fld := ⟨0x44, 2, 2, 1, .ro⟩
def CLK.MCLK_CTRL.MCLK_SEL (i : Nat) : Fld := ⟨0x48, 2 * i, 2, 0, .rw⟩
def CLK.WCLK_CTRL.WCLK_SEL (i : Nat) : Fld := ⟨0x4c, 2 * i, 2, 0, .rw⟩

/-- The registers of the CLK page. -/
def CLK.regs : List RegD :=
  [⟨0x40, 0, 1, [CLK.CLK_CTRL.FS_SEL]⟩,
   ⟨0x44, 0, 1, [CLK.CLK_STAT.ROOT_LOCK, CLK.CLK_STAT.XO_ACTIVE, CLK.CLK_STAT.FS_ACTIVE]⟩,
   ⟨0x48, 0, 1, [CLK.MCLK_CTRL.MCLK_SEL 0, CLK.MCLK_CTRL.MCLK_SEL 1, CLK.MCLK_CTRL.MCLK_SEL 2, CLK.MCLK_CTRL.MCLK_SEL 3, CLK.MCLK_CTRL.MCLK_SEL 4, CLK.MCLK_CTRL.MCLK_SEL 5, CLK.MCLK_CTRL.MCLK_SEL 6, CLK.MCLK_CTRL.MCLK_SEL 7]⟩,
   ⟨0x4c, 0, 1, [CLK.WCLK_CTRL.WCLK_SEL 0, CLK.WCLK_CTRL.WCLK_SEL 1]⟩]

/-! ### DEV page (spec chapter 02) -/

def DEV.COMMIT_CTRL.GROUP_MASK : Fld := ⟨0x40, 0, 8, 0, .rw⟩
def DEV.COMMIT_CTRL.TIMING : Fld := ⟨0x40, 8, 2, 0, .rw⟩
def DEV.COMMIT_CTRL.GO : Fld := ⟨0x40, 16, 1, 0, .w1s⟩
def DEV.COMMIT_CTRL.STRICT : Fld := ⟨0x40, 17, 1, 1, .rw⟩
def DEV.COMMIT_CTRL.ABORT : Fld := ⟨0x40, 18, 1, 0, .w1s⟩
def DEV.COMMIT_STAT.PENDING : Fld := ⟨0x44, 0, 1, 0, .ro⟩
def DEV.COMMIT_STAT.DONE : Fld := ⟨0x44, 1, 1, 0, .ro⟩
def DEV.COMMIT_STAT.LATE : Fld := ⟨0x44, 2, 1, 0, .ro⟩
def DEV.COMMIT_STAT.DEFERRED : Fld := ⟨0x44, 3, 1, 0, .ro⟩
def DEV.COMMIT_STAT.REFUSED : Fld := ⟨0x44, 4, 1, 0, .ro⟩
def DEV.COMMIT_STAT.ABORTED : Fld := ⟨0x44, 5, 1, 0, .ro⟩
def DEV.COMMIT_STAT.CODE : Fld := ⟨0x44, 8, 8, 0, .ro⟩
def DEV.COMMIT_STAT.DEFER_FRAMES : Fld := ⟨0x44, 16, 16, 0, .ro⟩
def DEV.COMMIT_SEQ.SEQ : Fld := ⟨0x48, 0, 32, 0, .ro⟩
def DEV.COMMIT_CYCLE.CYCLE : Fld := ⟨0x4c, 0, 32, 0, .rw⟩
def DEV.COMMIT_TIME.TIME : Fld := ⟨0x50, 0, 32, 0, .rw⟩
def DEV.COMMIT_DETAIL.PAGE : Fld := ⟨0x54, 0, 8, 0, .ro⟩
def DEV.COMMIT_DETAIL.INDEX : Fld := ⟨0x54, 8, 17, 0, .ro⟩
def DEV.COMMIT_DONE_CYCLE.CYCLE : Fld := ⟨0x58, 0, 32, 0, .ro⟩
def DEV.DEV_RST.KEY : Fld := ⟨0x60, 0, 32, 0, .wo⟩
def DEV.UNMAPPED_COUNT.COUNT : Fld := ⟨0x64, 0, 16, 0, .rc⟩
def DEV.DBG_STAT.LEVEL : Fld := ⟨0x68, 0, 2, 0, .ro⟩
def DEV.DBG_STAT.KEY_SET : Fld := ⟨0x68, 2, 1, 0, .ro⟩

/-- The registers of the DEV page. -/
def DEV.regs : List RegD :=
  [⟨0x40, 0, 1, [DEV.COMMIT_CTRL.GROUP_MASK, DEV.COMMIT_CTRL.TIMING, DEV.COMMIT_CTRL.GO, DEV.COMMIT_CTRL.STRICT, DEV.COMMIT_CTRL.ABORT]⟩,
   ⟨0x44, 0, 1, [DEV.COMMIT_STAT.PENDING, DEV.COMMIT_STAT.DONE, DEV.COMMIT_STAT.LATE, DEV.COMMIT_STAT.DEFERRED, DEV.COMMIT_STAT.REFUSED, DEV.COMMIT_STAT.ABORTED, DEV.COMMIT_STAT.CODE, DEV.COMMIT_STAT.DEFER_FRAMES]⟩,
   ⟨0x48, 0, 1, [DEV.COMMIT_SEQ.SEQ]⟩,
   ⟨0x4c, 0, 1, [DEV.COMMIT_CYCLE.CYCLE]⟩,
   ⟨0x50, 0, 1, [DEV.COMMIT_TIME.TIME]⟩,
   ⟨0x54, 0, 1, [DEV.COMMIT_DETAIL.PAGE, DEV.COMMIT_DETAIL.INDEX]⟩,
   ⟨0x58, 0, 1, [DEV.COMMIT_DONE_CYCLE.CYCLE]⟩,
   ⟨0x60, 0, 1, [DEV.DEV_RST.KEY]⟩,
   ⟨0x64, 0, 1, [DEV.UNMAPPED_COUNT.COUNT]⟩,
   ⟨0x68, 0, 1, [DEV.DBG_STAT.LEVEL, DEV.DBG_STAT.KEY_SET]⟩]

/-! ### IRQ page (spec chapter 02) -/

def IRQ.IRQ_SUMMARY.PAGES (k : Nat) : Fld := ⟨0x40 + 4 * k, 0, 32, 0, .ro⟩
def IRQ.VEC_PEND0.PEND : Fld := ⟨0x60, 0, 32, 0, .ro⟩
def IRQ.VEC_PEND1.PEND : Fld := ⟨0x64, 0, 32, 0, .ro⟩
def IRQ.VEC_INSVC0.INSVC : Fld := ⟨0x68, 0, 32, 0, .ro⟩
def IRQ.VEC_INSVC1.INSVC : Fld := ⟨0x6c, 0, 32, 0, .ro⟩
def IRQ.VEC_EOI0.EOI : Fld := ⟨0x70, 0, 32, 0, .wo⟩
def IRQ.VEC_EOI1.EOI : Fld := ⟨0x74, 0, 32, 0, .wo⟩
def IRQ.IRQ_MAP.VEC (k : Nat) (i : Nat) : Fld := ⟨0x100 + 4 * k, 8 * i, 6, 0, .rw⟩
def IRQ.IRQ_MAP.EN (k : Nat) (i : Nat) : Fld := ⟨0x100 + 4 * k, 7 + 8 * i, 1, 0, .rw⟩
def IRQ.VEC_PIN.PINS (k : Nat) (i : Nat) : Fld := ⟨0x200 + 4 * k, 4 * i, 4, 0, .rw⟩
def IRQ.VEC_NT.NT (k : Nat) : Fld := ⟨0x400 + 4 * k, 0, 32, 0, .ro⟩

/-- The registers of the IRQ page. -/
def IRQ.regs : List RegD :=
  [⟨0x40, 4, 8, [IRQ.IRQ_SUMMARY.PAGES 0]⟩,
   ⟨0x60, 0, 1, [IRQ.VEC_PEND0.PEND]⟩,
   ⟨0x64, 0, 1, [IRQ.VEC_PEND1.PEND]⟩,
   ⟨0x68, 0, 1, [IRQ.VEC_INSVC0.INSVC]⟩,
   ⟨0x6c, 0, 1, [IRQ.VEC_INSVC1.INSVC]⟩,
   ⟨0x70, 0, 1, [IRQ.VEC_EOI0.EOI]⟩,
   ⟨0x74, 0, 1, [IRQ.VEC_EOI1.EOI]⟩,
   ⟨0x100, 4, 64, [IRQ.IRQ_MAP.VEC 0 0, IRQ.IRQ_MAP.VEC 0 1, IRQ.IRQ_MAP.VEC 0 2, IRQ.IRQ_MAP.VEC 0 3, IRQ.IRQ_MAP.EN 0 0, IRQ.IRQ_MAP.EN 0 1, IRQ.IRQ_MAP.EN 0 2, IRQ.IRQ_MAP.EN 0 3]⟩,
   ⟨0x200, 4, 8, [IRQ.VEC_PIN.PINS 0 0, IRQ.VEC_PIN.PINS 0 1, IRQ.VEC_PIN.PINS 0 2, IRQ.VEC_PIN.PINS 0 3, IRQ.VEC_PIN.PINS 0 4, IRQ.VEC_PIN.PINS 0 5, IRQ.VEC_PIN.PINS 0 6, IRQ.VEC_PIN.PINS 0 7]⟩,
   ⟨0x400, 4, 64, [IRQ.VEC_NT.NT 0]⟩]

/-! ### HOST page (spec chapter 02) -/

def HOST.HOST_STAT.SPEED : Fld := ⟨0x40, 0, 3, 0, .ro⟩
def HOST.HOST_STAT.WIDTH : Fld := ⟨0x40, 4, 2, 0, .ro⟩
def HOST.HOST_STAT.LINK_UP : Fld := ⟨0x40, 8, 1, 0, .ro⟩
def HOST.HOST_STAT.DSTATE : Fld := ⟨0x40, 9, 2, 0, .ro⟩
def HOST.HOST_STAT.BUS_MASTER : Fld := ⟨0x40, 12, 1, 0, .ro⟩
def HOST.OB_BASE_LO.ADDR_LO : Fld := ⟨0x48, 30, 2, 0, .rw⟩
def HOST.OB_BASE_HI.ADDR_HI : Fld := ⟨0x4c, 0, 32, 0, .rw⟩
def HOST.MSIX_ADDR_LO.ADDR (k : Nat) : Fld := ⟨0x800 + 16 * k, 2, 30, 0, .rw⟩
def HOST.MSIX_ADDR_HI.ADDR (k : Nat) : Fld := ⟨0x804 + 16 * k, 0, 32, 0, .rw⟩
def HOST.MSIX_DATA.DATA (k : Nat) : Fld := ⟨0x808 + 16 * k, 0, 32, 0, .rw⟩
def HOST.MSIX_CTRL.MASK (k : Nat) : Fld := ⟨0x80c + 16 * k, 0, 1, 1, .rw⟩
def HOST.MSIX_PBA0.PEND : Fld := ⟨0xc00, 0, 32, 0, .ro⟩
def HOST.MSIX_PBA1.PEND : Fld := ⟨0xc04, 0, 32, 0, .ro⟩

/-- The registers of the HOST page. -/
def HOST.regs : List RegD :=
  [⟨0x40, 0, 1, [HOST.HOST_STAT.SPEED, HOST.HOST_STAT.WIDTH, HOST.HOST_STAT.LINK_UP, HOST.HOST_STAT.DSTATE, HOST.HOST_STAT.BUS_MASTER]⟩,
   ⟨0x48, 0, 1, [HOST.OB_BASE_LO.ADDR_LO]⟩,
   ⟨0x4c, 0, 1, [HOST.OB_BASE_HI.ADDR_HI]⟩,
   ⟨0x800, 16, 64, [HOST.MSIX_ADDR_LO.ADDR 0]⟩,
   ⟨0x804, 16, 64, [HOST.MSIX_ADDR_HI.ADDR 0]⟩,
   ⟨0x808, 16, 64, [HOST.MSIX_DATA.DATA 0]⟩,
   ⟨0x80c, 16, 64, [HOST.MSIX_CTRL.MASK 0]⟩,
   ⟨0xc00, 0, 1, [HOST.MSIX_PBA0.PEND]⟩,
   ⟨0xc04, 0, 1, [HOST.MSIX_PBA1.PEND]⟩]

/-! ### MGMT page (spec chapter 02) -/

def MGMT.BOOT_STAT.READY : Fld := ⟨0x40, 0, 1, 0, .ro⟩
def MGMT.BOOT_STAT.RUN_SLOT : Fld := ⟨0x40, 1, 1, 0, .ro⟩
def MGMT.BOOT_STAT.MODE : Fld := ⟨0x40, 2, 2, 0, .ro⟩
def MGMT.BOOT_STAT.A_VALID : Fld := ⟨0x40, 4, 1, 0, .ro⟩
def MGMT.BOOT_STAT.B_VALID : Fld := ⟨0x40, 5, 1, 0, .ro⟩
def MGMT.BOOT_STAT.WDOG_COUNT : Fld := ⟨0x40, 8, 8, 0, .ro⟩
def MGMT.MBX_CMD.OPCODE : Fld := ⟨0x48, 0, 8, 0, .rw⟩
def MGMT.MBX_CMD.LEN : Fld := ⟨0x48, 8, 8, 0, .rw⟩
def MGMT.MBX_CMD.TAG : Fld := ⟨0x48, 16, 8, 0, .rw⟩
def MGMT.MBX_CMD.GO : Fld := ⟨0x48, 31, 1, 0, .w1s⟩
def MGMT.MBX_STAT.BUSY : Fld := ⟨0x4c, 0, 1, 0, .ro⟩
def MGMT.MBX_STAT.DONE : Fld := ⟨0x4c, 1, 1, 0, .ro⟩
def MGMT.MBX_STAT.STATUS : Fld := ⟨0x4c, 8, 8, 0, .ro⟩
def MGMT.MBX_STAT.TAG : Fld := ⟨0x4c, 16, 8, 0, .ro⟩
def MGMT.MBX_STAT.RLEN : Fld := ⟨0x4c, 24, 8, 0, .ro⟩
def MGMT.MBX_DATA.DATA (k : Nat) : Fld := ⟨0x100 + 4 * k, 0, 32, 0, .rw⟩

/-- The registers of the MGMT page. -/
def MGMT.regs : List RegD :=
  [⟨0x40, 0, 1, [MGMT.BOOT_STAT.READY, MGMT.BOOT_STAT.RUN_SLOT, MGMT.BOOT_STAT.MODE, MGMT.BOOT_STAT.A_VALID, MGMT.BOOT_STAT.B_VALID, MGMT.BOOT_STAT.WDOG_COUNT]⟩,
   ⟨0x48, 0, 1, [MGMT.MBX_CMD.OPCODE, MGMT.MBX_CMD.LEN, MGMT.MBX_CMD.TAG, MGMT.MBX_CMD.GO]⟩,
   ⟨0x4c, 0, 1, [MGMT.MBX_STAT.BUSY, MGMT.MBX_STAT.DONE, MGMT.MBX_STAT.STATUS, MGMT.MBX_STAT.TAG, MGMT.MBX_STAT.RLEN]⟩,
   ⟨0x100, 4, 64, [MGMT.MBX_DATA.DATA 0]⟩]

/-! ### GPIO page (spec chapter 02) -/

def GPIO.GPIO_DIR.DIR : Fld := ⟨0x40, 0, 32, 0, .rw⟩
def GPIO.GPIO_OUT.OUT : Fld := ⟨0x44, 0, 32, 0, .rw⟩
def GPIO.GPIO_SET.SET : Fld := ⟨0x48, 0, 32, 0, .wo⟩
def GPIO.GPIO_CLR.CLR : Fld := ⟨0x4c, 0, 32, 0, .wo⟩
def GPIO.GPIO_IN.IN : Fld := ⟨0x50, 0, 32, 0, .ro⟩
def GPIO.GPIO_OD.OD : Fld := ⟨0x54, 0, 32, 0, .rw⟩
def GPIO.GPIO_PD.PD : Fld := ⟨0x58, 0, 32, 4294967295, .rw⟩
def GPIO.GPIO_IRQ_MODE0.MODE (i : Nat) : Fld := ⟨0x5c, 2 * i, 2, 0, .rw⟩
def GPIO.GPIO_IRQ_MODE1.MODE (i : Nat) : Fld := ⟨0x60, 2 * i, 2, 0, .rw⟩

/-- The registers of the GPIO page. -/
def GPIO.regs : List RegD :=
  [⟨0x40, 0, 1, [GPIO.GPIO_DIR.DIR]⟩,
   ⟨0x44, 0, 1, [GPIO.GPIO_OUT.OUT]⟩,
   ⟨0x48, 0, 1, [GPIO.GPIO_SET.SET]⟩,
   ⟨0x4c, 0, 1, [GPIO.GPIO_CLR.CLR]⟩,
   ⟨0x50, 0, 1, [GPIO.GPIO_IN.IN]⟩,
   ⟨0x54, 0, 1, [GPIO.GPIO_OD.OD]⟩,
   ⟨0x58, 0, 1, [GPIO.GPIO_PD.PD]⟩,
   ⟨0x5c, 0, 1, [GPIO.GPIO_IRQ_MODE0.MODE 0, GPIO.GPIO_IRQ_MODE0.MODE 1, GPIO.GPIO_IRQ_MODE0.MODE 2, GPIO.GPIO_IRQ_MODE0.MODE 3, GPIO.GPIO_IRQ_MODE0.MODE 4, GPIO.GPIO_IRQ_MODE0.MODE 5, GPIO.GPIO_IRQ_MODE0.MODE 6, GPIO.GPIO_IRQ_MODE0.MODE 7, GPIO.GPIO_IRQ_MODE0.MODE 8, GPIO.GPIO_IRQ_MODE0.MODE 9, GPIO.GPIO_IRQ_MODE0.MODE 10, GPIO.GPIO_IRQ_MODE0.MODE 11, GPIO.GPIO_IRQ_MODE0.MODE 12, GPIO.GPIO_IRQ_MODE0.MODE 13, GPIO.GPIO_IRQ_MODE0.MODE 14, GPIO.GPIO_IRQ_MODE0.MODE 15]⟩,
   ⟨0x60, 0, 1, [GPIO.GPIO_IRQ_MODE1.MODE 0, GPIO.GPIO_IRQ_MODE1.MODE 1, GPIO.GPIO_IRQ_MODE1.MODE 2, GPIO.GPIO_IRQ_MODE1.MODE 3, GPIO.GPIO_IRQ_MODE1.MODE 4, GPIO.GPIO_IRQ_MODE1.MODE 5, GPIO.GPIO_IRQ_MODE1.MODE 6, GPIO.GPIO_IRQ_MODE1.MODE 7, GPIO.GPIO_IRQ_MODE1.MODE 8, GPIO.GPIO_IRQ_MODE1.MODE 9, GPIO.GPIO_IRQ_MODE1.MODE 10, GPIO.GPIO_IRQ_MODE1.MODE 11, GPIO.GPIO_IRQ_MODE1.MODE 12, GPIO.GPIO_IRQ_MODE1.MODE 13, GPIO.GPIO_IRQ_MODE1.MODE 14, GPIO.GPIO_IRQ_MODE1.MODE 15]⟩]

/-! ### I2CM page (spec chapter 02) -/

def I2CM.I2C_CFG.FAST : Fld := ⟨0x40, 0, 1, 0, .rw⟩
def I2CM.I2C_CMD.ADDR : Fld := ⟨0x44, 0, 7, 0, .rw⟩
def I2CM.I2C_CMD.WLEN : Fld := ⟨0x44, 8, 6, 0, .rw⟩
def I2CM.I2C_CMD.RLEN : Fld := ⟨0x44, 16, 6, 0, .rw⟩
def I2CM.I2C_CMD.GO : Fld := ⟨0x44, 24, 1, 0, .w1s⟩
def I2CM.I2C_STAT.BUSY : Fld := ⟨0x48, 0, 1, 0, .ro⟩
def I2CM.I2C_STAT.RESULT : Fld := ⟨0x48, 1, 3, 0, .ro⟩
def I2CM.I2C_STAT.WR_DONE : Fld := ⟨0x48, 8, 6, 0, .ro⟩
def I2CM.I2C_STAT.RD_DONE : Fld := ⟨0x48, 16, 6, 0, .ro⟩
def I2CM.I2C_TXDATA.BYTE (k : Nat) (i : Nat) : Fld := ⟨0x80 + 4 * k, 8 * i, 8, 0, .rw⟩
def I2CM.I2C_RXDATA.BYTE (k : Nat) (i : Nat) : Fld := ⟨0xa0 + 4 * k, 8 * i, 8, 0, .ro⟩

/-- The registers of the I2CM page. -/
def I2CM.regs : List RegD :=
  [⟨0x40, 0, 1, [I2CM.I2C_CFG.FAST]⟩,
   ⟨0x44, 0, 1, [I2CM.I2C_CMD.ADDR, I2CM.I2C_CMD.WLEN, I2CM.I2C_CMD.RLEN, I2CM.I2C_CMD.GO]⟩,
   ⟨0x48, 0, 1, [I2CM.I2C_STAT.BUSY, I2CM.I2C_STAT.RESULT, I2CM.I2C_STAT.WR_DONE, I2CM.I2C_STAT.RD_DONE]⟩,
   ⟨0x80, 4, 8, [I2CM.I2C_TXDATA.BYTE 0 0, I2CM.I2C_TXDATA.BYTE 0 1, I2CM.I2C_TXDATA.BYTE 0 2, I2CM.I2C_TXDATA.BYTE 0 3]⟩,
   ⟨0xa0, 4, 8, [I2CM.I2C_RXDATA.BYTE 0 0, I2CM.I2C_RXDATA.BYTE 0 1, I2CM.I2C_RXDATA.BYTE 0 2, I2CM.I2C_RXDATA.BYTE 0 3]⟩]

/-! ### FRAME page (spec chapter 03) -/

def FRAME.FRAME_CFG.N_LOG2 : Fld := ⟨0x40, 0, 3, 0, .rw⟩
def FRAME.FRAME_RUN.RUN : Fld := ⟨0x44, 0, 1, 0, .rws⟩
def FRAME.FRAME_STAT.RUNNING : Fld := ⟨0x48, 0, 1, 0, .ro⟩
def FRAME.FRAME_STAT.CAP_BUF : Fld := ⟨0x48, 1, 1, 0, .ro⟩
def FRAME.FRAME_STAT.PASS_COUNT : Fld := ⟨0x48, 8, 7, 0, .ro⟩
def FRAME.FRAME_INDEX.INDEX : Fld := ⟨0x4c, 0, 32, 0, .ro⟩
def FRAME.CRIT_PATH.FINISH : Fld := ⟨0x50, 0, 20, 0, .ro⟩
def FRAME.BUDGET.CYCLES : Fld := ⟨0x54, 0, 20, 8192, .ro⟩
def FRAME.SLACK_MIN.SLACK : Fld := ⟨0x58, 0, 20, 1048575, .rc⟩
def FRAME.OVERRUN_COUNT.COUNT : Fld := ⟨0x5c, 0, 16, 0, .rc⟩
def FRAME.DITHER_SEED.SEED : Fld := ⟨0x60, 0, 32, 0, .rws⟩
def FRAME.PASS_CTRL.TYPE (k : Nat) : Fld := ⟨0x100 + 8 * k, 0, 3, 0, .rws⟩
def FRAME.PASS_CTRL.CLUSTER (k : Nat) : Fld := ⟨0x100 + 8 * k, 3, 2, 0, .rws⟩
def FRAME.PASS_CTRL.FIRST (k : Nat) : Fld := ⟨0x100 + 8 * k, 8, 17, 0, .rws⟩
def FRAME.PASS_LAST.LAST (k : Nat) : Fld := ⟨0x104 + 8 * k, 0, 17, 0, .rws⟩
def FRAME.PASS_START.START (k : Nat) : Fld := ⟨0x400 + 4 * k, 0, 20, 0, .ro⟩
def FRAME.PASS_COST.COST (k : Nat) : Fld := ⟨0x500 + 4 * k, 0, 20, 0, .ro⟩
def FRAME.TG_CTRL.MODE (k : Nat) : Fld := ⟨0x600 + 16 * k, 0, 3, 0, .rws⟩
def FRAME.TG_CTRL.SIGNAL (k : Nat) : Fld := ⟨0x600 + 16 * k, 4, 14, 0, .rws⟩
def FRAME.TG_LEVEL.LEVEL (k : Nat) : Fld := ⟨0x604 + 16 * k, 0, 32, 0, .rws⟩
def FRAME.TG_INC.INC (k : Nat) : Fld := ⟨0x608 + 16 * k, 0, 32, 0, .rws⟩
def FRAME.TG_SEED.SEED (k : Nat) : Fld := ⟨0x60c + 16 * k, 0, 32, 0, .rws⟩

/-- The registers of the FRAME page. -/
def FRAME.regs : List RegD :=
  [⟨0x40, 0, 1, [FRAME.FRAME_CFG.N_LOG2]⟩,
   ⟨0x44, 0, 1, [FRAME.FRAME_RUN.RUN]⟩,
   ⟨0x48, 0, 1, [FRAME.FRAME_STAT.RUNNING, FRAME.FRAME_STAT.CAP_BUF, FRAME.FRAME_STAT.PASS_COUNT]⟩,
   ⟨0x4c, 0, 1, [FRAME.FRAME_INDEX.INDEX]⟩,
   ⟨0x50, 0, 1, [FRAME.CRIT_PATH.FINISH]⟩,
   ⟨0x54, 0, 1, [FRAME.BUDGET.CYCLES]⟩,
   ⟨0x58, 0, 1, [FRAME.SLACK_MIN.SLACK]⟩,
   ⟨0x5c, 0, 1, [FRAME.OVERRUN_COUNT.COUNT]⟩,
   ⟨0x60, 0, 1, [FRAME.DITHER_SEED.SEED]⟩,
   ⟨0x100, 8, 64, [FRAME.PASS_CTRL.TYPE 0, FRAME.PASS_CTRL.CLUSTER 0, FRAME.PASS_CTRL.FIRST 0]⟩,
   ⟨0x104, 8, 64, [FRAME.PASS_LAST.LAST 0]⟩,
   ⟨0x400, 4, 64, [FRAME.PASS_START.START 0]⟩,
   ⟨0x500, 4, 64, [FRAME.PASS_COST.COST 0]⟩,
   ⟨0x600, 16, 16, [FRAME.TG_CTRL.MODE 0, FRAME.TG_CTRL.SIGNAL 0]⟩,
   ⟨0x604, 16, 16, [FRAME.TG_LEVEL.LEVEL 0]⟩,
   ⟨0x608, 16, 16, [FRAME.TG_INC.INC 0]⟩,
   ⟨0x60c, 16, 16, [FRAME.TG_SEED.SEED 0]⟩]

/-! ### IBEX page (spec chapter 04, 05) -/

def IBEX.CORE_SR.SR : Fld := ⟨0x40, 0, 32, 0, .ro⟩
def IBEX.XOV_COUNT.COUNT : Fld := ⟨0x44, 0, 16, 0, .rc⟩
def IBEX.SAT_COUNT.COUNT : Fld := ⟨0x48, 0, 16, 0, .rc⟩
def IBEX.STALL_COUNT.COUNT : Fld := ⟨0x4c, 0, 32, 0, .rc⟩
def IBEX.STALL_FRAME_MAX.MAX : Fld := ⟨0x50, 0, 16, 0, .rc⟩
def IBEX.CORE_IRQ_STAT.SRC : Fld := ⟨0x54, 0, 4, 0, .ro⟩
def IBEX.CORE_IRQ_STAT.MASK : Fld := ⟨0x54, 8, 4, 0, .ro⟩
def IBEX.CORE_IRQ_STAT.IE : Fld := ⟨0x54, 16, 1, 0, .ro⟩
def IBEX.CORE_IRQ_STAT.INH : Fld := ⟨0x54, 17, 1, 0, .ro⟩
def IBEX.DOORBELL.RING : Fld := ⟨0x58, 0, 1, 0, .w1s⟩
def IBEX.IVEC.BUNDLE : Fld := ⟨0x5c, 0, 12, 0, .rws⟩
def IBEX.HOLDOFF_MAX.CYCLES : Fld := ⟨0x60, 0, 12, 0, .rc⟩
def IBEX.IRQ_COUNT.COUNT : Fld := ⟨0x64, 0, 16, 0, .rc⟩
def IBEX.CORE_CTRL.ENABLE : Fld := ⟨0x70, 0, 1, 0, .rws⟩
def IBEX.FENTRY.BUNDLE : Fld := ⟨0x74, 0, 12, 0, .rws⟩
def IBEX.DECL_WCET.CYCLES : Fld := ⟨0x78, 0, 20, 0, .rws⟩
def IBEX.PARAM_SEL.SEL : Fld := ⟨0x7c, 0, 8, 0, .rws⟩
def IBEX.CORE_STAT.STATE : Fld := ⟨0x80, 0, 2, 0, .ro⟩
def IBEX.CORE_STAT.IN_HANDLER : Fld := ⟨0x80, 2, 1, 0, .ro⟩
def IBEX.CORE_STAT.SWAP_PEND : Fld := ⟨0x80, 3, 1, 0, .ro⟩
def IBEX.CORE_STAT.FOLLOWER : Fld := ⟨0x80, 4, 1, 0, .ro⟩
def IBEX.FRAME_CYCLES.CYCLES : Fld := ⟨0x84, 0, 20, 0, .ro⟩
def IBEX.FRAME_CYCLES_MAX.CYCLES : Fld := ⟨0x88, 0, 20, 0, .rc⟩
def IBEX.CORE_OVR_COUNT.COUNT : Fld := ⟨0x8c, 0, 16, 0, .rc⟩
def IBEX.ECC_CORR_COUNT.COUNT : Fld := ⟨0x90, 0, 32, 0, .rc⟩
def IBEX.ECC_UNCORR_COUNT.COUNT : Fld := ⟨0x94, 0, 16, 0, .rc⟩
def IBEX.ECC_LAST.WORD : Fld := ⟨0x98, 2, 18, 0, .ro⟩
def IBEX.ECC_LAST.UNCORR : Fld := ⟨0x98, 31, 1, 0, .ro⟩
def IBEX.IN_SIG.FIRST (k : Nat) : Fld := ⟨0x100 + 8 * k, 0, 14, 0, .rws⟩
def IBEX.IN_SIG.COUNT (k : Nat) : Fld := ⟨0x100 + 8 * k, 16, 8, 0, .rws⟩
def IBEX.IN_SIG.VALID (k : Nat) : Fld := ⟨0x100 + 8 * k, 31, 1, 0, .rws⟩
def IBEX.OUT_SIG.FIRST (k : Nat) : Fld := ⟨0x200 + 8 * k, 0, 14, 0, .rws⟩
def IBEX.OUT_SIG.COUNT (k : Nat) : Fld := ⟨0x200 + 8 * k, 16, 8, 0, .rws⟩
def IBEX.OUT_SIG.VALID (k : Nat) : Fld := ⟨0x200 + 8 * k, 31, 1, 0, .rws⟩
def IBEX.IN_ADDR.ADDR (k : Nat) : Fld := ⟨0x104 + 8 * k, 0, 18, 0, .rws⟩
def IBEX.OUT_ADDR.ADDR (k : Nat) : Fld := ⟨0x204 + 8 * k, 0, 18, 0, .rws⟩
def IBEX.DBG_CTRL.HALT_REQ : Fld := ⟨0x300, 0, 1, 0, .w1s⟩
def IBEX.DBG_CTRL.RESUME : Fld := ⟨0x300, 1, 1, 0, .w1s⟩
def IBEX.DBG_CTRL.STEP : Fld := ⟨0x300, 2, 1, 0, .w1s⟩
def IBEX.DBG_CTRL.BP_EN (i : Nat) : Fld := ⟨0x300, 3 + 1 * i, 1, 0, .rw⟩
def IBEX.DBG_STAT.HALTED : Fld := ⟨0x304, 0, 1, 0, .ro⟩
def IBEX.DBG_STAT.CAUSE : Fld := ⟨0x304, 1, 2, 0, .ro⟩
def IBEX.DBG_BP0.BUNDLE : Fld := ⟨0x308, 0, 12, 0, .rw⟩
def IBEX.DBG_BP1.BUNDLE : Fld := ⟨0x30c, 0, 12, 0, .rw⟩
def IBEX.DBG_SEL.REG : Fld := ⟨0x310, 0, 8, 0, .rw⟩
def IBEX.DBG_DATA0.DATA : Fld := ⟨0x314, 0, 32, 0, .rw⟩
def IBEX.DBG_DATA1.DATA : Fld := ⟨0x318, 0, 32, 0, .rw⟩
def IBEX.DBG_DATA2.DATA : Fld := ⟨0x31c, 0, 32, 0, .rw⟩
def IBEX.ILL_INFO.BUNDLE : Fld := ⟨0x68, 0, 12, 0, .rc⟩
def IBEX.ILL_INFO.SLOT : Fld := ⟨0x68, 12, 2, 0, .rc⟩
def IBEX.ILL_INFO.VALID : Fld := ⟨0x68, 15, 1, 0, .rc⟩
def IBEX.ILL_INFO.COUNT : Fld := ⟨0x68, 16, 8, 0, .rc⟩

/-- The registers of the IBEX page. -/
def IBEX.regs : List RegD :=
  [⟨0x40, 0, 1, [IBEX.CORE_SR.SR]⟩,
   ⟨0x44, 0, 1, [IBEX.XOV_COUNT.COUNT]⟩,
   ⟨0x48, 0, 1, [IBEX.SAT_COUNT.COUNT]⟩,
   ⟨0x4c, 0, 1, [IBEX.STALL_COUNT.COUNT]⟩,
   ⟨0x50, 0, 1, [IBEX.STALL_FRAME_MAX.MAX]⟩,
   ⟨0x54, 0, 1, [IBEX.CORE_IRQ_STAT.SRC, IBEX.CORE_IRQ_STAT.MASK, IBEX.CORE_IRQ_STAT.IE, IBEX.CORE_IRQ_STAT.INH]⟩,
   ⟨0x58, 0, 1, [IBEX.DOORBELL.RING]⟩,
   ⟨0x5c, 0, 1, [IBEX.IVEC.BUNDLE]⟩,
   ⟨0x60, 0, 1, [IBEX.HOLDOFF_MAX.CYCLES]⟩,
   ⟨0x64, 0, 1, [IBEX.IRQ_COUNT.COUNT]⟩,
   ⟨0x70, 0, 1, [IBEX.CORE_CTRL.ENABLE]⟩,
   ⟨0x74, 0, 1, [IBEX.FENTRY.BUNDLE]⟩,
   ⟨0x78, 0, 1, [IBEX.DECL_WCET.CYCLES]⟩,
   ⟨0x7c, 0, 1, [IBEX.PARAM_SEL.SEL]⟩,
   ⟨0x80, 0, 1, [IBEX.CORE_STAT.STATE, IBEX.CORE_STAT.IN_HANDLER, IBEX.CORE_STAT.SWAP_PEND, IBEX.CORE_STAT.FOLLOWER]⟩,
   ⟨0x84, 0, 1, [IBEX.FRAME_CYCLES.CYCLES]⟩,
   ⟨0x88, 0, 1, [IBEX.FRAME_CYCLES_MAX.CYCLES]⟩,
   ⟨0x8c, 0, 1, [IBEX.CORE_OVR_COUNT.COUNT]⟩,
   ⟨0x90, 0, 1, [IBEX.ECC_CORR_COUNT.COUNT]⟩,
   ⟨0x94, 0, 1, [IBEX.ECC_UNCORR_COUNT.COUNT]⟩]
  ++ [⟨0x98, 0, 1, [IBEX.ECC_LAST.WORD, IBEX.ECC_LAST.UNCORR]⟩,
   ⟨0x100, 8, 32, [IBEX.IN_SIG.FIRST 0, IBEX.IN_SIG.COUNT 0, IBEX.IN_SIG.VALID 0]⟩,
   ⟨0x200, 8, 32, [IBEX.OUT_SIG.FIRST 0, IBEX.OUT_SIG.COUNT 0, IBEX.OUT_SIG.VALID 0]⟩,
   ⟨0x104, 8, 32, [IBEX.IN_ADDR.ADDR 0]⟩,
   ⟨0x204, 8, 32, [IBEX.OUT_ADDR.ADDR 0]⟩,
   ⟨0x300, 0, 1, [IBEX.DBG_CTRL.HALT_REQ, IBEX.DBG_CTRL.RESUME, IBEX.DBG_CTRL.STEP, IBEX.DBG_CTRL.BP_EN 0, IBEX.DBG_CTRL.BP_EN 1]⟩,
   ⟨0x304, 0, 1, [IBEX.DBG_STAT.HALTED, IBEX.DBG_STAT.CAUSE]⟩,
   ⟨0x308, 0, 1, [IBEX.DBG_BP0.BUNDLE]⟩,
   ⟨0x30c, 0, 1, [IBEX.DBG_BP1.BUNDLE]⟩,
   ⟨0x310, 0, 1, [IBEX.DBG_SEL.REG]⟩,
   ⟨0x314, 0, 1, [IBEX.DBG_DATA0.DATA]⟩,
   ⟨0x318, 0, 1, [IBEX.DBG_DATA1.DATA]⟩,
   ⟨0x31c, 0, 1, [IBEX.DBG_DATA2.DATA]⟩,
   ⟨0x68, 0, 1, [IBEX.ILL_INFO.BUNDLE, IBEX.ILL_INFO.SLOT, IBEX.ILL_INFO.VALID, IBEX.ILL_INFO.COUNT]⟩]

/-! ### CLUS page (spec chapter 05) -/

def CLUS.CLUS_CTRL.SPARE : Fld := ⟨0x40, 0, 1, 0, .rw⟩
def CLUS.MIG_CTRL.SOURCE : Fld := ⟨0x44, 0, 2, 0, .rw⟩
def CLUS.MIG_CTRL.START : Fld := ⟨0x44, 8, 1, 0, .w1s⟩
def CLUS.MIG_CTRL.CANCEL : Fld := ⟨0x44, 9, 1, 0, .w1s⟩
def CLUS.MIG_STAT.STATE : Fld := ⟨0x48, 0, 3, 0, .ro⟩
def CLUS.MIG_STAT.CAUSE : Fld := ⟨0x48, 8, 8, 0, .ro⟩
def CLUS.MIG_STAT.PROGRESS : Fld := ⟨0x48, 16, 12, 0, .ro⟩
def CLUS.STAGE_IN.CYCLES : Fld := ⟨0x4c, 0, 20, 16, .ro⟩
def CLUS.STAGE_OUT.CYCLES : Fld := ⟨0x50, 0, 20, 16, .ro⟩
def CLUS.FADE_POS.M : Fld := ⟨0x54, 0, 6, 32, .ro⟩
def CLUS.XM_ECC_CORR_COUNT.COUNT : Fld := ⟨0x58, 0, 32, 0, .rc⟩
def CLUS.XM_ECC_UNCORR_COUNT.COUNT : Fld := ⟨0x5c, 0, 16, 0, .rc⟩
def CLUS.XM_ECC_LAST.WORD : Fld := ⟨0x60, 2, 12, 0, .ro⟩
def CLUS.XM_ECC_LAST.UNCORR : Fld := ⟨0x60, 31, 1, 0, .ro⟩

/-- The registers of the CLUS page. -/
def CLUS.regs : List RegD :=
  [⟨0x40, 0, 1, [CLUS.CLUS_CTRL.SPARE]⟩,
   ⟨0x44, 0, 1, [CLUS.MIG_CTRL.SOURCE, CLUS.MIG_CTRL.START, CLUS.MIG_CTRL.CANCEL]⟩,
   ⟨0x48, 0, 1, [CLUS.MIG_STAT.STATE, CLUS.MIG_STAT.CAUSE, CLUS.MIG_STAT.PROGRESS]⟩,
   ⟨0x4c, 0, 1, [CLUS.STAGE_IN.CYCLES]⟩,
   ⟨0x50, 0, 1, [CLUS.STAGE_OUT.CYCLES]⟩,
   ⟨0x54, 0, 1, [CLUS.FADE_POS.M]⟩,
   ⟨0x58, 0, 1, [CLUS.XM_ECC_CORR_COUNT.COUNT]⟩,
   ⟨0x5c, 0, 1, [CLUS.XM_ECC_UNCORR_COUNT.COUNT]⟩,
   ⟨0x60, 0, 1, [CLUS.XM_ECC_LAST.WORD, CLUS.XM_ECC_LAST.UNCORR]⟩]

/-! ### ORYX page (spec chapter 07) -/

def ORYX.ORYX_LEN.LEN : Fld := ⟨0x40, 0, 18, 0, .rws⟩
def ORYX.RAMP6_CFG.LEN_LOG2 : Fld := ⟨0x44, 0, 5, 6, .rws⟩
def ORYX.RAMP6_CFG.LAW : Fld := ⟨0x44, 8, 1, 0, .rws⟩
def ORYX.RAMP7_CFG.LEN_LOG2 : Fld := ⟨0x48, 0, 5, 6, .rws⟩
def ORYX.RAMP7_CFG.LAW : Fld := ⟨0x48, 8, 1, 0, .rws⟩
def ORYX.FAST_STAT.COUNT : Fld := ⟨0x4c, 0, 14, 0, .ro⟩
def ORYX.FAST_STAT.WINDOW : Fld := ⟨0x4c, 16, 10, 0, .ro⟩
def ORYX.FADE_STAT.ACTIVE : Fld := ⟨0x50, 0, 13, 0, .ro⟩
def ORYX.FADE_STAT.AT_COMMIT : Fld := ⟨0x50, 16, 13, 0, .ro⟩
def ORYX.FADE_HIGH.HIGH : Fld := ⟨0x54, 0, 13, 0, .rc⟩
def ORYX.FADE_DROP_COUNT.COUNT : Fld := ⟨0x58, 0, 16, 0, .rc⟩
def ORYX.XOV_COUNT.COUNT : Fld := ⟨0x5c, 0, 16, 0, .rc⟩
def ORYX.CLIP_TOTAL.COUNT : Fld := ⟨0x60, 0, 32, 0, .rc⟩
def ORYX.CLIP_SEL.DST : Fld := ⟨0x64, 0, 14, 0, .rw⟩
def ORYX.CLIP_DATA.COUNT : Fld := ⟨0x68, 0, 16, 0, .rc⟩
def ORYX.RETIRE_STAT.COUNT : Fld := ⟨0x6c, 0, 15, 0, .ro⟩

/-- The registers of the ORYX page. -/
def ORYX.regs : List RegD :=
  [⟨0x40, 0, 1, [ORYX.ORYX_LEN.LEN]⟩,
   ⟨0x44, 0, 1, [ORYX.RAMP6_CFG.LEN_LOG2, ORYX.RAMP6_CFG.LAW]⟩,
   ⟨0x48, 0, 1, [ORYX.RAMP7_CFG.LEN_LOG2, ORYX.RAMP7_CFG.LAW]⟩,
   ⟨0x4c, 0, 1, [ORYX.FAST_STAT.COUNT, ORYX.FAST_STAT.WINDOW]⟩,
   ⟨0x50, 0, 1, [ORYX.FADE_STAT.ACTIVE, ORYX.FADE_STAT.AT_COMMIT]⟩,
   ⟨0x54, 0, 1, [ORYX.FADE_HIGH.HIGH]⟩,
   ⟨0x58, 0, 1, [ORYX.FADE_DROP_COUNT.COUNT]⟩,
   ⟨0x5c, 0, 1, [ORYX.XOV_COUNT.COUNT]⟩,
   ⟨0x60, 0, 1, [ORYX.CLIP_TOTAL.COUNT]⟩,
   ⟨0x64, 0, 1, [ORYX.CLIP_SEL.DST]⟩,
   ⟨0x68, 0, 1, [ORYX.CLIP_DATA.COUNT]⟩,
   ⟨0x6c, 0, 1, [ORYX.RETIRE_STAT.COUNT]⟩]

/-! ### METER page (spec chapter 07) -/

def METER.PROF_CFG.TC_LOG2 (k : Nat) : Fld := ⟨0x40 + 8 * (k - 1), 0, 5, 13, .rws⟩
def METER.PROF_CFG.HOLD (k : Nat) : Fld := ⟨0x40 + 8 * (k - 1), 8, 24, 0, .rws⟩
def METER.PROF_REL.REL (k : Nat) : Fld := ⟨0x44 + 8 * (k - 1), 0, 32, 0, .rws⟩
def METER.METER_STAT.ACTIVE : Fld := ⟨0x58, 0, 11, 0, .ro⟩
def METER.METER_CH.SIGNAL_LO (k : Nat) : Fld := ⟨0x800 + 4 * k, 0, 14, 0, .rws⟩
def METER.METER_CH.PROF_LO (k : Nat) : Fld := ⟨0x800 + 4 * k, 14, 2, 0, .rws⟩
def METER.METER_CH.SIGNAL_HI (k : Nat) : Fld := ⟨0x800 + 4 * k, 16, 14, 0, .rws⟩
def METER.METER_CH.PROF_HI (k : Nat) : Fld := ⟨0x800 + 4 * k, 30, 2, 0, .rws⟩

/-- The registers of the METER page. -/
def METER.regs : List RegD :=
  [⟨0x40, 8, 3, [METER.PROF_CFG.TC_LOG2 1, METER.PROF_CFG.HOLD 1]⟩,
   ⟨0x44, 8, 3, [METER.PROF_REL.REL 1]⟩,
   ⟨0x58, 0, 1, [METER.METER_STAT.ACTIVE]⟩,
   ⟨0x800, 4, 512, [METER.METER_CH.SIGNAL_LO 0, METER.METER_CH.PROF_LO 0, METER.METER_CH.SIGNAL_HI 0, METER.METER_CH.PROF_HI 0]⟩]

/-! ### EQ page (spec chapter 08) -/

def EQ.EQ_LEN.LEN : Fld := ⟨0x40, 0, 15, 0, .rws⟩
def EQ.EQ_STAT.CHAINS : Fld := ⟨0x44, 0, 12, 0, .ro⟩
def EQ.EQ_STAT.TRANS : Fld := ⟨0x44, 16, 12, 0, .ro⟩
def EQ.EQ_RESERVE.SIZE : Fld := ⟨0x48, 0, 12, 2048, .ro⟩
def EQ.TRANS_HIGH.HIGH : Fld := ⟨0x4c, 0, 12, 0, .rc⟩
def EQ.XOV_COUNT.COUNT : Fld := ⟨0x50, 0, 16, 0, .rc⟩
def EQ.SAT_COUNT.COUNT : Fld := ⟨0x54, 0, 16, 0, .rc⟩
def EQ.XALLOW.ALLOW (k : Nat) : Fld := ⟨0x100 + 4 * k, 0, 12, 0, .rws⟩

/-- The registers of the EQ page. -/
def EQ.regs : List RegD :=
  [⟨0x40, 0, 1, [EQ.EQ_LEN.LEN]⟩,
   ⟨0x44, 0, 1, [EQ.EQ_STAT.CHAINS, EQ.EQ_STAT.TRANS]⟩,
   ⟨0x48, 0, 1, [EQ.EQ_RESERVE.SIZE]⟩,
   ⟨0x4c, 0, 1, [EQ.TRANS_HIGH.HIGH]⟩,
   ⟨0x50, 0, 1, [EQ.XOV_COUNT.COUNT]⟩,
   ⟨0x54, 0, 1, [EQ.SAT_COUNT.COUNT]⟩,
   ⟨0x100, 4, 64, [EQ.XALLOW.ALLOW 0]⟩]

/-! ### DELAY page (spec chapter 08) -/

def DELAY.DELAY_LEN.LEN : Fld := ⟨0x40, 0, 13, 0, .rws⟩
def DELAY.DELAY_STAT.LINES : Fld := ⟨0x44, 0, 13, 0, .ro⟩
def DELAY.DELAY_STAT.FADING : Fld := ⟨0x44, 16, 13, 0, .ro⟩
def DELAY.DELAY_CAP.TAPS : Fld := ⟨0x48, 0, 13, 4096, .ro⟩
def DELAY.CLAMP_COUNT.COUNT : Fld := ⟨0x4c, 0, 16, 0, .rc⟩
def DELAY.CLAMP_LAST.TAP : Fld := ⟨0x50, 0, 12, 0, .ro⟩
def DELAY.RESTART_COUNT.COUNT : Fld := ⟨0x54, 0, 16, 0, .rc⟩

/-- The registers of the DELAY page. -/
def DELAY.regs : List RegD :=
  [⟨0x40, 0, 1, [DELAY.DELAY_LEN.LEN]⟩,
   ⟨0x44, 0, 1, [DELAY.DELAY_STAT.LINES, DELAY.DELAY_STAT.FADING]⟩,
   ⟨0x48, 0, 1, [DELAY.DELAY_CAP.TAPS]⟩,
   ⟨0x4c, 0, 1, [DELAY.CLAMP_COUNT.COUNT]⟩,
   ⟨0x50, 0, 1, [DELAY.CLAMP_LAST.TAP]⟩,
   ⟨0x54, 0, 1, [DELAY.RESTART_COUNT.COUNT]⟩]

/-! ### BUSM page (spec chapter 09) -/

def BUSM.QOS_MAP0.QOS (i : Nat) : Fld := ⟨0x40, 4 * i, 4, [12, 12, 12, 12, 12, 12, 15, 15].getD i 0, .rw⟩
def BUSM.QOS_MAP1.QOS (i : Nat) : Fld := ⟨0x44, 4 * i, 4, [14, 0, 0, 0, 0, 4, 8].getD i 0, .rw⟩
def BUSM.AGE_CTRL.AGE_STEP : Fld := ⟨0x48, 0, 8, 64, .rw⟩
def BUSM.SLICE_CTRL.BYPASS : Fld := ⟨0x4c, 0, 16, 0, .rw⟩
def BUSM.VCORE_SET.MV : Fld := ⟨0x50, 0, 10, 0, .ro⟩
def BUSM.OUTST_CUR.COUNT : Fld := ⟨0x54, 0, 9, 0, .ro⟩
def BUSM.OUTST_HIGH.COUNT : Fld := ⟨0x58, 0, 9, 0, .rc⟩
def BUSM.MASTER_ABORT_COUNT.COUNT : Fld := ⟨0x5c, 0, 16, 0, .rc⟩
def BUSM.MASTER_ABORT_COUNT.LAST : Fld := ⟨0x5c, 16, 4, 0, .ro⟩
def BUSM.RETRY_CTRL.RETRY_MAX : Fld := ⟨0x60, 0, 4, 8, .rw⟩
def BUSM.RETRY_CTRL.RETRY_GAP : Fld := ⟨0x60, 8, 8, 10, .rw⟩
def BUSM.RETRY_FAIL_COUNT.COUNT : Fld := ⟨0x64, 0, 16, 0, .rc⟩
def BUSM.REGION_BASE.BASE (k : Nat) : Fld := ⟨0x100 + 16 * k, 0, 32, 0, .rw⟩
def BUSM.REGION_LIMIT.LIMIT (k : Nat) : Fld := ⟨0x104 + 16 * k, 0, 32, 0, .rw⟩
def BUSM.REGION_PERM.RD (k : Nat) : Fld := ⟨0x108 + 16 * k, 0, 4, 0, .rw⟩
def BUSM.REGION_PERM.WR (k : Nat) : Fld := ⟨0x108 + 16 * k, 4, 4, 0, .rw⟩

/-- The registers of the BUSM page. -/
def BUSM.regs : List RegD :=
  [⟨0x40, 0, 1, [BUSM.QOS_MAP0.QOS 0, BUSM.QOS_MAP0.QOS 1, BUSM.QOS_MAP0.QOS 2, BUSM.QOS_MAP0.QOS 3, BUSM.QOS_MAP0.QOS 4, BUSM.QOS_MAP0.QOS 5, BUSM.QOS_MAP0.QOS 6, BUSM.QOS_MAP0.QOS 7]⟩,
   ⟨0x44, 0, 1, [BUSM.QOS_MAP1.QOS 0, BUSM.QOS_MAP1.QOS 1, BUSM.QOS_MAP1.QOS 2, BUSM.QOS_MAP1.QOS 3, BUSM.QOS_MAP1.QOS 4, BUSM.QOS_MAP1.QOS 5, BUSM.QOS_MAP1.QOS 6]⟩,
   ⟨0x48, 0, 1, [BUSM.AGE_CTRL.AGE_STEP]⟩,
   ⟨0x4c, 0, 1, [BUSM.SLICE_CTRL.BYPASS]⟩,
   ⟨0x50, 0, 1, [BUSM.VCORE_SET.MV]⟩,
   ⟨0x54, 0, 1, [BUSM.OUTST_CUR.COUNT]⟩,
   ⟨0x58, 0, 1, [BUSM.OUTST_HIGH.COUNT]⟩,
   ⟨0x5c, 0, 1, [BUSM.MASTER_ABORT_COUNT.COUNT, BUSM.MASTER_ABORT_COUNT.LAST]⟩,
   ⟨0x60, 0, 1, [BUSM.RETRY_CTRL.RETRY_MAX, BUSM.RETRY_CTRL.RETRY_GAP]⟩,
   ⟨0x64, 0, 1, [BUSM.RETRY_FAIL_COUNT.COUNT]⟩,
   ⟨0x100, 16, 16, [BUSM.REGION_BASE.BASE 0]⟩,
   ⟨0x104, 16, 16, [BUSM.REGION_LIMIT.LIMIT 0]⟩,
   ⟨0x108, 16, 16, [BUSM.REGION_PERM.RD 0, BUSM.REGION_PERM.WR 0]⟩]

/-! ### STORE page (spec chapter 09) -/

def STORE.STORE_STAT.LOST : Fld := ⟨0x40, 0, 8, 255, .ro⟩
def STORE.STORE_STAT.ZFILL_BUSY : Fld := ⟨0x40, 8, 8, 0, .ro⟩
def STORE.LOST_CAUSE.CAUSE (i : Nat) : Fld := ⟨0x44, 2 * i, 2, 3, .ro⟩
def STORE.RET_MASK.RETAIN : Fld := ⟨0x48, 0, 8, 255, .rw⟩
def STORE.ZFILL.START : Fld := ⟨0x4c, 0, 8, 0, .w1s⟩
def STORE.ECC_CORR_COUNT.COUNT : Fld := ⟨0x50, 0, 32, 0, .rc⟩
def STORE.ECC_UNCORR_COUNT.COUNT : Fld := ⟨0x54, 0, 16, 0, .rc⟩
def STORE.ECC_LAST.WORD : Fld := ⟨0x58, 3, 23, 0, .ro⟩
def STORE.ECC_LAST.UNCORR : Fld := ⟨0x58, 31, 1, 0, .ro⟩
def STORE.SCRUB_CTRL.EN : Fld := ⟨0x5c, 0, 1, 0, .rw⟩
def STORE.SCRUB_CTRL.INTERVAL : Fld := ⟨0x5c, 8, 8, 10, .rw⟩
def STORE.SCRUB_STAT.PASSES : Fld := ⟨0x60, 0, 16, 0, .ro⟩
def STORE.SCRUB_STAT.RUNNING : Fld := ⟨0x60, 16, 1, 0, .ro⟩
def STORE.SCRUB_LATE_COUNT.COUNT : Fld := ⟨0x64, 0, 16, 0, .rc⟩
def STORE.LOST_ACCESS_COUNT.COUNT : Fld := ⟨0x68, 0, 16, 0, .rc⟩
def STORE.SIG.CRC (k : Nat) : Fld := ⟨0x80 + 4 * k, 0, 32, 0, .ro⟩

/-- The registers of the STORE page. -/
def STORE.regs : List RegD :=
  [⟨0x40, 0, 1, [STORE.STORE_STAT.LOST, STORE.STORE_STAT.ZFILL_BUSY]⟩,
   ⟨0x44, 0, 1, [STORE.LOST_CAUSE.CAUSE 0, STORE.LOST_CAUSE.CAUSE 1, STORE.LOST_CAUSE.CAUSE 2, STORE.LOST_CAUSE.CAUSE 3, STORE.LOST_CAUSE.CAUSE 4, STORE.LOST_CAUSE.CAUSE 5, STORE.LOST_CAUSE.CAUSE 6, STORE.LOST_CAUSE.CAUSE 7]⟩,
   ⟨0x48, 0, 1, [STORE.RET_MASK.RETAIN]⟩,
   ⟨0x4c, 0, 1, [STORE.ZFILL.START]⟩,
   ⟨0x50, 0, 1, [STORE.ECC_CORR_COUNT.COUNT]⟩,
   ⟨0x54, 0, 1, [STORE.ECC_UNCORR_COUNT.COUNT]⟩,
   ⟨0x58, 0, 1, [STORE.ECC_LAST.WORD, STORE.ECC_LAST.UNCORR]⟩,
   ⟨0x5c, 0, 1, [STORE.SCRUB_CTRL.EN, STORE.SCRUB_CTRL.INTERVAL]⟩,
   ⟨0x60, 0, 1, [STORE.SCRUB_STAT.PASSES, STORE.SCRUB_STAT.RUNNING]⟩,
   ⟨0x64, 0, 1, [STORE.SCRUB_LATE_COUNT.COUNT]⟩,
   ⟨0x68, 0, 1, [STORE.LOST_ACCESS_COUNT.COUNT]⟩,
   ⟨0x80, 4, 8, [STORE.SIG.CRC 0]⟩]

/-! ### DMA page (spec chapter 09) -/

def DMA.DMA_CTRL.RUN : Fld := ⟨0x40, 0, 1, 0, .rw⟩
def DMA.DMA_CTRL.HALT_ON_ERR : Fld := ⟨0x40, 1, 1, 1, .rw⟩
def DMA.RING_BASE.ADDR : Fld := ⟨0x44, 5, 27, 0, .rw⟩
def DMA.RING_SIZE.SIZE : Fld := ⟨0x48, 0, 12, 0, .rw⟩
def DMA.RING_HEAD.HEAD : Fld := ⟨0x4c, 0, 12, 0, .rw⟩
def DMA.RING_TAIL.TAIL : Fld := ⟨0x50, 0, 12, 0, .ro⟩
def DMA.DMA_TMO.US : Fld := ⟨0x54, 0, 16, 1000, .rw⟩
def DMA.DMA_STAT.ACTIVE : Fld := ⟨0x58, 0, 1, 0, .ro⟩
def DMA.DMA_STAT.LAST_CODE : Fld := ⟨0x58, 8, 8, 0, .ro⟩
def DMA.DESC_COUNT.COUNT : Fld := ⟨0x5c, 0, 32, 0, .rc⟩

/-- The registers of the DMA page. -/
def DMA.regs : List RegD :=
  [⟨0x40, 0, 1, [DMA.DMA_CTRL.RUN, DMA.DMA_CTRL.HALT_ON_ERR]⟩,
   ⟨0x44, 0, 1, [DMA.RING_BASE.ADDR]⟩,
   ⟨0x48, 0, 1, [DMA.RING_SIZE.SIZE]⟩,
   ⟨0x4c, 0, 1, [DMA.RING_HEAD.HEAD]⟩,
   ⟨0x50, 0, 1, [DMA.RING_TAIL.TAIL]⟩,
   ⟨0x54, 0, 1, [DMA.DMA_TMO.US]⟩,
   ⟨0x58, 0, 1, [DMA.DMA_STAT.ACTIVE, DMA.DMA_STAT.LAST_CODE]⟩,
   ⟨0x5c, 0, 1, [DMA.DESC_COUNT.COUNT]⟩]

/-! ### LANE page (spec chapter 10) -/

def LANE.LANE_CTRL.RETRAIN : Fld := ⟨0x40, 0, 1, 0, .w1s⟩
def LANE.LANE_CTRL.RATE : Fld := ⟨0x40, 1, 2, 0, .rw⟩
def LANE.LANE_CTRL.BEACON : Fld := ⟨0x40, 3, 1, 1, .rw⟩
def LANE.LANE_CTRL.TX_POL : Fld := ⟨0x40, 4, 1, 0, .rw⟩
def LANE.LANE_CTRL.AUTO_POL : Fld := ⟨0x40, 5, 1, 1, .rw⟩
def LANE.LANE_CTRL.RX_POL : Fld := ⟨0x40, 6, 1, 0, .rw⟩
def LANE.LANE_PWR.TX_REQ : Fld := ⟨0x44, 0, 2, 2, .rw⟩
def LANE.LANE_PWR.RX_REQ : Fld := ⟨0x44, 4, 2, 2, .rw⟩
def LANE.LANE_STAT.PHASE : Fld := ⟨0x48, 0, 4, 0, .ro⟩
def LANE.LANE_STAT.TX_STATE : Fld := ⟨0x48, 4, 2, 2, .ro⟩
def LANE.LANE_STAT.RX_STATE : Fld := ⟨0x48, 6, 2, 2, .ro⟩
def LANE.LANE_STAT.CDR_LOCKED : Fld := ⟨0x48, 8, 1, 0, .ro⟩
def LANE.LANE_STAT.ALIGNED : Fld := ⟨0x48, 9, 1, 0, .ro⟩
def LANE.LANE_STAT.ENERGY : Fld := ⟨0x48, 10, 1, 0, .ro⟩
def LANE.LANE_STAT.RX_INVERTED : Fld := ⟨0x48, 11, 1, 0, .ro⟩
def LANE.LANE_STAT.PARTNER_RX_UP : Fld := ⟨0x48, 12, 1, 0, .ro⟩
def LANE.LANE_STAT.PORT_STATE : Fld := ⟨0x48, 13, 2, 0, .ro⟩
def LANE.LANE_STAT.PARTNER_LIDX : Fld := ⟨0x48, 16, 4, 0, .ro⟩
def LANE.TRAIN_INFO.FAIL_PHASE : Fld := ⟨0x4c, 0, 4, 0, .ro⟩
def LANE.TRAIN_INFO.FAIL_CAUSE : Fld := ⟨0x4c, 4, 4, 0, .ro⟩
def LANE.TRAIN_INFO.ATTEMPT : Fld := ⟨0x4c, 8, 3, 0, .ro⟩
def LANE.TRAIN_INFO.BACKOFF_MS : Fld := ⟨0x4c, 16, 16, 0, .ro⟩
def LANE.PARTNER.NODE_ID : Fld := ⟨0x50, 0, 16, 0, .ro⟩
def LANE.PARTNER.KIND : Fld := ⟨0x50, 16, 2, 0, .ro⟩
def LANE.PARTNER.INDEX : Fld := ⟨0x50, 18, 2, 0, .ro⟩
def LANE.PARTNER.RATE : Fld := ⟨0x50, 20, 2, 0, .ro⟩
def LANE.SKEW.BITS : Fld := ⟨0x54, 0, 16, 0, .ro⟩
def LANE.FREQ_OFF.PPB : Fld := ⟨0x58, 0, 32, 0, .ro⟩
def LANE.FFE_CTRL.INIT_PRESET : Fld := ⟨0x5c, 0, 4, 5, .rw⟩
def LANE.FFE_CTRL.TX_FIXED : Fld := ⟨0x5c, 4, 1, 0, .rw⟩
def LANE.FFE_CTRL.NEG_OFF : Fld := ⟨0x5c, 5, 1, 0, .rw⟩
def LANE.FFE_STAT.PRE : Fld := ⟨0x60, 0, 5, 0, .ro⟩
def LANE.FFE_STAT.POST : Fld := ⟨0x60, 8, 5, 0, .ro⟩
def LANE.FFE_STAT.MAIN : Fld := ⟨0x60, 16, 7, 64, .ro⟩
def LANE.FFE_STAT.PRESET : Fld := ⟨0x60, 24, 4, 15, .ro⟩
def LANE.RXEQ_STAT.CTLE : Fld := ⟨0x64, 0, 5, 0, .ro⟩
def LANE.RXEQ_STAT.EYE_H : Fld := ⟨0x64, 8, 8, 0, .ro⟩
def LANE.RXEQ_STAT.EYE_W : Fld := ⟨0x64, 16, 8, 0, .ro⟩
def LANE.MARKER_MISS_COUNT.COUNT : Fld := ⟨0x68, 0, 16, 0, .rc⟩
def LANE.CTL_ERR_COUNT.COUNT : Fld := ⟨0x70, 0, 16, 0, .rc⟩
def LANE.STUFF_DROP_COUNT.COUNT : Fld := ⟨0x78, 0, 16, 0, .rc⟩
def LANE.STUFF_ERR_COUNT.COUNT : Fld := ⟨0x7c, 0, 16, 0, .rc⟩
def LANE.HDR_ERR_COUNT.COUNT : Fld := ⟨0x6c, 0, 32, 0, .rc⟩
def LANE.STUFF_COUNT.COUNT : Fld := ⟨0x74, 0, 32, 0, .rc⟩
def LANE.IDLE_ERR_COUNT.COUNT : Fld := ⟨0x84, 0, 32, 0, .rc⟩
def LANE.RECOVERY_COUNT.RELOCK : Fld := ⟨0x80, 0, 16, 0, .rc⟩
def LANE.RECOVERY_COUNT.RETRAIN : Fld := ⟨0x80, 16, 16, 0, .rc⟩
def LANE.TEST_CTRL.PATGEN : Fld := ⟨0xa0, 0, 3, 0, .rw⟩
def LANE.TEST_CTRL.PATCHK : Fld := ⟨0xa0, 4, 3, 0, .rw⟩
def LANE.TEST_CTRL.LOOPBACK : Fld := ⟨0xa0, 8, 2, 0, .rw⟩
def LANE.TEST_CTRL.CHK_RESTART : Fld := ⟨0xa0, 10, 1, 0, .w1s⟩
def LANE.USER_PAT_LO.PAT : Fld := ⟨0xa4, 0, 32, 0, .rw⟩
def LANE.USER_PAT_HI.PAT : Fld := ⟨0xa8, 0, 32, 0, .rw⟩
def LANE.INJ_CTRL.KIND : Fld := ⟨0xac, 0, 2, 0, .rw⟩
def LANE.INJ_CTRL.BURST_LEN : Fld := ⟨0xac, 2, 6, 0, .rw⟩
def LANE.INJ_CTRL.GO : Fld := ⟨0xac, 8, 1, 0, .w1s⟩
def LANE.INJ_CTRL.PERIOD : Fld := ⟨0xac, 16, 16, 0, .rw⟩
def LANE.CHK_STAT.LOCKED : Fld := ⟨0xb0, 0, 1, 0, .ro⟩
def LANE.CHK_ERR_COUNT.COUNT : Fld := ⟨0xb4, 0, 32, 0, .rc⟩
def LANE.CHK_BITS_LO.BITS : Fld := ⟨0xb8, 0, 32, 0, .ro⟩
def LANE.CHK_BITS_HI.BITS : Fld := ⟨0xbc, 0, 32, 0, .ro⟩
def LANE.LT_CTRL.SEND : Fld := ⟨0xc0, 0, 1, 0, .w1s⟩
def LANE.LT_TOKEN.TOKEN : Fld := ⟨0xc4, 0, 32, 0, .rw⟩
def LANE.LT_STAT.PENDING : Fld := ⟨0xc8, 0, 1, 0, .ro⟩
def LANE.LT_STAT.DONE : Fld := ⟨0xc8, 1, 1, 0, .ro⟩
def LANE.LT_STAT.MATCH : Fld := ⟨0xc8, 2, 1, 0, .ro⟩
def LANE.LT_RET.TOKEN : Fld := ⟨0xcc, 0, 32, 0, .ro⟩

/-- The registers of the LANE page. -/
def LANE.regs : List RegD :=
  [⟨0x40, 0, 1, [LANE.LANE_CTRL.RETRAIN, LANE.LANE_CTRL.RATE, LANE.LANE_CTRL.BEACON, LANE.LANE_CTRL.TX_POL, LANE.LANE_CTRL.AUTO_POL, LANE.LANE_CTRL.RX_POL]⟩,
   ⟨0x44, 0, 1, [LANE.LANE_PWR.TX_REQ, LANE.LANE_PWR.RX_REQ]⟩,
   ⟨0x48, 0, 1, [LANE.LANE_STAT.PHASE, LANE.LANE_STAT.TX_STATE, LANE.LANE_STAT.RX_STATE, LANE.LANE_STAT.CDR_LOCKED, LANE.LANE_STAT.ALIGNED, LANE.LANE_STAT.ENERGY, LANE.LANE_STAT.RX_INVERTED, LANE.LANE_STAT.PARTNER_RX_UP, LANE.LANE_STAT.PORT_STATE, LANE.LANE_STAT.PARTNER_LIDX]⟩,
   ⟨0x4c, 0, 1, [LANE.TRAIN_INFO.FAIL_PHASE, LANE.TRAIN_INFO.FAIL_CAUSE, LANE.TRAIN_INFO.ATTEMPT, LANE.TRAIN_INFO.BACKOFF_MS]⟩,
   ⟨0x50, 0, 1, [LANE.PARTNER.NODE_ID, LANE.PARTNER.KIND, LANE.PARTNER.INDEX, LANE.PARTNER.RATE]⟩,
   ⟨0x54, 0, 1, [LANE.SKEW.BITS]⟩,
   ⟨0x58, 0, 1, [LANE.FREQ_OFF.PPB]⟩,
   ⟨0x5c, 0, 1, [LANE.FFE_CTRL.INIT_PRESET, LANE.FFE_CTRL.TX_FIXED, LANE.FFE_CTRL.NEG_OFF]⟩,
   ⟨0x60, 0, 1, [LANE.FFE_STAT.PRE, LANE.FFE_STAT.POST, LANE.FFE_STAT.MAIN, LANE.FFE_STAT.PRESET]⟩,
   ⟨0x64, 0, 1, [LANE.RXEQ_STAT.CTLE, LANE.RXEQ_STAT.EYE_H, LANE.RXEQ_STAT.EYE_W]⟩,
   ⟨0x68, 0, 1, [LANE.MARKER_MISS_COUNT.COUNT]⟩,
   ⟨0x70, 0, 1, [LANE.CTL_ERR_COUNT.COUNT]⟩,
   ⟨0x78, 0, 1, [LANE.STUFF_DROP_COUNT.COUNT]⟩,
   ⟨0x7c, 0, 1, [LANE.STUFF_ERR_COUNT.COUNT]⟩,
   ⟨0x6c, 0, 1, [LANE.HDR_ERR_COUNT.COUNT]⟩,
   ⟨0x74, 0, 1, [LANE.STUFF_COUNT.COUNT]⟩,
   ⟨0x84, 0, 1, [LANE.IDLE_ERR_COUNT.COUNT]⟩,
   ⟨0x80, 0, 1, [LANE.RECOVERY_COUNT.RELOCK, LANE.RECOVERY_COUNT.RETRAIN]⟩,
   ⟨0xa0, 0, 1, [LANE.TEST_CTRL.PATGEN, LANE.TEST_CTRL.PATCHK, LANE.TEST_CTRL.LOOPBACK, LANE.TEST_CTRL.CHK_RESTART]⟩,
   ⟨0xa4, 0, 1, [LANE.USER_PAT_LO.PAT]⟩]
  ++ [⟨0xa8, 0, 1, [LANE.USER_PAT_HI.PAT]⟩,
   ⟨0xac, 0, 1, [LANE.INJ_CTRL.KIND, LANE.INJ_CTRL.BURST_LEN, LANE.INJ_CTRL.GO, LANE.INJ_CTRL.PERIOD]⟩,
   ⟨0xb0, 0, 1, [LANE.CHK_STAT.LOCKED]⟩,
   ⟨0xb4, 0, 1, [LANE.CHK_ERR_COUNT.COUNT]⟩,
   ⟨0xb8, 0, 1, [LANE.CHK_BITS_LO.BITS]⟩,
   ⟨0xbc, 0, 1, [LANE.CHK_BITS_HI.BITS]⟩,
   ⟨0xc0, 0, 1, [LANE.LT_CTRL.SEND]⟩,
   ⟨0xc4, 0, 1, [LANE.LT_TOKEN.TOKEN]⟩,
   ⟨0xc8, 0, 1, [LANE.LT_STAT.PENDING, LANE.LT_STAT.DONE, LANE.LT_STAT.MATCH]⟩,
   ⟨0xcc, 0, 1, [LANE.LT_RET.TOKEN]⟩]

/-! ### RING page (spec chapter 11) -/

def RING.RING_CTRL.NODE_ID : Fld := ⟨0x40, 0, 16, 0, .rw⟩
def RING.RING_CTRL.WRAP_EN_A : Fld := ⟨0x40, 16, 1, 1, .rw⟩
def RING.RING_CTRL.WRAP_EN_B : Fld := ⟨0x40, 17, 1, 1, .rw⟩
def RING.RING_CFG.AGE_MAX : Fld := ⟨0x44, 0, 10, 32, .rws⟩
def RING.RING_CFG.MERGE_WIN : Fld := ⟨0x44, 16, 7, 64, .rws⟩
def RING.BYP_CTRL.INS_A : Fld := ⟨0x48, 0, 1, 0, .rw⟩
def RING.BYP_CTRL.INS_B : Fld := ⟨0x48, 1, 1, 0, .rw⟩
def RING.BYP_CTRL.TIME_REQ : Fld := ⟨0x48, 2, 1, 1, .rw⟩
def RING.BYP_CTRL.INS_TMO : Fld := ⟨0x48, 8, 8, 20, .rw⟩
def RING.BYP_STAT.A_STATE : Fld := ⟨0x4c, 0, 3, 0, .ro⟩
def RING.BYP_STAT.B_STATE : Fld := ⟨0x4c, 4, 3, 0, .ro⟩
def RING.BYP_STAT.BYPA_DRIVEN : Fld := ⟨0x4c, 8, 1, 0, .ro⟩
def RING.BYP_STAT.BYPB_DRIVEN : Fld := ⟨0x4c, 9, 1, 0, .ro⟩
def RING.STREAM_SEL.STREAM : Fld := ⟨0x50, 0, 12, 0, .rw⟩
def RING.STREAM_STAT.UNDERRUN : Fld := ⟨0x54, 0, 8, 0, .rc⟩
def RING.STREAM_STAT.LATE : Fld := ⟨0x54, 8, 8, 0, .rc⟩
def RING.STREAM_STAT.MISMATCH : Fld := ⟨0x54, 16, 8, 0, .rc⟩
def RING.STREAM_STAT.FALLBACK : Fld := ⟨0x54, 24, 8, 0, .rc⟩
def RING.STREAM_LAST.H : Fld := ⟨0x58, 0, 32, 0, .ro⟩
def RING.UNDERRUN_COUNT.COUNT : Fld := ⟨0x5c, 0, 32, 0, .rc⟩
def RING.LATE_COUNT.COUNT : Fld := ⟨0x60, 0, 32, 0, .rc⟩
def RING.MISMATCH_COUNT.COUNT : Fld := ⟨0x64, 0, 32, 0, .rc⟩
def RING.FALLBACK_COUNT.COUNT : Fld := ⟨0x68, 0, 32, 0, .rc⟩
def RING.MERGE_LATE_COUNT.COUNT : Fld := ⟨0x6c, 0, 32, 0, .rc⟩
def RING.INJ_SPILL_COUNT.COUNT : Fld := ⟨0x70, 0, 32, 0, .rc⟩
def RING.MISMATCH_LAST.STREAM : Fld := ⟨0x74, 0, 12, 0, .ro⟩

/-- The registers of the RING page. -/
def RING.regs : List RegD :=
  [⟨0x40, 0, 1, [RING.RING_CTRL.NODE_ID, RING.RING_CTRL.WRAP_EN_A, RING.RING_CTRL.WRAP_EN_B]⟩,
   ⟨0x44, 0, 1, [RING.RING_CFG.AGE_MAX, RING.RING_CFG.MERGE_WIN]⟩,
   ⟨0x48, 0, 1, [RING.BYP_CTRL.INS_A, RING.BYP_CTRL.INS_B, RING.BYP_CTRL.TIME_REQ, RING.BYP_CTRL.INS_TMO]⟩,
   ⟨0x4c, 0, 1, [RING.BYP_STAT.A_STATE, RING.BYP_STAT.B_STATE, RING.BYP_STAT.BYPA_DRIVEN, RING.BYP_STAT.BYPB_DRIVEN]⟩,
   ⟨0x50, 0, 1, [RING.STREAM_SEL.STREAM]⟩,
   ⟨0x54, 0, 1, [RING.STREAM_STAT.UNDERRUN, RING.STREAM_STAT.LATE, RING.STREAM_STAT.MISMATCH, RING.STREAM_STAT.FALLBACK]⟩,
   ⟨0x58, 0, 1, [RING.STREAM_LAST.H]⟩,
   ⟨0x5c, 0, 1, [RING.UNDERRUN_COUNT.COUNT]⟩,
   ⟨0x60, 0, 1, [RING.LATE_COUNT.COUNT]⟩,
   ⟨0x64, 0, 1, [RING.MISMATCH_COUNT.COUNT]⟩,
   ⟨0x68, 0, 1, [RING.FALLBACK_COUNT.COUNT]⟩,
   ⟨0x6c, 0, 1, [RING.MERGE_LATE_COUNT.COUNT]⟩,
   ⟨0x70, 0, 1, [RING.INJ_SPILL_COUNT.COUNT]⟩,
   ⟨0x74, 0, 1, [RING.MISMATCH_LAST.STREAM]⟩]

/-! ### TRUNK page (spec chapter 11) -/

def TRUNK.PORT_STAT.STATE : Fld := ⟨0x40, 0, 2, 0, .ro⟩
def TRUNK.PORT_STAT.WRAPPING : Fld := ⟨0x40, 2, 1, 0, .ro⟩
def TRUNK.PORT_STAT.PARTNER_WRAP : Fld := ⟨0x40, 3, 1, 0, .ro⟩
def TRUNK.PORT_STAT.PARTNER_INS : Fld := ⟨0x40, 4, 1, 0, .ro⟩
def TRUNK.PORT_STAT.SELF : Fld := ⟨0x40, 5, 1, 0, .ro⟩
def TRUNK.PORT_STAT.PARTNER_NODE : Fld := ⟨0x40, 16, 16, 0, .ro⟩
def TRUNK.PORT_LOAD0.EVEN : Fld := ⟨0x44, 0, 11, 0, .ro⟩
def TRUNK.PORT_LOAD0.ODD : Fld := ⟨0x44, 16, 11, 0, .ro⟩
def TRUNK.PORT_LOAD1.EVEN : Fld := ⟨0x48, 0, 11, 0, .ro⟩
def TRUNK.PORT_LOAD1.ODD : Fld := ⟨0x48, 16, 11, 0, .ro⟩
def TRUNK.CELLS_RX.COUNT : Fld := ⟨0x4c, 0, 32, 0, .rc⟩
def TRUNK.CELLS_TX.COUNT : Fld := ⟨0x50, 0, 32, 0, .rc⟩
def TRUNK.CELL_ERR_COUNT.COUNT : Fld := ⟨0x54, 0, 32, 0, .rc⟩
def TRUNK.STRIP_COUNT.COUNT : Fld := ⟨0x58, 0, 16, 0, .rc⟩
def TRUNK.WRAP_DROP_COUNT.COUNT : Fld := ⟨0x5c, 0, 16, 0, .rc⟩
def TRUNK.SVC_TX.DATA (k : Nat) : Fld := ⟨0x80 + 4 * k, 0, 32, 0, .rw⟩
def TRUNK.SVC_RX.DATA (k : Nat) : Fld := ⟨0xa0 + 4 * k, 0, 32, 0, .ro⟩
def TRUNK.SVC_CTRL.SEND : Fld := ⟨0x94, 0, 1, 0, .w1s⟩
def TRUNK.SVC_CTRL.POP : Fld := ⟨0x94, 1, 1, 0, .w1s⟩
def TRUNK.SVC_STAT.TX_PENDING : Fld := ⟨0x98, 0, 1, 0, .ro⟩
def TRUNK.SVC_STAT.RX_LEVEL : Fld := ⟨0x98, 8, 5, 0, .ro⟩
def TRUNK.SVC_STAT.SVC_OVF : Fld := ⟨0x98, 16, 1, 0, .ro⟩

/-- The registers of the TRUNK page. -/
def TRUNK.regs : List RegD :=
  [⟨0x40, 0, 1, [TRUNK.PORT_STAT.STATE, TRUNK.PORT_STAT.WRAPPING, TRUNK.PORT_STAT.PARTNER_WRAP, TRUNK.PORT_STAT.PARTNER_INS, TRUNK.PORT_STAT.SELF, TRUNK.PORT_STAT.PARTNER_NODE]⟩,
   ⟨0x44, 0, 1, [TRUNK.PORT_LOAD0.EVEN, TRUNK.PORT_LOAD0.ODD]⟩,
   ⟨0x48, 0, 1, [TRUNK.PORT_LOAD1.EVEN, TRUNK.PORT_LOAD1.ODD]⟩,
   ⟨0x4c, 0, 1, [TRUNK.CELLS_RX.COUNT]⟩,
   ⟨0x50, 0, 1, [TRUNK.CELLS_TX.COUNT]⟩,
   ⟨0x54, 0, 1, [TRUNK.CELL_ERR_COUNT.COUNT]⟩,
   ⟨0x58, 0, 1, [TRUNK.STRIP_COUNT.COUNT]⟩,
   ⟨0x5c, 0, 1, [TRUNK.WRAP_DROP_COUNT.COUNT]⟩,
   ⟨0x80, 4, 5, [TRUNK.SVC_TX.DATA 0]⟩,
   ⟨0xa0, 4, 5, [TRUNK.SVC_RX.DATA 0]⟩,
   ⟨0x94, 0, 1, [TRUNK.SVC_CTRL.SEND, TRUNK.SVC_CTRL.POP]⟩,
   ⟨0x98, 0, 1, [TRUNK.SVC_STAT.TX_PENDING, TRUNK.SVC_STAT.RX_LEVEL, TRUNK.SVC_STAT.SVC_OVF]⟩]

/-! ### REF page (spec chapter 12) -/

def REF.REF_CTRL.MODE : Fld := ⟨0x40, 0, 2, 0, .rw⟩
def REF.REF_CTRL.MAN_IDX : Fld := ⟨0x40, 4, 4, 0, .rw⟩
def REF.REF_CTRL.REVERTIVE : Fld := ⟨0x40, 8, 1, 1, .rw⟩
def REF.REF_CTRL.MEDIAN : Fld := ⟨0x40, 9, 1, 0, .rw⟩
def REF.DPLL_STAT.STATE : Fld := ⟨0x44, 0, 3, 0, .ro⟩
def REF.DPLL_STAT.SEL_VALID : Fld := ⟨0x44, 3, 1, 0, .ro⟩
def REF.DPLL_STAT.SELECTED : Fld := ⟨0x44, 4, 4, 0, .ro⟩
def REF.DPLL_STAT.HO_VALID : Fld := ⟨0x44, 8, 1, 0, .ro⟩
def REF.DPLL_STAT.MEDIAN_ACTIVE : Fld := ⟨0x44, 9, 1, 0, .ro⟩
def REF.DPLL_STAT.DISAGREE : Fld := ⟨0x44, 10, 1, 0, .ro⟩
def REF.DPLL_BW.LOCK_BW : Fld := ⟨0x48, 0, 10, 10, .rw⟩
def REF.DPLL_BW.ACQ_BW : Fld := ⟨0x48, 16, 10, 100, .rw⟩
def REF.LOCK_CFG.THRESH : Fld := ⟨0x4c, 0, 16, 100, .rw⟩
def REF.LOCK_CFG.TIME : Fld := ⟨0x4c, 16, 16, 1000, .rw⟩
def REF.QUAL_LIM.ACCEPT : Fld := ⟨0x50, 0, 16, 2000, .rw⟩
def REF.QUAL_LIM.REJECT : Fld := ⟨0x50, 16, 16, 5000, .rw⟩
def REF.DISAGREE_LIM.PPB : Fld := ⟨0x54, 0, 16, 1000, .rw⟩
def REF.SOAK_CFG.SOAK : Fld := ⟨0x58, 0, 16, 50, .rw⟩
def REF.SOAK_CFG.LOST_SOAK : Fld := ⟨0x58, 16, 16, 300, .rw⟩
def REF.QL_CFG.ACCEPT_MASK : Fld := ⟨0x5c, 0, 16, 2325, .rw⟩
def REF.QL_CFG.HO_QL : Fld := ⟨0x5c, 16, 4, 11, .rw⟩
def REF.QL_CFG.LOST_QL : Fld := ⟨0x5c, 20, 4, 15, .rw⟩
def REF.QL_CFG.FR_QL : Fld := ⟨0x5c, 24, 4, 8, .rw⟩
def REF.HO_CFG.TE_LIMIT : Fld := ⟨0x60, 0, 16, 1000, .rw⟩
def REF.HO_CFG.TSENS : Fld := ⟨0x60, 16, 3, 0, .rw⟩
def REF.HO_CFG.TSRC : Fld := ⟨0x60, 19, 1, 0, .rw⟩
def REF.HO_CFG.AVG_S : Fld := ⟨0x60, 24, 8, 60, .rw⟩
def REF.HO_FUNC.VALUE : Fld := ⟨0x64, 0, 32, 0, .rw⟩
def REF.HO_AGING.VALUE : Fld := ⟨0x68, 0, 32, 0, .rw⟩
def REF.HO_AGING_UNC.VALUE : Fld := ⟨0x6c, 0, 32, 0, .rw⟩
def REF.HO_TC.VALUE : Fld := ⟨0x70, 0, 32, 0, .rw⟩
def REF.HO_TC_UNC.VALUE : Fld := ⟨0x74, 0, 32, 0, .rw⟩
def REF.HO_TEMP.TEMP : Fld := ⟨0x78, 0, 16, 0, .rw⟩
def REF.HO_FREQ.VALUE : Fld := ⟨0x7c, 0, 32, 0, .ro⟩
def REF.HO_TE.VALUE : Fld := ⟨0x80, 0, 32, 0, .ro⟩
def REF.HO_ELAPSED.VALUE : Fld := ⟨0x84, 0, 32, 0, .ro⟩
def REF.DPLL_FREQ.VALUE : Fld := ⟨0x88, 0, 32, 0, .ro⟩
def REF.PHASE_ERR.VALUE : Fld := ⟨0x8c, 0, 32, 0, .ro⟩
def REF.PSTEP.PS : Fld := ⟨0x90, 0, 32, 0, .rw⟩
def REF.PSTEP_CTRL.GO : Fld := ⟨0x94, 0, 1, 0, .w1s⟩
def REF.PSTEP_CTRL.BUSY : Fld := ⟨0x94, 1, 1, 0, .ro⟩
def REF.PSTEP_CTRL.RATE : Fld := ⟨0x94, 8, 8, 50, .rw⟩
def REF.NUM_FREQ.PPB : Fld := ⟨0x98, 0, 32, 0, .rw⟩
def REF.NUM_PHASE.PS : Fld := ⟨0x9c, 0, 32, 0, .rw⟩
def REF.NUM_TMO.MS : Fld := ⟨0xa0, 0, 16, 2000, .rw⟩
def REF.REF_CFG.EN (k : Nat) : Fld := ⟨0x100 + 8 * k, 0, 1, 0, .rw⟩
def REF.REF_CFG.RANK (k : Nat) : Fld := ⟨0x100 + 8 * k, 1, 3, 7, .rw⟩
def REF.REF_CFG.PHASE_ALIGN (k : Nat) : Fld := ⟨0x100 + 8 * k, 4, 1, 0, .rw⟩
def REF.REF_CFG.WFREQ (k : Nat) : Fld := ⟨0x100 + 8 * k, 5, 2, 1, .rw⟩
def REF.REF_CFG.QL (k : Nat) : Fld := ⟨0x100 + 8 * k, 8, 4, 4, .rw⟩
def REF.REF_STAT.ACTIVE (k : Nat) : Fld := ⟨0x104 + 8 * k, 0, 1, 0, .ro⟩
def REF.REF_STAT.QUALIFIED (k : Nat) : Fld := ⟨0x104 + 8 * k, 1, 1, 0, .ro⟩
def REF.REF_STAT.SOAKING (k : Nat) : Fld := ⟨0x104 + 8 * k, 2, 1, 0, .ro⟩
def REF.REF_STAT.TREND (k : Nat) : Fld := ⟨0x104 + 8 * k, 3, 1, 0, .ro⟩
def REF.REF_STAT.QL_BAD (k : Nat) : Fld := ⟨0x104 + 8 * k, 4, 1, 0, .ro⟩
def REF.REF_STAT.LOOP (k : Nat) : Fld := ⟨0x104 + 8 * k, 5, 1, 0, .ro⟩
def REF.REF_STAT.ELIGIBLE (k : Nat) : Fld := ⟨0x104 + 8 * k, 6, 1, 0, .ro⟩
def REF.REF_STAT.RX_QL (k : Nat) : Fld := ⟨0x104 + 8 * k, 8, 4, 0, .ro⟩
def REF.REF_STAT.SOAK_LEFT (k : Nat) : Fld := ⟨0x104 + 8 * k, 16, 16, 0, .ro⟩
def REF.REF_FOFF.PPB (k : Nat) : Fld := ⟨0x180 + 4 * k, 0, 32, 0, .ro⟩

/-- The registers of the REF page. -/
def REF.regs : List RegD :=
  [⟨0x40, 0, 1, [REF.REF_CTRL.MODE, REF.REF_CTRL.MAN_IDX, REF.REF_CTRL.REVERTIVE, REF.REF_CTRL.MEDIAN]⟩,
   ⟨0x44, 0, 1, [REF.DPLL_STAT.STATE, REF.DPLL_STAT.SEL_VALID, REF.DPLL_STAT.SELECTED, REF.DPLL_STAT.HO_VALID, REF.DPLL_STAT.MEDIAN_ACTIVE, REF.DPLL_STAT.DISAGREE]⟩,
   ⟨0x48, 0, 1, [REF.DPLL_BW.LOCK_BW, REF.DPLL_BW.ACQ_BW]⟩,
   ⟨0x4c, 0, 1, [REF.LOCK_CFG.THRESH, REF.LOCK_CFG.TIME]⟩,
   ⟨0x50, 0, 1, [REF.QUAL_LIM.ACCEPT, REF.QUAL_LIM.REJECT]⟩,
   ⟨0x54, 0, 1, [REF.DISAGREE_LIM.PPB]⟩,
   ⟨0x58, 0, 1, [REF.SOAK_CFG.SOAK, REF.SOAK_CFG.LOST_SOAK]⟩,
   ⟨0x5c, 0, 1, [REF.QL_CFG.ACCEPT_MASK, REF.QL_CFG.HO_QL, REF.QL_CFG.LOST_QL, REF.QL_CFG.FR_QL]⟩,
   ⟨0x60, 0, 1, [REF.HO_CFG.TE_LIMIT, REF.HO_CFG.TSENS, REF.HO_CFG.TSRC, REF.HO_CFG.AVG_S]⟩,
   ⟨0x64, 0, 1, [REF.HO_FUNC.VALUE]⟩,
   ⟨0x68, 0, 1, [REF.HO_AGING.VALUE]⟩,
   ⟨0x6c, 0, 1, [REF.HO_AGING_UNC.VALUE]⟩,
   ⟨0x70, 0, 1, [REF.HO_TC.VALUE]⟩,
   ⟨0x74, 0, 1, [REF.HO_TC_UNC.VALUE]⟩,
   ⟨0x78, 0, 1, [REF.HO_TEMP.TEMP]⟩,
   ⟨0x7c, 0, 1, [REF.HO_FREQ.VALUE]⟩,
   ⟨0x80, 0, 1, [REF.HO_TE.VALUE]⟩,
   ⟨0x84, 0, 1, [REF.HO_ELAPSED.VALUE]⟩,
   ⟨0x88, 0, 1, [REF.DPLL_FREQ.VALUE]⟩,
   ⟨0x8c, 0, 1, [REF.PHASE_ERR.VALUE]⟩]
  ++ [⟨0x90, 0, 1, [REF.PSTEP.PS]⟩,
   ⟨0x94, 0, 1, [REF.PSTEP_CTRL.GO, REF.PSTEP_CTRL.BUSY, REF.PSTEP_CTRL.RATE]⟩,
   ⟨0x98, 0, 1, [REF.NUM_FREQ.PPB]⟩,
   ⟨0x9c, 0, 1, [REF.NUM_PHASE.PS]⟩,
   ⟨0xa0, 0, 1, [REF.NUM_TMO.MS]⟩,
   ⟨0x100, 8, 16, [REF.REF_CFG.EN 0, REF.REF_CFG.RANK 0, REF.REF_CFG.PHASE_ALIGN 0, REF.REF_CFG.WFREQ 0, REF.REF_CFG.QL 0]⟩,
   ⟨0x104, 8, 16, [REF.REF_STAT.ACTIVE 0, REF.REF_STAT.QUALIFIED 0, REF.REF_STAT.SOAKING 0, REF.REF_STAT.TREND 0, REF.REF_STAT.QL_BAD 0, REF.REF_STAT.LOOP 0, REF.REF_STAT.ELIGIBLE 0, REF.REF_STAT.RX_QL 0, REF.REF_STAT.SOAK_LEFT 0]⟩,
   ⟨0x180, 4, 16, [REF.REF_FOFF.PPB 0]⟩]

/-! ### NTIME page (spec chapter 12) -/

def NTIME.NT_CTRL.ROLE : Fld := ⟨0x40, 0, 1, 0, .rw⟩
def NTIME.NT_CTRL.ALIGN : Fld := ⟨0x40, 1, 1, 0, .w1s⟩
def NTIME.NT_CTRL.SET : Fld := ⟨0x40, 2, 1, 0, .w1s⟩
def NTIME.NT_CTRL.PPS_OUT_EN : Fld := ⟨0x40, 3, 1, 0, .rw⟩
def NTIME.NT_CTRL.SLEW_MAX : Fld := ⟨0x40, 8, 6, 50, .rw⟩
def NTIME.NT_CTRL.HOPS_MAX : Fld := ⟨0x40, 16, 8, 64, .rw⟩
def NTIME.NT_STAT.ALIGN_PEND : Fld := ⟨0x44, 0, 1, 0, .ro⟩
def NTIME.NT_STAT.SET_PEND : Fld := ⟨0x44, 1, 1, 0, .ro⟩
def NTIME.NT_STAT.ALIGN_REQ : Fld := ⟨0x44, 2, 1, 0, .ro⟩
def NTIME.NT_STAT.SLEWING : Fld := ⟨0x44, 3, 1, 0, .ro⟩
def NTIME.NT_STAT.STEP_SEQ : Fld := ⟨0x44, 4, 2, 0, .ro⟩
def NTIME.NT_NOW.NT : Fld := ⟨0x48, 0, 32, 0, .ro⟩
def NTIME.NT_FRAC.FRAC : Fld := ⟨0x4c, 0, 16, 0, .ro⟩
def NTIME.CYC_LATCH.CYCLE : Fld := ⟨0x50, 0, 32, 0, .ro⟩
def NTIME.CYC_NOW.CYCLE : Fld := ⟨0x54, 0, 32, 0, .ro⟩
def NTIME.NT_SET_VAL.NT : Fld := ⟨0x58, 0, 32, 0, .rw⟩
def NTIME.CYC_SET_VAL.CYCLE : Fld := ⟨0x5c, 0, 32, 0, .rw⟩
def NTIME.ALIGN_LIM.NS : Fld := ⟨0x60, 0, 16, 5000, .rw⟩
def NTIME.STEP_THR.PATH : Fld := ⟨0x64, 0, 16, 50, .rw⟩
def NTIME.STEP_THR.LINK : Fld := ⟨0x64, 16, 16, 20, .rw⟩
def NTIME.DLY_TC.LOG2 : Fld := ⟨0x68, 0, 4, 8, .rw⟩
def NTIME.TIME_SRC_STAT.MASTER_ID : Fld := ⟨0x6c, 0, 16, 0, .ro⟩
def NTIME.TIME_SRC_STAT.HOPS : Fld := ⟨0x6c, 16, 8, 0, .ro⟩
def NTIME.TIME_SRC_STAT.LANE : Fld := ⟨0x6c, 24, 4, 0, .ro⟩
def NTIME.TIME_SRC_STAT.STEP_SEQ : Fld := ⟨0x6c, 28, 2, 0, .ro⟩
def NTIME.TIME_SRC_STAT.VALID : Fld := ⟨0x6c, 31, 1, 0, .ro⟩
def NTIME.PPS_OUT_CYC.CYCLE : Fld := ⟨0x70, 0, 32, 0, .rw⟩
def NTIME.PPS_OUT_CFG.WIDTH : Fld := ⟨0x74, 0, 8, 10, .rw⟩
def NTIME.PPS_CAP_NT.VALUE : Fld := ⟨0x78, 0, 32, 0, .ro⟩
def NTIME.PPS_CAP_FRAC.VALUE : Fld := ⟨0x7c, 0, 32, 0, .ro⟩
def NTIME.PPS_CAP_CYC.VALUE : Fld := ⟨0x80, 0, 32, 0, .ro⟩
def NTIME.LDLY.DELAY (k : Nat) : Fld := ⟨0x100 + 4 * k, 0, 32, 4294967295, .ro⟩
def NTIME.LASYM.ASYM (k : Nat) : Fld := ⟨0x140 + 4 * k, 0, 32, 0, .rw⟩

/-- The registers of the NTIME page. -/
def NTIME.regs : List RegD :=
  [⟨0x40, 0, 1, [NTIME.NT_CTRL.ROLE, NTIME.NT_CTRL.ALIGN, NTIME.NT_CTRL.SET, NTIME.NT_CTRL.PPS_OUT_EN, NTIME.NT_CTRL.SLEW_MAX, NTIME.NT_CTRL.HOPS_MAX]⟩,
   ⟨0x44, 0, 1, [NTIME.NT_STAT.ALIGN_PEND, NTIME.NT_STAT.SET_PEND, NTIME.NT_STAT.ALIGN_REQ, NTIME.NT_STAT.SLEWING, NTIME.NT_STAT.STEP_SEQ]⟩,
   ⟨0x48, 0, 1, [NTIME.NT_NOW.NT]⟩,
   ⟨0x4c, 0, 1, [NTIME.NT_FRAC.FRAC]⟩,
   ⟨0x50, 0, 1, [NTIME.CYC_LATCH.CYCLE]⟩,
   ⟨0x54, 0, 1, [NTIME.CYC_NOW.CYCLE]⟩,
   ⟨0x58, 0, 1, [NTIME.NT_SET_VAL.NT]⟩,
   ⟨0x5c, 0, 1, [NTIME.CYC_SET_VAL.CYCLE]⟩,
   ⟨0x60, 0, 1, [NTIME.ALIGN_LIM.NS]⟩,
   ⟨0x64, 0, 1, [NTIME.STEP_THR.PATH, NTIME.STEP_THR.LINK]⟩,
   ⟨0x68, 0, 1, [NTIME.DLY_TC.LOG2]⟩,
   ⟨0x6c, 0, 1, [NTIME.TIME_SRC_STAT.MASTER_ID, NTIME.TIME_SRC_STAT.HOPS, NTIME.TIME_SRC_STAT.LANE, NTIME.TIME_SRC_STAT.STEP_SEQ, NTIME.TIME_SRC_STAT.VALID]⟩,
   ⟨0x70, 0, 1, [NTIME.PPS_OUT_CYC.CYCLE]⟩,
   ⟨0x74, 0, 1, [NTIME.PPS_OUT_CFG.WIDTH]⟩,
   ⟨0x78, 0, 1, [NTIME.PPS_CAP_NT.VALUE]⟩,
   ⟨0x7c, 0, 1, [NTIME.PPS_CAP_FRAC.VALUE]⟩,
   ⟨0x80, 0, 1, [NTIME.PPS_CAP_CYC.VALUE]⟩,
   ⟨0x100, 4, 12, [NTIME.LDLY.DELAY 0]⟩,
   ⟨0x140, 4, 12, [NTIME.LASYM.ASYM 0]⟩]

/-! ### SCHED page (spec chapter 12) -/

def SCHED.SCHED_LATE_COUNT.COUNT : Fld := ⟨0x40, 0, 16, 0, .rc⟩
def SCHED.SCHED_REFUSED_COUNT.COUNT : Fld := ⟨0x44, 0, 16, 0, .rc⟩
def SCHED.USER_ARG.ARG : Fld := ⟨0x48, 0, 32, 0, .ro⟩
def SCHED.LAST_FIRED.ENTRY : Fld := ⟨0x4c, 0, 6, 0, .ro⟩
def SCHED.ARMED0.ARMED : Fld := ⟨0x50, 0, 32, 0, .ro⟩
def SCHED.ARMED1.ARMED : Fld := ⟨0x54, 0, 32, 0, .ro⟩
def SCHED.ACT_CTRL.TYPE (k : Nat) : Fld := ⟨0x100 + 16 * k, 0, 4, 0, .rw⟩
def SCHED.ACT_CTRL.BASE (k : Nat) : Fld := ⟨0x100 + 16 * k, 4, 1, 0, .rw⟩
def SCHED.ACT_CTRL.STRICT (k : Nat) : Fld := ⟨0x100 + 16 * k, 5, 1, 1, .rw⟩
def SCHED.ACT_CTRL.ARM (k : Nat) : Fld := ⟨0x100 + 16 * k, 6, 1, 0, .w1s⟩
def SCHED.ACT_CTRL.DISARM (k : Nat) : Fld := ⟨0x100 + 16 * k, 7, 1, 0, .w1s⟩
def SCHED.ACT_CTRL.ARMED (k : Nat) : Fld := ⟨0x100 + 16 * k, 8, 1, 0, .ro⟩
def SCHED.ACT_CTRL.FIRED (k : Nat) : Fld := ⟨0x100 + 16 * k, 9, 1, 0, .ro⟩
def SCHED.ACT_CTRL.LATE (k : Nat) : Fld := ⟨0x100 + 16 * k, 10, 1, 0, .ro⟩
def SCHED.ACT_CTRL.REFUSED (k : Nat) : Fld := ⟨0x100 + 16 * k, 11, 1, 0, .ro⟩
def SCHED.ACT_CTRL.CANCELLED (k : Nat) : Fld := ⟨0x100 + 16 * k, 12, 1, 0, .ro⟩
def SCHED.ACT_TARGET.TARGET (k : Nat) : Fld := ⟨0x104 + 16 * k, 0, 32, 0, .rw⟩
def SCHED.ACT_ARG.ARG (k : Nat) : Fld := ⟨0x108 + 16 * k, 0, 32, 0, .rw⟩
def SCHED.ACT_DONE.CYCLE (k : Nat) : Fld := ⟨0x10c + 16 * k, 0, 32, 0, .ro⟩

/-- The registers of the SCHED page. -/
def SCHED.regs : List RegD :=
  [⟨0x40, 0, 1, [SCHED.SCHED_LATE_COUNT.COUNT]⟩,
   ⟨0x44, 0, 1, [SCHED.SCHED_REFUSED_COUNT.COUNT]⟩,
   ⟨0x48, 0, 1, [SCHED.USER_ARG.ARG]⟩,
   ⟨0x4c, 0, 1, [SCHED.LAST_FIRED.ENTRY]⟩,
   ⟨0x50, 0, 1, [SCHED.ARMED0.ARMED]⟩,
   ⟨0x54, 0, 1, [SCHED.ARMED1.ARMED]⟩,
   ⟨0x100, 16, 64, [SCHED.ACT_CTRL.TYPE 0, SCHED.ACT_CTRL.BASE 0, SCHED.ACT_CTRL.STRICT 0, SCHED.ACT_CTRL.ARM 0, SCHED.ACT_CTRL.DISARM 0, SCHED.ACT_CTRL.ARMED 0, SCHED.ACT_CTRL.FIRED 0, SCHED.ACT_CTRL.LATE 0, SCHED.ACT_CTRL.REFUSED 0, SCHED.ACT_CTRL.CANCELLED 0]⟩,
   ⟨0x104, 16, 64, [SCHED.ACT_TARGET.TARGET 0]⟩,
   ⟨0x108, 16, 64, [SCHED.ACT_ARG.ARG 0]⟩,
   ⟨0x10c, 16, 64, [SCHED.ACT_DONE.CYCLE 0]⟩]

/-! ### TDM page (spec chapter 13) -/

def TDM.TDM_CFG.SLOTS : Fld := ⟨0x40, 0, 5, 0, .rw⟩
def TDM.TDM_CFG.SLOT_W : Fld := ⟨0x40, 5, 2, 2, .rw⟩
def TDM.TDM_CFG.DATA_W : Fld := ⟨0x40, 7, 2, 2, .rw⟩
def TDM.TDM_CFG.OFFSET : Fld := ⟨0x40, 9, 8, 0, .rw⟩
def TDM.TDM_CFG.FS_LONG : Fld := ⟨0x40, 17, 1, 0, .rw⟩
def TDM.TDM_CFG.FS_INV : Fld := ⟨0x40, 18, 1, 0, .rw⟩
def TDM.TDM_CFG.SAMPLE_FALL : Fld := ⟨0x40, 19, 1, 0, .rw⟩
def TDM.TDM_CFG.LAUNCH_SAME : Fld := ⟨0x40, 20, 1, 0, .rw⟩
def TDM.TDM_CFG.FRAME_LOG2 : Fld := ⟨0x40, 21, 4, 8, .rw⟩
def TDM.PORT_CTRL.TX_MASTER : Fld := ⟨0x44, 0, 1, 0, .rw⟩
def TDM.PORT_CTRL.RX_SRC : Fld := ⟨0x44, 1, 2, 0, .rw⟩
def TDM.PORT_CTRL.TX_EN : Fld := ⟨0x44, 3, 1, 0, .rw⟩
def TDM.PORT_CTRL.RX_EN : Fld := ⟨0x44, 4, 1, 0, .rw⟩
def TDM.PORT_CTRL.START_GROUP : Fld := ⟨0x44, 5, 3, 0, .rw⟩
def TDM.PORT_CTRL.TX_SLIP_GROUP : Fld := ⟨0x44, 8, 3, 0, .rw⟩
def TDM.PORT_CTRL.RX_SLIP_GROUP : Fld := ⟨0x44, 11, 3, 0, .rw⟩
def TDM.PORT_CTRL.SLIP_DEFER : Fld := ⟨0x44, 14, 1, 1, .rw⟩
def TDM.PORT_CTRL.UFILL : Fld := ⟨0x44, 15, 1, 0, .rw⟩
def TDM.PORT_CTRL.SLOT_OFF : Fld := ⟨0x44, 16, 1, 0, .rw⟩
def TDM.PORT_CTRL.MASK_IMM : Fld := ⟨0x44, 17, 1, 0, .rw⟩
def TDM.PORT_CTRL.DITHER : Fld := ⟨0x44, 18, 1, 0, .rw⟩
def TDM.TX_SIG.BASE : Fld := ⟨0x48, 0, 14, 0, .rws⟩
def TDM.RX_SIG.BASE : Fld := ⟨0x4c, 0, 14, 0, .rws⟩
def TDM.TX_MASK.MASK : Fld := ⟨0x50, 0, 32, 0, .rws⟩
def TDM.RX_MASK.MASK : Fld := ⟨0x54, 0, 32, 0, .rws⟩
def TDM.PORT_STAT.STATE : Fld := ⟨0x58, 0, 2, 0, .ro⟩
def TDM.PORT_STAT.TX_SLIP_PEND : Fld := ⟨0x58, 2, 1, 0, .ro⟩
def TDM.PORT_STAT.RX_SLIP_PEND : Fld := ⟨0x58, 3, 1, 0, .ro⟩
def TDM.PORT_STAT.RX_FILL : Fld := ⟨0x58, 8, 8, 0, .ro⟩
def TDM.PORT_STAT.TX_FILL : Fld := ⟨0x58, 16, 8, 0, .ro⟩
def TDM.SLIP_COUNT.RX_DROP : Fld := ⟨0x5c, 0, 8, 0, .rc⟩
def TDM.SLIP_COUNT.RX_REPEAT : Fld := ⟨0x5c, 8, 8, 0, .rc⟩
def TDM.SLIP_COUNT.TX_DROP : Fld := ⟨0x5c, 16, 8, 0, .rc⟩
def TDM.SLIP_COUNT.TX_REPEAT : Fld := ⟨0x5c, 24, 8, 0, .rc⟩
def TDM.FORCED_COUNT.COUNT : Fld := ⟨0x60, 0, 16, 0, .rc⟩
def TDM.UNDERRUN_COUNT.COUNT : Fld := ⟨0x64, 0, 16, 0, .rc⟩
def TDM.FRAME_ERR_COUNT.COUNT : Fld := ⟨0x68, 0, 16, 0, .rc⟩
def TDM.FRAME_LEN.RX : Fld := ⟨0x6c, 0, 12, 0, .ro⟩
def TDM.FRAME_LEN.TX : Fld := ⟨0x6c, 16, 12, 0, .ro⟩
def TDM.RATE_OFF.PPB : Fld := ⟨0x70, 0, 32, 0, .ro⟩
def TDM.PORT_START.GROUPS : Fld := ⟨0x100, 0, 8, 0, .w1s⟩

/-- The registers of the TDM page. -/
def TDM.regs : List RegD :=
  [⟨0x40, 0, 1, [TDM.TDM_CFG.SLOTS, TDM.TDM_CFG.SLOT_W, TDM.TDM_CFG.DATA_W, TDM.TDM_CFG.OFFSET, TDM.TDM_CFG.FS_LONG, TDM.TDM_CFG.FS_INV, TDM.TDM_CFG.SAMPLE_FALL, TDM.TDM_CFG.LAUNCH_SAME, TDM.TDM_CFG.FRAME_LOG2]⟩,
   ⟨0x44, 0, 1, [TDM.PORT_CTRL.TX_MASTER, TDM.PORT_CTRL.RX_SRC, TDM.PORT_CTRL.TX_EN, TDM.PORT_CTRL.RX_EN, TDM.PORT_CTRL.START_GROUP, TDM.PORT_CTRL.TX_SLIP_GROUP, TDM.PORT_CTRL.RX_SLIP_GROUP, TDM.PORT_CTRL.SLIP_DEFER, TDM.PORT_CTRL.UFILL, TDM.PORT_CTRL.SLOT_OFF, TDM.PORT_CTRL.MASK_IMM, TDM.PORT_CTRL.DITHER]⟩,
   ⟨0x48, 0, 1, [TDM.TX_SIG.BASE]⟩,
   ⟨0x4c, 0, 1, [TDM.RX_SIG.BASE]⟩,
   ⟨0x50, 0, 1, [TDM.TX_MASK.MASK]⟩,
   ⟨0x54, 0, 1, [TDM.RX_MASK.MASK]⟩,
   ⟨0x58, 0, 1, [TDM.PORT_STAT.STATE, TDM.PORT_STAT.TX_SLIP_PEND, TDM.PORT_STAT.RX_SLIP_PEND, TDM.PORT_STAT.RX_FILL, TDM.PORT_STAT.TX_FILL]⟩,
   ⟨0x5c, 0, 1, [TDM.SLIP_COUNT.RX_DROP, TDM.SLIP_COUNT.RX_REPEAT, TDM.SLIP_COUNT.TX_DROP, TDM.SLIP_COUNT.TX_REPEAT]⟩,
   ⟨0x60, 0, 1, [TDM.FORCED_COUNT.COUNT]⟩,
   ⟨0x64, 0, 1, [TDM.UNDERRUN_COUNT.COUNT]⟩,
   ⟨0x68, 0, 1, [TDM.FRAME_ERR_COUNT.COUNT]⟩,
   ⟨0x6c, 0, 1, [TDM.FRAME_LEN.RX, TDM.FRAME_LEN.TX]⟩,
   ⟨0x70, 0, 1, [TDM.RATE_OFF.PPB]⟩,
   ⟨0x100, 0, 1, [TDM.PORT_START.GROUPS]⟩]

/-! ### I2S page (spec chapter 13) -/

def I2S.I2S_CFG.DATA_W : Fld := ⟨0x40, 7, 2, 1, .rw⟩
def I2S.I2S_CFG.FORMAT : Fld := ⟨0x40, 9, 1, 0, .rw⟩
def I2S.I2S_CFG.MASTER : Fld := ⟨0x40, 10, 1, 0, .rw⟩

/-- The registers of the I2S page. -/
def I2S.regs : List RegD :=
  [⟨0x40, 0, 1, [I2S.I2S_CFG.DATA_W, I2S.I2S_CFG.FORMAT, I2S.I2S_CFG.MASTER]⟩]

/-! ### AMPC page (spec chapter 14) -/

def AMPC.AMPC_CTRL.FSW : Fld := ⟨0x40, 0, 2, 1, .rw⟩
def AMPC.CAL_CTRL.CHAN : Fld := ⟨0x44, 0, 4, 0, .rw⟩
def AMPC.CAL_CTRL.GO : Fld := ⟨0x44, 4, 1, 0, .w1s⟩
def AMPC.CAL_STAT.BUSY : Fld := ⟨0x48, 0, 1, 0, .ro⟩
def AMPC.CAL_STAT.STEP : Fld := ⟨0x48, 1, 2, 0, .ro⟩
def AMPC.CAL_STAT.ABORTED : Fld := ⟨0x48, 3, 1, 0, .ro⟩
def AMPC.CAL_STAT.LAST_CHAN : Fld := ⟨0x48, 8, 4, 0, .ro⟩
def AMPC.DRV_EN_STAT.DRIVEN : Fld := ⟨0x4c, 0, 4, 0, .ro⟩

/-- The registers of the AMPC page. -/
def AMPC.regs : List RegD :=
  [⟨0x40, 0, 1, [AMPC.AMPC_CTRL.FSW]⟩,
   ⟨0x44, 0, 1, [AMPC.CAL_CTRL.CHAN, AMPC.CAL_CTRL.GO]⟩,
   ⟨0x48, 0, 1, [AMPC.CAL_STAT.BUSY, AMPC.CAL_STAT.STEP, AMPC.CAL_STAT.ABORTED, AMPC.CAL_STAT.LAST_CHAN]⟩,
   ⟨0x4c, 0, 1, [AMPC.DRV_EN_STAT.DRIVEN]⟩]

/-! ### AMP page (spec chapter 14) -/

def AMP.AMP_CTRL.MUTE : Fld := ⟨0x40, 0, 1, 0, .rw⟩
def AMP.AMP_CTRL.SIG_EN : Fld := ⟨0x40, 1, 1, 0, .rws⟩
def AMP.AMP_CTRL.PILOT_EN : Fld := ⟨0x40, 2, 1, 0, .rw⟩
def AMP.AMP_CTRL.LATCH_CLR : Fld := ⟨0x40, 3, 1, 0, .w1s⟩
def AMP.AMP_CTRL.PROBE_REQ : Fld := ⟨0x40, 4, 1, 0, .w1s⟩
def AMP.AMP_SRC.SRC : Fld := ⟨0x44, 0, 14, 0, .rws⟩
def AMP.AMP_SIG.VSIG : Fld := ⟨0x48, 0, 14, 0, .rws⟩
def AMP.AMP_SIG.ISIG : Fld := ⟨0x48, 16, 14, 0, .rws⟩
def AMP.AMP_GAIN.GAIN : Fld := ⟨0x4c, 0, 32, 0, .rws⟩
def AMP.AMP_RAMP.LEN : Fld := ⟨0x50, 0, 14, 960, .rw⟩
def AMP.SENSE_SCALE.V_FS : Fld := ⟨0x54, 0, 16, 0, .rw⟩
def AMP.SENSE_SCALE.I_FS : Fld := ⟨0x54, 16, 16, 0, .rw⟩
def AMP.RAIL_NOM.MV : Fld := ⟨0x58, 0, 10, 500, .rw⟩
def AMP.LOOP_C.COEF (k : Nat) : Fld := ⟨0x60 + 4 * k, 0, 32, 0, .rw⟩
def AMP.PWM_CFG.DEADTIME : Fld := ⟨0x74, 0, 8, 48, .rw⟩
def AMP.PWM_CFG.MOD_MAX : Fld := ⟨0x74, 16, 16, 31130, .rw⟩
def AMP.OCP_CFG.THRESH : Fld := ⟨0x78, 0, 8, 192, .rw⟩
def AMP.OCP_CFG.LIMIT_N : Fld := ⟨0x78, 8, 4, 8, .rw⟩
def AMP.OCP_CFG.HOLD_MS : Fld := ⟨0x78, 16, 10, 100, .rw⟩
def AMP.PROBE_CFG.MV : Fld := ⟨0x7c, 0, 10, 500, .rw⟩
def AMP.RDC_WIN.RDC_MIN : Fld := ⟨0x80, 0, 16, 1500, .rw⟩
def AMP.RDC_WIN.RDC_MAX : Fld := ⟨0x80, 16, 16, 20000, .rw⟩
def AMP.ZWIN.Z_LO : Fld := ⟨0x88, 0, 16, 1500, .rw⟩
def AMP.ZWIN.Z_HI : Fld := ⟨0x88, 16, 16, 20000, .rw⟩
def AMP.PILOT_CFG.F : Fld := ⟨0x84, 0, 12, 2, .rw⟩
def AMP.PILOT_CFG.LEVEL : Fld := ⟨0x84, 16, 16, 50176, .rw⟩
def AMP.AMP_STAT.STATE : Fld := ⟨0x8c, 0, 3, 0, .ro⟩
def AMP.AMP_STAT.MUTED : Fld := ⟨0x8c, 3, 1, 0, .ro⟩
def AMP.AMP_STAT.LIMITING : Fld := ⟨0x8c, 4, 1, 0, .ro⟩
def AMP.AMP_STAT.ATTEMPTS : Fld := ⟨0x8c, 5, 2, 0, .ro⟩
def AMP.AMP_STAT.Z_VALID : Fld := ⟨0x8c, 7, 1, 0, .ro⟩
def AMP.AMP_STAT.Z_ALARM : Fld := ⟨0x8c, 8, 1, 0, .ro⟩
def AMP.AMP_STAT.OPEN : Fld := ⟨0x8c, 9, 1, 0, .ro⟩
def AMP.Z_RE.VALUE : Fld := ⟨0x90, 0, 32, 0, .ro⟩
def AMP.Z_IM.VALUE : Fld := ⟨0x94, 0, 32, 0, .ro⟩
def AMP.Z_MAG.VALUE : Fld := ⟨0x98, 0, 32, 0, .ro⟩
def AMP.Z_CYCLE.VALUE : Fld := ⟨0x9c, 0, 32, 0, .ro⟩
def AMP.RDC_LAST.MOHM : Fld := ⟨0xa0, 0, 16, 0, .ro⟩
def AMP.RDC_LAST.SHORT : Fld := ⟨0xa0, 16, 1, 0, .ro⟩
def AMP.LIMIT_COUNT.COUNT : Fld := ⟨0xa4, 0, 32, 0, .rc⟩
def AMP.TRIP_COUNT.COUNT : Fld := ⟨0xa8, 0, 32, 0, .rc⟩
def AMP.CLIP_COUNT.COUNT : Fld := ⟨0xac, 0, 32, 0, .rc⟩
def AMP.TRIM_V.OFS : Fld := ⟨0xb0, 0, 16, 0, .ro⟩
def AMP.TRIM_V.GAIN : Fld := ⟨0xb0, 16, 16, 0, .ro⟩
def AMP.TRIM_I.OFS : Fld := ⟨0xb4, 0, 16, 0, .ro⟩
def AMP.TRIM_I.GAIN : Fld := ⟨0xb4, 16, 16, 0, .ro⟩

/-- The registers of the AMP page. -/
def AMP.regs : List RegD :=
  [⟨0x40, 0, 1, [AMP.AMP_CTRL.MUTE, AMP.AMP_CTRL.SIG_EN, AMP.AMP_CTRL.PILOT_EN, AMP.AMP_CTRL.LATCH_CLR, AMP.AMP_CTRL.PROBE_REQ]⟩,
   ⟨0x44, 0, 1, [AMP.AMP_SRC.SRC]⟩,
   ⟨0x48, 0, 1, [AMP.AMP_SIG.VSIG, AMP.AMP_SIG.ISIG]⟩,
   ⟨0x4c, 0, 1, [AMP.AMP_GAIN.GAIN]⟩,
   ⟨0x50, 0, 1, [AMP.AMP_RAMP.LEN]⟩,
   ⟨0x54, 0, 1, [AMP.SENSE_SCALE.V_FS, AMP.SENSE_SCALE.I_FS]⟩,
   ⟨0x58, 0, 1, [AMP.RAIL_NOM.MV]⟩,
   ⟨0x60, 4, 5, [AMP.LOOP_C.COEF 0]⟩,
   ⟨0x74, 0, 1, [AMP.PWM_CFG.DEADTIME, AMP.PWM_CFG.MOD_MAX]⟩,
   ⟨0x78, 0, 1, [AMP.OCP_CFG.THRESH, AMP.OCP_CFG.LIMIT_N, AMP.OCP_CFG.HOLD_MS]⟩,
   ⟨0x7c, 0, 1, [AMP.PROBE_CFG.MV]⟩,
   ⟨0x80, 0, 1, [AMP.RDC_WIN.RDC_MIN, AMP.RDC_WIN.RDC_MAX]⟩,
   ⟨0x88, 0, 1, [AMP.ZWIN.Z_LO, AMP.ZWIN.Z_HI]⟩,
   ⟨0x84, 0, 1, [AMP.PILOT_CFG.F, AMP.PILOT_CFG.LEVEL]⟩,
   ⟨0x8c, 0, 1, [AMP.AMP_STAT.STATE, AMP.AMP_STAT.MUTED, AMP.AMP_STAT.LIMITING, AMP.AMP_STAT.ATTEMPTS, AMP.AMP_STAT.Z_VALID, AMP.AMP_STAT.Z_ALARM, AMP.AMP_STAT.OPEN]⟩,
   ⟨0x90, 0, 1, [AMP.Z_RE.VALUE]⟩,
   ⟨0x94, 0, 1, [AMP.Z_IM.VALUE]⟩,
   ⟨0x98, 0, 1, [AMP.Z_MAG.VALUE]⟩,
   ⟨0x9c, 0, 1, [AMP.Z_CYCLE.VALUE]⟩,
   ⟨0xa0, 0, 1, [AMP.RDC_LAST.MOHM, AMP.RDC_LAST.SHORT]⟩]
  ++ [⟨0xa4, 0, 1, [AMP.LIMIT_COUNT.COUNT]⟩,
   ⟨0xa8, 0, 1, [AMP.TRIP_COUNT.COUNT]⟩,
   ⟨0xac, 0, 1, [AMP.CLIP_COUNT.COUNT]⟩,
   ⟨0xb0, 0, 1, [AMP.TRIM_V.OFS, AMP.TRIM_V.GAIN]⟩,
   ⟨0xb4, 0, 1, [AMP.TRIM_I.OFS, AMP.TRIM_I.GAIN]⟩]

/-! ### BOOST page (spec chapter 14) -/

def BOOST.BOOST_CTRL.TRACK : Fld := ⟨0x40, 0, 1, 1, .rw⟩
def BOOST.BOOST_CTRL.BFSW : Fld := ⟨0x40, 1, 1, 0, .rw⟩
def BOOST.RAIL_CFG.FLOOR : Fld := ⟨0x44, 0, 10, 300, .rw⟩
def BOOST.RAIL_CFG.MAX : Fld := ⟨0x44, 16, 10, 900, .rw⟩
def BOOST.TRACK_CFG.HEADROOM : Fld := ⟨0x48, 0, 10, 50, .rw⟩
def BOOST.TRACK_CFG.V_PER_FS : Fld := ⟨0x48, 16, 10, 700, .rw⟩
def BOOST.RATE_CFG.RISE : Fld := ⟨0x4c, 0, 10, 100, .rw⟩
def BOOST.RATE_CFG.FALL : Fld := ⟨0x4c, 16, 10, 20, .rw⟩
def BOOST.BOOST_LIM.ILIM : Fld := ⟨0x50, 0, 8, 192, .rw⟩
def BOOST.BOOST_LIM.UV : Fld := ⟨0x50, 8, 8, 50, .rw⟩
def BOOST.BOOST_LIM.OV : Fld := ⟨0x50, 16, 10, 950, .rw⟩
def BOOST.BOOST_STAT.STATE : Fld := ⟨0x54, 0, 3, 0, .ro⟩
def BOOST.BOOST_STAT.RAIL : Fld := ⟨0x54, 16, 10, 0, .ro⟩
def BOOST.RAIL_TARGET.MV : Fld := ⟨0x58, 0, 10, 0, .ro⟩
def BOOST.BOOST_FLT_COUNT.OV : Fld := ⟨0x5c, 0, 16, 0, .rc⟩
def BOOST.BOOST_FLT_COUNT.UV : Fld := ⟨0x5c, 16, 16, 0, .rc⟩

/-- The registers of the BOOST page. -/
def BOOST.regs : List RegD :=
  [⟨0x40, 0, 1, [BOOST.BOOST_CTRL.TRACK, BOOST.BOOST_CTRL.BFSW]⟩,
   ⟨0x44, 0, 1, [BOOST.RAIL_CFG.FLOOR, BOOST.RAIL_CFG.MAX]⟩,
   ⟨0x48, 0, 1, [BOOST.TRACK_CFG.HEADROOM, BOOST.TRACK_CFG.V_PER_FS]⟩,
   ⟨0x4c, 0, 1, [BOOST.RATE_CFG.RISE, BOOST.RATE_CFG.FALL]⟩,
   ⟨0x50, 0, 1, [BOOST.BOOST_LIM.ILIM, BOOST.BOOST_LIM.UV, BOOST.BOOST_LIM.OV]⟩,
   ⟨0x54, 0, 1, [BOOST.BOOST_STAT.STATE, BOOST.BOOST_STAT.RAIL]⟩,
   ⟨0x58, 0, 1, [BOOST.RAIL_TARGET.MV]⟩,
   ⟨0x5c, 0, 1, [BOOST.BOOST_FLT_COUNT.OV, BOOST.BOOST_FLT_COUNT.UV]⟩]

/-! ### PWR page (spec chapter 15) -/

def PWR.PWR_REQ.DOMAINS : Fld := ⟨0x40, 0, 9, 0, .rw⟩
def PWR.PWR_REQ.TARGET : Fld := ⟨0x40, 9, 2, 0, .rw⟩
def PWR.PWR_REQ.GO : Fld := ⟨0x40, 16, 1, 0, .w1s⟩
def PWR.PWR_STAT.BUSY : Fld := ⟨0x44, 0, 1, 0, .ro⟩
def PWR.PWR_STAT.RESULT : Fld := ⟨0x44, 1, 3, 0, .ro⟩
def PWR.PWR_STAT.CURRENT : Fld := ⟨0x44, 4, 4, 0, .ro⟩
def PWR.DOM_STATE.STATE (i : Nat) : Fld := ⟨0x48, 2 * (i - 1), 2, 0, .ro⟩
def PWR.REFUSE_COUNT.COUNT : Fld := ⟨0x4c, 0, 16, 0, .rc⟩
def PWR.ABORT_COUNT.COUNT : Fld := ⟨0x50, 0, 16, 0, .rc⟩
def PWR.LAST_REFUSER.PAGE : Fld := ⟨0x54, 0, 8, 0, .ro⟩
def PWR.LAST_REFUSER.DOMAIN : Fld := ⟨0x54, 8, 4, 0, .ro⟩
def PWR.LAST_REFUSER.CAUSE : Fld := ⟨0x54, 16, 8, 0, .ro⟩
def PWR.WAKE_MIN.US (k : Nat) : Fld := ⟨0x60 + 4 * (k - 1), 0, 16, 0, .rw⟩
def PWR.BUDGET.UNITS (k : Nat) : Fld := ⟨0x100 + 4 * k, 0, 12, [400, 250, 200, 50, 60, 40, 200, 200].getD k 0, .rw⟩
def PWR.INUSE.UNITS (k : Nat) : Fld := ⟨0x120 + 4 * k, 0, 13, 0, .ro⟩
def PWR.COST.A (k : Nat) : Fld := ⟨0x140 + 4 * k, 0, 12, [200, 150, 150, 80, 20, 30, 25, 60, 120, 100, 80].getD k 0, .rw⟩
def PWR.COST.B (k : Nat) : Fld := ⟨0x140 + 4 * k, 16, 12, [40, 60, 30, 20, 10, 20, 5, 10, 20, 0, 80].getD k 0, .rw⟩
def PWR.LEDGER_TMO.MS : Fld := ⟨0x180, 0, 16, 100, .rw⟩
def PWR.LEDGER_STAT.QUEUED : Fld := ⟨0x184, 0, 6, 0, .ro⟩
def PWR.LEDGER_STAT.GRANTED : Fld := ⟨0x184, 8, 7, 0, .ro⟩
def PWR.LEDGER_STAT.OVER : Fld := ⟨0x184, 15, 1, 0, .ro⟩
def PWR.GRANT_TMO_COUNT.COUNT : Fld := ⟨0x188, 0, 16, 0, .rc⟩
def PWR.LEDGER_LAST.KIND : Fld := ⟨0x18c, 0, 4, 0, .ro⟩
def PWR.LEDGER_LAST.INSTANCE : Fld := ⟨0x18c, 8, 5, 0, .ro⟩
def PWR.THERM_STAT.HIGHEST : Fld := ⟨0x1a0, 0, 16, 0, .ro⟩
def PWR.THERM_STAT.ALARM (i : Nat) : Fld := ⟨0x1a0, 16 + 1 * (i - 1), 1, 0, .ro⟩
def PWR.THERM_STAT.SENSOR : Fld := ⟨0x1a0, 24, 3, 0, .ro⟩
def PWR.THERM_LEVEL.LEVEL (i : Nat) : Fld := ⟨0x1a4, 16 * (i - 1), 16, [28160, 30720].getD (i - 1) 0, .ro⟩

/-- The registers of the PWR page. -/
def PWR.regs : List RegD :=
  [⟨0x40, 0, 1, [PWR.PWR_REQ.DOMAINS, PWR.PWR_REQ.TARGET, PWR.PWR_REQ.GO]⟩,
   ⟨0x44, 0, 1, [PWR.PWR_STAT.BUSY, PWR.PWR_STAT.RESULT, PWR.PWR_STAT.CURRENT]⟩,
   ⟨0x48, 0, 1, [PWR.DOM_STATE.STATE 1, PWR.DOM_STATE.STATE 2, PWR.DOM_STATE.STATE 3, PWR.DOM_STATE.STATE 4, PWR.DOM_STATE.STATE 5, PWR.DOM_STATE.STATE 6, PWR.DOM_STATE.STATE 7, PWR.DOM_STATE.STATE 8, PWR.DOM_STATE.STATE 9]⟩,
   ⟨0x4c, 0, 1, [PWR.REFUSE_COUNT.COUNT]⟩,
   ⟨0x50, 0, 1, [PWR.ABORT_COUNT.COUNT]⟩,
   ⟨0x54, 0, 1, [PWR.LAST_REFUSER.PAGE, PWR.LAST_REFUSER.DOMAIN, PWR.LAST_REFUSER.CAUSE]⟩,
   ⟨0x60, 4, 9, [PWR.WAKE_MIN.US 1]⟩,
   ⟨0x100, 0, 1, [PWR.BUDGET.UNITS 0]⟩,
   ⟨0x104, 0, 1, [PWR.BUDGET.UNITS 1]⟩,
   ⟨0x108, 0, 1, [PWR.BUDGET.UNITS 2]⟩,
   ⟨0x10c, 0, 1, [PWR.BUDGET.UNITS 3]⟩,
   ⟨0x110, 0, 1, [PWR.BUDGET.UNITS 4]⟩,
   ⟨0x114, 0, 1, [PWR.BUDGET.UNITS 5]⟩,
   ⟨0x118, 0, 1, [PWR.BUDGET.UNITS 6]⟩,
   ⟨0x11c, 0, 1, [PWR.BUDGET.UNITS 7]⟩,
   ⟨0x120, 4, 8, [PWR.INUSE.UNITS 0]⟩,
   ⟨0x140, 0, 1, [PWR.COST.A 0, PWR.COST.B 0]⟩,
   ⟨0x144, 0, 1, [PWR.COST.A 1, PWR.COST.B 1]⟩,
   ⟨0x148, 0, 1, [PWR.COST.A 2, PWR.COST.B 2]⟩,
   ⟨0x14c, 0, 1, [PWR.COST.A 3, PWR.COST.B 3]⟩]
  ++ [⟨0x150, 0, 1, [PWR.COST.A 4, PWR.COST.B 4]⟩,
   ⟨0x154, 0, 1, [PWR.COST.A 5, PWR.COST.B 5]⟩,
   ⟨0x158, 0, 1, [PWR.COST.A 6, PWR.COST.B 6]⟩,
   ⟨0x15c, 0, 1, [PWR.COST.A 7, PWR.COST.B 7]⟩,
   ⟨0x160, 0, 1, [PWR.COST.A 8, PWR.COST.B 8]⟩,
   ⟨0x164, 0, 1, [PWR.COST.A 9, PWR.COST.B 9]⟩,
   ⟨0x168, 0, 1, [PWR.COST.A 10, PWR.COST.B 10]⟩,
   ⟨0x180, 0, 1, [PWR.LEDGER_TMO.MS]⟩,
   ⟨0x184, 0, 1, [PWR.LEDGER_STAT.QUEUED, PWR.LEDGER_STAT.GRANTED, PWR.LEDGER_STAT.OVER]⟩,
   ⟨0x188, 0, 1, [PWR.GRANT_TMO_COUNT.COUNT]⟩,
   ⟨0x18c, 0, 1, [PWR.LEDGER_LAST.KIND, PWR.LEDGER_LAST.INSTANCE]⟩,
   ⟨0x1a0, 0, 1, [PWR.THERM_STAT.HIGHEST, PWR.THERM_STAT.ALARM 1, PWR.THERM_STAT.ALARM 2, PWR.THERM_STAT.SENSOR]⟩,
   ⟨0x1a4, 0, 1, [PWR.THERM_LEVEL.LEVEL 1, PWR.THERM_LEVEL.LEVEL 2]⟩]

end Sys2Proof.Machine
end

