-- ==== Sys2Proof/Machine/Tab.lean ====
section
/-! DEFINITION. Sparse tables: a list of (key, value) pairs whose keys rise strictly and which lists
no entry equal to the default, so that equal tables are equal data. Memory, the register file and
every replicated piece of state are such tables. -/

namespace Sys2Proof.Machine

/-- A sparse table; the default value is passed to the operations. -/
abbrev Tab (α : Type) := List (Nat × α)

/-- The value under key `i`, or the default `d` where none is listed. -/
def Tab.get {α : Type} (d : α) : Tab α → Nat → α
  | [], _ => d
  | (k, v) :: t, i => if i = k then v else Tab.get d t i

/-- The table without any entry under key `i`. -/
def Tab.drop {α : Type} (t : Tab α) (i : Nat) : Tab α := t.filter (fun e => e.1 != i)

/-- The table with `v` under key `i`; writing the default removes the entry. -/
def Tab.put {α : Type} [DecidableEq α] (d : α) : Tab α → Nat → α → Tab α
  | [], i, v => if v = d then [] else [(i, v)]
  | (k, w) :: t, i, v =>
    if i < k then (if v = d then Tab.drop ((k, w) :: t) i else (i, v) :: (k, w) :: t)
    else if i = k then (if v = d then Tab.drop t i else (i, v) :: t)
    else (k, w) :: Tab.put d t i v

/-- Several writes, the later ones over the earlier. -/
def Tab.puts {α : Type} [DecidableEq α] (d : α) (t : Tab α) (l : List (Nat × α)) : Tab α :=
  l.foldl (fun t e => Tab.put d t e.1 e.2) t

/-- The canonical form: keys strictly rising, no entry equal to the default. -/
def Tab.wf {α : Type} [DecidableEq α] (d : α) : Tab α → Bool
  | [] => true
  | [(_, v)] => v != d
  | (k, v) :: (k', v') :: t => v != d && decide (k < k') && Tab.wf d ((k', v') :: t)

/-- The entries with keys from `lo` up to but not including `hi`. -/
def Tab.range {α : Type} (t : Tab α) (lo hi : Nat) : Tab α :=
  t.filter (fun e => decide (lo ≤ e.1 ∧ e.1 < hi))

/-- The table without its entries from `lo` up to but not including `hi`: they read as the default. -/
def Tab.clear {α : Type} (t : Tab α) (lo hi : Nat) : Tab α :=
  t.filter (fun e => decide (e.1 < lo ∨ hi ≤ e.1))

/-- The table in which the `n` keys from `dst` on hold what the `n` keys from `src` on held. -/
def Tab.copy {α : Type} (t : Tab α) (src dst n : Nat) : Tab α :=
  t.filter (fun e => decide (e.1 < dst))
    ++ (Tab.range t src (src + n)).map (fun e => (e.1 - src + dst, e.2))
    ++ t.filter (fun e => decide (dst + n ≤ e.1))

/-- The table in which keys `a … a+n-1` and `b … b+n-1` have exchanged their values (two ranges
that do not meet). -/
def Tab.swap {α : Type} [DecidableEq α] (d : α) (t : Tab α) (a b n : Nat) : Tab α :=
  let ra := (Tab.range t a (a + n)).map (fun e => (e.1 - a + b, e.2))
  let rb := (Tab.range t b (b + n)).map (fun e => (e.1 - b + a, e.2))
  Tab.puts d (Tab.clear (Tab.clear t a (a + n)) b (b + n)) (ra ++ rb)

/-- Whether any value from `lo` up to but not including `hi` differs from the default. -/
def Tab.someIn {α : Type} (t : Tab α) (lo hi : Nat) : Bool :=
  List.any t (fun e => decide (lo ≤ e.1 ∧ e.1 < hi))

/-- The `n` values from key `lo` on. -/
def Tab.slice {α : Type} (d : α) (t : Tab α) (lo n : Nat) : List α :=
  (List.range n).map (fun i => Tab.get d t (lo + i))

end Sys2Proof.Machine
end

