-- ==== Sys2Proof/Machine/State.lean ====
section
/-! DEFINITION. The state of the NQ40 as plain data: register fields, tables, memories, cores,
engines, lanes, time, ports, amplifiers, power domains and the queue of waiting commands; the reasons
a step can stop; and the state after reset. -/

namespace Sys2Proof.Machine

/-- Why a step stops with a fault. The NQ40 has no condition that stops it (R7), so no meaning of
this model raises one. -/
inductive Fault where
  /-- Raised by nothing: the type is here because the interface asks for one. Safe. -/
  | none
  deriving DecidableEq, Repr

/-- Why a command is refused by the model. -/
inductive Refusal where
  /-- Raised by an arm of the dispatch whose command has no meaning in this model yet. Safe: the run
  stops and nothing can be proved of what follows. -/
  | notModelled (mnemonic : String)
  deriving DecidableEq, Repr

/-! ### Domains, time and memory marks -/

/-- The state of a switched domain (R388): off, retention or on. -/
inductive DomState where
  | off | retention | on
  deriving DecidableEq, Repr

/-- The check state of a memory word with an upset (R136, R222): an error the code corrects, or one
it only detects. -/
inductive Ecc where
  | single | double
  deriving DecidableEq, Repr

/-- The node's time (R305): cycle number C, the time Q of its nominal start in thirds of a
nanosecond, the ROOT_CLK periods since that start, the nominal starts counted since reset, and the
value of NT[31] that the interrupts of R307 have followed. -/
structure Time where
  c      : BitVec 32
  q      : Nat
  phase  : Nat
  starts : Nat
  bit31  : Bool
  deriving DecidableEq, Repr


/-! ### Commit, host side, management controller (spec chapter 02) -/

/-- The pending commit beside COMMIT_STAT (R44): the pages it selects, TIMING, STRICT and target as
latched, whether it has been found late, and whether validation has completed. -/
structure CommitReq where
  pages   : List Nat
  timing  : Nat
  strict  : Bool
  target  : Nat
  late    : Bool
  checked : Bool
  deriving DecidableEq, Repr

/-- The management controller beside its page (R61 to R64, R71): boot flash, OTP debug key and
anti-rollback counter, the nonce of a debug challenge with its level, the mailbox command in progress
(opcode, length), the slot a restart starts from, and whether the controller restarts. -/
structure Mgmt where
  flash    : Tab Byte
  prefB    : Bool
  key      : Option (List Byte)
  rollback : Nat
  nonce    : Option (Nat × List Byte)
  running  : Option (Nat × Nat)
  toSlot   : Option Bool
  restart  : Bool
  deriving DecidableEq, Repr

/-- What goes over an I²C bus (R67, R68): a START, a byte with its acknowledge, the 9 clock pulses that are to free
SDA, a STOP. -/
inductive I2cSym where
  | start
  | byte (b : Byte) (ack : Bool)
  | pulses
  | stop
  deriving DecidableEq, Repr

/-- Pins and messages: active selections of MCLK_OUT and WCLK_OUT (R23), whether EXTEST drives the
pins and the levels it drives (R70), the MSI-X messages that the last assertion or unmasking sent
(address and data), the QSPI status bits (R60), whether RESET_N is low and whether the 10 µs of a
DEV_RST run (R423, R435), the configuration space of the PCIe endpoint (R57) with the uncorrectable error status
of its AER capability, and what the last transaction of each I²C master put on its bus (R67). -/
structure Pins where
  mclk     : Nat
  wclk     : Nat
  extest   : Bool
  drive    : List PinLevel
  messages : List (Nat × Nat)
  qspi     : Nat
  rstLow   : Bool
  rstDev   : Bool
  pcie     : PcieCfg
  aer      : Nat
  i2c      : Tab (List I2cSym)
  deriving DecidableEq, Repr

/-! ### DMA (spec chapter 09) -/

/-- A transaction that has been answered RETRY (R235) or waits to issue (R234): its master, whether it
writes, address, data and strobes, the reissues left, the Ibex core behind a cluster port, its QoS, and whether it
has been answered RETRY and so is outstanding. -/
structure Retry where
  by_     : Master
  write   : Bool
  addr    : Nat
  bytes   : List Byte
  strobes : List Bool
  left    : Nat
  core    : Option Nat
  qos     : Nat
  tried   : Bool
  deriving DecidableEq, Repr

/-- A DMA engine beside its page: the descriptor in execution (256 bits), the address that it was read from,
the status that its check already gives, and the instant at which its timer has started, in ROOT_CLK periods
(R240). -/
structure Dma where
  desc : Nat
  from_ : Nat
  code : Option Nat
  since : Option Nat
  deriving DecidableEq, Repr


/-! ### The frame sequencer (spec chapter 03) -/

/-- The value that a register field had before a commit: its key, its reset value, the value. -/
structure OldFld where
  key : Nat
  rst : Nat
  val : Nat
  deriving DecidableEq, Repr

/-- The contents that an active table had before a commit: its addresses, from `lo` to below `hi`, and its cells. -/
structure OldTab where
  lo    : Nat
  hi    : Nat
  cells : List Host.Cell
  deriving DecidableEq, Repr

/-- The frame sequencer: sample index of the last Fs tick and how many ticks this link cycle has had,
the tick at which RUN became 1 and the ticks since, the processing window in progress with its frame,
the passes it has started and its latest actual finish (R434), and the samples on their way: presented
since the last tick, entered at the last tick (written at the next), read by the emitters at the last
tick (sent at the next) and sent at the last tick, by signal ID; whether the presentation of this
nominal start waits for a commit of the ring tables at the same boundary (R49); whether a commit has
been applied since the last tick, so that a window that starts with the next one is none that begins
after it (R154); the configuration of the passes before the last commit, register values and tables, until a
window starts that the commit governs, and the pages of that commit (R192, R211). -/
structure FrameSeq where
  tick      : BitVec 32
  ticksDone : Nat
  runTick   : BitVec 32
  runAge    : Nat
  winOn     : Bool
  winFrame  : Nat
  finish    : Nat
  passDone  : Tab Bool
  presented : Tab (Option Word)
  entered   : Tab (Option Word)
  latch     : Tab Word
  sending   : Tab Word
  held      : Bool
  fresh     : Bool
  old       : List OldFld
  oldTabs   : List OldTab
  oldPages  : List Nat
  deriving DecidableEq, Repr

/-! ### Ibex cores (spec chapters 04 to 06) -/

/-- An accumulator: 72 bits, the excursion count XC (–3 to +3) and XLOST (R100, R115, R116). -/
structure AccVal where
  v    : Acc72
  xc   : Int
  lost : Bool
  deriving DecidableEq, Repr

/-- What a result in flight will write when it lands (R104, R105). D registers are named by their
physical number, mapped at issue (R101). -/
inductive Dest where
  | d (phys : Nat) (v : Word)
  | a (n : Nat) (v : Word)
  | p (n : Nat) (v : Bool)
  | acc (n : Nat) (v : AccVal)
  | flags (bits : Word)
  | sr (v : Word)
  | rnd (v : Word)
  | isrcSet (bits : Word)
  | isrcClr (bits : Word)
  | imask (v : Word)
  | ipc (v : Word)
  | isav0 (v : Word)
  | isav1 (v : Word)
  | isav2 (v : Word)
  | lc0 (v : Word)
  | lc1 (v : Word)
  | rrb (v : Word)
  deriving DecidableEq, Repr

/-- A result in flight: the first issue cycle that sees it, the cycle and slot it was issued in
(R106), whether it is a DIVS quotient (forwarded, R105), whether it is a write to a rotating
register made inside a LOOP (R144), and what it writes. -/
structure Flight where
  due  : Nat
  iss  : Nat
  slot : Nat
  quo  : Bool
  rot  : Bool
  dest : Dest
  deriving DecidableEq, Repr

/-- A branch or RETI whose delay slots are issuing (R168): target, delay slots still to issue,
whether it is taken, whether it returns from a handler. -/
structure Branch where
  target : BitVec 12
  left   : Nat
  taken  : Bool
  reti   : Bool
  deriving DecidableEq, Repr

/-- A REP in progress: first bundle of the body, bundles of the body, iterations still to start. -/
structure Rep where
  start : BitVec 12
  len   : Nat
  left  : Nat
  deriving DecidableEq, Repr

/-- The LOOP sequencer (R143): stage-valid vector, kernel start, kernel length; `fresh` until the
first kernel bundle issues. -/
structure LoopSeq where
  v     : BitVec 4
  start : BitVec 12
  len   : Nat
  fresh : Bool
  deriving DecidableEq, Repr

/-- Where a core stands in its frame: no frame (disabled or idle since power-up), waiting at its
barrier, issuing, past FBAR and draining, waiting at a CSYNC bundle, or in a handler entered from
one of the two waits. -/
inductive CoreRun where
  | idle | barrier | running | draining | csync | handlerAtBarrier | handlerAtCsync
  deriving DecidableEq, Repr

/-- One Ibex core (R100) with its sequencer. `acc` is the forwarded value of each accumulator and
`accVis` the value other operations see; `cyc` counts pipeline cycles, `clk` the cycles of the core
frame, stalls included; `pc` is the last bundle issued and `redirect`, where set, the next; `guard` counts
the bundles left of a REP body or LOOP kernel that runs as straight code; `slotNext` is the first slot of
the bundle at RR that has not issued yet; `waitSlot` is set from a CSYNC on until the core goes past its bundle,
with the first slot of it that had not issued before (R156); `pendAge` is how long a source has been pending
(R130). -/
structure Core where
  d          : Tab Word
  a          : Tab Word
  acc        : Tab AccVal
  accVis     : Tab AccVal
  p          : Tab Bool
  cbase      : Tab Word
  clen       : Tab Word
  cbaseNew   : Tab (Option Word)
  clenNew    : Tab (Option Word)
  lc0        : BitVec 16
  lc1        : BitVec 16
  rrb        : BitVec 5
  sr         : Word
  rnd        : Word
  isrc       : Word
  imask      : Word
  ipc        : Word
  isav0      : Word
  isav1      : Word
  isav2      : Word
  flight     : List Flight
  cyc        : Nat
  clk        : Nat
  pc         : BitVec 12
  redirect   : Option (BitVec 12)
  branch     : Option Branch
  guard      : Nat
  slotNext   : Nat
  waitSlot   : Option Nat
  rep        : Option Rep
  loop       : Option LoopSeq
  run        : CoreRun
  halted     : Bool
  haltReq    : Bool
  stepping   : Bool
  pendAge    : Option Nat
  stallsWin  : Nat
  swapPend   : Bool
  swapReady  : Bool
  overrun    : Bool
  deriving DecidableEq, Repr

/-- Where a cluster stands in its pass (R146). -/
inductive ClusPhase where
  | idle | waiting | stageIn | frame | stageOut
  deriving DecidableEq, Repr

/-- An exchange-memory access of the present cycle (R135): a byte written, the core that wrote it
and the byte before. -/
structure XmWrite where
  addr : Nat
  core : Nat
  old  : Byte
  deriving DecidableEq, Repr

/-- One cluster: its place in the pass, the cycles by which handlers delayed its stage-in (R148), whether an
overrun suppresses its stage-out, the exchange writes of the frame-clock cycle `xmClk`, and for a spare the
source it migrates from, whether the copy waits for the source's stage-out to end or is complete (R158), and
whether the spare, its migration complete, still takes part in the source's passes of a window that began before
(R159). -/
structure Clus where
  phase   : ClusPhase
  pass    : Nat
  late    : Nat
  overrun : Bool
  xmClk   : Nat
  xm      : List XmWrite
  src     : Nat
  copying : Bool
  copied  : Bool
  tail    : Bool
  deriving DecidableEq, Repr


/-! ### Oryx and meters (spec chapter 07) -/

/-- A gain ramp (R187, R188): start, target, samples processed since it began, log2 of its length and
its law. At rest start and target are equal and the rest is 0. -/
structure Ramp where
  g0     : Int
  g1     : Int
  k      : Nat
  b      : Nat
  smooth : Bool
  deriving DecidableEq, Repr

/-- A fading entry of the fade list: still running, or ended in the present frame (R191). -/
inductive Fade where
  | running | ended
  deriving DecidableEq, Repr

/-- Oryx beside its table: current gains and the fade list by key (path, destination, source), the
clip counter of each signal ID, and the destinations that the fast slice had at the last commit. -/
structure Oryx where
  gains : Tab Ramp
  fades : Tab (Option Fade)
  clips : Tab Nat
  kept  : List Nat
  deriving DecidableEq, Repr

/-- A meter channel (R196): peak, hold count, mean square, clipped samples. -/
structure Meter where
  peak  : Nat
  hold  : Nat
  ms    : Int
  clips : BitVec 32
  deriving DecidableEq, Repr


/-! ### EQ and delay engines (spec chapter 08) -/

/-- The input and output history of a section, Q2.62 (R203). -/
structure Hist where
  u1 : Int
  u2 : Int
  v1 : Int
  v2 : Int
  deriving DecidableEq, Repr

/-- The five coefficients of a section, Q3.29 (R199). -/
structure Coef where
  b0 : Int
  b1 : Int
  b2 : Int
  a1 : Int
  a2 : Int
  deriving DecidableEq, Repr

/-- The old copy of a section in transition (R209): coefficients, history, samples processed since
the transition began and log2 of its length. -/
structure EqTrans where
  old : Coef
  h   : Hist
  k   : Nat
  b   : Nat
  deriving DecidableEq, Repr

/-- One section position of a chain: its history, its transition, and whether it lies beyond the
length of the chain in the table and acts as the identity section (R209). -/
structure EqSec where
  h     : Hist
  tr    : Option EqTrans
  extra : Bool
  deriving DecidableEq, Repr

/-- A tap of the delay engine (R217, R220): target delay, the delay a crossfade comes from with its
samples processed and log2 of its length, and a waiting delay with the log2 length of its
crossfade; and of its two read positions, the target's and the one that a crossfade comes from, the number of
the 64-byte line that the tap buffer holds, with the next one prefetched (R225). -/
structure Tap where
  cur     : Nat
  fade    : Option (Nat × Nat × Nat)
  wait    : Option (Nat × Nat)
  held    : Option Nat
  heldOld : Option Nat
  deriving DecidableEq, Repr

/-- The 64-byte line that the tap buffer gathers of a delay line's writes (R225): its number and the words
gathered, by byte address. -/
structure Gather where
  blk   : Nat
  words : List (Nat × Word)
  deriving DecidableEq, Repr

/-- The delay engine beside its table: tap states, the Store words written since their line
restarted, by word number, the lines found in a lost bank, by head entry, the gathered line of each delay
line, by the line's base address, and by tap the line that the buffer holds ahead for the tap's next read position,
in the table in use and in a committed one that is not in use yet (R225). -/
structure Delay where
  taps   : Tab Tap
  live   : Tab Bool
  lost   : Tab Bool
  gather : Tab (Option Gather)
  ready  : Tab (Option Nat)
  coming : Tab (Option Nat)
  deriving DecidableEq, Repr

/-! ### The budget ledger and power requests (spec chapter 15) -/

/-- A grant request: kind (R399) and instance. -/
structure Req where
  kind : Nat
  inst : Nat
  deriving DecidableEq, Repr

/-- A charge on the supplies: the request it belongs to, what it charged at the moment of the grant
on its supplies A and B, and whether it is the charge of a rollback, which no grant backs (R398). -/
structure Charge where
  req      : Req
  a        : Nat
  b        : Nat
  rollback : Bool
  deriving DecidableEq, Repr

/-- The ledger (R400): releases and new requests of the coming MGMT_CLK cycle, the queue in arrival
order, the charges in force, the waiting requests whose timer a SOFT_RST has cancelled (R410), and the MGMT_CLK
cycle whose scan has been made while its timeouts go on. -/
structure Ledger where
  rel     : List Req
  fresh   : List Req
  queue   : List Req
  held    : List Charge
  untimed : List Req
  scanned : Option Nat
  deriving DecidableEq, Repr

/-- Where a power request stands (R391, R395, R425): none, its first domain stopping, waiting for the
retention-signature grant and its signatures, waiting for VDD_CORE to rise, for ROOT_LOCK, for the
wake grant, for the wake delay, restarting a domain in a rollback, or waiting for ROOT_LOCK before such
a restart. -/
inductive PwrPhase where
  | idle | stopping | signing | raising | waitRoot | waitGrant | waking | rolling | rollRoot
  deriving DecidableEq, Repr

/-- A power request: target, domains still to do with the present one first, domains that were ON
and have been stopped (the last stopped first), whether any domain of the request has stopped. -/
structure Pwr where
  phase   : PwrPhase
  target  : DomState
  todo    : List Nat
  stopped : List Nat
  any     : Bool
  deriving DecidableEq, Repr

/-- The VDD_CORE setpoint beside VCORE_SET (R425): what the speed monitors call for, the raised
setpoint of a power request, and whether the last command went unacknowledged, so that the attempt is
repeated after the next evaluation; the banks whose retention signature is invalid (R227); and VOUT_MODE as read
from the regulator at boot, with whether the regulator accepts PEC (R424). -/
structure Vcore where
  want   : Nat
  up     : Option Nat
  failed : Bool
  sigBad : Tab Bool
  mode   : Byte
  pec    : Bool
  deriving DecidableEq, Repr

/-! ### Lanes (spec chapter 10) -/

/-- A valid marker as received (R246): its fields, and its arrival in line bits at ÷1 on the node's
own line-bit count. -/
structure RxMarker where
  cyc    : Nat
  mnt    : Nat
  corr   : Int
  master : Nat
  ql     : Nat
  flags  : Nat
  src    : Nat
  lidx   : Nat
  arr    : Nat
  deriving DecidableEq, Repr

/-- A marker as sent: its fields, the stuffing debt it left with, and its departure in line bits at
÷1 on the node's own line-bit count. -/
structure TxMarker where
  cyc    : Nat
  mnt    : Nat
  corr   : Int
  master : Nat
  ql     : Nat
  flags  : Nat
  src    : Nat
  sd     : Nat
  dep    : Nat
  deriving DecidableEq, Repr

/-- The time exchange that a lane sends in a cycle (R328); TURN in units of 2^-16 ns. -/
structure Exchange where
  echo  : Nat
  turn  : Int
  sd    : Nat
  valid : Bool
  deriving DecidableEq, Repr

/-- A loop-test block (R277). -/
structure LoopTest where
  ret    : Bool
  origin : Nat
  token  : Word
  deriving DecidableEq, Repr

/-- The run of identical line bits in which a lane's line ends (R249). -/
structure LineRun where
  bit : Bool
  len : Nat
  deriving DecidableEq, Repr

/-- An error injected in the present cycle: whether it falls on a header, how many bits it inverts, and a free
number that gives its place (R275). -/
structure Inject where
  header : Bool
  len    : Nat
  place  : Nat
  deriving DecidableEq, Repr

/-- A lane beside its page: stuffing debt; phase at which the attempt that waits for its grant starts
(0xA for a test); the last headers with the newest first, and header lock (R253); the CYCLE of the
last valid marker of the hunt with the blocks since; the CYCLE the next marker must have; the run of
missing markers; whether a spur hunts after going down (R272); the last valid markers, newest first;
whether CONFIRM has counted 1 ms; whether the last block was a valid marker; whether the last TS
block's request was a hold (R258) and the answer given; loop-test blocks waiting and sent; whether
injection repeats and the line bits inverted so far (R275); bits the checker has compared and the
phase up to which they are counted; the marker sent last, the departures of the last 16 markers, the
exchange sent last; the debt the partner last reported with its cycle; the run of samples beyond the
link-step threshold (R330); the nominal starts left of a beacon burst (R263), one more than its cycles; the
FFE request that the lane's TS blocks carry (R258); the settings of its DFE as one number (R266). Of the
transmitter: whether it was UP when the cycle started, the host message of the cycle, the scrambler's state and
the run that the line ends in, the errors injected in this cycle, the state of the pattern generator, and the
line bits of the last cycle, led by a 1 bit (R244, R274). -/
structure Lane where
  sd        : Nat
  trainFrom : Nat
  hdrs      : List Bool
  hdrLock   : Bool
  seen      : Option (Nat × Nat)
  due       : Nat
  miss      : Nat
  hunting   : Bool
  marks     : List RxMarker
  confDone  : Bool
  afterMark : Bool
  ffeHeld   : Bool
  ffeAns    : Nat
  loops     : List LoopTest
  loopsSent : List LoopTest
  injOn     : Bool
  injBits   : Nat
  chkBits   : Nat
  chkFrom   : Nat
  txMark    : Option TxMarker
  deps      : List (Nat × Nat)
  exch      : Option Exchange
  rxSd      : Option (Nat × Nat)
  linkRun   : Nat
  burst     : Nat
  ffeReq    : Nat
  dfe       : Nat
  traf      : Bool
  msg       : Option (List Word)
  scr       : Nat
  run       : LineRun
  injs      : List Inject
  gen       : Nat
  line      : Nat
  deriving DecidableEq, Repr

/-! ### Rings (spec chapter 11) -/

/-- A cell on its way out: the cell, the count of nominal starts at its arrival (for an injected
cell, at its sending cycle), whether this node injects it, and whether it is counted nowhere (R283). -/
structure TxCell where
  cell  : Cell
  arr   : Nat
  inj   : Bool
  quiet : Bool
  deriving DecidableEq, Repr

/-- A trunk or spur beside its page: the cycle at whose marker the trunk formed and the cycles of the
debounce passed since (R269); the nominal starts until a wrap takes effect (R292); media slots used
in this cycle on the lanes with LIDX 0 and 1; cells injected for this cycle, cells spilled from the
last, wrapped cells waiting, the cells placed in this cycle, and the cells that left in the last; the host
message sent last and the receive FIFO, head first, each message five words (R303). -/
structure Port where
  form   : Nat
  deb    : Nat
  wrapIn : Option Nat
  used0  : Nat
  used1  : Nat
  inj    : List TxCell
  spill  : List TxCell
  waitq  : List TxCell
  sent   : List TxCell
  left   : List TxCell
  svcOut : List Word
  svcRx  : List (List Word)
  deriving DecidableEq, Repr

/-- The copy window of a stream (R294): the highest sample index written and the bitmap of the 64
indexes up to it (bit i for H - i). -/
structure Merge where
  h    : Word
  bits : BitVec 64
  deriving DecidableEq, Repr

/-- The counters of one stream (STREAM_STAT). -/
structure StreamStat where
  underrun : Nat
  late     : Nat
  mismatch : Nat
  fallback : Nat
  deriving DecidableEq, Repr

/-- The ring engine beside its page: the ports (0–3 trunks, 4–7 spurs), the merge window of each
extracted stream, the copy window of each relayed stream (R290), stream counters, the cycle at which
a stream restarted (R285), the last samples presented of a stream ID, and the cells formed at the
last emission read with their origin (R286). -/
structure Ring where
  ports   : Tab Port
  merge   : Tab (Option Merge)
  relay   : Tab (Option Merge)
  stat    : Tab StreamStat
  restart : Tab (Option Word)
  last    : Tab (List Word)
  formed  : List (Nat × Cell)
  deriving DecidableEq, Repr

/-! ### References and the DPLL (spec chapter 12) -/

/-- One second of the holdover estimator (R319): mean frequency, mean temperature (Q8.8), whether the
DPLL was LOCKED throughout. -/
structure HoSecond where
  freq   : Int
  temp   : Int
  locked : Bool
  deriving DecidableEq, Repr

/-- The reference logic beside its pages: raw offsets measured, the phase error that waits to be
taken, whether all samples since ACQUIRING began stay within THRESH since the last one outside, the
run of samples beyond 4 × THRESH, the last 256 samples in ps (newest first) and the run beyond the
path-step threshold; the movement of a phase step that remains in 1/24,576 ps and the step offset in ps; the phase
target of the selected reference, none before the first sample of one that is built out (R318), the
integral term in 2^-80 of 1/256 ppb, the steering apart from phase steps and their movement in this cycle, both in
1/256 ppb, and the count of nominal starts at the last sample of the selected reference (R317, R322); whether
NUM_FREQ has been written within NUM_TMO (R308); the sums of this second's frequency and temperature samples with their
counts and whether it has been LOCKED throughout; the estimator's history, newest first; T0 and the
integral of |T - T0| in Q8.8 °C·s, and the MGMT_CLK cycle of the entry into HOLDOVER; the last MASTER_ID and STEP_SEQ on the time lane; the marker an
ALIGN has taken; the cycles PPS_OUT stays high; the temperatures last read (Q8.8). -/
structure Dpll where
  raw      : Tab (Option Int)
  waiting  : Option Int
  inThresh : Bool
  far      : Nat
  hist     : List Int
  pathRun  : Nat
  stepLeft : Int
  stepOff  : Int
  built    : Option Int
  integ    : Int
  base     : Int
  move     : Int
  sampled  : Option Nat
  numFresh : Bool
  fSum     : Int
  fCnt     : Nat
  tSum     : Int
  tCnt     : Nat
  locked   : Bool
  ho       : List HoSecond
  t0       : Int
  tInt     : Nat
  hoFrom   : Nat
  master   : Option Nat
  stepSeq  : Nat
  align    : Option (Nat × RxMarker)
  ppsHigh  : Nat
  temps    : List Int
  deriving DecidableEq, Repr

/-! ### Audio ports (spec chapter 13) -/

/-- One direction of an audio port beside its page: started and aligned, in CLK_LOST, the run of
valid frames seen there (R352), length of the previous frame, the pending slip (whether the external
clock runs ahead, and the frames passed since) and whether a fill limit forces it (R349). -/
structure PortDir where
  aligned : Bool
  lost    : Bool
  good    : Nat
  len     : Nat
  pend    : Option (Bool × Nat)
  force   : Bool
  deriving DecidableEq, Repr

/-- A receive frame in the slip FIFO: its samples (none for a place that alignment leaves empty),
the mask at its FS edge, whether it is valid, the time from its last bit to the Fs tick that follows
in 1/64 frame, and the Fs ticks it has waited. -/
structure RxEntry where
  samples : Option (List Word)
  mask    : Word
  valid   : Bool
  frac    : Nat
  waited  : Nat
  deriving DecidableEq, Repr

/-- A transmit frame in the slip FIFO: sample and sample index of each slot, the mask of R356, the Fs ticks since
its emission read, what slips behind it have moved the fill by, in 1/64 frame (R348), and which of its samples came
from the fast slice (R81). -/
structure TxEntry where
  slots : List (Word × Word)
  mask  : Word
  age   : Nat
  moved : Int
  fast  : List Bool
  deriving DecidableEq, Repr

/-- An audio port beside its page: whether EN has been cleared while it runs; its directions and
FIFOs (oldest first); the last sample delivered in each slot; the frame that enters at the last tick;
the receive masks with the instants from which each holds, newest first, in ROOT_CLK periods (R356); the transmit mask
in effect with the masks that wait for their sample index; and the last transmit frame and those before it, newest
first, a slot word or high impedance in each slot. -/
structure Audio where
  stopping : Bool
  rx       : PortDir
  tx       : PortDir
  rxq      : List RxEntry
  txq      : List TxEntry
  last     : List Word
  entered  : Option (List Word × Word)
  rxMasks  : List (Nat × Word)
  txMask   : Word
  txNext   : List (Word × Word)
  out      : List (Option Word)
  prev     : List (List (Option Word))
  deriving DecidableEq, Repr

/-! ### Amplifier and boost (spec chapter 14) -/

/-- A factor that follows the channel ramp law (R362): from `a` to `b` over `l2` half-samples, `m`
samples done; at rest `l2` is 0 and the value is `b`. -/
structure ChanRamp where
  a  : Int
  b  : Int
  m  : Nat
  l2 : Nat
  deriving DecidableEq, Repr

/-- The gate edges of a carrier period (R367, R368) in ROOT_CLK periods from its start: turn-off of the
low side and of the high side of leg A and of leg B, the dead time before each turn-on, and the
half-periods that the comparator cut; and where the channel's periods start, after a nominal cycle start. -/
structure GateEdges where
  start : Nat
  aRise : Int
  aFall : Int
  bRise : Int
  bFall : Int
  dead  : Nat
  cut1  : Bool
  cut2  : Bool
  deriving DecidableEq, Repr

/-- The pilot window of a channel (R379 to R381): the frequency and level in effect, the sense
samples so far, the four sums, whether the window can be reported, and the runs of reported windows
outside and inside the limits. -/
structure Pilot where
  f     : Nat
  level : Nat
  n     : Nat
  vc    : Int
  vs    : Int
  ic    : Int
  is_   : Int
  ok    : Bool
  outs  : Nat
  ins   : Nat
  deriving DecidableEq, Repr

/-- An amplifier channel beside its page: the factors GAIN, M and S; drive samples, newest first, and
the sense samples since the last Fs tick; the loop states s1 to s4 (Q3.37) and the modulation m (R366); m at the start and at the centre of the
carrier period with the sense samples since its start; the rounding errors carried by legs A and B; the
comparator's action in each half of the period and the run of limited periods; the gate edges of the
last period; whether it turns OFF at the end of the period, and whether EN has become 1 again since; the state a
requested probe returns to; the modulation of a probe; the count of nominal starts at the last entry to RAMP; the events raised in this 100 ms window. -/
structure Amp where
  gain     : ChanRamp
  mfac     : ChanRamp
  sfac     : ChanRamp
  ys       : List Int
  pos      : Nat
  s1       : Int
  s2       : Int
  s3       : Int
  s4       : Int
  mod      : Int
  mStart   : Int
  mHalf    : Int
  cnt      : Nat
  errA     : Int
  errB     : Int
  cut1     : Bool
  cut2     : Bool
  run      : Nat
  gates    : Option GateEdges
  offPend  : Bool
  enAgain  : Bool
  probeRet : Option Nat
  probe    : Option Int
  rampAt   : Option Nat
  clipped  : Bool
  limited  : Bool
  pilot    : Pilot
  deriving DecidableEq, Repr

/-- A boost controller beside its page: whether the rail runs, the floor it keeps while a raised FLOOR
waits for its grant, the exact target in units of 1 mV / (192 × 2^31), whether a rise ends at the next
Fs tick, whether VSN is above OV, and for the last switching period whether the gate was driven and
whether ILIM ended it. -/
structure Boost where
  running  : Bool
  oldFloor : Nat
  target   : Int
  endRise  : Bool
  ovOn     : Bool
  driven   : Bool
  limited  : Bool
  deriving DecidableEq, Repr

/-- The calibration of a channel (R382): the trims to return to (TRIM_V and TRIM_I as words). -/
structure Cal where
  trimV : Nat
  trimI : Nat
  deriving DecidableEq, Repr

/-! ### The machine -/

/-- The whole machine. `undef` marks the domains whose state is undefined until they have been OFF or the
device reset (R8, R412). -/
structure State where
  pending   : List Instr
  inReset   : Bool
  fld       : Tab Nat
  shadow    : Tab Nat
  staged    : Tab Nat
  dirtyTab  : Tab Bool
  dirtyReg  : Tab Bool
  mem       : List Host.Cell
  marks     : Tab Bool
  ecc       : Tab (Option Ecc)
  dom       : Tab DomState
  undef     : Tab Bool
  time      : Time
  cores     : Tab Core
  clus      : Tab Clus
  fseq      : FrameSeq
  oryx      : Oryx
  meters    : Tab Meter
  eqSecs    : Tab EqSec
  delay     : Delay
  ledger    : Ledger
  pwr       : Pwr
  lanes     : Tab Lane
  ring      : Ring
  dpll      : Dpll
  audio     : Tab Audio
  startTrig : Nat
  amps      : Tab Amp
  boosts    : Tab Boost
  cal       : Cal
  commit    : CommitReq
  mgmt      : Mgmt
  pins      : Pins
  dmas      : Tab Dma
  retries   : List Retry
  vcore     : Vcore
  freeCtr   : Nat
  readData  : List Word
  respErr   : Bool
  deriving DecidableEq, Repr

/-- The delay engine as its domain turns on. -/
def Delay.reset : Delay := { taps := [], live := [], lost := [], gather := [], ready := [], coming := [] }

/-- A tap at rest at a delay of `d` samples, with nothing of its line in the tap buffer. -/
def Tap.still (d : Nat) : Tap := { cur := d, fade := none, wait := none, held := none, heldOld := none }

/-- A DMA engine without a descriptor. -/
def Dma.reset : Dma := { desc := 0, from_ := 0, code := none, since := none }

/-- A core as its domain turns on (R102). -/
def Core.reset : Core :=
  { d := [], a := [], acc := [], accVis := [], p := [], cbase := [], clen := [], cbaseNew := [],
    clenNew := [], lc0 := 0, lc1 := 0, rrb := 0, sr := 0, rnd := 0, isrc := 0, imask := 0, ipc := 0,
    isav0 := 0, isav1 := 0, isav2 := 0, flight := [], cyc := 0, clk := 0, pc := 0, redirect := none,
    branch := none, guard := 0, slotNext := 0, waitSlot := none, rep := none, loop := none, run := .idle,
    halted := false,
    haltReq := false, stepping := false, pendAge := none, stallsWin := 0, swapPend := false,
    swapReady := false, overrun := false }

/-- A cluster as its domain turns on. -/
def Clus.reset : Clus := ⟨.idle, 0, 0, false, 0, [], 0, false, false, false⟩

/-- A lane as its domain turns on. -/
def Lane.reset : Lane :=
  { sd := 0, trainFrom := 2, hdrs := [], hdrLock := false, seen := none, due := 0, miss := 0,
    hunting := false, marks := [], confDone := false, afterMark := false, ffeHeld := true,
    ffeAns := 0, loops := [], loopsSent := [], injOn := false, injBits := 0, chkBits := 0,
    chkFrom := 0, txMark := none, deps := [], exch := none, rxSd := none, linkRun := 0,
    burst := 0, ffeReq := 15, dfe := 0, traf := false, msg := none, scr := 0, run := ⟨false, 0⟩,
    injs := [], gen := 0, line := 1 }

/-- A trunk or spur as its domain turns on. -/
def Port.reset : Port :=
  { form := 0, deb := 0, wrapIn := none, used0 := 0, used1 := 0, inj := [], spill := [],
    waitq := [], sent := [], left := [], svcOut := [], svcRx := [] }

/-- The ring engine as its domain turns on. -/
def Ring.reset : Ring := ⟨[], [], [], [], [], [], []⟩

/-- The reference logic after reset. -/
def Dpll.reset : Dpll :=
  { raw := [], waiting := none, inThresh := false, far := 0, hist := [], pathRun := 0,
    stepLeft := 0, stepOff := 0, built := some 0, integ := 0, base := 0, move := 0, sampled := none,
    numFresh := false, fSum := 0, fCnt := 0, tSum := 0, tCnt := 0,
    locked := true, ho := [], t0 := 0, tInt := 0, hoFrom := 0, master := none, stepSeq := 0, align := none,
    ppsHigh := 0, temps := [] }

/-- A direction of an audio port that has not started. -/
def PortDir.reset : PortDir := ⟨false, false, 0, 0, none, false⟩

/-- An audio port as its domain turns on. -/
def Audio.reset : Audio :=
  { stopping := false, rx := PortDir.reset, tx := PortDir.reset, rxq := [], txq := [], last := [],
    entered := none, rxMasks := [], txMask := 0, txNext := [], out := [], prev := [] }

/-- A factor at rest. -/
def ChanRamp.still (v : Int) : ChanRamp := ⟨v, v, 0, 0⟩

/-- An amplifier channel as its domain turns on; M is 1 (log entry 60). -/
def Amp.reset : Amp :=
  { gain := ChanRamp.still 0, mfac := ChanRamp.still 0x10000000, sfac := ChanRamp.still 0, ys := [], pos := 0,
    s1 := 0, s2 := 0, s3 := 0, s4 := 0, mod := 0, mStart := 0, mHalf := 0, cnt := 0, errA := 0,
    errB := 0, cut1 := false, cut2 := false, run := 0, gates := none, offPend := false, enAgain := false,
    probeRet := none, probe := none, rampAt := none, clipped := false, limited := false,
    pilot := ⟨2, 0xC400, 0, 0, 0, 0, 0, false, 0, 0⟩ }

/-- A boost controller as its domain turns on. -/
def Boost.reset : Boost := ⟨false, 0, 0, false, false, false, false⟩

/-- The ledger with nothing asked, held or given back. -/
def Ledger.reset : Ledger := ⟨[], [], [], [], [], none⟩

/-- No power request. -/
def Pwr.reset : Pwr := ⟨.idle, .off, [], [], false⟩

/-- The frame sequencer with nothing on its way. -/
def FrameSeq.reset : FrameSeq :=
  { tick := 0, ticksDone := 0, runTick := 0, runAge := 0, winOn := false, winFrame := 0, finish := 0,
    passDone := [], presented := [], entered := [], latch := [], sending := [], held := false,
    fresh := false, old := [], oldTabs := [], oldPages := [] }

/-- No commit pending. -/
def CommitReq.reset : CommitReq := ⟨[], 0, false, 0, false, false⟩

/-- The management controller of a device whose flash and OTP nothing has written (log entry 5). -/
def Mgmt.reset : Mgmt :=
  { flash := [], prefB := false, key := none, rollback := 0, nonce := none, running := none,
    toSlot := none, restart := false }

/-- The configuration space of the endpoint after a reset (R57): MSI-X and Bus Master off, no base set. -/
def PcieCfg.reset : PcieCfg := ⟨false, false, false, 0, 0, 0⟩

/-- The pins after reset. -/
def Pins.reset : Pins :=
  { mclk := 0, wclk := 0, extest := false, drive := [], messages := [], qspi := 0,
    rstLow := false, rstDev := false, pcie := PcieCfg.reset, aer := 0, i2c := [] }

/-- No setpoint called for, no signature, VOUT_MODE not read. -/
def Vcore.reset : Vcore := ⟨0, none, false, [], 0, false⟩

/-- The machine right after RESET_N has risen (R55, R423): AON is powered, every switched domain OFF,
every register at its reset value, nothing in memory, no command waiting. -/
def State.reset : State :=
  { pending := [], inReset := false, fld := [], shadow := [], staged := [], dirtyTab := [],
    dirtyReg := [], mem := [], marks := [], ecc := [], dom := [], undef := [], time := ⟨0, 0, 0, 0, false⟩,
    cores := [], clus := [], fseq := FrameSeq.reset, oryx := ⟨[], [], [], []⟩, meters := [], eqSecs := [],
    delay := Delay.reset, ledger := Ledger.reset, pwr := Pwr.reset, lanes := [], ring := Ring.reset,
    dpll := Dpll.reset, audio := [], startTrig := 0, amps := [], boosts := [], cal := ⟨0, 0⟩,
    commit := CommitReq.reset, mgmt := Mgmt.reset, pins := Pins.reset, dmas := [],
    retries := [],
    vcore := Vcore.reset,
    freeCtr := 0, readData := [], respErr := false }

end Sys2Proof.Machine
end

