-- ==== Sys2Proof/Machine/Ops.lean ====
section
/-! DEFINITION. The named operations over register fields, memory and time that every meaning uses:
reading and writing a field, logging an error (R37), raising an interrupt bit, counting, and the page
table of R31. -/

namespace Sys2Proof.Machine

/-! ### The page table (R31) -/

def Page.dev : Nat := 0x00
def Page.host : Nat := 0x01
def Page.mgmt : Nat := 0x02
def Page.irq : Nat := 0x03
def Page.pwr : Nat := 0x04
def Page.gpio : Nat := 0x05
def Page.i2cm (m : Nat) : Nat := 0x06 + m
def Page.clk : Nat := 0x10
def Page.ref : Nat := 0x11
def Page.ntime : Nat := 0x12
def Page.sched : Nat := 0x13
def Page.busm : Nat := 0x20
def Page.store : Nat := 0x21
def Page.dma (e : Nat) : Nat := 0x24 + e
def Page.frame : Nat := 0x30
def Page.oryx : Nat := 0x31
def Page.meter : Nat := 0x32
def Page.eq : Nat := 0x33
def Page.delay : Nat := 0x34
def Page.clus (c : Nat) : Nat := 0x40 + c
def Page.ibex (n : Nat) : Nat := 0x48 + n
def Page.ring : Nat := 0x70
def Page.trunk (t : Nat) : Nat := 0x71 + t
def Page.spur (k : Nat) : Nat := 0x75 + k
def Page.lane (l : Nat) : Nat := 0x80 + l
def Page.tdm (p : Nat) : Nat := 0x90 + p
def Page.i2s (q : Nat) : Nat := 0xC0 + q
def Page.ampc : Nat := 0xD0
def Page.amp (n : Nat) : Nat := 0xD1 + n
def Page.boost (k : Nat) : Nat := 0xE8 + k

/-- The block types of the page table. -/
inductive Block where
  | dev | host | mgmt | irq | pwr | gpio | i2cm | clk | ref | ntime | sched | busm | store | dma
  | frame | oryx | meter | eq | delay | clus | ibex | ring | trunk | spur | lane | tdm | i2s
  | ampc | amp | boost
  deriving DecidableEq, Repr

/-- The block and instance of a page, or none where the page is absent (R31). -/
def blockOf (p : Nat) : Option (Block × Nat) :=
  if p = 0x00 then some (.dev, 0)
  else if p = 0x01 then some (.host, 0)
  else if p = 0x02 then some (.mgmt, 0)
  else if p = 0x03 then some (.irq, 0)
  else if p = 0x04 then some (.pwr, 0)
  else if p = 0x05 then some (.gpio, 0)
  else if p ≤ 0x07 then some (.i2cm, p - 0x06)
  else if p < 0x10 then none
  else if p = 0x10 then some (.clk, 0)
  else if p = 0x11 then some (.ref, 0)
  else if p = 0x12 then some (.ntime, 0)
  else if p = 0x13 then some (.sched, 0)
  else if p = 0x20 then some (.busm, 0)
  else if p = 0x21 then some (.store, 0)
  else if 0x24 ≤ p ∧ p ≤ 0x27 then some (.dma, p - 0x24)
  else if p = 0x30 then some (.frame, 0)
  else if p = 0x31 then some (.oryx, 0)
  else if p = 0x32 then some (.meter, 0)
  else if p = 0x33 then some (.eq, 0)
  else if p = 0x34 then some (.delay, 0)
  else if 0x40 ≤ p ∧ p ≤ 0x43 then some (.clus, p - 0x40)
  else if 0x48 ≤ p ∧ p ≤ 0x67 then some (.ibex, p - 0x48)
  else if p = 0x70 then some (.ring, 0)
  else if 0x71 ≤ p ∧ p ≤ 0x74 then some (.trunk, p - 0x71)
  else if 0x75 ≤ p ∧ p ≤ 0x78 then some (.spur, p - 0x75)
  else if 0x80 ≤ p ∧ p ≤ 0x8B then some (.lane, p - 0x80)
  else if 0x90 ≤ p ∧ p ≤ 0xBF then some (.tdm, p - 0x90)
  else if 0xC0 ≤ p ∧ p ≤ 0xC3 then some (.i2s, p - 0xC0)
  else if p = 0xD0 then some (.ampc, 0)
  else if 0xD1 ≤ p ∧ p ≤ 0xE0 then some (.amp, p - 0xD1)
  else if 0xE8 ≤ p ∧ p ≤ 0xEF then some (.boost, p - 0xE8)
  else none

/-- The block type code of PAGE_ID (R31). -/
def Block.code : Block → Nat
  | .dev => 0x0001 | .host => 0x0002 | .mgmt => 0x0003 | .irq => 0x0004 | .pwr => 0x0005
  | .gpio => 0x0006 | .i2cm => 0x0007 | .clk => 0x0010 | .ref => 0x0011 | .ntime => 0x0012
  | .sched => 0x0013 | .busm => 0x0020 | .store => 0x0021 | .dma => 0x0022 | .frame => 0x0030
  | .oryx => 0x0031 | .meter => 0x0032 | .eq => 0x0033 | .delay => 0x0034 | .clus => 0x0040
  | .ibex => 0x0041 | .ring => 0x0050 | .trunk => 0x0051 | .spur => 0x0052 | .lane => 0x0053
  | .tdm => 0x0060 | .i2s => 0x0061 | .ampc => 0x0070 | .amp => 0x0071 | .boost => 0x0072

/-- The domain ID of a block (R31, R387): 0 for AON, 1–4 for DSP0–DSP3. -/
def Block.domain (inst : Nat) : Block → Nat
  | .clus => 1 + inst
  | .ibex => 1 + inst / 8
  | .frame | .oryx | .meter | .eq | .delay => 5
  | .store | .dma => 6
  | .ring | .trunk | .spur | .lane => 7
  | .tdm | .i2s => 8
  | .ampc | .amp | .boost => 9
  | _ => 0

/-- The registers that an I²S page shares with a TDM page: offsets 0x044 to 0x070, without TX_MASTER
and RX_SRC and with masks of two bits (chapter 13). -/
def i2sShared : List RegD :=
  (TDM.regs.filter (fun d => decide (0x44 ≤ d.off ∧ d.off ≤ 0x70))).map (fun d =>
    { d with flds := (d.flds.filter (fun f => !(d.off == 0x44 && decide (f.lo < 3)))).map (fun f =>
        if d.off = 0x50 ∨ d.off = 0x54 then { f with w := 2 } else f) })

/-- The registers of a block beyond the common header. -/
def Block.regs : Block → List RegD
  | .dev => DEV.regs | .host => HOST.regs | .mgmt => MGMT.regs | .irq => IRQ.regs
  | .pwr => PWR.regs | .gpio => GPIO.regs | .i2cm => I2CM.regs | .clk => CLK.regs
  | .ref => REF.regs | .ntime => NTIME.regs | .sched => SCHED.regs | .busm => BUSM.regs
  | .store => STORE.regs | .dma => DMA.regs | .frame => FRAME.regs | .oryx => ORYX.regs
  | .meter => METER.regs | .eq => EQ.regs | .delay => DELAY.regs | .clus => CLUS.regs
  | .ibex => IBEX.regs | .ring => RING.regs | .trunk => TRUNK.regs | .spur => TRUNK.regs
  | .lane => LANE.regs | .tdm => TDM.regs | .i2s => I2S.regs ++ i2sShared | .ampc => AMPC.regs
  | .amp => AMP.regs | .boost => BOOST.regs

/-- The domain ID of a page; 0 for AON and for an absent page. -/
def pageDomain (p : Nat) : Nat :=
  match blockOf p with
  | some (b, i) => b.domain i
  | none => 0

/-- Every page of the page table, in page order. -/
def allPages : List Nat := (List.range 0x100).filter (fun p => (blockOf p).isSome)

/-! ### Error codes (R37) -/

def Code.writeToActive : Nat := 0x01
def Code.range : Nat := 0x02
def Code.locked : Nat := 0x03
def Code.domainOff : Nat := 0x04
def Code.lenRange : Nat := 0x05
def Code.late : Nat := 0x06
def Code.refused : Nat := 0x07
def Code.deferred : Nat := 0x08

/-! ### Register fields -/

/-- The key of a field of page `p` in the register tables. -/
def fkey (p : Nat) (f : Fld) : Nat := (p * 0x1000 + f.off) * 32 + f.lo

/-- A response with an error. -/
def State.respond (s : State) (err : Bool) : State := { s with respErr := s.respErr || err }

/-- The value of a field; of a shadowed field, its active copy. -/
def State.get (s : State) (p : Nat) (f : Fld) : Nat := Tab.get f.rst s.fld (fkey p f)

/-- A one-bit field as a Bool. -/
def State.flag (s : State) (p : Nat) (f : Fld) : Bool := s.get p f != 0

/-- A field written, cut to its width. -/
def State.put (s : State) (p : Nat) (f : Fld) (v : Nat) : State :=
  { s with fld := Tab.put f.rst s.fld (fkey p f) (v % 2 ^ f.w) }

/-- A one-bit field written. -/
def State.putB (s : State) (p : Nat) (f : Fld) (b : Bool) : State := s.put p f (if b then 1 else 0)

/-- The shadow copy of a shadowed field (R39). -/
def State.getSh (s : State) (p : Nat) (f : Fld) : Nat := Tab.get f.rst s.shadow (fkey p f)

/-- The shadow copy of a field written, cut to its width. -/
def State.putSh (s : State) (p : Nat) (f : Fld) (v : Nat) : State :=
  { s with shadow := Tab.put f.rst s.shadow (fkey p f) (v % 2 ^ f.w) }

/-- The shadow copy of a shadowed field written by a bus write: the page becomes dirty (R39). -/
def State.putDirty (s : State) (p : Nat) (f : Fld) (v : Nat) : State :=
  { s.putSh p f v with dirtyReg := Tab.put false s.dirtyReg p true }

/-- A counter advanced by `n`; it saturates at its largest value. -/
def State.bump (s : State) (p : Nat) (f : Fld) (n : Nat := 1) : State :=
  s.put p f (Nat.min (s.get p f + n) (2 ^ f.w - 1))

/-- A field that keeps the largest value it has seen. -/
def State.maxUp (s : State) (p : Nat) (f : Fld) (v : Nat) : State :=
  s.put p f (Nat.max (s.get p f) (Nat.min v (2 ^ f.w - 1)))

/-- A signed field's value. -/
def State.getI (s : State) (p : Nat) (f : Fld) : Int := (BitVec.ofNat f.w (s.get p f)).toInt

/-- A signed field written. -/
def State.putI (s : State) (p : Nat) (f : Fld) (z : Int) : State :=
  s.put p f (BitVec.ofInt f.w z).toNat

/-- Interrupt bit `b` of page `p` raised. -/
def State.raise (s : State) (p : Nat) (b : Nat) : State :=
  s.put p HDR.IRQ_RAW.RAW (s.get p HDR.IRQ_RAW.RAW ||| 2 ^ b)

/-! ### Time (R305, R306) -/

/-- Network time in nanoseconds, modulo 2^32. -/
def Time.nt (t : Time) : Nat := (t.q * 32768 + t.phase * 31250) / 98304 % 2 ^ 32

/-- The fraction of network time, in 2^-16 ns. -/
def Time.ntFrac (t : Time) : Nat := (t.q * 32768 + t.phase * 31250) % 98304 * 65536 / 98304

/-- Network time of the machine. -/
def State.nt (s : State) : Nat := s.time.nt

/-- The cycle number. -/
def State.cycle (s : State) : Nat := s.time.c.toNat

/-- The command's instant: `at_` ROOT_CLK periods after the cycle's nominal start. -/
def State.atPhase (s : State) (at_ : Nat) : State :=
  { s with time := { s.time with phase := Nat.min at_ 32767 } }

/-- The MGMT_CLK cycle of an instant `phase` ROOT_CLK periods after the nominal start with count `starts`
(ROOT_CLK / 12, R12). -/
def mgmtCycle (starts phase : Nat) : Nat := (starts * 32768 + phase) / 12

/-- The present instant in ROOT_CLK periods. -/
def State.rootNow (s : State) : Nat := s.time.starts * 32768 + s.time.phase

/-- The MGMT_CLK cycle of the present instant. -/
def State.mgmtNow (s : State) : Nat := mgmtCycle s.time.starts s.time.phase

/-- An error logged by page `p` (R37). -/
def State.log (s : State) (p : Nat) (code : Nat) : State :=
  let s := s.bump p HDR.ERR_COUNT.COUNT
  let s := s.put p HDR.ERR_LAST.NT_STAMP (s.nt / 256)
  s.put p HDR.ERR_LAST.CODE code

/-! ### Free values -/

/-- The next free value and the state that has used it. -/
def State.draw (s : State) : DWord × State :=
  (Config.freeValue s.freeCtr, { s with freeCtr := s.freeCtr + 1 })

/-- `n` free bytes. -/
def State.drawBytes (s : State) : Nat → List Byte × State
  | 0 => ([], s)
  | n + 1 =>
    let d := s.draw
    let r := d.2.drawBytes n
    (d.1.setWidth 8 :: r.1, r.2)

/-! ### Domains and enables -/

/-- The state of domain `d` is undefined from here on (R8, R412), until the domain turns OFF or the device is
reset. -/
def State.loseDomain (s : State) (d : Nat) : State := { s with undef := Tab.put false s.undef d true }

/-- The state of the whole device is undefined from here on (R412). -/
def State.loseDevice (s : State) : State := (List.range 10).foldl (fun (s : State) (d : Nat) => s.loseDomain d) s

/-- The state of domain `d`; AON is always on (R387). -/
def State.domState (s : State) (d : Nat) : DomState :=
  if d = 0 then .on else Tab.get .off s.dom d

/-- Whether domain `d` is ON. -/
def State.domOn (s : State) (d : Nat) : Bool := s.domState d == .on

/-- Whether the block of page `p` is powered and clocked. -/
def State.pageOn (s : State) (p : Nat) : Bool := s.domOn (pageDomain p)

/-- PAGE_CTRL.EN of page `p`. -/
def State.enabled (s : State) (p : Nat) : Bool := s.flag p HDR.PAGE_CTRL.EN

/-- The active copy of the page's tables: 0 for A, 1 for B (R33). -/
def State.activeSet (s : State) (p : Nat) : Nat := s.get p HDR.SET_STAT.ACTIVE_SET

/-- Whether the firmware has set READY (R55). -/
def State.ready (s : State) : Bool := s.flag Page.mgmt MGMT.BOOT_STAT.READY

/-- Whether a write waits for READY (R56): every page but DEV, HOST, MGMT and IRQ. -/
def State.notReady (s : State) (p : Nat) : Bool := !s.ready && decide (4 ≤ p)

/-- PAGE_LOCK.LOCK of page `p` (R69). -/
def State.locked (s : State) (p : Nat) : Bool := s.flag p HDR.PAGE_LOCK.LOCK

/-- Whether page `p` is an IBEX page of a spare that copies or follows, which takes no write (R160). -/
def State.spareHeld (s : State) (p : Nat) : Bool :=
  match blockOf p with
  | some (.ibex, n) =>
    let st := s.get (Page.clus (n / 8)) CLUS.MIG_STAT.STATE
    st == 2 || st == 3
  | _ => false

/-- A write to a block register of page `p` before its effect `f`: the lock is tested first (R69), then
READY (R56), the domain (R38) and a migration into the page's cluster (R160). -/
def State.blockWrite (s : State) (p : Nat) (f : State → State) : State :=
  if s.inReset then s
  else if s.locked p then s.log p Code.locked
  else if s.notReady p then s.log p Code.refused
  else if !s.pageOn p then s.log p Code.domainOff
  else if s.spareHeld p then s.log p Code.refused
  else f s

/-- A write to PAGE_CTRL of page `p`, which its mirror serves in every domain state (R38). -/
def State.ctrlWrite (s : State) (p : Nat) (f : State → State) : State :=
  if s.inReset then s
  else if s.locked p then s.log p Code.locked
  else if s.notReady p then s.log p Code.refused
  else if s.spareHeld p then s.log p Code.refused
  else f s

/-- A read of a block register of page `p` (R38), before its effect `f`. In a domain whose state is undefined the
word read is a free value (R8). -/
def State.blockRead (s : State) (p : Nat) (f : State → State) : State :=
  if s.inReset then s
  else if !s.pageOn p then { s.log p Code.domainOff with readData := [0] }
  else if Tab.get false s.undef (pageDomain p) then
    let d := (f s).draw
    { d.2 with readData := [d.1.setWidth 32] }
  else f s

/-! ### Memory -/

/-- One byte of the internal address space; a byte nothing has written reads 0 (log entry 4). -/
def State.byte (s : State) (a : Nat) : Byte := Tab.get 0 s.mem a

/-- One byte written. -/
def State.setByte (s : State) (a : Nat) (v : Byte) : State :=
  { s with mem := Tab.put 0 s.mem a v }

/-- Several bytes written, the later over the earlier. -/
def State.setBytes (s : State) (l : List (Nat × Byte)) : State :=
  { s with mem := Tab.puts 0 s.mem l }

/-- The `n` bytes from `a` on, as a little-endian number (R35). -/
def State.readLE (s : State) (a : Nat) : Nat → Nat
  | 0 => 0
  | n + 1 => (s.byte a).toNat + 256 * s.readLE (a + 1) n

/-- A little-endian number as `n` addressed bytes from `a` on. -/
def leBytes (a : Nat) (v : Nat) : Nat → List (Nat × Byte)
  | 0 => []
  | n + 1 => (a, BitVec.ofNat 8 v) :: leBytes (a + 1) (v / 256) n

/-- The 32-bit word at `a`. -/
def State.word (s : State) (a : Nat) : Word := Word.ofNat (s.readLE a 4)

/-- A 32-bit word written at `a`. -/
def State.setWord (s : State) (a : Nat) (v : Word) : State := s.setBytes (leBytes a v.toNat 4)

/-- The value of bits `[lo + w - 1 : lo]` of a number. -/
def bits (v lo w : Nat) : Nat := v / 2 ^ lo % 2 ^ w

/-- A `w`-bit number read as signed. -/
def sgn (w v : Nat) : Int := (BitVec.ofNat w v).toInt

end Sys2Proof.Machine
end

