-- ==== Sys2Proof/Machine/Regs.lean ====
section
/-! DEFINITION. Registers of a page by offset (R31, R34): the descriptor and the fields at an offset,
and the shadowed fields of a page. -/

namespace Sys2Proof.Machine

/-- The registers of a page beyond its header: PORT_START stands on TDM0 alone. -/
def pageRegs (p : Nat) : List RegD :=
  match blockOf p with
  | none => []
  | some (.tdm, 0) => TDM.regs
  | some (.tdm, _) => TDM.regs.filter (fun d => d.off != 0x100)
  | some (b, _) => b.regs

/-- The fields of the register at page offset `off` of one descriptor. -/
def RegD.at_ (d : RegD) (off : Nat) : Option (List Fld) :=
  let k := if d.stride = 0 then 0 else (off - d.off) / d.stride
  if d.off ≤ off ∧ k < d.count ∧ off = d.off + k * d.stride then
    some (d.flds.map (fun f => { f with off := off }))
  else none

/-- The fields of the register at a page offset: none where the offset is unmapped (R34). The reserved
words of the header are mapped and hold no field. -/
def regAt (p off : Nat) : Option (List Fld) :=
  if (blockOf p).isNone then none
  else if off < 0x40 then some ((HDR.regs.findSome? (fun d => d.at_ off)).getD [])
  else (pageRegs p).findSome? (fun d => d.at_ off)

/-- Every field of one descriptor, over its repetitions. -/
def RegD.expand (d : RegD) : List Fld :=
  (List.range d.count).flatMap (fun k => d.flds.map (fun f => { f with off := d.off + k * d.stride }))

/-- The shadowed fields of a page (R39). -/
def shadowFlds (p : Nat) : List Fld :=
  ((pageRegs p).flatMap RegD.expand).filter (fun f => f.ty == .rws)

/-- Whether the page has shadowed registers (PAGE_CAP.SHADOW). -/
def hasShadow (p : Nat) : Bool := (pageRegs p).any (fun d => d.flds.any (fun f => f.ty == .rws))

/-- Whether the page owns A/B tables or program sets (PAGE_CAP.TABLES, R33, R154). -/
def hasTables (p : Nat) : Bool :=
  match blockOf p with
  | some (.oryx, _) => true
  | some (.eq, _) => true
  | some (.delay, _) => true
  | some (.ring, _) => true
  | some (.ibex, _) => true
  | _ => false

/-- The two copies of the page's table or program set: address of copy A, address of copy B, bytes
of each. -/
def pageTables (p : Nat) : Option (Nat × Nat × Nat) :=
  match blockOf p with
  | some (.oryx, _) => some (0x10100000, 0x10200000, 0x100000)
  | some (.eq, _) => some (0x10300000, 0x10380000, 0x80000)
  | some (.delay, _) => some (0x10400000, 0x10410000, 0x10000)
  | some (.ring, _) => some (0x10420000, 0x10430000, 0x10000)
  | some (.ibex, n) => some (0x20000000 + n * 0x100000, 0x20010000 + n * 0x100000, 0x10000)
  | _ => none

/-- SET_STAT.SHADOW_DIRTY (R42). -/
def State.dirty (s : State) (p : Nat) : Bool :=
  Tab.get false s.dirtyReg p || Tab.get false s.dirtyTab p

/-- PAGE_CTRL.COMMIT_GROUP. -/
def State.group (s : State) (p : Nat) : Nat := s.get p HDR.PAGE_CTRL.COMMIT_GROUP

/-- COMMIT_STAT.PENDING. -/
def State.commitPending (s : State) : Bool := s.flag Page.dev DEV.COMMIT_STAT.PENDING

/-- Whether a page is in the groups of the pending commit (R44). -/
def State.inCommit (s : State) (p : Nat) : Bool := s.commitPending && s.commit.pages.contains p

/-- The pages that the pending commit changes. A page whose domain is not ON is left out (R29, R47): its
shadow copies stay dirty, and its registers keep their values (R38; DEDUCED, log entry 54). -/
def State.commitDirty (s : State) : List Nat := s.commit.pages.filter (fun p => s.dirty p && s.pageOn p)

/-- PAGE_STAT.BUSY: a SYNC is running (R42). -/
def State.syncing (s : State) (p : Nat) : Bool := s.flag p HDR.PAGE_STAT.BUSY

/-- Whether writes to the shadow copies of a page are refused: it is in a pending commit (R44) or a SYNC
is running (R42). -/
def State.shadowHeld (s : State) (p : Nat) : Bool := s.inCommit p || s.syncing p

/-- Shadow copies written by a bus write (R39), or refused (R42, R44). -/
def State.shadowWrite (s : State) (p : Nat) (l : List (Fld × Nat)) : State :=
  if s.shadowHeld p then s.log p Code.refused
  else l.foldl (fun (s : State) (e : Fld × Nat) => s.putDirty p e.1 e.2) s

end Sys2Proof.Machine
end

