-- ==== Sys2Proof/Machine/RegRange.lean ====
section
/-! DEFINITION. The interrupt bits that each block defines, and the values that a field's description
calls out of range (R36): a write that would place one is ignored as a whole and logs RANGE. -/

namespace Sys2Proof.Machine

/-- The interrupt bits of a block, from bit 0 up: their number. -/
def Block.irqBits : Block → Nat
  | .dev => 5 | .host => 3 | .mgmt => 3 | .irq => 0 | .pwr => 7 | .gpio => 32 | .i2cm => 2
  | .clk => 2 | .ref => 7 | .ntime => 11 | .sched => 5 | .busm => 2 | .store => 5 | .dma => 3
  | .frame => 4 | .oryx => 4 | .meter => 1 | .eq => 3 | .delay => 3 | .clus => 6 | .ibex => 12
  | .ring => 8 | .trunk => 6 | .spur => 6 | .lane => 14 | .tdm => 10 | .i2s => 10 | .ampc => 2
  | .amp => 8 | .boost => 4

/-- The mask of the defined interrupt bits of a page. -/
def irqMask (p : Nat) : Nat :=
  match blockOf p with
  | some (b, _) => 2 ^ b.irqBits - 1
  | none => 0

/-- Whether `v` lies outside `lo` to `hi`. -/
def outside (v lo hi : Nat) : Bool := decide (v < lo ∨ hi < v)

/-- Whether a two-bit field, of `n` side by side, holds 0b11. -/
def anyThree (v n : Nat) : Bool := (List.range n).any (fun i => bits v (2 * i) 2 == 3)

/-- Out of range on the clock, reference, time and scheduling pages. -/
def rangeClock (b : Block) (off v : Nat) : Bool :=
  match b with
  | .clk =>
    if off = 0x40 then bits v 0 2 == 3
    else if off = 0x48 then anyThree v 8
    else if off = 0x4C then anyThree v 2
    else false
  | .ref =>
    if off = 0x48 then outside (bits v 0 10) 1 1000 || outside (bits v 16 10) 1 1000
    else if off = 0x50 then decide (bits v 16 16 ≤ bits v 0 16)
    else if off = 0x60 then bits v 24 8 == 0
    else if 0x100 ≤ off ∧ off < 0x180 ∧ off % 8 = 0 then
      let k := (off - 0x100) / 8
      (decide (13 ≤ k) && v.testBit 0) || (decide (k < 2) && bits v 5 2 == 3)
    else false
  | .ntime =>
    if off = 0x40 then outside (bits v 8 6) 1 50
    else if off = 0x68 then outside (bits v 0 4) 4 12
    else if off = 0x74 then bits v 0 8 == 0
    else false
  | _ => false

/-- Whether an offset holds a debug register of a core (R161). -/
def isDebugReg (p off : Nat) : Bool :=
  match blockOf p with
  | some (.ibex, _) => decide (0x300 ≤ off ∧ off < 0x320)
  | _ => false

/-- Whether a value is a register that DBG_SEL can name (chapter 05). -/
def dbgSelOk (v : Nat) : Bool := decide (v ≤ 0x58) || (decide (0x60 ≤ v) && decide (v ≤ 0x7B))

/-- Out of range on the bus, memory, core and power pages. -/
def rangeBus (b : Block) (off v : Nat) : Bool :=
  match b with
  | .busm => decide (off = 0x60) && bits v 8 8 == 0
  | .ibex => decide (off = 0x310) && !dbgSelOk (bits v 0 8)
  | .pwr => decide (off = 0x180) && bits v 0 16 == 0
  | _ => false

/-- Out of range on the lane and ring pages. -/
def rangeLink (b : Block) (inst off v : Nat) : Bool :=
  match b with
  | .lane =>
    if off = 0x40 then bits v 1 2 == 3 || (decide (inst < 8) && bits v 1 2 != 0)
    else if off = 0x44 then outside (bits v 0 2) 1 2 || outside (bits v 4 2) 1 2
    else if off = 0x5C then decide (8 ≤ bits v 0 4)
    else false
  | .ring => decide (off = 0x48) && bits v 8 8 == 0
  | _ => false

/-- Out of range on the port, amplifier and boost pages. -/
def rangeAudio (b : Block) (off v : Nat) : Bool :=
  match b with
  | .tdm =>
    if off = 0x40 then bits v 5 2 == 3 || bits v 7 2 == 3
    else if off = 0x44 then bits v 1 2 == 3
    else false
  | .i2s => decide (off = 0x40) && bits v 7 2 == 3
  | .ampc => decide (off = 0x40) && bits v 0 2 == 3
  | .amp =>
    if off = 0x50 then outside (bits v 0 14) 96 9600
    else if off = 0x58 then decide (1000 < bits v 0 10)
    else if off = 0x78 then bits v 8 4 == 0 || outside (bits v 16 10) 10 1000
    else if off = 0x7C then outside (bits v 0 10) 1 1000
    else if off = 0x84 then outside (bits v 0 12) 1 4000 ||
      decide (sgn 16 (bits v 16 16) < -15360 ∨ -5120 < sgn 16 (bits v 16 16))
    else false
  | .boost =>
    if off = 0x48 then decide (1000 < bits v 0 10 ∨ 1000 < bits v 16 10)
    else if off = 0x4C then bits v 0 10 == 0 || bits v 16 10 == 0
    else if off = 0x50 then decide (1000 < bits v 16 10)
    else false
  | _ => false

/-- Whether a write of `v` would place an out-of-range value in a field (R36). Registers whose own rule
judges more than the value (RAIL_CFG, TEST_CTRL, PSTEP_CTRL, SCRUB_CTRL and others) are judged where they
are written. -/
def rangeBad (p off v : Nat) : Bool :=
  match blockOf p with
  | some (b, i) => rangeClock b off v || rangeBus b off v || rangeLink b i off v || rangeAudio b off v
  | none => false

end Sys2Proof.Machine
end

