-- ==== Sys2Proof/Machine/Flags.lean ====
section
/-! DEFINITION. Rounding, saturation, extraction and the status flags of an Ibex core: every flag
computation of the spec's chapters 04 and 06, shared by the instructions and by the engines of
chapters 07 and 08, which extract in the same way. -/

namespace Sys2Proof.Machine

/-- What an operation of a core makes happen beside its results: a sticky flag of SR, a counter and
an interrupt bit (R124, R125). -/
inductive Ev where
  | xov | xlost | sat | satCountOnlyDz | align | bankStall
  deriving DecidableEq, Repr

/-- The SR bit an event sets (R124). -/
def Ev.srBit : Ev → Word
  | .xov => 0x01
  | .xlost => 0x02
  | .sat => 0x04
  | .satCountOnlyDz => 0x08
  | .align => 0x10
  | .bankStall => 0

/-- `z` shifted right by `sh` and rounded under R118: convergent, or toward minus infinity with
`trunc`. -/
def roundShift (trunc : Bool) (z : Int) (sh : Nat) : Int :=
  let q := z / (2 ^ sh : Nat)
  let f := z % (2 ^ sh : Nat)
  if trunc then q
  else if 2 * f > (2 ^ sh : Nat) then q + 1
  else if 2 * f < (2 ^ sh : Nat) then q
  else if sh = 0 then q
  else if q % 2 = 0 then q else q + 1

/-- `z` limited to a signed `w`-bit number, and whether it was limited. -/
def satTo (w : Nat) (z : Int) : Int × Bool :=
  if z > (2 ^ (w - 1) : Nat) - 1 then ((2 ^ (w - 1) : Nat) - 1, true)
  else if z < -(2 ^ (w - 1) : Nat) then (-(2 ^ (w - 1) : Nat), true)
  else (z, false)

/-- Extraction of a `w`-bit result from an accumulator (R117, R119): the result and the event. -/
def extractAcc (w : Nat) (trunc : Bool) (acc : AccVal) (sh : Nat) : Int × List Ev :=
  if acc.xc > 0 then ((2 ^ (w - 1) : Nat) - 1, [.xov])
  else if acc.xc < 0 then (-(2 ^ (w - 1) : Nat), [.xov])
  else
    let r := satTo w (roundShift trunc acc.v.toInt sh)
    (r.1, if r.2 then [.sat] else [])

/-- An initialising operation (R114). -/
def accInit (addend : Int) : AccVal := ⟨BitVec.ofInt 72 addend, 0, false⟩

/-- An accumulating operation (R115, R116) and whether it saturates XC. -/
def accAdd (acc : AccVal) (addend : Int) : AccVal × List Ev :=
  let s := acc.v.toInt + addend
  let v := BitVec.ofInt 72 s
  let xc := if s ≥ (2 ^ 71 : Nat) then acc.xc + 1
    else if s < -(2 ^ 71 : Nat) then acc.xc - 1 else acc.xc
  if acc.lost then (⟨v, acc.xc, true⟩, [])
  else if xc > 3 then (⟨v, 3, true⟩, [.xlost])
  else if xc < -3 then (⟨v, -3, true⟩, [.xlost])
  else (⟨v, xc, false⟩, [])

/-- A signed result limited to 32 bits (`sat32` of R165). -/
def sat32 (z : Int) : Word × List Ev :=
  let r := satTo 32 z
  (Word.ofInt r.1, if r.2 then [.sat] else [])

/-- MUL (R120): the product of two Q1.31 numbers, rounded and saturated. -/
def mulQ31 (trunc : Bool) (x y : Word) : Word × List Ev :=
  sat32 (roundShift trunc (x.toInt * y.toInt) 31)

/-- One non-restoring division step (R121): the new remainder and the quotient bit. -/
def divStep (rem : Acc72) (y : Word) : Acc72 × Bool :=
  if decide (rem.toInt ≥ 0) == decide (y.toInt ≥ 0)
  then (BitVec.ofInt 72 (2 * rem.toInt - y.toInt), true)
  else (BitVec.ofInt 72 (2 * rem.toInt + y.toInt), false)

/-- The end of a division (R122): the quotient, the remainder where it is written, and the events. -/
def divFinish (rem : Acc72) (q x y : Word) : Word × Option Acc72 × List Ev :=
  let xi := x.toInt
  let yi := y.toInt
  if yi = 0 then
    (if xi < 0 then 0x80000000 else 0x7FFFFFFF, none, [.satCountOnlyDz])
  else if xi.natAbs ≥ yi.natAbs then
    (if decide (xi < 0) != decide (yi < 0) then 0x80000000 else 0x7FFFFFFF, none, [.sat])
  else
    let q0 : Int := 2 * ((q &&& 0x7FFFFFFF).toNat : Int) - 0x7FFFFFFF
    let r := rem.toInt
    let res : Int × Int :=
      if r ≠ 0 ∧ decide (r < 0) ≠ decide (xi < 0) then
        if decide (r < 0) == decide (yi < 0) then (q0 + 1, r - yi) else (q0 - 1, r + yi)
      else if r = yi then (q0 + 1, 0)
      else if r = -yi then (q0 - 1, 0)
      else (q0, r)
    (Word.ofInt res.1, some (BitVec.ofInt 72 res.2), [])

/-- The comparisons of CMP and CMPI (R165). -/
def condHolds : Cond → Word → Word → Bool
  | .eq, x, y => x == y
  | .ne, x, y => x != y
  | .lt, x, y => decide (x.toInt < y.toInt)
  | .le, x, y => decide (x.toInt ≤ y.toInt)
  | .ltu, x, y => decide (x.toNat < y.toNat)
  | .leu, x, y => decide (x.toNat ≤ y.toNat)
  | .gt, x, y => decide (x.toInt > y.toInt)
  | .ge, x, y => decide (x.toInt ≥ y.toInt)

end Sys2Proof.Machine
end

