-- ==== Sys2Proof/Machine/Link.lean ====
section
/-! DEFINITION. The line code of the Vuquin link: fields of a block body, the CRC, the scrambler,
cells with their check code, and the lanes, trunks and spurs as pieces of the state. -/

namespace Sys2Proof.Machine

/-! ### Bodies -/

/-- Body bits `k` to `k + w - 1`, the first the most significant (R243). -/
def bodyField (b : Body) (k w : Nat) : Nat := b.toNat / 2 ^ (254 - k - w) % 2 ^ w

/-- One step of the CRC-16 of R245: polynomial 0x1021. -/
def crcStep (c : Nat) (bit : Bool) : Nat :=
  let c' := c * 2 % 65536
  if (c / 32768 == 1) != bit then c' ^^^ 0x1021 else c'

/-- The CRC of the `n` lowest bits of `v`, most significant first, from `c`. -/
def crcBits (v : Nat) : Nat → Nat → Nat
  | 0, c => c
  | n + 1, c => crcBits v n (crcStep c (v.testBit n))

/-- The CRC-16 of an `n`-bit string (R245): initial value 0xFFFF. -/
def crc16 (n v : Nat) : Nat := crcBits v n 0xFFFF

/-- The next bit of the scrambler and its next state (R247). -/
def scrStep (s : Nat) : Bool × Nat :=
  let n := (s.testBit 30) != (s.testBit 27)
  (n, (s * 2 + (if n then 1 else 0)) % 2 ^ 31)

/-- The scrambler's next `n` output bits as a number, the first the most significant. -/
def scrBits : Nat → Nat → Nat → Nat
  | 0, _, acc => acc
  | n + 1, s, acc =>
    let o := scrStep s
    scrBits n o.2 (acc * 2 + if o.1 then 1 else 0)

/-- The scrambler's seed at a marker (R247). -/
def scrSeed (lidx clo : Nat) : Nat := 2 ^ 30 + lidx * 2 ^ 26 + clo * 2 ^ 18 + 0x2A5C3

/-- A marker body descrambled from body bit 64 on with the seed that it carries (R248). -/
def descramble (b : Body) : Body :=
  b ^^^ BitVec.ofNat 254 (scrBits 190 (scrSeed (bodyField b 48 4) (bodyField b 52 8)) 0)

def Ctl.marker : Nat := 0x1E
def Ctl.idle : Nat := 0x2D
def Ctl.service : Nat := 0x33
def Ctl.ts1 : Nat := 0x4B
def Ctl.ts2 : Nat := 0x55
def Ctl.loopTest : Nat := 0x66

/-- The SYNC field of every control body (R245). -/
def Ctl.sync : Nat := 0xF066A53C99

/-- Whether a body ends in the CRC of its first 238 bits (R245). -/
def crcOk (b : Body) : Bool := bodyField b 238 16 == crc16 238 (b.toNat / 65536)

/-- Whether the unscrambled first 64 bits are those of a marker (R245, R246). -/
def markerHead (b : Body) : Bool :=
  bodyField b 0 8 == Ctl.marker && bodyField b 8 40 == Ctl.sync &&
    bodyField b 60 4 == (bodyField b 48 4 ^^^ bodyField b 52 4 ^^^ bodyField b 56 4 ^^^ 0xA)

/-- Whether a descrambled marker body is valid (R246): its head, its CRC, and a CYCLE that ends in
the CLO sent unscrambled. -/
def markerOk (b : Body) : Bool :=
  markerHead b && crcOk b && bodyField b 88 8 == bodyField b 52 8

/-- Whether a control body of another type is valid (R246). -/
def ctlOk (b : Body) (ty : Nat) (crc : Bool) : Bool :=
  bodyField b 0 8 == ty && bodyField b 8 40 == Ctl.sync && bodyField b 48 16 == 0x6996 && (!crc || crcOk b)

/-- The number of ones in the `n` lowest bits. -/
def ones (v : Nat) : Nat → Nat
  | 0 => 0
  | n + 1 => (if v.testBit n then 1 else 0) + ones v n

/-! ### Cells -/

/-- The first 238 bits of a cell body (R280). -/
def cellBody (c : Cell) : Nat :=
  (List.range 7).foldl (fun acc k => acc * 2 ^ 32 + (c.samples.getD k 0).toNat)
    (c.stream.toNat * 4 + (if c.sub then 2 else 0) + (if c.wrap then 1 else 0))

/-- The cell with the check code of an origin (R280). -/
def cellSeal (c : Cell) (origin : Nat) : Cell :=
  { c with ocrc := BitVec.ofNat 16 (crc16 238 (cellBody c) ^^^ origin % 65536) }

/-- The origin that a cell shows in cycle `t`, and its age (R281). -/
def cellOrigin (c : Cell) (t : Nat) : Nat × Nat :=
  let x := c.ocrc.toNat ^^^ crc16 238 (cellBody c)
  let age := (t + 65536 - x) % 65536
  ((t + 2 ^ 32 - age) % 2 ^ 32, age)

/-- The cell with WRAP set as given, sealed for the same origin. -/
def cellWrap (c : Cell) (w : Bool) (origin : Nat) : Cell := cellSeal { c with wrap := w } origin

/-! ### Lanes and ports of the state -/

def Phase.disabled : Nat := 0
def Phase.waitGrant : Nat := 1
def Phase.detect : Nat := 2
def Phase.cdrLock : Nat := 3
def Phase.blockLock : Nat := 4
def Phase.adapt : Nat := 5
def Phase.confirm : Nat := 6
def Phase.up : Nat := 7
def Phase.backoff : Nat := 8
def Phase.listen : Nat := 9
def Phase.test : Nat := 10

def State.lane (s : State) (l : Nat) : Lane := Tab.get Lane.reset s.lanes l

def State.setLane (s : State) (l : Nat) (v : Lane) : State :=
  { s with lanes := Tab.put Lane.reset s.lanes l v }

def State.port (s : State) (p : Nat) : Port := Tab.get Port.reset s.ring.ports p

def State.setPort (s : State) (p : Nat) (v : Port) : State :=
  { s with ring := { s.ring with ports := Tab.put Port.reset s.ring.ports p v } }

/-- LANE_STAT.PHASE. -/
def State.phase (s : State) (l : Nat) : Nat := s.get (Page.lane l) LANE.LANE_STAT.PHASE

def State.laneUp (s : State) (l : Nat) : Bool := s.phase l == Phase.up

def State.aligned (s : State) (l : Nat) : Bool := s.flag (Page.lane l) LANE.LANE_STAT.ALIGNED

/-- A spur lane. -/
def isSpur (l : Nat) : Bool := decide (8 ≤ l)

/-- The port of a lane: trunks are ports 0–3, spurs ports 4–7. -/
def portOf (l : Nat) : Nat := if l < 8 then l / 2 else l - 4

/-- The lanes of a port. -/
def portLanes (p : Nat) : List Nat := if p < 4 then [2 * p, 2 * p + 1] else [p + 4]

/-- The page of a port. -/
def portPage (p : Nat) : Nat := if p < 4 then Page.trunk p else Page.spur (p - 4)

/-- The other lane of a trunk lane. -/
def mate (l : Nat) : Nat := if l % 2 = 0 then l + 1 else l - 1

/-- The time reference that a port is (R308): 4–7 the trunks, 8–11 the spurs. -/
def refOfPort (p : Nat) : Nat := p + 4

/-- The rate divisor of a lane (R242). -/
def State.laneRate (s : State) (l : Nat) : Nat := 2 ^ s.get (Page.lane l) LANE.LANE_CTRL.RATE

/-- Media slots per cycle on the lanes of a port (R278). -/
def State.slots (s : State) (p : Nat) : Nat :=
  if p < 4 then 1008 else
    match s.get (Page.lane (p + 4)) LANE.LANE_CTRL.RATE with
    | 0 => 1008
    | 1 => 504
    | _ => 252

/-- Elastic idle slots per cycle (R250). -/
def State.elastic (s : State) (l : Nat) : Nat := 4 / s.laneRate l

/-- Whether a port carries media. -/
def State.carrying (s : State) (p : Nat) : Bool := s.get (portPage p) TRUNK.PORT_STAT.STATE == 3

/-- The lane that R264 names for a port: the one whose received LIDX is 0 while it is UP, otherwise
the other. -/
def State.timeLane (s : State) (p : Nat) : Nat :=
  if p < 4 then
    let a := if s.get (Page.lane (2 * p)) LANE.LANE_STAT.PARTNER_LIDX = 0 then 2 * p
      else if s.get (Page.lane (2 * p + 1)) LANE.LANE_STAT.PARTNER_LIDX = 0 then 2 * p + 1 else 2 * p
    if s.laneUp a then a else mate a
  else p + 4

/-- The node's line-bit count (at ÷1) `arrive` line bits after the present nominal start. -/
def State.lineBits (s : State) (arrive : Nat) : Nat := s.time.starts * 262144 + arrive

/-- Whether the LANE domain runs. -/
def State.laneOn (s : State) : Bool := !s.inReset && s.domOn 7

end Sys2Proof.Machine
end

