-- ==== Sys2Proof/Machine/Refs.lean ====
section
/-! DEFINITION. References, selection, the DPLL and holdover (R308 to R322, R331, R332), and the
commands of the REF page. Frequencies are in 1/256 ppb, phase errors in ps. -/

namespace Sys2Proof.Machine

/-! ### Small arithmetic -/

/-- One number placed into a rising list. -/
def insertInt (x : Int) : List Int → List Int
  | [] => [x]
  | y :: t => if x ≤ y then x :: y :: t else y :: insertInt x t

/-- The median of a list; for an even count the mean of the two middle values, rounded toward zero
(R309). -/
def medianOf (l : List Int) : Int :=
  let t := l.foldl (fun acc x => insertInt x acc) []
  let n := t.length
  if n % 2 = 1 then t.getD (n / 2) 0
  else Int.tdiv (t.getD (n / 2 - 1) 0 + t.getD (n / 2) 0) 2

/-- `z / d` rounded to the nearest integer, ties to even. -/
def roundDiv (z : Int) (d : Nat) : Int :=
  let q := z / (d : Int)
  let r := z % (d : Int)
  if 2 * r > d then q + 1 else if 2 * r < d then q else if q % 2 = 0 then q else q + 1

/-- `z` modulo `m`, as a signed value. -/
def smod (z : Int) (m : Nat) : Int :=
  let r := z % (m : Int)
  if (m : Int) ≤ 2 * r then r - m else r

/-- An integer limited to a signed 32-bit word. -/
def sat32Word (z : Int) : Nat := (BitVec.ofInt 32 (satTo 32 z).1).toNat

/-! ### References -/

/-- Whether reference `k` is a port (R308). -/
def isPortRef (k : Nat) : Bool := decide (4 ≤ k ∧ k ≤ 11)

def State.refEn (s : State) (k : Nat) : Bool := s.flag Page.ref (REF.REF_CFG.EN k)
def State.refActive (s : State) (k : Nat) : Bool := s.flag Page.ref (REF.REF_STAT.ACTIVE k)
def State.qualified (s : State) (k : Nat) : Bool := s.flag Page.ref (REF.REF_STAT.QUALIFIED k)
def State.eligible (s : State) (k : Nat) : Bool := s.flag Page.ref (REF.REF_STAT.ELIGIBLE k)
def State.foff (s : State) (k : Nat) : Int := s.getI Page.ref (REF.REF_FOFF.PPB k)
def State.rank (s : State) (k : Nat) : Nat := s.get Page.ref (REF.REF_CFG.RANK k)

/-- PHASE_ALIGN as it acts: fixed at 1 for references 3 to 11 and at 0 for 2. -/
def State.phaseAlign (s : State) (k : Nat) : Bool :=
  if 3 ≤ k ∧ k ≤ 11 then true else if k = 2 then false else s.flag Page.ref (REF.REF_CFG.PHASE_ALIGN k)

/-- The references that exist. -/
def allRefs : List Nat := List.range 13

/-- MASTER role. -/
def State.isMaster (s : State) : Bool := s.flag Page.ntime NTIME.NT_CTRL.ROLE

/-- The raw offsets of the qualified references. -/
def State.qualRaw (s : State) : List Int :=
  (allRefs.filter s.qualified).filterMap (fun k => Tab.get none s.dpll.raw k)

/-- Whether the median correction is in use (R309). -/
def State.medianOn (s : State) : Bool :=
  s.flag Page.ref REF.REF_CTRL.MEDIAN && decide (3 ≤ (allRefs.filter s.qualified).length)

/-- The DPLL's state: 0 FREE_RUN, 1 ACQUIRING, 2 LOCKED, 3 HOLDOVER, 4 LOST. -/
def State.dpllState (s : State) : Nat := s.get Page.ref REF.DPLL_STAT.STATE

/-- The DPLL enters a state; a change raises STATE_CHG (R316). -/
def State.setDpll (s : State) (st : Nat) : State :=
  if s.dpllState = st then s else (s.put Page.ref REF.DPLL_STAT.STATE st).raise Page.ref 0

/-- The selected reference. -/
def State.selected (s : State) : Option Nat :=
  if s.flag Page.ref REF.DPLL_STAT.SEL_VALID then some (s.get Page.ref REF.DPLL_STAT.SELECTED) else none

/-- The port that the node follows: the selected port while the DPLL is ACQUIRING or LOCKED (R325). -/
def State.followed (s : State) : Option Nat :=
  match s.selected with
  | some k => if isPortRef k && (s.dpllState == 1 || s.dpllState == 2) then some (k - 4) else none
  | none => none

/-! ### Holdover -/

/-- Every soak in progress restarted under LOST_SOAK (R321). -/
def State.restartSoaks (s : State) : State :=
  allRefs.foldl (fun s k =>
    if s.flag Page.ref (REF.REF_STAT.SOAKING k) then
      s.put Page.ref (REF.REF_STAT.SOAK_LEFT k) (s.get Page.ref REF.SOAK_CFG.LOST_SOAK)
    else s) s

/-- The DPLL enters LOST, which owns the fault and restarts the soaks (R321). -/
def State.enterLost (s : State) : State := (s.setDpll 4).restartSoaks

/-- The limit of the DPLL's steering, ±100 ppm (R15). -/
def steerLimit : Int := 25600000

/-- A value within ±`lim`. -/
def within (lim f : Int) : Int := if lim < f then lim else if f < -lim then -lim else f

/-- A frequency within R15. -/
def steerClamp (f : Int) : Int := within steerLimit f

/-- The scale of the integral term: 2^-80 of 1/256 ppb. -/
def loopOne : Int := 2 ^ 80

/-- DPLL_FREQ shows the steering of the loop or of holdover less the movement of a phase step under way, whose
positive direction delays the nominal starts, within R15 (R317, R322). -/
def State.showFreq (s : State) : State :=
  s.put Page.ref REF.DPLL_FREQ.VALUE (sat32Word (steerClamp (s.dpll.base - s.dpll.move)))

/-- The steering set to `f` apart from the loop, which goes on from there: holdover and FREE_RUN. -/
def State.steerTo (s : State) (f : Int) : State :=
  { s with dpll := { s.dpll with base := f, integ := f * loopOne } }.showFreq

/-- The temperature that the estimator follows, Q8.8. -/
def State.hoTemp (s : State) : Int :=
  if s.flag Page.ref REF.HO_CFG.TSRC then s.getI Page.ref REF.HO_TEMP.TEMP
  else s.dpll.temps.getD (s.get Page.ref REF.HO_CFG.TSENS) 0

/-- The steering in holdover and LOST `t` seconds after entry (R319), within R15. -/
def State.hoSteer (s : State) (t : Nat) : Int :=
  let dT := s.hoTemp - s.dpll.t0
  let f := s.getI Page.ref REF.HO_FREQ.VALUE
    + roundDiv (s.getI Page.ref REF.HO_AGING.VALUE * t) 86400
    + roundDiv (s.getI Page.ref REF.HO_TC.VALUE * dT) 256
  steerClamp f

/-- The scale that makes the bound of R320 an integer. -/
def teScale : Int := 512 * 256 * 86400

/-- E(t) of R320 times `teScale`, exact, with the integral of |T - T0| at `tInt`. -/
def State.teScaled (s : State) (t tInt : Nat) : Int :=
  512 * 86400 * s.getI Page.ref REF.HO_FUNC.VALUE * t
    + 256 * s.getI Page.ref REF.HO_AGING_UNC.VALUE * (t * t : Nat)
    + 2 * 86400 * s.getI Page.ref REF.HO_TC_UNC.VALUE * tInt

/-- The integral of |T - T0| with one more second in it. -/
def State.tIntNext (s : State) : Nat := s.dpll.tInt + (s.hoTemp - s.dpll.t0).natAbs

/-- Whether the bound after one more second of holdover exceeds TE_LIMIT (R320). -/
def State.hoExceeds (s : State) : Bool :=
  decide ((s.get Page.ref REF.HO_CFG.TE_LIMIT : Int) * teScale <
    s.teScaled (s.get Page.ref REF.HO_ELAPSED.VALUE + 1) s.tIntNext)

/-- Whether the holdover timer expires in the present MGMT_CLK cycle: a second has 262,144,000 of them (R320,
R408). -/
def State.hoExpires (s : State) : Bool :=
  s.dpllState == 3 &&
    s.mgmtNow == s.dpll.hoFrom + 262144000 * (s.get Page.ref REF.HO_ELAPSED.VALUE + 1) && s.hoExceeds

/-- The mean over the seconds that HO_CFG.AVG_S asks for; where fewer have been recorded the spec states none, and
it is a free value (log entry 102). -/
def State.hoMean (s : State) (which : Nat) (l : List Int) : Int :=
  if l.length = s.get Page.ref REF.HO_CFG.AVG_S then roundDiv l.sum (Nat.max 1 l.length)
  else
    let v := Config.hoShort s.time.starts which
    if which = 0 then (v.setWidth 32).toInt else (v.setWidth 16).toInt

/-- The DPLL enters HOLDOVER (R316, R319): the estimate over the AVG_S seconds that end 1 s before, the steering
at the entry, and LOST at once where the estimate is not valid. -/
def State.enterHoldover (s : State) : State :=
  let n := s.get Page.ref REF.HO_CFG.AVG_S
  let span := (s.dpll.ho.drop 1).take n
  let valid := span.length == n && span.all (·.locked)
  let temp := s.hoMean 1 (span.map (·.temp))
  let s := s.put Page.ref REF.HO_FREQ.VALUE (sat32Word (s.hoMean 0 (span.map (·.freq))))
  let s := s.putB Page.ref REF.DPLL_STAT.HO_VALID valid
  let s := s.put Page.ref REF.HO_TE.VALUE 0
  let s := s.put Page.ref REF.HO_ELAPSED.VALUE 0
  let s := { s with dpll := { s.dpll with
    t0 := temp, tInt := 0, waiting := none, locked := false, hoFrom := s.mgmtNow } }
  let s := (s.steerTo (s.hoSteer 0)).setDpll 3
  if valid then s else s.enterLost

/-! ### Selection (R312 to R315) -/

/-- The choice within a tie that does not hold the selected reference. -/
def State.pickTie (s : State) (tie : List Nat) : Option Nat :=
  let outside := (allRefs.filter s.qualified).filter (fun k => !tie.contains k)
  if outside.isEmpty then tie.head?
  else
    let m := medianOf (outside.map s.foff)
    tie.foldl (fun b k => match b with
      | none => some k
      | some j => if (s.foff k - m).natAbs < (s.foff j - m).natAbs then some k else some j) none

/-- The reference chosen among eligible ones (R312, R313). -/
def State.pickRef (s : State) (elig : List Nat) : Option Nat :=
  match elig with
  | [] => none
  | e :: es =>
    let best := es.foldl (fun b k => Nat.min b (s.rank k)) (s.rank e)
    let tie := elig.filter (fun k => s.rank k == best)
    match s.selected with
    | some k =>
      if tie.contains k then some k else s.pickTie tie
    | none => s.pickTie tie

/-- The reference that the selection rules name now. -/
def State.wanted (s : State) (elig : List Nat) : Option Nat :=
  match s.get Page.ref REF.REF_CTRL.MODE with
  | 0 =>
    match s.selected with
    | some k =>
      if elig.contains k then
        if s.flag Page.ref REF.REF_CTRL.REVERTIVE && elig.any (fun j => s.rank j < s.rank k)
        then s.pickRef elig else some k
      else s.pickRef elig
    | none => s.pickRef elig
  | 1 =>
    let k := s.get Page.ref REF.REF_CTRL.MAN_IDX
    if elig.contains k then some k else none
  | _ => none

/-- The TIME_SRC_STAT fields that follow the selection. -/
def State.timeSrcView (s : State) : State :=
  match s.selected with
  | some k =>
    if isPortRef k then
      (s.putB Page.ntime NTIME.TIME_SRC_STAT.VALID true).put Page.ntime NTIME.TIME_SRC_STAT.LANE
        (s.timeLane (k - 4))
    else s.putB Page.ntime NTIME.TIME_SRC_STAT.VALID false
  | none => s.putB Page.ntime NTIME.TIME_SRC_STAT.VALID false

/-- The part of the phase steps that the output has moved by, in ps: the phase target moves with it (R322). -/
def State.stepMoved (s : State) : Int := s.dpll.stepOff - roundDiv s.dpll.stepLeft 24576

/-- The phase target of a reference other than a port as it is selected (R318, R322): a time reference's own
phase; for the numeric frequency reference its present phase. For a word clock or 10 MHz as a frequency
reference it is the phase that its first sample shows (none). -/
def State.builtFor (s : State) (k : Nat) : Option Int :=
  if isPortRef k then some 0
  else if s.phaseAlign k then some s.stepMoved
  else if k = 12 then some (s.getI Page.ref REF.NUM_PHASE.PS + s.stepMoved)
  else none

/-- A reference newly selected, or none: SWITCH is raised, and the loop starts afresh with the phase
of a frequency reference built out (R318). -/
def State.selectRef (s : State) (n : Option Nat) : State :=
  let s := s.putB Page.ref REF.DPLL_STAT.SEL_VALID n.isSome
  let s := match n with
    | some k => s.put Page.ref REF.DPLL_STAT.SELECTED k
    | none => s
  let built := match n with
    | some k => s.builtFor k
    | none => some 0
  let s := { s with dpll := { s.dpll with
    waiting := none, inThresh := false, far := 0, hist := [], pathRun := 0, built := built, locked := false
    sampled := none } }
  (s.raise Page.ref 1).timeSrcView

/-- The eligible references, DISAGREE, the median bit and the selection brought up to date, with the
transitions of R316 that follow. -/
def State.reselect (s : State) : State :=
  let s := allRefs.foldl (fun s k => s.putB Page.ref (REF.REF_STAT.ELIGIBLE k)
    (s.qualified k && (isPortRef k != s.isMaster))) s
  let elig := allRefs.filter s.eligible
  let s := s.putB Page.ref REF.DPLL_STAT.MEDIAN_ACTIVE s.medianOn
  let lim := (s.get Page.ref REF.DISAGREE_LIM.PPB * 256 : Nat)
  let dis := elig.any (fun j => elig.any (fun k => s.rank j == s.rank k &&
    decide (lim < (s.foff j - s.foff k).natAbs)))
  let s := if dis && !s.flag Page.ref REF.DPLL_STAT.DISAGREE then s.raise Page.ref 5 else s
  let s := s.putB Page.ref REF.DPLL_STAT.DISAGREE dis
  let mode := s.get Page.ref REF.REF_CTRL.MODE
  let old := s.selected
  let new := s.wanted elig
  let s := if new = old then s else s.selectRef new
  if mode = 3 then (if s.dpllState = 0 then s else (s.steerTo s.dpll.base).setDpll 0)
  else match new with
    | some _ => if new = old then s else s.setDpll 1
    | none =>
      if (s.dpllState = 1 ∨ s.dpllState = 2) ∨ (mode = 2 ∧ s.dpllState = 0) then s.enterHoldover
      else s

/-! ### Qualification (R309 to R311) -/

/-- A reference disqualified (R310). -/
def State.disqualify (s : State) (k : Nat) : State :=
  let s := s.putB Page.ref (REF.REF_STAT.QUALIFIED k) false
  let s := s.putB Page.ref (REF.REF_STAT.TREND k) false
  s.raise Page.ref 3

/-- Whether the conditions of a soak hold (R310). -/
def State.soakOk (s : State) (k : Nat) : Bool :=
  s.refEn k && s.refActive k && (Tab.get none s.dpll.raw k).isSome &&
    decide ((s.foff k).natAbs ≤ s.get Page.ref REF.QUAL_LIM.ACCEPT * 256) &&
    !(isPortRef k && (s.flag Page.ref (REF.REF_STAT.QL_BAD k) || s.flag Page.ref (REF.REF_STAT.LOOP k)))

/-- The soak time in force, in 100 ms. -/
def State.soakTime (s : State) : Nat :=
  if s.dpllState = 4 then s.get Page.ref REF.SOAK_CFG.LOST_SOAK else s.get Page.ref REF.SOAK_CFG.SOAK

/-- A reference judged again; `fresh` says that a measurement has just been made. -/
def State.judge (s : State) (k : Nat) (fresh : Bool) : State :=
  if s.qualified k then
    let bad := !s.refEn k || !s.refActive k ||
      (isPortRef k && (s.flag Page.ref (REF.REF_STAT.QL_BAD k) ||
        s.flag Page.ref (REF.REF_STAT.LOOP k))) ||
      (fresh && decide (s.get Page.ref REF.QUAL_LIM.REJECT * 256 < (s.foff k).natAbs))
    if bad then s.disqualify k
    else
      let tr := decide (s.get Page.ref REF.QUAL_LIM.REJECT * 256 ≤ 2 * (s.foff k).natAbs)
      let s := if tr && !s.flag Page.ref (REF.REF_STAT.TREND k) then s.raise Page.ref 4 else s
      s.putB Page.ref (REF.REF_STAT.TREND k) tr
  else if s.soakOk k then
    if s.flag Page.ref (REF.REF_STAT.SOAKING k) then s
    else (s.putB Page.ref (REF.REF_STAT.SOAKING k) true).put Page.ref (REF.REF_STAT.SOAK_LEFT k) s.soakTime
  else (s.putB Page.ref (REF.REF_STAT.SOAKING k) false).put Page.ref (REF.REF_STAT.SOAK_LEFT k) 0

/-- What the last valid marker on the time lane shows of a port's source (R311): RX_QL, QL_BAD and LOOP under
the present ACCEPT_MASK and HOPS_MAX. Before any marker they stand. -/
def State.portQuality (s : State) (k : Nat) : State :=
  match (s.lane (s.timeLane (k - 4))).marks with
  | [] => s
  | m :: _ =>
    let s := s.put Page.ref (REF.REF_STAT.RX_QL k) m.ql
    let bad := m.ql == 15 || !(s.get Page.ref REF.QL_CFG.ACCEPT_MASK).testBit m.ql
    let s := s.putB Page.ref (REF.REF_STAT.QL_BAD k) bad
    let loop := m.flags.testBit 11 ||
      decide (s.get Page.ntime NTIME.NT_CTRL.HOPS_MAX ≤ m.flags % 256)
    s.putB Page.ref (REF.REF_STAT.LOOP k) loop

/-- A port's source judged again under R310 and R311. -/
def State.portJudge (s : State) (k : Nat) : State := ((s.portQuality k).judge k false).reselect

/-- A reference's activity changes (R308): a reference that is not active has no measurement. -/
def State.setActive (s : State) (k : Nat) (b : Bool) : State :=
  let b := b && s.refEn k
  if s.refActive k = b then s
  else
    let s := s.putB Page.ref (REF.REF_STAT.ACTIVE k) b
    let s := { s with dpll := { s.dpll with raw := Tab.put none s.dpll.raw k none } }
    (s.judge k false).reselect

/-- The activity of a port's reference: its time lane is UP with fewer than four missing markers. Another time
lane shows its own last marker. -/
def State.portActivity (s : State) (p : Nat) : State :=
  let l := s.timeLane p
  (s.setActive (refOfPort p) (s.laneUp l && decide ((s.lane l).miss < 4))).portJudge (refOfPort p)

/-- One frequency measurement of a reference: `raw` is the offset measured, for a port that of the
received line rate against the node's own (R264, R309). -/
def State.freqMeasure (s : State) (k : Nat) (raw : Int) : State :=
  if !(s.refEn k && s.refActive k) then s
  else
    let s := if isPortRef k then
      s.put (Page.lane (s.timeLane (k - 4))) LANE.FREQ_OFF.PPB (sat32Word raw) else s
    let raw := if isPortRef k then raw + s.getI Page.ref REF.DPLL_FREQ.VALUE else raw
    let s := { s with dpll := { s.dpll with raw := Tab.put none s.dpll.raw k (some raw) } }
    let off := if s.medianOn then raw - medianOf s.qualRaw else raw
    let s := s.put Page.ref (REF.REF_FOFF.PPB k) (sat32Word off)
    let left := s.get Page.ref (REF.REF_STAT.SOAK_LEFT k)
    let s := if s.flag Page.ref (REF.REF_STAT.SOAKING k) ∧ k ≠ 12 then
      s.put Page.ref (REF.REF_STAT.SOAK_LEFT k) (left - if k = 3 then 160 else 1) else s
    (s.judge k true).reselect

/-- FREQ_MEASUREMENT: a monitor window of reference `k` ends (R309). -/
def execFreqMeasurement (k : Nat) (raw : Word) (s : State) : Host.Outcome State Fault Refusal :=
  .next (if s.inReset ∨ 12 ≤ k then s else s.freqMeasure k raw.toInt)

/-- REF_ACTIVITY_LOSS: a reference stops being active and is disqualified at once (R308, R310); of the numeric one,
NUM_TMO has passed since the last write of NUM_FREQ. -/
def execRefActivityLoss (k : Nat) (s : State) : Host.Outcome State Fault Refusal :=
  .next (if s.inReset ∨ 13 ≤ k then s
  else
    let s := if k = 12 then { s with dpll := { s.dpll with numFresh := false } } else s
    s.setActive k false)

/-- REF_ACTIVITY_RETURN: an enabled reference becomes active again (R308). An input's edges come from outside; a
port is active where its time lane is UP with fewer than four missing markers, the numeric reference where NUM_FREQ
has been written within NUM_TMO. -/
def execRefActivityReturn (k : Nat) (s : State) : Host.Outcome State Fault Refusal :=
  .next (if s.inReset ∨ 13 ≤ k then s
  else if isPortRef k then s.portActivity (k - 4)
  else s.setActive k (k != 12 || s.dpll.numFresh))

/-- SOAK_COMPLETE: a soak ends and the reference is qualified, possibly selected (R310, R312); where the holdover
timer expires in the same cycle, the expiry wins and the soak does not end (R321, R408). -/
def execSoakComplete (k : Nat) (s : State) : Host.Outcome State Fault Refusal :=
  .next (if s.inReset ∨ 13 ≤ k ∨ s.flag Page.ref (REF.REF_STAT.SOAKING k) = false ∨ s.hoExpires then s
  else
    let s := s.putB Page.ref (REF.REF_STAT.SOAKING k) false
    let s := s.put Page.ref (REF.REF_STAT.SOAK_LEFT k) 0
    let s := s.putB Page.ref (REF.REF_STAT.QUALIFIED k) true
    ((s.raise Page.ref 2).judge k false).reselect)

/-- NUM_FREQ_WRITE: a write of NUM_FREQ is one measurement of the numeric reference (R309). -/
def State.numFreqWrite (s : State) (v : Word) : State :=
  ({ s.put Page.ref REF.NUM_FREQ.PPB v.toNat with
      dpll := { s.dpll with numFresh := true } }.setActive 12 true).freqMeasure 12 v.toInt

/-! ### Phase samples (R317, R331, R332) -/

/-- The bandwidth in force (R317): ACQ_BW, and LOCK_BW in LOCKED. -/
def State.loopBw (s : State) : Nat :=
  if s.dpllState = 2 then s.get Page.ref REF.DPLL_BW.LOCK_BW else s.get Page.ref REF.DPLL_BW.ACQ_BW

/-- The natural frequency of the loop in 2^-40 per link cycle; with a damping factor of 1 it gives both gains. What
it is for a bandwidth is open (log entry 30). -/
def State.loopRate (s : State) : Int := (Config.loopRate s.loopBw : Nat)

/-- The integral term after a sample `e` that ends `n` link cycles: a loop of natural frequency w and damping 1 adds
w² e to it per unit of time (R317). -/
def integNext (integ w e : Int) (n : Nat) : Int :=
  within (steerLimit * loopOne) (integ - w * w * e * n * 24576)

/-- The proportional term of the loop, 2 w e before its limit (R317). -/
def propTerm (w e : Int) : Int := -(roundDiv (w * e * 49152) (2 ^ 40))

/-- The integral term while the proportional one is held at 0: the DPLL follows the port's frequency, as the monitor
has measured it, and holds its phase (R332). -/
def State.integHeld (s : State) (k : Nat) : Int :=
  match Tab.get none s.dpll.raw k with
  | some f => steerClamp f * loopOne
  | none => s.dpll.integ

/-- The loop's answer to a sample `e` of reference `k` (R317, R332): the integral term, and the proportional term
within ±SLEW_MAX, which is held at 0 where `held`; SLEWING while it is at its limit. -/
def State.steer (s : State) (k : Nat) (e : Int) (held : Bool) : State :=
  let n := match s.dpll.sampled with
    | some t => s.time.starts - t
    | none => 0
  let lim : Nat := s.get Page.ntime NTIME.NT_CTRL.SLEW_MAX * 25600
  let p := propTerm s.loopRate e
  let integ := if held then s.integHeld k else integNext s.dpll.integ s.loopRate e n
  let prop := if held then 0 else within lim p
  let base := steerClamp (roundDiv integ (2 ^ 80) + prop)
  let s := s.putB Page.ntime NTIME.NT_STAT.SLEWING (!held && decide (lim ≤ p.natAbs))
  { s with dpll := { s.dpll with integ := integ, base := base, sampled := some s.time.starts } }.showFreq

/-- In FREE_RUN, the steering moves to 0 at ACQ_BW, in every cycle (R315). -/
def State.freeRunMove (s : State) : State :=
  if s.dpllState ≠ 0 then s
  else
    let i := s.dpll.integ - roundDiv (s.dpll.integ * min s.loopRate (2 ^ 40)) (2 ^ 40)
    { s with dpll := { s.dpll with integ := i, base := roundDiv i (2 ^ 80) } }

/-- The movement of a phase step in one cycle, in 1/256 ppb: RATE, as far as R15 lets the steering go, and what is
left of it (R322). -/
def State.moveRate (s : State) : Int :=
  let d := s.dpll
  let rate : Int := (s.get Page.ref REF.PSTEP_CTRL.RATE * 256000 : Nat)
  if 0 < d.stepLeft then min (min rate (d.base + steerLimit)) d.stepLeft
  else -(min (min rate (steerLimit - d.base)) (-d.stepLeft))

/-- A phase step moves on by one cycle: 1/256 ppb of frequency over a link cycle is 1/24,576 ps of phase. -/
def State.stepMove (s : State) : State :=
  let r := s.moveRate
  { s with dpll := { s.dpll with move := r, stepLeft := s.dpll.stepLeft - r } }

/-- The DPLL in the cycle that starts: FREE_RUN, the movement of a phase step, and the frequency of the cycle for the
1 s mean (R315, R319, R322). -/
def State.dpllCycle (s : State) : State :=
  let s := s.freeRunMove.stepMove.showFreq
  { s with dpll := { s.dpll with
      fSum := s.dpll.fSum + s.getI Page.ref REF.DPLL_FREQ.VALUE, fCnt := s.dpll.fCnt + 1 } }

/-- The error of a raw phase against the target of the selected reference (R317, R318, R322): for a port the
error comes with the step offset; for the others the steps since the selection move the target. -/
def State.sampleError (s : State) (k : Nat) (raw : Int) : Int × State :=
  if isPortRef k then (raw, s)
  else
    let x := raw + s.stepMoved
    match s.dpll.built with
    | some b => (x - b, s)
    | none => (0, { s with dpll := { s.dpll with built := some x } })

/-- The mean of the previous 256 samples against which R331 tests a sample. -/
def pathMean (l : List Int) : Int := roundDiv l.sum 256

/-- One phase sample of the selected reference, `raw` its phase against the node's: PHASE_ERR, the alignment
limit, the path step, the lock conditions, and the steering that follows. -/
def State.takeSample (s : State) (raw : Int) : State :=
  match s.selected with
  | none => s
  | some k =>
    let se := s.sampleError k raw
    let e := se.1
    let s := se.2.put Page.ref REF.PHASE_ERR.VALUE (sat32Word e)
    let d := s.dpll
    let port := isPortRef k
    let req := port && decide (s.get Page.ntime NTIME.ALIGN_LIM.NS * 1000 < e.natAbs)
    let s := if req && !s.flag Page.ntime NTIME.NT_STAT.ALIGN_REQ then s.raise Page.ntime 7 else s
    let s := s.putB Page.ntime NTIME.NT_STAT.ALIGN_REQ req
    let out := port && d.hist.length == 256 &&
      decide (s.get Page.ntime NTIME.STEP_THR.PATH * 1000 < (e - pathMean d.hist).natAbs)
    let run := if out then d.pathRun + 1 else 0
    let s := if run = 8 then s.raise Page.ntime 3 else s
    let thr := s.get Page.ref REF.LOCK_CFG.THRESH * 1000
    let far := if 4 * thr < e.natAbs then d.far + 1 else 0
    let s := s.steer k e req
    let s := { s with dpll := { s.dpll with
      inThresh := decide (e.natAbs ≤ thr), far := far, hist := (e :: d.hist).take 256,
      pathRun := if run = 8 then 0 else run
      locked := d.locked && s.dpllState == 2 } }
    if s.dpllState = 2 ∧ 16 ≤ far then
      { (s.setDpll 1) with dpll := { s.dpll with far := 0, inThresh := false, locked := false } }
    else s

/-- The phase of the node against a word clock with PHASE_ALIGN at 1, in ps (R308): a rising edge at `x` ps after the
nominal start of the present cycle is due on the nominal starts of even cycles at 48 kHz, on every nominal start at
96 kHz, and on those and the midpoints at 192 kHz. -/
def State.wordError (s : State) (k : Nat) (x : Int) : Int :=
  let f := s.get Page.ref (REF.REF_CFG.WFREQ k)
  let odd := f == 0 && decide (s.cycle % 2 = 1)
  let x3 := 3 * x + (if odd then 31250000 else 0)
  roundDiv (smod x3 (if f = 0 then 62500000 else if f = 1 then 31250000 else 15625000)) 3

/-- The phase that `err` brings of reference 0, 1 or 2: of an aligned word clock, from the place of its edge; of a
frequency reference, as measured, the node's against the reference's, in ps. -/
def State.rawPhase (s : State) (k : Nat) (err : Int) : Int := if s.phaseAlign k then s.wordError k err else err

/-- DPLL_PHASE_SAMPLE: a phase sample is taken. For a port and for PPS_IN it is the error that the
last nominal start or edge left (R327, R336); for a word clock or 10 MHz `err` brings it; the numeric reference is
sampled by NUM_PHASE alone. -/
def execDpllPhaseSample (err : Word) (s : State) : Host.Outcome State Fault Refusal :=
  .next (if s.inReset then s
  else match s.selected with
    | none => s
    | some k =>
      if k ≤ 2 then s.takeSample (s.rawPhase k err.toInt)
      else if k = 12 then s
      else match s.dpll.waiting with
        | none => s
        | some e => { s with dpll := { s.dpll with waiting := none } }.takeSample e)

/-- NUM_PHASE_WRITE: a write of NUM_PHASE is one phase sample of the numeric reference (R317). -/
def State.numPhaseWrite (s : State) (v : Word) : State :=
  let s := s.put Page.ref REF.NUM_PHASE.PS v.toNat
  if s.selected = some 12 then s.takeSample v.toInt else s

/-- DPLL_LOCKED: the error has stayed within THRESH for TIME (R316). -/
def execDpllLocked (s : State) : Host.Outcome State Fault Refusal :=
  .next (if s.inReset = false ∧ s.dpllState = 1 ∧ s.dpll.inThresh = true then
    { (s.setDpll 2) with dpll := { s.dpll with far := 0, locked := false } }
  else s)

/-! ### The holdover estimator and timer (R319, R320) -/

/-- HOLDOVER_ESTIMATOR_MEAN: the 1 s means enter the 256 s history (R319): of DPLL_FREQ over the cycles, of the
temperature over its readings. A second without one has the value that stands. -/
def execHoldoverEstimatorMean (s : State) : Host.Outcome State Fault Refusal :=
  .next (if s.inReset then s
  else
    let d := s.dpll
    let f := if d.fCnt = 0 then s.getI Page.ref REF.DPLL_FREQ.VALUE else roundDiv d.fSum d.fCnt
    let t := if d.tCnt = 0 then s.hoTemp else roundDiv d.tSum d.tCnt
    { s with dpll := { d with
        ho := (⟨f, t, d.locked && s.dpllState == 2⟩ :: d.ho).take 256
        fSum := 0, fCnt := 0, tSum := 0, tCnt := 0, locked := s.dpllState == 2 } })



/-- HOLDOVER_EVALUATE: one more second of holdover or LOST passes; in holdover the bound is evaluated
and LOST entered when it exceeds TE_LIMIT (R320, R321). -/
def execHoldoverEvaluate (s : State) : Host.Outcome State Fault Refusal :=
  .next (if s.inReset ∨ ¬(s.dpllState = 3 ∨ s.dpllState = 4) then s
  else
    let t := s.get Page.ref REF.HO_ELAPSED.VALUE + 1
    let s := { s with dpll := { s.dpll with tInt := s.tIntNext } }
    let s := s.put Page.ref REF.HO_ELAPSED.VALUE (Nat.min t (2 ^ 32 - 1))
    let s := s.steerTo (s.hoSteer t)
    let e := s.teScaled t s.dpll.tInt
    let ns := e / teScale
    let s := s.put Page.ref REF.HO_TE.VALUE (Nat.min ns.toNat (2 ^ 32 - 1))
    if s.dpllState = 3 ∧ (s.get Page.ref REF.HO_CFG.TE_LIMIT : Int) * teScale < e then s.enterLost
    else s)

/-! ### Phase steps (R322) -/

/-- PSTEP_CTRL written: RATE 0 is refused with RANGE; GO adds PSTEP to the phase target. -/
def State.pstepCtrl (s : State) (v : Nat) : State :=
  if bits v 8 8 = 0 then s.log Page.ref Code.range
  else
    let s := s.put Page.ref REF.PSTEP_CTRL.RATE (bits v 8 8)
    if v % 2 = 1 then
      let p := s.getI Page.ref REF.PSTEP.PS
      let s := s.putB Page.ref REF.PSTEP_CTRL.BUSY true
      { s with dpll := { s.dpll with stepLeft := s.dpll.stepLeft + 24576 * p
                                     stepOff := s.dpll.stepOff + p } }
    else s

/-- PSTEP_DONE: the movement arrives at its target (R322). -/
def execPstepDone (s : State) : Host.Outcome State Fault Refusal :=
  .next (if s.inReset ∨ s.flag Page.ref REF.PSTEP_CTRL.BUSY = false ∨ s.dpll.stepLeft ≠ 0 then s
  else (s.putB Page.ref REF.PSTEP_CTRL.BUSY false).raise Page.ref 6)

end Sys2Proof.Machine
end

