-- ==== Sys2Proof/Machine/NTime.lean ====
section
/-! DEFINITION. Network time, time transfer over the link, setting time and the pulse-per-second pins
(R305 to R307, R323 to R336). Time intervals are exact in sixths of 2^-16 ns: a line bit at ÷1 is
15,625 of them, a nanosecond 393,216, a link cycle 4,096,000,000. -/

namespace Sys2Proof.Machine

/-- A sixth of 2^-16 ns: per line bit at ÷1. -/
def bit6 : Int := 15625

/-- Sixths of 2^-16 ns per nanosecond. -/
def ns6 : Int := 393216



/-- Line bits at ÷1 in the 64 ns before a departure (R325, R328), rounded up. -/
def settle64 : Nat := 1611

/-! ### NT (R305 to R307) -/

/-- NT[31] followed: a change since it was last followed raises NT_HALF or NT_WRAP (R307). -/
def State.bit31Follow (s : State) : State :=
  let b := decide (2 ^ 31 ≤ s.nt)
  if b = s.time.bit31 then s
  else { s with time := { s.time with bit31 := b } }.raise Page.ntime (if b then 0 else 1)

/-- C and Q loaded (R333, R334): no interrupt of R307. -/
def State.loadTime (s : State) (c q : Nat) : State :=
  let t : Time := { s.time with c := BitVec.ofNat 32 c, q := q % (3 * 2 ^ 32) }
  { s with time := { t with bit31 := decide (2 ^ 31 ≤ t.nt) } }

/-- Every armed scheduled action disarmed (R335). -/
def State.cancelArmed (s : State) : State :=
  let armed := (List.range 64).filter (fun k => s.flag Page.sched (SCHED.ACT_CTRL.ARMED k))
  let s := armed.foldl (fun s k =>
    (s.putB Page.sched (SCHED.ACT_CTRL.ARMED k) false).putB Page.sched
      (SCHED.ACT_CTRL.CANCELLED k) true) s
  if armed.isEmpty then s else s.raise Page.sched 4

/-- A read of NT_NOW: NT_FRAC and CYC_LATCH are latched at the same instant (R306). -/
def State.ntNowLatch (s : State) : State :=
  (s.put Page.ntime NTIME.NT_FRAC.FRAC s.time.ntFrac).put Page.ntime NTIME.CYC_LATCH.CYCLE s.cycle

/-- NT_NOW_READ (R306). -/
def execNtNowRead (at_ : Nat) (s : State) : Host.Outcome State Fault Refusal :=
  .next (if s.inReset then s
  else
    let s := s.atPhase at_
    { s.ntNowLatch with readData := [Word.ofNat s.nt] })

/-- NT_BIT31_CHANGE: NT crosses a multiple of 2^31 ns between nominal starts (R307). -/
def execNtBit31Change (at_ : Nat) (s : State) : Host.Outcome State Fault Refusal :=
  .next (if s.inReset then s else (s.atPhase at_).bit31Follow)

/-! ### Time over the link (R323 to R327) -/

/-- The receive delay d_rx of a lane in 2^-16 ns (R329), where a delay sample is valid. -/
def State.dRx (s : State) (l : Nat) : Option Int :=
  let d := s.get Page.ntime (NTIME.LDLY.DELAY l)
  if d = 0xFFFFFFFF then none else some (d + s.getI Page.ntime (NTIME.LASYM.ASYM l))

/-- The last valid marker of a lane that arrived at least 64 ns before the line bit `td`. -/
def State.usableMark (s : State) (l td : Nat) : Option RxMarker :=
  ((s.lane l).marks.filter (fun m => decide (m.arr + settle64 ≤ td))).head?

/-- Own NODE_ID. -/
def State.nodeId (s : State) : Nat := s.get Page.ring RING.RING_CTRL.NODE_ID

/-- The MASTER_ID that a node with its own time sends (R325). -/
def State.ownMaster (s : State) : Nat :=
  if s.isMaster ∨ s.dpllState ≤ 2 then s.nodeId else s.dpll.master.getD s.nodeId

/-- The QL that a node with its own time sends (R325). -/
def State.ownQl (s : State) : Nat :=
  match s.dpllState with
  | 0 => s.get Page.ref REF.QL_CFG.FR_QL
  | 3 => s.get Page.ref REF.QL_CFG.HO_QL
  | 4 => s.get Page.ref REF.QL_CFG.LOST_QL
  | _ => s.get Page.ref (REF.REF_CFG.QL (s.get Page.ref REF.DPLL_STAT.SELECTED))

/-- Whether the node wraps the ring of trunk `p`. -/
def State.ringWraps (s : State) (p : Nat) : Bool :=
  s.flag (Page.trunk (p / 2 * 2)) TRUNK.PORT_STAT.WRAPPING ||
    s.flag (Page.trunk (p / 2 * 2 + 1)) TRUNK.PORT_STAT.WRAPPING

/-- The insertion state of ring A (false) or B. -/
def State.ringState (s : State) (ringB : Bool) : Nat :=
  if ringB then s.get Page.ring RING.BYP_STAT.B_STATE else s.get Page.ring RING.BYP_STAT.A_STATE

/-- Whether the ring of trunk `p` is INSERTED. -/
def State.inserted (s : State) (p : Nat) : Bool := s.ringState (decide (2 ≤ p)) == 3

/-- The FLAGS of a marker sent on lane `l` (R246, R304, R326). -/
def State.markerFlags (s : State) (l stepSeq hops : Nat) : Nat :=
  let p := portOf l
  (if s.laneUp l then 2 ^ 15 else 0) + (if s.carrying p then 2 ^ 14 else 0)
    + (if p < 4 ∧ s.ringWraps p then 2 ^ 13 else 0) + (if p < 4 ∧ s.inserted p then 2 ^ 12 else 0)
    + (if s.followed = some p then 2 ^ 11 else 0)
    + (if 3 ≤ s.dpllState then 2 ^ 10 else 0) + stepSeq % 4 * 2 ^ 8 + hops % 256

/-- A signed 48-bit value. -/
def int48 (z : Int) : Int := (BitVec.ofInt 48 z).toInt

/-- The marker that lane `l` sends at this nominal start (R324, R325), and the state that has used a
free value where the followed lane has no valid delay yet. -/
def State.makeMarker (s : State) (l : Nat) : TxMarker × State :=
  let sd := (s.lane l).sd
  let sdBits := sd * s.laneRate l
  let dep := s.lineBits sdBits
  let used := match s.followed with
    | some p => (s.usableMark (s.timeLane p) dep).map (fun m => (s.timeLane p, m))
    | none => none
  match used with
  | some (tl, m) =>
    let fr := s.draw
    let dx := match s.dRx tl with
      | some d => (d, s)
      | none => ((fr.1.toNat % 2 ^ 32 : Nat), fr.2)
    let corr := m.corr + dx.1 + roundDiv (((dep - m.arr : Nat) : Int) * bit6) 6
    (⟨s.cycle, m.mnt, int48 corr, m.master, m.ql,
      s.markerFlags l (bits m.flags 8 2) (Nat.min 255 (m.flags % 256 + 1)), s.nodeId, sd, dep⟩, dx.2)
  | none =>
    let q := s.time.q
    let corr := roundDiv ((q % 3 * 65536 : Nat) : Int) 3 + roundDiv ((sdBits : Int) * bit6) 6
    (⟨s.cycle, q / 3 % 2 ^ 32, int48 corr, s.ownMaster, s.ownQl,
      s.markerFlags l (s.get Page.ntime NTIME.NT_STAT.STEP_SEQ) 0, s.nodeId, sd, dep⟩, s)

/-- The time exchange of a lane for this cycle (R328). -/
def State.makeExchange (s : State) (l : Nat) (m : TxMarker) : Exchange :=
  match s.usableMark l m.dep with
  | some r => ⟨r.cyc, int48 (roundDiv (((m.dep - r.arr : Nat) : Int) * bit6) 6), m.sd, true⟩
  | none => ⟨0, 0, m.sd, false⟩

/-- The phase error of R327 in ps at this nominal start, with the step offset of R322: none where the
time lane missed its marker or has no valid delay. -/
def State.portError (s : State) : Option Int :=
  match s.followed with
  | none => none
  | some p =>
    let l := s.timeLane p
    let now := s.lineBits 0
    match s.usableMark l now, s.dRx l with
    | some m, some d =>
      if now < m.arr + 262144 + settle64 then
        let theirs := (m.mnt : Int) * ns6 + m.corr * 6 + d * 6 + ((now - m.arr : Nat) : Int) * bit6
        let e6 := smod ((s.time.q : Int) * 131072 - theirs) (2 ^ 32 * 393216)
        some (roundDiv (e6 * 1000) 393216 + s.stepMoved)
      else none
    | _, _ => none



/-- A change of the master or of its STEP_SEQ on the time lane (R332). -/
def State.masterChange (s : State) (m : RxMarker) : State :=
  match s.dpll.master with
  | some x =>
    if x ≠ m.master then s.raise Page.ntime 5
    else if s.dpll.stepSeq ≠ bits m.flags 8 2 then s.raise Page.ntime 6 else s
  | none => s

/-- The master's identity on the time lane followed (R325, R332). -/
def State.masterFollow (s : State) (m : RxMarker) : State :=
  let step := bits m.flags 8 2
  let s := { s with dpll := { s.dpll with master := some m.master, stepSeq := step } }
  let s := s.put Page.ntime NTIME.TIME_SRC_STAT.MASTER_ID m.master
  let s := s.put Page.ntime NTIME.TIME_SRC_STAT.HOPS (m.flags % 256)
  let s := s.put Page.ntime NTIME.TIME_SRC_STAT.STEP_SEQ step
  let s := s.put Page.ntime NTIME.NT_STAT.STEP_SEQ step
  s.timeSrcView

/-- The marker that an accepted ALIGN takes (R333). -/
def State.alignTake (s : State) (l : Nat) (m : RxMarker) : State :=
  if s.flag Page.ntime NTIME.NT_STAT.ALIGN_PEND && s.dpll.align.isNone then
    { s with dpll := { s.dpll with align := some (l, m) } }
  else s

/-- A valid marker on the time lane of a port: its quality, and for the selected port the master's
identity and an ALIGN (R311, R332, R333). -/
def State.markerTime (s : State) (l : Nat) (m : RxMarker) : State :=
  if s.timeLane (portOf l) ≠ l then s
  else
    let s := s.portJudge (refOfPort (portOf l))
    if s.selected = some (refOfPort (portOf l)) then
      ((s.masterChange m).masterFollow m).alignTake l m
    else s

/-! ### Link delay (R328 to R330) -/

/-- A time-exchange block on lane `l` (R329, R330). In a cycle whose marker was missing it says nothing. -/
def State.timeExchange (s : State) (l : Nat) (b : Body) : State :=
  let ln := s.lane l
  match (if ln.miss = 0 then ln.marks else []) with
  | [] => s
  | m :: _ =>
    let s := s.setLane l { ln with rxSd := some (m.cyc, bodyField b 165 11) }
    let ln := s.lane l
    let echo := bodyField b 80 32
    let turn := (BitVec.ofNat 48 (bodyField b 112 48)).toInt
    if bodyField b 183 1 = 0 then s
    else match (ln.deps.filter (fun e => e.1 == echo)).head? with
      | none => s
      | some e =>
        let rt := ((m.arr : Int) - e.2) * bit6 - turn * 6
        if rt ≤ 0 then s
        else
          let d := s.get Page.ntime (NTIME.LDLY.DELAY l)
          if d = 0xFFFFFFFF then
            (s.setLane l { ln with linkRun := 0 }).put Page.ntime (NTIME.LDLY.DELAY l)
              (roundDiv rt 12).toNat
          else
            let diff := rt - 12 * (d : Int)
            let far := decide ((s.get Page.ntime NTIME.STEP_THR.LINK * 786432 : Nat) < diff.natAbs)
            let run := if far then ln.linkRun + 1 else 0
            if run = 8 then
              ((s.setLane l { ln with linkRun := 0 }).put Page.ntime (NTIME.LDLY.DELAY l)
                (roundDiv rt 12).toNat).raise Page.ntime 4
            else
              let d' := (d : Int) + roundDiv diff (12 * 2 ^ s.get Page.ntime NTIME.DLY_TC.LOG2)
              (s.setLane l { ln with linkRun := run }).put Page.ntime (NTIME.LDLY.DELAY l) d'.toNat

/-! ### Setting time (R333, R334) -/

/-- Whether time may be set: the active RUN is 0 or MIX is not ON. -/
def State.timeSettable (s : State) : Bool := !s.domOn 5 || !s.flag Page.frame FRAME.FRAME_RUN.RUN

/-- ALIGN written (R333). -/
def State.alignReq (s : State) : State :=
  let port := match s.selected with
    | some k => isPortRef k
    | none => false
  if !s.isMaster && port && s.timeSettable then
    { s with dpll := { s.dpll with align := none } }.putB Page.ntime NTIME.NT_STAT.ALIGN_PEND true
  else s.log Page.ntime Code.refused

/-- SET written (R334). -/
def State.setReq (s : State) : State :=
  if s.isMaster && s.timeSettable then s.putB Page.ntime NTIME.NT_STAT.SET_PEND true
  else s.log Page.ntime Code.refused

/-- What an accepted ALIGN loads at this nominal start: C and Q (R333). None while the marker or the
sender's debt has not come. -/
def State.alignValues (s : State) : Option (Int × Int) :=
  match s.dpll.align with
  | none => none
  | some (l, m) =>
    match (s.lane l).rxSd, s.dRx l with
    | some (c, sd), some d =>
      if c = m.cyc then
        let sd6 := ((sd * s.laneRate l : Nat) : Int) * bit6
        let k := roundDiv (((s.lineBits 0 : Int) - m.arr) * bit6 + d * 6 + sd6) 4096000000
        let mu := (m.mnt : Int) * ns6 + m.corr * 6 - sd6
        some ((m.cyc : Int) + k, roundDiv mu 131072 + 31250 * k)
      else none
    | _, _ => none

/-! ### Pulse per second (R336) -/

/-- The PPS_OUT edge, where C has just become PPS_OUT_CYC: the pin rises for WIDTH cycles and
PPS_OUT_CYC advances by 96,000. -/
def State.ppsEdge (s : State) : State :=
  if s.flag Page.ntime NTIME.NT_CTRL.PPS_OUT_EN ∧
      s.get Page.ntime NTIME.PPS_OUT_CYC.CYCLE = s.cycle then
    let s := s.put Page.ntime NTIME.PPS_OUT_CYC.CYCLE (s.cycle + 96000)
    { s with dpll := { s.dpll with ppsHigh := s.get Page.ntime NTIME.PPS_OUT_CFG.WIDTH } }
  else s

/-- PPS_IN_EDGE: NT, its fraction and C are captured; with PPS_IN selected the edge is a phase sample
(R317, R336). -/
def execPpsInEdge (at_ : Nat) (s : State) : Host.Outcome State Fault Refusal :=
  .next (if s.inReset then s
  else
    let s := s.atPhase at_
    let s := s.put Page.ntime NTIME.PPS_CAP_NT.VALUE s.nt
    let s := s.put Page.ntime NTIME.PPS_CAP_FRAC.VALUE s.time.ntFrac
    let s := s.put Page.ntime NTIME.PPS_CAP_CYC.VALUE s.cycle
    let s := s.raise Page.ntime 10
    if s.selected = some 3 then
      let ph : Int := if 16384 < s.time.phase then (s.time.phase : Int) - 32768 else s.time.phase
      { s with dpll := { s.dpll with waiting := some (roundDiv (ph * 31250000) 98304) } }
    else s)

/-- PPS_OUT_CYC_WRITE: a write replaces the next edge (R336). -/
def execPpsOutCycWrite (value : Word) (s : State) : Host.Outcome State Fault Refusal :=
  .next (s.blockWrite Page.ntime (fun s => s.put Page.ntime NTIME.PPS_OUT_CYC.CYCLE value.toNat))

end Sys2Proof.Machine
end

