-- ==== Sys2Proof/Machine/Plane.lean ====
section
/-! DEFINITION. The Signal Plane (R74 to R77), the sample rate and frame size in effect, the mixing
function and the dither (R92, R94), the exact sine and the test generators (R93). -/

namespace Sys2Proof.Machine

/-! ### Rates and frames -/

/-- FS_ACTIVE: 0 for 48 kHz, 1 for 96 kHz, 2 for 192 kHz. -/
def State.fs (s : State) : Nat := s.get Page.clk CLK.CLK_STAT.FS_ACTIVE

/-- CORE_CLK cycles per sample period (chapter 03). -/
def State.cps (s : State) : Nat := 16384 / 2 ^ s.fs

/-- The frame size N. -/
def State.fsize (s : State) : Nat := 2 ^ s.get Page.frame FRAME.FRAME_CFG.N_LOG2

/-- log2 of a length given at 96 kHz, at the rate in effect (R186). -/
def State.scaleLog (s : State) (b : Nat) : Nat := b + s.fs - 1

/-- The sample index of the first Fs tick of cycle `c`, where it has one (R19, R20). -/
def tickIndex (fs : Nat) (c : BitVec 32) : Option (BitVec 32) :=
  if fs = 0 then (if c.getLsbD 0 then none else some (c >>> 1))
  else if fs = 2 then some (c * 2)
  else some c

/-- C × N, the length of the processing window (R78). -/
def State.budget (s : State) : Nat := s.cps * s.fsize

/-! ### Samples in the Signal Plane -/

/-- The internal address of position k of a signal in buffer b (R75). -/
def planeAddr (b sig k : Nat) : Nat := 0x22000000 + b * 0x00200000 + sig * 128 + k * 4

/-- The key of a written mark. -/
def markKey (b sig k : Nat) : Nat := (b * 16384 + sig) * 32 + k

/-- A sample as every reader sees it: 0 where the written mark is clear (R74), and at the positions N to 31,
which are unused (R75). -/
def State.planeRead (s : State) (b sig k : Nat) : Word :=
  if decide (k < s.fsize) && Tab.get false s.marks (markKey b sig k) then s.word (planeAddr b sig k) else 0

/-- A producer's write: the sample and its mark (R74). -/
def State.planeWrite (s : State) (b sig k : Nat) (v : Word) : State :=
  { s.setWord (planeAddr b sig k) v with marks := Tab.put false s.marks (markKey b sig k) true }

/-- The buffer and position of sample index `j` (R75, R76). -/
def samplePlace (n : Nat) (j : BitVec 32) : Nat × Nat := (j.toNat / n % 2, j.toNat % n)

/-- The sample of index `j` of a signal. -/
def State.planeAt (s : State) (j : BitVec 32) (sig : Nat) : Word :=
  let p := samplePlace s.fsize j
  s.planeRead p.1 sig p.2

/-! ### Mixing function and dither -/

/-- H(s, x) of R92. -/
def mixH (seed x : Word) : Word :=
  let v := x * 0x9E3779B9 + seed
  let v := (v ^^^ (v >>> 16)) * 0x85EBCA6B
  let v := (v ^^^ (v >>> 13)) * 0xC2B2AE35
  v ^^^ (v >>> 16)

/-- A sample reduced to `w` bits with dither (R94). -/
def ditherTo (seed key : Word) (w : Nat) (j : BitVec 32) (x : Word) : Int :=
  let l : Int := (2 ^ (32 - w) : Nat)
  let u1 := mixH (seed ^^^ key) (2 * j)
  let u2 := mixH (seed ^^^ key) (2 * j + 1)
  let d : Int := (u1 >>> w).toNat + (u2 >>> w).toNat - l
  let y := (satTo 32 (x.toInt + d)).1
  (satTo w (roundShift false y (32 - w))).1

/-- A sample reduced to `w` bits without dither: convergent rounding and saturation. -/
def reduceTo (w : Nat) (x : Word) : Int := (satTo w (roundShift false x.toInt (32 - w))).1

/-! ### The exact sine (R93) -/

/-- Working precision of the sine, in bits after the point. -/
def sineBits : Nat := 120

/-- π in units of 2^-sineBits, rounded down (log entry 11). -/
def piFixed : Nat := 4175892906503776358826876457663557747

/-- One term after another of the series of sin x, x in units of 2^-sineBits; `n` is the power of the
present term. -/
def sineTerms (x : Nat) : Nat → Nat → Int → Int → Int
  | 0, _, _, acc => acc
  | fuel + 1, n, term, acc =>
    let t : Int := -(term * (x : Int) * (x : Int) / (2 ^ (2 * sineBits) : Nat)) / ((n + 1) * (n + 2) : Nat)
    sineTerms x fuel (n + 2) t (acc + t)

/-- sin(2π × φ / 2^32) for φ in the first quarter, in units of 2^-31, rounded to nearest. -/
def sineQuarter (phi : Nat) : Int :=
  let x := 2 * piFixed * phi / 2 ^ 32
  let v := sineTerms x 40 1 x x
  (v + (2 ^ (sineBits - 32) : Nat)) / (2 ^ (sineBits - 31) : Nat)

/-- s(φ) of R93: the value +1.0 saturates. -/
def sineOf (phi : Word) : Int :=
  let p := phi.toNat
  let r := if p < 2 ^ 30 then sineQuarter p
    else if p < 2 ^ 31 then sineQuarter (2 ^ 31 - p)
    else if p < 3 * 2 ^ 30 then -(sineQuarter (p - 2 ^ 31))
    else -(sineQuarter (2 ^ 32 - p))
  Min.min r (2 ^ 31 - 1)

/-- The product of two Q1.31 numbers, rounded convergently and saturated (R93). -/
def q31Mul (x y : Int) : Word := Word.ofInt (satTo 32 (roundShift false (x * y) 31)).1

/-- The sample of test generator `n` at sample index `j`, or none where it is off (R93). -/
def State.testGen (s : State) (n : Nat) (j : BitVec 32) : Option Word :=
  let level := s.getI Page.frame (FRAME.TG_LEVEL.LEVEL n)
  let inc := Word.ofNat (s.get Page.frame (FRAME.TG_INC.INC n))
  let seed := Word.ofNat (s.get Page.frame (FRAME.TG_SEED.SEED n))
  match s.get Page.frame (FRAME.TG_CTRL.MODE n) with
  | 1 => some (Word.ofInt level)
  | 2 => some (q31Mul level (sineOf (j * inc + seed)))
  | 3 => some (q31Mul level (mixH seed j).toInt)
  | 4 => some (if (j - seed).toNat % (inc.toNat + 1) = 0 then Word.ofInt level else 0)
  | _ => none

/-! ### Ramps (R186 to R188) -/

/-- A gain at rest. -/
def Ramp.still (g : Int) : Ramp := ⟨g, g, 0, 0, false⟩

/-- G(min(m, L)) of R187. -/
def rampValue (g0 g1 : Int) (b : Nat) (smooth : Bool) (m : Nat) : Int :=
  let l := 2 ^ b
  let m := Nat.min m l
  let d := g1 - g0
  if smooth then g0 + roundShift false (d * (3 * m ^ 2 * l - 2 * m ^ 3 : Int)) (3 * b)
  else g0 + roundShift false (d * m) b

/-- The current gain. -/
def Ramp.value (r : Ramp) : Int := rampValue r.g0 r.g1 r.b r.smooth r.k

/-- The ramp one processed sample on; at its end it rests at the target. -/
def Ramp.next (r : Ramp) : Ramp :=
  if r.k + 1 ≥ 2 ^ r.b then Ramp.still r.g1 else { r with k := r.k + 1 }

/-- Whether no ramp is in progress. -/
def Ramp.atRest (r : Ramp) : Bool := r.b == 0

/-- A new ramp from the current gain to a target (R189). -/
def Ramp.retarget (r : Ramp) (target : Int) (b : Nat) (smooth : Bool) : Ramp :=
  ⟨r.value, target, 0, b, smooth⟩

/-- The crossfade weight w(k) of R210. -/
def fadeWeight (b k : Nat) : Int := rampValue 0 (2 ^ 28) b true k

/-- log2 of the length of a crossfade class at 96 kHz (R210). -/
def xfLog (xf : Nat) : Nat := 8 + 2 * xf

end Sys2Proof.Machine
end

