-- ==== Sys2Proof/Machine/Oryx.lean ====
section
/-! DEFINITION. The Oryx summing engine, the Springbok fast slice and the meters (spec chapter 07):
crosspoint entries, ramps, the fade list, the commit comparison, one pass, one fast evaluation and
one meter update. -/

namespace Sys2Proof.Machine

/-! ### Crosspoint entries (R176, R177) -/

/-- A crosspoint entry. -/
structure Xpt where
  src  : Nat
  dst  : Nat
  en   : Bool
  fast : Bool
  pol  : Bool
  gain : Int
  cls  : Nat
  deriving DecidableEq, Repr

/-- The fields of a 64-bit entry. -/
def Xpt.ofNat (v : Nat) : Xpt :=
  { src := bits v 50 14, dst := bits v 36 14, en := bits v 35 1 = 1, fast := bits v 34 1 = 1,
    pol := bits v 33 1 = 1, gain := sgn 32 (bits v 2 30 * 4), cls := bits v 32 1 * 4 + bits v 0 2 }

/-- Base of a copy of the crosspoint table (R33). -/
def oryxBase (set : Nat) : Nat := 0x10100000 + set * 0x00100000

/-- Entry i of the active table. -/
def State.xpt (s : State) (i : Nat) : Xpt :=
  Xpt.ofNat (s.readLE (oryxBase (s.activeSet Page.oryx) + 8 * i) 8)

/-- The active table: entries 0 to ORYX_LEN – 1 (R178). -/
def State.xpts (s : State) : List Xpt :=
  (List.range (s.get Page.oryx ORYX.ORYX_LEN.LEN)).map s.xpt

/-- The target gain of an entry (R177). -/
def Xpt.target (e : Xpt) : Int := if !e.en then 0 else if e.pol then -e.gain else e.gain

/-- The key of a crosspoint: path, destination, source (R179, R190). -/
def gkey (fast : Bool) (dst src : Nat) : Nat :=
  (if fast then 2 ^ 28 else 0) + dst * 16384 + src

/-- The key of an entry. -/
def Xpt.key (e : Xpt) : Nat := gkey e.fast e.dst e.src

/-- Path, destination and source of a key. -/
def keyFast (k : Nat) : Bool := decide (2 ^ 28 ≤ k)
def keyDst (k : Nat) : Nat := k / 16384 % 16384
def keySrc (k : Nat) : Nat := k % 16384

/-- log2 of the ramp length of a class at the rate in effect, and its law (R186). -/
def State.rampClass (s : State) (cls : Nat) : Nat × Bool :=
  match cls with
  | 0 => (s.scaleLog 6, false)
  | 1 => (s.scaleLog 9, false)
  | 2 => (s.scaleLog 10, false)
  | 3 => (s.scaleLog 12, false)
  | 4 => (s.scaleLog 10, true)
  | 5 => (s.scaleLog 13, true)
  | 6 => (s.scaleLog (s.get Page.oryx ORYX.RAMP6_CFG.LEN_LOG2), s.flag Page.oryx ORYX.RAMP6_CFG.LAW)
  | _ => (s.scaleLog (s.get Page.oryx ORYX.RAMP7_CFG.LEN_LOG2), s.flag Page.oryx ORYX.RAMP7_CFG.LAW)

/-- The current gain ramp of a key. -/
def State.ramp (s : State) (k : Nat) : Ramp := Tab.get (Ramp.still 0) s.oryx.gains k

/-- A gain ramp replaced. -/
def State.setRamp (s : State) (k : Nat) (r : Ramp) : State :=
  { s with oryx := { s.oryx with gains := Tab.put (Ramp.still 0) s.oryx.gains k r } }

/-! ### The fade list (R191 to R193) -/

/-- The fading entries, in increasing key. -/
def State.fadeKeys (s : State) : List Nat := s.oryx.fades.map (·.1)

/-- The fading entries that still run. -/
def State.fadesRunning (s : State) : Nat :=
  (s.oryx.fades.filter (fun e => e.2 == some .running)).length

/-- A fading entry entered, changed or removed. -/
def State.setFade (s : State) (k : Nat) (f : Option Fade) : State :=
  { s with oryx := { s.oryx with fades := Tab.put none s.oryx.fades k f } }

/-- FADE_IDLE where the count of running entries has fallen to 0, and the high mark. -/
def State.fadeNote (s : State) (before : Nat) : State :=
  let s := s.maxUp Page.oryx ORYX.FADE_HIGH.HIGH s.fadesRunning
  if before ≠ 0 ∧ s.fadesRunning = 0 then s.raise Page.oryx 2 else s

/-- The entries of passes' ranges: the index range of pass i where it is an Oryx pass. -/
def State.passRange (s : State) (i : Nat) : Nat × Nat :=
  (s.get Page.frame (FRAME.PASS_CTRL.FIRST i), s.get Page.frame (FRAME.PASS_LAST.LAST i))

/-- TYPE of pass i. -/
def State.passType (s : State) (i : Nat) : Nat := s.get Page.frame (FRAME.PASS_CTRL.TYPE i)

/-- The active pass list: the indices before the first entry of TYPE 0 (chapter 03). -/
def State.passList (s : State) : List Nat := (List.range 64).takeWhile (fun i => s.passType i != 0)

/-- The Oryx passes of the list. -/
def State.oryxPasses (s : State) : List Nat := s.passList.filter (fun i => s.passType i == 1)

/-- The non-fast entries in the range of Oryx pass i, in table order. -/
def State.passXpts (s : State) (i : Nat) : List Xpt :=
  let r := s.passRange i
  let len := s.get Page.oryx ORYX.ORYX_LEN.LEN
  ((List.range (Nat.min (r.2 + 1) len - r.1)).map (fun k => s.xpt (r.1 + k))).filter
    (fun e => !e.fast)

/-- Destinations in order of first appearance, each once. -/
def dedup (l : List Nat) : List Nat :=
  l.foldl (fun acc x => if acc.contains x then acc else acc ++ [x]) []

/-- The Oryx pass to which a non-fast destination's fading entries are assigned: the pass whose range
holds the destination, else the last Oryx pass (R193). -/
def State.fadePass (s : State) (dst : Nat) : Option Nat :=
  match s.oryxPasses.find? (fun i => (s.passXpts i).any (fun e => e.dst == dst)) with
  | some i => some i
  | none => s.oryxPasses.getLast?

/-- Whether a destination of fading entries is retiring on its path (R193). -/
def State.retiring (s : State) (fast : Bool) (dst : Nat) : Bool :=
  if fast then !(s.xpts.any (fun e => e.fast && e.dst == dst))
  else !(s.oryxPasses.any (fun i => (s.passXpts i).any (fun e => e.dst == dst)))

/-- The retiring destinations of one path, each once. -/
def State.retiringDsts (s : State) (fast : Bool) : List Nat :=
  dedup (((s.fadeKeys.filter (fun k => keyFast k == fast)).map keyDst).filter (s.retiring fast))

/-- The destinations that Oryx pass i forms: those of its range, and for the last Oryx pass the
retiring ones (R193). -/
def State.oryxDsts (s : State) (i : Nat) : List Nat :=
  dedup ((s.passXpts i).map (·.dst)
    ++ (if s.oryxPasses.getLast? = some i then s.retiringDsts false else []))

/-- The fading entries of a destination on a path, in increasing source (R180). -/
def State.fadesOf (s : State) (fast : Bool) (dst : Nat) : List Nat :=
  s.fadeKeys.filter (fun k => keyFast k == fast && keyDst k == dst)

/-- The fading entries assigned to Oryx pass i (R193). -/
def State.fadesOfPass (s : State) (i : Nat) : List Nat :=
  s.fadeKeys.filter (fun k => !keyFast k && s.fadePass (keyDst k) == some i)

/-! ### Summing and extraction (R180 to R182) -/

/-- The events of one extraction by Oryx: XOV, and a clip in either case of R117. -/
def State.oryxEvents (s : State) (dst : Nat) (evs : List Ev) : State :=
  let s := if evs.contains .xov then (s.bump Page.oryx ORYX.XOV_COUNT.COUNT).raise Page.oryx 1 else s
  if evs.isEmpty then s
  else
    let s := (s.bump Page.oryx ORYX.CLIP_TOTAL.COUNT).raise Page.oryx 0
    { s with oryx := { s.oryx with
        clips := Tab.put 0 s.oryx.clips dst (Nat.min (Tab.get 0 s.oryx.clips dst + 1) 0xFFFF) } }

/-- One destination sample: each term's ramp advances and its product is accumulated, then the sum is
extracted (R180, R181). -/
def State.sumDst (s : State) (keys : List Nat) (dst : Nat) (read : Nat → Word) : Word × State :=
  let r := keys.foldl (fun (p : AccVal × State) k =>
    let ramp := (p.2.ramp k).next
    let g := ramp.value
    ((accAdd p.1 ((read (keySrc k)).toInt * g * 8)).1, p.2.setRamp k ramp)) (accInit 0, s)
  let e := extractAcc 32 false r.1 31
  (Word.ofInt e.1, r.2.oryxEvents dst e.2)

/-- Fading entries whose ramp has reached its end are marked as ended (R191). -/
def State.endFades (s : State) (keys : List Nat) : State :=
  keys.foldl (fun s k =>
    if (s.ramp k).atRest && Tab.get none s.oryx.fades k == some .running
    then s.setFade k (some .ended) else s) s

/-- The ended fading entries of the given keys leave the list: they are not evaluated in any later
frame (R191). -/
def State.dropEnded (s : State) (keys : List Nat) : State :=
  keys.foldl (fun s k =>
    if Tab.get none s.oryx.fades k == some .ended
    then (s.setFade k none).setRamp k (Ramp.still 0) else s) s

/-- The number of retiring destinations reported (R193). -/
def State.noteRetire (s : State) : State :=
  s.put Page.oryx ORYX.RETIRE_STAT.COUNT
    ((s.retiringDsts false).length + (s.retiringDsts true).length)

/-- An Oryx pass over one frame (R180, R181, R188, R191): `read k` gives the sample of each signal at
position k of the frame chosen by R84; results go to buffer `b`. -/
def State.oryxPass (s : State) (i b : Nat) (read : Nat → Nat → Word) : State :=
  let before := s.fadesRunning
  let dsts := s.oryxDsts i
  let table := s.passXpts i
  let plan := dsts.map (fun d =>
    (d, ((table.filter (fun e => e.dst == d)).map Xpt.key)
        ++ (if s.fadePass d == some i then s.fadesOf false d else [])))
  let s := (List.range s.fsize).foldl (fun s k =>
    plan.foldl (fun s pd =>
      let r := s.sumDst pd.2 pd.1 (fun sig => read sig k)
      r.2.planeWrite b pd.1 k r.1) s) s
  let mine := s.fadesOfPass i
  ((((s.endFades mine).fadeNote before).dropEnded mine)).noteRetire

/-- The destinations of the fast slice (R90, R193). -/
def State.fastDsts (s : State) : List Nat :=
  dedup ((s.xpts.filter (·.fast)).map (·.dst) ++ s.retiringDsts true)

/-- The fast slice for one sample: `read` gives the sample of each source; the results by
destination (R90). -/
def State.fastEval (s : State) (read : Nat → Word) : List (Nat × Word) × State :=
  let before := s.fadesRunning
  let table := s.xpts.filter (·.fast)
  let r := s.fastDsts.foldl (fun (p : List (Nat × Word) × State) d =>
    let keys := ((table.filter (fun e => e.dst == d)).map Xpt.key) ++ p.2.fadesOf true d
    let e := p.2.sumDst keys d read
    (p.1 ++ [(d, e.1)], e.2)) ([], s)
  let fast := r.2.fadeKeys.filter keyFast
  (r.1, (r.2.endFades fast).fadeNote before)

/-- The fast fading entries that ended in the frame now over leave the list (R191). -/
def State.fastFrameEnd (s : State) : State :=
  (s.dropEnded (s.fadeKeys.filter keyFast)).noteRetire

/-! ### Cost (R183, R185) -/

/-- Fast table entries plus fast fading entries (R183). -/
def State.fastCount (s : State) : Nat :=
  (s.xpts.filter (·.fast)).length + (s.fadeKeys.filter keyFast).length

/-- ceil(a / b). -/
def ceilDiv (a b : Nat) : Nat := (a + b - 1) / b

/-- The cost of Oryx pass i with fast window `wf` (R185). -/
def State.oryxCost (s : State) (wf i : Nat) : Nat :=
  let e := (s.passXpts i).length
  let a := (s.fadesOfPass i).length
  let w := ceilDiv ((e + a) * s.fsize) 16
  if wf = 0 then w else w + wf * (ceilDiv w (s.cps - wf) + 1)

/-! ### Commit comparison (R190) -/

/-- The gains and the fade list after a commit from the table `old` to the active table (R189,
R190), for the entries that `which` selects. `s` already has the new table active. -/
def State.oryxCompare (s : State) (old : List Xpt) (which : Xpt → Bool) : State :=
  let new := s.xpts.filter which
  let old := old.filter which
  -- keys of the new table
  let s := new.foldl (fun s e =>
    let k := e.key
    let c := s.rampClass e.cls
    match old.find? (fun o => o.key == k) with
    | some o => if o.target = e.target then s else s.setRamp k ((s.ramp k).retarget e.target c.1 c.2)
    | none =>
      if (Tab.get none s.oryx.fades k).isSome then
        let s := s.setFade k none
        if e.target = 0 then s else s.setRamp k ((s.ramp k).retarget e.target c.1 c.2)
      else s.setRamp k ((Ramp.still 0).retarget e.target c.1 c.2)) s
  -- keys only in the old table
  old.foldl (fun s o =>
    let k := o.key
    if new.any (fun e => e.key == k) then s
    else
      let c := s.rampClass o.cls
      let s := if o.target = 0 then s else s.setRamp k ((s.ramp k).retarget 0 c.1 c.2)
      s.setFade k (some (if (s.ramp k).atRest then .ended else .running))) s

/-- The fading entries that a pass list without an Oryx pass discards: every non-fast one (R194). -/
def State.fadesLost (s : State) : List Nat :=
  if s.oryxPasses.isEmpty then s.fadeKeys.filter (fun k => !keyFast k) else []

/-- The discarded entries out of the list. -/
def State.fadesGone (s : State) : State :=
  s.fadesLost.foldl (fun s k => (s.setFade k none).setRamp k (Ramp.still 0)) s

/-- A discard counted (R194). -/
def State.fadeDropNote (s : State) (n : Nat) : State :=
  if n = 0 then s else (s.bump Page.oryx ORYX.FADE_DROP_COUNT.COUNT n).raise Page.oryx 3

/-- The discard of every non-fast fading entry when the pass list has no Oryx pass (R194). -/
def State.fadeDiscard (s : State) : State := s.fadesGone.fadeDropNote s.fadesLost.length

/-- Every current gain at its target and the fade list empty, as RUN becomes 1 (R80, R194). -/
def State.oryxStart (s : State) : State :=
  let gains := s.xpts.foldl (fun t e => Tab.put (Ramp.still 0) t e.key (Ramp.still e.target)) []
  { s with oryx := { s.oryx with gains := gains, fades := [] } }

/-! ### Meters (R195 to R198) -/

/-- SIGNAL and PROF of a meter channel. -/
def State.meterCfg (s : State) (c : Nat) : Nat × Nat :=
  if c % 2 = 0 then (s.get Page.meter (METER.METER_CH.SIGNAL_LO (c / 2)),
    s.get Page.meter (METER.METER_CH.PROF_LO (c / 2)))
  else (s.get Page.meter (METER.METER_CH.SIGNAL_HI (c / 2)),
    s.get Page.meter (METER.METER_CH.PROF_HI (c / 2)))

/-- A meter channel. -/
def State.meter (s : State) (c : Nat) : Meter := Tab.get ⟨0, 0, 0, 0⟩ s.meters c

/-- A meter channel replaced. -/
def State.setMeter (s : State) (c : Nat) (m : Meter) : State :=
  { s with meters := Tab.put ⟨0, 0, 0, 0⟩ s.meters c m }

/-- One sample of a meter channel (R196); the Bool is the clip. -/
def meterStep (m : Meter) (x : Word) (hold rel tc : Nat) : Meter × Bool :=
  let a := x.toInt.natAbs
  let e : Int := x.toInt * x.toInt
  let p : Nat × Nat := if a ≥ m.peak then (a, hold)
    else if m.hold > 0 then (m.peak, m.hold - 1)
    else (m.peak * rel / 2 ^ 32, m.hold)
  let clip := x == 0x7FFFFFFF || x == 0x80000000
  (⟨p.1, p.2, m.ms + roundShift false (e - m.ms) tc, if clip then m.clips + 1 else m.clips⟩, clip)

/-- The readout entry of a channel, 16 bytes (R197). -/
def State.meterReadout (s : State) (c : Nat) (last : BitVec 32) : State :=
  let m := s.meter c
  let a := 0x10440000 + 16 * c
  s.setBytes (leBytes a m.peak 4 ++ leBytes (a + 4) (m.ms / 2 ^ 31).toNat 4
    ++ leBytes (a + 8) m.clips.toNat 4 ++ leBytes (a + 12) last.toNat 4)

/-- Every active meter channel reads its sample of index `j` (R195) and, on the last sample of a
frame, writes its readout (R197). -/
def State.meterTick (s : State) (j : BitVec 32) : State :=
  if !s.enabled Page.meter then s
  else
    (List.range 1024).foldl (fun s c =>
      let g := s.meterCfg c
      if g.2 = 0 then s
      else
        let r := meterStep (s.meter c) (s.planeAt j g.1)
          (s.get Page.meter (METER.PROF_CFG.HOLD g.2)) (s.get Page.meter (METER.PROF_REL.REL g.2))
          (s.get Page.meter (METER.PROF_CFG.TC_LOG2 g.2))
        let s := s.setMeter c r.1
        let s := if r.2 then s.raise Page.meter 0 else s
        if j.toNat % s.fsize = s.fsize - 1 then s.meterReadout c j else s) s

/-- A commit that changes a channel's SIGNAL or PROF restarts it (R198). -/
def State.meterRestart (s : State) (old : Nat → Nat × Nat) : State :=
  (List.range 1024).foldl (fun s c =>
    if s.meterCfg c = old c then s
    else s.setMeter c { s.meter c with peak := 0, hold := 0, ms := 0 }) s

end Sys2Proof.Machine
end

