-- ==== Sys2Proof/Machine/Eq.lean ====
section
/-! DEFINITION. The EQ engine (spec chapter 08, R199 to R212): section entries, chains, one section,
transitions, one pass and the commit comparison. -/

namespace Sys2Proof.Machine

/-- A section entry (R199). -/
structure EqEntry where
  c    : Coef
  src  : Nat
  dst  : Nat
  head : Bool
  tail : Bool
  keep : Bool
  xf   : Nat
  deriving DecidableEq, Repr

/-- The fields of a 256-bit entry. -/
def EqEntry.ofNat (v : Nat) : EqEntry :=
  { c := ⟨sgn 32 (bits v 0 32), sgn 32 (bits v 32 32), sgn 32 (bits v 64 32), sgn 32 (bits v 96 32),
      sgn 32 (bits v 128 32)⟩,
    src := bits v 160 14, dst := bits v 176 14, head := bits v 192 1 = 1, tail := bits v 193 1 = 1,
    keep := bits v 194 1 = 1, xf := bits v 195 2 }

/-- Base of a copy of the section table (R33). -/
def eqBase (set : Nat) : Nat := 0x10300000 + set * 0x00080000

/-- The 256 bits of section i of the active table. -/
def State.eqRaw (s : State) (i : Nat) : Nat :=
  s.readLE (eqBase (s.activeSet Page.eq) + 32 * i) 32

/-- Section i of the active table. -/
def State.eqEntry (s : State) (i : Nat) : EqEntry := EqEntry.ofNat (s.eqRaw i)

/-- The active table: sections 0 to EQ_LEN – 1 (R200). -/
def State.eqTable (s : State) : List EqEntry :=
  (List.range (s.get Page.eq EQ.EQ_LEN.LEN)).map s.eqEntry

/-- A chain: first section, length, source, destination (R201). -/
structure Chain where
  start : Nat
  len   : Nat
  src   : Nat
  dst   : Nat
  deriving DecidableEq, Repr

/-- The chains of a table from section `i` on: each runs to the first tail (R201). -/
def chainsFrom : List EqEntry → Nat → Nat → Nat → List Chain
  | [], _, _, _ => []
  | e :: t, i, start, src =>
    let src := if i = start then e.src else src
    if e.tail then ⟨start, i + 1 - start, src, e.dst⟩ :: chainsFrom t (i + 1) (i + 1) 0
    else chainsFrom t (i + 1) start src

/-- The chains of a table, in table order (R202). -/
def chainsOf (t : List EqEntry) : List Chain := chainsFrom t 0 0 0

/-- The chains of the active table. -/
def State.chains (s : State) : List Chain := chainsOf s.eqTable

/-- The EQ passes of the list. -/
def State.eqPasses (s : State) : List Nat := s.passList.filter (fun i => s.passType i == 2)

/-- Whether an EQ pass covers chain c (R202). -/
def State.eqCovered (s : State) (c : Nat) : Bool :=
  s.eqPasses.any (fun i => decide ((s.passRange i).1 ≤ c ∧ c ≤ (s.passRange i).2))

/-- The EQ pass that covers chain c. -/
def State.eqPassOf (s : State) (c : Nat) : Option Nat :=
  s.eqPasses.find? (fun i => decide ((s.passRange i).1 ≤ c ∧ c ≤ (s.passRange i).2))

/-- The chains of EQ pass i with their indices. -/
def State.passChains (s : State) (i : Nat) : List (Nat × Chain) :=
  let r := s.passRange i
  (s.chains.zipIdx.map (fun p => (p.2, p.1))).filter (fun p => decide (r.1 ≤ p.1 ∧ p.1 ≤ r.2))

/-- The key of position k of chain c in the engine's state. -/
def eqKey (c k : Nat) : Nat := c * 16384 + k

/-- A section at rest with zero history. -/
def EqSec.zero : EqSec := ⟨⟨0, 0, 0, 0⟩, none, false⟩

/-- The state of a section position. -/
def State.eqSec (s : State) (c k : Nat) : EqSec := Tab.get EqSec.zero s.eqSecs (eqKey c k)

/-- The state of a section position replaced. -/
def State.setEqSec (s : State) (c k : Nat) (e : EqSec) : State :=
  { s with eqSecs := Tab.put EqSec.zero s.eqSecs (eqKey c k) e }

/-- The identity section (R208). -/
def Coef.identity : Coef := ⟨0x20000000, 0, 0, 0, 0⟩

/-- One section on input `u` (R203, R204): the 64-bit output, the new history and the events. -/
def section1 (c : Coef) (h : Hist) (u : Int) (keep : Bool) : Int × Hist × List Ev :=
  let t (w k : Int) : Int := roundShift false (w * k) 29
  let a := accInit 0
  let a := (accAdd a (t u c.b0)).1
  let a := (accAdd a (t h.u1 c.b1)).1
  let a := (accAdd a (t h.u2 c.b2)).1
  let a := (accAdd a (-(t h.v1 c.a1))).1
  let a := (accAdd a (-(t h.v2 c.a2))).1
  let e := if keep then extractAcc 64 false a 0 else extractAcc 32 false a 31
  let v := if keep then e.1 else e.1 * 2 ^ 31
  (v, ⟨u, h.u1, v, h.v1⟩, e.2)

/-- The events of extractions by the EQ engine (R205). -/
def State.eqEvents (s : State) (evs : List Ev) : State :=
  evs.foldl (fun s e => match e with
    | .xov => (s.bump Page.eq EQ.XOV_COUNT.COUNT).raise Page.eq 0
    | _ => (s.bump Page.eq EQ.SAT_COUNT.COUNT).raise Page.eq 1) s

/-- One position of a chain on input `u`, with its transition (R209): the output, the new state and
the events. -/
def eqPosition (e : EqSec) (c : Coef) (keep : Bool) (u : Int) : Int × EqSec × List Ev :=
  let n := section1 c e.h u keep
  match e.tr with
  | none => (n.1, { e with h := n.2.1 }, n.2.2)
  | some t =>
    let o := section1 t.old t.h u keep
    let k := t.k + 1
    let w := fadeWeight t.b k
    let v := if keep then roundShift false (o.1 * (2 ^ 28 - w) + n.1 * w) 28
      else roundShift false (o.1 / 2 ^ 31 * (2 ^ 28 - w) + n.1 / 2 ^ 31 * w) 28 * 2 ^ 31
    let tr := if k ≥ 2 ^ t.b then none else some { t with h := o.2.1, k := k }
    (v, { e with h := n.2.1, tr := tr }, o.2.2 ++ n.2.2)

/-- The transitions not yet ended. -/
def State.eqTransitions (s : State) : Nat := (s.eqSecs.filter (fun e => e.2.tr.isSome)).length

/-- TRANS_IDLE where the count of transitions has fallen to 0, and the high mark. -/
def State.eqNote (s : State) (before : Nat) : State :=
  let s := s.maxUp Page.eq EQ.TRANS_HIGH.HIGH s.eqTransitions
  if before ≠ 0 ∧ s.eqTransitions = 0 then s.raise Page.eq 2 else s

/-- The positions beyond the length of chain c that are still in it (R209). -/
def State.eqExtras (s : State) (c len : Nat) : List Nat :=
  ((s.eqSecs.filter (fun e => e.2.extra && e.1 / 16384 == c)).map (fun e => e.1 % 16384)).filter
    (fun k => decide (len ≤ k))

/-- The positions beyond a chain's length leave it together, when the last of their transitions has
ended (R209). -/
def State.eqLeave (s : State) (c len : Nat) : State :=
  let ks := s.eqExtras c len
  if ks.any (fun k => (s.eqSec c k).tr.isSome) then s
  else ks.foldl (fun s k => s.setEqSec c k EqSec.zero) s

/-- One sample through chain c (R203, R209): the Q1.31 output. -/
def State.chainSample (s : State) (c : Nat) (ch : Chain) (x : Word) : Word × State :=
  let table := (List.range ch.len).map (fun k =>
    let e := s.eqEntry (ch.start + k)
    (k, e.c, e.keep))
  let extras := (s.eqExtras c ch.len).map (fun k => (k, Coef.identity, false))
  let all := table ++ extras
  let lastK := (all.getLast?.map (·.1)).getD 0
  let r := all.foldl (fun (p : Int × State) q =>
    let o := eqPosition (p.2.eqSec c q.1) q.2.1 (q.2.2 && q.1 != lastK) p.1
    (o.1, (p.2.setEqSec c q.1 o.2.1).eqEvents o.2.2)) (x.toInt * 2 ^ 31, s)
  (Word.ofInt (r.1 / 2 ^ 31), r.2.eqLeave c ch.len)

/-- An EQ pass over one frame (R203): results go to buffer `b`. -/
def State.eqPass (s : State) (i b : Nat) (read : Nat → Nat → Word) : State :=
  let before := s.eqTransitions
  let chains := s.passChains i
  let s := chains.foldl (fun s pc =>
    (List.range s.fsize).foldl (fun s k =>
      let r := s.chainSample pc.1 pc.2 (read pc.2.src k)
      r.2.planeWrite b pc.2.dst k r.1) s) s
  s.eqNote before

/-- The cost of EQ pass i (R206). -/
def State.eqCost (s : State) (i : Nat) : Nat :=
  let sp := ((s.passChains i).map (fun p => p.2.len)).sum
  Nat.max (ceilDiv (sp * s.fsize) 2) (4 * s.get Page.eq (EQ.XALLOW.ALLOW i) * s.fsize)

/-- The transition reserve at the rate in effect (R207). -/
def State.eqReserve (s : State) : Nat := if s.fs = 2 then 1024 else 2048

/-! ### The commit comparison (R208 to R212) -/

/-- The old chain paired with each new chain (chapter 08): by destination, first the pair that both
pass lists cover, then the rest in table order. `co` and `cn` say which chains the old and the new
pass list cover. -/
def pairChains (old new : List Chain) (co cn : Nat → Bool) : List (Option Nat) :=
  let io := old.zipIdx
  let inn := new.zipIdx
  let first (d : Nat) : Option (Nat × Nat) :=
    match io.find? (fun p => p.1.dst == d && co p.2), inn.find? (fun p => p.1.dst == d && cn p.2) with
    | some a, some b => some (a.2, b.2)
    | _, _ => none
  inn.map (fun p =>
    let d := p.1.dst
    let f := first d
    if f.map (·.2) = some p.2 then f.map (·.1)
    else
      let rest (l : List (Chain × Nat)) (skip : Option Nat) : List Nat :=
        (l.filter (fun q => q.1.dst == d && some q.2 != skip)).map (·.2)
      let ns := rest inn (f.map (·.2))
      let os := rest io (f.map (·.1))
      os[ns.idxOf p.2]?)

/-- The old and new configuration of the engine at a commit. -/
structure EqChange where
  oldT : List EqEntry
  newT : List EqEntry
  oldC : List Chain
  newC : List Chain
  pair : List (Option Nat)
  deriving DecidableEq, Repr

/-- The comparison of the old active table with the new one. A commit without the EQ page (`withEq` false)
compares nothing (chapter 08): every chain stays itself. -/
def eqChange (withEq : Bool) (sOld sNew : State) : EqChange :=
  let oT := sOld.eqTable
  let nT := sNew.eqTable
  let oC := chainsOf oT
  let nC := chainsOf nT
  ⟨oT, nT, oC, nC, if withEq then pairChains oC nC sOld.eqCovered sNew.eqCovered
    else (List.range nC.length).map some⟩

/-- What happens at one position of a chain in both tables that a pass covers (R208). -/
inductive PosChange where
  | carry | change | add | remove | stay
  deriving DecidableEq, Repr

/-- The handling of position k of a paired, covered chain (R208); `stay` is a position beyond both
lengths that is still leaving the chain. -/
def EqChange.at_ (g : EqChange) (o n : Chain) (k : Nat) : PosChange :=
  if k < o.len then
    if k < n.len then
      if ((g.oldT[o.start + k]?).map (·.c)) = ((g.newT[n.start + k]?).map (·.c)) then .carry
      else .change
    else .remove
  else if k < n.len then .add else .stay

/-- The history a section added at position k starts with (R209). -/
def addedHist (prev : Option Hist) (zeroIn : Hist) : Hist :=
  match prev with
  | some h => ⟨h.v1, h.v2, h.v1, h.v2⟩
  | none => ⟨zeroIn.u1, zeroIn.u2, zeroIn.u1, zeroIn.u2⟩

/-- The state of one chain after a commit: position by position (R208). -/
def EqChange.chainAfter (g : EqChange) (s : State) (co : Nat) (o : Chain) (n : Chain)
    (covered : Bool) : List (Nat × EqSec) :=
  let extras := s.eqExtras co o.len
  let top := Nat.max (Nat.max o.len n.len) ((extras.map (· + 1)).foldl Nat.max 0)
  let b (xf : Option Nat) : Nat := s.scaleLog (xfLog (xf.getD 0))
  if !covered then
    (List.range n.len).map (fun k =>
      (k, if k < o.len then ⟨(s.eqSec co k).h, none, false⟩ else EqSec.zero))
  else
    (List.range top).foldl (fun acc k =>
      let cur := s.eqSec co k
      let oldC := ((g.oldT[o.start + k]?).map (·.c)).getD Coef.identity
      let newXf := (g.newT[n.start + k]?).map (·.xf)
      let oldXf := (g.oldT[o.start + k]?).map (·.xf)
      match g.at_ o n k with
      | .carry => acc ++ [(k, cur)]
      | .change => acc ++ [(k, ⟨cur.h, some ⟨oldC, cur.h, 0, b newXf⟩, false⟩)]
      | .add =>
        let h := addedHist ((acc.getLast?).map (fun e => e.2.h)) cur.h
        acc ++ [(k, ⟨h, some ⟨Coef.identity, h, 0, b newXf⟩, false⟩)]
      | .remove => acc ++ [(k, ⟨cur.h, some ⟨oldC, cur.h, 0, b oldXf⟩, true⟩)]
      | .stay => if cur.extra then acc ++ [(k, cur)] else acc) []

/-- The engine after a commit that includes the EQ page (R208); `s` has the new configuration
active, and `sOld` the old one. -/
def State.eqCompare (s sOld : State) : State :=
  let before := s.eqTransitions
  let g := eqChange true sOld s
  let secs := (g.newC.zipIdx).foldl (fun t p =>
    match (g.pair[p.2]?).join with
    | some co =>
      match g.oldC[co]? with
      | some o =>
        Tab.puts EqSec.zero t ((g.chainAfter s co o p.1 (s.eqCovered p.2)).map
          (fun e => (eqKey p.2 e.1, e.2)))
      | none => t
    | none => t) []
  { s with eqSecs := secs }.eqNote before

/-- The positions in transition after the commit, `sOld` being the machine when frame g - 2 is over (R212),
chain by chain of the new table: the pass that covers the
chain in it, the section index that R212 names, and whether the commit changes a position whose transition has
not ended. In a chain that no pass covers, only the last matters. -/
def eqMoving (sOld sNew : State) : List (Option Nat × Nat × Bool) :=
  let g := eqChange (sOld.commitDirty.contains Page.eq) sOld sNew
  (g.newC.zipIdx).flatMap (fun p =>
    let i := sNew.eqPassOf p.2
    match (g.pair[p.2]?).join.bind (fun co => (g.oldC[co]?).map (fun o => (co, o))) with
    | some (co, o) =>
      let kept := (sOld.eqSecs.filter (fun e => e.1 / 16384 == co)).map (fun e => e.1 % 16384 + 1)
      (List.range (kept.foldl Nat.max (Nat.max o.len p.1.len))).filterMap (fun k =>
        let runs := (sOld.eqSec co k).tr.isSome
        let made := match g.at_ o p.1 k with
          | .carry => false
          | .stay => false
          | _ => true
        if runs || made then
          some (i, if k < p.1.len then p.1.start + k else o.start + k, runs && made)
        else none)
    | none => [])

/-- Check 7 (R212): the section of the first failure, where a position that the commit changes is still in
transition, or the transitions of its pass exceed the allowance. `sNew` has the new configuration
active. -/
def eqReserveFault (sOld sNew : State) : Option Nat :=
  ((eqMoving sOld sNew).foldl (fun (r : Option Nat × Tab Nat) (e : Option Nat × Nat × Bool) =>
    if r.1.isSome then r
    else match e.1 with
      | none => (if e.2.2 then some e.2.1 else none, r.2)
      | some i =>
        let n := Tab.get 0 r.2 i + 1
        (if e.2.2 || decide (sNew.get Page.eq (EQ.XALLOW.ALLOW i) < n) then some e.2.1 else none,
         Tab.put 0 r.2 i n)) (none, [])).1

end Sys2Proof.Machine
end

