-- ==== Sys2Proof/Machine/StoreWord.lean ====
section
/-! DEFINITION. Checked access to the words of Store memory (R221 to R223, R228, R433), for the bus and for the
engines alike. -/

namespace Sys2Proof.Machine

/-- Whether Store bank `b` is lost (R228). -/
def State.bankLost (s : State) (b : Nat) : Bool :=
  (s.get Page.store STORE.STORE_STAT.LOST).testBit b

/-- The Store bank of an address: eight banks of 8 MB (R221). -/
def storeBank (a : Nat) : Nat := a / 0x00800000

/-- The check state of the 64-bit Store word that holds byte `a`. -/
def State.storeEcc (s : State) (a : Nat) : Option Ecc := Tab.get none s.ecc (a / 8 * 2)

/-- The check state of a Store word set. -/
def State.setStoreEcc (s : State) (a : Nat) (e : Option Ecc) : State :=
  { s with ecc := Tab.put none s.ecc (a / 8 * 2) e }

/-- An ECC event at a Store word, counted and recorded (R222). -/
def State.storeEccEvent (s : State) (a : Nat) (uncorr : Bool) : State :=
  let g := Page.store
  let s := if uncorr then (s.bump g STORE.ECC_UNCORR_COUNT.COUNT).loseDomain 6
    else s.bump g STORE.ECC_CORR_COUNT.COUNT
  let s := s.put g STORE.ECC_LAST.WORD (a / 8)
  (s.putB g STORE.ECC_LAST.UNCORR uncorr).raise g (if uncorr then 1 else 0)

/-- The numbers of the aligned units of `w` bytes that meet the `n` bytes from `a` on. -/
def unitsOf (w a n : Nat) : List Nat :=
  if n = 0 then [] else (List.range ((a + n - 1) / w - a / w + 1)).map (fun i => a / w + i)

/-- The accesses to lost banks among the 64-byte lines of an access, counted (R228). -/
def State.lostCount (s : State) (a n : Nat) : State :=
  (unitsOf 64 a n).foldl (fun s l => if s.bankLost (storeBank (64 * l)) then
    s.bump Page.store STORE.LOST_ACCESS_COUNT.COUNT else s) s

/-- The events of a read of one Store word; true with an error response (R222). -/
def State.storeCheck (s : State) (a : Nat) : Bool × State :=
  if s.bankLost (storeBank a) then (false, s)
  else match s.storeEcc a with
    | none => (false, s)
    | some .single => (false, s.storeEccEvent a false)
    | some .double => (true, s.storeEccEvent a true)

/-- One byte of Store memory as a read returns it: 0 in a lost bank and in an uncorrectable word. -/
def State.storeByte (s : State) (a : Nat) : Byte :=
  if s.bankLost (storeBank a) || s.storeEcc a == some .double then 0 else s.byte a

/-- A read of `n` bytes of Store memory: the bytes, whether the response is an error, and the state
(R222, R228, R433). -/
def State.storeRead (s : State) (a n : Nat) : List Byte × Bool × State :=
  if !s.domOn 6 then (List.replicate n 0, false, s.log Page.store Code.domainOff)
  else
    let out := (List.range n).map (fun i => s.storeByte (a + i))
    let r := (unitsOf 8 a n).foldl (fun (r : Bool × State) w =>
      let c := r.2.storeCheck (8 * w); (r.1 || c.1, c.2)) (false, s.lostCount a n)
    (out, r.1, r.2)

/-- The selected bytes of one Store word written (R223): a partial write merges into the corrected word,
and is discarded at an uncorrectable one. -/
def State.storeWord (s : State) (w : Nat) (l : List (Nat × Byte)) : State :=
  let a := 8 * w
  if l.isEmpty || s.bankLost (storeBank a) then s
  else if 8 ≤ l.length then (s.setBytes l).setStoreEcc a none
  else match s.storeEcc a with
    | none => s.setBytes l
    | some .single => ((s.storeEccEvent a false).setBytes l).setStoreEcc a none
    | some .double => s.storeEccEvent a true

/-- A write to the `n` bytes from `a` on at the banks; `l` holds the bytes whose strobes are on. -/
def State.storePut (s : State) (a n : Nat) (l : List (Nat × Byte)) : State :=
  (unitsOf 8 a n).foldl
    (fun s w => s.storeWord w (l.filter (fun e => e.1 / 8 == w))) (s.lostCount a n)

/-- A write to the `n` bytes of Store memory from `a` on; `l` holds the bytes whose strobes are on. -/
def State.storeWrite (s : State) (a n : Nat) (l : List (Nat × Byte)) : State :=
  if !s.domOn 6 then s.log Page.store Code.domainOff else s.storePut a n l

/-- The aligned line of 64 bytes at `a` read by an engine: a count in a lost bank, else the check of its eight
words (R222, R228). -/
def State.storeLine (s : State) (a : Nat) : State :=
  if s.bankLost (storeBank a) then s.bump Page.store STORE.LOST_ACCESS_COUNT.COUNT
  else (unitsOf 8 a 64).foldl (fun s w => (s.storeCheck (8 * w)).2) s

/-- A 32-bit word of Store memory as a read returns it. -/
def State.storeWord32 (s : State) (a : Nat) : Word :=
  if s.bankLost (storeBank a) || s.storeEcc a == some .double then 0 else s.word a

end Sys2Proof.Machine
end

