-- ==== Sys2Proof/Machine/Delay.lean ====
section
/-! DEFINITION. The delay engine (spec chapter 08, R213 to R220, R225): tap entries, lines in Store memory and
the tap buffer before them, crossfades and waiting delays, one pass and the commit comparison. -/

namespace Sys2Proof.Machine

/-- A tap entry (R213); `base` is the byte address of the line. -/
structure TapEntry where
  dst   : Nat
  head  : Bool
  xf    : Nat
  delay : Nat
  src   : Nat
  base  : Nat
  len   : Nat
  deriving DecidableEq, Repr

/-- The fields of a 128-bit entry. -/
def TapEntry.ofNat (v : Nat) : TapEntry :=
  { dst := bits v 0 14, head := bits v 14 1 = 1, xf := bits v 15 2, delay := bits v 32 24,
    src := bits v 64 14, base := bits v 78 18 * 256, len := bits v 96 24 }

/-- Base of a copy of the tap table (R33). -/
def delayBase (set : Nat) : Nat := 0x10400000 + set * 0x00010000

/-- The 128 bits of tap i of the active table. -/
def State.tapRaw (s : State) (i : Nat) : Nat :=
  s.readLE (delayBase (s.activeSet Page.delay) + 16 * i) 16

/-- The active table: entries 0 to DELAY_LEN – 1 (R214). -/
def State.tapTable (s : State) : List TapEntry :=
  (List.range (s.get Page.delay DELAY.DELAY_LEN.LEN)).map (fun i => TapEntry.ofNat (s.tapRaw i))

/-- A line: the index of its head entry, source, Store address, length (R213). -/
structure Line where
  head : Nat
  src  : Nat
  base : Nat
  len  : Nat
  deriving DecidableEq, Repr

/-- A tap with its index and the line it belongs to. -/
structure TapAt where
  idx  : Nat
  e    : TapEntry
  line : Line
  deriving DecidableEq, Repr

/-- The taps of a table with their lines: an entry belongs to the line of the last head entry. -/
def tapsFrom : List TapEntry → Nat → Option Line → List TapAt
  | [], _, _ => []
  | e :: t, i, cur =>
    let cur := if e.head then some ⟨i, e.src, e.base, e.len⟩ else cur
    match cur with
    | some l => ⟨i, e, l⟩ :: tapsFrom t (i + 1) cur
    | none => tapsFrom t (i + 1) cur

/-- The taps of the active table. -/
def State.tapsAt (s : State) : List TapAt := tapsFrom s.tapTable 0 none

/-- The lines of the active table, in table order. -/
def State.lines (s : State) : List Line := (s.tapsAt.filter (fun t => t.e.head)).map (·.line)

/-- The delay passes of the list. -/
def State.delayPasses (s : State) : List Nat := s.passList.filter (fun i => s.passType i == 3)

/-- The taps in the range of delay pass i. -/
def State.passTaps (s : State) (i : Nat) : List TapAt :=
  let r := s.passRange i
  s.tapsAt.filter (fun t => decide (r.1 ≤ t.line.head ∧ t.idx ≤ r.2))

/-- Two entries name one line: the same SRC, BASE and LEN (R216). -/
def Line.same (a b : Line) : Bool := a.src == b.src && a.base == b.base && a.len == b.len

/-- The effective delay of an entry (R217). -/
def effDelay (n : Nat) (t : TapAt) : Nat := Nat.min t.e.delay (t.line.len - n)

/-- Whether an entry is clamped (R217). -/
def clamped (n : Nat) (t : TapAt) : Bool := decide (t.line.len - n < t.e.delay)

/-- The state of tap i. -/
def State.tap (s : State) (i : Nat) : Tap := Tab.get (Tap.still 0) s.delay.taps i

/-- The state of tap i replaced. -/
def State.setTap (s : State) (i : Nat) (t : Tap) : State :=
  { s with delay := { s.delay with taps := Tab.put (Tap.still 0) s.delay.taps i t } }

/-- Taps with a crossfade running or a delay waiting (DELAY_STAT.FADING). -/
def State.tapsFading (s : State) : Nat :=
  (s.delay.taps.filter (fun e => e.2.fade.isSome || e.2.wait.isSome)).length

/-- FADE_IDLE where FADING has fallen to 0. -/
def State.delayNote (s : State) (before : Nat) : State :=
  if before ≠ 0 ∧ s.tapsFading = 0 then s.raise Page.delay 1 else s

/-! ### Lines in Store memory and the tap buffer (R215, R218, R225) -/

/-- The Store address of sample index j of a line (R215). -/
def Line.at_ (l : Line) (j : BitVec 32) : Nat := l.base + 4 * (j.toNat % l.len)

/-- The 64-byte line that follows `blk` in a delay line, which is circular (R225). -/
def Line.nextBlk (l : Line) (blk : Nat) : Nat :=
  if blk = (l.base + 4 * l.len - 1) / 64 then l.base / 64 else blk + 1

/-- The gathered line of the delay line at `base`. -/
def State.gathered (s : State) (base : Nat) : Option Gather := Tab.get none s.delay.gather base

/-- The gathered line of the delay line at `base` replaced. -/
def State.setGather (s : State) (base : Nat) (g : Option Gather) : State :=
  { s with delay := { s.delay with gather := Tab.put none s.delay.gather base g } }

/-- A gathered line stored: one access of a bank, discarded where the bank is lost (R218, R223, R225). -/
def State.gatherStore (s : State) (base : Nat) : State :=
  match s.gathered base with
  | none => s
  | some g =>
    (s.storePut (64 * g.blk) 64 (g.words.flatMap (fun (e : Nat × Word) => leBytes e.1 e.2.toNat 4))).setGather
      base none

/-- A line's word as the engine reads it: 0 in a lost bank, 0 where nothing has been written since the line
restarted (R216, R218), and from the gathered line where it is not yet stored (R225). The lines that the buffer
holds of a read position have the contents of Store memory, since no other master may write them (R218). -/
def State.lineRead (s : State) (l : Line) (j : BitVec 32) : Word :=
  let a := l.at_ j
  if s.bankLost (storeBank a) || !Tab.get false s.delay.live (a / 4) then 0
  else match (s.gathered l.base).bind (fun g => g.words.find? (fun e => e.1 == a)) with
    | some e => e.2
    | none => s.storeWord32 a

/-- A line's word written: it is gathered with the others of its 64-byte line, which is stored with the last of
them (R225). -/
def State.lineWrite (s : State) (l : Line) (j : BitVec 32) (v : Word) : State :=
  let a := l.at_ j
  let s := if (s.gathered l.base).any (fun g => g.blk != a / 64) then s.gatherStore l.base else s
  let was := ((s.gathered l.base).map (·.words)).getD []
  let s := s.setGather l.base (some { blk := a / 64, words := was.filter (fun e => e.1 != a) ++ [(a, v)] })
  let s := { s with delay := { s.delay with live := Tab.put false s.delay.live (a / 4) true } }
  if l.at_ (j + 1) / 64 = a / 64 then s else s.gatherStore l.base

/-- Every sample of a line written before reads 0 (R216). -/
def State.lineClear (s : State) (l : Line) : State :=
  { s with delay := { s.delay with
      live := Tab.clear s.delay.live (l.base / 4) (l.base / 4 + l.len)
      gather := Tab.put none s.delay.gather l.base none } }

/-- A line restarts (R216). -/
def State.lineRestart (s : State) (l : Line) : State :=
  (s.lineClear l).bump Page.delay DELAY.RESTART_COUNT.COUNT

/-- The banks a line touches. -/
def Line.banks (l : Line) : List Nat :=
  (List.range 8).filter (fun b =>
    decide (b * 0x00800000 < l.base + 4 * l.len ∧ l.base < (b + 1) * 0x00800000))

/-- Whether a line touches a lost bank. -/
def State.lineInLost (s : State) (l : Line) : Bool := l.banks.any s.bankLost

/-- LINE_LOST at the first frame in which a line of the active table meets a lost bank (R218). -/
def State.notelinesLost (s : State) : State :=
  s.lines.foldl (fun s l =>
    if s.lineInLost l && !Tab.get false s.delay.lost l.head then
      ({ s with delay := { s.delay with lost := Tab.put false s.delay.lost l.head true } }).raise
        Page.delay 2
    else s) s

/-- At a frame boundary, a line found in a lost bank restarts once its banks have been zero-filled
(R218). -/
def State.restartRefilled (s : State) : State :=
  s.lines.foldl (fun s l =>
    if Tab.get false s.delay.lost l.head && !s.lineInLost l then
      ({ s with delay := { s.delay with lost := Tab.put false s.delay.lost l.head false } }).lineRestart
        l
    else s) s

/-! ### One pass (R215, R220) -/

/-- One sample of a tap (R215, R220): the output and the new tap state. `rd d` reads the line `d`
samples back. -/
def tapSample (t : Tap) (rd : Nat → Word) : Word × Tap :=
  match t.fade with
  | none => (rd t.cur, t)
  | some (old, k, b) =>
    let k := k + 1
    let w := fadeWeight b k
    let y := roundShift false ((rd old).toInt * (2 ^ 28 - w) + (rd t.cur).toInt * w) 28
    let t' := if k ≥ 2 ^ b then
        match t.wait with
        | some (d, b') => ⟨d, some (t.cur, 0, b'), none, none, t.held⟩
        | none => ⟨t.cur, none, none, t.held, none⟩
      else { t with fade := some (old, k, b) }
    (Word.ofInt y, t')

/-- A read position comes to the 64-byte line `x`, its buffer holding `held`: what it does not hold is read from
Store memory, and the line after `x` is prefetched (R225). -/
def State.bufFetch (s : State) (l : Line) (held : Option Nat) (x : Nat) : State :=
  match held with
  | some h =>
    if h = x then s
    else if x = l.nextBlk h then s.storeLine (64 * l.nextBlk x)
    else (s.storeLine (64 * x)).storeLine (64 * l.nextBlk x)
  | none => (s.storeLine (64 * x)).storeLine (64 * l.nextBlk x)

/-- The buffer takes the line of sample index `j` at delay `d` of line `l`, and the next one, ahead of a read position
to come (R225). -/
def State.fetchAhead (s : State) (l : Line) (d : Nat) (j : BitVec 32) : Nat × State :=
  let x := l.at_ (j - BitVec.ofNat 32 d) / 64
  (x, s.bufFetch l none x)

/-- The line held ahead for tap `i` replaced. -/
def State.setReady (s : State) (i : Nat) (x : Option Nat) : State :=
  { s with delay := { s.delay with ready := Tab.put none s.delay.ready i x } }

/-- The prefetch for a delay that waits: 16 samples before its crossfade starts, or as soon as it waits where that is
later (R225). -/
def State.waitFetch (s : State) (l : Line) (i : Nat) (t : Tap) (j : BitVec 32) : State :=
  match t.fade, t.wait with
  | some (_, k, b), some (d, _) =>
    if 2 ^ b ≤ k + 16 ∧ Tab.get none s.delay.ready i = none then
      let f := s.fetchAhead l d (j + BitVec.ofNat 32 (2 ^ b - k))
      f.2.setReady i (some f.1)
    else s
  | _, _ => s

/-- The read positions of tap `i` at sample index `j`: the buffer follows them, from a line held ahead where one
is (R225). -/
def State.tapFetch (s : State) (l : Line) (i : Nat) (t : Tap) (j : BitVec 32) : Tap × State :=
  let x := l.at_ (j - BitVec.ofNat 32 t.cur) / 64
  let s := match t.held with
    | some _ => s.bufFetch l t.held x
    | none => (s.bufFetch l (Tab.get none s.delay.ready i) x).setReady i none
  let s := s.waitFetch l i t j
  match t.fade with
  | some (old, _, _) =>
    let y := l.at_ (j - BitVec.ofNat 32 old) / 64
    ({ t with held := some x, heldOld := some y }, s.bufFetch l t.heldOld y)
  | none => ({ t with held := some x, heldOld := none }, s)

/-- A delay pass over one frame (R215): `first` is the sample index of the frame's first sample. -/
def State.delayPass (s : State) (i b : Nat) (first : BitVec 32) (read : Nat → Nat → Word) : State :=
  let before := s.tapsFading
  let taps := s.passTaps i
  let s := s.notelinesLost
  let s := taps.foldl (fun s t =>
    let s := if t.e.head then
        (List.range s.fsize).foldl (fun s k =>
          s.lineWrite t.line (first + BitVec.ofNat 32 k) (read t.line.src k)) s
      else s
    (List.range s.fsize).foldl (fun s k =>
      let j := first + BitVec.ofNat 32 k
      let f := s.tapFetch t.line t.idx (s.tap t.idx) j
      let r := tapSample f.1 (fun d => f.2.lineRead t.line (j - BitVec.ofNat 32 d))
      (f.2.setTap t.idx r.2).planeWrite b t.e.dst k r.1) s) s
  s.delayNote before

/-- The cost of delay pass i (R219). -/
def State.delayCost (s : State) (i : Nat) : Nat :=
  let taps := s.passTaps i
  ceilDiv (((taps.filter (fun t => t.e.head)).length + 2 * taps.length) * s.fsize) 6

/-- The capacity in taps at the rate in effect (R214). -/
def State.delayCap (s : State) : Nat := if s.fs = 2 then 2048 else 4096

/-! ### The commit comparison (R216, R217, R220) -/

/-- The old tap matched with a new one: the same DST, first with first in table order. -/
def matchTap (old new : List TapAt) (t : TapAt) : Option TapAt :=
  let before := (new.filter (fun x => x.e.dst == t.e.dst)).map (·.idx)
  (old.filter (fun x => x.e.dst == t.e.dst))[before.idxOf t.idx]?

/-- Whether a line of the old table is carried (R216). -/
def State.carries (sOld : State) (l : Line) : Bool := sOld.lines.any (fun o => o.same l)

/-- What a commit that includes the DELAY page counts at its boundary: the lines that restart (R216) and the
taps that it clamps (R217). Where RUN becomes 1 at the same boundary (`starts`), every line restarts by that,
once. -/
def State.delayCounts (s sOld : State) (starts : Bool) : State :=
  let n := s.fsize
  let oldT := sOld.tapsAt
  let newT := s.tapsAt
  let restarts := if starts then 0 else (s.lines.filter (fun l => !sOld.carries l)).length
  let fresh := newT.filter (fun t => clamped n t && (match matchTap oldT newT t with
    | some o => !(o.line.same t.line) || o.e.delay != t.e.delay
    | none => true))
  fresh.foldl (fun s t =>
    ((s.bump Page.delay DELAY.CLAMP_COUNT.COUNT).put Page.delay DELAY.CLAMP_LAST.TAP t.idx).raise
      Page.delay 0) (s.bump Page.delay DELAY.RESTART_COUNT.COUNT restarts)

/-- The state that a commit gives tap `t` of the new table (R220). -/
def State.tapAfter (s sOld : State) (t : TapAt) : Tap :=
  let e := effDelay s.fsize t
  match matchTap sOld.tapsAt s.tapsAt t with
  | some o =>
    let ts := sOld.tap o.idx
    let b := s.scaleLog (xfLog t.e.xf)
    if !(o.line.same t.line) || !sOld.carries t.line then Tap.still e
    else if e = ts.cur then { ts with wait := none }
    else match ts.fade with
      | none => ⟨e, some (ts.cur, 0, b), none, none, ts.held⟩
      | some _ => { ts with wait := some (e, b) }
  | none => Tap.still e

/-- The lines that the buffer takes ahead for the read positions that are new in `taps`, whose first sample index is
`first`, by tap (R225). -/
def State.prefetch (s : State) (taps : List (TapAt × Tap)) (first : BitVec 32) : Tab (Option Nat) × State :=
  if !s.domOn 6 then ([], s)
  else
    (taps.filter (fun t => t.2.held.isNone)).foldl (fun (acc : Tab (Option Nat) × State) t =>
      let f := acc.2.fetchAhead t.1.line t.2.cur first
      (Tab.put none acc.1 t.1.idx (some f.1), f.2)) ([], s)

/-- The prefetch for the read positions that a commit at sample index `b` brings. -/
def State.commitFetch (s sOld : State) (b : BitVec 32) : State :=
  let f := s.prefetch (s.tapsAt.map (fun t => (t, s.tapAfter sOld t))) b
  { f.2 with delay := { f.2.delay with coming := f.1 } }

/-- The engine after a commit that includes the DELAY page; `sOld` has the old configuration active. The
gathered lines of delay lines that end are stored first. -/
def State.delayCompare (s sOld : State) : State :=
  let before := s.tapsFading
  let oldL := sOld.lines
  let carried (l : Line) : Bool := sOld.carries l
  let lostOf (l : Line) : Bool := match oldL.find? (fun o => o.same l) with
    | some o => Tab.get false sOld.delay.lost o.head
    | none => false
  let ended := oldL.filter (fun o => !s.lines.any (fun l => o.same l))
  let s := if s.domOn 6 then ended.foldl (fun s l => s.gatherStore l.base) s else s
  let s := (s.lines.filter (fun l => !carried l)).foldl (fun s l => s.lineClear l) s
  let lost := Tab.puts false [] (s.lines.map (fun l => (l.head, lostOf l)))
  let taps := s.tapsAt.map (fun t => (t.idx, s.tapAfter sOld t))
  { s with delay := { s.delay with
      taps := Tab.puts (Tap.still 0) [] taps, lost := lost, ready := s.delay.coming, coming := [] } }.delayNote before

/-- RUN becomes 1 at sample index `b`: every line restarts, every crossfade and waiting delay is discarded and each
tap takes the delay of its entry (R80, R216, R220). -/
def State.delayStart (s : State) (b : BitVec 32) : State :=
  let s := s.lines.foldl (fun s l => s.lineRestart l) s
  let taps := s.tapsAt.map (fun t => (t, Tap.still (effDelay s.fsize t)))
  let f := s.prefetch taps b
  { f.2 with delay := { f.2.delay with
      taps := Tab.puts (Tap.still 0) [] (taps.map (fun t => (t.1.idx, t.2))), ready := f.1, coming := [] } }

end Sys2Proof.Machine
end

