-- ==== Sys2Proof/Machine/LaneTx.lean ====
section
/-! DEFINITION. The transmit chain of a lane (R242 to R251, R256, R263, R273 to R278): the blocks of a link
cycle, their scrambling, run-length stuffing, omission under the stuffing debt, test patterns and error
injection. The line bits of a cycle are formed at the nominal start that ends it; where in the cycle its cells
stand, and that a change of phase shows from the cycle's first block, are the model's (log entry 94). -/

namespace Sys2Proof.Machine

/-! ### Blocks (R243, R245, R246) -/

/-- A block before scrambling: whether it is a cell block (header 0b01) or a control block (0b10), and its
254 body bits. -/
structure LinkBlock where
  cell : Bool
  body : Nat
  deriving DecidableEq, Repr

/-- Fields of (width, value) sent one after the other, the first the most significant. -/
def fields (l : List (Nat × Nat)) : Nat := l.foldl (fun acc f => acc * 2 ^ f.1 + f.2 % 2 ^ f.1) 0

/-- A control block: TYPE, SYNC, the type-specific word and body bits 64–237, sealed with the CRC (R245). -/
def ctlBlock (ty word rest : Nat) : LinkBlock :=
  let b := fields [(8, ty), (40, Ctl.sync), (16, word), (174, rest)]
  ⟨false, b * 2 ^ 16 + crc16 238 b⟩

/-- The idle block: body bits 64–253 are 0 and there is no CRC. -/
def idleBlock : LinkBlock := ⟨false, fields [(8, Ctl.idle), (40, Ctl.sync), (16, 0x6996), (190, 0)]⟩

/-- The marker block that LIDX `lidx` sends for a marker (R246). -/
def markerBlock (lidx : Nat) (m : TxMarker) : LinkBlock :=
  let clo := m.cyc % 256
  let word := lidx * 4096 + clo * 16 + (lidx ^^^ clo / 16 ^^^ clo % 16 ^^^ 0xA)
  ctlBlock Ctl.marker word (fields [(32, m.cyc), (32, m.mnt), (48, (m.corr % 2 ^ 48).toNat), (16, m.master),
    (4, m.ql), (16, m.flags), (16, m.src), (10, 0)])

/-- A service block of channel `sch` with its 18 payload bytes as one number (R246, R303). -/
def serviceBlock (sch payload : Nat) : LinkBlock :=
  ctlBlock Ctl.service 0x6996 (fields [(8, sch), (8, 0), (144, payload), (14, 0)])

/-- The time exchange as a service block (R328). -/
def exchangeBlock (e : Exchange) : LinkBlock :=
  serviceBlock 0x40 (fields [(32, e.echo), (48, (e.turn % 2 ^ 48).toNat), (5, 0), (11, e.sd), (7, 0),
    (1, if e.valid then 1 else 0), (40, 0)])

/-- A host message of five words as a service block: the inverse of what SVC_RX shows (R303). -/
def messageBlock (w : List Word) : LinkBlock :=
  let byte := fun k => (w.getD (k / 4) 0).toNat / 2 ^ (8 * (k % 4)) % 256
  serviceBlock (byte 0) (fields ((List.range 18).map (fun k => (8, byte (k + 2)))))

/-- A loop-test block (R277). -/
def loopBlock (t : LoopTest) : LinkBlock :=
  ctlBlock Ctl.loopTest 0x6996 (fields [(1, if t.ret then 1 else 0), (7, 0), (16, t.origin),
    (32, t.token.toNat), (118, 0)])

/-- A cell block (R280). -/
def cellBlock (c : Cell) : LinkBlock := ⟨true, cellBody c * 2 ^ 16 + c.ocrc.toNat⟩

/-- The TS1 or TS2 block that a lane sends in its present phase (R246, R256, R258, R260, R263). A lane that has
just come UP goes on with TS2 and CONF_DONE 1 to the end of the cycle. -/
def State.tsBlock (s : State) (l : Nat) : LinkBlock :=
  let ph := s.phase l
  let ts2 := decide (ph = Phase.confirm ∨ ph = Phase.up)
  let done := ts2 && ((s.lane l).confDone || ph == Phase.up)
  ctlBlock (if ts2 then Ctl.ts2 else Ctl.ts1) 0x6996 (fields [(4, ph), (2, if isSpur l then 1 else 0),
    (2, if isSpur l then l - 8 else l / 2), (16, s.nodeId), (2, s.get (Page.lane l) LANE.LANE_CTRL.RATE),
    (1, if done then 1 else 0), (5, 0), (8, (s.lane l).ffeReq),
    (8, (s.lane l).ffeAns + s.get (Page.lane l) LANE.FFE_STAT.PRESET), (126, 0)])

/-! ### The slots of a cycle (R256, R278, R279) -/

/-- The LIDX of a lane. -/
def lidxOf (l : Nat) : Nat := if isSpur l then 0 else l % 2

/-- A slot of a cycle: a block that is always sent; an elastic idle slot, with what it carries while no loop
test waits; a media slot with its cell, or idle; and a media slot of the training skeleton. -/
inductive TxSlot where
  | fix (b : LinkBlock)
  | elastic (b : LinkBlock) (loops : Bool)
  | media (c : Option TxCell)
  deriving DecidableEq, Repr

/-- The service slots per cycle (R278). -/
def serviceSlots (rate : Nat) : Nat := if rate = 1 then 11 else if rate = 2 then 5 else 2

/-- The media slots per cycle (R278). -/
def mediaSlots (rate : Nat) : Nat := if rate = 1 then 1008 else if rate = 2 then 504 else 252

/-- The slots of a cycle of the training skeleton: TS blocks in every slot but the marker's (R256). -/
def State.skeleton (s : State) (l : Nat) (m : TxMarker) : List TxSlot :=
  let r := s.laneRate l
  let ts := s.tsBlock l
  .fix (markerBlock (lidxOf l) m) :: List.replicate (serviceSlots r) (.fix ts) ++
    List.replicate (4 / r) (.elastic ts false) ++ List.replicate (mediaSlots r) (.fix ts)

/-- The cells of the cycle that lane `l` carries (R282). -/
def State.laneCells (s : State) (l : Nat) : List TxCell :=
  let sent := (s.port (portOf l)).sent
  if isSpur l then sent else sent.filter (fun c => c.cell.stream.toNat % 2 == lidxOf l)

/-- The slots of a cycle of normal traffic: the time exchange and a host message in the service slots, the
cells in the first media slots. -/
def State.traffic (s : State) (l : Nat) (m : TxMarker) : List TxSlot :=
  let r := s.laneRate l
  let ln := s.lane l
  let svc := (ln.exch.toList.map exchangeBlock ++ ln.msg.toList.map messageBlock ++
    List.replicate (serviceSlots r) (serviceBlock 0 0)).take (serviceSlots r)
  let cells := (s.laneCells l).map some
  .fix (markerBlock (lidxOf l) m) :: svc.map .fix ++ List.replicate (4 / r) (.elastic idleBlock true) ++
    ((cells ++ List.replicate (mediaSlots r) none).take (mediaSlots r)).map .media

/-! ### Scrambling and stuffing (R247, R249, R250) -/

/-- The scrambler's state after `n` steps. -/
def scrAfter : Nat → Nat → Nat
  | 0, s => s
  | n + 1, s => scrAfter n (scrStep s).2

/-- A block's 254 body bits as the scrambler leaves them, and its state after them: the whole body of a cell,
body bits 64–253 of a control block, a marker with its own seed (R247). -/
def scramble (b : LinkBlock) (scr : Nat) : Nat × Nat :=
  if b.cell then (b.body ^^^ scrBits 254 scr 0, scrAfter 254 scr)
  else
    let w := b.body / 2 ^ 190 % 65536
    let scr := if b.body / 2 ^ 246 = Ctl.marker then scrSeed (w / 4096) (w / 16 % 256) else scr
    (b.body ^^^ scrBits 190 scr 0, scrAfter 190 scr)

/-- The `n` lowest bits of `v` put on the line, most significant first, with the opposite bit after each run
of 24: the line so far led by a 1 bit, the run it ends in, and the stuffed bits (R249). -/
def stuffBits (v : Nat) : Nat → LineRun → Nat → Nat → LineRun × Nat × Nat
  | 0, r, line, k => (r, line, k)
  | n + 1, r, line, k =>
    let b := v.testBit n
    let len := if b == r.bit then r.len + 1 else 1
    let line := line * 2 + b.toNat
    if len = 24 then stuffBits v n ⟨!b, 1⟩ (line * 2 + (!b).toNat) (k + 1)
    else stuffBits v n ⟨b, len⟩ line k

/-- The transmitter within a cycle: debt, scrambler, run, line bits led by a 1 bit, the places of the second
header bits newest first, stuffed bits, cells omitted, loop tests waiting and sent, cells sent. -/
structure TxRun where
  sd     : Nat
  scr    : Nat
  run    : LineRun
  line   : Nat
  heads  : List Nat
  added  : Nat
  drops  : Nat
  loops  : List LoopTest
  looped : List LoopTest
  kept   : List TxCell
  deriving DecidableEq, Repr

/-- A block sent: scrambled, stuffed and put on the line; each stuffed bit adds to the debt. -/
def TxRun.send (t : TxRun) (b : LinkBlock) : TxRun :=
  let x := scramble b t.scr
  let v := (if b.cell then 1 else 2) * 2 ^ 254 + x.1
  let a := stuffBits (v / 2 ^ 255) 1 t.run 1 0
  let c := stuffBits v 255 a.1 a.2.1 0
  let n := c.2.1.log2
  { t with
    sd := t.sd + a.2.2 + c.2.2, scr := x.2, run := c.1, line := t.line * 2 ^ n + c.2.1 % 2 ^ n
    heads := (t.line.log2 + a.2.1.log2) :: t.heads, added := t.added + a.2.2 + c.2.2 }

/-- One slot at its block boundary, `e` elastic slots per cycle (R250, R277): an elastic block is omitted while
the debt is 256 or more, a cell block while it is 256 × E or more. -/
def TxRun.slot (e : Nat) (t : TxRun) : TxSlot → TxRun
  | .fix b => t.send b
  | .elastic b loops =>
    if 256 ≤ t.sd then { t with sd := t.sd - 256 }
    else match (if loops then t.loops else []) with
      | x :: rest => { t.send (loopBlock x) with loops := rest, looped := t.looped ++ [x] }
      | [] => t.send b
  | .media c =>
    if 256 * e ≤ t.sd then { t with sd := t.sd - 256, drops := t.drops + 1 }
    else match c with
      | some c => { t.send (cellBlock c.cell) with kept := t.kept ++ [c] }
      | none => t.send idleBlock

/-- Whether the lane sends blocks: from DETECT to UP, and in a beacon burst, whose last start ends it. -/
def State.sendsBlocks (s : State) (l : Nat) : Bool :=
  decide (2 ≤ s.phase l ∧ s.phase l ≤ 7) || decide (2 ≤ (s.lane l).burst)

/-- Whether the cycle that ends carried normal traffic: the lane was UP at its start and still is (R260, R261). -/
def State.sentTraffic (s : State) (l : Nat) : Bool := (s.lane l).traf && s.laneUp l

/-- The blocks of the cycle that ends, run through the transmitter. -/
def State.txRun (s : State) (l : Nat) (m : TxMarker) : TxRun :=
  let ln := s.lane l
  let slots := if s.sentTraffic l then s.traffic l m else s.skeleton l m
  slots.foldl (TxRun.slot (s.elastic l)) ⟨ln.sd, ln.scr, ln.run, 1, [], 0, 0, ln.loops, [], []⟩

/-! ### Error injection (R275) -/

/-- The line bits of a cycle with the injected errors inverted. `line` is led by a 1 bit; an injection falls on
a free bit of the cycle, a header injection on the second bit of a free block's header. -/
def injectLine (line : Nat) (heads : List Nat) (injs : List Inject) : Nat :=
  let n := line.log2
  injs.foldl (fun v i =>
    let at_ := if i.header then heads.getD (i.place % Nat.max 1 heads.length) 0
      else i.place % (n - i.len + 1)
    v ^^^ ((2 ^ i.len - 1) * 2 ^ (n - at_ - i.len))) line

/-! ### Test patterns (R274) -/

/-- Length and taps of the PRBS generators (ITU-T O.150, as R274 gives their polynomials). -/
def prbsTaps (k : Nat) : Nat × Nat := if k = 1 then (7, 6) else if k = 2 then (15, 14) else (31, 28)

/-- `n` bits of a pattern generator from its state: the state after them and the bits after `acc`. A PRBS state
holds the last bits sent, the newest lowest, and sends its oldest; the user pattern's state is the number of
bits sent (R274). -/
def patBits (k user : Nat) : Nat → Nat → Nat → Nat × Nat
  | 0, g, acc => (g, acc)
  | n + 1, g, acc =>
    if k = 4 then patBits k user n ((g + 1) % 64) (acc * 2 + (user.testBit (63 - g)).toNat)
    else
      let t := prbsTaps k
      let x := (g.testBit (t.1 - 1)) != (g.testBit (t.2 - 1))
      patBits k user n ((g * 2 + x.toNat) % 2 ^ t.1) (acc * 2 + (g.testBit (t.1 - 1)).toNat)

/-- The state in which a generator starts: all ones for a PRBS, bit 63 for the user pattern. -/
def patStart (k : Nat) : Nat := if k = 4 then 0 else 2 ^ (prbsTaps k).1 - 1

/-- `n` bits of a pattern in pieces of 256, after a line led by a 1 bit. -/
def patLine (k user : Nat) : Nat → Nat → Nat → Nat × Nat
  | 0, g, line => (g, line)
  | n + 1, g, line =>
    let x := patBits k user 256 g 0
    patLine k user n x.1 (line * 2 ^ 256 + x.2)

/-- USER_PAT. -/
def State.userPat (s : State) (l : Nat) : Nat :=
  s.get (Page.lane l) LANE.USER_PAT_HI.PAT * 2 ^ 32 + s.get (Page.lane l) LANE.USER_PAT_LO.PAT

/-- The line bits of a cycle that far-end loopback sends: those received, which no command brings and which are
free, at the recovered clock, so that as many leave as arrive (R276). -/
def State.farEndLine (s : State) (l : Nat) : Nat × State :=
  let n := 262144 / s.laneRate l
  (2 ^ n + Config.receivedLine s.freeCtr % 2 ^ n, s.draw.2)

/-- The test pattern of a whole cycle in TEST (R273, R274): the generator runs on, and its bits are the lane's
line bits at the serialiser. In far-end loopback the received bits are sent instead and the generator stands
(R276). Injected errors act on the bits sent (R275). -/
def State.testLine (s : State) (l : Nat) : State :=
  let pg := Page.lane l
  let k := s.get pg LANE.TEST_CTRL.PATGEN
  let ln := s.lane l
  if s.get pg LANE.TEST_CTRL.LOOPBACK = 3 then
    let x := s.farEndLine l
    x.2.setLane l { ln with line := injectLine x.1 [] ln.injs, injs := [] }
  else if k = 0 then s.setLane l { ln with line := 1, injs := [] }
  else
    let x := patLine k (s.userPat l) (1024 / s.laneRate l) ln.gen 1
    s.setLane l { ln with gen := x.1, line := injectLine x.2 [] ln.injs, injs := [] }

/-! ### The cycle settled -/

/-- The line bits of the cycle that ends, whose marker was `m` (R244): stuffed bits and omissions are counted,
an omitted cell does not leave, and loop tests have gone out. -/
def State.settleLine (s : State) (l : Nat) (m : TxMarker) : State :=
  let pg := Page.lane l
  let p := portOf l
  let t := s.txRun l m
  let counted (c : List TxCell) : Nat := (c.filter (fun x => !x.quiet)).length
  let lost := if s.sentTraffic l then counted (s.laneCells l) - counted t.kept else 0
  let tx := s.get (portPage p) TRUNK.CELLS_TX.COUNT
  let s := if tx < 2 ^ 32 - 1 then s.put (portPage p) TRUNK.CELLS_TX.COUNT (tx - lost) else s
  let s := s.bump pg LANE.STUFF_COUNT.COUNT t.added
  let s := s.bump pg LANE.STUFF_DROP_COUNT.COUNT t.drops
  let s := if 0 < t.drops then s.raise pg 11 else s
  let ln := s.lane l
  let s := s.setLane l { ln with
    sd := t.sd, scr := t.scr, run := t.run, line := injectLine t.line t.heads.reverse ln.injs, injs := []
    loops := t.loops, loopsSent := t.looped, msg := none }
  s.setPort p { s.port p with left := (s.port p).left ++ t.kept }

end Sys2Proof.Machine
end

