-- ==== Sys2Proof/Machine/Ledger.lean ====
section
/-! DEFINITION. The budget ledger (R399 to R401): requesting, withdrawing and releasing a grant, the
work of one MGMT_CLK cycle, and the removal of a request that times out. -/

namespace Sys2Proof.Machine

def Kind.wakeDsp : Nat := 0
def Kind.wakeMix : Nat := 1
def Kind.wakeStore : Nat := 2
def Kind.wakeLane : Nat := 3
def Kind.wakePort : Nat := 4
def Kind.wakeAmp : Nat := 5
def Kind.laneTrain : Nat := 6
def Kind.scrub : Nat := 7
def Kind.retSig : Nat := 8
def Kind.boostRise : Nat := 9
def Kind.migration : Nat := 10

/-- The supplies that a kind charges, A and then B where it has one (R399). -/
def ledgerSupplies (r : Req) : Nat × Option Nat :=
  match r.kind with
  | 0 => (0, some 1) | 1 => (0, some 1) | 2 => (1, some 0) | 3 => (2, some 3) | 4 => (5, some 0)
  | 5 => (4, some 0) | 6 => (2, some 3) | 7 => (1, some 0) | 8 => (1, some 0)
  | 9 => (if r.inst < 4 then 6 else 7, none)
  | _ => (0, some 1)



/-- The charge that granting a request makes now. -/
def State.chargeOf (s : State) (r : Req) (rollback : Bool) : Charge :=
  ⟨r, s.get Page.pwr (PWR.COST.A r.kind),
   if (ledgerSupplies r).2.isSome then s.get Page.pwr (PWR.COST.B r.kind) else 0, rollback⟩

/-- What a charge puts on supply `n`. -/
def Charge.on (c : Charge) (n : Nat) : Nat :=
  let sup := ledgerSupplies c.req
  (if sup.1 = n then c.a else 0) + (if sup.2 = some n then c.b else 0)

/-- The current granted on supply `n`. -/
def inUse (held : List Charge) (n : Nat) : Nat := (held.map (fun c => c.on n)).sum

/-- Whether a request charges one of the supplies listed. -/
def Req.charges (r : Req) (l : List Nat) : Bool :=
  let sup := ledgerSupplies r
  l.contains sup.1 || (match sup.2 with | some b => l.contains b | none => false)

/-- The supplies of a request. -/
def Req.supplies (r : Req) : List Nat :=
  let sup := ledgerSupplies r
  match sup.2 with
  | some b => [sup.1, b]
  | none => [sup.1]

/-- Whether a charge fits beside the charges in force (R400): on each supply that it charges, be the amount 0. -/
def State.fits (s : State) (held : List Charge) (c : Charge) : Bool :=
  c.req.supplies.all (fun n => inUse held n + c.on n ≤ s.get Page.pwr (PWR.BUDGET.UNITS n))

/-- The scan of the queue (R400): each request that fits is granted unless an earlier one that still
waits charges one of the same supplies. -/
def State.ledgerScan (s : State) :
    List Req → List Nat → List Charge → List Req → List Charge × List Req
  | [], _, held, wait => (held, wait)
  | r :: q, blocked, held, wait =>
    let c := s.chargeOf r false
    if !r.charges blocked && s.fits held c then s.ledgerScan q blocked (held ++ [c]) wait
    else s.ledgerScan q (blocked ++ r.supplies) held (wait ++ [r])

/-- The status registers of the ledger brought up to date. -/
def State.ledgerView (s : State) : State :=
  let s := (List.range 8).foldl
    (fun s n => s.put Page.pwr (PWR.INUSE.UNITS n) (inUse s.ledger.held n)) s
  let s := s.put Page.pwr PWR.LEDGER_STAT.QUEUED
    (Nat.min 32 (s.ledger.queue.length + s.ledger.fresh.length))
  let s := s.put Page.pwr PWR.LEDGER_STAT.GRANTED
    (s.ledger.held.filter (fun c => !c.rollback)).length
  s.putB Page.pwr PWR.LEDGER_STAT.OVER
    ((List.range 8).any (fun n => s.get Page.pwr (PWR.BUDGET.UNITS n) < inUse s.ledger.held n))

/-- The state with another ledger, its status registers brought up to date. -/
def State.withLedger (s : State) (l : Ledger) : State := { s with ledger := l }.ledgerView

/-- A new request, queued at the next MGMT_CLK cycle. -/
def State.request (s : State) (kind inst : Nat) : State :=
  s.withLedger { s.ledger with fresh := s.ledger.fresh ++ [⟨kind, inst⟩] }

/-- Whether a grant is held and has not been given back. -/
def State.holds (s : State) (kind inst : Nat) : Bool :=
  s.ledger.held.any (fun c => c.req == ⟨kind, inst⟩ && !c.rollback) &&
    !s.ledger.rel.contains ⟨kind, inst⟩

/-- Whether a request waits. -/
def State.waits (s : State) (kind inst : Nat) : Bool :=
  (s.ledger.queue ++ s.ledger.fresh).contains ⟨kind, inst⟩

/-- A grant given back, applied at the next MGMT_CLK cycle; a request that still waits is withdrawn
at once (R401). -/
def State.release (s : State) (kind inst : Nat) : State :=
  let r : Req := ⟨kind, inst⟩
  let l := s.ledger
  s.withLedger { l with
    rel := if s.holds kind inst then l.rel ++ [r] else l.rel
    queue := l.queue.filter (· != r)
    fresh := l.fresh.filter (· != r)
    untimed := l.untimed.filter (· != r) }

/-- A rollback's wake cost charged at once, whatever the budget (R398). -/
def State.chargeNow (s : State) (kind inst : Nat) : State :=
  s.withLedger { s.ledger with held := s.ledger.held ++ [s.chargeOf ⟨kind, inst⟩ true] }

/-- A rollback's charge given back. -/
def State.unchargeNow (s : State) (kind inst : Nat) : State :=
  s.withLedger { s.ledger with
    held := s.ledger.held.filter (fun c => !(c.rollback && c.req == ⟨kind, inst⟩)) }

/-- One request placed into a list that rises by kind and then by instance. -/
def reqInsert (r : Req) : List Req → List Req
  | [] => [r]
  | q :: t => if r.kind * 64 + r.inst < q.kind * 64 + q.inst then r :: q :: t else q :: reqInsert r t

/-- The new requests of a cycle in increasing kind and then increasing instance. -/
def reqSort (l : List Req) : List Req := l.foldl (fun t r => reqInsert r t) []

/-- The ledger's work in one MGMT_CLK cycle (R400): releases, new requests, scan. -/
def State.ledgerCycle (s : State) : State :=
  let l := s.ledger
  let held := l.held.filter (fun c => c.rollback || !l.rel.contains c.req)
  let out := s.ledgerScan (l.queue ++ reqSort l.fresh) [] held []
  s.withLedger { rel := [], fresh := [], queue := out.2, held := out.1
                 untimed := l.untimed.filter out.2.contains, scanned := none }

/-- A waiting request removed, counted and recorded as timed out (R401). -/
def State.ledgerExpire (s : State) (kind inst : Nat) : State :=
  let r : Req := ⟨kind, inst⟩
  let s := s.withLedger { s.ledger with
    queue := s.ledger.queue.filter (· != r), fresh := s.ledger.fresh.filter (· != r) }
  let s := s.bump Page.pwr PWR.GRANT_TMO_COUNT.COUNT
  let s := s.put Page.pwr PWR.LEDGER_LAST.KIND kind
  let s := s.put Page.pwr PWR.LEDGER_LAST.INSTANCE inst
  s.raise Page.pwr 4

end Sys2Proof.Machine
end

