-- ==== Sys2Proof/Machine/Lane.lean ====
section
/-! DEFINITION. The lanes of chapter 10: training, blocks received, trunk forming and loss, lane
tests, and the commands of the LANE page. A block is processed while clock recovery is locked, in
WAIT_GRANT and from BLOCK_LOCK to UP. -/

namespace Sys2Proof.Machine

/-! ### Phases and port states -/

/-- The lane enters a phase and puts its two directions into the states of R268. -/
def State.setPhase (s : State) (l ph : Nat) : State :=
  let pg := Page.lane l
  let s := s.put pg LANE.LANE_STAT.PHASE ph
  if ph = Phase.disabled then
    (s.put pg LANE.LANE_STAT.TX_STATE (s.get pg LANE.LANE_PWR.TX_REQ)).put pg
      LANE.LANE_STAT.RX_STATE (s.get pg LANE.LANE_PWR.RX_REQ)
  else if ph = Phase.waitGrant then s
  else if ph = Phase.backoff then
    (s.put pg LANE.LANE_STAT.TX_STATE 1).put pg LANE.LANE_STAT.RX_STATE 1
  else if ph = Phase.listen then
    (s.put pg LANE.LANE_STAT.TX_STATE (if s.flag pg LANE.LANE_CTRL.BEACON then 1 else 2)).put pg
      LANE.LANE_STAT.RX_STATE 1
  else (s.put pg LANE.LANE_STAT.TX_STATE 0).put pg LANE.LANE_STAT.RX_STATE 0

/-- PORT_STAT.STATE of a port: 0 down, 1 waiting to form, 2 debounce, 3 carrying media. -/
def State.portState (s : State) (p : Nat) : Nat := s.get (portPage p) TRUNK.PORT_STAT.STATE

/-- The state of a port, on its page and on those of its lanes. -/
def State.setPortState (s : State) (p v : Nat) : State :=
  let s := s.put (portPage p) TRUNK.PORT_STAT.STATE v
  (portLanes p).foldl (fun s l => s.put (Page.lane l) LANE.LANE_STAT.PORT_STATE v) s

/-- An interrupt bit raised on every lane of a port. -/
def State.raisePort (s : State) (p b : Nat) : State :=
  (portLanes p).foldl (fun s l => s.raise (Page.lane l) b) s

/-- Whether every lane of a port is UP. -/
def State.allUp (s : State) (p : Nat) : Bool := (portLanes p).all s.laneUp

/-- WRAP_EN of the ring of trunk `p`. -/
def State.wrapEn (s : State) (p : Nat) : Bool :=
  if p < 2 then s.flag Page.ring RING.RING_CTRL.WRAP_EN_A
  else s.flag Page.ring RING.RING_CTRL.WRAP_EN_B

/-- A wrap takes effect for trunk `p` where its ring is INSERTED and may wrap (R292). -/
def State.wrapStart (s : State) (p : Nat) : State :=
  if p < 4 ∧ s.inserted p ∧ s.wrapEn p ∧ s.carrying p = false ∧
      s.flag (Page.trunk p) TRUNK.PORT_STAT.WRAPPING = false then
    (s.putB (Page.trunk p) TRUNK.PORT_STAT.WRAPPING true).raise (Page.trunk p) 0
  else s

/-- A trunk down begins its wrap at once or after one or two nominal starts: R292 bounds the time and
leaves it open within the bound. -/
def State.wrapSoon (s : State) (p : Nat) : State :=
  let fr := s.draw
  let k := fr.1.toNat % 3
  if k = 0 then fr.2.wrapStart p
  else fr.2.setPort p { fr.2.port p with wrapIn := some k }

/-- The cells placed for media slots of a trunk that goes down and not yet sent, a number that the spec leaves
open, are cells that the node would still send out of it (R292). -/
def State.recall (s : State) (p : Nat) : State :=
  let fr := s.draw
  let q := fr.2.port p
  let n := fr.1.toNat % (q.sent.length + 1)
  let tx := fr.2.get (portPage p) TRUNK.CELLS_TX.COUNT
  let gone := ((q.sent.drop n).filter (fun c => !c.quiet)).length
  let s := if tx < 2 ^ 32 - 1 then fr.2.put (portPage p) TRUNK.CELLS_TX.COUNT (tx - gone) else fr.2
  s.setPort p { q with sent := q.sent.take n, spill := q.sent.drop n ++ q.spill }

/-- A port that carries media or is in debounce goes down (R270, R272). -/
def State.portDown (s : State) (p : Nat) : State :=
  let st := s.portState p
  let s := s.setPortState p (if s.allUp p then 1 else 0)
  if 2 ≤ st then
    let s := s.raisePort p 13
    if p < 4 then (s.recall p).wrapSoon p else s
  else s

/-- A port that is down or waits follows the lanes: it waits to form while all are UP. -/
def State.portWait (s : State) (p : Nat) : State :=
  if s.portState p ≤ 1 then s.setPortState p (if s.allUp p then 1 else 0) else s

/-- What follows for the port and its time reference when a lane has left UP. -/
def State.leftUp (s : State) (l : Nat) : State :=
  ((s.raise (Page.lane l) 1).portDown (portOf l)).portActivity (portOf l)

/-! ### Transmitter FFE (R258, R259, R265) -/

/-- PRE and POST of the presets (R265). -/
def ffePresets : List (Nat × Nat) :=
  [(0, 0), (0, 4), (0, 8), (0, 12), (4, 0), (4, 8), (8, 8), (4, 16)]

/-- The preset that matches the coefficients, or 0xF. -/
def ffePreset (pre post : Nat) : Nat :=
  let i := ffePresets.findIdx (· == (pre, post))
  if i < 8 then i else 15

/-- The coefficients of a lane's transmitter set. -/
def State.setFfe (s : State) (l pre post : Nat) : State :=
  let pg := Page.lane l
  let s := s.put pg LANE.FFE_STAT.PRE pre
  let s := s.put pg LANE.FFE_STAT.POST post
  let s := s.put pg LANE.FFE_STAT.MAIN (64 - pre - post)
  s.put pg LANE.FFE_STAT.PRESET (ffePreset pre post)

/-- A preset taken. -/
def State.takePreset (s : State) (l i : Nat) : State :=
  let p := ffePresets.getD i (0, 0)
  s.setFfe l p.1 p.2

/-- One coefficient stepped by a request code (1 up, 2 down) within its limit, with the main tap kept
at 40 or more: the value and the answer. -/
def ffeStep (req cur other top : Nat) : Nat × Nat :=
  match req with
  | 0 => (cur, 0)
  | 1 => if cur + 1 ≤ top ∧ cur + 1 + other ≤ 24 then (cur + 1, 1) else (cur, 2)
  | 2 => if 0 < cur then (cur - 1, 1) else (cur, 2)
  | _ => (cur, 2)

/-- The answers for PRE and POST in FFE_STAT (R258). -/
def State.ffeAnswer (s : State) (l a b : Nat) : State :=
  s.setLane l { s.lane l with ffeAns := a * 64 + b * 16, ffeHeld := false }

/-- A request for a preset: each tap answers whether it changed (R258). -/
def State.ffeTakes (s : State) (l preset : Nat) : State :=
  let pg := Page.lane l
  let was : Nat × Nat := (s.get pg LANE.FFE_STAT.PRE, s.get pg LANE.FFE_STAT.POST)
  let p := ffePresets.getD preset (0, 0)
  (s.takePreset l preset).ffeAnswer l (if p.1 = was.1 then 0 else 1) (if p.2 = was.2 then 0 else 1)

/-- A request other than hold is acted on once; a reserved field is answered 0b10, and with one in the request
no coefficient changes (R258, R259). A reserved PRESET, or a preset beside a tap that is not at hold, has 0b10 in
both answers (DESIGN CHOICE, log entry 107). -/
def State.ffeAct (s : State) (l req : Nat) : State :=
  let pg := Page.lane l
  let pre := bits req 6 2
  let post := bits req 4 2
  let preset := req % 16
  if s.flag pg LANE.FFE_CTRL.TX_FIXED then s.ffeAnswer l 2 2
  else if preset = 15 ∧ (pre = 3 ∨ post = 3) then
    s.ffeAnswer l (if pre = 3 then 2 else 0) (if post = 3 then 2 else 0)
  else if preset = 15 then
    let p := ffeStep pre (s.get pg LANE.FFE_STAT.PRE) (s.get pg LANE.FFE_STAT.POST) 12
    let q := ffeStep post (s.get pg LANE.FFE_STAT.POST) p.1 24
    (s.setFfe l p.1 q.1).ffeAnswer l p.2 q.2
  else if preset < 8 ∧ pre = 0 ∧ post = 0 then s.ffeTakes l preset
  else s.ffeAnswer l 2 2

/-- FFE_REQ of a received TS block: a request is served at the first block that carries it after a
hold (R258). -/
def State.ffeServe (s : State) (l req : Nat) : State :=
  let ln := s.lane l
  if req % 256 = 15 then
    s.setLane l { ln with ffeHeld := true, ffeAns := 0 }
  else if ln.ffeHeld then s.ffeAct l req
  else s

/-- A hold in a valid TS block is noted in every phase; requests are served from ADAPT to CONFIRM (R258). -/
def State.ffeNote (s : State) (l req : Nat) : State := if req % 256 = 15 then s.ffeServe l req else s

/-- The receiver's own next request where it makes one: a step of either tap, or a preset. Which request it
makes, and when, is the receiver's adaptation and free; the code 0 to 15 leaves it at hold. -/
def ffeChoice (v : Nat) : Nat :=
  if v % 4 = 0 then 15
  else if v % 4 = 1 then v / 4 % 8
  else v / 4 % 3 * 64 + v / 16 % 3 * 16 + 15

/-- Whether a partner's FFE_STAT answers a request: an answer for either tap, or the preset asked for in use
(R258). -/
def ffeAnswered (req stat : Nat) : Bool :=
  stat / 16 % 16 != 0 || (decide (req % 16 < 8) && stat % 16 == req % 16)

/-- The requester's part of a TS block in ADAPT with FFE_STAT `stat` (R258, R259): a request stands until it is
answered; hold follows, and once the partner's status shows no answer another request may be made. -/
def State.ffeAsk (s : State) (l stat : Nat) : State :=
  let ln := s.lane l
  if s.phase l ≠ Phase.adapt then s
  else if s.flag (Page.lane l) LANE.FFE_CTRL.NEG_OFF then s.setLane l { ln with ffeReq := 15 }
  else if ln.ffeReq ≠ 15 then (if ffeAnswered ln.ffeReq stat then s.setLane l { ln with ffeReq := 15 } else s)
  else if stat / 16 % 16 ≠ 0 then s
  else
    let fr := s.draw
    fr.2.setLane l { ln with ffeReq := ffeChoice fr.1.toNat }

/-- FFE_CTRL as it stands after a write: with TX_FIXED at 1 the transmitter keeps INIT_PRESET, and with NEG_OFF at 1
no request stands (R259). -/
def State.ffeFixed (s : State) (l : Nat) : State :=
  let pg := Page.lane l
  let s := if s.flag pg LANE.FFE_CTRL.NEG_OFF then s.setLane l { s.lane l with ffeReq := 15 } else s
  if s.flag pg LANE.FFE_CTRL.TX_FIXED then s.takePreset l (s.get pg LANE.FFE_CTRL.INIT_PRESET) else s

/-! ### Attempts (R255 to R263) -/

/-- A beacon burst ends: the transmitter idles while beacons are on, and sleeps otherwise (R263). -/
def State.endBurst (s : State) (l : Nat) : State :=
  if (s.lane l).burst = 0 then s
  else (s.setLane l { s.lane l with burst := 0 }).put (Page.lane l) LANE.LANE_STAT.TX_STATE
    (if s.flag (Page.lane l) LANE.LANE_CTRL.BEACON then 1 else 2)

/-- A new attempt that will start at phase `first` (0xA: a test) waits for its grant (R255). -/
def State.startAttempt (s : State) (l first : Nat) : State :=
  let was := s.laneUp l
  let s := ((s.release Kind.laneTrain l).request Kind.laneTrain l).endBurst l
  let s := s.setLane l { s.lane l with trainFrom := first, confDone := false, hunting := false,
                                       ffeReq := 15 }
  let s := s.put (Page.lane l) LANE.TRAIN_INFO.BACKOFF_MS 0
  let s := s.setPhase l Phase.waitGrant
  if was then (s.bump (Page.lane l) LANE.RECOVERY_COUNT.RETRAIN).leftUp l else s

/-- An attempt of a new sequence. -/
def State.newSequence (s : State) (l first : Nat) : State :=
  (s.put (Page.lane l) LANE.TRAIN_INFO.ATTEMPT 0).startAttempt l first

/-- Alignment and header lock lost, as a hunt begins. -/
def State.loseAlign (s : State) (l : Nat) : State :=
  (s.putB (Page.lane l) LANE.LANE_STAT.ALIGNED false).setLane l
    { s.lane l with hdrs := [], hdrLock := false, seen := none, miss := 0 }

/-- The grant is given: the lane enters the phase at which its attempt starts, with its timers. -/
def State.enterTraining (s : State) (l : Nat) : State :=
  let first := (s.lane l).trainFrom
  let pg := Page.lane l
  if first = Phase.detect then
    let s := (s.putB pg LANE.LANE_STAT.CDR_LOCKED false).loseAlign l
    let s := s.takePreset l (s.get pg LANE.FFE_CTRL.INIT_PRESET)
    (s.setLane l { s.lane l with sd := 0, run := ⟨false, 0⟩ }).setPhase l Phase.detect
  else if first = Phase.cdrLock then
    ((s.putB pg LANE.LANE_STAT.CDR_LOCKED false).loseAlign l).setPhase l Phase.cdrLock
  else if first = Phase.test then
    (s.setLane l { s.lane l with gen := patStart (s.get pg LANE.TEST_CTRL.PATGEN) }).setPhase l Phase.test
  else s.setPhase l first

/-- A failed attempt (R262): counted, logged and recorded, then BACKOFF, or LISTEN after the sixth. -/
def State.trainFail (s : State) (l cause : Nat) : State :=
  let pg := Page.lane l
  let n := Nat.min 6 (s.get pg LANE.TRAIN_INFO.ATTEMPT + 1)
  let s := s.put pg LANE.TRAIN_INFO.FAIL_PHASE (s.phase l)
  let s := s.put pg LANE.TRAIN_INFO.FAIL_CAUSE cause
  let s := s.put pg LANE.TRAIN_INFO.ATTEMPT n
  let s := ((s.log pg 0x40).raise pg 2).release Kind.laneTrain l
  let s := (s.putB pg LANE.LANE_STAT.CDR_LOCKED false).loseAlign l
  let s := s.putB pg LANE.LANE_STAT.ENERGY false
  if 6 ≤ n then (s.setPhase l Phase.listen).raise pg 3
  else (s.put pg LANE.TRAIN_INFO.BACKOFF_MS (100 * 2 ^ (n - 1))).setPhase l Phase.backoff

/-- The lane reaches UP (R260): its grant is released. -/
def State.goUp (s : State) (l : Nat) : State :=
  let pg := Page.lane l
  let s := (s.setPhase l Phase.up).raise pg 0
  let s := s.release Kind.laneTrain l
  let s := s.put pg LANE.TRAIN_INFO.ATTEMPT 0
  let s := s.setLane l { s.lane l with miss := 0, confDone := false }
  (s.portWait (portOf l)).portActivity (portOf l)

/-- A lane goes to DISABLED: training stops in any phase and the transmitter idles (R255). -/
def State.laneDisable (s : State) (l : Nat) : State :=
  let was := s.laneUp l
  let pg := Page.lane l
  let s := (s.release Kind.laneTrain l).setLane l { s.lane l with burst := 0, hunting := false }
  let s := (s.putB pg LANE.LANE_STAT.CDR_LOCKED false).loseAlign l
  let s := s.putB pg LANE.LANE_STAT.ENERGY false
  let s := s.setPhase l Phase.disabled
  if was then s.leftUp l else s.portWait (portOf l)

/-- Whether TEST_CTRL holds a test (R273), and no return from RETENTION has put training in its place (R389). -/
def State.testing (s : State) (l : Nat) : Bool :=
  let pg := Page.lane l
  (s.get pg LANE.TEST_CTRL.PATGEN != 0 || s.get pg LANE.TEST_CTRL.PATCHK != 0
    || s.get pg LANE.TEST_CTRL.LOOPBACK != 0) && (s.lane l).trainFrom == Phase.test

/-- PAGE_CTRL.EN of a LANE page written (R255): training starts or stops; a test goes on. -/
def State.laneEnable (s : State) (l : Nat) (en : Bool) : State :=
  let pg := Page.lane l
  let was := s.enabled pg
  let s := s.putB pg HDR.PAGE_CTRL.EN en
  if !s.laneOn || was == en || s.testing l then s
  else if en then s.newSequence l Phase.detect
  else s.laneDisable l

/-- LANE_ENABLE. -/
def execLaneEnable (lane : Nat) (en : Bool) (s : State) : Host.Outcome State Fault Refusal :=
  .next (if 12 ≤ lane then s else s.ctrlWrite (Page.lane lane) (fun s => s.laneEnable lane en))

/-- LANE_CTRL.RETRAIN written with 1 (R255): it acts while EN is 1 and no test runs. -/
def State.laneRetrain (s : State) (l : Nat) : State :=
  if s.enabled (Page.lane l) && !s.testing l then s.newSequence l Phase.detect else s

/-- RETRAIN. -/
def execRetrain (lane : Nat) (s : State) : Host.Outcome State Fault Refusal :=
  .next (if 12 ≤ lane then s else s.blockWrite (Page.lane lane) (fun s => s.laneRetrain lane))

/-- LANE_TRAIN_GRANTED: the grant is held and the lane enters its first phase (R255). -/
def execLaneTrainGranted (lane : Nat) (s : State) : Host.Outcome State Fault Refusal :=
  .next (if lane < 12 ∧ s.laneOn ∧ s.phase lane = Phase.waitGrant ∧ s.holds Kind.laneTrain lane then
    s.enterTraining lane
  else s)

/-- The equaliser as the receiver finds or tracks it (R266): the CTLE setting, the DFE and the eye are free, the
eye from `h` steps of height and `w` of width up. -/
def State.equalise (s : State) (l eyeH eyeW : Nat) : State :=
  let fr := s.draw
  let v := fr.1.toNat
  let dfe := fr.2.draw
  let pg := Page.lane l
  let s := dfe.2.put pg LANE.RXEQ_STAT.CTLE (v % 32)
  let s := s.put pg LANE.RXEQ_STAT.EYE_H (eyeH + v / 32 % (256 - eyeH))
  let s := s.put pg LANE.RXEQ_STAT.EYE_W (eyeW + v / 65536 % (256 - eyeW))
  s.setLane l { s.lane l with dfe := dfe.1.toNat }

/-- The lane finishes ADAPT with an eye that meets its criterion, 40 mV by 0.25 UI (R266). -/
def State.adaptDone (s : State) (l : Nat) : State :=
  let s := s.equalise l 20 16
  (s.setLane l { s.lane l with confDone := false, afterMark := false }).setPhase l Phase.confirm

/-- The rate offset that a receiver measures within its tracking range of ±200 ppm, free (R264). -/
def State.freqTrack (s : State) (l : Nat) : State :=
  let fr := s.draw
  fr.2.putI (Page.lane l) LANE.FREQ_OFF.PPB ((fr.1.toNat % 102400001 : Nat) - 51200000)

/-- Clock recovery locks: the received rate is measured, and the lane looks for block alignment. -/
def State.cdrLocks (s : State) (l : Nat) : State :=
  (((s.putB (Page.lane l) LANE.LANE_STAT.CDR_LOCKED true).freqTrack l).loseAlign l).setPhase l Phase.blockLock

/-- TRAIN_PHASE_ADVANCE: a phase meets its end condition (R256). Energy, clock recovery and the eye
are measured outside the model; alignment is the model's. -/
def execTrainPhaseAdvance (lane : Nat) (s : State) : Host.Outcome State Fault Refusal :=
  .next (if 12 ≤ lane ∨ s.laneOn = false then s
  else
    let pg := Page.lane lane
    match s.phase lane with
    | 2 => (s.putB pg LANE.LANE_STAT.ENERGY true).setPhase lane Phase.cdrLock
    | 3 => s.cdrLocks lane
    | 4 => if s.aligned lane then s.setPhase lane Phase.adapt else s
    | 5 => if (s.lane lane).ffeReq = 15 then s.adaptDone lane else s
    | _ => s)

/-- CONFIRM_COUNT_DONE: 1 ms error-free has been counted (R260). -/
def execConfirmCountDone (lane : Nat) (s : State) : Host.Outcome State Fault Refusal :=
  .next (if lane < 12 ∧ s.laneOn ∧ s.phase lane = Phase.confirm then
    s.setLane lane { s.lane lane with confDone := true }
  else s)

/-- Whether an attempt runs its timers: DETECT to CONFIRM. -/
def State.training (s : State) (l : Nat) : Bool := decide (2 ≤ s.phase l ∧ s.phase l ≤ 6)

/-- TRAIN_PHASE_TIMEOUT (R256). -/
def execTrainPhaseTimeout (lane : Nat) (s : State) : Host.Outcome State Fault Refusal :=
  .next (if lane < 12 ∧ s.laneOn ∧ s.training lane then s.trainFail lane 1 else s)

/-- TRAIN_TOTAL_TIMEOUT (R256). -/
def execTrainTotalTimeout (lane : Nat) (s : State) : Host.Outcome State Fault Refusal :=
  .next (if lane < 12 ∧ s.laneOn ∧ s.training lane then s.trainFail lane 2 else s)

/-- The phase at which an attempt from BACKOFF or LISTEN starts: TEST while TEST_CTRL holds a test (R273). -/
def State.firstPhase (s : State) (l : Nat) : Nat := if s.testing l then Phase.test else Phase.detect

/-- The next attempt of a sequence, from BACKOFF. -/
def State.nextAttempt (s : State) (l : Nat) : State := s.startAttempt l (s.firstPhase l)

/-- BACKOFF_EXPIRY: the wait ends and the next attempt starts (R262). -/
def execBackoffExpiry (lane : Nat) (s : State) : Host.Outcome State Fault Refusal :=
  .next (if lane < 12 ∧ s.laneOn ∧ s.phase lane = Phase.backoff then s.nextAttempt lane else s)

/-- ENERGY_DETECT: receive energy for 10 µs ends a back-off with the count kept, or LISTEN with the
count cleared (R262, R263). -/
def execEnergyDetect (lane : Nat) (s : State) : Host.Outcome State Fault Refusal :=
  .next (if 12 ≤ lane ∨ s.laneOn = false then s
  else
    let pg := Page.lane lane
    let s := if s.get pg LANE.LANE_STAT.RX_STATE ≤ 1 then s.putB pg LANE.LANE_STAT.ENERGY true else s
    if s.phase lane = Phase.backoff then s.nextAttempt lane
    else if s.phase lane = Phase.listen then (s.raise pg 10).newSequence lane (s.firstPhase lane)
    else s)

/-- BEACON_BURST: a lane in LISTEN with beacons on sends the skeleton for 8 link cycles (R263). -/
def execBeaconBurst (lane : Nat) (s : State) : Host.Outcome State Fault Refusal :=
  .next (if lane < 12 ∧ s.laneOn ∧ s.phase lane = Phase.listen
      ∧ s.flag (Page.lane lane) LANE.LANE_CTRL.BEACON then
    (s.setLane lane { s.lane lane with burst := 9 }).put (Page.lane lane) LANE.LANE_STAT.TX_STATE 0
  else s)

/-- Whether clock recovery is still locked as a mechanism takes a lane over: a physical fact that no
command brings, taken from a free value (R271, R272). -/
def State.cdrStill (s : State) (l : Nat) : Bool × State :=
  let fr := s.draw
  let b := fr.1.getLsbD 0 && fr.2.flag (Page.lane l) LANE.LANE_STAT.CDR_LOCKED
  (b, fr.2.putB (Page.lane l) LANE.LANE_STAT.CDR_LOCKED b)

/-- Training of a lane that the upper mechanism owns: from ADAPT while clock recovery is locked, and
from CDR_LOCK otherwise (R271, R272). -/
def State.lostTraining (s : State) (l : Nat) : State :=
  let c := s.cdrStill l
  c.2.newSequence l (if c.1 then Phase.adapt else Phase.cdrLock)

/-- SPUR_HUNT_TIMEOUT: a spur lane has hunted 10 ms without realigning and trains (R272). -/
def execSpurHuntTimeout (lane : Nat) (s : State) : Host.Outcome State Fault Refusal :=
  .next (if 8 ≤ lane ∧ lane < 12 ∧ s.laneOn ∧ (s.lane lane).hunting then s.lostTraining lane else s)

/-! ### Trunk forming (R269, R270) -/

/-- A signed skew as SKEW shows it; beyond 16 bits the spec states no value. -/
def State.putSkew (s : State) (l : Nat) (z : Int) : State :=
  if -32768 ≤ z ∧ z ≤ 32767 then s.putI (Page.lane l) LANE.SKEW.BITS z
  else (s.draw.2).put (Page.lane l) LANE.SKEW.BITS (s.draw.1.toNat % 65536)

/-- Whether the lanes of a port meet the conditions of R269 besides their skew. -/
def State.formReady (s : State) (p : Nat) : Bool :=
  if p < 4 then
    let a := Page.lane (2 * p)
    let b := Page.lane (2 * p + 1)
    s.allUp p && s.get a LANE.PARTNER.NODE_ID == s.get b LANE.PARTNER.NODE_ID &&
      s.get a LANE.LANE_STAT.PARTNER_LIDX + s.get b LANE.LANE_STAT.PARTNER_LIDX == 1
  else s.allUp p

/-- One marker of cycle `c` valid on every lane of the port, within the skew limit where `ok`: the
forming of R269 starts, goes on, completes or starts again. -/
def State.formStep (s : State) (p c : Nat) (ok : Bool) : State :=
  let pt := s.port p
  let ok := ok && s.formReady p
  match s.portState p with
  | 2 =>
    if ok && decide (c = (pt.form + pt.deb + 1) % 2 ^ 32) then
      let s := s.setPort p { pt with deb := pt.deb + 1 }
      if pt.deb + 1 = 16 then (s.setPortState p 3).raisePort p 12 else s
    else if ok then s.setPort p { pt with form := c, deb := 0 }
    else s.setPortState p (if s.allUp p then 1 else 0)
  | 3 => s
  | _ => if ok then (s.setPort p { pt with form := c, deb := 0 }).setPortState p 2 else s

/-- A port in debounce that missed a marker waits to form again (R269). -/
def State.formMiss (s : State) (p : Nat) : State :=
  if s.portState p = 2 then s.setPortState p (if s.allUp p then 1 else 0) else s

/-- The skew of lane `l`'s last marker against the marker of the same cycle on the other lane of its
trunk, where that has arrived. -/
def State.pairSkew (s : State) (l : Nat) (m : RxMarker) : Option Int :=
  if isSpur l then none
  else match (s.lane (mate l)).marks with
    | o :: _ => if o.cyc = m.cyc then some ((m.arr : Int) - o.arr) else none
    | [] => none

/-! ### Missing markers (R254, R270 to R272) -/

/-- A missing marker on an aligned lane: counted, the debounce fails, and the fourth in a row takes a
trunk lane to training and a spur to its hunt. -/
def State.markerMiss (s : State) (l : Nat) : State :=
  let pg := Page.lane l
  let ln := s.lane l
  let s := (s.bump pg LANE.MARKER_MISS_COUNT.COUNT).raise pg 4
  let s := s.setLane l { ln with miss := ln.miss + 1, due := (ln.due + 1) % 2 ^ 32,
                                 confDone := false, afterMark := false }
  let s := s.formMiss (portOf l)
  if s.laneUp l ∧ ln.miss + 1 = 4 then
    if isSpur l then
      (((s.putB pg LANE.LANE_STAT.ALIGNED false).portDown (portOf l)).setLane l
        { s.lane l with hunting := true, seen := none }).portActivity (portOf l)
    else s.lostTraining l
  else s

/-- Whether a lane receives blocks: clock recovery locked, in WAIT_GRANT or from BLOCK_LOCK to UP. -/
def State.receives (s : State) (l : Nat) : Bool :=
  decide (l < 12) && s.laneOn && s.flag (Page.lane l) LANE.LANE_STAT.CDR_LOCKED &&
    (s.phase l == 1 || decide (4 ≤ s.phase l ∧ s.phase l ≤ 7))

/-- MARKER_MISSING: the slot of the expected marker passes without it (R254). -/
def execMarkerMissing (lane : Nat) (s : State) : Host.Outcome State Fault Refusal :=
  .next (if s.receives lane && s.aligned lane then s.markerMiss lane else s)

/-! ### Blocks received -/

/-- A block with a valid header counts for header lock and for the distance between markers (R252,
R253). Every block of the lane passes here, cells too. -/
def State.goodHeader (s : State) (l : Nat) : State :=
  let ln := s.lane l
  let h := (true :: ln.hdrs).take 64
  s.setLane l { ln with
    hdrs := h
    hdrLock := ln.hdrLock || (isSpur l && decide (h.length = 64) && h.all id)
    seen := ln.seen.map (fun e => (e.1, e.2 + 1)) }

/-- A block other than TS1 and TS2 that follows a valid marker takes a lane that has counted 1 ms in
CONFIRM to UP (R260). -/
def State.trafficSeen (s : State) (l : Nat) : State :=
  let ln := s.lane l
  let s := s.setLane l { ln with afterMark := false }
  if s.phase l = Phase.confirm ∧ ln.confDone ∧ ln.afterMark then s.goUp l else s

/-- An invalid control block: counted and discarded; CONFIRM counts afresh (R246, R260). -/
def State.badControl (s : State) (l : Nat) : State :=
  (s.bump (Page.lane l) LANE.CTL_ERR_COUNT.COUNT).setLane l
    { s.lane l with confDone := false, afterMark := false }

/-- Whether the lane reads whole blocks: it is aligned, or a spur lane holds header lock (R252, R253). -/
def State.readsBlocks (s : State) (l : Nat) : Bool := s.aligned l || (isSpur l && (s.lane l).hdrLock)

/-- A control block of another kind than a marker: `f` where the lane reads blocks and the block is valid. -/
def State.rxControl (s : State) (l : Nat) (ok : Bool) (f : State → State) : State :=
  if !s.receives l then s
  else
    let s := s.goodHeader l
    if !s.readsBlocks l then s else if ok then f s else s.badControl l

/-- A cell block on lane `l`: a valid header, and a block other than TS1 and TS2 (R253, R260). -/
def State.cellHeader (s : State) (l : Nat) : State :=
  if !s.receives l then s
  else
    let s := s.goodHeader l
    if s.readsBlocks l then s.trafficSeen l else s

/-- The fields of a descrambled marker that arrives at line bit `arr`. -/
def markerOf (b : Body) (arr : Nat) : RxMarker :=
  { cyc := bodyField b 64 32, mnt := bodyField b 96 32
    corr := (BitVec.ofNat 48 (bodyField b 128 48)).toInt
    master := bodyField b 176 16, ql := bodyField b 192 4, flags := bodyField b 196 16
    src := bodyField b 212 16, lidx := bodyField b 48 4, arr := arr }

/-- What a valid marker shows of the partner. -/
def State.markerPartner (s : State) (l : Nat) (m : RxMarker) : State :=
  let pg := Page.lane l
  let pp := portPage (portOf l)
  let s := s.put pg LANE.LANE_STAT.PARTNER_LIDX m.lidx
  let s := s.putB pg LANE.LANE_STAT.PARTNER_RX_UP (m.flags.testBit 15)
  let s := s.putB pp TRUNK.PORT_STAT.PARTNER_WRAP (m.flags.testBit 13)
  s.putB pp TRUNK.PORT_STAT.PARTNER_INS (m.flags.testBit 12)

/-- The port's part of a valid marker: skew and forming (R269). -/
def State.markerForm (s : State) (l : Nat) (m : RxMarker) : State :=
  if isSpur l then s.formStep (portOf l) m.cyc true
  else match s.pairSkew l m with
    | none => s
    | some z => ((s.putSkew l z).putSkew (mate l) (-z)).formStep (portOf l) m.cyc (z.natAbs ≤ 8192)

/-- A valid marker in its place: alignment goes on, a run of misses ends, and the marker feeds the
port and the time logic. -/
def State.markerTake (s : State) (l : Nat) (m : RxMarker) : State :=
  let ln := s.lane l
  let s := if 0 < ln.miss ∧ s.laneUp l then s.bump (Page.lane l) LANE.RECOVERY_COUNT.RELOCK else s
  let s := s.setLane l { ln with
    miss := 0, due := (m.cyc + 1) % 2 ^ 32, marks := (m :: ln.marks).take 3, afterMark := true,
    hunting := false, seen := none }
  let s := (s.markerPartner l m).portActivity (portOf l)
  (s.markerForm l m).markerTime l m

/-- A valid marker whose skew exceeds the limit: SKEW_ERR, and it counts as missing on the lane on which it
arrives later (R270). -/
def State.markerSkewed (s : State) (l : Nat) (m : RxMarker) (z : Int) : State :=
  let ln := s.lane l
  let s := (s.putSkew l z).putSkew (mate l) (-z)
  let s := s.raise (Page.lane l) 6
  (s.setLane l { ln with marks := (m :: ln.marks).take 3 }).markerMiss l

/-- A valid marker on an aligned lane: one with the expected CYCLE is taken, any other counts as a
missing marker (R254, R335). -/
def State.markerAligned (s : State) (l : Nat) (m : RxMarker) : State :=
  if m.cyc ≠ (s.lane l).due then s.markerMiss l
  else match s.pairSkew l m with
    | some z =>
      if 8192 < z then s.markerSkewed l m z else s.markerTake l m
    | none => s.markerTake l m

/-- A valid marker on a lane that hunts: a trunk lane aligns on the second of two consecutive ones
(R252), a header-locked spur lane on one (R253). -/
def State.markerHunt (s : State) (l : Nat) (m : RxMarker) : State :=
  let ln := s.lane l
  let ok := if isSpur l then ln.hdrLock
    else match ln.seen with
      | some (c, n) => decide (m.cyc = (c + 1) % 2 ^ 32 ∧ n ≤ 1024)
      | none => false
  if ok then (s.putB (Page.lane l) LANE.LANE_STAT.ALIGNED true).markerTake l m
  else s.setLane l { ln with seen := some (m.cyc, 0) }

/-- Whether the receive pair is inverted at the block level: RX_INVERTED, or RX_POL while AUTO_POL
is 0. -/
def State.rxInverts (s : State) (l : Nat) : Bool :=
  let pg := Page.lane l
  if s.flag pg LANE.LANE_CTRL.AUTO_POL then s.flag pg LANE.LANE_STAT.RX_INVERTED
  else s.flag pg LANE.LANE_CTRL.RX_POL

/-- A marker block as it arrives, body bits 64 on still scrambled (R248, R252). -/
def State.markerReceive (s : State) (l : Nat) (body : Body) (arrive : Nat) : State :=
  if !s.receives l then s
  else
    let pg := Page.lane l
    let s := s.goodHeader l
    let raw := if s.rxInverts l then ~~~body else body
    if !s.aligned l && s.flag pg LANE.LANE_CTRL.AUTO_POL && markerHead (~~~raw) then
      s.putB pg LANE.LANE_STAT.RX_INVERTED (!s.flag pg LANE.LANE_STAT.RX_INVERTED)
    else
      let b := descramble raw
      if markerOk b then
        let m := markerOf b (s.lineBits arrive)
        if s.aligned l then s.markerAligned l m else s.markerHunt l m
      else if s.aligned l then (s.badControl l).markerMiss l
      else if s.readsBlocks l then s.badControl l
      else s

/-- MARKER_RECEIVE: `arrive` is in line bits at ÷1 after the present nominal start. -/
def execMarkerReceive (lane : Nat) (body : Body) (arrive : Nat) (s : State) :
    Host.Outcome State Fault Refusal :=
  .next (s.markerReceive lane body arrive)

/-- IDLE_RECEIVE: bit errors of a valid idle block are counted (R246). -/
def execIdleReceive (lane : Nat) (body : Body) (s : State) : Host.Outcome State Fault Refusal :=
  .next (s.rxControl lane (ctlOk body Ctl.idle false) (fun s =>
    (s.bump (Page.lane lane) LANE.IDLE_ERR_COUNT.COUNT (ones body.toNat 190)).trafficSeen lane))

/-- PARTNER as the last valid TS block gives it, and the partner node of the port. -/
def State.tsPartner (s : State) (l : Nat) (b : Body) : State :=
  let pg := Page.lane l
  let pp := portPage (portOf l)
  let node := bodyField b 72 16
  let s := s.put pg LANE.PARTNER.NODE_ID node
  let s := s.put pg LANE.PARTNER.KIND (bodyField b 68 2)
  let s := s.put pg LANE.PARTNER.INDEX (bodyField b 70 2)
  let s := s.put pg LANE.PARTNER.RATE (bodyField b 88 2)
  (s.put pp TRUNK.PORT_STAT.PARTNER_NODE node).putB pp TRUNK.PORT_STAT.SELF (node == s.nodeId)

/-- The checks of R257 and the FFE service of R258 in ADAPT and CONFIRM; `f` where they pass. -/
def State.tsServe (s : State) (l : Nat) (b : Body) (f : State → State) : State :=
  if s.phase l = Phase.adapt ∨ s.phase l = Phase.confirm then
    if bodyField b 68 2 ≠ (if isSpur l then 1 else 0) then s.trainFail l 3
    else if bodyField b 88 2 ≠ s.get (Page.lane l) LANE.LANE_CTRL.RATE then s.trainFail l 4
    else f ((s.ffeServe l (bodyField b 96 8)).ffeAsk l (bodyField b 104 8))
  else s.ffeNote l (bodyField b 96 8)

/-- A TS block ends the wait for traffic after a marker. -/
def State.noTraffic (s : State) (l : Nat) : State :=
  s.setLane l { s.lane l with afterMark := false }

/-- TS1_RECEIVE: a lane in UP leaves it and retrains; in ADAPT and CONFIRM the block is checked and
its FFE request served (R257, R258, R261). -/
def execTs1Receive (lane : Nat) (body : Body) (s : State) : Host.Outcome State Fault Refusal :=
  .next (s.rxControl lane (ctlOk body Ctl.ts1 true) (fun s =>
    let s := (s.noTraffic lane).tsPartner lane body
    if s.laneUp lane then
      s.newSequence lane (if s.aligned lane then Phase.adapt else Phase.cdrLock)
    else s.tsServe lane body id))

/-- TS2_RECEIVE: ignored in UP; with CONF_DONE it takes a lane that has counted 1 ms to UP (R260,
R261). -/
def execTs2Receive (lane : Nat) (body : Body) (s : State) : Host.Outcome State Fault Refusal :=
  .next (s.rxControl lane (ctlOk body Ctl.ts2 true) (fun s =>
    let s := s.noTraffic lane
    if s.laneUp lane then s
    else (s.tsPartner lane body).tsServe lane body (fun s =>
      if s.phase lane = Phase.confirm ∧ (s.lane lane).confDone ∧ bodyField body 90 1 = 1 then
        s.goUp lane else s)))

/-- A returned loop-test block of this node (R277). -/
def State.loopReturned (s : State) (l : Nat) (token : Word) : State :=
  let pg := Page.lane l
  let s := s.putB pg LANE.LT_STAT.PENDING false
  let s := s.put pg LANE.LT_RET.TOKEN token.toNat
  let s := s.putB pg LANE.LT_STAT.DONE true
  let s := s.putB pg LANE.LT_STAT.MATCH (token.toNat == s.get pg LANE.LT_TOKEN.TOKEN)
  s.raise pg 8

/-- LOOP_TEST_RECEIVE: an outbound block is returned once, an own returned block ends the test, any
other is discarded (R277). -/
def execLoopTestReceive (lane : Nat) (body : Body) (s : State) : Host.Outcome State Fault Refusal :=
  .next (s.rxControl lane (ctlOk body Ctl.loopTest true) (fun s =>
    let s := s.trafficSeen lane
    let origin := bodyField body 72 16
    let token := Word.ofNat (bodyField body 88 32)
    if bodyField body 64 1 = 0 then
      s.setLane lane { s.lane lane with loops := (s.lane lane).loops ++ [⟨true, origin, token⟩] }
    else if origin = s.nodeId then s.loopReturned lane token
    else s))

/-- A spur lane loses header lock (R253, R272). -/
def State.headerLoss (s : State) (l : Nat) : State :=
  let s := (s.raise (Page.lane l) 5).loseAlign l
  if s.laneUp l then
    ((s.portDown (portOf l)).setLane l { s.lane l with hunting := true }).portActivity (portOf l)
  else s

/-- INVALID_HEADER: counted; CONFIRM counts afresh; a spur lane moves its candidate boundary or loses
header lock at 16 of 64 (R253, R260). -/
def execInvalidHeader (lane : Nat) (s : State) : Host.Outcome State Fault Refusal :=
  .next (if s.receives lane = false then s
  else
    let ln := s.lane lane
    let s := s.bump (Page.lane lane) LANE.HDR_ERR_COUNT.COUNT
    let h := if ln.hdrLock then (false :: ln.hdrs).take 64 else []
    let s := s.setLane lane { ln with
      hdrs := h, confDone := false, afterMark := false, seen := ln.seen.map (fun e => (e.1, e.2 + 1)) }
    if ln.hdrLock ∧ 16 ≤ (h.filter (· == false)).length then s.headerLoss lane else s)

/-! ### Lane tests (R273 to R277) -/



/-- The bits that the checker has compared, up to now. -/
def State.chkCount (s : State) (l : Nat) : Nat :=
  let ln := s.lane l
  if s.flag (Page.lane l) LANE.CHK_STAT.LOCKED then
    ln.chkBits + (s.time.phase - ln.chkFrom) * 8 / s.laneRate l
  else ln.chkBits

/-- The checker's lock set or lost, with the count settled. -/
def State.setChkLock (s : State) (l : Nat) (b : Bool) : State :=
  let n := s.chkCount l
  (s.setLane l { s.lane l with chkBits := n % 2 ^ 64, chkFrom := s.time.phase }).putB (Page.lane l)
    LANE.CHK_STAT.LOCKED b

/-- CHK_RESTART: the search starts again and CHK_BITS is cleared (R274). -/
def State.chkRestart (s : State) (l : Nat) : State :=
  let s := s.setChkLock l false
  s.setLane l { s.lane l with chkBits := 0 }

def execChkRestart (lane : Nat) (s : State) : Host.Outcome State Fault Refusal :=
  .next (if 12 ≤ lane then s else s.blockWrite (Page.lane lane) (fun s => s.chkRestart lane))

/-- The accepted fields of a TEST_CTRL write. -/
def State.testFields (s : State) (l v : Nat) : State :=
  let pg := Page.lane l
  let s := if bits v 4 3 ≠ s.get pg LANE.TEST_CTRL.PATCHK then s.setChkLock l false else s
  let s := if bits v 0 3 ≠ s.get pg LANE.TEST_CTRL.PATGEN then
    s.setLane l { s.lane l with gen := patStart (bits v 0 3) } else s
  let s := s.put pg LANE.TEST_CTRL.PATGEN (bits v 0 3)
  let s := s.put pg LANE.TEST_CTRL.PATCHK (bits v 4 3)
  let s := s.put pg LANE.TEST_CTRL.LOOPBACK (bits v 8 2)
  if v.testBit 10 then s.chkRestart l else s

/-- A lane leaves a test, to a new attempt or to DISABLED (R273). -/
def State.testLeave (s : State) (l : Nat) : State :=
  let s := s.setChkLock l false
  if s.enabled (Page.lane l) then s.newSequence l Phase.detect
  else ((s.release Kind.laneTrain l).endBurst l).setPhase l Phase.disabled

/-- TEST_CTRL written (R273). -/
def State.testCtrl (s : State) (l v : Nat) : State :=
  let ph := s.phase l
  let inTest := s.testing l
  if 4 < bits v 0 3 ∨ 4 < bits v 4 3 then s.log (Page.lane l) Code.range
  else if bits v 0 3 = 0 ∧ bits v 4 3 = 0 ∧ bits v 8 2 = 0 then
    let s := s.testFields l v
    if inTest then s.testLeave l else s
  else if ph = Phase.test then s.testFields l v
  else if ph = Phase.disabled ∨ ph = Phase.listen then
    (s.testFields l v).startAttempt l Phase.test
  else s.log (Page.lane l) Code.refused

def execTestCtrlWrite (lane : Nat) (value : Word) (s : State) : Host.Outcome State Fault Refusal :=
  .next (if 12 ≤ lane then s
  else s.blockWrite (Page.lane lane) (fun s => s.testCtrl lane value.toNat))

/-- Whether the checker receives the lane's own pattern: a near-end loopback with a generator that runs (R276). -/
def State.ownPattern (s : State) (l : Nat) : Bool :=
  let pg := Page.lane l
  (s.get pg LANE.TEST_CTRL.LOOPBACK == 1 || s.get pg LANE.TEST_CTRL.LOOPBACK == 2) &&
    s.get pg LANE.TEST_CTRL.PATGEN != 0

/-- Whether the generator's bits are correct for the checker: the same pattern; and a user pattern of zeros obeys
the law of every PRBS, whose checker loads its state from what it receives (R274). -/
def State.patternFits (s : State) (l : Nat) : Bool :=
  let pg := Page.lane l
  let gen := s.get pg LANE.TEST_CTRL.PATGEN
  gen == s.get pg LANE.TEST_CTRL.PATCHK || (gen == 4 && s.userPat l == 0)

/-- CHK_LOCKED: the checker locks, on the lane's own pattern where that fits alone (R274, R276). -/
def execChkLocked (lane : Nat) (s : State) : Host.Outcome State Fault Refusal :=
  .next (if lane < 12 ∧ s.laneOn ∧ s.phase lane = Phase.test
      ∧ s.get (Page.lane lane) LANE.TEST_CTRL.PATCHK ≠ 0
      ∧ (s.ownPattern lane = true → s.patternFits lane = true) then s.setChkLock lane true else s)

/-- The checker loses its lock and searches again (R274). -/
def State.chkLost (s : State) (l : Nat) : State := (s.setChkLock l false).raise (Page.lane l) 7

/-- CHK_LOCK_LOST: the 64th wrong bit within 1,024 loses the lock (R274). Wrong bits of this cycle that no command
has brought count with it: at least 64 from a line, and in a loopback of the lane's own pattern those that are not
injected, whose number is free. -/
def execChkLockLost (lane : Nat) (s : State) : Host.Outcome State Fault Refusal :=
  .next (if lane < 12 ∧ s.laneOn ∧ s.flag (Page.lane lane) LANE.CHK_STAT.LOCKED then
    let fr := s.draw
    let own := s.ownPattern lane && s.patternFits lane
    (fr.2.bump (Page.lane lane) LANE.CHK_ERR_COUNT.COUNT
      (if own then fr.1.toNat % 65 else 64 + fr.1.toNat % (16128 / s.laneRate lane))).chkLost lane
  else s)

/-- A read of CHK_BITS_LO latches CHK_BITS_HI (R274). -/
def State.chkLatch (s : State) (l : Nat) : State :=
  (s.put (Page.lane l) LANE.CHK_BITS_HI.BITS (s.chkCount l / 2 ^ 32)).put (Page.lane l)
    LANE.CHK_BITS_LO.BITS (s.chkCount l)

/-- CHK_BITS_LO_READ. -/
def execChkBitsLoRead (lane : Nat) (s : State) : Host.Outcome State Fault Refusal :=
  .next (if 12 ≤ lane then s
  else s.blockRead (Page.lane lane) (fun s =>
    let s := s.chkLatch lane
    { s with readData := [Word.ofNat (s.get (Page.lane lane) LANE.CHK_BITS_LO.BITS)] }))

/-- Whether errors can be injected (R275): every training phase, UP and TEST. -/
def State.injectable (s : State) (l : Nat) : Bool :=
  decide (2 ≤ s.phase l ∧ s.phase l ≤ 7) || s.phase l == Phase.test

/-- The wrong bits that an injection of `n` bits makes in the checker of a near-end loopback; 64 of them in one
burst lose its lock (R274, R276). -/
def State.injectWrong (s : State) (l n : Nat) : State :=
  let pg := Page.lane l
  if s.phase l = Phase.test ∧ s.flag pg LANE.CHK_STAT.LOCKED ∧ s.ownPattern l ∧ s.patternFits l then
    let s := s.bump pg LANE.CHK_ERR_COUNT.COUNT n
    if 64 ≤ n then s.chkLost l else s
  else s

/-- One injection (R275): line bits inverted; in a near-end loopback of the pattern checked they are
wrong bits of the checker. -/
def State.inject (s : State) (l : Nat) : State :=
  let pg := Page.lane l
  let n := if s.get pg LANE.INJ_CTRL.KIND = 1 then s.get pg LANE.INJ_CTRL.BURST_LEN + 1 else 1
  let fr := s.draw
  let i : Inject := ⟨s.get pg LANE.INJ_CTRL.KIND == 2, n, fr.1.toNat⟩
  (fr.2.setLane l { s.lane l with
    injBits := (s.lane l).injBits + n, injs := (s.lane l).injs ++ [i] }).injectWrong l n

/-- INJ_CTRL written (R275). -/
def State.injCtrl (s : State) (l v : Nat) : State :=
  let pg := Page.lane l
  if bits v 0 2 = 3 then s.log pg Code.range
  else if v.testBit 8 ∧ bits v 0 2 = 2 ∧ s.phase l = Phase.test then s.log pg Code.range
  else
    let s := s.put pg LANE.INJ_CTRL.KIND (bits v 0 2)
    let s := s.put pg LANE.INJ_CTRL.BURST_LEN (bits v 2 6)
    let s := s.put pg LANE.INJ_CTRL.PERIOD (bits v 16 16)
    let go := v.testBit 8 && s.injectable l
    let on := decide (bits v 16 16 ≠ 0) && (go || (s.lane l).injOn)
    let s := s.setLane l { s.lane l with injOn := on }
    if go then s.inject l else s

def execInjGo (lane : Nat) (value : Word) (s : State) : Host.Outcome State Fault Refusal :=
  .next (if 12 ≤ lane then s
  else s.blockWrite (Page.lane lane) (fun s => s.injCtrl lane (value.toNat ||| 0x100)))

/-- INJ_PERIOD: PERIOD blocks have passed and the injection repeats; of a header in TEST it is ignored and logs
RANGE (R275). -/
def execInjPeriod (lane : Nat) (s : State) : Host.Outcome State Fault Refusal :=
  .next (if lane < 12 ∧ s.laneOn ∧ (s.lane lane).injOn ∧ s.injectable lane then
    if s.phase lane = Phase.test ∧ s.get (Page.lane lane) LANE.INJ_CTRL.KIND = 2 then
      s.log (Page.lane lane) Code.range
    else s.inject lane
  else s)

/-- LT_CTRL.SEND (R277): a loop-test block is queued; refused while one is pending or outside UP. -/
def State.ltSend (s : State) (l : Nat) : State :=
  let pg := Page.lane l
  if s.flag pg LANE.LT_STAT.PENDING || !s.laneUp l then s.log pg Code.refused
  else
    let t := Word.ofNat (s.get pg LANE.LT_TOKEN.TOKEN)
    let s := s.setLane l { s.lane l with loops := (s.lane l).loops ++ [⟨false, s.nodeId, t⟩] }
    let s := s.putB pg LANE.LT_STAT.DONE false
    (s.putB pg LANE.LT_STAT.MATCH false).putB pg LANE.LT_STAT.PENDING true

def execLtSend (lane : Nat) (s : State) : Host.Outcome State Fault Refusal :=
  .next (if 12 ≤ lane then s else s.blockWrite (Page.lane lane) (fun s => s.ltSend lane))

/-- LT_TIMEOUT: 16 link cycles pass with a loop test pending (R277). -/
def execLtTimeout (lane : Nat) (s : State) : Host.Outcome State Fault Refusal :=
  .next (if lane < 12 ∧ s.laneOn ∧ s.flag (Page.lane lane) LANE.LT_STAT.PENDING then
    (s.putB (Page.lane lane) LANE.LT_STAT.PENDING false).raise (Page.lane lane) 9
  else s)

/-! ### A lane at a nominal start (R247 to R251, R256, R263, R264, R266, R278) -/

/-- The marker of the cycle that starts, and in UP the time exchange (R278, R328, R329). -/
def State.sendMarker (s : State) (l : Nat) : State :=
  let mk := s.makeMarker l
  let s := mk.2
  let ln := s.lane l
  let ex := if s.laneUp l then some (s.makeExchange l mk.1) else none
  s.setLane l { ln with txMark := some mk.1, exch := ex, traf := s.laneUp l
                        deps := ((mk.1.cyc, mk.1.dep) :: ln.deps).take 16 }

/-- The checker in the cycle that ends (R274): its count is settled; while it is locked, wrong bits that the line
brings count, fewer than 64 in any 1,024. No command brings them, so their number is free; a parallel loopback of
the pattern checked has no line and brings none but the injected ones (R276). -/
def State.chkCycle (s : State) (l : Nat) : State :=
  let pg := Page.lane l
  let ln := s.lane l
  if s.flag pg LANE.CHK_STAT.LOCKED then
    let s := s.setLane l { ln with
      chkBits := (ln.chkBits + (32768 - ln.chkFrom) * 8 / s.laneRate l) % 2 ^ 64, chkFrom := 0 }
    if s.get pg LANE.TEST_CTRL.LOOPBACK = 2 ∧ s.ownPattern l ∧ s.patternFits l then s
    else
      let fr := s.draw
      fr.2.bump pg LANE.CHK_ERR_COUNT.COUNT (fr.1.toNat % (16128 / s.laneRate l + 1))
  else s

/-- Whether the frequency measurements of the port's reference give FREQ_OFF of this lane (R264, R309). -/
def State.refMeasures (s : State) (l : Nat) : Bool :=
  let k := refOfPort (portOf l)
  s.refEn k && s.refActive k && s.timeLane (portOf l) == l

/-- What the receiver of a lane meets in a cycle and no command brings: the equaliser is tracked in UP (R266),
the rate offset is measured (R264), and stuffing errors are free in number (R249, R260). -/
def State.rxCycle (s : State) (l : Nat) : State :=
  let pg := Page.lane l
  if !s.receives l then s
  else
    let s := if s.laneUp l then s.equalise l 0 0 else s
    let s := if s.refMeasures l then s else s.freqTrack l
    let fr := s.draw
    let n := fr.1.toNat % (262144 / s.laneRate l / 25 + 1)
    if n = 0 then fr.2
    else (fr.2.bump pg LANE.STUFF_ERR_COUNT.COUNT n).setLane l
      { fr.2.lane l with confDone := false, afterMark := false }

/-- The transmitter at a nominal start: the line bits of the cycle that ends are settled, and a lane that sends
blocks sends its next marker. -/
def State.txCycle (s : State) (l : Nat) : State :=
  let idle := s.setLane l { s.lane l with line := 1, injs := [] }
  let s := match (s.lane l).txMark with
    | some m => if s.sendsBlocks l || (s.lane l).burst == 1 then s.settleLine l m else idle
    | none => if s.phase l = Phase.test then s else idle
  let s := if s.phase l = Phase.test then s.testLine l else s
  if s.sendsBlocks l then s.sendMarker l
  else s.setLane l { s.lane l with txMark := none, exch := none, traf := false }

/-- One lane at a nominal start. A beacon burst runs down, and its last start ends it (R263). -/
def State.laneCycle (s : State) (l : Nat) : State :=
  let s := ((s.chkCycle l).rxCycle l).txCycle l
  let b := (s.lane l).burst
  if b = 1 then s.endBurst l else s.setLane l { s.lane l with burst := b - 1 }

end Sys2Proof.Machine
end

