-- ==== Sys2Proof/Machine/Ring.lean ====
section
/-! DEFINITION. Cells, streams and rings (spec chapter 11): stream tables, extraction and
presentation, injection, forwarding, wrap, the slot plan, bypass and insertion, service messages. -/

namespace Sys2Proof.Machine

/-! ### Stream tables (R283, R284) -/

/-- A stream entry. -/
structure StreamEnt where
  aMode   : Nat
  aDir    : Nat
  bMode   : Nat
  bDir    : Nat
  src     : Nat
  spurs   : Nat
  rate    : Nat
  ext     : Bool
  offset  : Nat
  merge   : Nat
  ufill   : Bool
  zero29  : Nat
  partner : Nat
  depth   : Nat
  base    : Nat
  deriving DecidableEq, Repr

/-- A stream entry from its 64 bits; DEPTH_LOG2 and BASE as the depth in entries and the Store
address. -/
def StreamEnt.ofNat (v : Nat) : StreamEnt :=
  { aMode := bits v 0 2, aDir := bits v 2 1, bMode := bits v 3 2, bDir := bits v 5 1
    src := bits v 6 3, spurs := bits v 9 4, rate := bits v 13 2, ext := v.testBit 15
    offset := bits v 16 10, merge := bits v 26 2, ufill := v.testBit 28, zero29 := bits v 29 1
    partner := bits v 30 12, depth := 2 ^ (bits v 42 3 + 3), base := bits v 45 19 * 128 }

/-- An extraction or injection channel entry. -/
structure ChanEnt where
  signal : Nat
  valid  : Bool
  stream : Nat
  slot   : Nat
  zeros  : Nat
  deriving DecidableEq, Repr

def ChanEnt.ofNat (v : Nat) : ChanEnt :=
  { signal := bits v 0 14, valid := v.testBit 15, stream := bits v 16 12, slot := bits v 28 3
    zeros := bits v 14 1 + bits v 31 1 }

/-- The internal address of a copy of the ring stream tables (R33). -/
def ringBase (set : Nat) : Nat := 0x10420000 + set * 0x00010000

/-- The active copy's stream entry as a number. -/
def State.streamRaw (s : State) (id : Nat) : Nat :=
  s.readLE (ringBase (s.activeSet Page.ring) + 8 * id) 8

def State.streamEnt (s : State) (id : Nat) : StreamEnt := StreamEnt.ofNat (s.streamRaw id)

/-- The indexes of the entries of `w` bytes, from byte `off` of the active copy on and `n` in number,
that hold a nonzero byte. -/
def State.usedEntries (s : State) (off w n : Nat) : List Nat :=
  let lo := ringBase (s.activeSet Page.ring) + off
  dedup ((Tab.range s.mem lo (lo + w * n)).map (fun e => (e.1 - lo) / w))

/-- The streams with an entry. -/
def State.streams (s : State) : List Nat := s.usedEntries 0 8 4096

/-- The stream whose entry governs the cells of stream `id` (R283). -/
def State.governs (s : State) (id : Nat) : Nat :=
  if id % 2 = 1 ∧ (s.streamEnt (id - 1)).rate = 2 then id - 1 else id

/-- Extraction channel entry `i`, and injection channel entry `i`. -/
def State.extChan (s : State) (i : Nat) : ChanEnt :=
  ChanEnt.ofNat (s.readLE (ringBase (s.activeSet Page.ring) + 0x8000 + 4 * i) 4)

def State.injChan (s : State) (i : Nat) : ChanEnt :=
  ChanEnt.ofNat (s.readLE (ringBase (s.activeSet Page.ring) + 0xC000 + 4 * i) 4)

/-- The valid extraction channel entries. -/
def State.extChans (s : State) : List ChanEnt :=
  ((s.usedEntries 0x8000 4 4096).map s.extChan).filter (·.valid)

/-- The valid injection channel entries. -/
def State.injChans (s : State) : List ChanEnt :=
  ((s.usedEntries 0xC000 4 4096).map s.injChan).filter (·.valid)

/-- The sample index of a cell (R283). -/
def sampleIndex (rate id origin : Nat) : Nat :=
  match rate with
  | 0 => origin / 2
  | 2 => (2 * origin + id % 2) % 2 ^ 32
  | _ => origin

/-- The cycle in which a cell of this node leaves: its origin, or for half the 48 kHz streams the
cycle after it (R283). -/
def sendCycle (rate id origin : Nat) : Nat :=
  if rate = 0 ∧ id.testBit 1 then (origin + 1) % 2 ^ 32 else origin

/-! ### The copy window (R294) -/

/-- What the window says of a sample index: new, a duplicate, or outside it. -/
inductive Copy where
  | new | dup | outside
  deriving DecidableEq, Repr

/-- The test of R294; indexes compare modulo 2^32. -/
def copyTest (m : Option Merge) (win j : Nat) : Copy :=
  match m with
  | none => .new
  | some m =>
    let back := (m.h.toNat + 2 ^ 32 - j) % 2 ^ 32
    if 2 ^ 31 ≤ back then .new
    else if win ≤ back then .outside
    else if m.bits.getLsbD back then .dup else .new

/-- The window after index `j` has been written. -/
def copyMark (m : Option Merge) (j : Nat) : Merge :=
  match m with
  | none => ⟨Word.ofNat j, 1⟩
  | some m =>
    let ahead := (j + 2 ^ 32 - m.h.toNat) % 2 ^ 32
    if 0 < ahead ∧ ahead < 2 ^ 31 then
      ⟨Word.ofNat j, (if ahead < 64 then m.bits <<< ahead else 0) ||| 1⟩
    else ⟨m.h, m.bits ||| ((1 : BitVec 64) <<< ((m.h.toNat + 2 ^ 32 - j) % 2 ^ 32))⟩

def State.mergeWin (s : State) : Nat := s.get Page.ring RING.RING_CFG.MERGE_WIN

/-! ### Stream counters -/

def State.stat (s : State) (id : Nat) : StreamStat := Tab.get ⟨0, 0, 0, 0⟩ s.ring.stat id

def State.setStat (s : State) (id : Nat) (v : StreamStat) : State :=
  { s with ring := { s.ring with stat := Tab.put ⟨0, 0, 0, 0⟩ s.ring.stat id v } }

def sat8 (n : Nat) : Nat := Nat.min n 255

def State.countUnderrun (s : State) (id : Nat) : State :=
  let t := s.stat id
  ((s.setStat id { t with underrun := sat8 (t.underrun + 1) }).bump Page.ring
    RING.UNDERRUN_COUNT.COUNT).raise Page.ring 0

def State.countLate (s : State) (id : Nat) : State :=
  let t := s.stat id
  ((s.setStat id { t with late := sat8 (t.late + 1) }).bump Page.ring RING.LATE_COUNT.COUNT).raise
    Page.ring 1

def State.countMismatch (s : State) (id : Nat) : State :=
  let t := s.stat id
  (((s.setStat id { t with mismatch := sat8 (t.mismatch + 1) }).bump Page.ring
    RING.MISMATCH_COUNT.COUNT).put Page.ring RING.MISMATCH_LAST.STREAM id).raise Page.ring 2

def State.countFallback (s : State) (id : Nat) : State :=
  let t := s.stat id
  ((s.setStat id { t with fallback := sat8 (t.fallback + 1) }).bump Page.ring
    RING.FALLBACK_COUNT.COUNT).raise Page.ring 3

/-- The word of STREAM_STAT for the selected stream. -/
def State.streamStatWord (s : State) : Word :=
  let t := s.stat (s.get Page.ring RING.STREAM_SEL.STREAM)
  Word.ofNat (t.underrun + 2 ^ 8 * t.late + 2 ^ 16 * t.mismatch + 2 ^ 24 * t.fallback)

/-- STREAM_STAT_READ: the four counters of the selected stream are returned and cleared (R296). -/
def State.streamStatRead (s : State) : State :=
  { s.setStat (s.get Page.ring RING.STREAM_SEL.STREAM) ⟨0, 0, 0, 0⟩ with
    readData := [s.streamStatWord] }

def execStreamStatRead (s : State) : Host.Outcome State Fault Refusal :=
  .next (s.blockRead Page.ring State.streamStatRead)

/-- STREAM_LAST: H of the selected stream, 0 while its EXT is 0 (R294). -/
def State.streamLast (s : State) : Word :=
  let id := s.get Page.ring RING.STREAM_SEL.STREAM
  match Tab.get none s.ring.merge id with
  | some m => if (s.streamEnt id).ext then m.h else 0
  | none => 0

/-! ### Extraction buffers (R285, R294 to R297) -/

/-- Whether the ring engine reaches Store memory at an address: STORE is ON and the bank not lost. -/
def State.storeOk (s : State) (a : Nat) : Bool := s.domOn 6 && !s.bankLost (storeBank a)

/-- The address of the buffer entry of a sample index. -/
def entryAddr (e : StreamEnt) (j : Nat) : Nat := e.base + 32 * (j % e.depth)

/-- The 32 bytes of a buffer entry. -/
def entryBytes (a j : Nat) (c : Cell) : List (Nat × Byte) :=
  (List.range 7).flatMap (fun k => leBytes (a + 4 * k) (c.samples.getD k 0).toNat 4) ++
    leBytes (a + 28) (j / 8 * 8 + 4 + (if c.wrap then 2 else 0) + (if c.sub then 1 else 0)) 4

/-- Whether extraction runs: MIX holds the Signal Plane (R22), and the stream has the node's rate. -/
def State.extracts (s : State) (e : StreamEnt) : Bool := s.domOn 5 && e.ext && e.rate == s.fs

/-- Whether a cell whose last bit arrives `arrive` line bits after the present nominal start is on
time for the presentation of origin `o` (R295): at least 500 ns before. -/
def State.onTime (s : State) (e : StreamEnt) (o arrive : Nat) : Bool :=
  let left := (o + e.offset + 2 ^ 32 - s.cycle) % 2 ^ 32
  decide (left < 2 ^ 31 ∧ arrive * 1000 + 12582912 ≤ left * 262144000)

/-- A valid cell offered to extraction (R294, R295). -/
def State.cellExtract (s : State) (c : Cell) (o arrive : Nat) : State :=
  let id := s.governs c.stream.toNat
  let e := s.streamEnt id
  if !s.extracts e then s
  else
    let j := sampleIndex e.rate c.stream.toNat o
    let m := Tab.get none s.ring.merge id
    match copyTest m s.mergeWin j with
    | .dup => s
    | .outside => (s.bump Page.ring RING.MERGE_LATE_COUNT.COUNT).raise Page.ring 4
    | .new =>
      if !s.onTime e o arrive then s.countLate id
      else
        let s := { s with ring := { s.ring with
          merge := Tab.put none s.ring.merge id (some (copyMark m j)) } }
        let a := entryAddr e j
        s.storeWrite a 32 (entryBytes a j c)

/-- The entry of a sample index in a stream's buffer as the ring engine reads it, an uncorrectable word being 0
(R222), where it is present: its SUB and samples. -/
def State.bufEntry (s : State) (id j : Nat) : Option (Bool × List Word) :=
  let e := s.streamEnt id
  let a := entryAddr e j
  if !s.storeOk a then none
  else
    let meta_ := (s.storeWord32 (a + 28)).toNat
    if meta_ / 8 = j / 8 ∧ meta_.testBit 2 then
      some (meta_.testBit 0, (List.range 7).map (fun k => s.storeWord32 (a + 4 * k)))
    else none

/-- What the ring engine's read of an entry leaves at the banks: the checks of its words, an access to a lost
bank, a DOMAIN_OFF (R222, R228, R433). -/
def State.entryNote (s : State) (id j : Nat) : State :=
  (s.storeRead (entryAddr (s.streamEnt id) j) 32).2.2

/-- Whether origin `o` lies before the cycle at which the stream restarted (R285). -/
def State.beforeRestart (s : State) (id o : Nat) : Bool :=
  match Tab.get none s.ring.restart id with
  | some b => decide (2 ^ 31 ≤ (o + 2 ^ 32 - b.toNat) % 2 ^ 32)
  | none => false

/-- The choice of R296: the samples presented, whether they are the partner's, or none. -/
def chooseCopy (e : StreamEnt) (pri par : Option (Bool × List Word)) : Option (List Word × Bool) :=
  let merged := e.merge == 1 || e.merge == 2
  match pri, (if merged then par else none) with
  | some (false, x), _ => some (x, false)
  | _, some (false, y) => some (y, true)
  | some (true, x), _ => some (x, false)
  | none, some (true, y) => some (y, false)
  | none, none => none

/-- The extracted signals of a stream take their slots of the presented samples. -/
def State.presentTo (s : State) (id : Nat) (smp : List Word) : State :=
  let out := (s.extChans.filter (fun c => c.stream == id)).map
    (fun c => (c.signal, some (smp.getD c.slot 0)))
  { s with fseq := { s.fseq with presented := Tab.puts none s.fseq.presented out }
           ring := { s.ring with last := Tab.put [] s.ring.last id smp } }

/-- The presentation of sample index `j`, origin `o`, of an extracted stream (R295 to R297). -/
def State.presentOne (s : State) (id j o : Nat) : State :=
  let e := s.streamEnt id
  let s := s.entryNote id j
  let s := if e.merge = 1 ∨ e.merge = 2 then s.entryNote e.partner j else s
  let dead := s.beforeRestart id o
  let pri := if dead then none else s.bufEntry id j
  let par := if dead then none else s.bufEntry e.partner j
  let s := match pri, par with
    | some (false, x), some (false, y) =>
      if e.merge = 2 ∧ x ≠ y then s.countMismatch id else s
    | _, _ => s
  match chooseCopy e pri par with
  | some (x, fell) => (if fell then s.countFallback id else s).presentTo id x
  | none =>
    let x : List Word := if e.ufill then Tab.get [] s.ring.last id else List.replicate 7 0
    (s.countUnderrun id).presentTo id x

/-- The presentations of a nominal start, or at 192 kHz of the midpoint that follows it (`second`). -/
def State.presentAll (s : State) (second : Bool) : State :=
  if !s.domOn 7 || !s.domOn 5 then s
  else if s.fs = 0 ∧ s.time.c.getLsbD 0 then s
  else (s.streams.filter (fun id => s.extracts (s.streamEnt id))).foldl (fun s id =>
    let o := (s.cycle + 2 ^ 32 - (s.streamEnt id).offset) % 2 ^ 32
    s.presentOne id (sampleIndex s.fs (if second then 1 else 0) o) o) s

/-- A stream restarted at the boundary of cycle `b` (R285). -/
def State.streamRestart (s : State) (id : Nat) (b : Word) : State :=
  { s with ring := { s.ring with restart := Tab.put none s.ring.restart id (some b) } }

/-- Every extracted stream restarted (R335). -/
def State.restartStreams (s : State) : State :=
  (s.streams.filter (fun id => (s.streamEnt id).ext)).foldl
    (fun s id => s.streamRestart id s.time.c) s

/-! ### Sending cells -/

/-- A cell counted and placed in a media slot of the lane with LIDX `lidx` of a port. -/
def State.placeCell (s : State) (p lidx : Nat) (c : TxCell) : State :=
  let q := s.port p
  (s.setPort p { q with
    used0 := if lidx = 0 then q.used0 + 1 else q.used0
    used1 := if lidx = 0 then q.used1 else q.used1 + 1
    sent := q.sent ++ [c] }).bump (portPage p) TRUNK.CELLS_TX.COUNT (if c.quiet then 0 else 1)

/-- Media slots used on the lane with LIDX `lidx`. -/
def Port.used (q : Port) (lidx : Nat) : Nat := if lidx = 0 then q.used0 else q.used1

/-- The lane of a trunk that carries a stream (R282). -/
def cellLane (c : Cell) : Nat := c.stream.toNat % 2

/-- Where a cell meant for trunk `t` goes: out of it, out of the other trunk with WRAP toggled while a
wrap is in effect, or nowhere (R292, R302). -/
def State.outTrunk (s : State) (t : Nat) : Option (Nat × Bool) :=
  let o := if t % 2 = 0 then t + 1 else t - 1
  if !s.inserted t then none
  else if s.flag (Page.trunk t) TRUNK.PORT_STAT.WRAPPING then
    (if s.carrying o ∧ s.flag (Page.trunk o) TRUNK.PORT_STAT.WRAPPING = false then some (o, true)
     else none)
  else if s.carrying t then some (t, false) else none

/-- A cell with its WRAP toggled where it turns back; the check code keeps its origin. -/
def State.turned (s : State) (c : TxCell) (turn : Bool) : TxCell :=
  if turn then { c with cell := cellWrap c.cell (!c.cell.wrap) (cellOrigin c.cell s.cycle).1 } else c

/-- A cell that waits in the output of port `p` for slots that others leave. -/
def State.waitCell (s : State) (p : Nat) (c : TxCell) : State :=
  s.setPort p { s.port p with waitq := (s.port p).waitq ++ [c] }

/-- A cell that leaves port `p` first in the next cycle. -/
def State.spillCell (s : State) (p : Nat) (c : TxCell) : State :=
  s.setPort p { s.port p with spill := (s.port p).spill ++ [c] }

/-- An injected cell that found no slot in its sending cycle, counted (R287). -/
def State.spillNote (s : State) : State := (s.bump Page.ring RING.INJ_SPILL_COUNT.COUNT).raise Page.ring 5

/-- A forwarded or relayed cell sent out of trunk `t`: in a free slot, in the next cycle where there is none; a
cell with WRAP at 1 takes a slot that the cycle's other cells leave (R291 to R293). -/
def State.forwardTo (s : State) (t : Nat) (c : TxCell) : State :=
  match s.outTrunk t with
  | none => s
  | some (p, turn) =>
    let c := s.turned c turn
    let l := cellLane c.cell
    if c.cell.wrap then s.waitCell p c
    else if (s.port p).used l < s.slots p then s.placeCell p l c
    else s.spillCell p c

/-- A cell sent out of a spur: in this cycle, or in the next where its slots are full (R291); `fresh` says that
its sending cycle is the present one, so that an injected cell counts as spilled (R287). -/
def State.spurSend (s : State) (fresh : Bool) (k : Nat) (c : TxCell) : State :=
  let p := k + 4
  if !s.carrying p then s
  else if (s.port p).used0 < s.slots p then s.placeCell p 0 c
  else
    let s := s.spillCell p c
    if fresh && c.inj then s.spillNote else s

/-- The first valid copy of each sample index goes to the spurs in SPUR_OUT, but not back to the spur
it came from (R288 to R290). -/
def State.relaySpurs (s : State) (c : TxCell) (o : Nat) (origin_ : Option Nat) : State :=
  let id := s.governs c.cell.stream.toNat
  let e := s.streamEnt id
  let outs := (List.range 4).filter (fun k => e.spurs.testBit k && some k != origin_)
  if e.spurs = 0 then s
  else
    let j := sampleIndex e.rate c.cell.stream.toNat o
    let m := Tab.get none s.ring.relay id
    if copyTest m s.mergeWin j = .new then
      let s := { s with ring := { s.ring with
        relay := Tab.put none s.ring.relay id (some (copyMark m j)) } }
      outs.foldl (fun s k => s.spurSend true k c) s
    else s

/-! ### Cells received (R281, R288, R289) -/

/-- Whether a 48 kHz cell shows an odd origin: it is forwarded only, and counted nowhere (R283). -/
def oddHalfRate (e : StreamEnt) (o : Nat) : Bool := e.rate == 0 && decide (o % 2 = 1)

/-- An invalid cell: discarded and counted on its port (R281). -/
def State.cellBad (s : State) (p : Nat) : State :=
  (s.bump (portPage p) TRUNK.CELL_ERR_COUNT.COUNT).raise (portPage p) 2

/-- The role and direction of a stream on the ring of trunk `t`. -/
def StreamEnt.role (e : StreamEnt) (t : Nat) : Nat × Nat :=
  if t < 2 then (e.aMode, e.aDir) else (e.bMode, e.bDir)

/-- Whether a cell that arrives on trunk `t` goes onward (R288). A stream travels east (0) when it
arrives on TRUNK1 or TRUNK3. -/
def goesOnward (mode dir t : Nat) (wrap : Bool) : Bool :=
  wrap || (mode == 1 && dir == (if t % 2 = 1 then 0 else 1))

/-- A valid cell on a trunk (R288). -/
def State.cellValid (s : State) (t : Nat) (c : Cell) (o arrive : Nat) : State :=
  let e := s.streamEnt (s.governs c.stream.toNat)
  let odd := oddHalfRate e o
  let r := e.role t
  let s := if odd then s else s.bump (Page.trunk t) TRUNK.CELLS_RX.COUNT
  if r.1 = 2 ∧ c.wrap = false then
    if odd then s else s.bump (Page.trunk t) TRUNK.STRIP_COUNT.COUNT
  else
    let x : TxCell := ⟨c, s.time.starts, false, odd⟩
    let s := if goesOnward r.1 r.2 t c.wrap then
      s.forwardTo (if t % 2 = 0 then t + 1 else t - 1) x else s
    if odd then s else (s.cellExtract c o arrive).relaySpurs x o none

/-- The lane of trunk `t` on which a cell arrives: the one with the received LIDX of its stream (R282). -/
def State.cellArrives (s : State) (t : Nat) (c : Cell) : Nat :=
  if s.get (Page.lane (2 * t)) LANE.LANE_STAT.PARTNER_LIDX = cellLane c then 2 * t else 2 * t + 1

/-- CELL_RECEIVE: a cell's last bit arrives on a trunk `arrive` line bits (÷1) after the present
nominal start. Before insertion and while the trunk is down it is discarded (R302). -/
def execCellReceive (trunk : Nat) (cell : Cell) (arrive : Nat) (s : State) :
    Host.Outcome State Fault Refusal :=
  .next (if 4 ≤ trunk ∨ s.laneOn = false then s
  else
    let s := s.cellHeader (s.cellArrives trunk cell)
    if s.inserted trunk = false ∨ s.carrying trunk = false then s else
    let o := cellOrigin cell s.cycle
    if s.get Page.ring RING.RING_CFG.AGE_MAX < o.2 then s.cellBad trunk
    else s.cellValid trunk cell o.1 arrive)

/-- A cell of a spur that this node puts on the rings as though it had injected it (R289). -/
def State.injectFrom (s : State) (e : StreamEnt) (c : TxCell) : State :=
  let add := fun (s : State) (t : Nat) =>
    s.setPort t { s.port t with inj := (s.port t).inj ++ [c] }
  let s := if e.aMode = 2 then add s (if e.aDir = 0 then 0 else 1) else s
  if e.bMode = 2 then add s (if e.bDir = 0 then 2 else 3) else s

/-- A valid cell on a spur (R289). -/
def State.spurValid (s : State) (k : Nat) (c : Cell) (o arrive : Nat) : State :=
  let e := s.streamEnt (s.governs c.stream.toNat)
  if oddHalfRate e o then s
  else
    let s := s.bump (Page.spur k) TRUNK.CELLS_RX.COUNT
    let x : TxCell := ⟨c, s.time.starts, false, false⟩
    let s := (s.cellExtract c o arrive).relaySpurs x o (some k)
    if e.src = k + 1 then s.injectFrom e { x with cell := cellWrap c false o } else s

/-- SPUR_CELL_RECEIVE. -/
def execSpurCellReceive (spur : Nat) (cell : Cell) (arrive : Nat) (s : State) :
    Host.Outcome State Fault Refusal :=
  .next (if 4 ≤ spur ∨ s.laneOn = false then s
  else
    let s := s.cellHeader (spur + 8)
    if s.carrying (spur + 4) = false then s else
    let o := cellOrigin cell s.cycle
    if s.get Page.ring RING.RING_CFG.AGE_MAX < o.2 then s.cellBad (spur + 4)
    else s.spurValid spur cell o.1 arrive)

/-- The wrapped cell `c` dropped (R293); one that is counted nowhere is not counted here (R283). -/
def State.wrapDrop (s : State) (t : Nat) (c : TxCell) : State :=
  if c.quiet then s else (s.bump (Page.trunk t) TRUNK.WRAP_DROP_COUNT.COUNT).raise (Page.trunk t) 3

/-- WRAPPED_CELL_EXPIRY: the wrapped cell that has waited longest has found no slot within one link
cycle (R293). -/
def execWrappedCellExpiry (trunk : Nat) (s : State) : Host.Outcome State Fault Refusal :=
  .next (if 4 ≤ trunk ∨ s.laneOn = false then s
  else match (s.port trunk).waitq with
    | [] => s
    | c :: q => (s.setPort trunk { s.port trunk with waitq := q }).wrapDrop trunk c)

/-! ### Injection (R286, R287) -/

/-- The streams that this node forms from the Signal Plane. -/
def State.injStreams (s : State) : List Nat :=
  s.streams.filter (fun id =>
    let e := s.streamEnt id
    e.src == 0 && e.rate == s.fs && (e.aMode == 2 || e.bMode == 2 || e.spurs != 0))

/-- The cell that a stream forms at an emission read for the Fs tick with sample index `j`: `read`
gives a signal's sample and whether its written mark was set (R286). -/
def State.formCell (s : State) (read : Nat → Word × Bool) (j id : Nat) : Nat × Cell :=
  let chans := s.injChans.filter (fun c => c.stream == id)
  let smp := (List.range 7).map (fun k =>
    match (chans.filter (fun c => c.slot == k)).head? with
    | some c => (read c.signal).1
    | none => 0)
  let origin := match s.fs with
    | 0 => 2 * j % 2 ^ 32
    | 2 => j / 2
    | _ => j
  let sid := if s.fs = 2 then id + j % 2 else id
  (origin, cellSeal { stream := BitVec.ofNat 12 sid, sub := chans.any (fun c => !(read c.signal).2)
                      wrap := false, samples := smp, ocrc := 0 } origin)

/-- The cells formed at an emission read wait for their sending cycle; injection is idle while MIX, which
holds the Signal Plane, is not ON (R22). -/
def State.formCells (s : State) (read : Nat → Word × Bool) (j : Nat) : State :=
  if !s.domOn 7 || !s.domOn 5 then s
  else { s with ring := { s.ring with
    formed := s.ring.formed ++ s.injStreams.map (s.formCell read j) } }

/-- A formed cell in its sending cycle: onto the rings under its INJ roles, and to its spurs. -/
def State.injectCell (s : State) (o : Nat) (c : Cell) : State :=
  let e := s.streamEnt (s.governs c.stream.toNat)
  let x : TxCell := ⟨c, s.time.starts, true, false⟩
  (s.injectFrom e x).relaySpurs x o none

/-- The formed cells whose sending cycle is the present one take their places; the others wait. -/
def State.injectFormed (s : State) : State :=
  let due := fun (e : Nat × Cell) =>
    sendCycle s.fs e.2.stream.toNat e.1 == s.cycle
  let now := s.ring.formed.filter due
  let s := { s with ring := { s.ring with formed := s.ring.formed.filter (fun e => !due e) } }
  now.foldl (fun s e => s.injectCell e.1 e.2) s

/-! ### The end of a link cycle for the transmitters (R287, R293) -/

/-- A cell that this node injects leaves in the cycle that ends, in a slot that forwarded cells have left, or
spills into the next (R287). -/
def State.settleOne (s : State) (t : Nat) (c : TxCell) : State :=
  match s.outTrunk t with
  | none => s
  | some (p, turn) =>
    let c' := s.turned c turn
    let l := cellLane c'.cell
    if c'.cell.wrap then s.waitCell p c'
    else if (s.port p).used l < s.slots p then s.placeCell p l c'
    else (s.spillCell t c).spillNote

/-- A cell that is to leave trunk `t` first in the next cycle, at the end of this one: where a wrap has taken effect
it turns back now, subject to R293, and where nothing goes out it is lost (R292). -/
def State.settleSpilled (s : State) (t : Nat) (c : TxCell) : State :=
  match s.outTrunk t with
  | none => s
  | some (p, turn) =>
    let c' := s.turned c turn
    if c'.cell.wrap then s.waitCell p c' else s.spillCell t c

/-- A spilled cell leaves trunk `t` first in the cycle that begins (R287). -/
def State.placeSpilled (s : State) (t : Nat) (c : TxCell) : State :=
  match s.outTrunk t with
  | none => s
  | some (p, turn) =>
    let c' := s.turned c turn
    let l := cellLane c'.cell
    if c'.cell.wrap then s.waitCell p c'
    else if (s.port p).used l < s.slots p then s.placeCell p l c'
    else s.spillCell p c'

/-- A wrapped cell at the end of a cycle: it takes a slot that is left, waits on, or is dropped when a
link cycle has passed since its arrival. The next cycle has started already; an injected cell arrived with its
sending cycle, any other cell within the cycle of its arrival. -/
def State.settleWrapped (s : State) (t : Nat) (c : TxCell) : State :=
  match s.outTrunk t with
  | none => s
  | some (p, turn) =>
    let c := s.turned c turn
    let l := cellLane c.cell
    if (s.port p).used l < s.slots p then s.placeCell p l c
    else if c.inj || c.arr + 1 < s.time.starts then s.wrapDrop p c
    else s.waitCell p c

/-- The cycle that ends, settled for the trunks: injected cells take the slots that forwarded ones have left, then
the wrapped ones what is left (R287, R293). -/
def State.settleTrunks (s : State) : State :=
  let olds := (List.range 4).map (fun t => (t, s.port t))
  let s := (List.range 4).foldl (fun s t =>
    s.setPort t { s.port t with spill := [], inj := [] }) s
  let s := olds.foldl (fun s e => e.2.spill.foldl (fun s c => s.settleSpilled e.1 c) s) s
  let s := olds.foldl (fun s e => e.2.inj.foldl (fun s c => s.settleOne e.1 c) s) s
  let waits := (List.range 4).map (fun t => (t, (s.port t).waitq))
  let s := (List.range 4).foldl (fun s t => s.setPort t { s.port t with waitq := [] }) s
  let s := waits.foldl (fun s e => e.2.foldl (fun s c => s.settleWrapped e.1 c) s) s
  (List.range 4).foldl (fun s t => s.setPort t { s.port t with used0 := 0, used1 := 0 }) s

/-- A spur at the end of a cycle: its slots are free again for the cells that wait. -/
def State.settleSpur (s : State) (k : Nat) : State :=
  let q := s.port (k + 4)
  q.spill.foldl (fun s c => s.spurSend false k c)
    (s.setPort (k + 4) { q with used0 := 0, spill := [] })

/-- The spilled cells of the trunks take the first slots of the cycle that begins (R287). -/
def State.spillsFirst (s : State) : State :=
  let olds := (List.range 4).map (fun t => (t, (s.port t).spill))
  let s := (List.range 4).foldl (fun s t => s.setPort t { s.port t with spill := [] }) s
  olds.foldl (fun s e => e.2.foldl (fun s c => s.placeSpilled e.1 c) s) s

/-- One trunk's wrap at a nominal start: it ends in the cycle after the trunk carries media again, and
a wrap that is due or due later begins or comes nearer (R292). -/
def State.wrapCycle (s : State) (t : Nat) : State :=
  let pg := Page.trunk t
  let q := s.port t
  if s.flag pg TRUNK.PORT_STAT.WRAPPING then
    if s.carrying t || !s.wrapEn t || !s.inserted t then
      (s.putB pg TRUNK.PORT_STAT.WRAPPING false).raise pg 1
    else s
  else match q.wrapIn with
    | some (k + 1) =>
      let s := s.setPort t { q with wrapIn := if k = 0 then none else some k }
      if k = 0 then s.wrapStart t else s
    | _ => s.wrapStart t

/-- The host message of a port leaves in this cycle's first free service slot (R303). -/
def State.svcCycle (s : State) (p : Nat) : State :=
  let pg := portPage p
  let l := if p < 4 then 2 * p else p + 4
  if s.flag pg TRUNK.SVC_STAT.TX_PENDING && s.laneUp l then
    (s.setLane l { s.lane l with msg := some (s.port p).svcOut }).putB pg TRUNK.SVC_STAT.TX_PENDING false
  else s

/-- The streams whose origins have come to the cycle of their restart present as ever from there on (R285). -/
def State.restartsOver (s : State) : State :=
  let over_ (e : Nat × Option (BitVec 32)) : Bool :=
    !s.beforeRestart e.1 ((s.cycle + 2 ^ 32 - (s.streamEnt e.1).offset) % 2 ^ 32)
  { s with ring := { s.ring with restart := s.ring.restart.filter (fun e => !over_ e) } }

/-- The cells of the cycle that ends are settled before its lines are: those that leave are to be noted. Wraps
begin and end with the cycle that begins, before its markers are made (R292, R304). -/
def State.ringSettle (s : State) : State :=
  let s := (List.range 8).foldl (fun s p => s.setPort p { s.port p with left := [] }) s.settleTrunks
  (List.range 4).foldl (fun s t => s.wrapCycle t) s

/-- The rings at a nominal start, with the last cycle settled. -/
def State.ringCycle (s : State) : State :=
  let s := (List.range 8).foldl (fun (s : State) (p : Nat) => s.setPort p { s.port p with sent := [] }) s
  let s := ((List.range 4).foldl (fun s k => s.settleSpur k) s).spillsFirst
  let s := (List.range 8).foldl (fun s p => s.svcCycle p) s
  s.restartsOver.injectFormed

/-! ### The slot plan (R299) -/

/-- The stream IDs, in ID order, that a trunk lane sends in cycles of a parity. -/
def State.trunkPlan (s : State) (t lidx parity : Nat) : List Nat :=
  s.streams.flatMap (fun id =>
    let e := s.streamEnt id
    let r := e.role t
    if (r.1 = 1 ∨ r.1 = 2) ∧ r.2 = t % 2 then
      if e.rate = 2 then [id + lidx]
      else if id % 2 ≠ lidx then []
      else if e.rate = 0 then (if (if id.testBit 1 then 1 else 0) = parity then [id] else [])
      else [id]
    else [])

/-- The stream IDs, in ID order, that a spur lane sends in cycles of a parity. -/
def State.spurPlan (s : State) (k parity : Nat) : List Nat :=
  s.streams.flatMap (fun id =>
    let e := s.streamEnt id
    if e.spurs.testBit k then
      if e.rate = 2 then [id, id + 1]
      else if e.rate = 0 then (if (if id.testBit 1 then 1 else 0) = parity then [id] else [])
      else [id]
    else [])

/-- The plan of a port's lane. -/
def State.portPlan (s : State) (p lidx parity : Nat) : List Nat :=
  if p < 4 then s.trunkPlan p lidx parity else s.spurPlan (p - 4) parity

/-- PORT_LOAD0 and PORT_LOAD1 of every port from the active tables. -/
def State.ringLoads (s : State) : State :=
  (List.range 8).foldl (fun s p =>
    let pg := portPage p
    let s := s.put pg TRUNK.PORT_LOAD0.EVEN (s.portPlan p 0 0).length
    let s := s.put pg TRUNK.PORT_LOAD0.ODD (s.portPlan p 0 1).length
    if p < 4 then
      (s.put pg TRUNK.PORT_LOAD1.EVEN (s.portPlan p 1 0).length).put pg TRUNK.PORT_LOAD1.ODD
        (s.portPlan p 1 1).length
    else s) s

/-- The first port whose plan exceeds its slots, with the first stream beyond the limit (R299). -/
def State.slotPlanFault (s : State) : Option (Nat × Nat) :=
  ((List.range 8).flatMap (fun p => (if p < 4 then [0, 1] else [0]).flatMap (fun lidx =>
    [0, 1].filterMap (fun par =>
      ((s.portPlan p lidx par)[s.slots p]?).map (fun id => (portPage p, id)))))).head?

/-! ### Bypass and insertion (R300 to R302) -/

def State.setRingState (s : State) (ringB : Bool) (v : Nat) : State :=
  s.put Page.ring (if ringB then RING.BYP_STAT.B_STATE else RING.BYP_STAT.A_STATE) v

/-- The bypass pin of a ring driven high or released. -/
def State.setBypass (s : State) (ringB b : Bool) : State :=
  s.putB Page.ring (if ringB then RING.BYP_STAT.BYPB_DRIVEN else RING.BYP_STAT.BYPA_DRIVEN) b

def insFld (ringB : Bool) : Fld := if ringB then RING.BYP_CTRL.INS_B else RING.BYP_CTRL.INS_A

/-- INS of a ring set: a change from 0 to 1 starts the insertion sequence (R301). -/
def State.insSet (s : State) (ringB : Bool) : State :=
  if s.flag Page.ring (insFld ringB) then s
  else (s.putB Page.ring (insFld ringB) true).setRingState ringB 1

/-- The trunks of a ring. -/
def ringTrunks (ringB : Bool) : List Nat := if ringB then [2, 3] else [0, 1]

/-- The wraps of a ring end, as it is INSERTED no more (R302). -/
def State.wrapsEnd (s : State) (ringB : Bool) : State :=
  (ringTrunks ringB).foldl (fun (s : State) (t : Nat) =>
    if s.flag (Page.trunk t) TRUNK.PORT_STAT.WRAPPING then
      (s.putB (Page.trunk t) TRUNK.PORT_STAT.WRAPPING false).raise (Page.trunk t) 1
    else s) s

/-- INS of a ring cleared: the pin is released, the ring is BYPASSED and wraps no more (R302). -/
def State.insClear (s : State) (ringB : Bool) : State :=
  (((s.putB Page.ring (insFld ringB) false).setBypass ringB false).setRingState ringB 0).wrapsEnd ringB

def execInsSet (ringB : Bool) (s : State) : Host.Outcome State Fault Refusal :=
  .next (s.blockWrite Page.ring (fun s => s.insSet ringB))

def execInsClear (ringB : Bool) (s : State) : Host.Outcome State Fault Refusal :=
  .next (s.blockWrite Page.ring (fun s => s.insClear ringB))

/-- Whether a trunk's partner is another node. -/
def State.foreignPartner (s : State) (t : Nat) : Bool :=
  s.get (Page.trunk t) TRUNK.PORT_STAT.PARTNER_NODE != s.nodeId

/-- The conditions of WAITING (R301). -/
def State.insReady (s : State) (ringB : Bool) : Bool :=
  let other := s.ringState (!ringB)
  let noRef := allRefs.all (fun k => !s.refEn k)
  (ringTrunks ringB).all s.carrying &&
    (s.dpllState == 2 || !s.flag Page.ring RING.BYP_CTRL.TIME_REQ ||
      (s.isMaster && s.dpllState == 0 && noRef)) &&
    (other == 0 || other == 3 || other == 4)

/-- INSERTION_PROCEED: with foreign partners on both trunks the ring is INSERTED at once; otherwise
the pin is driven and the ring is INSERTING (R301). -/
def execInsertionProceed (ringB : Bool) (s : State) : Host.Outcome State Fault Refusal :=
  .next (if s.laneOn ∧ s.ringState ringB = 1 ∧ s.insReady ringB then
    if (ringTrunks ringB).all s.foreignPartner then (s.setRingState ringB 3).raise Page.ring 6
    else (s.setBypass ringB true).setRingState ringB 2
  else s)

/-- INS_DONE: both trunks carry media with other partners (R301). -/
def execInsDone (ringB : Bool) (s : State) : Host.Outcome State Fault Refusal :=
  .next (if s.laneOn ∧ s.ringState ringB = 2 ∧ (ringTrunks ringB).all s.carrying
      ∧ (ringTrunks ringB).all s.foreignPartner then (s.setRingState ringB 3).raise Page.ring 6
  else s)

/-- INS_FAIL: INS_TMO has expired; the pin is released and the ring is FAILED (R301). -/
def execInsFail (ringB : Bool) (s : State) : Host.Outcome State Fault Refusal :=
  .next (if s.laneOn ∧ s.ringState ringB = 2 then
    ((s.setBypass ringB false).setRingState ringB 4).raise Page.ring 7
  else s)

/-! ### Service messages (R303) -/

/-- SVC_CTRL.SEND: refused while a message waits, RANGE for a channel that is not a host channel. -/
def State.svcSend (s : State) (p : Nat) : State :=
  let pg := portPage p
  let sch := s.get pg (TRUNK.SVC_TX.DATA 0) % 256
  if sch = 0 ∨ 0x3F < sch then s.log pg Code.range
  else if s.flag pg TRUNK.SVC_STAT.TX_PENDING then s.log pg Code.refused
  else
    let msg := (List.range 5).map (fun k => Word.ofNat (s.get pg (TRUNK.SVC_TX.DATA k)))
    (s.setPort p { s.port p with svcOut := msg }).putB pg TRUNK.SVC_STAT.TX_PENDING true

def execSvcSend (port : Nat) (s : State) : Host.Outcome State Fault Refusal :=
  .next (if 8 ≤ port then s else s.blockWrite (portPage port) (fun s => s.svcSend port))

/-- The receive FIFO of a port set: its level and head show on the page. -/
def State.setFifo (s : State) (p : Nat) (l : List (List Word)) : State :=
  let pg := portPage p
  let s := (s.setPort p { s.port p with svcRx := l }).put pg TRUNK.SVC_STAT.RX_LEVEL l.length
  (List.range 5).foldl (fun s k =>
    s.put pg (TRUNK.SVC_RX.DATA k) ((l.headD []).getD k 0).toNat) s

/-- SVC_CTRL.POP: the head of the receive FIFO is removed and SVC_OVF cleared. -/
def State.svcPop (s : State) (p : Nat) : State :=
  (s.setFifo p ((s.port p).svcRx.drop 1)).putB (portPage p) TRUNK.SVC_STAT.SVC_OVF false

def execSvcPop (port : Nat) (s : State) : Host.Outcome State Fault Refusal :=
  .next (if 8 ≤ port then s else s.blockWrite (portPage port) (fun s => s.svcPop port))

/-- The five words of a host message: SCH and 18 payload bytes, lowest byte first. -/
def svcWords (b : Body) : List Word :=
  let byte := fun i => bodyField b (80 + 8 * i) 8
  Word.ofNat (bodyField b 64 8 + 2 ^ 16 * byte 0 + 2 ^ 24 * byte 1) ::
    (List.range 4).map (fun k => Word.ofNat (byte (4 * k + 2) + 2 ^ 8 * byte (4 * k + 3)
      + 2 ^ 16 * byte (4 * k + 4) + 2 ^ 24 * byte (4 * k + 5)))

/-- A host message arrives: into the FIFO of 16, or discarded at a full one. -/
def State.svcArrive (s : State) (p : Nat) (b : Body) : State :=
  let q := (s.port p).svcRx
  if 16 ≤ q.length then
    (s.putB (portPage p) TRUNK.SVC_STAT.SVC_OVF true).raise (portPage p) 5
  else (s.setFifo p (q ++ [svcWords b])).raise (portPage p) 4

/-- SERVICE_RECEIVE: a host message, the time exchange, or nothing (R303, R329). -/
def execServiceReceive (lane : Nat) (body : Body) (arrive : Nat) (s : State) :
    Host.Outcome State Fault Refusal :=
  .next (s.rxControl lane (ctlOk body Ctl.service true && decide (arrive < 2 ^ 64)) (fun s =>
    let s := s.trafficSeen lane
    let sch := bodyField body 64 8
    if sch = 0x40 then s.timeExchange lane body
    else if 1 ≤ sch ∧ sch ≤ 0x3F then s.svcArrive (portOf lane) body
    else s))

end Sys2Proof.Machine
end

