-- ==== Sys2Proof/Machine/Cycle.lean ====
section
/-! DEFINITION. The nominal start of a link cycle (R305) and the commands that set time and step phase
(R309, R317, R322, R333, R334). -/

namespace Sys2Proof.Machine

/-- One ROOT_CLK period passes inside the link cycle; the next nominal start is a command of its own
(log entry 2). -/
def State.idle (s : State) : State := s.atPhase (s.time.phase + 1)

/-- What C and Q become by themselves at the next nominal start (R305): 0 at the first after reset. -/
def Time.nextCQ (t : Time) : BitVec 32 × Nat :=
  if t.starts = 0 then (0, 0) else (t.c + 1, (t.q + 31250) % (3 * 2 ^ 32))

/-- The consequences of loading C (R335), where the load changes the number that C would have had. -/
def State.cycleLoaded (s : State) (was : BitVec 32) : State :=
  if s.time.c = was then s else s.cancelArmed.restartStreams

/-- The SET that is pending, executed at a nominal start (R334). -/
def State.setNow (s : State) (was : BitVec 32) : State :=
  let s := s.loadTime (s.get Page.ntime NTIME.CYC_SET_VAL.CYCLE)
    (3 * s.get Page.ntime NTIME.NT_SET_VAL.NT)
  let step := (s.get Page.ntime NTIME.NT_STAT.STEP_SEQ + 1) % 4
  let s := s.put Page.ntime NTIME.NT_STAT.STEP_SEQ step
  let s := { s with dpll := { s.dpll with stepSeq := step } }
  let s := s.putB Page.ntime NTIME.NT_STAT.SET_PEND false
  (s.cycleLoaded was).raise Page.ntime 9

/-- The ALIGN that is pending, executed at a nominal start with the values that its marker gives: the
step offset of R322 is cleared (R333). -/
def State.alignNow (s : State) (was : BitVec 32) (v : Int × Int) : State :=
  let s := s.loadTime (BitVec.ofInt 32 v.1).toNat (v.2 % (3 * 2 ^ 32)).toNat
  let s := { s with dpll := { s.dpll with stepOff := 0, stepLeft := 0, align := none } }
  let s := s.putB Page.ntime NTIME.NT_STAT.ALIGN_PEND false
  (s.cycleLoaded was).raise Page.ntime 8

/-- C and Q at a nominal start: by themselves, or as SET or ALIGN loads them. -/
def State.advanceTime (s : State) : State :=
  let cq := s.time.nextCQ
  let first := decide (s.time.starts = 0)
  let s := { s with time := { s.time with
    c := cq.1, q := cq.2, phase := 0, starts := s.time.starts + 1 } }
  if s.flag Page.ntime NTIME.NT_STAT.SET_PEND then s.setNow cq.1
  else match (if s.flag Page.ntime NTIME.NT_STAT.ALIGN_PEND then s.alignValues else none) with
    | some v => s.alignNow cq.1 v
    | none =>
      let s := if cq.1 = 0 ∧ first = false then s.raise Page.ntime 2 else s
      s.bit31Follow

/-- The pulse on PPS_OUT: high for WIDTH cycles from its edge, low while PPS_OUT_EN is 0 (R336). -/
def State.ppsCycle (s : State) : State :=
  let left := if s.flag Page.ntime NTIME.NT_CTRL.PPS_OUT_EN then s.dpll.ppsHigh - 1 else 0
  { s with dpll := { s.dpll with ppsHigh := left } }.ppsEdge

/-- An accepted rate change takes effect (R22). -/
def State.fsApply (s : State) : State :=
  s.put Page.clk CLK.CLK_STAT.FS_ACTIVE (s.get Page.clk CLK.CLK_CTRL.FS_SEL)

/-- The links at a nominal start: markers go out, cells of the last cycle are settled. -/
def State.linkCycle (s : State) : State :=
  if s.domOn 7 then ((List.range 12).foldl (fun s l => s.laneCycle l) s.ringSettle).ringCycle else s

/-! ### Fs ticks and frame boundaries (R19, R20, R76) -/

/-- The sample index of the Fs tick that comes next in this link cycle, where one is still to come. -/
def State.nextTick (s : State) : Option (BitVec 32) :=
  if s.time.starts = 0 then none
  else
    let d := s.fseq.ticksDone
    if s.fs = 2 then (if d < 2 then some (s.time.c * 2 + BitVec.ofNat 32 d) else none)
    else if d = 0 then tickIndex s.fs s.time.c else none

/-- Whether the next Fs tick is the frame boundary of a frame. -/
def State.boundary (s : State) : Bool :=
  match s.nextTick with
  | some t => decide (t.toNat % s.fsize = 0)
  | none => false

/-- The phase of the next Fs tick: the second tick of a link cycle lies in its middle (R19). -/
def State.tickPhase (s : State) : Nat := if s.fseq.ticksDone = 0 then 0 else 16384

/-- Whether a time `now` is at or after the target of the pending commit. -/
def CommitReq.reached (c : CommitReq) (now : Nat) : Bool :=
  decide ((now + 2 ^ 32 - c.target) % 2 ^ 32 < 2 ^ 31)

/-- Whether the target of the pending commit has been reached at the Fs tick that comes next
(COMMIT_CTRL.TIMING). -/
def State.commitReached (s : State) : Bool :=
  let now := if s.commit.timing = 1 then s.cycle else { s.time with phase := s.tickPhase }.nt
  s.commit.timing == 0 || s.commit.late || s.commit.reached now

/-- Whether the target of a strict timed commit had been reached at the frame boundary before the one that
comes next, so that its target boundary has passed (R48). -/
def State.commitMissed (s : State) : Bool :=
  let n := s.fsize
  let back := if s.fs = 0 then 2 * n else if s.fs = 1 then n else (n + 1 - s.fseq.ticksDone) / 2
  let cyc := (s.cycle + 2 ^ 32 - back) % 2 ^ 32
  let span := n * (if s.fs = 0 then 62500 else if s.fs = 1 then 31250 else 15625)
  let q := s.time.q + 3 * 2 ^ 32 + (if s.fseq.ticksDone = 0 then 0 else 15625) - span
  s.commit.strict && s.commit.timing != 0 && !s.commit.late &&
    s.commit.reached (if s.commit.timing = 1 then cyc else q / 3 % 2 ^ 32)

/-- Whether the pending commit is due at the frame boundary that comes next (R47, R49). -/
def State.commitDue (s : State) : Bool :=
  s.commitPending && s.commit.checked && s.boundary && s.commitReached

/-- The presentation that waited for a commit of the ring tables at the same boundary. -/
def State.presentHeld (s : State) : State :=
  if s.fseq.held then { s with fseq := { s.fseq with held := false } }.presentAll false else s

/-- The streams are presented at a nominal start (R295). Where a commit that changes the ring tables is
due at this same instant, the presentation follows it, for it is governed by the new tables (R49). -/
def State.presentStart (s : State) : State :=
  if s.commitDue && s.commit.pages.contains Page.ring && s.dirty Page.ring then
    { s with fseq := { s.fseq with held := true } }
  else s.presentAll false

/-- The nominal start of the next link cycle. -/
def State.cycleStart (s : State) : State :=
  let s := s.advanceTime.dpllCycle.fsApply.ppsCycle.linkCycle
  let s := match s.portError with
    | some e => { s with dpll := { s.dpll with waiting := some e } }
    | none => s
  { s with fseq := { s.fseq with ticksDone := 0 } }.presentStart

/-- NOMINAL_CYCLE_START: C becomes the next cycle number and Q advances; the markers go out and the
streams are presented (R305). The first start comes after ROOT_LOCK. -/
def execNominalCycleStart (s : State) : Host.Outcome State Fault Refusal :=
  .next (if s.inReset ∨ (s.time.starts = 0 ∧ s.flag Page.clk CLK.CLK_STAT.ROOT_LOCK = false) then s
  else s.cycleStart)

/-- ALIGN written in NT_CTRL (R333). -/
def execAlign (s : State) : Host.Outcome State Fault Refusal :=
  .next (s.blockWrite Page.ntime State.alignReq)

/-- SET written in NT_CTRL (R334). -/
def execSet (s : State) : Host.Outcome State Fault Refusal :=
  .next (s.blockWrite Page.ntime State.setReq)

/-- ALIGN_DONE: the nominal start that ends an ALIGN, where its marker and the sender's debt have
come (R333). -/
def execAlignDone (s : State) : Host.Outcome State Fault Refusal :=
  .next (if s.inReset ∨ s.dpll.align = none ∨ s.flag Page.ntime NTIME.NT_STAT.ALIGN_PEND = false then s
  else s.cycleStart)

/-- SET_DONE: the nominal start that ends a SET (R334). -/
def execSetDone (s : State) : Host.Outcome State Fault Refusal :=
  .next (if s.inReset ∨ s.flag Page.ntime NTIME.NT_STAT.SET_PEND = false ∨
      (s.time.starts = 0 ∧ s.flag Page.clk CLK.CLK_STAT.ROOT_LOCK = false) then s
  else s.cycleStart)

/-- NUM_FREQ_WRITE: one frequency measurement of the numeric reference (R309). -/
def execNumFreqWrite (value : Word) (s : State) : Host.Outcome State Fault Refusal :=
  .next (s.blockWrite Page.ref (fun s => s.numFreqWrite value))

/-- NUM_PHASE_WRITE: one phase sample of the numeric reference (R317). -/
def execNumPhaseWrite (value : Word) (s : State) : Host.Outcome State Fault Refusal :=
  .next (s.blockWrite Page.ref (fun s => s.numPhaseWrite value))

/-- PSTEP_GO: a write of PSTEP_CTRL (R322). -/
def execPstepGo (ctrl : Word) (s : State) : Host.Outcome State Fault Refusal :=
  .next (s.blockWrite Page.ref (fun s => s.pstepCtrl ctrl.toNat))

end Sys2Proof.Machine
end

