-- ==== Sys2Proof/Machine/Irq.lean ====
section
/-! DEFINITION. Interrupt delivery (R52 to R54): the pending pages of a vector, its assertion with the
MSI-X message, the IRQ_N pins, and the end of service. -/

namespace Sys2Proof.Machine

/-- IRQ_PEND of a page: IRQ_RAW AND IRQ_EN. -/
def State.irqPend (s : State) (p : Nat) : Nat := s.get p HDR.IRQ_RAW.RAW &&& s.get p HDR.IRQ_EN.EN

/-- Whether page `p` is mapped to vector `v`, enabled. -/
def State.mapsTo (s : State) (p v : Nat) : Bool :=
  s.flag Page.irq (IRQ.IRQ_MAP.EN (p / 4) (p % 4)) && s.get Page.irq (IRQ.IRQ_MAP.VEC (p / 4) (p % 4)) == v

/-- Whether a vector is pending: an enabled page mapped to it has its summary bit set (R52). -/
def State.vecPending (s : State) (v : Nat) : Bool :=
  allPages.any (fun p => s.mapsTo p v && s.irqPend p != 0)

/-- The VEC_INSVC field that holds a vector. -/
def insvcFld (v : Nat) : Fld := if v < 32 then IRQ.VEC_INSVC0.INSVC else IRQ.VEC_INSVC1.INSVC

/-- The MSIX_PBA field that holds a vector's pending bit (R59). -/
def pbaFld (v : Nat) : Fld := if v < 32 then HOST.MSIX_PBA0.PEND else HOST.MSIX_PBA1.PEND

/-- Bit `b` of a field set or cleared. -/
def State.setBit (s : State) (p : Nat) (f : Fld) (b : Nat) (v : Bool) : State :=
  let w := s.get p f
  if w.testBit b = v then s else s.put p f (if v then w + 2 ^ b else w - 2 ^ b)

/-- Whether a vector is in service. -/
def State.inService (s : State) (v : Nat) : Bool := (s.get Page.irq (insvcFld v)).testBit (v % 32)

/-- Whether the endpoint is in D3hot. -/
def State.d3hot (s : State) : Bool := s.get Page.host HOST.HOST_STAT.DSTATE == 3

/-- The MSI-X message of a vector: address and data of its table entry (R59). -/
def State.message (s : State) (v : Nat) : Nat × Nat :=
  (s.get Page.host (HOST.MSIX_ADDR_LO.ADDR v) * 4 + s.get Page.host (HOST.MSIX_ADDR_HI.ADDR v) * 2 ^ 32,
   s.get Page.host (HOST.MSIX_DATA.DATA v))

/-- Whether a vector's message is masked: MSI-X is not enabled in a configuration, or the function or the
vector is masked (R52, R59). -/
def State.messageMasked (s : State) (cfg : PcieCfg) (v : Nat) : Bool :=
  !cfg.msixEn || cfg.fnMask || s.flag Page.host (HOST.MSIX_CTRL.MASK v)

/-- Whether a vector's message waits: it is masked, or the endpoint is in D3hot (R52, R58). -/
def State.msixHolds (s : State) (v : Nat) : Bool := s.messageMasked s.pins.pcie v || s.d3hot

/-- The message of a vector sent, or waiting in the PBA (R52, R58). -/
def State.sendMessage (s : State) (v : Nat) : State :=
  if s.msixHolds v then
    s.setBit Page.host (pbaFld v) (v % 32) true
  else
    { s.setBit Page.host (pbaFld v) (v % 32) false with
      pins := { s.pins with messages := s.pins.messages ++ [s.message v] } }

/-- The pending bits of vectors whose events have been satisfied are cleared, as the PCIe rules that R52 and
R59 name have it: a message still waiting then is not sent. -/
def State.pbaSettle (s : State) : State :=
  (List.range 64).foldl (fun (s : State) (v : Nat) =>
    if (s.get Page.host (pbaFld v)).testBit (v % 32) && !s.vecPending v then
      s.setBit Page.host (pbaFld v) (v % 32) false else s) s

/-- A vector asserts (R52). -/
def State.vecAssert (s : State) (v : Nat) : State :=
  let s := s.put Page.irq (IRQ.VEC_NT.NT v) s.nt
  (s.setBit Page.irq (insvcFld v) (v % 32) true).sendMessage v

/-- The messages that wait in the PBA and may go now: after an unmasking, after the return to D0. -/
def State.sendWaiting (s : State) : State :=
  let s := { s with pins := { s.pins with messages := [] } }
  (List.range 64).foldl (fun (s : State) (v : Nat) =>
    if (s.get Page.host (pbaFld v)).testBit (v % 32) then s.sendMessage v else s) s

/-- Whether a vector is selected for pin IRQ_N`m` and in service: the pin is low (R53). -/
def State.irqPinLow (s : State) (m : Nat) : Bool :=
  (List.range 64).any (fun v =>
    s.inService v && (s.get Page.irq (IRQ.VEC_PIN.PINS (v / 8) (v % 8))).testBit m)

/-- A write of a VEC_EOI register: service of the written vectors ends, and one that is still pending
asserts again at once (R54). -/
def State.endService (s : State) (reg bits_ : Nat) : State :=
  let s := { s with pins := { s.pins with messages := [] } }
  (List.range 32).foldl (fun (s : State) (i : Nat) =>
    let v := 32 * reg + i
    if bits_.testBit i && s.inService v then
      let s := s.setBit Page.irq (insvcFld v) i false
      if s.vecPending v then s.vecAssert v else s
    else s) s

/-- VECTOR_ASSERT: a vector that is pending and not in service asserts (R52). -/
def execVectorAssert (v : Nat) (s : State) : Host.Outcome State Fault Refusal :=
  .next (if s.inReset || decide (64 ≤ v) || !s.vecPending v || s.inService v then s
  else { s with pins := { s.pins with messages := [] } }.vecAssert v)

/-- VEC_EOI: a write of VEC_EOI0 or VEC_EOI1 (R54). -/
def execVecEoi (reg : Nat) (bits : Word) (s : State) : Host.Outcome State Fault Refusal :=
  .next (if 2 ≤ reg then s else s.blockWrite Page.irq (fun s => s.endService reg bits.toNat))

end Sys2Proof.Machine
end

