-- ==== Sys2Proof/Machine/Boost.lean ====
section
/-! DEFINITION. The boost controllers (R370 to R373, R380): their states, the rise grant, the rail target
and the protection of the rail. -/

namespace Sys2Proof.Machine

/-- An amplifier channel beside its page. -/
def State.amp (s : State) (n : Nat) : Amp := Tab.get Amp.reset s.amps n

/-- An amplifier channel beside its page replaced. -/
def State.setAmp (s : State) (n : Nat) (a : Amp) : State :=
  { s with amps := Tab.put Amp.reset s.amps n a }

/-- STATE of a channel (AMP_STAT). -/
def State.ampState (s : State) (n : Nat) : Nat := s.get (Page.amp n) AMP.AMP_STAT.STATE

/-- A boost controller beside its page. -/
def State.boost (s : State) (k : Nat) : Boost := Tab.get Boost.reset s.boosts k

/-- A boost controller beside its page replaced. -/
def State.setBoost (s : State) (k : Nat) (b : Boost) : State :=
  { s with boosts := Tab.put Boost.reset s.boosts k b }

/-- STATE of a controller (BOOST_STAT). -/
def State.boostState (s : State) (k : Nat) : Nat := s.get (Page.boost k) BOOST.BOOST_STAT.STATE

/-- A controller's FLOOR in mV. -/
def State.boostFloor (s : State) (k : Nat) : Nat := s.get (Page.boost k) BOOST.RAIL_CFG.FLOOR

/-- Whether the pair's rail lets a WAIT_RAIL channel probe (R376). -/
def State.railReady (s : State) (k : Nat) : Bool :=
  !s.enabled (Page.boost k) || decide (3 ≤ s.boostState k)

/-- The units of the exact target: 1 mV. -/
def mvUnit : Int := 192 * 2 ^ 31

/-- The target of a controller replaced, and reported in mV (RAIL_TARGET). -/
def State.setTarget (s : State) (k : Nat) (t : Int) : State :=
  let s := s.setBoost k { s.boost k with target := t }
  s.put (Page.boost k) BOOST.RAIL_TARGET.MV (roundShift false (t / 192) 31).toNat

/-- A controller enters state `st`. -/
def State.boostEnter (s : State) (k st : Nat) : State := s.put (Page.boost k) BOOST.BOOST_STAT.STATE st

/-- The controller is SUSPENDED at FLOOR while a channel of the pair is in HOLD, PROBE or RAMP, and
returns to TRACKING or FIXED when neither is (R380). -/
def State.boostSuspend (s : State) (k : Nat) : State :=
  if s.boostState k < 3 then s
  else
    let busy := [2 * k, 2 * k + 1].any (fun n => [2, 3, 5].contains (s.ampState n))
    if busy then
      if s.boostState k = 5 then s
      else (s.boostEnter k 5).setTarget k (s.boostFloor k * mvUnit)
    else if s.boostState k = 5 then
      s.boostEnter k (if s.flag (Page.boost k) BOOST.BOOST_CTRL.TRACK then 3 else 4)
    else s

/-- The controller is OFF and its gate low; a grant or a request of it is given up. -/
def State.boostOff (s : State) (k : Nat) : State :=
  let s := s.release Kind.boostRise k
  ((s.setBoost k Boost.reset).boostEnter k 0).put (Page.boost k) BOOST.RAIL_TARGET.MV 0

/-- A request for the rise grant (R370). -/
def State.boostRequest (s : State) (k : Nat) : State := (s.boostEnter k 1).request Kind.boostRise k

/-- PAGE_CTRL.EN of a BOOST page written (R370). -/
def State.boostEnable (s : State) (k : Nat) (en : Bool) : State :=
  let g := Page.boost k
  let was := s.enabled g
  let s := s.putB g HDR.PAGE_CTRL.EN en
  if en then (if was then s else s.boostRequest k)
  else if was then s.boostOff k else s

/-- BOOST_ENABLE: a write of PAGE_CTRL.EN of a BOOST page. -/
def execBoostEnable (k : Nat) (en : Bool) (s : State) : Host.Outcome State Fault Refusal :=
  if 8 ≤ k then .next s
  else .next (s.ctrlWrite (Page.boost k) (fun s =>
    if s.pageOn (Page.boost k) then s.boostEnable k en
    else s.putB (Page.boost k) HDR.PAGE_CTRL.EN en))

/-- Whether a controller's events take place. -/
def State.boostLive (s : State) (k : Nat) : Bool := !s.inReset && s.domOn 9 && decide (k < 8)

/-- BOOST_RISE_GRANTED: the rail rises from its measured value (R370). -/
def execBoostRiseGranted (k : Nat) (s : State) : Host.Outcome State Fault Refusal :=
  if !s.boostLive k || s.boostState k != 1 || !s.holds Kind.boostRise k then .next s
  else
    let rail := s.get (Page.boost k) BOOST.BOOST_STAT.RAIL
    let s := s.setBoost k { s.boost k with running := true, endRise := decide (s.boostFloor k ≤ rail) }
    .next ((s.boostEnter k 2).setTarget k (rail * mvUnit))

/-- The rail has reached FLOOR: the grant is released (R370). -/
def State.riseEnd (s : State) (k : Nat) : State :=
  let g := Page.boost k
  let s := (s.release Kind.boostRise k).setBoost k { s.boost k with endRise := false }
  let s := s.setTarget k (s.boostFloor k * mvUnit)
  ((s.boostEnter k (if s.flag g BOOST.BOOST_CTRL.TRACK then 3 else 4)).boostSuspend k).raise g 0

/-- RAIL_READY: the rail first reaches FLOOR. -/
def execRailReady (k : Nat) (s : State) : Host.Outcome State Fault Refusal :=
  if !s.boostLive k || s.boostState k != 2 then .next s else .next (s.riseEnd k)

/-- A rise grant that timed out: OFF and GRANT_TMO (R370). -/
def State.boostTimeout (s : State) (k : Nat) : State :=
  if s.boostState k = 1 then (s.boostOff k).raise (Page.boost k) 3 else s

/-- A write of RAIL_CFG (R370, R371). -/
def State.railCfg (s : State) (k : Nat) (v : Word) : State :=
  let g := Page.boost k
  let floor := bits v.toNat 0 10
  let max := bits v.toNat 16 10
  if 1000 < floor ∨ 1000 < max ∨ max < floor then s.log g Code.range
  else
    let old := s.boostFloor k
    let s := (s.put g BOOST.RAIL_CFG.FLOOR floor).put g BOOST.RAIL_CFG.MAX max
    let st := s.boostState k
    if st ≤ 1 then s
    else if old < floor then
      ((s.release Kind.boostRise k).setBoost k { s.boost k with oldFloor := old, endRise := false }).boostRequest k
    else if st = 2 ∧ floor ≤ s.get g BOOST.BOOST_STAT.RAIL then
      s.setBoost k { s.boost k with endRise := true }
    else s

/-- RAIL_CFG_WRITE: a write of RAIL_CFG. -/
def execRailCfgWrite (k : Nat) (value : Word) (s : State) : Host.Outcome State Fault Refusal :=
  if 8 ≤ k then .next s
  else .next (s.blockWrite (Page.boost k) (fun s => s.railCfg k value))

/-! ### The target at an Fs tick (R371, R372) -/

/-- A rate of `mvPerMs` per Fs tick, in target units. -/
def State.perTick (s : State) (mvPerMs : Nat) : Int := (mvPerMs : Int) * 2 ^ 31 * (4 / 2 ^ s.fs : Nat)

/-- The look-ahead W in samples (R363). -/
def State.lookAhead (s : State) : Nat := 16 * 2 ^ s.fs

/-- env(t): the largest |y| of the pair over the look-ahead, where the sample played is W behind. -/
def State.envelope (s : State) (k : Nat) : Nat :=
  ([2 * k, 2 * k + 1].flatMap (fun n => ((s.amp n).ys.drop 1).take s.lookAhead)).foldl
    (fun m y => Nat.max m y.natAbs) 0

/-- The target in TRACKING. -/
def State.trackTarget (s : State) (k : Nat) : Int :=
  let g := Page.boost k
  let x : Int := s.get g BOOST.TRACK_CFG.HEADROOM * mvUnit
    + s.envelope k * s.get g BOOST.TRACK_CFG.V_PER_FS * 192
  let lo : Int := s.boostFloor k * mvUnit
  let hi : Int := s.get g BOOST.RAIL_CFG.MAX * mvUnit
  Max.max (Max.max lo (Min.min x hi)) ((s.boost k).target - s.perTick (s.get g BOOST.RATE_CFG.FALL))

/-- The target moving down to `floor` at no more than FALL. -/
def State.fallTo (s : State) (k floor : Nat) : Int :=
  let t := (s.boost k).target
  let f : Int := floor * mvUnit
  if t ≤ f then t
  else Max.max f (t - s.perTick (s.get (Page.boost k) BOOST.RATE_CFG.FALL))

/-- A controller at an Fs tick. -/
def State.boostTick (s : State) (k : Nat) : State :=
  let b := s.boost k
  match s.boostState k with
  | 1 => if b.running then s.setTarget k (s.fallTo k b.oldFloor) else s
  | 2 =>
    if b.endRise then s.riseEnd k
    else s.setTarget k (Min.min (s.boostFloor k * mvUnit)
      (b.target + s.perTick (s.get (Page.boost k) BOOST.RATE_CFG.RISE)))
  | 3 => s.setTarget k (s.trackTarget k)
  | 4 => s.setTarget k (s.fallTo k (s.boostFloor k))
  | 5 => s.setTarget k (s.fallTo k (s.boostFloor k))
  | _ => s

/-! ### The switch (R373) -/

/-- Whether the gate of a controller is driven (R373): its rail runs, VSN is below the target and does not exceed
OV. -/
def State.boostDrives (s : State) (k : Nat) : Bool :=
  let b := s.boost k
  b.running && decide (1 ≤ s.boostState k) && !b.ovOn &&
    decide ((s.get (Page.boost k) BOOST.BOOST_STAT.RAIL : Int) * mvUnit < b.target)

/-- VSN above OV: once per excursion. -/
def State.railOver (s : State) (k : Nat) : State :=
  if (s.boost k).ovOn then s
  else
    let s := s.setBoost k { s.boost k with ovOn := true, driven := false }
    (s.bump (Page.boost k) BOOST.BOOST_FLT_COUNT.OV).raise (Page.boost k) 2

/-- BOOST_SWITCH_PERIOD: `peak` is the largest current in units of 250 mV / 256 at BOOSTk_ISN, `vsn` the
rail in mV. -/
def execBoostSwitchPeriod (k peak vsn : Nat) (s : State) : Host.Outcome State Fault Refusal :=
  if !s.boostLive k then .next s
  else
    let g := Page.boost k
    let s := s.put g BOOST.BOOST_STAT.RAIL (Nat.min vsn 1000)
    let s := if s.get g BOOST.BOOST_LIM.OV < vsn then s.railOver k
      else s.setBoost k { s.boost k with ovOn := false }
    let on := s.boostDrives k
    .next (s.setBoost k { s.boost k with
      driven := on, limited := on && decide (s.get g BOOST.BOOST_LIM.ILIM + 1 < peak) })

/-- RAIL_OV: VSN exceeds OV. -/
def execRailOv (k : Nat) (s : State) : Host.Outcome State Fault Refusal :=
  if !s.boostLive k then .next s else .next (s.railOver k)

/-- RAIL_UV: VSN has stayed below the target minus UV for 1 ms in TRACKING or FIXED. -/
def execRailUv (k : Nat) (s : State) : Host.Outcome State Fault Refusal :=
  if !s.boostLive k || !(s.boostState k == 3 || s.boostState k == 4) then .next s
  else .next ((s.bump (Page.boost k) BOOST.BOOST_FLT_COUNT.UV).raise (Page.boost k) 1)

end Sys2Proof.Machine
end

