-- ==== Sys2Proof/Machine/Amp.lean ====
section
/-! DEFINITION. The amplifier channels (spec chapter 14): drive samples and ramps, the loop filter and
the modulator, protection, probes, the pilot tone and the calibration during play. -/

namespace Sys2Proof.Machine

/-! ### Ramps and drive samples (R361, R362) -/

/-- A quotient rounded convergently (R118); the divisor is positive. -/
def divConv (n : Int) (d : Nat) : Int :=
  let q := n / (d : Int)
  let r := n % (d : Int)
  if 2 * r > d then q + 1 else if 2 * r < d then q else if q % 2 = 0 then q else q + 1

/-- The value of a factor: a + rnd((b – a) × m / L). -/
def ChanRamp.value (r : ChanRamp) : Int :=
  if r.l2 ≤ 2 * r.m then r.b else r.a + divConv ((r.b - r.a) * (2 * r.m : Nat)) r.l2

/-- The factor one tick on; at its end it rests. -/
def ChanRamp.next (r : ChanRamp) : ChanRamp :=
  if r.l2 ≤ 2 * (r.m + 1) then ChanRamp.still r.b else { r with m := r.m + 1 }

/-- A ramp from the present value to `b` over `len` samples at 96 kHz. -/
def State.rampTo (s : State) (r : ChanRamp) (b : Int) (len : Nat) : ChanRamp :=
  ⟨r.value, b, 0, len * 2 ^ s.fs⟩

/-- 1.0 in the format of the factors (log entry 60). -/
def ampOne : Int := 0x10000000

/-- A product with a factor, rounded to Q1.31 and saturated. -/
def facMul (x f : Int) : Int := (satTo 32 (roundShift false (x * f) 28)).1

/-- The drive sample y := x × GAIN × M × S. -/
def Amp.drive (a : Amp) (x : Word) : Int :=
  facMul (facMul (facMul x.toInt a.gain.value) a.mfac.value) a.sfac.value

/-! ### The state of a channel (R369, R376) -/

/-- Whether channel `n` runs its loop: RAMP or RUN. -/
def State.ampPlays (s : State) (n : Nat) : Bool := s.ampState n == 3 || s.ampState n == 4

/-- AMP_DRV_EN pins: high while a channel of the group is in PROBE, RAMP or RUN (R369). -/
def State.drvEn (s : State) : State :=
  s.put Page.ampc AMPC.DRV_EN_STAT.DRIVEN
    (((List.range 4).filter (fun g => (List.range 4).any (fun i =>
      decide (2 ≤ s.ampState (4 * g + i) ∧ s.ampState (4 * g + i) ≤ 4)))).map (2 ^ ·)).sum

/-- A drive in -1.0 to +1.0 (Q37) made of a free value. -/
def freeDrive (v : DWord) : Int := Int.ofNat (v.toNat % (2 ^ 38 + 1)) - 2 ^ 37

/-- A probe begins (R378): from here to its end the modulation is the one at which the sensed output voltage is
PROBE_CFG.MV, a free value, for it depends on the load and the rail (log entry 37). -/
def State.probeStart (s : State) (n : Nat) : State :=
  let d := s.draw
  let m := freeDrive (Config.probeDrive (s.get (Page.amp n) AMP.PROBE_CFG.MV) d.1.toNat)
  d.2.setAmp n { d.2.amp n with probe := some m, mod := m, mStart := m, mHalf := m }

/-- A channel enters state `st`, with what follows from it: the driver enables, the factor S, the
interrupts of R376, the suspension of the pair's boost (R380) and the modulation of a probe. -/
def State.ampEnter (s : State) (n st : Nat) : State :=
  let g := Page.amp n
  let s := s.put g AMP.AMP_STAT.STATE st
  let a := s.amp n
  let s := s.setAmp n { a with
    sfac := if st = 3 then s.rampTo (ChanRamp.still 0) ampOne 960
      else if st = 4 then ChanRamp.still ampOne else ChanRamp.still 0
    rampAt := if st = 3 then some s.time.starts else a.rampAt
    run := if 2 ≤ st ∧ st ≤ 4 then a.run else 0
    gates := if 2 ≤ st ∧ st ≤ 4 then a.gates else none
    probe := none
    pilot := if st = 3 ∨ st = 4 then a.pilot else { a.pilot with ok := false } }
  let s := if st = 4 then s.raise g 2 else if st = 6 then s.raise g 3 else if st = 2 then s.probeStart n else s
  (s.drvEn).boostSuspend (n / 2)

/-- Whether EN may take the channel to WAIT_RAIL: V_FS, I_FS and RAIL_NOM are not zero (R376). -/
def State.ampReady (s : State) (n : Nat) : Bool :=
  let g := Page.amp n
  s.get g AMP.SENSE_SCALE.V_FS != 0 && s.get g AMP.SENSE_SCALE.I_FS != 0 && s.get g AMP.RAIL_NOM.MV != 0

/-- The channel is OFF; where EN has become 1 meanwhile it goes on to WAIT_RAIL. -/
def State.ampOff (s : State) (n : Nat) : State :=
  let again := (s.amp n).enAgain
  let s := s.setAmp n { s.amp n with offPend := false, enAgain := false, probeRet := none }
  let s := s.ampEnter n 0
  if again && s.ampReady n then s.ampEnter n 1 else s

/-- EN of the channel becomes 0, or its page is reset: OFF at the end of the carrier period (R376, R384). -/
def State.ampStop (s : State) (n : Nat) : State :=
  if s.ampState n = 0 then s else s.setAmp n { s.amp n with offPend := true, enAgain := false }

/-- PAGE_CTRL.EN of an AMP page written (R376). -/
def State.ampEnable (s : State) (n : Nat) (en : Bool) : State :=
  let g := Page.amp n
  if en then
    if s.enabled g then s
    else if !s.ampReady n then s.log g Code.range
    else
      let s := s.putB g HDR.PAGE_CTRL.EN true
      if s.ampState n = 0 then s.ampEnter n 1 else s.setAmp n { s.amp n with enAgain := true }
  else if s.enabled g then (s.putB g HDR.PAGE_CTRL.EN false).ampStop n
  else s

/-- AMP_ENABLE: a write of PAGE_CTRL.EN of an AMP page. -/
def execAmpEnable (chan : Nat) (en : Bool) (s : State) : Host.Outcome State Fault Refusal :=
  if 16 ≤ chan then .next s
  else .next (s.ctrlWrite (Page.amp chan) (fun s =>
    if s.pageOn (Page.amp chan) then s.ampEnable chan en
    else s.putB (Page.amp chan) HDR.PAGE_CTRL.EN en))

/-- Whether a channel's events take place: the device out of reset and AMP on. -/
def State.ampLive (s : State) (n : Nat) : Bool := !s.inReset && s.domOn 9 && decide (n < 16)

/-- PROBE_START: the pair's rail is ready and a WAIT_RAIL channel enters PROBE (R376). -/
def execProbeStart (chan : Nat) (s : State) : Host.Outcome State Fault Refusal :=
  if !s.ampLive chan || s.ampState chan != 1 || !s.railReady (chan / 2) then .next s
  else .next (s.ampEnter chan 2)

/-! ### Ticks (R362, R377) -/

/-- What a channel does at an Fs tick: its ramps advance, the drive sample of `x` joins the audio that
waits out the look-ahead, and S at 1 ends RAMP. -/
def State.ampTick (s : State) (n : Nat) (x : Word) : State :=
  let a := s.amp n
  let a := { a with gain := a.gain.next, mfac := a.mfac.next, sfac := a.sfac.next }
  let a := { a with ys := (a.drive x :: a.ys).take 128, pos := 0 }
  let s := s.setAmp n a
  let s := s.putB (Page.amp n) AMP.AMP_STAT.MUTED (a.mfac.value == 0)
  if s.ampState n = 3 ∧ a.sfac.value = ampOne then s.ampEnter n 4 else s

/-- Every channel at an Fs tick, with the sample it reads, then the boost controllers. -/
def State.ampsTick (s : State) (read : Nat → Word) : State :=
  if !s.domOn 9 then s
  else
    let s := (List.range 16).foldl (fun s n =>
      s.ampTick n (read (s.get (Page.amp n) AMP.AMP_SRC.SRC))) s
    (List.range 8).foldl (fun s k => s.boostTick k) s

/-- The measurement signals that enter at this tick, by signal ID: the sensed pair in RAMP and RUN,
0 in every other state (R365). -/
def State.senseSignals (s : State) (sense : List SensePair) : List (Nat × Word) :=
  if !s.domOn 9 then []
  else (List.range 16).flatMap (fun n =>
    let g := Page.amp n
    if !s.flag g AMP.AMP_CTRL.SIG_EN then []
    else
      let p := (sense.find? (fun e => e.chan == n)).getD ⟨n, 0, 0⟩
      let on := s.ampPlays n
      [(s.get g AMP.AMP_SIG.VSIG, if on then p.v else 0),
       (s.get g AMP.AMP_SIG.ISIG, if on then p.i else 0)])

/-- A commit that changes AMP_GAIN from `old` starts its ramp (R362). -/
def State.ampCommit (s : State) (n : Nat) (old : Int) : State :=
  let g := Page.amp n
  let new := s.getI g AMP.AMP_GAIN.GAIN
  if new = old then s
  else s.setAmp n { s.amp n with
    gain := s.rampTo (s.amp n).gain new (s.get g AMP.AMP_RAMP.LEN) }

/-- MUTE set or cleared by a write or an action (R362). -/
def State.muteSet (s : State) (n : Nat) (on : Bool) : State :=
  let g := Page.amp n
  if s.flag g AMP.AMP_CTRL.MUTE = on then s
  else
    let s := s.putB g AMP.AMP_CTRL.MUTE on
    s.setAmp n { s.amp n with
      mfac := s.rampTo (s.amp n).mfac (if on then 0 else ampOne) (s.get g AMP.AMP_RAMP.LEN) }

/-- MUTE: a write of AMP_CTRL.MUTE. -/
def execMute (chan : Nat) (on : Bool) (s : State) : Host.Outcome State Fault Refusal :=
  if 16 ≤ chan then .next s
  else .next (s.blockWrite (Page.amp chan) (fun s => s.muteSet chan on))

/-! ### The loop (R366) -/

/-- A product in Q.37 of a Q3.29 coefficient and a value with `frac` fraction bits. -/
def loopMul (c x : Int) (frac : Nat) : Int := roundShift false (c * x) (29 + frac - 37)

/-- The integrators after a sample, Q3.37 with saturation. -/
def Amp.integrate (a : Amp) (c : Nat → Int) (e : Int) : Int × Int × Int × Int :=
  let s1 := (satTo 40 (a.s1 + loopMul (c 0) e 31)).1
  let s2 := (satTo 40 (a.s2 + loopMul (c 1) s1 37)).1
  let s3 := (satTo 40 (a.s3 + loopMul (c 2) s2 37)).1
  let s4 := (satTo 40 (a.s4 + loopMul (c 3) s3 37)).1
  (s1, s2, s3, s4)

/-- rail_eff of channel `n` in mV. -/
def State.railEff (s : State) (n : Nat) : Nat :=
  let nom := s.get (Page.amp n) AMP.RAIL_NOM.MV
  let b := Page.boost (n / 2)
  Nat.max (if s.enabled b then s.get b BOOST.BOOST_STAT.RAIL else nom) ((nom + 7) / 8)

/-- One sense sample of the loop with interpolated drive `r`: `m` is limited where |u| × RAIL_NOM
exceeds MOD_MAX × rail_eff, and then the integrators keep their values. The Bool is the limit. -/
def State.loopStep (s : State) (n : Nat) (r v i : Int) : Amp × Bool :=
  let g := Page.amp n
  let a := s.amp n
  let c := fun k => s.getI g (AMP.LOOP_C.COEF k)
  let st := a.integrate c (r - v)
  let u := 64 * r + st.1 + st.2.1 + st.2.2.1 + st.2.2.2 - loopMul (c 4) i 31
  let nom := s.get g AMP.RAIL_NOM.MV
  let eff := s.railEff n
  let max : Int := (s.get g AMP.PWM_CFG.MOD_MAX * 2 ^ 22 : Nat)
  if max * eff < (u * nom).natAbs then
    ({ a with mod := if u < 0 then -max else max }, true)
  else
    ({ a with s1 := st.1, s2 := st.2.1, s3 := st.2.2.1, s4 := st.2.2.2
              mod := divConv (u * nom) eff }, false)

/-- The modulation joins the carrier period: the last value before the centre is kept. -/
def State.modNote (s : State) (a : Amp) : Amp :=
  let half := 8 / 2 ^ s.get Page.ampc AMPC.AMPC_CTRL.FSW
  { a with cnt := a.cnt + 1, mHalf := if a.cnt < half then a.mod else a.mHalf }

/-! ### The pilot tone (R379, R381) -/

/-- cos and sin of 2π × q / 614,400, in units of 2^-sineBits. -/
def pilotTrig (q : Nat) : Int × Int :=
  let x := 2 * piFixed * (q % 614400) / 614400
  let quarter := piFixed / 2
  let sinOf := fun (x : Nat) =>
    let y := x % (2 * piFixed)
    let (y, neg) := if piFixed ≤ y then (y - piFixed, true) else (y, false)
    let y := if quarter < y then piFixed - y else y
    let v := sineTerms y 40 1 y y
    if neg then -v else v
  (sinOf (x + quarter), sinOf x)

/-- A sense sample joins the sums of the window. -/
def Pilot.sample (p : Pilot) (v i : Int) : Pilot :=
  let t := pilotTrig (p.f * p.n)
  { p with vc := p.vc + v * t.1, vs := p.vs + v * t.2,
           ic := p.ic + i * t.1, is_ := p.is_ + i * t.2 }

/-- CLIP_COUNT, and MOD_CLIP at most once in a window (R366). -/
def State.clipNote (s : State) (n : Nat) : State :=
  let s := s.bump (Page.amp n) AMP.CLIP_COUNT.COUNT
  if (s.amp n).clipped then s
  else (s.setAmp n { s.amp n with clipped := true }).raise (Page.amp n) 7

/-- The samples by which the audio of a channel is delayed: W while its pair's boost page is enabled with TRACK at
1 (R28, R363). -/
def State.audioDelay (s : State) (n : Nat) : Nat :=
  if s.enabled (Page.boost (n / 2)) && s.flag (Page.boost (n / 2)) BOOST.BOOST_CTRL.TRACK then s.lookAhead else 0

/-- The sense samples from a read tick to the centre of the interpolator: 10.416667 µs at every Fs (R28, R363). -/
def pathDelay : Nat := 64

/-- The sense samples of one sample of the node Fs. -/
def State.senseRate (s : State) : Nat := 128 / 2 ^ s.fs

/-- The interpolator over drive samples, newest first, of which the first was read `at_` sense samples ago: each
joins with the coefficient of its distance from the centre, `pathDelay` after its tick. -/
def interpSum (fs step : Nat) : List Int → Nat → Int
  | [], _ => 0
  | y :: ys, at_ =>
    y * Config.interpTap fs (Nat.max at_ pathDelay - Nat.min at_ pathDelay) + interpSum fs step ys (at_ + step)

/-- 10^(q/5120) for q at or below 0 by whole powers of ten and the series of the exponential, in 2^-sineBits. -/
def expTerms (x : Nat) : Nat → Nat → Int → Int → Int
  | 0, _, _, acc => acc
  | fuel + 1, n, term, acc =>
    let t : Int := -(term * (x : Int) / (2 ^ sineBits : Nat)) / ((n + 1 : Nat) : Int)
    expTerms x fuel (n + 1) t (acc + t)

/-- ln 10 in units of 2^-sineBits, rounded down. -/
def lnTenFixed : Nat := 3060660568284699479708353448060341288

/-- The amplitude 10^(LEVEL / 20) in units of 2^-sineBits, LEVEL being the Q8.8 word of PILOT_CFG (R379). -/
def pilotAmp (level : Nat) : Int :=
  let l := (0x10000 - level) % 0x10000
  let one : Int := (2 ^ sineBits : Nat)
  expTerms (lnTenFixed * (l % 5120) / 5120) 60 0 one one / ((10 ^ (l / 5120) : Nat) : Int)

/-- The pilot tone at LEVEL and phase index `q` (R379), rounded down or, as `Config.pilotUp` has it, up. -/
def pilotTone (level q : Nat) : Int :=
  let x := pilotAmp level * (pilotTrig q).2
  let unit : Int := (2 ^ (2 * sineBits - 31) : Nat)
  x / unit + if x % unit ≠ 0 ∧ Config.pilotUp level q then 1 else 0

/-- The interpolated drive sample r of R366: the delayed audio through the interpolator, rounded convergently, with
the pilot tone added after M and S (R363, R379). -/
def State.ampInput (s : State) (n : Nat) : Int :=
  let a := s.amp n
  let r := roundShift false (interpSum s.fs s.senseRate (a.ys.drop (s.audioDelay n)) a.pos) 31
  if s.flag (Page.amp n) AMP.AMP_CTRL.PILOT_EN then r + pilotTone a.pilot.level (a.pilot.f * a.pilot.n % 614400)
  else r

/-- A sample of the loop on a channel that plays (R366): its drive is the channel's audio, and with PILOT_EN the
pilot window takes the pair. -/
def State.loopSample (s : State) (n : Nat) (v i : Int) : State :=
  let x := s.loopStep n (s.ampInput n) v i
  let a := s.modNote x.1
  let pilot := if s.flag (Page.amp n) AMP.AMP_CTRL.PILOT_EN then a.pilot.sample v i else a.pilot
  let s := s.setAmp n { a with pos := a.pos + 1, pilot := pilot }
  if x.2 then s.clipNote n else s

/-- A sample of a channel in PROBE: the modulation is constant through the probe (R378). -/
def State.probeSample (s : State) (n : Nat) : State :=
  let a := s.amp n
  s.setAmp n (s.modNote { a with mod := a.probe.getD a.mod })

/-- The number of a sense sample in its window: every one counts, whatever the channel does (R379). -/
def State.senseNext (s : State) (n : Nat) : State :=
  let a := s.amp n
  s.setAmp n { a with pilot := { a.pilot with n := a.pilot.n + 1 } }

/-- A channel whose domain turns ON within a window: the number that the next sense sample has in it. -/
def State.senseJoin (s : State) (n : Nat) : State :=
  let a := s.amp n
  s.setAmp n { a with pilot := { a.pilot with n := s.cycle % 9600 * 64 + s.time.phase / 512 } }

/-- SENSE_SAMPLE: `v` and `i` are the sensed pair (R366). -/
def execSenseSample (chan : Nat) (v i : Word) (s : State) : Host.Outcome State Fault Refusal :=
  .next (if !s.ampLive chan then s
  else if s.ampPlays chan then (s.loopSample chan v.toInt i.toInt).senseNext chan
  else if s.ampState chan = 2 then (s.probeSample chan).senseNext chan
  else s.senseNext chan)

/-! ### Carrier periods and the trip (R367, R368, R374, R375) -/

/-- An edge at `x` (in 2^-37 ROOT_CLK periods) on one period, with the error carried into the next. -/
def quantEdge (x err : Int) : Int × Int :=
  let q := roundShift false (x + err) 37
  (q, x + err - q * 2 ^ 37)

/-- The gate edges of a period whose modulation is `m1` at its start and `m2` at its centre. -/
def State.gateEdges (s : State) (n : Nat) (m1 m2 : Int) : GateEdges × Int × Int :=
  let a := s.amp n
  let quarter : Int := (2048 / 2 ^ s.get Page.ampc AMPC.AMPC_CTRL.FSW : Nat)
  let start := fun (m : Int) => quarter * (2 ^ 37 - m)
  let stop := fun (m : Int) => quarter * (3 * 2 ^ 37 + m)
  let a1 := quantEdge (start m1) a.errA
  let a2 := quantEdge (stop m2) a1.2
  let b1 := quantEdge (start (-m1)) a.errB
  let b2 := quantEdge (stop (-m2)) b1.2
  (⟨n * (512 / 2 ^ s.get Page.ampc AMPC.AMPC_CTRL.FSW), a1.1, a2.1, b1.1, b2.1, s.get (Page.amp n) AMP.PWM_CFG.DEADTIME, a.cut1, a.cut2⟩, a2.2, b2.2)

/-- The gates over the period that ends; driven low outside PROBE, RAMP and RUN (R369). -/
def State.gatePeriod (s : State) (n : Nat) : State :=
  let a := s.amp n
  let fresh := { a with mStart := a.mod, mHalf := a.mod, cnt := 0, cut1 := false, cut2 := false }
  if 2 ≤ s.ampState n ∧ s.ampState n ≤ 4 then
    let e := s.gateEdges n a.mStart a.mHalf
    s.setAmp n { fresh with gates := some e.1, errA := e.2.1, errB := e.2.2 }
  else s.setAmp n { fresh with gates := none }

/-- A calibration of channel `n` ends on a trip (R383). -/
def State.calAbort (s : State) (n : Nat) : State :=
  let g := Page.ampc
  if !s.flag g AMPC.CAL_STAT.BUSY || s.get g AMPC.CAL_STAT.LAST_CHAN != n then s
  else
    let a := Page.amp n
    let s := if s.get g AMPC.CAL_STAT.STEP = 0 then s
      else s.setAmp n { s.amp n with pilot := { (s.amp n).pilot with ok := false } }
    let s := (s.put a AMP.TRIM_V.OFS (s.cal.trimV % 65536)).put a AMP.TRIM_V.GAIN (s.cal.trimV / 65536)
    let s := (s.put a AMP.TRIM_I.OFS (s.cal.trimI % 65536)).put a AMP.TRIM_I.GAIN (s.cal.trimI / 65536)
    (((s.putB g AMPC.CAL_STAT.BUSY false).put g AMPC.CAL_STAT.STEP 0).putB g AMPC.CAL_STAT.ABORTED
      true).raise g 1

/-- A channel trips: HOLD, and one more failed attempt where RAMP was entered less than 10 s ago
(R375, R376). -/
def State.trip (s : State) (n : Nat) : State :=
  let g := Page.amp n
  let recent := match (s.amp n).rampAt with
    | some t => decide (s.time.starts - t < 960000)
    | none => false
  let s := if recent then s.bump g AMP.AMP_STAT.ATTEMPTS else s
  let s := (s.bump g AMP.TRIP_COUNT.COUNT).raise g 1
  (s.calAbort n).ampEnter n 5

/-- The limit count of the period that ends (R374, R375). -/
def State.limitPeriod (s : State) (n : Nat) : State :=
  let g := Page.amp n
  let a := s.amp n
  if a.cut1 || a.cut2 then
    let s := s.setAmp n { a with run := a.run + 1, limited := true }
    let s := (s.bump g AMP.LIMIT_COUNT.COUNT).putB g AMP.AMP_STAT.LIMITING true
    if a.limited then s else s.raise g 0
  else (s.setAmp n { a with run := 0 }).putB g AMP.AMP_STAT.LIMITING false

/-- CARRIER_PERIOD: a carrier period of the channel ends. -/
def execCarrierPeriod (chan : Nat) (s : State) : Host.Outcome State Fault Refusal :=
  if !s.ampLive chan then .next s
  else
    let s := (s.limitPeriod chan).gatePeriod chan
    if (s.amp chan).offPend then .next (s.ampOff chan)
    else if s.ampPlays chan ∧ s.get (Page.amp chan) AMP.OCP_CFG.LIMIT_N ≤ (s.amp chan).run
    then .next (s.trip chan)
    else .next s

/-! ### Probes (R376, R378) -/

/-- A probe ends with resistance `mohm`: healthy to RAMP, unhealthy to HOLD or LATCHED; a requested
probe returns to where it came from. -/
def State.probeEnd (s : State) (n mohm : Nat) (short healthy : Bool) : State :=
  let g := Page.amp n
  let s := ((s.put g AMP.RDC_LAST.MOHM (Nat.min mohm 0xFFFF)).putB g AMP.RDC_LAST.SHORT short).raise g 4
  match (s.amp n).probeRet with
  | some st =>
    let s := s.setAmp n { s.amp n with probeRet := none }
    if st = 0 then s.ampOff n else s.ampEnter n st
  | none =>
    if healthy then s.ampEnter n 3
    else
      let s := s.bump g AMP.AMP_STAT.ATTEMPTS
      s.ampEnter n (if s.get g AMP.AMP_STAT.ATTEMPTS = 3 then 6 else 5)

/-- PROBE_DONE: 20 ms have passed; `meanV` and `meanI` are the means of v and i over the last 10 ms.
A quotient by a zero mean current, and what RDC_LAST shows of a negative one, are free. -/
def execProbeDone (chan : Nat) (meanV meanI : Word) (s : State) : Host.Outcome State Fault Refusal :=
  let g := Page.amp chan
  if !s.ampLive chan || s.ampState chan != 2 then .next s
  else
    let v := meanV.toInt * s.get g AMP.SENSE_SCALE.V_FS * 1000
    let i := meanI.toInt * s.get g AMP.SENSE_SCALE.I_FS
    let lo := s.get g AMP.RDC_WIN.RDC_MIN
    let hi := s.get g AMP.RDC_WIN.RDC_MAX
    let ok := fun (r : Nat) => decide (lo ≤ r ∧ r ≤ hi)
    if i = 0 then
      if v = 0 then
        let r := s.draw.1.toNat % 65536
        .next (s.draw.2.probeEnd chan r false (ok r))
      else .next (s.probeEnd chan 0xFFFF false false)
    else if v ≠ 0 ∧ decide (v < 0) ≠ decide (i < 0) then
      .next (s.draw.2.probeEnd chan (s.draw.1.toNat % 65536) false false)
    else
      let r := (divConv v.natAbs i.natAbs).toNat
      .next (s.probeEnd chan r false (ok r))

/-- Whether the comparator acts in the first half of the carrier period (R374), by the sense samples since its start.
Where the carrier of the channel starts between sense samples, the centre lies between two as well: a trip between
these two falls in a half that the command does not tell, a free value (log entry 108). -/
def State.ocpFirst (s : State) (n : Nat) : Bool × State :=
  let half := 8 / 2 ^ s.get Page.ampc AMPC.AMPC_CTRL.FSW
  if half = (s.amp n).cnt ∧ n * half % 8 ≠ 0 then (s.draw.1.getLsbD 0, s.draw.2)
  else (decide ((s.amp n).cnt ≤ half), s)

/-- OCP_COMPARATOR: |i| exceeds the threshold. The bridge freewheels for the rest of the half-period;
a probe ends at once (R374, R378). -/
def execOcpComparator (chan : Nat) (s : State) : Host.Outcome State Fault Refusal :=
  if !s.ampLive chan || !(2 ≤ s.ampState chan ∧ s.ampState chan ≤ 4) then .next s
  else
    let h := s.ocpFirst chan
    let a := h.2.amp chan
    let s := h.2.setAmp chan (if h.1 then { a with cut1 := true } else { a with cut2 := true })
    .next (if s.ampState chan = 2 then s.probeEnd chan 0 true false else s)

/-- HOLD_EXPIRY: HOLD_MS have passed in HOLD (R376). -/
def execHoldExpiry (chan : Nat) (s : State) : Host.Outcome State Fault Refusal :=
  if !s.ampLive chan || s.ampState chan != 5 then .next s
  else .next (s.ampEnter chan (if s.get (Page.amp chan) AMP.AMP_STAT.ATTEMPTS = 3 then 6 else 2))

/-- ATTEMPTS_CLEAR: 10 s in RUN without a trip (R376). -/
def execAttemptsClear (chan : Nat) (s : State) : Host.Outcome State Fault Refusal :=
  if !s.ampLive chan || s.ampState chan != 4 then .next s
  else .next (s.put (Page.amp chan) AMP.AMP_STAT.ATTEMPTS 0)

/-- LATCH_CLR written (R376). -/
def State.latchClr (s : State) (n : Nat) : State :=
  if s.ampState n ≠ 6 then s
  else (s.put (Page.amp n) AMP.AMP_STAT.ATTEMPTS 0).ampEnter n 5

/-- LATCH_CLR. -/
def execLatchClr (chan : Nat) (s : State) : Host.Outcome State Fault Refusal :=
  if 16 ≤ chan then .next s
  else .next (s.blockWrite (Page.amp chan) (fun s => s.latchClr chan))

/-- PROBE_REQ written: one probe from OFF or LATCHED, REFUSED in every other state (R378). -/
def State.probeReq (s : State) (n : Nat) : State :=
  if s.ampState n = 0 ∨ s.ampState n = 6 then
    (s.setAmp n { s.amp n with probeRet := some (s.ampState n) }).ampEnter n 2
  else s.log (Page.amp n) Code.refused

/-- PROBE_REQ. -/
def execProbeReq (chan : Nat) (s : State) : Host.Outcome State Fault Refusal :=
  if 16 ≤ chan then .next s
  else .next (s.blockWrite (Page.amp chan) (fun s => s.probeReq chan))

/-! ### Load impedance (R381) -/

/-- The square root of n / d, rounded to the nearest integer, an exact half to even. -/
def sqrtConv (n d : Nat) : Nat :=
  let r := Nat.sqrt (4 * n / d)
  if r % 2 = 1 ∧ r * r * d = 4 * n ∧ r / 2 % 2 = 0 then r / 2 else (r + 1) / 2

/-- Z in mΩ: real part, imaginary part, magnitude, saturated; none where |Ic – jIs| is below 2^-20 of
full scale. -/
def Pilot.impedance (p : Pilot) (vfs ifs : Nat) : Option (Int × Int × Int) :=
  let den : Nat := (p.ic * p.ic + p.is_ * p.is_).toNat
  if 4 * den < (614400 * 2 ^ (31 + sineBits - 20)) ^ 2 then none
  else
    let k : Int := (vfs * 1000 : Nat)
    let re := (p.vc * p.ic + p.vs * p.is_) * k
    let im := (p.vc * p.is_ - p.vs * p.ic) * k
    let d := den * ifs
    let mag := sqrtConv (re * re + im * im).toNat (d * d)
    some ((satTo 32 (divConv re d)).1, (satTo 32 (divConv im d)).1, (satTo 32 mag).1)

/-- Z_ALARM after three reported windows in a row outside the limits or inside them. -/
def State.zAlarm (s : State) (n : Nat) (outside : Bool) : State :=
  let g := Page.amp n
  let p := (s.amp n).pilot
  let p := if outside then { p with outs := p.outs + 1, ins := 0 } else { p with outs := 0, ins := p.ins + 1 }
  let s := s.setAmp n { s.amp n with pilot := p }
  if outside then
    if p.outs = 3 ∧ !s.flag g AMP.AMP_STAT.Z_ALARM then (s.putB g AMP.AMP_STAT.Z_ALARM true).raise g 6
    else s
  else if 3 ≤ p.ins then s.putB g AMP.AMP_STAT.Z_ALARM false else s

/-- A window's impedance reported. -/
def State.zReport (s : State) (n : Nat) : State :=
  let g := Page.amp n
  let z := (s.amp n).pilot.impedance (s.get g AMP.SENSE_SCALE.V_FS) (s.get g AMP.SENSE_SCALE.I_FS)
  let v := z.getD (0x7FFFFFFF, 0x7FFFFFFF, 0x7FFFFFFF)
  let s := ((s.putI g AMP.Z_RE.VALUE v.1).putI g AMP.Z_IM.VALUE v.2.1).putI g AMP.Z_MAG.VALUE v.2.2
  let s := s.put g AMP.Z_CYCLE.VALUE s.cycle
  let s := ((s.putB g AMP.AMP_STAT.OPEN z.isNone).putB g AMP.AMP_STAT.Z_VALID true).raise g 5
  s.zAlarm n (z.isNone || decide (v.2.2 < s.get g AMP.ZWIN.Z_LO ∨ (s.get g AMP.ZWIN.Z_HI : Int) < v.2.2))

/-- The next window begins: PILOT_CFG takes effect and the once-per-window events are free again. -/
def State.windowStart (s : State) (n : Nat) : State :=
  let g := Page.amp n
  let a := s.amp n
  s.setAmp n { a with
    clipped := false, limited := false
    pilot := ⟨s.get g AMP.PILOT_CFG.F, s.get g AMP.PILOT_CFG.LEVEL, 0, 0, 0, 0, 0,
      s.ampPlays n && s.flag g AMP.AMP_CTRL.PILOT_EN, a.pilot.outs, a.pilot.ins⟩ }

/-- PILOT_WINDOW_END: a window of 9,600 link cycles ends. -/
def execPilotWindowEnd (chan : Nat) (s : State) : Host.Outcome State Fault Refusal :=
  if !s.ampLive chan then .next s
  else
    let s := if (s.amp chan).pilot.ok then s.zReport chan
      else s.putB (Page.amp chan) AMP.AMP_STAT.Z_VALID false
    .next (s.windowStart chan)

/-- A window that cannot be reported: the pilot was off, PILOT_CFG changed or a calibration ran. -/
def State.windowSpoil (s : State) (n : Nat) : State :=
  s.setAmp n { s.amp n with pilot := { (s.amp n).pilot with ok := false } }

/-- PILOT_EN written (R379). -/
def State.pilotEn (s : State) (n : Nat) (on : Bool) : State :=
  let s := s.putB (Page.amp n) AMP.AMP_CTRL.PILOT_EN on
  if on then s else s.windowSpoil n

/-! ### Calibration during play (R382) -/

/-- CAL_CTRL.GO (R382): REFUSED while BUSY and for a channel in OFF, HOLD, PROBE or LATCHED. -/
def State.calStart (s : State) (c : Nat) : State :=
  let g := Page.ampc
  let st := s.ampState c
  if s.flag g AMPC.CAL_STAT.BUSY || [0, 2, 5, 6].contains st then s.log g Code.refused
  else
    let a := Page.amp c
    let s := { s with cal := ⟨s.get a AMP.TRIM_V.OFS + 65536 * s.get a AMP.TRIM_V.GAIN,
      s.get a AMP.TRIM_I.OFS + 65536 * s.get a AMP.TRIM_I.GAIN⟩ }
    (((s.putB g AMPC.CAL_STAT.BUSY true).put g AMPC.CAL_STAT.STEP 0).putB g AMPC.CAL_STAT.ABORTED
      false).put g AMPC.CAL_STAT.LAST_CHAN c

/-- A write of CAL_CTRL. -/
def State.calCtrl (s : State) (v : Word) : State :=
  let s := s.put Page.ampc AMPC.CAL_CTRL.CHAN (v.toNat % 16)
  if v.getLsbD 4 then s.calStart (v.toNat % 16) else s

/-- CAL_GO: a write of CAL_CTRL with GO. -/
def execCalGo (ctrl : Word) (s : State) : Host.Outcome State Fault Refusal :=
  .next (s.blockWrite Page.ampc (fun s => s.calCtrl ctrl))

/-- New trims, as measured: free values. -/
def State.newTrims (s : State) (c : Nat) : State :=
  let a := Page.amp c
  let d := s.draw
  let v := d.1.toNat
  (((d.2.put a AMP.TRIM_V.OFS v).put a AMP.TRIM_V.GAIN (v / 2 ^ 16)).put a AMP.TRIM_I.OFS
    (v / 2 ^ 32)).put a AMP.TRIM_I.GAIN (v / 2 ^ 48)

/-- CAL_STEP_END: the time of a calibration step ends (R382). -/
def execCalStepEnd (s : State) : Host.Outcome State Fault Refusal :=
  let g := Page.ampc
  if s.inReset || !s.domOn 9 || !s.flag g AMPC.CAL_STAT.BUSY then .next s
  else
    let c := s.get g AMPC.CAL_STAT.LAST_CHAN
    let st := s.get g AMPC.CAL_STAT.STEP
    let s := if st = 2 then s.newTrims c else s
    let s := s.windowSpoil c
    if st = 3 then .next (((s.putB g AMPC.CAL_STAT.BUSY false).put g AMPC.CAL_STAT.STEP 0).raise g 0)
    else .next (s.put g AMPC.CAL_STAT.STEP (st + 1))

end Sys2Proof.Machine
end

