-- ==== Sys2Proof/Machine/AudioPort.lean ====
section
/-! DEFINITION. The TDM and I²S ports (spec chapter 13): formats, start and stop, masks, slip FIFOs,
loss of clock. A port is named by its page: 0x90 to 0xBF for TDM, 0xC0 to 0xC3 for I²S. -/

namespace Sys2Proof.Machine

/-- The page of audio port `p`: 0–47 TDM, 48–51 I²S. -/
def audioPage (p : Nat) : Nat := if p < 48 then Page.tdm p else Page.i2s (p - 48)

/-- Whether a port is an I²S port. -/
def isI2s (p : Nat) : Bool := decide (48 ≤ p)

/-- A port beside its page. -/
def State.aud (s : State) (p : Nat) : Audio := Tab.get Audio.reset s.audio p

/-- A port beside its page replaced. -/
def State.setAud (s : State) (p : Nat) (a : Audio) : State :=
  { s with audio := Tab.put Audio.reset s.audio p a }

/-- A direction of a port. -/
def State.pdir (s : State) (p : Nat) (tx : Bool) : PortDir := if tx then (s.aud p).tx else (s.aud p).rx

/-- A direction of a port replaced. -/
def State.setPdir (s : State) (p : Nat) (tx : Bool) (d : PortDir) : State :=
  s.setAud p (if tx then { s.aud p with tx := d } else { s.aud p with rx := d })

/-! ### Format (R342 to R345, R359) -/

/-- Slots in a frame. -/
def State.portSlots (s : State) (p : Nat) : Nat :=
  if isI2s p then 2 else s.get (audioPage p) TDM.TDM_CFG.SLOTS + 1

/-- The width that a code of SLOT_W or DATA_W means. -/
def widthOf (code : Nat) : Nat := 16 + 8 * Nat.min code 2

/-- DATA_W in bits. -/
def State.portData (s : State) (p : Nat) : Nat :=
  widthOf (if isI2s p then s.get (audioPage p) I2S.I2S_CFG.DATA_W
    else s.get (audioPage p) TDM.TDM_CFG.DATA_W)

/-- SLOT_W in bits; half the frame for an I²S port, 32 in master mode. -/
def State.portSlotW (s : State) (p : Nat) : Nat :=
  if isI2s p then 32 else widthOf (s.get (audioPage p) TDM.TDM_CFG.SLOT_W)

/-- Whether a direction is in master mode (R346, R359). -/
def State.dirMaster (s : State) (p : Nat) (tx : Bool) : Bool :=
  let g := audioPage p
  if isI2s p then s.flag g I2S.I2S_CFG.MASTER
  else
    let src := s.get g TDM.PORT_CTRL.RX_SRC
    if tx || src == 1 then s.flag g TDM.PORT_CTRL.TX_MASTER else src == 2

/-- Whether a direction is enabled. -/
def State.dirEn (s : State) (p : Nat) (tx : Bool) : Bool :=
  s.flag (audioPage p) (if tx then TDM.PORT_CTRL.TX_EN else TDM.PORT_CTRL.RX_EN)

/-- STATE of a port. -/
def State.audState (s : State) (p : Nat) : Nat := s.get (audioPage p) TDM.PORT_STAT.STATE

/-- Whether a port is RUNNING or in CLK_LOST. -/
def State.portRuns (s : State) (p : Nat) : Bool := decide (2 ≤ s.audState p)

/-- The log2 of the longest master frame at the rate in effect: 98.304 MHz (R344). -/
def State.frameLimit (s : State) : Nat := 11 - s.fs

/-- Whether the format can run (R342, R344). -/
def State.formatOk (s : State) (p : Nat) : Bool :=
  if isI2s p then true
  else
    let w := s.portSlotW p
    let l := s.get (audioPage p) TDM.TDM_CFG.FRAME_LOG2
    decide (s.portData p ≤ w) &&
      [true, false].all (fun tx => !s.dirEn p tx || !s.dirMaster p tx ||
        decide (5 ≤ l ∧ l ≤ s.frameLimit ∧ s.portSlots p * w ≤ 2 ^ l))

/-- The shortest valid slave frame (R353). -/
def State.frameMin (s : State) (p : Nat) : Nat :=
  if isI2s p then 2 * s.portData p
  else s.get (audioPage p) TDM.TDM_CFG.OFFSET + s.portSlots p * s.portSlotW p

/-- Whether a slave frame of length `len` is valid after one of length `prev`, 0 for none (R353). -/
def State.frameValid (s : State) (p prev len : Nat) : Bool :=
  decide (s.frameMin p ≤ len ∧ len ≤ 2048) && (prev == 0 || prev == len)

/-- Bit clocks in a frame of a direction: 2^FRAME_LOG2, or 64 for I²S, in master mode, and the measured length in
slave mode (R344, R346, R359). -/
def State.frameLen (s : State) (p : Nat) (tx : Bool) : Nat :=
  if !s.dirMaster p tx then s.get (audioPage p) (if tx then TDM.FRAME_LEN.TX else TDM.FRAME_LEN.RX)
  else if isI2s p then 64 else 2 ^ s.get (audioPage p) TDM.TDM_CFG.FRAME_LOG2

/-- The bit clock at which slot 0 starts, counted from the edge at which FS is first sampled active, or WS turns low:
OFFSET; I²S data start one bit clock after WS, left-justified data with it (R342, R359). -/
def State.slotStart (s : State) (p : Nat) : Nat :=
  let g := audioPage p
  if isI2s p then (if s.flag g I2S.I2S_CFG.FORMAT then 0 else 1) else s.get g TDM.TDM_CFG.OFFSET

/-- The DATA_W bits of slot `n` in a frame of `len` bit clocks, most significant first, from the bits at DIN, bit `k`
of `din` being that of bit clock `k` (R342, R359). -/
def State.dinSlot (s : State) (p len din n : Nat) : Nat :=
  let at_ := s.slotStart p + n * (if isI2s p then len / 2 else s.portSlotW p)
  (List.range (s.portData p)).foldl (fun v i => 2 * v + (din.testBit (at_ + i)).toNat) 0

/-- The received bits at the top of a Q1.31 value (R345). -/
def State.rxSample (s : State) (p : Nat) (raw : Nat) : Word := Word.ofNat raw <<< (32 - s.portData p)

/-- The samples of a received frame. -/
def State.rxSamples (s : State) (p len din : Nat) : List Word :=
  (List.range (s.portSlots p)).map (fun n => s.rxSample p (s.dinSlot p len din n))

/-- The dither key of a slot (R94). -/
def ditherKey (p n : Nat) : Word :=
  Word.ofNat (if isI2s p then 1536 + 2 * (p - 48) + n else p * 32 + n)

/-- The slot word that carries a sample of index `j`: DATA_W bits first, then zeros (R342, R345). -/
def State.slotWord (s : State) (p n : Nat) (x j : Word) : Word :=
  let w := s.portData p
  let code : Int :=
    if w = 32 then x.toInt
    else if s.flag (audioPage p) TDM.PORT_CTRL.DITHER then
      ditherTo (Word.ofNat (s.get Page.frame FRAME.DITHER_SEED.SEED)) (ditherKey p n) w j x
    else reduceTo w x
  Word.ofNat (code % (2 ^ w : Nat)).toNat <<< (s.portSlotW p - w)

/-! ### Start and stop (R357, R358) -/

/-- STATE as the directions leave it while the port runs. -/
def State.portLostNote (s : State) (p : Nat) : State :=
  s.put (audioPage p) TDM.PORT_STAT.STATE
    (if (s.aud p).rx.lost || (s.aud p).tx.lost then 3 else 2)

/-- A port that is not running is ARMED or STOPPED (R357). -/
def State.portArm (s : State) (p : Nat) : State :=
  if s.portRuns p then s
  else
    let armed := s.enabled (audioPage p) && (s.dirEn p true || s.dirEn p false)
    s.put (audioPage p) TDM.PORT_STAT.STATE (if armed then 1 else 0)

/-- The port stops: every output pin goes high-impedance (R358). -/
def State.portHalt (s : State) (p : Nat) : State :=
  let g := audioPage p
  let s := s.setAud p Audio.reset
  let s := ((s.put g TDM.PORT_STAT.STATE 0).put g TDM.PORT_STAT.TX_SLIP_PEND 0).put g
    TDM.PORT_STAT.RX_SLIP_PEND 0
  (((s.put g TDM.PORT_STAT.RX_FILL 0).put g TDM.PORT_STAT.TX_FILL 0).raise g 1).portArm p

/-- EN of a port written: a running port stops at the end of its frame, an ARMED one at once
(R357, R358). -/
def State.portEnable (s : State) (p : Nat) (en : Bool) : State :=
  let g := audioPage p
  let was := s.enabled g
  let s := s.putB g HDR.PAGE_CTRL.EN en
  if en then s.portArm p
  else if !was then s
  else if s.portRuns p then s.setAud p { s.aud p with stopping := true }
  else if s.audState p = 1 then s.portHalt p
  else s

/-- A port starts at the tick of its trigger (R351, R357). -/
def State.portStart1 (s : State) (p : Nat) : State :=
  let g := audioPage p
  if s.audState p ≠ 1 then s
  else if !s.formatOk p then (s.log g Code.range).raise g 9
  else
    let s := s.setAud p { Audio.reset with
      rxMasks := [(0, Word.ofNat (s.get g TDM.RX_MASK.MASK))]
      txMask := Word.ofNat (s.get g TDM.TX_MASK.MASK) }
    (s.put g TDM.PORT_STAT.STATE 2).raise g 0

/-- Every ARMED port of the start groups in `groups` starts (R357). -/
def State.portStartGroups (s : State) (groups : Nat) : State :=
  if !s.domOn 8 then s
  else (List.range 52).foldl (fun s p =>
    if groups.testBit (s.get (audioPage p) TDM.PORT_CTRL.START_GROUP) then s.portStart1 p else s) s

/-! ### Slips (R348 to R351) -/

/-- Whether a direction runs with a slip FIFO. -/
def State.dirSlips (s : State) (p : Nat) (tx : Bool) : Bool :=
  s.portRuns p && s.dirEn p tx && !s.dirMaster p tx

/-- The directions with a slip FIFO, by page, receive before transmit. -/
def State.slipDirs (s : State) : List (Nat × Bool) :=
  ((List.range 52).flatMap (fun p => [(p, false), (p, true)])).filter (fun d => s.dirSlips d.1 d.2)

/-- The slip group of a direction. -/
def State.slipGroup (s : State) (p : Nat) (tx : Bool) : Nat :=
  s.get (audioPage p) (if tx then TDM.PORT_CTRL.TX_SLIP_GROUP else TDM.PORT_CTRL.RX_SLIP_GROUP)

/-- The members of a direction's slip group, the leader first; the direction alone without a group
(R350). -/
def State.slipMembers (s : State) (p : Nat) (tx : Bool) : List (Nat × Bool) :=
  let g := s.slipGroup p tx
  if g = 0 then [(p, tx)]
  else s.slipDirs.filter (fun d => s.slipGroup d.1 d.2 == g)

/-- A sample below –60 dBFS (R349). -/
def quiet (x : Word) : Bool := decide (x.toInt.natAbs < 2147484)

/-- Whether every enabled slot of a frame is quiet. -/
def framesQuiet (l : List Word) (mask : Word) : Bool :=
  (l.zip (List.range 32)).all (fun e => !mask.toNat.testBit e.2 || quiet e.1)

/-- Whether the frame that a direction would drop or repeat at this tick is quiet; for a transmitter
`new` is the frame read at this tick. -/
def State.dirQuiet (s : State) (p : Nat) (tx : Bool) (new : Nat → TxEntry) : Bool :=
  if tx then framesQuiet ((new p).slots.map (·.1)) (new p).mask
  else match (s.aud p).rxq with
    | e :: _ => match e.samples with
      | some l => framesQuiet l e.mask
      | none => true
    | [] => true

/-- What a direction does at this tick: the sense of its slip (whether the external clock runs ahead)
and whether it is forced. -/
def State.slipNow (s : State) (p : Nat) (tx : Bool) (new : Nat → TxEntry) : Option (Bool × Bool) :=
  let members := s.slipMembers p tx
  match members with
  | [] => none
  | (lp, lt) :: _ =>
    let d := s.pdir lp lt
    match d.pend with
    | none => none
    | some (ahead, age) =>
      if !s.flag (audioPage lp) TDM.PORT_CTRL.SLIP_DEFER then some (ahead, false)
      else if d.force || decide (256 ≤ age) then some (ahead, true)
      else if members.all (fun m => s.dirQuiet m.1 m.2 new) then some (ahead, false)
      else none

/-- PORT_STAT's pending bits as the directions have them. -/
def State.pendNote (s : State) (p : Nat) (tx : Bool) : State :=
  s.putB (audioPage p) (if tx then TDM.PORT_STAT.TX_SLIP_PEND else TDM.PORT_STAT.RX_SLIP_PEND)
    (s.pdir p tx).pend.isSome

/-- The fill of a direction measured: reported, and a slip becomes pending outside 1.25 to 2.75; a
fill below 0.5 or above 3.5 forces a deferred one (R348, R349). Only a group's leader decides. -/
def State.fillNote (s : State) (p : Nat) (tx : Bool) (f : Nat) : State :=
  let s := s.put (audioPage p) (if tx then TDM.PORT_STAT.TX_FILL else TDM.PORT_STAT.RX_FILL)
    (Nat.min f 255)
  if (s.slipMembers p tx).head? ≠ some (p, tx) then s
  else
    let d := s.pdir p tx
    let pend := match d.pend with
      | some x => some x
      | none =>
        if f < 80 then some (tx, 0) else if 176 < f then some (!tx, 0) else none
    let d := { d with pend := pend, force := d.force || (pend.isSome && decide (f < 32 ∨ 224 < f)) }
    (s.setPdir p tx d).pendNote p tx

/-- A pending slip has waited one more frame. -/
def State.pendAge (s : State) (p : Nat) (tx : Bool) : State :=
  let d := s.pdir p tx
  s.setPdir p tx { d with pend := d.pend.map (fun x => (x.1, x.2 + 1)) }

/-- A slip counted (R348, R349): a receiver drops and a transmitter repeats when the external clock
runs ahead. -/
def State.slipCount (s : State) (p : Nat) (tx ahead forced : Bool) : State :=
  let g := audioPage p
  let f := match tx, ahead with
    | false, true => TDM.SLIP_COUNT.RX_DROP
    | false, false => TDM.SLIP_COUNT.RX_REPEAT
    | true, false => TDM.SLIP_COUNT.TX_DROP
    | true, true => TDM.SLIP_COUNT.TX_REPEAT
  let s := ((s.bump g f).raise g 2).setPdir p tx
    { (s.pdir p tx) with pend := none, force := false }
  let s := s.pendNote p tx
  if forced then (s.bump g TDM.FORCED_COUNT.COUNT).raise g 3 else s

/-- The fill that alignment aims at, given the time `frac` to or from the tick: whole frames so that F
lies from 1.5 to under 2.5, or in a group nearest to the leader's F (R351). -/
def State.alignAhead (s : State) (p : Nat) (tx : Bool) (frac : Nat) : Nat :=
  let own := if 32 ≤ frac then 1 else 2
  match s.slipMembers p tx with
  | (lp, lt) :: _ =>
    if (lp, lt) = (p, tx) || !(s.pdir lp lt).aligned then own
    else
      let f := s.get (audioPage lp) (if lt then TDM.PORT_STAT.TX_FILL else TDM.PORT_STAT.RX_FILL)
      (f + 32 - Nat.min frac (f + 32)) / 64
  | [] => own

/-! ### The ports at an Fs tick -/

/-- The substitute for a slot: 0 or the last sample delivered (R352). -/
def State.portFill (s : State) (p : Nat) : List Word :=
  (List.range (s.portSlots p)).map (fun n =>
    if s.flag (audioPage p) TDM.PORT_CTRL.UFILL then (s.aud p).last.getD n 0 else 0)

/-- A tick whose samples are substituted (R352). -/
def State.portSubstitute (s : State) (p : Nat) (mask : Word) : State :=
  let g := audioPage p
  let s := s.setAud p { s.aud p with entered := some (s.portFill p, mask) }
  (s.bump g TDM.UNDERRUN_COUNT.COUNT).raise g 4

/-- The receive mask of a frame: the one at its FS edge with MASK_IMM at 1, else the committed one (R356). -/
def State.rxMaskOf (s : State) (p : Nat) (m : Word) : Nat :=
  if s.flag (audioPage p) TDM.PORT_CTRL.MASK_IMM then m.toNat else s.get (audioPage p) TDM.RX_MASK.MASK

/-- The last sample delivered in each slot, with those of a frame that enters (R352, R355). -/
def State.lastHeard (s : State) (p : Nat) (l : List Word) (mask : Nat) : List Word :=
  (List.range (s.portSlots p)).map (fun n =>
    if mask.testBit n then l.getD n 0 else (s.aud p).last.getD n 0)

/-- The mask of the receive frame whose FS edge came last. -/
def Audio.rxMaskNow (a : Audio) : Word := ((a.rxMasks.head?).map (·.2)).getD 0

/-- The head of the receive FIFO enters at this tick. -/
def State.rxEnter (s : State) (p : Nat) (keep : Bool) : State :=
  let a := s.aud p
  match a.rxq with
  | [] => s.portSubstitute p a.rxMaskNow
  | e :: rest =>
    let s := s.setAud p { a with rxq := if keep then e :: rest else rest }
    let a := s.aud p
    match e.samples with
    | none => s.setAud p { a with entered := none }
    | some l =>
      if e.valid then s.setAud p { a with
        entered := some (l, e.mask), last := s.lastHeard p l (s.rxMaskOf p e.mask) }
      else s.portSubstitute p e.mask

/-- The head of the receive FIFO enters, and its fill is measured; `moved` is what a slip that acts here has moved the
fill by (R348). A place that alignment leaves empty has no fill. -/
def State.rxTake (s : State) (p : Nat) (keep : Bool) (moved : Nat) : State :=
  match (s.aud p).rxq with
  | e :: _ =>
    (if e.samples.isSome then s.fillNote p false (64 * (e.waited - 1) + e.frac + moved) else s).rxEnter p keep
  | [] => s.rxEnter p keep

/-- Every frame in the receive FIFO has waited one more tick. -/
def State.rxWait (s : State) (p : Nat) : State :=
  let a := s.aud p
  s.setAud p { a with rxq := a.rxq.map (fun e => { e with waited := e.waited + 1 }) }

/-- A receiver with a slip FIFO at a tick. -/
def State.rxTick (s : State) (p : Nat) (act : Option (Bool × Bool)) : State :=
  if (s.pdir p false).lost then
    s.portSubstitute p (Word.ofNat (s.get (audioPage p) TDM.RX_MASK.MASK))
  else if !(s.pdir p false).aligned then s.setAud p { s.aud p with entered := none }
  else
    let s := s.rxWait p
    match act with
    | none => (s.pendAge p false).rxTake p false 0
    | some (true, forced) =>
      let s := s.slipCount p false true forced
      (s.setAud p { s.aud p with rxq := (s.aud p).rxq.drop 1 }).rxTake p false 0
    | some (false, forced) => (s.slipCount p false false forced).rxTake p true 64

/-- A transmitter with a slip FIFO at a tick: the frame read now is queued, twice or not at all where
a slip acts on a direction that is aligned. A slip moves the fill by one frame, which the frames before it show
(R348). -/
def State.txTick (s : State) (p : Nat) (act : Option (Bool × Bool)) (new : TxEntry) : State :=
  let a := s.aud p
  let old := a.txq.map (fun e => { e with age := e.age + 1 })
  let moved (d : Int) (l : List TxEntry) : List TxEntry := l.map (fun e => { e with moved := e.moved + d })
  if a.tx.lost then s.setAud p { a with txq := [] }
  else match (if a.tx.aligned then act else none) with
    | none => (s.setAud p { a with txq := old ++ [new] }).pendAge p true
    | some (true, forced) =>
      (s.setAud p { a with txq := moved 64 (old ++ [new]) ++ [new] }).slipCount p true true forced
    | some (false, forced) => (s.setAud p { a with txq := moved (-64) old }).slipCount p true false forced

/-- The transmit mask in effect for a frame of sample index `j` (R356). -/
def State.txMaskAt (s : State) (p : Nat) (j : Word) : State :=
  let a := s.aud p
  let due := a.txNext.filter (fun e => decide (0 ≤ (j - e.1).toInt))
  s.setAud p { a with
    txMask := (due.getLast?.map (·.2)).getD a.txMask
    txNext := a.txNext.filter (fun e => decide ((j - e.1).toInt < 0)) }

/-- The frame that a transmitter reads at tick `t`: the samples of `read`, whose index is `jFrame` on
the frame path and `jFast` from the fast slice (R78, R90). -/
def State.txNew (s : State) (p : Nat) (read : Nat → Word) (fast : List Nat) (jFrame jFast : Word) :
    TxEntry :=
  let base := s.get (audioPage p) TDM.TX_SIG.BASE
  { slots := (List.range (s.portSlots p)).map (fun n =>
      (read (base + n), if fast.contains (base + n) then jFast else jFrame))
    mask := (s.aud p).txMask
    age := 0
    moved := 0
    fast := (List.range (s.portSlots p)).map (fun n => fast.contains (base + n)) }

/-- One port at an Fs tick, with the slip decisions of all directions already taken. -/
def State.portTick1 (s : State) (p : Nat) (actRx actTx : Option (Bool × Bool)) (new : TxEntry) :
    State :=
  let s := if !s.dirEn p false then s
    else if s.dirMaster p false then
      match (s.aud p).rxq with
      | [] => s.setAud p { s.aud p with entered := none }
      | _ => s.rxEnter p false
    else s.rxTick p actRx
  if !s.dirEn p true then s
  else if s.dirMaster p true then
    let a := s.aud p
    let older := a.txq.map (fun e => { e with age := e.age + 1 })
    s.setAud p { a with txq := older.filter (fun e => decide (e.age ≤ 2)) ++ [new] }
  else s.txTick p actTx new

/-- Every running port at tick `t` (R347 to R356): receivers deliver a frame, transmitters read one. -/
def State.portsTick (s : State) (t : Word) (read : Nat → Word) (fast : List Nat) : State :=
  let jFrame := t - Word.ofNat (2 * s.fsize + 1)
  let ps := (List.range 52).filter (fun p => s.portRuns p)
  let s := ps.foldl (fun s p => s.txMaskAt p jFrame) s
  let new := fun p => s.txNew p read fast jFrame (t - 1)
  let acts := ps.map (fun p => (p, s.slipNow p false new, s.slipNow p true new, new p))
  acts.foldl (fun s e => s.portTick1 e.1 e.2.1 e.2.2.1 e.2.2.2) s

/-- The samples of the ports that are written at this tick, by signal ID: those of the frame that
entered at the last tick (R78, R355, R356). -/
def State.portsLanding (s : State) : List (Nat × Word) :=
  (List.range 52).flatMap (fun p =>
    let a := s.aud p
    let g := audioPage p
    if !s.portRuns p || !s.dirEn p false then []
    else match a.entered with
      | none => []
      | some (l, m) =>
        let mask := s.rxMaskOf p m
        ((l.zip (List.range 32)).filter (fun e => mask.testBit e.2)).map
          (fun e => (s.get g TDM.RX_SIG.BASE + e.2, e.1)))

/-- The active RUN became 0: every sample that was read from the frame path and waits to be sent is 0 (R81). -/
def State.portsMute (s : State) : State :=
  (List.range 52).foldl (fun s p =>
    let a := s.aud p
    if a.txq.isEmpty then s
    else s.setAud p { a with txq := a.txq.map (fun e => { e with
      slots := (e.slots.zip e.fast).map (fun x => if x.2 then x.1 else (0, x.1.2)) }) }) s

/-- A commit at the boundary of sample index `b` that changes TX_MASK of a port (R356). -/
def State.portCommit (s : State) (p : Nat) (b : Word) : State :=
  let a := s.aud p
  if !s.portRuns p || s.flag (audioPage p) TDM.PORT_CTRL.MASK_IMM then s
  else s.setAud p { a with
    txNext := a.txNext ++ [(b, Word.ofNat (s.get (audioPage p) TDM.TX_MASK.MASK))] }

/-! ### Frames at the pins -/

/-- RATE_OFF of a slave direction (R354): receive where it is a slave, otherwise transmit. -/
def State.rateNote (s : State) (p : Nat) (tx : Bool) (rate : Int) : State :=
  let g := audioPage p
  let s := if tx && s.dirSlips p false then s
    else s.putI g TDM.RATE_OFF.PPB (satTo 32 rate).1
  if 1000000 * 256 < rate.natAbs then s.raise g 8 else s

/-- The run of valid frames of a direction in CLK_LOST (R352). -/
def State.lostFrame (s : State) (p : Nat) (tx valid : Bool) (len : Nat) : State :=
  let d := s.pdir p tx
  s.setPdir p tx { d with good := if valid then d.good + 1 else 0, len := len }

/-- A direction realigns after CLK_LOST (R352). -/
def State.clkBack (s : State) (p : Nat) (tx : Bool) : State :=
  let d := s.pdir p tx
  (((s.setPdir p tx { PortDir.reset with len := d.len }).portLostNote p).pendNote p tx).raise
    (audioPage p) 6

/-- FRAME_LEN; an I²S port reports its one frame in both fields. -/
def State.lenNote (s : State) (p : Nat) (tx : Bool) (len : Nat) : State :=
  let g := audioPage p
  let s := if !tx || isI2s p then s.put g TDM.FRAME_LEN.RX len else s
  if tx || isI2s p then s.put g TDM.FRAME_LEN.TX len else s

/-- The masks at and after an instant, oldest last: those set later, and the one in effect then. -/
def masksFrom (l : List (Nat × Word)) (at_ : Nat) : List (Nat × Word) :=
  l.takeWhile (fun e => decide (at_ < e.1)) ++ (l.dropWhile (fun e => decide (at_ < e.1))).take 1

/-- The mask of the frame whose FS active edge came `since` ROOT_CLK periods ago (R356); earlier masks are
forgotten. -/
def State.rxEdgeMask (s : State) (p since : Nat) : Word × State :=
  let l := masksFrom (s.aud p).rxMasks (s.rootNow - since)
  (((l.getLast?).map (·.2)).getD 0, s.setAud p { s.aud p with rxMasks := l })

/-- A receive frame goes into the FIFO; the first one aligns the direction (R351). -/
def State.rxQueue (s : State) (p : Nat) (fr : RxFrame) (valid : Bool) : State :=
  let m := s.rxEdgeMask p fr.since
  let s := m.2
  let a := s.aud p
  let e : RxEntry := ⟨some (s.rxSamples p fr.len fr.din), m.1, valid, fr.frac % 64, 0⟩
  if a.rx.aligned then s.setAud p { a with rxq := (a.rxq ++ [e]).take 4 }
  else
    let void : RxEntry := ⟨none, 0, true, 0, 0⟩
    let n := s.alignAhead p false (fr.frac % 64)
    let s := (s.setAud p { a with
      rxq := List.replicate n void ++ [e]
      rx := { a.rx with aligned := true, pend := none, force := false } }).pendNote p false
    s.put (audioPage p) TDM.PORT_STAT.RX_FILL (64 * n + fr.frac % 64)

/-- A receive frame of a master direction completes: it enters at the tick that follows (R347). -/
def State.rxMaster (s : State) (p : Nat) (fr : RxFrame) : State :=
  let m := s.rxEdgeMask p fr.since
  let s := m.2
  let len := s.frameLen p false
  let e : RxEntry := ⟨some (s.rxSamples p len fr.din), m.1, true, 0, 0⟩
  (s.setAud p { s.aud p with rxq := [e] }).lenNote p false len

/-- A receive frame of a slave direction completes (R348 to R354). -/
def State.rxSlave (s : State) (p : Nat) (fr : RxFrame) : State :=
  let g := audioPage p
  let d := s.pdir p false
  let valid := s.frameValid p d.len fr.len
  let s := (s.lenNote p false fr.len).rateNote p false fr.rate
  let s := if valid then s else (s.bump g TDM.FRAME_ERR_COUNT.COUNT).raise g 7
  if d.lost then
    let s := s.lostFrame p false valid fr.len
    if valid ∧ 16 ≤ d.good + 1 then (s.clkBack p false).rxQueue p fr valid else s
  else (s.setPdir p false { d with len := fr.len }).rxQueue p fr valid

/-- PORT_RX_FRAME: a receive frame completes. -/
def execPortRxFrame (port : Nat) (frame : RxFrame) (s : State) : Host.Outcome State Fault Refusal :=
  .next (if s.inReset || !s.domOn 8 || decide (52 ≤ port) || !s.portRuns port || !s.dirEn port false then s
  else if s.dirMaster port false then s.rxMaster port frame
  else s.rxSlave port frame)

/-- A frame goes out: enabled slots carry their samples, the others zero or nothing (R356). -/
def State.txSend (s : State) (p : Nat) (e : TxEntry) : State :=
  let g := audioPage p
  let mask := if s.flag g TDM.PORT_CTRL.MASK_IMM then s.get g TDM.TX_MASK.MASK else e.mask.toNat
  let out := (e.slots.zip (List.range 32)).map (fun x =>
    if mask.testBit x.2 then some (s.slotWord p x.2 x.1.1 x.1.2)
    else if s.flag g TDM.PORT_CTRL.SLOT_OFF then some 0 else none)
  s.setAud p { s.aud p with out := out, prev := ((s.aud p).out :: (s.aud p).prev).take 8 }

/-! ### The frame at the pins (R342 to R344, R359) -/

/-- DOUT in bit clock `k` of the frame that goes out, counted from the edge at which FS is first sampled active or
WS turns low: slot 0 starts OFFSET later, what is left of the frames before it comes first, and 0 follows the last
slot; none is high impedance. -/
def State.doutBit (s : State) (p k : Nat) : Option Bool :=
  let len := s.frameLen p true
  let off := s.slotStart p
  let w := if isI2s p then len / 2 else s.portSlotW p
  let back := (off - k + len - 1) / len
  let words := if back = 0 then (s.aud p).out else (s.aud p).prev.getD (back - 1) []
  let j := k + back * len - off
  let top := s.portSlotW p
  if s.portSlots p ≤ j / w then some false
  else (words.getD (j / w) none).map (fun x => decide (j % w < top) && x.toNat.testBit (top - 1 - j % w))

/-- FS, or WS, of a direction in bit clock `k` of its frame. -/
def State.fsLevel (s : State) (p : Nat) (tx : Bool) (k : Nat) : Bool :=
  let g := audioPage p
  if isI2s p then decide (s.frameLen p tx / 2 ≤ k)
  else (if s.flag g TDM.TDM_CFG.FS_LONG then decide (k < s.frameLen p tx / 2) else k == 0) !=
    s.flag g TDM.TDM_CFG.FS_INV

/-- Whether a port samples on the falling edge of its bit clock, and whether it launches on it. -/
def State.sampleFall (s : State) (p : Nat) : Bool := !isI2s p && s.flag (audioPage p) TDM.TDM_CFG.SAMPLE_FALL

def State.launchFall (s : State) (p : Nat) : Bool :=
  if !isI2s p && s.flag (audioPage p) TDM.TDM_CFG.LAUNCH_SAME then s.sampleFall p else !s.sampleFall p

/-- A frame of zeros, for places before the first emission read. -/
def State.txVoid (s : State) (p : Nat) (age : Nat) : TxEntry :=
  ⟨List.replicate (s.portSlots p) (0, 0), (s.aud p).txMask, age, 0, List.replicate (s.portSlots p) false⟩

/-- The transmit FIFO aligned at the first FS edge (R351): the frame to send is the one read `n`
ticks before the last. -/
def State.txAlign (s : State) (p : Nat) (frac : Nat) : State :=
  let n := s.alignAhead p true frac
  let a := s.aud p
  let have_ := a.txq.length
  let q := if n + 1 ≤ have_ then a.txq.drop (have_ - (n + 1))
    else (List.range (n + 1 - have_)).map (fun i => s.txVoid p (n - i)) ++ a.txq
  (s.setAud p { a with txq := q, tx := { a.tx with aligned := true, pend := none, force := false } }).pendNote
    p true

/-- A transmit frame of a slave direction begins at its FS edge; `frac` is the time since the last Fs
tick. -/
def State.txSlave (s : State) (p : Nat) (frac : Nat) : State :=
  let s := if (s.pdir p true).aligned then s else s.txAlign p frac
  match (s.aud p).txq with
  | [] => s
  | e :: rest =>
    let s := s.setAud p { s.aud p with txq := rest }
    (s.txSend p e).fillNote p true ((64 * e.age + frac : Nat) + e.moved).toNat

/-- PORT_TX_FRAME: a transmit frame begins at its FS active edge. `len` is the length of the frame
before it at a slave's pins. -/
def execPortTxFrame (port : Nat) (len frac : Nat) (rate : Int) (s : State) :
    Host.Outcome State Fault Refusal :=
  if s.inReset || !s.domOn 8 || decide (52 ≤ port) || !s.portRuns port || !s.dirEn port true
  then .next s
  else if s.dirMaster port true then
    let s := s.lenNote port true (s.frameLen port true)
    match (s.aud port).txq.find? (fun e => e.age == 1) with
    | some e => .next (s.txSend port e)
    | none => .next (s.txSend port (s.txVoid port 1))
  else
    let d := s.pdir port true
    let valid := s.frameValid port d.len len
    let s := (s.lenNote port true len).rateNote port true rate
    if d.lost then
      let s := s.lostFrame port true valid len
      if valid ∧ 16 ≤ d.good + 1 then .next ((s.clkBack port true).txSlave port (frac % 64))
      else .next s
    else .next ((s.setPdir port true { d with len := len }).txSlave port (frac % 64))

/-- CLK_LOSS: a slave direction has seen no valid FS edge for 4 Fs periods (R352). -/
def execClkLoss (port : Nat) (tx : Bool) (s : State) : Host.Outcome State Fault Refusal :=
  if s.inReset || !s.domOn 8 || decide (52 ≤ port) || !s.dirSlips port tx || (s.pdir port tx).lost
  then .next s
  else
    let a := s.aud port
    let s := s.setAud port (if tx then { a with txq := [] } else { a with rxq := [] })
    let s := s.setPdir port tx { PortDir.reset with lost := true, len := (s.pdir port tx).len }
    .next (((s.portLostNote port).pendNote port tx).raise (audioPage port) 5)

/-- MASK_IMM_WRITE: with MASK_IMM at 1 a write of a mask updates both copies and makes nothing
dirty (R356). -/
def State.maskImm (s : State) (p : Nat) (tx : Bool) (mask : Word) : State :=
  let g := audioPage p
  let f := if tx then TDM.TX_MASK.MASK else TDM.RX_MASK.MASK
  let v := if isI2s p then mask.toNat % 4 else mask.toNat
  let s := (s.put g f v).putSh g f v
  if tx then s else s.setAud p { s.aud p with rxMasks := (s.rootNow, Word.ofNat v) :: (s.aud p).rxMasks }

/-- A write of TX_MASK or RX_MASK (R356): with MASK_IMM at 1 both copies change and the page stays clean;
otherwise the shadow copy. A page whose shadow copies are held refuses either (R42, R44). -/
def State.maskWrite (s : State) (p : Nat) (tx : Bool) (mask : Word) : State :=
  let g := audioPage p
  let f := if tx then TDM.TX_MASK.MASK else TDM.RX_MASK.MASK
  if s.flag g TDM.PORT_CTRL.MASK_IMM then
    if s.shadowHeld g then s.log g Code.refused else s.maskImm p tx mask
  else s.shadowWrite g [(f, if isI2s p then mask.toNat % 4 else mask.toNat)]

/-- MASK_IMM_WRITE. -/
def execMaskImmWrite (port : Nat) (tx : Bool) (mask : Word) (s : State) :
    Host.Outcome State Fault Refusal :=
  if 52 ≤ port then .next s
  else .next (s.blockWrite (audioPage port) (fun s => s.maskWrite port tx mask))

/-- PORT_STOP: a port whose EN was cleared reaches the end of its frame (R358). -/
def execPortStop (port : Nat) (s : State) : Host.Outcome State Fault Refusal :=
  if s.inReset || !s.domOn 8 || decide (52 ≤ port) || !(s.aud port).stopping then .next s
  else .next (s.portHalt port)

/-- A write of PORT_START (R357). -/
def State.portStartWrite (s : State) (groups : Word) : State :=
  { s with startTrig := (s.startTrig ||| groups.toNat % 256) }

/-- PORT_START_WRITE: a write of PORT_START on the TDM0 page. -/
def execPortStartWrite (groups : Word) (s : State) : Host.Outcome State Fault Refusal :=
  .next (s.blockWrite (audioPage 0) (fun s => s.portStartWrite groups))

/-- PORT_START_TICK: the first Fs tick at least 2 µs after the trigger. -/
def execPortStartTick (s : State) : Host.Outcome State Fault Refusal :=
  if s.inReset || s.startTrig == 0 then .next s
  else .next ({ s with startTrig := 0 }.portStartGroups s.startTrig)

end Sys2Proof.Machine
end

