-- ==== Sys2Proof/Machine/Bundle.lean ====
section
/-! DEFINITION. The reserved encodings of the Ibex instruction set (R163 to R173), as commit
validation scans them in program memory (R174). Every predicate counts as 1. -/

namespace Sys2Proof.Machine

/-- Whether the bits of `v` from `lo` up, `w` of them, are not all 0. -/
def nz (v lo w : Nat) : Bool := bits v lo w != 0

/-! ### Slots 0 and 1 -/

/-- A MAC slot word that is reserved by itself (R165, R173). -/
def macReserved (v : Nat) : Bool :=
  match bits v 24 5 with
  | 0x00 => nz v 0 24
  | 0x01 => nz v 0 5 || (v.testBit 6 && (bits v 15 6 == 63 || bits v 9 6 == 63))
  | 0x02 => nz v 0 5 || (v.testBit 6 && (bits v 15 6 == 63 || bits v 9 6 == 63))
  | 0x03 => nz v 0 9 || decide (40 < bits v 9 6)
  | 0x04 => nz v 0 10
  | 0x05 => nz v 0 10 || v.testBit 15
  | 0x07 => nz v 0 9
  | 0x08 => nz v 0 3
  | 0x10 => nz v 5 7
  | 0x11 => nz v 5 7
  | 0x12 => nz v 5 7
  | 0x13 => false
  | 0x14 => nz v 0 12
  | 0x15 => false
  | 0x16 => nz v 16 2
  | 0x17 => nz v 0 12
  | 0x18 => nz v 0 12
  | 0x1B => nz v 0 6
  | 0x1C => false
  | op => decide (0x1D ≤ op) || nz v 0 6

/-- The accumulator that a MAC slot word writes, with whether it is a division (R165). -/
def macAcc (v : Nat) : Option (Nat × Bool) :=
  match bits v 24 5 with
  | 0x01 => some (bits v 21 3, false)
  | 0x02 => some (bits v 21 3, false)
  | 0x03 => some (bits v 21 3, false)
  | 0x07 => some (bits v 21 3, true)
  | 0x08 => some (bits v 21 3, true)
  | _ => none

/-- The quotient register of a DIVS or DIVQ word. -/
def divQuo (v : Nat) : Option Nat :=
  match bits v 24 5 with
  | 0x07 => some (bits v 15 6)
  | 0x08 => some (bits v 15 6)
  | _ => none

/-- The bundle combinations of R172. -/
def macPairReserved (a b : Nat) : Bool :=
  (match macAcc a, macAcc b with
   | some x, some y => x.1 == y.1 && (x.2 || y.2)
   | _, _ => false) ||
  (match divQuo a, divQuo b with
   | some x, some y => x == y
   | _, _ => false)

/-! ### Slot 2 -/

/-- The operand field of a single-form addressing mode (R166). -/
def modeReserved (v : Nat) : Bool :=
  match bits v 9 3 with
  | 0 => false
  | 1 => nz v 4 5
  | 2 => false
  | 3 => nz v 4 5
  | 4 => false
  | 5 => nz v 4 2
  | _ => true

/-- The address-register body (chapter 06). -/
def aopReserved (v : Nat) : Bool :=
  match bits v 21 3 with
  | 0 => false
  | 1 => nz v 4 13
  | 2 => false
  | 3 => v.testBit 16
  | 4 => nz v 6 11
  | 5 => nz v 6 11
  | _ => true

/-- Width of an access from its W field: 4, 8 or 16 bytes give the multiple that DR must be of. -/
def drStep (w : Nat) : Nat := 2 ^ (w - 1)

/-- One access of paired form, 14 bits (R166, R167). -/
def pairReserved (v : Nat) : Bool :=
  let w := bits v 11 2
  if w = 0 then v.testBit 13 || nz v 0 11 else decide (bits v 2 6 % drStep w ≠ 0)

/-- A load/store slot word that is reserved (R166, R167, R173). -/
def lsReserved (v : Nat) : Bool :=
  if v.testBit 28 then pairReserved (bits v 14 14) || pairReserved (bits v 0 14)
  else match bits v 24 4 with
    | 0 => nz v 0 24
    | 1 => bits v 22 2 == 0 || decide (bits v 12 6 % drStep (bits v 22 2) ≠ 0) || modeReserved v
    | 2 => bits v 22 2 == 0 || decide (bits v 12 6 % drStep (bits v 22 2) ≠ 0) || modeReserved v
    | 3 => bits v 22 2 != 1 || nz v 16 2 || modeReserved v
    | 4 => bits v 22 2 != 1 || nz v 16 2 || modeReserved v
    | 5 => aopReserved v
    | _ => true

/-! ### Slot 3 -/

/-- Whether MFSR may read a system register (R170). -/
def mfsrOk (n : Nat) : Bool := decide (n ≤ 0x0B) || decide (0x10 ≤ n ∧ n ≤ 0x1F)

/-- Whether MTSR and MTSRI may write a system register (R170). -/
def mtsrOk (n : Nat) : Bool := decide (n ≤ 0x0A) || n == 0x0C || decide (0x10 ≤ n ∧ n ≤ 0x1F)

/-- A control slot word that is reserved by itself (chapter 06). -/
def ctlReserved (v : Nat) : Bool :=
  match bits v 24 5 with
  | 0x01 => nz v 12 12
  | 0x02 => nz v 12 8
  | 0x03 => nz v 0 20
  | 0x06 => nz v 12 12 || nz v 6 2
  | 0x07 => nz v 6 18
  | 0x0A => nz v 6 12 || !mfsrOk (bits v 0 6)
  | 0x0B => nz v 18 6 || nz v 6 6 || !mtsrOk (bits v 0 6)
  | 0x0C => nz v 22 2 || !mtsrOk (bits v 0 6)
  | 0x0D => nz v 0 11
  | 0x0E => aopReserved v
  | op => decide (0x0F ≤ op) || nz v 0 24

/-- BR, BRL, BRR or RETI: followed by five delay slots (R168). -/
def isBranchOp (v : Nat) : Bool := decide (1 ≤ bits v 24 5 ∧ bits v 24 5 ≤ 4)

/-- BR, BRL, BRR, RETI, SWI, REP, LOOP, FBAR or CSYNC: not allowed in a delay slot, a REP body or a LOOP
kernel (R141, R142, R147, R156, R173). -/
def isFlowOp (v : Nat) : Bool := decide (1 ≤ bits v 24 5 ∧ bits v 24 5 ≤ 9)

/-! ### Bundles and their places -/

/-- Whether half `h` of a bundle, its slots 2h and 2h + 1, holds an uncorrectable error: it is fetched as two
all-zero slot words (R136). -/
def State.halfBroken (s : State) (base i h : Nat) : Bool :=
  (List.range 2).any (fun k => Tab.get none s.ecc ((base + 16 * i + 8 * h) / 4 + k) == some Ecc.double)

/-- A slot word of a bundle as a fetch returns it. -/
def State.bundleWord (s : State) (base i slot : Nat) : Nat :=
  if s.halfBroken base i (slot / 2) then 0 else s.readLE (base + 16 * i + 4 * slot) 4

/-- Whether either half of a bundle holds an uncorrectable error (R136). -/
def State.bundleBroken (s : State) (base i : Nat) : Bool :=
  s.halfBroken base i 0 || s.halfBroken base i 1

/-- What constrains the bundles that follow: delay slots left, and bundles left of REP bodies and LOOP
kernels. -/
structure Zone where
  delay : Nat
  body  : Nat
  deriving DecidableEq, Repr

/-- Whether the control word `v` at bundle `i` is reserved for its place (R173, items 6 and 7). -/
def placeReserved (z : Zone) (i v : Nat) : Bool :=
  (isFlowOp v && decide (0 < z.delay ∨ 0 < z.body)) ||
  (bits v 24 5 == 6 && decide (4095 < i + bits v 8 4)) ||
  (bits v 24 5 == 7 && decide (4095 < i + bits v 0 6 + 1))

/-- The zone of the next bundle. -/
def Zone.next (z : Zone) (v : Nat) : Zone :=
  let body := match bits v 24 5 with
    | 6 => Nat.max (z.body - 1) (bits v 8 4)
    | 7 => Nat.max (z.body - 1) (bits v 0 6 + 1)
    | _ => z.body - 1
  ⟨if isBranchOp v then 5 else z.delay - 1, body⟩

/-- Whether bundle `i` of a program set is a delay slot, or lies in a REP body behind its REP or in a LOOP
kernel, by the positions of the bundles alone, whatever path led there (R168, R173). -/
def State.placeGuarded (s : State) (base i : Nat) : Bool :=
  (List.range 5).any (fun k => isBranchOp (s.bundleWord base ((i + 4095 - k) % 4096) 3)) ||
  (List.range (Nat.min i 64)).any (fun k =>
    let v := s.bundleWord base (i - 1 - k) 3
    (bits v 24 5 == 6 && decide (k + 1 ≤ bits v 8 4)) || (bits v 24 5 == 7 && decide (k ≤ bits v 0 6)))

/-- Whether bundle `i` of a program set holds a reserved encoding, in zone `z` (R173, R174). -/
def State.bundleReserved (s : State) (base i : Nat) (z : Zone) : Bool :=
  let a := s.bundleWord base i 0
  let b := s.bundleWord base i 1
  let c := s.bundleWord base i 3
  macReserved a || macReserved b || macPairReserved a b || lsReserved (s.bundleWord base i 2) ||
    ctlReserved c || placeReserved z i c || s.bundleBroken base i

/-- The first reserved bundle of a program set from bundle `i` on, `n` bundles left. -/
def State.scanSet (s : State) (base : Nat) : Nat → Nat → Zone → Option Nat
  | 0, _, _ => none
  | n + 1, i, z =>
    if s.bundleReserved base i z then some i
    else s.scanSet base n (i + 1) (z.next (s.bundleWord base i 3))

/-- The zone that bundle 0 starts in: delay slots wrap from the end of the set (R162). -/
def State.zoneAtZero (s : State) (base : Nat) : Zone :=
  (List.range 5).foldl (fun z k => z.next (s.bundleWord base (4091 + k) 3)) ⟨0, 0⟩

/-- The first bundle of a program set that holds a reserved encoding (R174). -/
def State.reservedBundle (s : State) (base : Nat) : Option Nat :=
  s.scanSet base 4096 0 ⟨(s.zoneAtZero base).delay, 0⟩

end Sys2Proof.Machine
end

