-- ==== Sys2Proof/Machine/Operands.lean ====
section
/-! DEFINITION. The operand forms of an Ibex core (R101, R134, R137, R138, R164, R166, R167):
register names and their rotation, predicates, addressing modes, circular buffers, and the memory
that a core address selects. -/

namespace Sys2Proof.Machine

/-- The physical register that the name Dn selects (R101). -/
def physD (rrb : BitVec 5) (n : Nat) : Nat :=
  if n < 32 then n else 32 + (n - 32 + rrb.toNat) % 32

/-- The value a bundle reads from the name Dn. -/
def Core.readD (c : Core) (n : Nat) : Word := Tab.get 0 c.d (physD c.rrb n)

/-- The value a bundle reads from An. -/
def Core.readA (c : Core) (n : Nat) : Word := Tab.get 0 c.a n

/-- An accumulator as accumulating operations, DIVS and DIVQ see it (R105, R107). -/
def Core.accFwd (c : Core) (n : Nat) : AccVal := Tab.get ⟨0, 0, false⟩ c.acc n

/-- An accumulator as every other operation sees it (R105). -/
def Core.accOld (c : Core) (n : Nat) : AccVal := Tab.get ⟨0, 0, false⟩ c.accVis n

/-- The value of a predicate at RR: P0 reads 1, and inside a LOOP kernel P4–P7 read the stage-valid
bits (R99, R143). -/
def Core.readP (c : Core) (n : Nat) : Bool :=
  if n = 0 then true
  else match c.loop with
    | some l => if !l.fresh && 4 ≤ n then l.v.getLsbD (n - 4) else Tab.get false c.p n
    | none => Tab.get false c.p n

/-- The quotient register of a DIVS or DIVQ: a DIVS quotient in flight to it is forwarded (R105). -/
def Core.readQuo (c : Core) (n : Nat) : Word :=
  let k := physD c.rrb n
  let live := c.flight.filterMap (fun f =>
    match f.dest with
    | .d p v => if f.quo && p = k && f.iss < c.cyc then some (f.iss, v) else none
    | _ => none)
  match live.foldl (fun b e => match b with
      | none => some e
      | some x => if x.1 ≤ e.1 then some e else some x) (none : Option (Nat × Word)) with
  | some e => e.2
  | none => c.readD n

/-- `circ_k` of R138. -/
def circAdd (base len : Word) (v : Word) : Word :=
  let n := (len &&& 0x0007FFFC).toNat
  if n = 0 then v
  else Word.ofInt (base.toInt + ((v - base).toInt % (n : Int)))

/-- The active buffer k of a core applied to an address. -/
def Core.circ (c : Core) (k : Nat) (v : Word) : Word :=
  circAdd (Tab.get 0 c.cbase k) (Tab.get 0 c.clen k) v

/-- Bytes of an access width. -/
def widthBytes : AWidth → Nat
  | .w4 => 4
  | .w8 => 8
  | .w16 => 16

/-- The effective address of a mode and the value An takes, where it takes one (R137). -/
def Core.address (c : Core) (w : Nat) (an : Nat) (mode : AMode) : Word × Option Word :=
  let base := c.readA an
  let sc (imm : Int) : Word := Word.ofInt (imm * (w : Int))
  match mode with
  | .off imm => (base + sc imm.toInt, none)
  | .idx am => (base + c.readA am.toNat, none)
  | .postI imm => (base, some (base + sc imm.toInt))
  | .postR am => (base, some (base + c.readA am.toNat))
  | .circ k imm => (base, some (c.circ k.toNat (base + sc imm.toInt)))
  | .circR k am => (base, some (c.circ k.toNat (base + c.readA am.toNat)))

/-- The post-modify field of the paired form as an addressing mode (R166). -/
def pairMode (p : PairAcc) : AMode :=
  match p.pm.toNat with
  | 0 => .off 0
  | 1 => .postI 1
  | 2 => .postI (BitVec.ofInt 9 (-1))
  | _ => .circ p.an 1

/-- A core address with the low bits of the width cleared, and whether any was set (R109). -/
def alignAddr (w : Nat) (a : Word) : Word × Bool :=
  let r := a.toNat % w
  (Word.ofNat (a.toNat - r), r != 0)

/-- Whether a core address selects the exchange memory (R134). -/
def isExchange (a : Word) : Bool := a.getLsbD 24

/-- The internal address of a core address: data memory of the core, or the exchange memory of its
cluster (R32, R134, R135). -/
def coreMemAddr (n : Nat) (a : Word) : Nat :=
  if isExchange a then 0x20000000 + n / 8 * 0x00800000 + 0x00080000 + a.toNat % 0x4000
  else 0x20000000 + n * 0x00100000 + 0x00040000 + a.toNat % 0x40000

/-- Bank of a data-memory address (R109). -/
def bankOf (a : Word) : Nat := a.toNat / 16 % 16

/-- Line of a data-memory address (R109). -/
def lineOf (a : Word) : Nat := a.toNat / 256 % 1024

end Sys2Proof.Machine
end

