-- ==== Sys2Proof/Machine/IbexCore.lean ====
section
/-! DEFINITION. The pipeline and the sequencer of one Ibex core (spec chapters 04 and 05): landing of
results in flight, the order in which bundles issue under branches, REP and LOOP, the rotation
interlock, interrupts, the frame barrier and the issue of one operation. Nothing here touches any
state outside the core. -/

namespace Sys2Proof.Machine

/-! ### Landing -/

/-- The order in which results land (R106): by cycle, then by issue, then by slot; status flags after
an MTSR of SR that lands in the same cycle (R124). -/
def Flight.before (x y : Flight) : Bool :=
  let late (f : Flight) : Bool := match f.dest with
    | .flags _ => true
    | _ => false
  if x.due ≠ y.due then decide (x.due < y.due)
  else if late x ≠ late y then late y
  else if x.iss ≠ y.iss then decide (x.iss < y.iss)
  else decide (x.slot ≤ y.slot)

/-- A result put among those in flight. -/
def flyInto (f : Flight) : List Flight → List Flight
  | [] => [f]
  | g :: t => if g.before f then g :: flyInto f t else f :: g :: t

/-- The bits of SR that a program can write (R124, R170). -/
def srWritable : Word := 0x17F

/-- One result landing in the core. -/
def Core.landDest (c : Core) : Dest → Core
  | .d k v => { c with d := Tab.put 0 c.d k v }
  | .a k v => { c with a := Tab.put 0 c.a k v }
  | .p k v => if k = 0 then c else { c with p := Tab.put false c.p k v }
  | .acc k v => { c with accVis := Tab.put ⟨0, 0, false⟩ c.accVis k v }
  | .flags b => { c with sr := c.sr ||| b }
  | .sr v => { c with sr := (v &&& srWritable) ||| (c.sr &&& 0x200) }
  | .rnd v => { c with rnd := v &&& 1 }
  | .isrcSet b => { c with isrc := c.isrc ||| b }
  | .isrcClr b => { c with isrc := c.isrc &&& ~~~b }
  | .imask v => { c with imask := v &&& 0xF }
  | .ipc v => { c with ipc := v &&& 0xFFF }
  | .isav0 v => { c with isav0 := v }
  | .isav1 v => { c with isav1 := v }
  | .isav2 v => { c with isav2 := v }
  | .lc0 v => { c with lc0 := v.setWidth 16 }
  | .lc1 v => { c with lc1 := v.setWidth 16 }
  | .rrb v => { c with rrb := v.setWidth 5 }

/-- Every result that is due has landed (R104). -/
def Core.land (c : Core) : Core :=
  (c.flight.filter (fun f => decide (f.due ≤ c.cyc))).foldl (fun c f => c.landDest f.dest)
    { c with flight := c.flight.filter (fun f => decide (c.cyc < f.due)) }

/-- Every result in flight has landed: the drain of R128, a barrier, a halt. -/
def Core.landAll (c : Core) : Core :=
  c.flight.foldl (fun c f => c.landDest f.dest) { c with flight := [] }

/-! ### Interrupt sources -/

/-- SR.IE. -/
def Core.ie (c : Core) : Bool := c.sr.getLsbD 8

/-- SR.INH: in a handler (R124). -/
def Core.inh (c : Core) : Bool := c.sr.getLsbD 9

/-- A source is pending (R126). -/
def Core.pendingSrc (c : Core) : Bool := c.isrc &&& c.imask != 0

/-- How long a source has been pending with IE at 1, for the hold-off of R130: the count starts when
one becomes pending. -/
def Core.notePend (c : Core) : Core :=
  if c.pendingSrc && c.ie then
    match c.pendAge with
    | some _ => c
    | none => { c with pendAge := some 0 }
  else { c with pendAge := none }

/-- `k` cycles pass on the core's frame clock. -/
def Core.tick (c : Core) (k : Nat) : Core :=
  { c with clk := c.clk + k, pendAge := c.pendAge.map (· + k) }

/-- A source bit set from outside the program: it stays set against a clearing MTSR that lands in the same
cycle. R133 says so of DOORBELL; for CLUSTER and DMA the spec leaves the tie open and the model keeps the bit
set as well (DESIGN CHOICE, log entry 89). A core that issues takes note of it at its next position, a core
that waits at once (R130). -/
def Core.setSource (c : Core) (bits : Word) : Core :=
  let c := { c with
    isrc := c.isrc ||| bits
    flight := c.flight.map (fun (f : Flight) => match f.dest with
      | .isrcClr b => { f with dest := .isrcClr (b &&& ~~~bits) }
      | _ => f) }
  match c.run with
  | .barrier => c.notePend
  | .csync => c.notePend
  | _ => c

/-- A core that waits has come to cycle `t` of its frame clock. -/
def Core.waitTo (c : Core) (t : Nat) : Core :=
  match c.run with
  | .barrier => c.tick (t - c.clk)
  | .csync => c.tick (t - c.clk)
  | _ => c

/-! ### The order of bundles -/

/-- The position of the LOOP sequencer as the opaque value of ISAV2 (R124, R145): V, kernel start,
length minus 1 and whether a loop runs. DESIGN CHOICE: the spec gives the value no layout (log
entry 20). -/
def seqPack (l : Option LoopSeq) : BitVec 27 :=
  match l with
  | none => 0
  | some q => BitVec.ofNat 27 (q.v.toNat + 16 * q.start.toNat + 0x10000 * (q.len - 1) + 0x400000)

/-- The LOOP sequencer that an ISAV2 value restores. -/
def seqUnpack (b : BitVec 27) : Option LoopSeq :=
  if b.toNat / 0x400000 % 2 = 1 then
    some ⟨BitVec.ofNat 4 b.toNat, BitVec.ofNat 12 (b.toNat / 16), b.toNat / 0x10000 % 64 + 1, false⟩
  else none

/-- The return from a handler: SR, loop counts, RRB and LOOP sequencer restored, execution resumed
at IPC or at the wait that the interrupt left (R129, R148, R156). -/
def Core.returnFrom (c : Core) : Core :=
  let run := if c.isav0.getLsbD 9 then c.run else match c.run with
    | .handlerAtBarrier => .barrier
    | .handlerAtCsync => .csync
    | r => r
  { c with
    sr := c.isav0 &&& 0x37F
    lc0 := c.isav1.setWidth 16
    lc1 := (c.isav1 >>> 16).setWidth 16
    rrb := c.isav2.setWidth 5
    loop := seqUnpack ((c.isav2 >>> 5).setWidth 27)
    branch := none
    guard := 0
    run := run }

/-- The largest cycle in which a write to a rotating register is still to land (R144). -/
def Core.interlock (c : Core) : Nat :=
  c.flight.foldl (fun m f => if f.rot then Nat.max m f.due else m) 0

/-- The bundle that issues next, with what the sequencer does on the way (R140, R143, R162, R168);
`pc` becomes its index and the number is the cycles that the rotation interlock adds (R144). The return of a
RETI uses IPC and ISAV0 to ISAV2 as they have landed by its fifth delay slot; a result still under way then,
such as that of an MTSR in that slot, lands after the return (DESIGN CHOICE, log entry 90: R129 does not say
whether an MTSR in the delay slots is seen). -/
def Core.seqNext (c : Core) : Core × Nat :=
  match c.redirect with
  | some t => ({ c with pc := t, redirect := none }, 0)
  | none =>
    match c.branch with
    | some b =>
      if b.left = 0 then
        if b.taken && b.reti then ({ c.returnFrom with pc := c.ipc.setWidth 12 }, 0)
        else if b.taken then ({ c with pc := b.target, branch := none }, 0)
        else ({ c with pc := c.pc + 1, branch := none }, 0)
      else ({ c with pc := c.pc + 1, branch := some { b with left := b.left - 1 } }, 0)
    | none =>
      match c.rep with
      | some r =>
        if c.pc = r.start + BitVec.ofNat 12 (r.len - 1) then
          if r.left = 0 then ({ c with pc := c.pc + 1, rep := none }, 0)
          else ({ c with pc := r.start, rep := some { r with left := r.left - 1 } }, 0)
        else ({ c with pc := c.pc + 1 }, 0)
      | none =>
        match c.loop with
        | some l =>
          if l.fresh then ({ c with pc := l.start, loop := some { l with fresh := false } }, 0)
          else if c.pc = l.start + BitVec.ofNat 12 (l.len - 1) then
            let c := { c with rrb := c.rrb - 1 }
            if c.lc0.toNat ≠ 0 then
              ({ c with
                  lc0 := c.lc0 - 1
                  loop := some { l with v := (l.v <<< 1) ||| 1 }
                  pc := l.start }, c.interlock - (c.cyc + 1))
            else if c.lc1.toNat % 4 ≠ 0 then
              ({ c with
                  lc1 := (c.lc1.setWidth 2 - 1).setWidth 16
                  loop := some { l with v := l.v <<< 1 }
                  pc := l.start }, c.interlock - (c.cyc + 1))
            else ({ c with loop := none, lc1 := 0, pc := c.pc + 1 }, 0)
          else ({ c with pc := c.pc + 1 }, 0)
        | none => ({ c with pc := c.pc + 1, guard := c.guard - 1 }, 0)

/-- `k` cycles of the pipeline: results land and a source that becomes pending is noted (R104, R130). -/
def Core.cycles (c : Core) (k : Nat) : Core :=
  Core.notePend (Core.land { c.tick k with cyc := c.cyc + k })

/-- One bundle further: the next bundle is at RR and none of its slots has issued (R103, R104), but for the CSYNC
bundle that a handler returns to. The cycles of the rotation interlock come after the cycle in which the bundle
would have issued (R144). -/
def Core.advance1 (c : Core) : Core :=
  let n := c.seqNext
  let w := if n.1.run = .running then none else n.1.waitSlot
  let d := Core.cycles { n.1 with
    slotNext := if n.1.run = .csync then w.getD 0 else 0
    waitSlot := w } 1
  if n.2 = 0 then d else d.cycles n.2

/-- `k` bundles further. -/
def Core.advance (c : Core) : Nat → Core
  | 0 => c
  | k + 1 => Core.advance c.advance1 k

/-- A handler entered from a wait has run out its RETI: the core is back at the wait (R148, R156).
The cycles it took are the delay slots that no command named. -/
def Core.settle (c : Core) : Core :=
  match c.run, c.branch with
  | .handlerAtBarrier, some b => if b.taken && b.reti then c.advance (b.left + 1) else c
  | .handlerAtCsync, some b => if b.taken && b.reti then c.advance (b.left + 1) else c
  | _, _ => c

/-! ### Issue -/

/-- Whether the core issues bundles: in a frame or in a handler, not halted and not waiting. Past its
FBAR it issues only what is left of the FBAR bundle (R147). -/
def Core.issues (c : Core) (adv : Nat) : Bool :=
  !c.halted &&
    match c.run with
    | .running => true
    | .handlerAtBarrier => true
    | .handlerAtCsync => true
    | .draining => adv == 0
    | _ => false

/-- Whether the core takes the operation of slot `slot` as the next one, `adv` bundles on: a bundle has one
operation for each of its four slots (R97), and they come in slot order (R171; log entry 91), but for a CSYNC,
which has issued before the others (R156). -/
def Core.takes (c : Core) (adv slot : Nat) : Bool :=
  c.issues adv && decide (slot < 4) && decide (adv ≠ 0 ∨ (c.slotNext ≤ slot ∧
    (slot = 3 → c.run = .running → c.waitSlot = none)))

/-- Whether the bundle at RR is a delay slot or lies in a REP body or a LOOP kernel, where control
flow is reserved (R141, R142, R147, R156, R168, R173). -/
def Core.guarded (c : Core) : Bool :=
  c.guard != 0 || c.branch.isSome || c.rep.isSome || (match c.loop with | some l => !l.fresh | none => false)

/-- What one operation does: the core after it, its events, the addresses of the memory words it
reads and the bytes it stores. -/
structure OpOut where
  core : Core
  evs  : List Ev
  rd   : List Nat
  wr   : List (Nat × Byte)
  deriving DecidableEq, Repr

/-- An operation that only changes the core. -/
def OpOut.of (c : Core) : OpOut := ⟨c, [], [], []⟩

/-- A result of latency `l` under way from this bundle. -/
def Core.send (c : Core) (slot l : Nat) (dest : Dest) : Core :=
  let rot := match dest with
    | .d k _ => decide (32 ≤ k) && (match c.loop with | some q => !q.fresh | none => false)
    | _ => false
  { c with flight := flyInto ⟨c.cyc + l, c.cyc, slot, false, rot, dest⟩ c.flight }

/-- A DIVS quotient under way (R105). -/
def Core.sendQuo (c : Core) (slot : Nat) (k : Nat) (v : Word) : Core :=
  let rot := decide (32 ≤ k) && (match c.loop with | some q => !q.fresh | none => false)
  { c with flight := flyInto ⟨c.cyc + 4, c.cyc, slot, true, rot, .d k v⟩ c.flight }

/-- A result of latency `l` to the D register named `n`. -/
def Core.sendD (c : Core) (slot l : Nat) (n : Nat) (v : Word) : Core :=
  c.send slot l (.d (physD c.rrb n) v)

/-- An accumulator written: accumulating operations see it at once, others after 4 cycles (R105). -/
def Core.sendAcc (c : Core) (slot : Nat) (n : Nat) (v : AccVal) : Core :=
  Core.send { c with acc := Tab.put ⟨0, 0, false⟩ c.acc n v } slot 4 (.acc n v)

/-- The status flags of an operation under way to SR (R105). -/
def Core.sendFlags (c : Core) (slot : Nat) (evs : List Ev) : Core :=
  let bits := evs.foldl (fun b e => b ||| e.srBit) 0
  if bits = 0 then c else c.send slot 7 (.flags bits)

/-! ### Barrier, interrupts, halt -/

/-- Pending CBASE and CLEN become active and the pointers inside a changed buffer are folded (R139);
the Bool says whether any A register changed. -/
def Core.foldPointers (c : Core) : Core × Bool :=
  let ks := (List.range 8).filter (fun k =>
    (Tab.get none c.cbaseNew k).isSome || (Tab.get none c.clenNew k).isSome)
  let nb (k : Nat) : Word := (Tab.get none c.cbaseNew k).getD (Tab.get 0 c.cbase k)
  let nl (k : Nat) : Word := (Tab.get none c.clenNew k).getD (Tab.get 0 c.clen k)
  let fold (v : Word) : Word :=
    match ks.find? (fun k =>
        let len := (Tab.get 0 c.clen k).toInt
        let d := (v - Tab.get 0 c.cbase k).toInt
        decide (len ≠ 0) && decide (0 ≤ d) && decide (d < len)) with
    | some k =>
      let d := (v - Tab.get 0 c.cbase k).toNat
      nb k + Word.ofNat (if (nl k).toNat = 0 then d else d % (nl k).toNat)
    | none => v
  let a' := Tab.puts 0 c.a ((List.range 16).map (fun n => (n, fold (c.readA n))))
  ({ c with
      a := a'
      cbase := Tab.puts 0 c.cbase (ks.map (fun k => (k, nb k)))
      clen := Tab.puts 0 c.clen (ks.map (fun k => (k, nl k)))
      cbaseNew := []
      clenNew := [] }, decide (a' ≠ c.a))

/-- The core at its barrier (R147): every result has landed and pending buffers are active; the Bool
is CFOLD. -/
def Core.atBarrier (c : Core) : Core × Bool :=
  let f := c.landAll.foldPointers
  let c := if f.2 then { f.1 with sr := f.1.sr ||| 0x20 } else f.1
  (Core.notePend { c with run := .barrier, branch := none, guard := 0, rep := none, loop := none,
                          redirect := none }, f.2)

/-- The core stopped at its deadline (R152): in-flight results land, REP and LOOP are abandoned, a
handler's INH is cleared and its IE restored; the Bool is CFOLD. -/
def Core.atDeadline (c : Core) : Core × Bool :=
  let c := c.landAll
  let c := if c.inh then
      { c with sr := (c.sr &&& ~~~(0x300 : Word)) ||| (c.isav0 &&& 0x100) } else c
  Core.atBarrier { c with overrun := true }

/-- The core at the start of its frame: it issues from bundle `entry` (R146). -/
def Core.startFrame (c : Core) (entry : BitVec 12) : Core :=
  { c with run := .running, redirect := some entry, clk := 0, overrun := false }

/-- The core at the position that comes next: where it waits, or with the next bundle at RR, the results due
by then landed and a return from a handler made (R126, R127, R129, R169). -/
def Core.atPosition (c : Core) : Core :=
  match c.run with
  | .running => c.advance1
  | .handlerAtBarrier => c.advance1
  | .handlerAtCsync => c.advance1
  | _ => c

/-- Whether the next bundle to issue is an interruptible position (R127, R148, R156), but for a bundle that
carries a REP. The body of a REP and the kernel of a LOOP that run once as straight code, their predicate
being 0, are interruptible (DESIGN CHOICE, log entry 92: R127 speaks of "a bundle of a REP" and "inside a
LOOP", R141 and R142 say that such a REP or LOOP has no effect). -/
def Core.interruptible (c : Core) : Bool :=
  match c.run with
  | .barrier => true
  | .csync => true
  | .draining => false
  | .idle => false
  | _ =>
    (match c.redirect with
     | some _ => true
     | none =>
       (match c.branch with | some b => b.left == 0 | none => true)
       && (match c.rep with
           | some r => r.left == 0 && c.pc == r.start + BitVec.ofNat 12 (r.len - 1)
           | none => true)
       && (match c.loop with
           | some l => l.fresh || c.pc == l.start + BitVec.ofNat 12 (l.len - 1)
           | none => true))

/-- Interrupt entry (R128): the in-flight results land, IPC, ISAV0 to ISAV2 take the saved state, IE
is cleared, INH set, and the handler at `ivec` issues 16 cycles after the position `c`; the Nat is the
hold-off (R130). `waitPc` is what IPC takes at a barrier, where the spec names no bundle. -/
def Core.enterHandler (c : Core) (ivec : BitVec 12) (waitPc : BitVec 12) : Core × Nat :=
  let c1 := c.landAll
  let c1 := if c.run = .barrier then { c1 with pc := waitPc } else c1
  let run := match c.run with
    | .barrier => .handlerAtBarrier
    | .csync => .handlerAtCsync
    | r => r
  ({ c1 with
      ipc := c1.pc.setWidth 32
      isav0 := c1.sr
      isav1 := (c1.lc1.setWidth 32 <<< 16) ||| c1.lc0.setWidth 32
      isav2 := ((seqPack c1.loop).setWidth 32 <<< 5) ||| c1.rrb.setWidth 32
      sr := (c1.sr &&& ~~~(0x100 : Word)) ||| 0x200
      branch := none
      guard := 0
      rep := none
      loop := none
      redirect := some ivec
      run := run
      pendAge := none
      clk := c1.clk + 15
      cyc := c1.cyc + 15 }, (c1.pendAge.getD 0) + 16)

/-- The core stopped by debug at an interruptible position (R161): the results in flight land and
the next bundle is kept. -/
def Core.halt (c : Core) : Core :=
  let c := match c.run with
    | .running => let n := c.seqNext
                  { n.1.tick n.2 with redirect := some n.1.pc }
    | .handlerAtBarrier => let n := c.seqNext
                           { n.1.tick n.2 with redirect := some n.1.pc }
    | .handlerAtCsync => let n := c.seqNext
                         { n.1.tick n.2 with redirect := some n.1.pc }
    | _ => c
  { c.landAll with halted := true, haltReq := false, stepping := false }

/-- The bundle index that debug register 0x7B shows: the next bundle to issue. -/
def Core.nextBundle (c : Core) : BitVec 12 := c.seqNext.1.pc

end Sys2Proof.Machine
end

