-- ==== Sys2Proof/Machine/IbexOps.lean ====
section
/-! DEFINITION. An Ibex core inside the machine: where its state, its page and its memories stand,
the check bits of its memories (R136), the mirroring of a migration's spare (R158), the exchange
memory (R135) and the issue of one operation (R99). -/

namespace Sys2Proof.Machine

/-- Core `n`. -/
def State.core (s : State) (n : Nat) : Core := Tab.get Core.reset s.cores n

/-- Cluster `c`. -/
def State.cl (s : State) (c : Nat) : Clus := Tab.get Clus.reset s.clus c

/-- Cluster `c` replaced. -/
def State.setCl (s : State) (c : Nat) (v : Clus) : State :=
  { s with clus := Tab.put Clus.reset s.clus c v }

/-- MIG_STAT.STATE of cluster `c`: 0 IDLE, 1 WAIT_GRANT, 2 COPYING, 3 FOLLOWING, 4 DONE. -/
def State.migState (s : State) (c : Nat) : Nat := s.get (Page.clus c) CLUS.MIG_STAT.STATE

/-- Whether spare `k`, whose migration a commit has completed, still follows in the passes that the configuration
from before it governs (R154, R159). -/
def State.inTail (s : State) (k : Nat) : Bool := (s.cl k).tail && !s.fseq.old.isEmpty

/-- The spare that follows cluster `c`, where there is one (R158). -/
def State.follower (s : State) (c : Nat) : Option Nat :=
  (List.range 4).find? (fun k => (s.migState k == 3 || s.inTail k) && (s.cl k).src == c)

/-- The spare into which the memories of cluster `c` are copied or mirrored (R158). -/
def State.memMirror (s : State) (c : Nat) : Option Nat :=
  (List.range 4).find? (fun k => ((s.migState k == 2 && !(s.cl k).copying) || s.migState k == 3 || s.inTail k)
    && (s.cl k).src == c)

/-- Core `n` replaced, without its follower. -/
def State.setCore1 (s : State) (n : Nat) (c : Core) : State :=
  { s with cores := Tab.put Core.reset s.cores n c }

/-- A migration to spare `c` cancelled: its grant goes back and its cores run nothing (R160). -/
def State.migCancel (s : State) (c cause : Nat) : State :=
  let st := s.migState c
  if st = 0 ∨ 4 ≤ st then s
  else
    let g := Page.clus c
    let s := (s.put g CLUS.MIG_STAT.STATE 0).put g CLUS.MIG_STAT.CAUSE cause
    let s := (s.release Kind.migration c).raise g 2
    let s := s.setCl c { s.cl c with phase := .idle, copying := false, copied := false }
    (List.range 8).foldl (fun s i =>
      s.setCore1 (8 * c + i) { s.core (8 * c + i) with run := .idle }) s

/-- The migrations that cluster `c` takes part in, as spare or as source, cancelled. -/
def State.migCancelOf (s : State) (c cause : Nat) : State :=
  (List.range 4).foldl (fun s k =>
    if k = c ∨ (s.cl k).src = c then s.migCancel k cause else s) s

/-- Core `n` replaced; the matching core of a following spare takes the same state (R158). -/
def State.setCore (s : State) (n : Nat) (c : Core) : State :=
  let s' := s.setCore1 n c
  match s.follower (n / 8) with
  | some k => s'.setCore1 (8 * k + n % 8) c
  | none => s'

/-- A change of core `n`'s page, made on the matching page of a following spare as well. -/
def State.onCorePage (s : State) (n : Nat) (g : State → Nat → State) : State :=
  let s' := g s (Page.ibex n)
  match s.follower (n / 8) with
  | some k => g s' (Page.ibex (8 * k + n % 8))
  | none => s'

/-- What an event of core `n` does to its page (R124, R125). -/
def State.coreEv (s : State) (n : Nat) (e : Ev) : State :=
  s.onCorePage n (fun s p => match e with
    | .xov => (s.bump p IBEX.XOV_COUNT.COUNT).raise p 0
    | .xlost => s.raise p 1
    | .sat => (s.bump p IBEX.SAT_COUNT.COUNT).raise p 2
    | .satCountOnlyDz => (s.bump p IBEX.SAT_COUNT.COUNT).raise p 3
    | .align => s.raise p 4
    | .bankStall =>
      let s := s.bump p IBEX.STALL_COUNT.COUNT
      s.maxUp p IBEX.STALL_FRAME_MAX.MAX (s.core n).stallsWin)

/-! ### Local memories -/

/-- The owner of a word of an Ibex window: the core, or the cluster for exchange memory. -/
def inExchange (a : Nat) : Bool :=
  let off := (a - 0x20000000) % 0x00800000
  decide (0x80000 ≤ off) && decide (off < 0x84000)

/-- The core of an internal address in the Ibex windows. -/
def coreOfAddr (a : Nat) : Nat := (a - 0x20000000) / 0x00100000

/-- The cluster of an internal address in the Ibex windows. -/
def clusOfAddr (a : Nat) : Nat := (a - 0x20000000) / 0x00800000

/-- An ECC event at a word of a local memory, recorded on the owning page (R136). An uncorrectable error
leaves the cluster's domain undefined (R8). -/
def State.ibexEccEvent (s : State) (a : Nat) (uncorr : Bool) : State :=
  let u := if uncorr then 1 else 0
  let s := if uncorr then (s.migCancelOf (clusOfAddr a) 5).loseDomain (1 + clusOfAddr a) else s
  if inExchange a then
    let p := Page.clus (clusOfAddr a)
    let s := if uncorr then s.bump p CLUS.XM_ECC_UNCORR_COUNT.COUNT
      else s.bump p CLUS.XM_ECC_CORR_COUNT.COUNT
    let s := s.put p CLUS.XM_ECC_LAST.WORD (a % 0x4000 / 4)
    (s.put p CLUS.XM_ECC_LAST.UNCORR u).raise p (if uncorr then 5 else 4)
  else
    let p := Page.ibex (coreOfAddr a)
    let s := if uncorr then s.bump p IBEX.ECC_UNCORR_COUNT.COUNT
      else s.bump p IBEX.ECC_CORR_COUNT.COUNT
    let s := s.put p IBEX.ECC_LAST.WORD (a % 0x100000 / 4)
    (s.put p IBEX.ECC_LAST.UNCORR u).raise p (if uncorr then 11 else 10)

/-- The check state of the word that holds byte `a`. -/
def State.eccAt (s : State) (a : Nat) : Option Ecc := Tab.get none s.ecc (a / 4)

/-- The byte at `a` as a checked read sees it: 0 in a word with an uncorrectable error (R136). -/
def State.checkedByte (s : State) (a : Nat) : Byte :=
  if s.eccAt a = some .double then 0 else s.byte a

/-- The events of a checked read of the 32-bit words from `a` on. -/
def State.checkWords (s : State) (a : Nat) : Nat → State
  | 0 => s
  | k + 1 =>
    let s := match s.eccAt a with
      | some .single => s.ibexEccEvent a false
      | some .double => s.ibexEccEvent a true
      | none => s
    s.checkWords (a + 4) k

/-- The words of the bytes written carry valid check bits again (R136). -/
def State.clearEcc (s : State) (l : List (Nat × Byte)) : State :=
  { s with ecc := Tab.puts none s.ecc (l.map (fun e => (e.1 / 4, none))) }

/-- The address in the spare that mirrors an address of the source (R158). -/
def mirrorAddr (a k : Nat) : Nat := 0x20000000 + k * 0x00800000 + (a - 0x20000000) % 0x00800000

/-- Bytes written into local memories, mirrored into a spare that copies or follows (R158). -/
def State.writeLocal (s : State) (l : List (Nat × Byte)) : State :=
  let mirrored := l.filterMap (fun e =>
    match s.memMirror (clusOfAddr e.1) with
    | some k => some (mirrorAddr e.1 k, e.2)
    | none => none)
  (((s.setBytes l).clearEcc l).setBytes mirrored).clearEcc mirrored

/-- Bytes under one check code: 8 in a program set, 4 in data and exchange memory. -/
def checkUnit (a : Nat) : Nat := if (a - 0x20000000) % 0x100000 < 0x20000 then 8 else 4

/-- The check state of unit `w` of `u` bytes. -/
def State.unitEcc (s : State) (u w : Nat) : Option Ecc :=
  let l := (List.range (u / 4)).map (fun i => s.eccAt (u * w + 4 * i))
  if l.contains (some .double) then some .double
  else if l.contains (some .single) then some .single
  else none

/-- A read of `n` bytes of an Ibex memory: the bytes, and the check of every unit that they meet. -/
def State.localRead (s : State) (a n : Nat) : List Byte × State :=
  let u := checkUnit a
  let out := (List.range n).map (fun i =>
    if s.unitEcc u ((a + i) / u) = some .double then 0 else s.byte (a + i))
  (out, (unitsOf u a n).foldl (fun (s : State) (w : Nat) => match s.unitEcc u w with
    | none => s
    | some .single => s.ibexEccEvent (u * w) false
    | some .double => (s.ibexEccEvent (u * w) true).respond true) s)

/-- Bytes written into one 32-bit word: a write of less is merged into the corrected word, and is
discarded at an uncorrectable one. -/
def State.localWord (s : State) (w : Nat) (l : List (Nat × Byte)) : State :=
  if l.isEmpty then s
  else if 4 ≤ l.length then s.writeLocal l
  else match s.eccAt (4 * w) with
    | none => s.writeLocal l
    | some .single => (s.ibexEccEvent (4 * w) false).writeLocal l
    | some .double => s.ibexEccEvent (4 * w) true

/-- Bytes written into an Ibex memory. -/
def State.localWrite (s : State) (a n : Nat) (l : List (Nat × Byte)) : State :=
  (unitsOf 4 a n).foldl (fun (s : State) (w : Nat) =>
    s.localWord w (l.filter (fun e => e.1 / 4 == w))) s

/-! ### The exchange memory within one cycle (R135) -/

/-- The writes made to cluster `c`'s exchange memory in the frame-clock cycle `clk`. -/
def State.xmNow (s : State) (c clk : Nat) : List XmWrite :=
  if (s.cl c).xmClk = clk then (s.cl c).xm else []

/-- A byte as a core reads it in the cycle `clk`: in the exchange memory, as it was before that
cycle. -/
def State.coreByte (s : State) (c clk a : Nat) : Byte :=
  if inExchange a then
    match (s.xmNow c clk).find? (fun w => w.addr == a) with
    | some w => w.old
    | none => s.checkedByte a
  else s.checkedByte a

/-- One byte stored by core `n` into exchange memory in cycle `clk`: among writes of one cycle the
core with the highest index remains. -/
def State.xmStore (s : State) (n clk : Nat) (e : Nat × Byte) : State :=
  let c := n / 8
  let now := s.xmNow c clk
  match now.find? (fun w => w.addr == e.1) with
  | some w =>
    if w.core > n then s
    else (s.setCl c { s.cl c with
            xmClk := clk, xm := ⟨e.1, n, w.old⟩ :: now.filter (fun x => x.addr != e.1) }).writeLocal [e]
  | none =>
    (s.setCl c { s.cl c with xmClk := clk, xm := ⟨e.1, n, s.byte e.1⟩ :: now }).writeLocal [e]

/-- The bytes a core stores, into its data memory or the exchange memory. -/
def State.coreStore (s : State) (n clk : Nat) (l : List (Nat × Byte)) : State :=
  (l.filter (fun e => inExchange e.1)).foldl (fun s e => s.xmStore n clk e)
    (s.writeLocal (l.filter (fun e => !inExchange e.1)))

/-! ### Issue -/

/-- What an operation leaves in the machine: the core with its flags under way, the events on the
page, the checks of the words read and the stores. -/
def State.finishOp (s : State) (n slot : Nat) (o : OpOut) : State :=
  let s := s.setCore n (o.core.sendFlags slot o.evs)
  let s := o.evs.foldl (fun s e => s.coreEv n e) s
  let s := o.rd.foldl (fun s a => s.checkWords a 1) s
  s.coreStore n o.core.clk o.wr

/-- The program set that core `n` fetches from: while an exchange waits for its frame start, the one that
was active before the commit (R154). -/
def State.fetchSet (s : State) (n : Nat) : Nat :=
  let a := s.activeSet (Page.ibex n)
  if (s.core n).swapPend then 1 - a else a

/-- The address of bundle 0 of the program set that core `n` fetches from (R154, R162). -/
def State.fetchBase (s : State) (n : Nat) : Nat := 0x20000000 + n * 0x100000 + s.fetchSet n * 0x10000

/-- Whether the two MAC slots of the bundle at RR are a combination that R172 reserves. -/
def State.pairBad (s : State) (n : Nat) (c : Core) : Bool :=
  macPairReserved (s.bundleWord (s.fetchBase n) c.pc.toNat 0) (s.bundleWord (s.fetchBase n) c.pc.toNat 1)

/-- Whether a control operation stands where R173 reserves it: by the path the core took or by the positions
of the bundles of its program set. -/
def State.flowBad (s : State) (n : Nat) (c : Core) : Bool :=
  c.guarded || s.placeGuarded (s.fetchBase n) c.pc.toNat

/-- The bundles that a core fetches as it goes `k` bundles on. -/
def Core.fetches (c : Core) : Nat → List (BitVec 12)
  | 0 => []
  | k + 1 => c.advance1.pc :: Core.fetches c.advance1 k

/-- The check of the two halves of a bundle at its fetch (R136). -/
def State.fetchCheck (s : State) (base : Nat) (pc : BitVec 12) : State :=
  [0, 8].foldl (fun (s : State) (h : Nat) =>
    let a := base + 16 * pc.toNat + h
    match s.unitEcc 8 (a / 8) with
    | none => s
    | some .single => s.ibexEccEvent a false
    | some .double => s.ibexEccEvent a true) s

/-- The bundles that an operation comes after the one at RR: at least one where the core is redirected. -/
def State.bundlesOn (s : State) (at_ : Issue) : Nat :=
  if (s.core at_.core).redirect.isSome then Nat.max 1 at_.adv else at_.adv

/-- The bundles fetched on the way to an operation, checked (R136). -/
def State.fetchFor (s : State) (at_ : Issue) : State :=
  ((s.core at_.core).fetches (s.bundlesOn at_)).foldl (fun (t : State) (pc : BitVec 12) =>
    t.fetchCheck (s.fetchBase at_.core) pc) s

/-- Whether the half of the bundle at RR that holds a slot has been fetched as two all-zero slot words (R136). -/
def State.slotLost (s : State) (n slot : Nat) (c : Core) : Bool :=
  s.halfBroken (s.fetchBase n) c.pc.toNat (slot / 2)

/-- The core advanced to the bundle of an operation (R103), or none where the core takes no such operation:
its domain off, halted, waiting, or the slot past (R97). -/
def State.reach (s : State) (at_ : Issue) : Option Core :=
  let n := at_.core
  if s.inReset || decide (32 ≤ n) || !s.domOn (1 + n / 8) then none
  else
    let c0 := s.core n
    let adv := s.bundlesOn at_
    if c0.takes adv at_.slot then some { c0.advance adv with slotNext := at_.slot + 1 } else none

/-- The predicate of an operation at RR (R99). -/
def Core.predOf (c : Core) (at_ : Issue) : Bool := c.readP at_.pred.toNat

/-- A reserved encoding that issues with its predicate at 1 (R175): no effect but SR.ILL, the ILLEGAL
interrupt and ILL_INFO, which names the last one; slots issue in order, so of one bundle the highest. -/
def State.illegal (s : State) (n slot : Nat) (c : Core) : State :=
  let c := c.send slot 7 (.flags 0x40)
  let s := s.setCore n c
  s.onCorePage n (fun s p =>
    let s := s.put p IBEX.ILL_INFO.SLOT slot
    let s := s.put p IBEX.ILL_INFO.BUNDLE c.pc.toNat
    let s := s.put p IBEX.ILL_INFO.VALID 1
    (s.bump p IBEX.ILL_INFO.COUNT).raise p 5)

/-- The issue of one operation (R99, R103): the core advances to the operation's bundle, whose fetch is checked;
with its predicate at 1 the operation acts as `f`, or as a reserved encoding where `bad` says so, otherwise it
has no effect, nor where the fetch gave an all-zero word in its place (R136). -/
def State.issueOr (s : State) (at_ : Issue) (bad : Core → Bool) (f : State → Core → OpOut) : State :=
  let n := at_.core
  match s.reach at_ with
  | none => s
  | some c =>
    let t := s.fetchFor at_
    if !c.issues 0 || !c.predOf at_ || s.slotLost n at_.slot c then t.setCore n c
    else if bad c then t.illegal n at_.slot c
    else t.finishOp n at_.slot (f t c)

/-- The issue of one operation that no place and no other slot reserves. -/
def State.issue (s : State) (at_ : Issue) (f : State → Core → OpOut) : State :=
  s.issueOr at_ (fun _ => false) f

/-- An operation that touches only the core. -/
def State.issueCore (s : State) (at_ : Issue) (f : Core → OpOut) : State :=
  s.issue at_ (fun _ c => f c)



/-- The issue of a control operation: it acts as `f` whatever its predicate, but as a reserved encoding where
a delay slot, a REP body or a LOOP kernel forbids it or `bad` says so (R141, R142, R147, R156, R173,
R175). -/
def State.issueFlow (s : State) (at_ : Issue) (bad : Core → Bool) (f : Core → Core) : State :=
  let n := at_.core
  match s.reach at_ with
  | none => s
  | some c =>
    let t := s.fetchFor at_
    if !c.issues 0 || s.slotLost n at_.slot c then t.setCore n c
    else if s.flowBad n c || bad c then
      if c.predOf at_ then t.illegal n at_.slot c else t.setCore n c
    else t.setCore n (f c)

/-- An operation of a MAC slot (R97): one with a reserved operand acts as a reserved encoding (R173,
R175). No command gives another slot such an operation. -/
def State.issueMac (s : State) (at_ : Issue) (bad : Bool) (f : Core → OpOut) : State :=
  if 2 ≤ at_.slot then s else s.issueOr at_ (fun _ => bad) (fun _ c => f c)

/-- A MAC slot operation that writes an accumulator: reserved as well where the other MAC slot makes the
bundle a combination of R172. -/
def State.issueAcc (s : State) (at_ : Issue) (bad : Bool) (f : Core → OpOut) : State :=
  if 2 ≤ at_.slot then s
  else s.issueOr at_ (fun c => bad || s.pairBad at_.core c) (fun _ c => f c)

/-- An address-register operation: in slot 2 or slot 3 (R97). -/
def State.issueAddr (s : State) (at_ : Issue) (f : Core → OpOut) : State :=
  if at_.slot < 2 then s else s.issueOr at_ (fun _ => false) (fun _ c => f c)

end Sys2Proof.Machine
end

