-- ==== Sys2Proof/Machine/Check.lean ====
section
/-! DEFINITION. Commit validation (R47): the signals that passes read and produce, the static schedule
(R85 to R87) and the checks. Every check reads a state in which the new configuration stands in the
active copies; blocks whose domain is not ON are left out (R29). -/

namespace Sys2Proof.Machine

/-! ### The configuration of the cores -/

/-- A shadowed field of core `n` as the last commit left it, whether or not the core has already
swapped to it (R154). -/
def State.ibexCfg (s : State) (n : Nat) (f : Fld) : Nat :=
  if (s.core n).swapPend then Tab.get f.rst s.staged (fkey (Page.ibex n) f) else s.get (Page.ibex n) f

/-- An input or output list entry (R149): first signal, number of signals, byte address. -/
structure IoEnt where
  e     : Nat
  first : Nat
  count : Nat
  addr  : Nat
  deriving DecidableEq, Repr

/-- The valid entries of an input or output list, read through `g`. -/
def ioEntries (g : Fld → Nat) (out : Bool) : List IoEnt :=
  (List.range 32).filterMap (fun e =>
    let f := fun (i o : Fld) => g (if out then o else i)
    if f (IBEX.IN_SIG.VALID e) (IBEX.OUT_SIG.VALID e) = 0 then none
    else some ⟨e, f (IBEX.IN_SIG.FIRST e) (IBEX.OUT_SIG.FIRST e),
      f (IBEX.IN_SIG.COUNT e) (IBEX.OUT_SIG.COUNT e) + 1,
      f (IBEX.IN_ADDR.ADDR e) (IBEX.OUT_ADDR.ADDR e)⟩)

/-- The list of a core that is active (R149, R154). -/
def State.ioNow (s : State) (n : Nat) (out : Bool) : List IoEnt := ioEntries (s.get (Page.ibex n)) out

/-- The list of a core as committed. -/
def State.ioList (s : State) (n : Nat) (out : Bool) : List IoEnt := ioEntries (s.ibexCfg n) out

/-- The cores of a cluster. -/
def clusCores (c : Nat) : List Nat := (List.range 8).map (fun i => 8 * c + i)

/-- The cores of a cluster that the committed configuration enables. -/
def State.enCores (s : State) (c : Nat) : List Nat :=
  (clusCores c).filter (fun n => s.ibexCfg n IBEX.CORE_CTRL.ENABLE != 0)

/-- The cores of cluster `c` whose active configuration enables them (R154). -/
def State.nowCores (s : State) (c : Nat) : List Nat :=
  (clusCores c).filter (fun n => s.flag (Page.ibex n) IBEX.CORE_CTRL.ENABLE)

/-- The cycles that staging the entries of some lists takes (R150). -/
def State.lineCycles (s : State) (l : List IoEnt) : Nat :=
  16 + (l.map (fun e => ceilDiv (e.count * s.fsize) 4)).sum

/-- S or T of a cluster from its active lists, as STAGE_IN and STAGE_OUT report them (R150). -/
def State.stageNow (s : State) (c : Nat) (out : Bool) : Nat :=
  s.lineCycles ((s.nowCores c).flatMap (fun n => s.ioNow n out))

/-- D of a cluster from its active configuration (R146). -/
def State.declNow (s : State) (c : Nat) : Nat :=
  (s.nowCores c).foldl (fun m n => Nat.max m (s.get (Page.ibex n) IBEX.DECL_WCET.CYCLES)) 0

/-- Signals of a list. -/
def IoEnt.sigs (e : IoEnt) : List Nat := (List.range e.count).map (fun i => e.first + i)

/-- S or T of a cluster as the committed configuration gives them (R150, R151). -/
def State.stageCycles (s : State) (c : Nat) (out : Bool) : Nat :=
  s.lineCycles ((s.enCores c).flatMap (fun n => s.ioList n out))

/-- D: the largest declared worst case of a cluster's enabled cores (R146). -/
def State.declMax (s : State) (c : Nat) : Nat :=
  (s.enCores c).foldl (fun m n => Nat.max m (s.ibexCfg n IBEX.DECL_WCET.CYCLES)) 0

/-! ### Passes: presence, signals, cost (R83 to R86) -/

/-- The cluster that pass i names. -/
def State.passClus (s : State) (i : Nat) : Nat := s.get Page.frame (FRAME.PASS_CTRL.CLUSTER i)

/-- Whether a pass's engine and its lines are there (R29, R218). -/
def State.passPresent (s : State) (i : Nat) : Bool :=
  match s.passType i with
  | 1 => s.domOn 5
  | 2 => s.domOn 5
  | 3 => s.domOn 5 && s.domOn 6
  | 4 => s.domOn 5 && s.domOn (1 + s.passClus i)
  | _ => false

/-- The signals that pass i reads. -/
def State.passReads (s : State) (i : Nat) : List Nat :=
  if !s.passPresent i then []
  else match s.passType i with
    | 1 => (s.passXpts i).map (·.src) ++ (s.fadesOfPass i).map keySrc
    | 2 => (s.passChains i).map (fun c => c.2.src)
    | 3 => ((s.passTaps i).filter (fun t => t.e.head)).map (fun t => t.line.src)
    | 4 => ((s.enCores (s.passClus i)).flatMap (fun n => s.ioList n false)).flatMap IoEnt.sigs
    | _ => []

/-- The signals that pass i produces. -/
def State.passMakes (s : State) (i : Nat) : List Nat :=
  if !s.passPresent i then []
  else match s.passType i with
    | 1 => s.oryxDsts i
    | 2 => (s.passChains i).map (fun c => c.2.dst)
    | 3 => (s.passTaps i).map (fun t => t.e.dst)
    | 4 => ((s.enCores (s.passClus i)).flatMap (fun n => s.ioList n true)).flatMap IoEnt.sigs
    | _ => []

/-- The fast window in CORE_CLK cycles (R183). -/
def State.fastWindow (s : State) : Nat := s.get Page.oryx ORYX.FAST_STAT.WINDOW

/-- The cost of pass i (R86); an absent pass costs nothing. -/
def State.passCost (s : State) (i : Nat) : Nat :=
  if !s.passPresent i then 0
  else match s.passType i with
    | 1 => s.oryxCost s.fastWindow i
    | 2 => s.eqCost i
    | 3 => s.delayCost i
    | 4 => s.declMax (s.passClus i) + 64
    | _ => 0

/-- The engine of pass i: Oryx, EQ, delay, then the clusters. -/
def State.passEngine (s : State) (i : Nat) : Nat :=
  if s.passType i = 4 then 4 + s.passClus i else s.passType i

/-- A scheduled pass: its index, engine, finish and products. -/
structure Slot where
  pass   : Nat
  eng    : Nat
  start  : Nat
  cost   : Nat
  makes  : List Nat
  deriving DecidableEq, Repr

/-- The schedule of R85: each pass after the last on its engine and after every pass it depends on. -/
def State.schedule (s : State) : List Slot :=
  s.passList.foldl (fun done i =>
    let eng := s.passEngine i
    let reads := s.passReads i
    let start := done.foldl (fun m (q : Slot) =>
      if q.eng == eng || q.makes.any (fun x => reads.contains x) then Nat.max m (q.start + q.cost) else m) 0
    done ++ [⟨i, eng, start, s.passCost i, s.passMakes i⟩]) []

/-- The schedule reported in PASS_START, PASS_COST, CRIT_PATH and PASS_COUNT. -/
def State.reportSchedule (s : State) : State :=
  let sch := s.schedule
  let s := (List.range 64).foldl (fun s i =>
    match sch.find? (fun q => q.pass == i) with
    | some q => (s.put Page.frame (FRAME.PASS_START.START i) q.start).put Page.frame
        (FRAME.PASS_COST.COST i) q.cost
    | none => (s.put Page.frame (FRAME.PASS_START.START i) 0).put Page.frame
        (FRAME.PASS_COST.COST i) 0) s
  let s := s.put Page.frame FRAME.FRAME_STAT.PASS_COUNT sch.length
  s.put Page.frame FRAME.CRIT_PATH.FINISH (sch.foldl (fun m q => Nat.max m (q.start + q.cost)) 0)

/-! ### Producers (R72, R73) -/

/-- The test generators that produce. -/
def State.tgSigs (s : State) : List Nat :=
  if !s.domOn 5 then []
  else ((List.range 16).filter (fun n => decide (1 ≤ s.get Page.frame (FRAME.TG_CTRL.MODE n) ∧
    s.get Page.frame (FRAME.TG_CTRL.MODE n) ≤ 4))).map (fun n => s.get Page.frame (FRAME.TG_CTRL.SIGNAL n))

/-- The signals of ring extraction. -/
def State.ringSigs (s : State) : List Nat :=
  if !s.domOn 7 then [] else (s.extChans.filter (·.valid)).map (·.signal)

/-- The last receive slot of a port. -/
def State.lastSlot (s : State) (p : Nat) : Nat :=
  if isI2s p then 1 else s.get (audioPage p) TDM.TDM_CFG.SLOTS

/-- The signals of the receiver of port `p` (R355). -/
def State.rxSigs (s : State) (p : Nat) : List Nat :=
  if !s.domOn 8 || !s.flag (audioPage p) TDM.PORT_CTRL.RX_EN then []
  else (List.range (s.lastSlot p + 1)).map (fun k => s.get (audioPage p) TDM.RX_SIG.BASE + k)

/-- The measurement signals of amplifier channel `n` (R385). -/
def State.ampSigs (s : State) (n : Nat) : List Nat :=
  if !s.domOn 9 || !s.flag (Page.amp n) AMP.AMP_CTRL.SIG_EN then []
  else [s.get (Page.amp n) AMP.AMP_SIG.VSIG, s.get (Page.amp n) AMP.AMP_SIG.ISIG]

/-- Oryx destinations, one for each pass, and fast destinations. -/
def State.oryxSigs (s : State) : List Nat :=
  if !s.domOn 5 then [] else s.oryxPasses.flatMap s.oryxDsts ++ s.fastDsts

/-- The passes of a type that are there. -/
def State.presentPasses (s : State) (ty : Nat) : List Nat :=
  s.passList.filter (fun i => s.passType i == ty && s.passPresent i)

/-- The outputs of core `n`, where a pass names its cluster and it is enabled (R73, R149). -/
def State.coreSigs (s : State) (n : Nat) : List Nat :=
  if (s.presentPasses 4).any (fun i => s.passClus i == n / 8) && (s.enCores (n / 8)).contains n then
    (s.ioList n true).flatMap IoEnt.sigs
  else []

/-- Every producer: its page and its signal, in page order. -/
def State.producers (s : State) : List (Nat × Nat) :=
  s.tgSigs.map (fun x => (Page.frame, x)) ++ s.oryxSigs.map (fun x => (Page.oryx, x))
    ++ ((s.presentPasses 2).flatMap s.passMakes).map (fun x => (Page.eq, x))
    ++ ((s.presentPasses 3).flatMap s.passMakes).map (fun x => (Page.delay, x))
    ++ (List.range 32).flatMap (fun n => (s.coreSigs n).map (fun x => (Page.ibex n, x)))
    ++ s.ringSigs.map (fun x => (Page.ring, x))
    ++ (List.range 52).flatMap (fun p => (s.rxSigs p).map (fun x => (audioPage p, x)))
    ++ (List.range 16).flatMap (fun n => (s.ampSigs n).map (fun x => (Page.amp n, x)))

/-- Signals that an ingress producer writes (R72), by kind of producer; a destination of the fast slice
stays one until the next commit, also where it retires before that (R74, R193). -/
def State.ingressSigs (s : State) : List Nat :=
  s.tgSigs ++ s.ringSigs ++ (List.range 52).flatMap s.rxSigs ++ (List.range 16).flatMap s.ampSigs
    ++ (if s.domOn 5 then s.fastDsts ++ s.oryx.kept else [])

/-! ### Check 1: ranges -/

/-- A failure: error code, page, index. -/
abbrev Fail := Nat × Nat × Nat

/-- A RANGE failure. -/
def rangeAt (p i : Nat) : Fail := (Code.range, p, i)

/-- The first element of a list that fails, as a RANGE failure of page `p`. -/
def firstBad (p : Nat) (l : List Nat) (bad : Nat → Bool) : Option Fail := (l.find? bad).map (rangeAt p)

/-- The length of the table that a pass of type `ty` ranges over (R83). -/
def State.engineLen (s : State) (ty : Nat) : Nat :=
  match ty with
  | 1 => s.get Page.oryx ORYX.ORYX_LEN.LEN
  | 2 => s.chains.length
  | _ => s.get Page.delay DELAY.DELAY_LEN.LEN

/-- Whether pass i of the list is refused (R83): its own range, its overlap with an earlier pass, its
table; `old` is the machine before the commit, for a spare that takes over (R158, R159). -/
def State.passBad (s old : State) (dirtyIbex : Nat → Bool) (i : Nat) : Bool :=
  let ty := s.passType i
  let r := s.passRange i
  let before := (s.passList.filter (fun q => decide (q < i)))
  if ty = 4 then
    let c := s.passClus i
    before.any (fun q => s.passType q == 4 && s.passClus q == c) ||
      (s.flag (Page.clus c) CLUS.CLUS_CTRL.SPARE &&
        (let src := s.get (Page.clus c) CLUS.MIG_CTRL.SOURCE
         !(old.migState c == 3 && old.passType i == 4 && old.passClus i == src &&
           !(s.passList.any (fun q => s.passType q == 4 && s.passClus q == src)) &&
           !(clusCores c ++ clusCores src).any dirtyIbex)))
  else
    decide (r.2 < r.1) ||
      before.any (fun q => s.passType q == ty &&
        decide (r.1 ≤ (s.passRange q).2 ∧ (s.passRange q).1 ≤ r.2)) ||
      (s.passPresent i && decide (s.engineLen ty ≤ r.2))

/-- Check 1 on the FRAME page (R83, R93). -/
def State.frameRange (s old : State) (dirtyIbex : Nat → Bool) : Option Fail :=
  match firstBad Page.frame (List.range 64) (fun i => decide (5 ≤ s.passType i) ||
      (s.passList.contains i && s.passBad old dirtyIbex i)) with
  | some f => some f
  | none => firstBad Page.frame (List.range 16)
      (fun n => decide (5 ≤ s.get Page.frame (FRAME.TG_CTRL.MODE n)))

/-- The sources that a fast entry may have (R89). -/
def State.fastSources (s : State) : List Nat :=
  s.ringSigs ++ (List.range 52).flatMap s.rxSigs ++ s.tgSigs

/-- Destinations of non-fast entries and non-fast fading entries. -/
def State.slowDsts (s : State) : List Nat :=
  (s.xpts.filter (fun e => !e.fast)).map (·.dst) ++ (s.fadeKeys.filter (fun k => !keyFast k)).map keyDst

/-- Check 1 on the entries of the Oryx table, and on its fading entries (R89, R177, R184, R193). -/
def State.xptRange (s : State) : Option Fail :=
  let t := s.xpts.zipIdx
  let srcs := s.fastSources
  let slow := s.slowDsts
  let limit := s.cps / 2
  match t.find? (fun e =>
      (e.1.en && e.1.pol && e.1.gain == -0x80000000) ||
      (e.1.fast && (decide (limit ≤ ((t.take e.2).filter (fun x => x.1.fast)).length) ||
        !srcs.contains e.1.src || slow.contains e.1.dst))) with
  | some e => some (rangeAt Page.oryx e.2)
  | none =>
    (s.fadeKeys.filter keyFast).findSome? (fun k =>
      if !srcs.contains (keySrc k) then some (rangeAt Page.oryx (keySrc k))
      else if slow.contains (keyDst k) then
        some (rangeAt Page.oryx
          (((t.find? (fun e => !e.1.fast && e.1.dst == keyDst k)).map (·.2)).getD 0))
      else none)

/-- Check 1 on the ORYX page. -/
def State.oryxRange (s : State) : Option Fail :=
  let bad (f : Fld) : Bool := decide (s.get Page.oryx f < 6 ∨ 17 < s.get Page.oryx f)
  if 131072 < s.get Page.oryx ORYX.ORYX_LEN.LEN then some (rangeAt Page.oryx 0)
  else if bad ORYX.RAMP6_CFG.LEN_LOG2 then some (rangeAt Page.oryx 6)
  else if bad ORYX.RAMP7_CFG.LEN_LOG2 then some (rangeAt Page.oryx 7)
  else s.xptRange

/-- Check 1 on the METER page. -/
def State.meterRange (s : State) : Option Fail :=
  firstBad Page.meter [1, 2, 3] (fun p =>
    decide (s.get Page.meter (METER.PROF_CFG.TC_LOG2 p) < 4 ∨
      20 < s.get Page.meter (METER.PROF_CFG.TC_LOG2 p)))

/-- Whether a section has a bit that must be 0 (R199). -/
def eqZeros (v : Nat) : Bool :=
  nz v 174 2 || nz v 190 2 || nz v 197 59 || (!v.testBit 192 && nz v 160 14) ||
    (!v.testBit 193 && nz v 176 14)

/-- The first section refused by R199 or R201: `i` its index, `first` whether a chain must start
here, `chains` the heads so far, `n` the sections left. -/
def State.sectionBad (s : State) : Nat → Nat → Bool → Nat → Option Nat
  | 0, i, first, _ => if first then none else some (i - 1)
  | n + 1, i, first, chains =>
    let v := s.eqRaw i
    let chains := if v.testBit 192 then chains + 1 else chains
    if eqZeros v || v.testBit 192 != first || decide (2048 < chains) then some i
    else s.sectionBad n (i + 1) (v.testBit 193) chains

/-- The first EQ pass at which the allowances exceed the reserve (R207). -/
def State.allowBad (s : State) : Option Nat :=
  s.eqPasses.find? (fun i => decide (s.eqReserve <
    ((s.eqPasses.filter (fun q => decide (q ≤ i))).map (fun q => s.get Page.eq (EQ.XALLOW.ALLOW q))).sum))

/-- Check 1 on the EQ page. -/
def State.eqRange (s : State) : Option Fail :=
  let len := s.get Page.eq EQ.EQ_LEN.LEN
  if 16384 < len then some (rangeAt Page.eq 0)
  else match s.sectionBad len 0 true 0 with
    | some i => some (rangeAt Page.eq i)
    | none => s.allowBad.map (rangeAt Page.eq)

/-- Whether a tap has a bit that must be 0 (R213). -/
def tapZeros (v : Nat) : Bool :=
  nz v 17 15 || nz v 56 8 || nz v 120 8 || (!v.testBit 14 && (nz v 64 32 || nz v 96 24))

/-- Two lines share Store bytes. -/
def Line.meets (a b : Line) : Bool := decide (a.base < b.base + 4 * b.len ∧ b.base < a.base + 4 * a.len)

/-- Whether tap i is refused (R213, R214). -/
def State.tapBad (s : State) (i : Nat) : Bool :=
  let v := s.tapRaw i
  let head (k : Nat) : Bool := (s.tapRaw k).testBit 14
  tapZeros v || (i == 0 && !head 0) ||
    (head i && match s.lines.find? (fun l => l.head == i) with
      | some l => decide (l.len < 32) || decide (0x04000000 < l.base + 4 * l.len) ||
          (s.lines.filter (fun m => decide (m.head < i))).any l.meets
      | none => false) ||
    (s.domOn 6 && s.delayPasses.any (fun q =>
      let r := s.passRange q
      (i == r.1 && !head i) || (i == r.2 + 1 && !head i)))

/-- Check 1 on the DELAY page (R213, R214). Without STORE the delay passes are absent, and with them the tests of
their ranges (R29, R83, R218). -/
def State.delayRange (s : State) : Option Fail :=
  let len := s.get Page.delay DELAY.DELAY_LEN.LEN
  match firstBad Page.delay (List.range (Nat.min len s.delayCap)) s.tapBad with
  | some f => some f
  | none => if s.delayCap < len then some (rangeAt Page.delay s.delayCap) else none

/-- Whether a list entry of a core is refused (R149). -/
def State.ioBad (s : State) (e : IoEnt) : Bool :=
  decide (e.addr % 16 ≠ 0) || decide (0x40000 < e.addr + e.count * s.fsize * 4) ||
    decide (16384 < e.first + e.count)

/-- Check 1 on the page of core `n`; `scan` says that the commit makes a program set active (R149,
R174). -/
def State.ibexRange (s : State) (scan : Bool) (n : Nat) : Option Fail :=
  if !s.domOn (1 + n / 8) then none
  else match (s.ioList n false ++ s.ioList n true).find? s.ioBad with
    | some e => some (rangeAt (Page.ibex n) e.e)
    | none =>
      if scan then
        (s.reservedBundle (0x20000000 + n * 0x100000 + s.activeSet (Page.ibex n) * 0x10000)).map
          (rangeAt (Page.ibex n))
      else none

/-! ### Check 1 on the ring stream tables (R284) -/

/-- Whether a stream has an injection role from the Signal Plane or a spur output from it. -/
def StreamEnt.injects (e : StreamEnt) : Bool :=
  e.src == 0 && (e.aMode == 2 || e.bMode == 2 || e.spurs != 0)

/-- The Store bytes of an extraction buffer. -/
def StreamEnt.buffer (e : StreamEnt) : Line := ⟨0, 0, e.base, 8 * e.depth⟩

/-- Whether stream `id` is refused. -/
def State.streamBad (s : State) (id : Nat) : Bool :=
  let raw := s.streamRaw id
  let e := s.streamEnt id
  let pair := s.streamEnt (id - id % 2)
  if raw = 0 then false
  else
    e.aMode == 3 || e.bMode == 3 || decide (4 < e.src) || e.rate == 3 || e.merge == 3 || e.zero29 != 0 ||
    (id % 2 == 1 && (pair.rate == 2 || e.rate == 2)) ||
    ((e.ext || (e.src == 0 && (e.aMode == 2 || e.bMode == 2))) && e.rate != s.fs) ||
    (e.ext && (e.offset == 0 || (s.fs == 0 && e.offset % 2 == 1) ||
      decide (e.depth < ceilDiv ((e.offset + 1) * 2 ^ s.fs) 2) ||
      decide (0x04000000 < e.base + 32 * e.depth) ||
      (s.domOn 5 && s.domOn 6 && s.lines.any (fun l => l.meets e.buffer)) ||
      (s.streams.filter (fun j => decide (j < id))).any (fun j =>
        (s.streamEnt j).ext && (s.streamEnt j).buffer.meets e.buffer))) ||
    (e.merge != 0 && !(s.streamEnt e.partner).ext)

/-- Whether the channel entry at byte offset `off` is refused. -/
def State.chanBad (s : State) (inj : Bool) (i : Nat) : Bool :=
  let c := if inj then s.injChan i else s.extChan i
  let e := s.streamEnt c.stream
  c.zeros != 0 || c.slot == 7 ||
    (c.valid && (if inj then !e.injects || (List.range i).any (fun k =>
        let d := s.injChan k
        d.valid && d.stream == c.stream && d.slot == c.slot) else !e.ext))

/-- The ring channels that can be extracted, and injected: 4,096 each, at 192 kHz 2,048 (R24). -/
def State.chanCap (s : State) : Nat := if s.fs = 2 then 2048 else 4096

/-- The first valid channel entry beyond the channels that can be extracted or injected (R11, R24; DEDUCED, log
entry 84). -/
def State.chanOver (s : State) (inj : Bool) : Option Nat :=
  let valid := (s.usedEntries (if inj then 0xC000 else 0x8000) 4 4096).filter (fun i =>
    (if inj then s.injChan i else s.extChan i).valid)
  (valid.drop s.chanCap).head?

/-- Check 1 on the RING page: streams, then channel entries by their byte offset. -/
def State.ringRange (s : State) : Option Fail :=
  if !s.domOn 7 then none
  else if s.get Page.ring RING.RING_CFG.AGE_MAX = 0 ∨ s.mergeWin = 0 ∨ 64 < s.mergeWin then
    some (rangeAt Page.ring 0)
  else match firstBad Page.ring s.streams s.streamBad with
    | some f => some f
    | none =>
      match (s.chanOver false).orElse fun _ => (s.usedEntries 0x8000 4 4096).find? (s.chanBad false) with
      | some i => some (rangeAt Page.ring (0x8000 + 4 * i))
      | none => ((s.chanOver true).orElse fun _ => (s.usedEntries 0xC000 4 4096).find? (s.chanBad true)).map
          (fun i => rangeAt Page.ring (0xC000 + 4 * i))

/-- Check 1 on the page of port `p` (R355). -/
def State.portRange (s : State) (p : Nat) : Option Fail :=
  let g := audioPage p
  if !s.domOn 8 then none
  else if 16383 < s.get g TDM.RX_SIG.BASE + s.lastSlot p ∨ 16383 < s.get g TDM.TX_SIG.BASE + s.lastSlot p
  then some (rangeAt g 0) else none

/-- Check 1 on the page of amplifier channel `n` (R385). -/
def State.ampRange (s : State) (n : Nat) : Option Fail :=
  match s.ampSigs n with
  | [v, i] => if v = i then some (rangeAt (Page.amp n) 0) else none
  | _ => none

/-- Check 1 over the pages in page order. `scan n` says that the commit makes a program set of core
`n` active, and so does `dirtyIbex` for R159. -/
def State.check1 (s old : State) (scan : Nat → Bool) : Option Fail :=
  let mix : List (Option Fail) :=
    if s.domOn 5 then [s.frameRange old scan, s.oryxRange, s.meterRange, s.eqRange, s.delayRange] else []
  (mix.findSome? id).orElse fun _ =>
  ((List.range 32).findSome? (fun n => s.ibexRange (scan n) n)).orElse fun _ =>
  s.ringRange.orElse fun _ =>
  ((List.range 52).findSome? s.portRange).orElse fun _ =>
  (List.range 16).findSome? s.ampRange

/-! ### Checks 2 to 7 -/

/-- Check 2 (R179): the second entry of the first pair out of order. -/
def State.check2 (s : State) : Option Fail :=
  if !s.domOn 5 then none
  else
    let keys := s.xpts.map (fun e => e.dst * 16384 + e.src)
    (((keys.zip (keys.drop 1)).zipIdx).find? (fun e => decide (e.1.2 ≤ e.1.1))).map
      (fun e => (0x44, Page.oryx, e.2 + 1))

/-- Check 3 (R73): the lowest signal ID with two producers, and the page of the later one. -/
def State.check3 (s : State) : Option Fail :=
  let ps := s.producers
  let dups := (ps.zipIdx).filter (fun e => (ps.take e.2).any (fun q => q.2 == e.1.2))
  match dups with
  | [] => none
  | d :: ds =>
    let m := ds.foldl (fun (b : Nat × Nat) e => if e.1.2 < b.2 then e.1 else b) d.1
    some (0x40, m.1, m.2)

/-- The first core of a cluster in the pass list whose declared worst case is out of its limits (R151). -/
def State.coreLate (s : State) : Option Fail :=
  ((s.presentPasses 4).flatMap (fun i => s.enCores (s.passClus i))).mergeSort.findSome? (fun n =>
    let d := s.ibexCfg n IBEX.DECL_WCET.CYCLES
    let c := n / 8
    if s.budget < d + 64 ∨ d < s.stageCycles c false + s.stageCycles c true + 16 then
      some (0x41, Page.ibex n, n) else none)

/-- Check 4: the ledger of each core (R151), then that of the whole schedule (R87). A core's failure is named
as R151 says, though the schedule fails with it. -/
def State.check4 (s : State) : Option Fail :=
  match s.coreLate with
  | some f => some f
  | none =>
    if s.domOn 5 then
      (s.schedule.find? (fun q => decide (s.budget < q.start + q.cost))).map
        (fun q => (0x41, Page.frame, q.pass))
    else none

/-- Check 5 (R299). -/
def State.check5 (s : State) : Option Fail :=
  if !s.domOn 7 then none else s.slotPlanFault.map (fun f => (0x42, f.1, f.2))

/-- Check 6 (R184, R192): the fading entries that the commit would hold, and the fast window with the
fast ones. The list has them once the tables have been compared. -/
def State.check6 (s : State) : Option Fail :=
  if s.domOn 5 && (decide (4096 < s.fadeKeys.length) || decide (s.cps / 2 < s.fastCount)) then
    some (0x43, Page.oryx, 0)
  else none

/-- Check 7 (R212). -/
def State.check7 (s old : State) : Option Fail :=
  if !s.domOn 5 then none else (eqReserveFault old s).map (fun i => (0x45, Page.eq, i))

end Sys2Proof.Machine
end

