-- ==== Sys2Proof/Machine/Window.lean ====
section
/-! DEFINITION. The processing window and the passes of the frame path in it (R74, R78, R84, R434), with the
configuration that governs them: a window that began before a commit's boundary goes on under the
configuration that it began with (R154, R192, R211). -/

namespace Sys2Proof.Machine

/-! ### The configuration of a window -/

/-- Fields as a list has them. -/
def State.putOld (s : State) (l : List OldFld) : State :=
  { s with fld := l.foldl (fun (t : Tab Nat) (e : OldFld) => Tab.put e.rst t e.key e.val) s.fld }

/-- The present values of the fields of a list. -/
def State.oldNow (s : State) (l : List OldFld) : List OldFld :=
  l.map (fun e => { e with val := Tab.get e.rst s.fld e.key })

/-- Tables with the contents that a list has for them. -/
def State.putTabs (s : State) (l : List OldTab) : State :=
  { s with mem := l.foldl (fun (m : List Host.Cell) (t : OldTab) =>
      Tab.puts 0 (Tab.clear m t.lo t.hi) t.cells) s.mem }

/-- The present contents of the tables of a list. -/
def State.tabsNow (s : State) (l : List OldTab) : List OldTab :=
  l.map (fun t => { t with cells := Tab.range s.mem t.lo t.hi })

/-- The machine as the passes of the present window see it: where the last commit does not govern the window,
with the configuration from before it. -/
def State.windowView (s : State) : State := (s.putOld s.fseq.old).putTabs s.fseq.oldTabs

/-- Something that the passes of the present window do, under the window's configuration. -/
def State.inWindow (s : State) (f : State → State) : State :=
  match s.fseq.old with
  | [] => f s
  | l => ((f s.windowView).putOld (s.oldNow l)).putTabs (s.tabsNow s.fseq.oldTabs)

/-- FRAME_RUN.RUN as active. -/
def State.run (s : State) : Bool := s.flag Page.frame FRAME.FRAME_RUN.RUN

/-- The pages whose configuration the engine passes run under. -/
def passPages : List Nat := [Page.frame, Page.oryx, Page.eq, Page.delay]

/-- The fields of the schedule that PASS_START and PASS_COST report (R86). -/
def scheduleFlds : List Fld :=
  (List.range 64).flatMap (fun i => [FRAME.PASS_START.START i, FRAME.PASS_COST.COST i])

/-- The configuration of the passes as it stands, before a commit of `pages`. -/
def State.passConfig (s : State) (pages : List Nat) : List OldFld :=
  let of (p : Nat) (f : Fld) : OldFld := { key := fkey p f, rst := f.rst, val := s.get p f }
  (passPages.filter pages.contains).flatMap (fun p =>
    (shadowFlds p).map (of p) ++ (if hasTables p then [of p HDR.SET_STAT.ACTIVE_SET] else []))
  ++ scheduleFlds.map (of Page.frame)

/-- The tables of the passes as they stand active, before a commit of `pages`. -/
def State.passTables (s : State) (pages : List Nat) : List OldTab :=
  (passPages.filter pages.contains).filterMap (fun p => (pageTables p).map (fun t =>
    let lo := if s.activeSet p = 0 then t.1 else t.2.1
    { lo := lo, hi := lo + t.2.2, cells := Tab.range s.mem lo (lo + t.2.2) }))

/-- The spares whose migration is complete have no part in their source's passes any more (R159). -/
def State.tailsEnd (s : State) : State :=
  (List.range 4).foldl (fun (s : State) (c : Nat) =>
    if (s.cl c).tail then s.setCl c { s.cl c with tail := false } else s) s

/-- The engines take up the configuration of the last commit, as the first window starts that it governs: the
frame path of Oryx, the EQ and the delay lines compare it with the one before (R190, R208, R220), as the tables
stood at its boundary. The fading entries that the commit has discarded are gone (R194). -/
def State.takeUp (s : State) : State :=
  match s.fseq.oldPages with
  | [] => s
  | pages =>
    let old := s.windowView
    let s := { s.tailsEnd with fseq := { s.fseq with old := [], oldTabs := [], oldPages := [] } }
    let n := s.fadesRunning
    let s := if pages.contains Page.oryx then s.oryxCompare old.xpts (fun e => !e.fast) else s
    let s := (s.fadesGone.fadeNote n).noteRetire
    let s := if pages.contains Page.eq then s.eqCompare old else s
    if pages.contains Page.delay then s.delayCompare old else s

/-! ### Reading and the passes (R83, R84) -/

/-- The signals that pass `i` produces in the present window: of a cluster, the outputs of its active lists where
the window is not governed by the last commit, else those of the committed lists (R84, R154). -/
def State.windowMakes (s : State) (i : Nat) : List Nat :=
  if s.passType i = 4 ∧ s.fseq.old ≠ [] then
    if s.passPresent i then ((s.nowCores (s.passClus i)).flatMap (fun n => s.ioNow n true)).flatMap IoEnt.sigs
    else []
  else s.passMakes i

/-- The buffer in which pass `q` reads a signal in the window of frame `f`: the previous frame's where
the producer is the pass itself or a later one (R84). -/
def State.passBuffer (s : State) (q f sig : Nat) : Nat :=
  let late := ((s.passList.filter (fun i => decide (q ≤ i))).flatMap s.windowMakes).contains sig
  if late then (f + 1) % 2 else f % 2

/-- A sample as pass `q` reads it in the window of frame `f`. -/
def State.passSample (s : State) (q f sig k : Nat) : Word := s.planeRead (s.passBuffer q f sig) sig k

/-- An engine pass over the frame of the window; a cluster pass is carried out by its cluster. -/
def State.enginePass (s : State) (i : Nat) : State :=
  let f := s.fseq.winFrame
  let read := s.passSample i f
  match s.passType i with
    | 1 => s.oryxPass i (f % 2) read
    | 2 => s.eqPass i (f % 2) read
    | 3 => s.delayPass i (f % 2) (BitVec.ofNat 32 (f * s.fsize)) read
    | _ => s

/-! ### Windows (R78, R434) -/

/-- The written marks of every other signal in buffer `b`, at the start of a processing window. -/
def State.clearPass (s : State) (b : Nat) : State :=
  let keep := s.ingressSigs
  { s with marks := s.marks.filter (fun e =>
      !(e.1 / 524288 == b) || keep.contains (e.1 / 32 % 16384)) }

/-- The end of a processing window that has run (R434). -/
def State.windowEnd (s : State) : State :=
  if !s.fseq.winOn then s
  else s.put Page.frame FRAME.SLACK_MIN.SLACK
    (Nat.min (s.get Page.frame FRAME.SLACK_MIN.SLACK) (s.budget - s.fseq.finish))

/-- The instant at which the processing window of frame (t - 1) / N - 1 starts: the last one ends, a commit
applied before it governs it, marks clear, and a window runs where RUN has been 1 for its whole frame (R74,
R78, R80). Cores whose exchange was committed before it may swap in it (R154). -/
def State.windowStart_ (s : State) (t : BitVec 32) : State :=
  let s := if s.fseq.fresh then s.windowEnd else s.windowEnd.takeUp
  let f := ((t - 1).toNat / s.fsize + 2 ^ 32 - 1) % (2 ^ 32 / s.fsize)
  let s := s.clearPass (f % 2)
  let s := { s with fseq := { s.fseq with
    winOn := s.run && decide (s.fsize + 1 ≤ s.fseq.runAge)
    winFrame := f, finish := 0, passDone := [] } }
  (List.range 32).foldl (fun s n =>
    let c := s.core n
    s.setCore1 n { c with
      stallsWin := 0, swapReady := c.swapReady || (c.swapPend && !s.fseq.fresh) }) s

/-- The engine passes of the present window that have not started, carried out. -/
def State.restOfWindow (s : State) : State :=
  if !s.fseq.winOn then s
  else (s.windowView.passList.filter (fun i => !Tab.get false s.fseq.passDone i)).foldl (fun s i =>
    s.inWindow (fun s => if s.passPresent i then s.enginePass i else s)) s

/-- The machine when the passes of frame g - 2 are over, g being the frame that begins at boundary `b`: what
the checks of a commit at `b` count ramps and transitions in (R192, R212). -/
def State.throughG2 (s : State) (b : BitVec 32) : State :=
  if !s.run then s
  else
    let s := s.restOfWindow
    if s.fsize = 1 then (s.windowStart_ b).restOfWindow else s

end Sys2Proof.Machine
end

