-- ==== Sys2Proof/Machine/Commit.lean ====
section
/-! DEFINITION. Commits (R41 to R51, R436): GO and ABORT, validation, and the application at a frame
boundary with what each block does when its configuration changes. -/

namespace Sys2Proof.Machine

/-! ### Shadow into active (R41, R154) -/

/-- A page's shadow copies become active: registers are copied, tables and program sets exchanged. The
registers of a core wait for its next frame start (R154). -/
def State.applyPage (s : State) (p : Nat) : State :=
  let vals : List (Fld × Nat) := (shadowFlds p).map (fun f => (f, s.getSh p f))
  let s := match blockOf p with
    | some (.ibex, n) =>
      let staged := vals.foldl (fun t (e : Fld × Nat) => Tab.put e.1.rst t (fkey p e.1) e.2) s.staged
      { s with staged := staged }.setCore1 n { s.core n with swapPend := true, swapReady := false }
    | _ => vals.foldl (fun s (e : Fld × Nat) => s.put p e.1 e.2) s
  let s := if hasTables p then s.put p HDR.SET_STAT.ACTIVE_SET (1 - s.activeSet p) else s
  { s with dirtyReg := Tab.put false s.dirtyReg p false, dirtyTab := Tab.put false s.dirtyTab p false }



/-- The fast window, counted by a commit that changes the table (R183). -/
def State.fastReport (s : State) : State :=
  (s.put Page.oryx ORYX.FAST_STAT.COUNT s.fastCount).put Page.oryx ORYX.FAST_STAT.WINDOW
    (ceilDiv s.fastCount 16)

/-- The configuration that the commit would make active, with the Oryx comparison done. -/
def State.commitCompared (s : State) : State :=
  let pages := s.commitDirty
  let n := pages.foldl State.applyPage s
  if pages.contains Page.oryx then n.oryxCompare s.xpts (fun _ => true) else n

/-- The configuration that the commit would make active, with the Oryx comparison done, so that the
fade list holds what check 6 counts (R47, R192). -/
def State.commitConfig (s : State) : State :=
  let pages := s.commitDirty
  let n := s.commitCompared
  let n := if n.run && !s.run then n.oryxStart else if n.domOn 5 then n.fadeDiscard else n
  (if pages.contains Page.oryx then n.fastReport else n).fadeNote s.fadesRunning

/-- Whether processing windows run, so that a window may go on under the configuration from before a commit
(R74, R80). -/
def State.windowsRun (s : State) : Bool := s.run && s.domOn 5

/-- The configuration that the commit makes active at its boundary. Where RUN is 1, the passes of the window
that runs go on under the old one, and the comparison is made for the fast slice alone; the rest of it waits for
the first window that the commit governs (R188, R192, R211), and so do the fading entries that a pass list
without an Oryx pass discards, which the boundary counts (R194). -/
def State.commitTake (s : State) : State :=
  let pages := s.commitDirty
  let n := pages.foldl State.applyPage s
  if !s.windowsRun then s.commitConfig
  else if pages.contains Page.oryx then
    ((n.oryxCompare s.xpts (fun e => e.fast)).fastReport).fadeNote s.fadesRunning
  else n

/-! ### Outcomes (R45, R48, R436) -/

def State.commitStat (s : State) (f : Fld) (b : Bool) : State := s.putB Page.dev f b

/-- The commit ends: nothing is pending or deferred. -/
def State.commitEnd (s : State) : State :=
  { (s.commitStat DEV.COMMIT_STAT.PENDING false).commitStat DEV.COMMIT_STAT.DEFERRED false with
    commit := CommitReq.reset }

/-- A refusal: its code is reported and logged. -/
def State.commitRefuse (s : State) (code : Nat) : State :=
  let s := (s.commitStat DEV.COMMIT_STAT.REFUSED true).put Page.dev DEV.COMMIT_STAT.CODE code
  ((s.log Page.dev code).raise Page.dev 1).commitEnd

/-- COMMIT_DETAIL of the first failing check. -/
def State.commitDetail (s : State) (f : Fail) : State :=
  (s.put Page.dev DEV.COMMIT_DETAIL.PAGE f.2.1).put Page.dev DEV.COMMIT_DETAIL.INDEX f.2.2

/-- A timed commit that finds its target past (R45). -/
def State.commitLate (s : State) : State :=
  let s := (s.commitStat DEV.COMMIT_STAT.LATE true).raise Page.dev 3
  if s.commit.strict then s.commitRefuse Code.late
  else { s.log Page.dev Code.late with commit := { s.commit with late := true } }

/-- Whether the target lies in the past (R45). -/
def State.commitPast (s : State) : Bool :=
  let now := if s.commit.timing = 1 then s.cycle else s.nt
  s.commit.timing != 0 && !s.commit.late &&
    decide (2 ^ 31 ≤ (s.commit.target + 2 ^ 33 - now - 1) % 2 ^ 32)

/-- A commit that cannot be applied at this boundary: deferred, or refused where it is strict, timed
and at its target boundary (R47, R48). -/
def State.commitDefer (s : State) (f : Fail) : State :=
  let s := s.commitDetail f
  if s.commit.strict && s.commit.timing != 0 then s.commitRefuse f.1
  else
    let first := !s.flag Page.dev DEV.COMMIT_STAT.DEFERRED
    let s := (s.put Page.dev DEV.COMMIT_STAT.CODE f.1).commitStat DEV.COMMIT_STAT.DEFERRED true
    let s := s.bump Page.dev DEV.COMMIT_STAT.DEFER_FRAMES
    if first then (s.log Page.dev Code.deferred).raise Page.dev 2 else s

/-! ### GO and ABORT (R43 to R45, R50) -/

/-- A commit starts: the pages of the selected groups, the timing and the target are latched, and a
timed target is tested (R44, R45). The list of pages is fixed here: a page whose COMMIT_GROUP moves into a
selected group afterwards is not in the commit (DESIGN CHOICE, log entry 85). -/
def State.commitStart (s : State) (mask timing : Nat) (strict : Bool) (target : Nat) : State :=
  let s := [DEV.COMMIT_STAT.DONE, DEV.COMMIT_STAT.LATE, DEV.COMMIT_STAT.DEFERRED,
    DEV.COMMIT_STAT.REFUSED, DEV.COMMIT_STAT.ABORTED].foldl (fun s f => s.commitStat f false) s
  let s := (s.put Page.dev DEV.COMMIT_STAT.CODE 0).put Page.dev DEV.COMMIT_STAT.DEFER_FRAMES 0
  let s := s.commitStat DEV.COMMIT_STAT.PENDING true
  let s := { s with commit := ⟨allPages.filter (fun p => mask.testBit (s.group p)), timing, strict,
    target, false, false⟩ }
  if s.commitPast then s.commitLate else s

/-! ### Checks (R45 to R47) -/

/-- Whether the commit makes a program set of core `n` active. -/
def State.scans (s : State) (n : Nat) : Bool := s.commitDirty.contains (Page.ibex n)

/-- Checks 1 to 5, which refuse. -/
def State.refusal (s new : State) : Option Fail :=
  (new.check1 s s.scans).orElse fun _ => new.check2.orElse fun _ => new.check3.orElse fun _ =>
    new.check4.orElse fun _ => new.check5

/-- Checks 6 and 7, which defer. -/
def State.deferral (s new : State) : Option Fail := new.check6.orElse fun _ => new.check7 s

/-- Whether the boundary at sample index `b` applies the commit: its target boundary is not missed, and every
check passes (R47, R48). -/
def State.commitPasses (s : State) (b : BitVec 32) : Bool :=
  let past := s.throughG2 b
  let new := past.commitConfig
  !s.commitMissed && (past.refusal new).isNone && (past.deferral new).isNone

/-- Whether the next tick is the boundary that applies the commit. -/
def State.commitApplies (s : State) : Bool :=
  s.commitDue && s.nextTick.any s.commitPasses

/-- Whether the frame boundary at which the commit is applied falls in the present MGMT_CLK cycle: the tick
that comes next in this link cycle, or the first of the next link cycle (R50). -/
def State.commitAtOnce (s : State) : Bool :=
  let here := s.mgmtNow
  let next := { s with
    time := { s.time with
      c := s.time.nextCQ.1, q := s.time.nextCQ.2, phase := 0, starts := s.time.starts + 1 }
    fseq := { s.fseq with ticksDone := 0 } }
  (here == mgmtCycle s.time.starts s.tickPhase && s.commitApplies) ||
    (here == mgmtCycle next.time.starts 0 && next.commitApplies)

/-- ABORT withdraws the pending commit; in the MGMT_CLK cycle of the commit's frame boundary it is ignored
(R50). -/
def State.commitAbort (s : State) : State :=
  if s.commitPending && !s.commitAtOnce then s.commitEnd.commitStat DEV.COMMIT_STAT.ABORTED true else s

/-- Whether a power request is running (R394). -/
def State.pwrBusy (s : State) : Bool := s.flag Page.pwr PWR.PWR_STAT.BUSY

/-- GO of COMMIT_CTRL, with its fields already written (R43, R394). -/
def State.commitGo (s : State) : State :=
  let timing := s.get Page.dev DEV.COMMIT_CTRL.TIMING
  if timing = 3 then s.log Page.dev Code.range
  else if s.commitPending || s.pwrBusy then s.log Page.dev Code.refused
  else
    let target := match timing with
      | 1 => s.get Page.dev DEV.COMMIT_CYCLE.CYCLE
      | 2 => s.get Page.dev DEV.COMMIT_TIME.TIME
      | _ => 0
    s.commitStart (s.get Page.dev DEV.COMMIT_CTRL.GROUP_MASK) timing
      (s.flag Page.dev DEV.COMMIT_CTRL.STRICT) target

/-- A write of COMMIT_CTRL: its fields, then ABORT, then GO (R50). -/
def State.commitCtrl (s : State) (v : Nat) : State :=
  let s := s.put Page.dev DEV.COMMIT_CTRL.GROUP_MASK (bits v 0 8)
  let s := s.put Page.dev DEV.COMMIT_CTRL.TIMING (bits v 8 2)
  let s := s.putB Page.dev DEV.COMMIT_CTRL.STRICT (v.testBit 17)
  let s := if v.testBit 18 then s.commitAbort else s
  if v.testBit 16 then s.commitGo else s

/-- COMMIT_GO: a write of COMMIT_CTRL with GO set. -/
def execCommitGo (ctrl : Word) (s : State) : Host.Outcome State Fault Refusal :=
  .next (s.blockWrite Page.dev (fun s => s.commitCtrl (ctrl ||| 0x10000#32).toNat))

/-- COMMIT_ABORT: a write of COMMIT_CTRL with ABORT set. -/
def execCommitAbort (ctrl : Word) (s : State) : Host.Outcome State Fault Refusal :=
  .next (s.blockWrite Page.dev (fun s => s.commitCtrl (ctrl ||| 0x40000#32).toNat))

/-! ### Validation (R46) -/

/-- The end of validation: a target that has passed meanwhile, then the checks that refuse. -/
def State.validated (s : State) : State :=
  let s := if s.commitPast then s.commitLate else s
  if !s.commitPending then s
  else match s.refusal s.commitConfig with
    | some f => (s.commitDetail f).commitRefuse f.1
    | none => { s with commit := { s.commit with checked := true } }

/-- COMMIT_VALIDATION_DONE. -/
def execCommitValidationDone (s : State) : Host.Outcome State Fault Refusal :=
  .next (if s.inReset ∨ s.commitPending = false ∨ s.commit.checked = true then s else s.validated)

/-! ### What each block does at the boundary -/

/-- Streams restarted by a change of the tables, and copy windows discarded with EXT (R285, R294). -/
def State.ringCommit (s old : State) : State :=
  let same (a b : StreamEnt) : Bool :=
    a.ext && a.rate == b.rate && a.offset == b.offset && a.depth == b.depth && a.base == b.base
  let s := s.streams.foldl (fun s id =>
    if (s.streamEnt id).ext && !same (old.streamEnt id) (s.streamEnt id) then
      s.streamRestart id s.time.c else s) s
  let gone := (s.ring.merge.map (·.1)).filter (fun id => !(s.streamEnt id).ext)
  { s with ring := { s.ring with
      merge := gone.foldl (fun t id => Tab.put none t id none) s.ring.merge } }.ringLoads

/-- A migration after a commit (R159, R160): completed where the spare stands in the source's pass and
the source in none, cancelled where an IBEX page of the two has changed. A completed spare goes on following in
the passes that the old configuration still governs (R154, R159). -/
def State.migCommit (s : State) (pages : List Nat) (c : Nat) : State :=
  let g := Page.clus c
  let src := (s.cl c).src
  let named (k : Nat) : Bool := s.passList.any (fun i => s.passType i == 4 && s.passClus i == k)
  let st := s.migState c
  if st = 0 ∨ st = 4 then s
  else if pages.contains Page.frame && named c && !named src && st == 3 then
    let s := (s.putB g CLUS.CLUS_CTRL.SPARE false).put g CLUS.MIG_STAT.STATE 4
    let s := s.setCl c { s.cl c with tail := !s.fseq.old.isEmpty }
    (s.release Kind.migration c).raise g 1
  else if (clusCores c ++ clusCores src).any (fun n => pages.contains (Page.ibex n)) then
    s.migCancel c 3
  else s

/-- Whether slot `k` of stream `id` reads the frame path, under the configuration that formed its cells. -/
def State.slotOnFrame (s : State) (fast : List Nat) (id k : Nat) : Bool :=
  match s.injChans.find? (fun d => d.stream == id && d.slot == k) with
  | some d => !(fast.contains d.signal)
  | none => false

/-- A cell of this node that leaves in the cycle of the boundary or after it, with 0 in the slots that
read the frame path (R81). -/
def State.muteCell (old : State) (fast : List Nat) (origin : Nat) (c : Cell) : Cell :=
  let id := old.governs c.stream.toNat
  let smp : List Word := c.samples.zipIdx.map (fun (e : Word × Nat) =>
    if old.slotOnFrame fast id e.2 then 0 else e.1)
  cellSeal { c with samples := smp } origin

/-- The injected cells that wait or leave in this cycle, from sample index `b` on, with the frame path
silent (R81). -/
def State.ringMute (s old : State) (fast : List Nat) (b : BitVec 32) : State :=
  let fix := fun (x : TxCell) =>
    let id := x.cell.stream.toNat
    let origin := if s.fs = 0 ∧ id.testBit 1 then (s.cycle + 2 ^ 32 - 1) % 2 ^ 32 else s.cycle
    if x.inj && x.arr == s.time.starts &&
        decide ((sampleIndex s.fs id origin + 2 ^ 32 - b.toNat) % 2 ^ 32 < 2 ^ 31) then
      { x with cell := old.muteCell fast origin x.cell } else x
  let s := { s with ring := { s.ring with
    formed := s.ring.formed.map (fun e => (e.1, old.muteCell fast e.1 e.2)) } }
  (List.range 8).foldl (fun s p =>
    let q := s.port p
    s.setPort p { q with inj := q.inj.map fix, spill := q.spill.map fix, waitq := q.waitq.map fix
                         sent := q.sent.map fix }) s

/-- The amplifier samples read at the last tick with the frame path silent (R81). -/
def State.ampsMute (s old : State) (fast : List Nat) : State :=
  (List.range 16).foldl (fun s n =>
    let a := s.amp n
    if fast.contains (old.get (Page.amp n) AMP.AMP_SRC.SRC) then s
    else match a.ys with
      | [] => s
      | _ :: ys => s.setAmp n { a with ys := 0 :: ys }) s

/-- The active RUN becomes 1 (R80). -/
def State.runStart (s : State) (b : BitVec 32) : State :=
  let s := { s.delayStart b with eqSecs := [] }
  { s with fseq := { s.fseq with runTick := b, runAge := 0, winOn := false } }.raise Page.frame 1

/-- The active RUN becomes 0 (R81). What has been read under the old configuration and waits to be sent is 0,
but for the destinations that its fast slice had, which go on. -/
def State.runStop (s old : State) (b : BitVec 32) : State :=
  let fast := old.fastDsts
  let s := { s with fseq := { s.fseq with
    latch := s.fseq.latch.filter (fun e => fast.contains e.1) } }
  ((s.portsMute.ringMute old fast b).ampsMute old fast).raise Page.frame 2

/-- The passes of the window that runs keep the configuration `old`, and its tables as they stand, until a window
starts that the commit governs; the pages whose comparison waits for it (R192, R211). -/
def State.keepOld (s old : State) (pages : List Nat) : State :=
  let wait := pages.filter (fun p => p == Page.eq || p == Page.delay || p == Page.oryx)
  { s with fseq := { s.fseq with
      old := old.passConfig pages, oldTabs := old.passTables pages, oldPages := Page.frame :: wait } }

/-- The blocks other than Oryx take up the new configuration `s`, which was `old` before. -/
def State.engineHooks (s old : State) (pages : List Nat) (b : BitVec 32) : State :=
  let has := pages.contains
  let starts := s.run && !old.run
  let s := if has Page.delay then
      (if starts then s.delayCounts old starts else (s.delayCounts old starts).commitFetch old b)
    else s
  let s := if old.windowsRun then s.keepOld old pages
    else
      let s := if has Page.eq then s.eqCompare old else s
      if has Page.delay then s.delayCompare old else s
  let s := if has Page.meter then s.meterRestart old.meterCfg else s
  if has Page.ring then s.ringCommit old else s

/-- What a commit of the amplifier and port pages `pages` starts there. -/
def State.audioHooks (s old : State) (pages : List Nat) (b : BitVec 32) : State :=
  let has := pages.contains
  let s := (List.range 16).foldl (fun s n =>
    if has (Page.amp n) then s.ampCommit n (old.getI (Page.amp n) AMP.AMP_GAIN.GAIN) else s) s
  (List.range 52).foldl (fun s p =>
    let g := audioPage p
    if has g && s.get g TDM.TX_MASK.MASK != old.get g TDM.TX_MASK.MASK then s.portCommit p b else s) s

/-- What the take-up of the pages starts, RUN and a following spare with it. -/
def State.hooks (s old : State) (pages : List Nat) (b : BitVec 32) : State :=
  let s := (s.engineHooks old pages b).audioHooks old pages b
  let s := if s.run && !old.run then s.runStart b
    else if !s.run && old.run then s.runStop old b else s
  (List.range 4).foldl (fun s c => s.migCommit pages c) s.noteRetire

/-- The samples that ports and sense converters delivered at the last tick are written under the
configuration they entered with (R49, R78). -/
def State.freezeIngress (s : State) : State :=
  let l := s.portsLanding.map (fun e => (e.1, some e.2))
  let s := { s with fseq := { s.fseq with entered := Tab.puts none s.fseq.entered l } }
  (List.range 52).foldl (fun s p =>
    if (s.aud p).entered.isSome then s.setAud p { s.aud p with entered := none } else s) s

/-- The fields of ORYX and FRAME that report what a commit has made of the fade list and the schedule (R86, R192),
from the configuration `full`; those of a domain that is not ON keep what they hold (R38). -/
def State.reportCommit (s full : State) : State :=
  if !s.domOn 5 then s
  else
    (scheduleFlds ++ [FRAME.FRAME_STAT.PASS_COUNT, FRAME.CRIT_PATH.FINISH]).foldl (fun s f =>
      s.put Page.frame f (full.get Page.frame f))
      (s.put Page.oryx ORYX.FADE_STAT.AT_COMMIT full.fadeKeys.length)

/-- The fading entries that the commit discards at its boundary and that leave the list when a window starts that it
governs, counted (R194). -/
def State.commitDropNote (s past : State) : State :=
  if past.windowsRun && s.run then s.fadeDropNote past.commitCompared.fadesLost.length else s

/-- The commit is applied at sample index `b` (R41, R49, R51). -/
def State.commitApplied (s : State) (b : BitVec 32) : State :=
  let pages := s.commitDirty
  let past := s.throughG2 b
  let old := s.takeUp.freezeIngress
  let seq := s.get Page.dev DEV.COMMIT_SEQ.SEQ
  let s := ((old.commitTake.hooks old pages b).reportCommit past.commitConfig.reportSchedule).commitDropNote past
  let s := { s with fseq := { s.fseq with fresh := true }, oryx := { s.oryx with kept := s.fastDsts } }
  let s := s.presentHeld.put Page.dev DEV.COMMIT_SEQ.SEQ (seq + 1)
  let s := s.put Page.dev DEV.COMMIT_DONE_CYCLE.CYCLE old.cycle
  ((s.commitStat DEV.COMMIT_STAT.DONE true).raise Page.dev 0).commitEnd

/-- The decision at the commit's frame boundary: every check again, with the fading entries and transitions
that the frames it governs would hold (R192, R212), then application, deferral or refusal. -/
def State.commitBoundary (s : State) (b : BitVec 32) : State :=
  let past := s.throughG2 b
  let new := past.commitConfig
  match past.refusal new with
  | some f => (s.presentHeld.commitDetail f).commitRefuse f.1
  | none =>
    match past.deferral new with
    | some f => s.presentHeld.commitDefer f
    | none => s.commitApplied b

/-- COMMIT_APPLY: the frame boundary at which a pending, validated commit is due. It comes before the
Fs tick of the boundary, whose samples the new configuration governs (R49). A strict timed commit whose
target boundary has passed is not applied (R48) and ends as a late one (R45). -/
def execCommitApply (s : State) : Host.Outcome State Fault Refusal :=
  .next (match s.nextTick with
  | some b =>
    if s.inReset ∨ s.commitDue = false then s
    else if s.commitMissed then s.presentHeld.commitLate
    else s.commitBoundary b
  | none => s)

end Sys2Proof.Machine
end

