-- ==== Sys2Proof/Machine/Frame.lean ====
section
/-! DEFINITION. The frame sequencer (spec chapter 03): the Fs tick with ingress, emission and written
marks (R74, R78, R79), the processing window and its passes (R83 to R88, R434), FRAME_CFG, and writes to
the Signal Plane (R77). -/

namespace Sys2Proof.Machine

/-! ### Emission (R78 to R81, R90) -/

/-- Whether emitters read the frame path at tick `t`: from the first sample of the frame at which RUN
became 1 (R80). -/
def State.emits (s : State) : Bool := s.run && decide (2 * s.fsize + 1 ≤ s.fseq.runAge)

/-- What an emitter reads of a signal at tick `t`, and whether its written mark was set: the result of
the fast slice for its destinations, else sample t - 2N - 1 of the frame path. -/
def State.emitRead (s : State) (fast : List (Nat × Word)) (t : BitVec 32) (sig : Nat) : Word × Bool :=
  match fast.find? (fun e => e.1 == sig) with
  | some e => (e.2, true)
  | none =>
    if s.emits && s.domOn 5 then
      let j := t - BitVec.ofNat 32 (2 * s.fsize + 1)
      let p := samplePlace s.fsize j
      (s.planeAt j sig, Tab.get false s.marks (markKey p.1 sig p.2))
    else (0, false)

/-- The signals that emitters read: transmit slots, injection channels, amplifier channels (R78). -/
def State.emitSigs (s : State) : List Nat :=
  (if s.domOn 8 then ((List.range 52).filter s.portRuns).flatMap (fun p =>
      (List.range (s.portSlots p)).map (fun n => s.get (audioPage p) TDM.TX_SIG.BASE + n)) else [])
    ++ (if s.domOn 7 then s.injChans.map (·.signal) else [])
    ++ (if s.domOn 9 then (List.range 16).map (fun n => s.get (Page.amp n) AMP.AMP_SRC.SRC) else [])

/-! ### Written marks and ingress (R74, R76, R78) -/

/-- The written marks of ingress signals at the position whose sample of frame f + 2 lands at this
tick. -/
def State.clearIngress (s : State) (b k : Nat) : State :=
  { s with marks := s.ingressSigs.foldl (fun m sig => Tab.put false m (markKey b sig k) false) s.marks }

/-- The samples that entered at the last tick are written. -/
def State.land (s : State) (b k : Nat) : State :=
  let l := s.fseq.entered.filterMap (fun e => e.2.map (fun v => (e.1, v))) ++ s.portsLanding
  l.foldl (fun s e => s.planeWrite b e.1 k e.2) s

/-- The samples of the test generators for sample index `j` (R93). -/
def State.tgSamples (s : State) (j : BitVec 32) : List (Nat × Option Word) :=
  (List.range 16).filterMap (fun n =>
    (s.testGen n j).map (fun v => (s.get Page.frame (FRAME.TG_CTRL.SIGNAL n), some v)))

/-- The samples that enter at tick `t`: presented ones, test generators, sense signals. -/
def State.enter (s : State) (t : BitVec 32) (sense : List SensePair) : State :=
  let l := s.tgSamples t ++ (s.senseSignals sense).map (fun e => (e.1, some e.2))
  { s with fseq := { s.fseq with
      entered := if s.domOn 5 then Tab.puts none s.fseq.presented l else [], presented := [] } }

/-- The fast slice at tick `t` for the sample that entered one tick before: its results for the
emitters, also written as ingress samples (R90, R91). -/
def State.fastTick (s : State) (t : BitVec 32) : List (Nat × Word) × State :=
  let j := t - 1
  let p := samplePlace s.fsize j
  let r := s.fastEval (fun sig => s.planeAt j sig)
  (r.1, r.1.foldl (fun s e => s.planeWrite p.1 e.1 p.2 e.2) r.2)

/-- What MIX does at tick `t`, with the emission read already taken: meters, marks, ingress, the fast
slice, the frame boundary, the processing window. -/
def State.mixTick (s : State) (t : BitVec 32) : List (Nat × Word) × State :=
  let p := samplePlace s.fsize (t - 1)
  let s := s.meterTick (t - BitVec.ofNat 32 (2 * s.fsize + 1))
  let s := (s.clearIngress p.1 p.2).land p.1 p.2
  let r := s.fastTick t
  let s := if t.toNat % s.fsize = 0 then
      let s := r.2.fastFrameEnd.inWindow (fun s => s.notelinesLost.restartRefilled)
      if s.run then s else (s.dropEnded s.fadeKeys).noteRetire
    else r.2
  let s := if (t - 1).toNat % s.fsize = 0 then s.windowStart_ t else s
  (r.1, s)

/-- The accesses to the Signal Plane that ports and amplifier channels make at a tick while MIX is not ON, each
logged as DOMAIN_OFF (R433): the emission reads where the frame path is read, and the samples that land. -/
def State.planeAbsent (s : State) (sense : List SensePair) : State :=
  let tx := if s.domOn 8 then (((List.range 52).filter s.portRuns).map s.portSlots).sum else 0
  let src := if s.domOn 9 then 16 else 0
  let n := (if s.emits then tx + src else 0) + s.portsLanding.length + (s.senseSignals sense).length
  (List.range n).foldl (fun (s : State) (_ : Nat) => s.log Page.frame Code.domainOff) s

/-- An Fs tick with sample index `t` (R19). -/
def State.fsTick (s : State) (t : BitVec 32) (sense : List SensePair) : State :=
  let s := s.presentHeld
  let s := if s.fs = 2 ∧ s.fseq.ticksDone = 1 then
      s.presentAll true |>.atPhase (Nat.max s.time.phase 16384)
    else s
  let before := s
  let r := if s.domOn 5 then s.mixTick t
    else ([], { s with fseq := { s.fseq with winOn := false } }.planeAbsent sense)
  let read := before.emitRead r.1 t
  let s := r.2.enter t sense
  let sigs := s.emitSigs
  let fs := { s.fseq with
    sending := s.fseq.latch
    latch := sigs.foldl (fun m sig => Tab.put 0 m sig (read sig).1) []
    tick := t, ticksDone := s.fseq.ticksDone + 1, fresh := false
    runAge := s.fseq.runAge + 1 }
  let s := { s with fseq := fs }
  let s := (s.formCells read (t + 1).toNat).injectFormed
  let s := s.ampsTick (fun sig => (read sig).1)
  if s.domOn 8 then s.portsTick t (fun sig => (read sig).1) (r.1.map (·.1)) else s

/-- FS_TICK: the next Fs tick of this link cycle, with the sense samples of the amplifier channels. -/
def execFsTick (sense : List SensePair) (s : State) : Host.Outcome State Fault Refusal :=
  .next (match s.nextTick with
  | some t => if s.inReset then s else s.fsTick t sense
  | none => s)

/-! ### Passes (R83 to R88) -/

/-- The actual finish of pass i, taken as it starts (R434). -/
def State.noteFinish (s : State) (i overrun : Nat) : State :=
  let start := s.get Page.frame (FRAME.PASS_START.START i)
  let cost := s.get Page.frame (FRAME.PASS_COST.COST i)
  let fin := if s.passType i = 4 then start + cost - 64 + overrun else start + cost
  { s with fseq := { s.fseq with finish := Nat.max s.fseq.finish fin } }

/-- The cores of cluster `c` that wait have come to cycle `t` of the cluster's clock (R130). -/
def State.waitAll (s : State) (c t : Nat) : State :=
  (clusCores c).foldl (fun s n => s.setCore n ((s.core n).waitTo t)) s

/-- The cycles from the scheduled start of a pass to the frame start of its cores: the delay by handlers and S
(R146, R148). -/
def State.frameFrom (s : State) (c : Nat) : Nat := (s.cl c).late + s.stageNow c false

/-- The scheduled finish of the pass of cluster `c` on its cores' clocks, which count from the pass's start and,
once its frame has begun, from there (R88, R146). -/
def State.finishClk (s : State) (c : Nat) : Nat :=
  let ph := (s.cl c).phase
  s.declNow c + 64 - (if ph == .frame || ph == .stageOut then s.frameFrom c else 0)

/-- A cluster pass begins: its stage-in waits for the cores, whose frame clocks count from here until their
frames start (R146, R148). -/
def State.clusterPass (s : State) (i : Nat) : State :=
  if s.passType i = 4 then
    let c := s.passClus i
    let s := (clusCores c).foldl (fun s n =>
      s.setCore n { s.core n with clk := 0, overrun := false }) s
    s.setCl c { s.cl c with phase := .waiting, pass := i, late := 0, overrun := false, xm := [] }
  else s

/-- A pass of the list starts (R85). -/
def State.passStart (s : State) (pass : Nat) : State :=
  if !s.passList.contains pass || Tab.get false s.fseq.passDone pass then s
  else
    let s := { s with fseq := { s.fseq with passDone := Tab.put false s.fseq.passDone pass true } }
    if s.passPresent pass then ((s.noteFinish pass 0).enginePass pass).clusterPass pass else s

/-- PASS_START: a pass of the list starts in the processing window, under the configuration that governs the
window (R49, R85, R192). -/
def execPassStart (pass : Nat) (s : State) : Host.Outcome State Fault Refusal :=
  .next (if s.inReset || !s.domOn 5 || !s.fseq.winOn then s else s.inWindow (fun s => s.passStart pass))

/-- What a cluster has declared as outputs reads as 0 for the frame being processed, whatever its cores or its
stage-out have written of it (R88). -/
def State.clearOutputs (s : State) (c : Nat) : State :=
  let cores := (clusCores c).filter (fun n => s.get (Page.ibex n) IBEX.CORE_CTRL.ENABLE == 1)
  let outs := cores.flatMap (fun n => (ioEntries (s.get (Page.ibex n)) true).flatMap IoEnt.sigs)
  { s with marks := s.marks.filter (fun e =>
      !(e.1 / 524288 == s.fseq.winFrame % 2 && outs.contains (e.1 / 32 % 16384))) }

/-- FADE_POS of cluster `c`, and of a spare that follows it (R153, R158). -/
def State.setFadePos (s : State) (c m : Nat) : State :=
  let s' := s.put (Page.clus c) CLUS.FADE_POS.M m
  match s.follower c with
  | some k => s'.put (Page.clus k) CLUS.FADE_POS.M m
  | none => s'

/-- A cluster pass of the window that has not reached its frame barrier at its scheduled finish (R88). -/
def State.passOverrun (s : State) (pass : Nat) : State :=
  let c := s.passClus pass
  if !s.passList.contains pass || s.passType pass != 4 || !Tab.get false s.fseq.passDone pass ||
      (s.cl c).phase == .idle then s
  else
    let s := (s.noteFinish pass 64).bump Page.frame FRAME.OVERRUN_COUNT.COUNT
    let s := (s.raise Page.frame 0).raise (Page.clus c) 3
    let s := ((s.waitAll c (s.finishClk c)).setFadePos c 0).clearOutputs c
    s.setCl c { s.cl c with phase := .idle, overrun := false }

/-- CLUSTER_PASS_OVERRUN (R88). -/
def execClusterPassOverrun (pass : Nat) (s : State) : Host.Outcome State Fault Refusal :=
  .next (if s.inReset || !s.domOn 5 then s else s.inWindow (fun s => s.passOverrun pass))

/-! ### Registers of the FRAME and ORYX pages -/

/-- The written marks of the positions that a frame of N samples does not use are gone (R75). -/
def State.dropMarks (s : State) (n : Nat) : State :=
  { s with marks := s.marks.filter (fun e => decide (e.1 % 32 < n)) }

/-- A write of FRAME_CFG (R82). A reserved value logs RANGE alone, also while RUN is 1 (DESIGN CHOICE, log
entry 87). -/
def State.frameCfg (s : State) (v : Nat) : State :=
  if 6 ≤ bits v 0 3 then s.log Page.frame Code.range
  else if s.run then s.log Page.frame Code.refused
  else (s.put Page.frame FRAME.FRAME_CFG.N_LOG2 (bits v 0 3)).dropMarks (2 ^ bits v 0 3)

/-- FRAME_CFG_WRITE. -/
def execFrameCfgWrite (value : Word) (s : State) : Host.Outcome State Fault Refusal :=
  .next (s.blockWrite Page.frame (fun s => s.frameCfg value.toNat))

/-- A read of CLIP_DATA: the counter of the signal ID in CLIP_SEL, which it clears (R182). -/
def State.clipDataRead (s : State) : State :=
  let id := s.get Page.oryx ORYX.CLIP_SEL.DST
  { s with readData := [Word.ofNat (Tab.get 0 s.oryx.clips id)]
           oryx := { s.oryx with clips := Tab.put 0 s.oryx.clips id 0 } }

/-- CLIP_DATA_READ. -/
def execClipDataRead (s : State) : Host.Outcome State Fault Refusal :=
  .next (s.blockRead Page.oryx State.clipDataRead)

/-! ### Writes to the Signal Plane (R77) -/

/-- Whether the cluster port of core `n` may write position `k` of a signal in buffer `b` now: an output
of its active program set, the frame being processed, the time of the core's cluster pass. -/
def State.mayWritePlane (s : State) (n b sig k : Nat) : Bool :=
  let c := n / 8
  let outs := (ioEntries (s.get (Page.ibex n)) true).flatMap IoEnt.sigs
  s.domOn (1 + c) && (s.cl c).phase != .idle && b == s.fseq.winFrame % 2 && outs.contains sig &&
    s.get (Page.ibex n) IBEX.CORE_CTRL.ENABLE == 1 && decide (k < s.fsize) && s.migState c != 3 && !s.inTail c

/-- The addressed bytes of an access that its byte enables select, lowest first. -/
def accBytes (a : Access) : List (Nat × Byte) :=
  ((List.range a.size).filter (fun i => a.enables.getLsbD i)).map
    (fun i => (a.addr + i, BitVec.ofNat 8 (a.data.toNat / 256 ^ i)))

/-- A discarded write to the Signal Plane. -/
def State.planeRefuse (s : State) : State := (s.log Page.frame Code.range).raise Page.frame 3

/-- A bus write to the Signal Plane (R77, R433). An access of which some bytes are not accepted is discarded
whole and logs RANGE once; one that writes part of a sample sets its mark, and the sample's other bytes are as
the memory held them (DESIGN CHOICE, log entry 88). -/
def State.planeBusWrite (s : State) (core : Option Nat) (l : List (Nat × Byte)) : State :=
  if !s.domOn 5 then s.log Page.frame Code.domainOff
  else
    let place (a : Nat) : Nat × Nat × Nat :=
      ((a - 0x22000000) / 0x200000, (a - 0x22000000) / 128 % 16384, (a - 0x22000000) % 128 / 4)
    let ok (a : Nat) : Bool := match core with
      | some n => let p := place a; s.mayWritePlane n p.1 p.2.1 p.2.2
      | none => false
    if !l.all (fun e => ok e.1) || l.isEmpty then s.planeRefuse
    else
      let s := s.setBytes l
      { s with marks := Tab.puts false s.marks (l.map (fun e =>
          let p := place e.1; (markKey p.1 p.2.1 p.2.2, true))) }

/-- SIGNAL_PLANE_WRITE: a master writes the Signal Plane; `core` is the Ibex core where the master is a
cluster port. -/
def execSignalPlaneWrite (acc : Access) (core : Nat) (s : State) : Host.Outcome State Fault Refusal :=
  let n := match acc.by_ with
    | .clus c => if core / 8 = c then some core else none
    | _ => none
  .next (if s.inReset || decide (acc.addr < 0x22000000) || decide (0x22400000 < acc.addr + acc.size) then s
  else s.planeBusWrite n (accBytes acc))

end Sys2Proof.Machine
end

