-- ==== Sys2Proof/Machine/StoreMem.lean ====
section
/-! DEFINITION. Store memory (R221 to R228, R433, R437): write-back of corrected words, zero-fill, scrubbing, retention signatures; and what a master reset ends at the bus
matrix and in the DMA engines (R236, R241). -/

namespace Sys2Proof.Machine

/-- The bytes of a bank. -/
def bankBytes : Nat := 0x00800000

/-! ### Write-back and zero-fill of banks -/

/-- STORE_ECC_WRITEBACK: a corrected word is written back (R222). -/
def execStoreEccWriteback (addr : Nat) (s : State) : Host.Outcome State Fault Refusal :=
  .next (if s.inReset || !s.domOn 6 || decide (0x04000000 ≤ addr) || s.storeEcc addr != some .single then s
  else s.setStoreEcc addr none)

/-- Every word of a bank read, its single-bit errors corrected (R226, R227). -/
def State.storeSweep (s : State) (b : Nat) : State :=
  ((Tab.range s.ecc (b * bankBytes / 4) ((b + 1) * bankBytes / 4)).map (fun (e : Nat × Option Ecc) => 4 * e.1)).foldl
    (fun (s : State) (a : Nat) => match s.storeEcc a with
      | some .single => (s.storeEccEvent a false).setStoreEcc a none
      | some .double => s.storeEccEvent a true
      | none => s) s

/-- Everything in a bank lost or filled with zeros: it reads 0 with valid check bits. -/
def State.bankClear (s : State) (b : Nat) : State :=
  { s with mem := Tab.clear s.mem (b * bankBytes) ((b + 1) * bankBytes)
           ecc := Tab.clear s.ecc (b * bankBytes / 4) ((b + 1) * bankBytes / 4) }

/-! ### Lost banks and zero-fill (R228) -/

/-- A bit of a field. -/
def State.bitOf (s : State) (p : Nat) (f : Fld) (b : Nat) : Bool := (s.get p f).testBit b

/-- A bit of a field written. -/
def State.putBit (s : State) (p : Nat) (f : Fld) (b : Nat) (v : Bool) : State :=
  let x := s.get p f
  s.put p f (if v then x ||| 2 ^ b else if x.testBit b then x - 2 ^ b else x)

/-- A bank becomes lost, or is lost no more where the cause is 0. -/
def State.setLost (s : State) (b cause : Nat) : State :=
  (s.putBit Page.store STORE.STORE_STAT.LOST b (cause != 0)).put Page.store (STORE.LOST_CAUSE.CAUSE b) cause

/-- A write of ZFILL. -/
def State.zfill (s : State) (bits_ : Nat) : State :=
  (List.range 8).foldl (fun s b =>
    if !bits_.testBit b then s
    else if !s.bankLost b || s.bitOf Page.store STORE.STORE_STAT.ZFILL_BUSY b then
      s.log Page.store Code.refused
    else s.putBit Page.store STORE.STORE_STAT.ZFILL_BUSY b true) s

/-- ZFILL. -/
def execZfill (bits : Word) (s : State) : Host.Outcome State Fault Refusal :=
  .next (s.blockWrite Page.store (fun s => s.zfill bits.toNat))

/-- ZFILL_DONE: the whole bank is zero with valid check bits and lost no more. A delay line that has met the lost
bank is noted before, so that it restarts at the next frame boundary (R218). -/
def execZfillDone (bank : Nat) (s : State) : Host.Outcome State Fault Refusal :=
  .next (if s.inReset || !s.domOn 6 || decide (8 ≤ bank) ||
      !s.bitOf Page.store STORE.STORE_STAT.ZFILL_BUSY bank then s
  else
    let s := if s.domOn 5 then s.inWindow State.notelinesLost else s
    (((s.bankClear bank).setLost bank 0).putBit Page.store STORE.STORE_STAT.ZFILL_BUSY bank false).raise
      Page.store 3)

/-! ### Scrubbing (R226) -/

/-- The instance under which STORE asks for its grants: its domain ID. -/
def storeInst : Nat := 6

/-- Whether a scrub pass is in progress. -/
def State.scrubbing (s : State) : Bool := s.flag Page.store STORE.SCRUB_STAT.RUNNING

/-- A scrub pass in progress stops and its grant is released; it is not late (R410, R437). -/
def State.scrubStop (s : State) : State :=
  (s.release Kind.scrub storeInst).putB Page.store STORE.SCRUB_STAT.RUNNING false

/-- Whether the scrubber works. -/
def State.scrubOn (s : State) : Bool :=
  !s.inReset && s.domOn 6 && s.flag Page.store STORE.SCRUB_CTRL.EN

/-- SCRUB_PASS_START: a pass is due and requests its grant. -/
def execScrubPassStart (s : State) : Host.Outcome State Fault Refusal :=
  .next (if !s.scrubOn || s.scrubbing || s.waits Kind.scrub storeInst || s.holds Kind.scrub storeInst then s
  else s.request Kind.scrub storeInst)

/-- SCRUB_PASS_END: every word of every bank that is not lost has been read. -/
def execScrubPassEnd (s : State) : Host.Outcome State Fault Refusal :=
  .next (if !s.scrubOn || !s.scrubbing then s
  else
    let s := ((List.range 8).filter (fun b => !s.bankLost b)).foldl (fun s b => s.storeSweep b) s
    let s := s.put Page.store STORE.SCRUB_STAT.PASSES (s.get Page.store STORE.SCRUB_STAT.PASSES + 1)
    s.scrubStop)

/-- A pass that did not end within INTERVAL, counted; the next begins at once. -/
def State.scrubLate (s : State) : State :=
  let s := (s.bump Page.store STORE.SCRUB_LATE_COUNT.COUNT).raise Page.store 4
  s.scrubStop.request Kind.scrub storeInst

/-- SCRUB_LATE. -/
def execScrubLate (s : State) : Host.Outcome State Fault Refusal :=
  .next (if s.scrubOn && (s.scrubbing || s.waits Kind.scrub storeInst) then s.scrubLate else s)

/-- A scrub grant given begins its pass. -/
def State.scrubGranted (s : State) : State :=
  if s.scrubOn && s.holds Kind.scrub storeInst then s.putB Page.store STORE.SCRUB_STAT.RUNNING true else s

/-- A write of SCRUB_CTRL (R226). -/
def State.scrubCtrl (s : State) (v : Nat) : State :=
  if bits v 8 8 = 0 then s.log Page.store Code.range
  else
    let s := s.put Page.store STORE.SCRUB_CTRL.INTERVAL (bits v 8 8)
    let s := s.putB Page.store STORE.SCRUB_CTRL.EN (v.testBit 0)
    if v.testBit 0 then s else s.scrubStop

/-! ### Retention signatures (R227) -/

/-- One bit of the reflected CRC-32 of IEEE 802.3. -/
def crc32Bit (c : Nat) : Nat := if c.testBit 0 then (c / 2) ^^^ 0xEDB88320 else c / 2

/-- One byte of the CRC. -/
def crc32Byte (c : Nat) (b : Byte) : Nat :=
  (List.range 8).foldl (fun c _ => crc32Bit c) (c ^^^ b.toNat)

/-- The CRC register after the `n` bytes from `a` on. -/
def State.crc32From (s : State) (a c : Nat) : Nat → Nat
  | 0 => c
  | n + 1 => s.crc32From (a + 1) (crc32Byte c (s.byte a)) n

/-- The retention signature of a bank. -/
def State.bankSig (s : State) (b : Nat) : Nat :=
  s.crc32From (b * bankBytes) 0xFFFFFFFF bankBytes ^^^ 0xFFFFFFFF

/-- Whether a bank is kept in RETENTION. -/
def State.retained (s : State) (b : Nat) : Bool := s.bitOf Page.store STORE.RET_MASK.RETAIN b

/-- The signature of one bank computed and written; an uncorrectable error makes it invalid. -/
def State.sign (s : State) (b : Nat) : State :=
  let s := s.storeSweep b
  let bad := (Tab.range s.ecc (b * bankBytes / 4) ((b + 1) * bankBytes / 4)).any
    (fun (e : Nat × Option Ecc) => e.2 == some .double)
  let s := { s with vcore := { s.vcore with sigBad := Tab.put false s.vcore.sigBad b bad } }
  s.put Page.store (STORE.SIG.CRC b) (s.bankSig b)

/-- The signatures of every bank selected by RET_MASK. -/
def State.signAll (s : State) : State :=
  ((List.range 8).filter s.retained).foldl (fun s b => s.sign b) s

/-- STORE in RETENTION: the banks that RET_MASK does not select are powered off. -/
def State.storeRetain (s : State) : State :=
  ((List.range 8).filter (fun b => !s.retained b)).foldl (fun s b => s.bankClear b) s

/-- The check of one bank on the return of STORE from RETENTION (R228). -/
def State.bankReturn (s : State) (b : Nat) : State :=
  if s.bankLost b then s
  else if !s.retained b then s.setLost b 2
  else if Tab.get false s.vcore.sigBad b || s.bankSig b != s.get Page.store (STORE.SIG.CRC b) then
    (s.setLost b 1).raise Page.store 2
  else s

/-! ### Master resets (R236, R241) -/

/-- The index of a bus master (R230); none for the QSPI slave and the JTAG port, which are not masters
of the matrix. -/
def Master.index : Master → Option Nat
  | .clus c => some c | .oryx => some 4 | .eq => some 5 | .delay => some 6 | .ring => some 7
  | .port => some 8 | .dma e => some (9 + e) | .pcie => some 13 | .mgmt => some 14
  | .qspi => none | .jtag => none

/-- The transactions outstanding, oldest first; the others wait to issue (R234). -/
def State.issued (s : State) : List Retry := s.retries.filter (fun r => r.tried)

/-- The number of transactions outstanding. -/
def State.outstanding (s : State) : Nat := s.issued.length

/-- The number of transactions outstanding, as OUTST_CUR and OUTST_HIGH show it. -/
def State.outstView (s : State) : State :=
  (s.put Page.busm BUSM.OUTST_CUR.COUNT s.outstanding).maxUp Page.busm BUSM.OUTST_HIGH.COUNT s.outstanding

/-- The timers of all DMA engines are cancelled (R240). -/
def State.timersStop (s : State) : State :=
  (List.range 4).foldl (fun (s : State) (e : Nat) =>
    { s with dmas := Tab.put Dma.reset s.dmas e { Tab.get Dma.reset s.dmas e with since := none } }) s

/-- The retries end: each transaction that was answered RETRY ends with an error at its master; those that wait to
issue go on waiting. -/
def State.retriesEnd (s : State) : State :=
  if s.issued.isEmpty then s
  else ({ s.timersStop with retries := s.retries.filter (fun r => !r.tried) }.outstView).respond true

/-- A master is reset (R236): its outstanding transactions end, with `more` saying that it has some
beyond those that wait for a retry; what it waited to issue is gone. -/
def State.masterReset (s : State) (m : Master) (more : Bool) : State :=
  let out := more || s.issued.any (fun r => r.by_ == m)
  let s := { s with retries := s.retries.filter (fun r => r.by_ != m) }.outstView
  if out then
    let s := s.bump Page.busm BUSM.MASTER_ABORT_COUNT.COUNT
    (s.put Page.busm BUSM.MASTER_ABORT_COUNT.LAST ((Master.index m).getD 0)).raise Page.busm 0
  else s

/-- Whether engine `e` executes a descriptor. -/
def State.dmaActive (s : State) (e : Nat) : Bool := s.flag (Page.dma e) DMA.DMA_STAT.ACTIVE

/-- Whether `n` bytes from `a` on lie in Store memory, or in the data memory of one core or the exchange memory
of one cluster, with the domain ON. -/
def State.memSpan (s : State) (a n : Nat) : Bool :=
  if a < 0x04000000 then s.domOn 6 && decide (a + n ≤ 0x04000000)
  else
    let o := (a - 0x20000000) % 0x800000
    let i := (a - 0x20000000) % 0x100000
    decide (0x20000000 ≤ a ∧ a < 0x22000000) && s.domOn (1 + clusOfAddr a) &&
      ((decide (0x40000 ≤ i) && decide (i + n ≤ 0x80000)) ||
        (decide (0x80000 ≤ o) && decide (o + n ≤ 0x84000)))

/-- `n` bytes read from such a memory. -/
def State.memRead (s : State) (a n : Nat) : List Byte × State :=
  if a < 0x04000000 then let r := s.storeRead a n; (r.1, r.2.2) else s.localRead a n

/-- Bytes written into such a memory from `a` on. -/
def State.memWrite (s : State) (a : Nat) (l : List Byte) : State :=
  let w := (List.range l.length).zipWith (fun i b => (a + i, b)) l
  if a < 0x04000000 then s.storeWrite a l.length w else s.localWrite a l.length w

/-- The write beats that targets had accepted when the transfer of engine `e` is cut off, which they keep
(R236, R241). How many bytes these are the spec leaves open: a free value gives the number, of transfers between
Store, data and exchange memories; of others nothing is moved (DESIGN CHOICE, log entry 93). -/
def State.dmaCut (s : State) (e : Nat) : State :=
  let x := Tab.get Dma.reset s.dmas e
  let len := bits x.desc 96 27
  let rows := bits x.desc 128 12
  if !s.dmaActive e || x.code.isSome then s
  else
    let d := s.draw
    let limit := d.1.toNat % ((rows + 1) * len + 1)
    (List.range (rows + 1)).foldl (fun (s : State) (r : Nat) =>
      let src := bits x.desc 32 32 + r * bits x.desc 160 27
      let dst := bits x.desc 64 32 + r * bits x.desc 192 27
      let n := Nat.min len (limit - r * len)
      if n = 0 || !s.memSpan src n || !s.memSpan dst n then s
      else let m := s.memRead src n; m.2.memWrite dst m.1) d.2

/-- The current descriptor of an engine ends without a status write and RING_TAIL returns to 0 (R241); the beats
accepted by then are kept (R236). -/
def State.dmaCancel (s : State) (e : Nat) : State :=
  let s := (s.dmaCut e).masterReset (.dma e) (s.dmaActive e)
  let s := { s with dmas := Tab.put Dma.reset s.dmas e Dma.reset }
  (s.putB (Page.dma e) DMA.DMA_STAT.ACTIVE false).put (Page.dma e) DMA.RING_TAIL.TAIL 0

end Sys2Proof.Machine
end

