-- ==== Sys2Proof/Machine/Mailbox.lean ====
section
/-! DEFINITION. The management controller: boot (R55), image slots (R61), restarts (R62), the mailbox
commands (R63, R64) and the grant of a debug level (R71). Whether the flash answered without error is the
verdict of MBX_COMMAND_END. -/

namespace Sys2Proof.Machine

/-! ### Status codes (R63) -/

def Mbx.ok : Nat := 0
def Mbx.noop : Nat := 1
def Mbx.badOpcode : Nat := 2
def Mbx.badArg : Nat := 3
def Mbx.protected_ : Nat := 4
def Mbx.authFail : Nat := 5
def Mbx.flashErr : Nat := 6
def Mbx.otpUsed : Nat := 7
def Mbx.interrupted : Nat := 8

/-! ### MBX_DATA and the flash -/

/-- Byte `i` of MBX_DATA, lowest byte of a word first. -/
def State.mbxByte (s : State) (i : Nat) : Nat :=
  bits (s.get Page.mgmt (MGMT.MBX_DATA.DATA (i / 4))) (8 * (i % 4)) 8

/-- The `n` bytes of MBX_DATA from byte `i` on, as a little-endian number. -/
def State.mbxLE (s : State) (i : Nat) : Nat → Nat
  | 0 => 0
  | n + 1 => s.mbxByte i + 256 * s.mbxLE (i + 1) n

/-- One byte of MBX_DATA written. -/
def State.mbxPut1 (s : State) (i v : Nat) : State :=
  let f := MGMT.MBX_DATA.DATA (i / 4)
  let w := s.get Page.mgmt f
  let k := 256 ^ (i % 4)
  s.put Page.mgmt f (w - w / k % 256 * k + v % 256 * k)

/-- Result bytes written from byte 0 of MBX_DATA on. -/
def State.mbxPut (s : State) (l : List Nat) : State :=
  (List.zip (List.range l.length) l).foldl (fun (s : State) (e : Nat × Nat) => s.mbxPut1 e.1 e.2) s

/-- The `n` little-endian bytes of a number. -/
def leList (v : Nat) : Nat → List Nat
  | 0 => []
  | n + 1 => v % 256 :: leList (v / 256) n

/-- A byte of the boot flash; a byte that nothing has written is erased (log entry 5). -/
def State.flashByte (s : State) (a : Nat) : Byte := Tab.get 0xFF s.mgmt.flash a

/-- Flash bytes written. -/
def State.flashPut (s : State) (l : List (Nat × Byte)) : State :=
  { s with mgmt := { s.mgmt with flash := Tab.puts 0xFF s.mgmt.flash l } }

/-- A flash write that did not complete: which of its bytes have changed is open (R64). -/
def State.flashPart (s : State) (l : List (Nat × Byte)) : State :=
  let took := (List.zip (List.range l.length) l).filter (fun e =>
    (Config.freeValue (s.freeCtr + e.1 / 64)).getLsbD (e.1 % 64))
  { s.flashPut (took.map (·.2)) with freeCtr := s.freeCtr + l.length / 64 + 1 }

/-- Base of an image slot (R61). -/
def slotBase (b : Bool) : Nat := if b then 0x00500000 else 0x00100000

/-- The 256 header bytes of an image slot. -/
def State.imageHeader (s : State) (b : Bool) : List Byte :=
  (List.range 256).map (fun i => s.flashByte (slotBase b + i))

/-- The flash bytes of an image slot that are not erased. -/
def State.slotCells (s : State) (b : Bool) : List (Nat × Byte) :=
  Tab.range s.mgmt.flash (slotBase b) (slotBase b + 0x400000)

/-- The flash bytes of the configuration block that are not erased. -/
def State.configBlock (s : State) : List (Nat × Byte) := Tab.range s.mgmt.flash 0 0x10000

/-- Whether the image in a slot is valid (R61): the magic value, the hash of the body, the signature of the
header, and a security version no less than the anti-rollback counter. -/
def State.imageValid (s : State) (b : Bool) : Bool :=
  let h := s.imageHeader b
  let magic := ((List.range 4).map (fun i => (h.getD (Config.magicAt.val + i) 0).toNat * 256 ^ i)).sum
  magic == 0x5746514E && Config.bodyHashOk (s.slotCells b) && Config.headerSigned h &&
    decide (s.mgmt.rollback ≤ Config.securityVersion h)

/-- MODE: 0 booting, 1 normal, 2 recovery. -/
def State.bootMode (s : State) : Nat := s.get Page.mgmt MGMT.BOOT_STAT.MODE

/-- The running slot: B or A. -/
def State.runSlot (s : State) : Bool := s.flag Page.mgmt MGMT.BOOT_STAT.RUN_SLOT

/-- Whether the `n` flash bytes from `a` on touch the configuration block or the running slot; in RECOVERY no
slot runs. -/
def State.flashGuarded (s : State) (a n : Nat) : Bool :=
  let lo := slotBase s.runSlot
  decide (a < 0x10000) || (s.bootMode == 1 && decide (a < lo + 0x400000 ∧ lo < a + n))

/-! ### Commands -/

/-- The bytes that a FLASH_WRITE or FLASH_ERASE in progress writes. -/
def State.flashJob (s : State) (op len : Nat) : List (Nat × Byte) :=
  let a := s.mbxLE 0 4
  if op = 0x11 then (List.range (len - 4)).map (fun i => (a + i, BitVec.ofNat 8 (s.mbxByte (4 + i))))
  else if op = 0x12 then (List.range 0x10000).map (fun i => (a + i, (0xFF : Byte)))
  else []

/-- The argument bytes of a command; none for FLASH_WRITE, whose data vary, and for a code that names no
command. -/
def mbxArgs (op : Nat) : Option Nat :=
  if op = 0x01 ∨ op = 0x02 ∨ op = 0x20 then some 0
  else if op = 0x10 then some 5
  else if op = 0x12 ∨ op = 0x21 then some 4
  else if op = 0x13 ∨ op = 0x14 ∨ op = 0x15 ∨ op = 0x30 ∨ op = 0x33 then some 1
  else if op = 0x31 ∨ op = 0x32 then some 64
  else none

/-- Whether the mailbox serves a command: in RECOVERY only GET_VERSION, GET_UID and the flash commands
(R55). -/
def State.mbxServes (s : State) (op : Nat) : Bool :=
  let known := (mbxArgs op).isSome || op == 0x11
  known && (s.bootMode != 2 || [0x01, 0x02, 0x10, 0x11, 0x12].contains op)

/-- Whether the arguments fit the command: their number, a slot of 0 or 1, a flash length up to 240, the
address of a sector, a debug level of 1 to 3, alarm levels under R402. -/
def State.mbxArgsOk (s : State) (op len : Nat) : Bool :=
  let b := s.mbxByte 0
  (match mbxArgs op with
    | some n => len == n
    | none => decide (4 ≤ len ∧ len ≤ 244)) &&
  (if op = 0x10 then decide (s.mbxByte 4 ≤ 240)
  else if op = 0x12 then s.mbxLE 0 2 == 0
  else if op = 0x13 ∨ op = 0x14 ∨ op = 0x15 then decide (b ≤ 1)
  else if op = 0x30 then decide (1 ≤ b ∧ b ≤ 3)
  else if op = 0x21 then
    decide (sgn 16 (s.mbxLE 0 2) < sgn 16 (s.mbxLE 2 2) ∧ sgn 16 (s.mbxLE 2 2) ≤ 32000)
  else true)

/-- Whether a command has a byte length of 0, which completes at once with NOOP (R63). -/
def State.mbxNoop (s : State) (op len : Nat) : Bool :=
  (op == 0x10 && len == 5 && s.mbxByte 4 == 0) || (op == 0x11 && len == 4)

/-- The end of a command (R64): results, STATUS, TAG and RLEN written, BUSY cleared, DONE set, MBX_DONE
raised. -/
def State.mbxEnd (s : State) (status : Nat) (result : List Nat) : State :=
  let g := Page.mgmt
  let s := s.mbxPut result
  let s := (s.put g MGMT.MBX_STAT.STATUS status).put g MGMT.MBX_STAT.TAG (s.get g MGMT.MBX_CMD.TAG)
  let s := (s.put g MGMT.MBX_STAT.RLEN result.length).putB g MGMT.MBX_STAT.BUSY false
  ({ s with mgmt := { s.mgmt with running := none, toSlot := none } }.putB g
    MGMT.MBX_STAT.DONE true).raise g 0

/-- `n` bytes that the spec leaves open, as the controller produces them. -/
def State.freeBytes (s : State) (n : Nat) : List Nat × State :=
  ((List.range n).map (fun i => (Config.freeValue (s.freeCtr + i / 8)).toNat / 256 ^ (i % 8) % 256),
   { s with freeCtr := s.freeCtr + n / 8 + 1 })

/-- GET_VERSION: the versions of slots A and B, the security version of the running slot, then the OTP
counter; four bytes each. -/
def State.mbxVersion (s : State) : State :=
  let v := [Config.imageVersion (s.imageHeader false), Config.imageVersion (s.imageHeader true),
    Config.securityVersion (s.imageHeader s.runSlot), s.mgmt.rollback]
  s.mbxEnd Mbx.ok (v.flatMap (fun x => leList x 4))

/-- THERMAL_READ: sensors 0 to 7, then the highest, in Q8.8. -/
def State.mbxThermal (s : State) : State :=
  let t := (List.range 8).map (fun i => (BitVec.ofInt 16 (s.dpll.temps.getD i 0)).toNat)
  s.mbxEnd Mbx.ok ((t ++ [s.get Page.pwr PWR.THERM_STAT.HIGHEST]).flatMap (fun v => leList v 2))

/-- THERMAL_SET_ALARM sets both levels (R402). -/
def State.mbxAlarm (s : State) : State :=
  let s' := s.put Page.pwr (PWR.THERM_LEVEL.LEVEL 1) (s.mbxLE 0 2)
  (s'.put Page.pwr (PWR.THERM_LEVEL.LEVEL 2) (s.mbxLE 2 2)).mbxEnd Mbx.ok []

/-- A slot's verification recorded in A_VALID or B_VALID. -/
def State.slotSeen (s : State) (b valid : Bool) : State :=
  s.putB Page.mgmt (if b then MGMT.BOOT_STAT.B_VALID else MGMT.BOOT_STAT.A_VALID) valid

/-- DEBUG_CHALLENGE: a fresh nonce for the requested level. -/
def State.mbxChallenge (s : State) : State :=
  let r := s.freeBytes 32
  let lvl := s.mbxByte 0
  { r.2 with mgmt := { r.2.mgmt with nonce := some (lvl, r.1.map (BitVec.ofNat 8)) } }.mbxEnd Mbx.ok r.1

/-- DEBUG_RESPONSE (R71): a signature that verifies against the programmed key, over the nonce, the UID and
the level, grants the level until a device reset. -/
def State.mbxResponse (s : State) : State :=
  let sig : List Byte := (List.range 64).map (fun i => BitVec.ofNat 8 (s.mbxByte i))
  match s.mgmt.nonce, s.mgmt.key with
  | some (lvl, nonce), some key =>
    let s := { s with mgmt := { s.mgmt with nonce := none } }
    if Config.debugVerifies key nonce ((List.range 16).map Config.uid) lvl sig then
      ((s.maxUp Page.dev DEV.DBG_STAT.LEVEL lvl).raise Page.dev 4).mbxEnd Mbx.ok []
    else s.mbxEnd Mbx.authFail []
  | _, _ => { s with mgmt := { s.mgmt with nonce := none } }.mbxEnd Mbx.authFail []

/-- DEBUG_KEY_PROGRAM: once only. -/
def State.mbxKey (s : State) : State :=
  if s.mgmt.key.isSome then s.mbxEnd Mbx.otpUsed []
  else
    let k := (List.range 64).map (fun i => BitVec.ofNat 8 (s.mbxByte i))
    ({ s with mgmt := { s.mgmt with key := some k } }.putB Page.dev DEV.DBG_STAT.KEY_SET true).mbxEnd
      Mbx.ok []

/-- ROLLBACK_ADVANCE: the counter never decreases. -/
def State.mbxRollback (s : State) : State :=
  if s.mbxByte 0 < s.mgmt.rollback then s.mbxEnd Mbx.otpUsed []
  else { s with mgmt := { s.mgmt with rollback := s.mbxByte 0 } }.mbxEnd Mbx.ok []

/-- FLASH_WRITE and FLASH_ERASE: refused where they touch what is protected; where the flash fails, part of
the range may have changed. -/
def State.mbxFlash (s : State) (op len : Nat) (good : Bool) : State :=
  let job := s.flashJob op len
  if s.flashGuarded (s.mbxLE 0 4) job.length then s.mbxEnd Mbx.protected_ []
  else if good then (s.flashPut job).mbxEnd Mbx.ok []
  else (s.flashPart job).mbxEnd Mbx.flashErr []

/-- The controller restarts (R62): the mailbox is BUSY, its bus master is reset (R236). -/
def State.mgmtRestart (s : State) (slot : Option Bool) : State :=
  let s := s.masterReset .mgmt false
  { s with mgmt := { s.mgmt with restart := true, toSlot := slot } }.putB Page.mgmt
    MGMT.MBX_STAT.BUSY true

/-- The command in progress reaches its end; `verdict` says that the flash answered without error. -/
def State.mbxRun (s : State) (op len : Nat) (verdict : Bool) : State :=
  let slot := s.mbxByte 0 == 1
  if !s.mbxServes op then s.mbxEnd Mbx.badOpcode []
  else if !s.mbxArgsOk op len then s.mbxEnd Mbx.badArg []
  else if op = 0x01 then s.mbxVersion
  else if op = 0x02 then s.mbxEnd Mbx.ok ((List.range 16).map (fun i => (Config.uid i).toNat))
  else if op = 0x10 then
    if verdict then s.mbxEnd Mbx.ok ((List.range (s.mbxByte 4)).map (fun i =>
      (s.flashByte (s.mbxLE 0 4 + i)).toNat))
    else s.mbxEnd Mbx.flashErr []
  else if op = 0x11 ∨ op = 0x12 then s.mbxFlash op len verdict
  else if op = 0x13 then
    (s.slotSeen slot (s.imageValid slot)).mbxEnd Mbx.ok [if s.imageValid slot then 0 else 1]
  else if op = 0x14 then
    if verdict then { s with mgmt := { s.mgmt with prefB := slot } }.mbxEnd Mbx.ok []
    else s.mbxEnd Mbx.flashErr []
  else if op = 0x15 then
    if s.imageValid slot then (s.slotSeen slot true).mgmtRestart (some slot)
    else (s.slotSeen slot false).mbxEnd Mbx.authFail []
  else if op = 0x20 then s.mbxThermal
  else if op = 0x21 then s.mbxAlarm
  else if op = 0x30 then s.mbxChallenge
  else if op = 0x31 then s.mbxResponse
  else if op = 0x32 then s.mbxKey
  else s.mbxRollback

/-- A write of MBX_CMD (R64): ignored with REFUSED while BUSY; GO clears DONE, sets BUSY and starts the
command. -/
def State.mbxCmd (s : State) (v : Nat) : State :=
  let g := Page.mgmt
  if s.flag g MGMT.MBX_STAT.BUSY then s.log g Code.refused
  else
    let s := (s.put g MGMT.MBX_CMD.OPCODE (bits v 0 8)).put g MGMT.MBX_CMD.LEN (bits v 8 8)
    let s := s.put g MGMT.MBX_CMD.TAG (bits v 16 8)
    if !v.testBit 31 then s
    else
      let s := (s.putB g MGMT.MBX_STAT.DONE false).putB g MGMT.MBX_STAT.BUSY true
      if s.mbxServes (bits v 0 8) && s.mbxNoop (bits v 0 8) (bits v 8 8) then s.mbxEnd Mbx.noop []
      else { s with mgmt := { s.mgmt with running := some (bits v 0 8, bits v 8 8) } }

/-- A write of a word of MBX_DATA: REFUSED while BUSY. -/
def State.mbxData (s : State) (k v : Nat) : State :=
  if s.flag Page.mgmt MGMT.MBX_STAT.BUSY then s.log Page.mgmt Code.refused
  else s.put Page.mgmt (MGMT.MBX_DATA.DATA k) v

/-- The command with opcode `op` written to MBX_CMD with GO. -/
def State.mbxGo (s : State) (op : Nat) (len tag : Byte) : State :=
  s.blockWrite Page.mgmt (fun s => s.mbxCmd (op + 2 ^ 8 * len.toNat + 2 ^ 16 * tag.toNat + 2 ^ 31))

def execGetVersion (len tag : Byte) (s : State) : Host.Outcome State Fault Refusal :=
  .next (s.mbxGo 0x01 len tag)

def execGetUid (len tag : Byte) (s : State) : Host.Outcome State Fault Refusal :=
  .next (s.mbxGo 0x02 len tag)

def execFlashRead (len tag : Byte) (s : State) : Host.Outcome State Fault Refusal :=
  .next (s.mbxGo 0x10 len tag)

def execFlashWrite (len tag : Byte) (s : State) : Host.Outcome State Fault Refusal :=
  .next (s.mbxGo 0x11 len tag)

def execFlashErase (len tag : Byte) (s : State) : Host.Outcome State Fault Refusal :=
  .next (s.mbxGo 0x12 len tag)

def execImageVerify (len tag : Byte) (s : State) : Host.Outcome State Fault Refusal :=
  .next (s.mbxGo 0x13 len tag)

def execImageSetPref (len tag : Byte) (s : State) : Host.Outcome State Fault Refusal :=
  .next (s.mbxGo 0x14 len tag)

def execImageSwitch (len tag : Byte) (s : State) : Host.Outcome State Fault Refusal :=
  .next (s.mbxGo 0x15 len tag)

def execThermalRead (len tag : Byte) (s : State) : Host.Outcome State Fault Refusal :=
  .next (s.mbxGo 0x20 len tag)

def execThermalSetAlarm (len tag : Byte) (s : State) : Host.Outcome State Fault Refusal :=
  .next (s.mbxGo 0x21 len tag)

def execDebugChallenge (len tag : Byte) (s : State) : Host.Outcome State Fault Refusal :=
  .next (s.mbxGo 0x30 len tag)

def execDebugResponse (len tag : Byte) (s : State) : Host.Outcome State Fault Refusal :=
  .next (s.mbxGo 0x31 len tag)

def execDebugKeyProgram (len tag : Byte) (s : State) : Host.Outcome State Fault Refusal :=
  .next (s.mbxGo 0x32 len tag)

def execRollbackAdvance (len tag : Byte) (s : State) : Host.Outcome State Fault Refusal :=
  .next (s.mbxGo 0x33 len tag)

/-- Whether the controller runs its firmware. -/
def State.mgmtLive (s : State) : Bool := !s.inReset && s.bootMode != 0 && !s.mgmt.restart

/-- MBX_COMMAND_END: the command in progress ends; an IMAGE_SWITCH to a valid slot restarts the controller
instead (R62, R64). -/
def execMbxCommandEnd (verdict : Bool) (s : State) : Host.Outcome State Fault Refusal :=
  .next (match s.mgmt.running with
  | some (op, len) => if s.mgmtLive then s.mbxRun op len verdict else s
  | none => s)

/-- WATCHDOG_RESTART: the controller restarts from the running slot. Where the restart of an IMAGE_SWITCH is
under way, it goes on to the slot that the switch starts from (DESIGN CHOICE, log entry 81); an
IMAGE_SWITCH that still verifies is ended as another command is (DESIGN CHOICE, log entry 82; R62, R64). -/
def execWatchdogRestart (s : State) : Host.Outcome State Fault Refusal :=
  .next (if s.inReset || s.bootMode == 0 then s
  else
    let s := s.mgmtRestart s.mgmt.toSlot
    (s.bump Page.mgmt MGMT.BOOT_STAT.WDOG_COUNT).raise Page.mgmt 1)

/-- CONTROLLER_RESTART_DONE: a switch ends with OK in its new slot; any other command in progress ends
INTERRUPTED, a flash write or erase with part of its range changed (R62, R64). -/
def execControllerRestartDone (s : State) : Host.Outcome State Fault Refusal :=
  .next (if s.inReset || !s.mgmt.restart then s
  else
    let s := { s with mgmt := { s.mgmt with restart := false } }
    match s.mgmt.toSlot, s.mgmt.running with
    | some b, _ =>
      let s := if b = s.runSlot then s else s.raise Page.mgmt 2
      (s.putB Page.mgmt MGMT.BOOT_STAT.RUN_SLOT b).mbxEnd Mbx.ok []
    | none, some (op, len) =>
      let job := if s.mbxServes op && s.mbxArgsOk op len &&
          !s.flashGuarded (s.mbxLE 0 4) (s.flashJob op len).length
        then s.flashJob op len else []
      (s.flashPart job).mbxEnd Mbx.interrupted []
    | none, none => s.putB Page.mgmt MGMT.MBX_STAT.BUSY false)

end Sys2Proof.Machine
end

