-- ==== Sys2Proof/Machine/Mac.lean ====
section
/-! DEFINITION. The operations of the MAC slots (spec chapter 06, R165): multiply-accumulate,
extraction, division steps and the 32-bit ALU. -/

namespace Sys2Proof.Machine

open Host (Outcome)

/-- The addend of MAC and MSU before its sign (R113, R165). -/
def macAddend (c : Core) (a : MacArgs) : Int :=
  let p := (c.readD a.da.toNat).toInt * (c.readD a.db.toNat).toInt
  let q := if a.dual then
      (c.readD (a.da.toNat + 1)).toInt * (c.readD (a.db.toNat + 1)).toInt else 0
  (p + q) * (2 ^ a.psh.toNat : Nat)

/-- The addend applied to the accumulator: initialising with CLR, else accumulating (R114 to R116). -/
def applyAddend (c : Core) (slot : Nat) (a : MacArgs) (addend : Int) : OpOut :=
  if a.clr then OpOut.of (c.sendAcc slot a.acc.toNat (accInit addend))
  else
    let r := accAdd (c.accFwd a.acc.toNat) addend
    ⟨c.sendAcc slot a.acc.toNat r.1, r.2, [], []⟩

/-- DUAL with DA or DB equal to 63 is a reserved encoding (R165, R173). -/
def dualReserved (a : MacArgs) : Bool := a.dual && (a.da == 63 || a.db == 63)

/-- An ALU result: latency 1 (R105). -/
def aluOut (c : Core) (slot : Nat) (dd : BitVec 6) (v : Word) : OpOut :=
  OpOut.of (c.sendD slot 1 dd.toNat v)

/-- An ALU result that may have been limited (`sat32` of R165). -/
def aluSat (c : Core) (slot : Nat) (dd : BitVec 6) (r : Word × List Ev) : OpOut :=
  ⟨c.sendD slot 1 dd.toNat r.1, r.2, [], []⟩

/-- NOP (R163): the bundle issues and nothing else happens. -/
def execNop (at_ : Issue) (s : State) : Outcome State Fault Refusal :=
  .next (s.issueCore at_ OpOut.of)

/-- MAC (R165). -/
def execMac (at_ : Issue) (a : MacArgs) (s : State) : Outcome State Fault Refusal :=
  .next (s.issueAcc at_ (dualReserved a) (fun c => applyAddend c at_.slot a (macAddend c a)))

/-- MSU (R165): the addend negated. -/
def execMsu (at_ : Issue) (a : MacArgs) (s : State) : Outcome State Fault Refusal :=
  .next (s.issueAcc at_ (dualReserved a) (fun c => applyAddend c at_.slot a (-(macAddend c a))))

/-- MOVA (R165): an initialising operation. SH above 40 is a reserved encoding (R173). -/
def execMova (at_ : Issue) (acc : BitVec 3) (dx sh : BitVec 6) (s : State) :
    Outcome State Fault Refusal :=
  .next (s.issueAcc at_ (decide (40 < sh.toNat)) (fun c =>
    OpOut.of (c.sendAcc at_.slot acc.toNat
      (accInit ((c.readD dx.toNat).toInt * (2 ^ sh.toNat : Nat))))))

/-- EXT (R117, R118). -/
def execExt (at_ : Issue) (dd : BitVec 6) (acc : BitVec 3) (sh : BitVec 5) (s : State) :
    Outcome State Fault Refusal :=
  .next (s.issueMac at_ false (fun c =>
    let r := extractAcc 32 (c.rnd.getLsbD 0) (c.accOld acc.toNat) sh.toNat
    ⟨c.sendD at_.slot 2 dd.toNat (Word.ofInt r.1), r.2, [], []⟩))

/-- EXTD (R119): the low half to the even register, the high half to the next. An odd DD is a
reserved encoding (R173). -/
def execExtd (at_ : Issue) (dd : BitVec 6) (acc : BitVec 3) (sh : BitVec 5) (s : State) :
    Outcome State Fault Refusal :=
  .next (s.issueMac at_ (dd.getLsbD 0) (fun c =>
    let r := extractAcc 64 (c.rnd.getLsbD 0) (c.accOld acc.toNat) sh.toNat
    let v := BitVec.ofInt 64 r.1
    ⟨(c.sendD at_.slot 2 dd.toNat (v.setWidth 32)).sendD at_.slot 2 (dd.toNat + 1)
        ((v >>> 32).setWidth 32), r.2, [], []⟩))

/-- MUL (R120). -/
def execMul (at_ : Issue) (dd da db : BitVec 6) (s : State) : Outcome State Fault Refusal :=
  .next (s.issueMac at_ false (fun c =>
    let r := mulQ31 (c.rnd.getLsbD 0) (c.readD da.toNat) (c.readD db.toNat)
    ⟨c.sendD at_.slot 4 dd.toNat r.1, r.2, [], []⟩))

/-- DIVS (R121). It does not touch XC or XLOST. -/
def execDivs (at_ : Issue) (acc : BitVec 3) (dq dy : BitVec 6) (s : State) :
    Outcome State Fault Refusal :=
  .next (s.issueAcc at_ false (fun c =>
    let old := c.accFwd acc.toNat
    let r := divStep old.v (c.readD dy.toNat)
    let q := (c.readQuo dq.toNat <<< 1) ||| (if r.2 then 1 else 0)
    OpOut.of ((c.sendAcc at_.slot acc.toNat { old with v := r.1 }).sendQuo at_.slot
      (physD c.rrb dq.toNat) q)))

/-- DIVQ (R122). -/
def execDivq (at_ : Issue) (acc : BitVec 3) (dq dx dy : BitVec 6) (s : State) :
    Outcome State Fault Refusal :=
  .next (s.issueAcc at_ false (fun c =>
    let old := c.accFwd acc.toNat
    let r := divFinish old.v (c.readQuo dq.toNat) (c.readD dx.toNat) (c.readD dy.toNat)
    let c := match r.2.1 with
      | some rem => c.sendAcc at_.slot acc.toNat { old with v := rem }
      | none => c
    ⟨c.sendD at_.slot 4 dq.toNat r.1, r.2.2, [], []⟩))

/-- ADD (R165). -/
def execAdd (at_ : Issue) (dd da db : BitVec 6) (s : State) : Outcome State Fault Refusal :=
  .next (s.issueMac at_ false (fun c =>
    aluOut c at_.slot dd (c.readD da.toNat + c.readD db.toNat)))

/-- SUB (R165). -/
def execSub (at_ : Issue) (dd da db : BitVec 6) (s : State) : Outcome State Fault Refusal :=
  .next (s.issueMac at_ false (fun c =>
    aluOut c at_.slot dd (c.readD da.toNat - c.readD db.toNat)))

/-- ADDS (R165): the sum limited to 32 bits. -/
def execAdds (at_ : Issue) (dd da db : BitVec 6) (s : State) : Outcome State Fault Refusal :=
  .next (s.issueMac at_ false (fun c =>
    aluSat c at_.slot dd (sat32 ((c.readD da.toNat).toInt + (c.readD db.toNat).toInt))))

/-- SUBS (R165): the difference limited to 32 bits. -/
def execSubs (at_ : Issue) (dd da db : BitVec 6) (s : State) : Outcome State Fault Refusal :=
  .next (s.issueMac at_ false (fun c =>
    aluSat c at_.slot dd (sat32 ((c.readD da.toNat).toInt - (c.readD db.toNat).toInt))))

/-- AND (R165). -/
def execAnd (at_ : Issue) (dd da db : BitVec 6) (s : State) : Outcome State Fault Refusal :=
  .next (s.issueMac at_ false (fun c =>
    aluOut c at_.slot dd (c.readD da.toNat &&& c.readD db.toNat)))

/-- OR (R165). -/
def execOr (at_ : Issue) (dd da db : BitVec 6) (s : State) : Outcome State Fault Refusal :=
  .next (s.issueMac at_ false (fun c =>
    aluOut c at_.slot dd (c.readD da.toNat ||| c.readD db.toNat)))

/-- XOR (R165). -/
def execXor (at_ : Issue) (dd da db : BitVec 6) (s : State) : Outcome State Fault Refusal :=
  .next (s.issueMac at_ false (fun c =>
    aluOut c at_.slot dd (c.readD da.toNat ^^^ c.readD db.toNat)))

/-- SHLI (R165). -/
def execShli (at_ : Issue) (dd da : BitVec 6) (n : BitVec 5) (s : State) :
    Outcome State Fault Refusal :=
  .next (s.issueMac at_ false (fun c => aluOut c at_.slot dd (c.readD da.toNat <<< n.toNat)))

/-- SHRI (R165): zero fill. -/
def execShri (at_ : Issue) (dd da : BitVec 6) (n : BitVec 5) (s : State) :
    Outcome State Fault Refusal :=
  .next (s.issueMac at_ false (fun c => aluOut c at_.slot dd (c.readD da.toNat >>> n.toNat)))

/-- SRAI (R165): sign fill. -/
def execSrai (at_ : Issue) (dd da : BitVec 6) (n : BitVec 5) (s : State) :
    Outcome State Fault Refusal :=
  .next (s.issueMac at_ false (fun c => aluOut c at_.slot dd ((c.readD da.toNat).sshiftRight n.toNat)))

/-- ADDI (R165): a signed immediate. -/
def execAddi (at_ : Issue) (dd da : BitVec 6) (imm : BitVec 12) (s : State) :
    Outcome State Fault Refusal :=
  .next (s.issueMac at_ false (fun c => aluOut c at_.slot dd (c.readD da.toNat + imm.signExtend 32)))

/-- MOV (R165). -/
def execMov (at_ : Issue) (dd da : BitVec 6) (s : State) : Outcome State Fault Refusal :=
  .next (s.issueMac at_ false (fun c => aluOut c at_.slot dd (c.readD da.toNat)))

/-- MOVI (R165): a signed immediate. -/
def execMovi (at_ : Issue) (dd : BitVec 6) (imm : BitVec 18) (s : State) :
    Outcome State Fault Refusal :=
  .next (s.issueMac at_ false (fun c => aluOut c at_.slot dd (imm.signExtend 32)))

/-- MOVHI (R165): the low half keeps the value read at RR. -/
def execMovhi (at_ : Issue) (dd : BitVec 6) (imm : BitVec 16) (s : State) :
    Outcome State Fault Refusal :=
  .next (s.issueMac at_ false (fun c =>
    aluOut c at_.slot dd (imm ++ (c.readD dd.toNat).setWidth 16)))

/-- ABS (R165): the most negative number gives the most positive. -/
def execAbs (at_ : Issue) (dd da : BitVec 6) (s : State) : Outcome State Fault Refusal :=
  .next (s.issueMac at_ false (fun c =>
    aluSat c at_.slot dd (sat32 ((c.readD da.toNat).toInt.natAbs : Int))))

/-- NEG (R165). -/
def execNeg (at_ : Issue) (dd da : BitVec 6) (s : State) : Outcome State Fault Refusal :=
  .next (s.issueMac at_ false (fun c =>
    aluSat c at_.slot dd (sat32 (-(c.readD da.toNat).toInt))))

/-- MIN (R165): signed minimum. -/
def execMin (at_ : Issue) (dd da db : BitVec 6) (s : State) : Outcome State Fault Refusal :=
  .next (s.issueMac at_ false (fun c =>
    aluOut c at_.slot dd (if (c.readD da.toNat).toInt ≤ (c.readD db.toNat).toInt
      then c.readD da.toNat else c.readD db.toNat)))

/-- MAX (R165): signed maximum. -/
def execMax (at_ : Issue) (dd da db : BitVec 6) (s : State) : Outcome State Fault Refusal :=
  .next (s.issueMac at_ false (fun c =>
    aluOut c at_.slot dd (if (c.readD da.toNat).toInt ≤ (c.readD db.toNat).toInt
      then c.readD db.toNat else c.readD da.toNat)))

/-- CMP (R165). A write to P0 is ignored when it lands. -/
def execCmp (at_ : Issue) (pd : BitVec 3) (k : Cond) (da db : BitVec 6) (s : State) :
    Outcome State Fault Refusal :=
  .next (s.issueMac at_ false (fun c =>
    OpOut.of (c.send at_.slot 1
      (.p pd.toNat (condHolds k (c.readD da.toNat) (c.readD db.toNat))))))

/-- CMPI (R165): a signed immediate. -/
def execCmpi (at_ : Issue) (pd : BitVec 3) (k : Cond) (da : BitVec 6) (imm : BitVec 12)
    (s : State) : Outcome State Fault Refusal :=
  .next (s.issueMac at_ false (fun c =>
    OpOut.of (c.send at_.slot 1
      (.p pd.toNat (condHolds k (c.readD da.toNat) (imm.signExtend 32))))))

end Sys2Proof.Machine
end

