-- ==== Sys2Proof/Machine/LoadStore.lean ====
section
/-! DEFINITION. The operations of the load/store slot and the address-register operations (spec
chapters 05 and 06, R134 to R138, R166, R167). -/

namespace Sys2Proof.Machine

open Host (Outcome)

/-- One access as the pipeline makes it: load or store, width in bytes, base register, first data
register, mode, whether the data register is an A register, and its place in the bundle. -/
structure MemAcc where
  store : Bool
  w     : Nat
  an    : Nat
  dr    : Nat
  mode  : AMode
  toA   : Bool
  sub   : Nat
  deriving DecidableEq, Repr

/-- The aligned core address of an access, whether it was misaligned (R109), and the base register's
new value (R137). -/
def MemAcc.addr (m : MemAcc) (c : Core) : Word × Bool × Option Word :=
  let e := c.address m.w m.an m.mode
  let a := alignAddr m.w e.1
  (a.1, a.2, e.2)

/-- The bytes an access stores (R167): register DR + j at a + 4j, read at RR. -/
def MemAcc.stored (m : MemAcc) (c : Core) (n : Nat) : List (Nat × Byte) :=
  if m.store then
    let a := (m.addr c).1
    (List.range (m.w / 4)).flatMap (fun j =>
      leBytes (coreMemAddr n (a + Word.ofNat (4 * j)))
        (if m.toA then c.readA m.dr else c.readD (m.dr + j)).toNat 4)
  else []

/-- The word a load reads at a core address, as memory stands before this bundle's stores (R111,
R135, R136). -/
def State.coreWord (s : State) (n clk : Nat) (a : Word) : Word :=
  let m := coreMemAddr n a
  let b (i : Nat) : Nat := (s.coreByte (n / 8) clk (m + i)).toNat
  Word.ofNat (b 0 + 256 * (b 1 + 256 * (b 2 + 256 * b 3)))

/-- The results of a load under way (R105: latency 4). The slot order of the two accesses of a word
is their number (R106). An exchange access is served 8 cycles on (R135). -/
def MemAcc.loaded (m : MemAcc) (s : State) (n : Nat) (c0 c : Core) : Core :=
  if m.store then c
  else
    let a := (m.addr c0).1
    (List.range (m.w / 4)).foldl (fun c j =>
      let v := s.coreWord n (c0.clk + 8) (a + Word.ofNat (4 * j))
      if m.toA then c.send 2 4 (.a m.dr v)
      else c.send 2 4 (.d (physD c0.rrb (m.dr + j)) v)) c

/-- The addresses of the words a load reads, for the check of R136. -/
def MemAcc.reads (m : MemAcc) (c : Core) (n : Nat) : List Nat :=
  if m.store then []
  else (List.range (m.w / 4)).map (fun j => coreMemAddr n ((m.addr c).1 + Word.ofNat (4 * j)))

/-- The base register updated by a post-modify mode (R137). -/
def MemAcc.modified (m : MemAcc) (c0 c : Core) : Core :=
  match (m.addr c0).2.2 with
  | some v => c.send 2 1 (.a m.an v)
  | none => c

/-- Whether two accesses of one bundle fall in one bank in different lines (R110). -/
def bankConflict (a b : Word) : Bool :=
  !isExchange a && !isExchange b && bankOf a == bankOf b && lineOf a != lineOf b

/-- The accesses of one bundle: both addresses from RR, the loads before the stores, access 1 over
access 0, one stall on a bank conflict (R110) and eight on an exchange access (R135). -/
def accesses (l : List MemAcc) (n : Nat) (s : State) (c : Core) : OpOut :=
  let addrs := l.map (fun m => (m.addr c).1)
  let conflict := match addrs with
    | [a, b] => bankConflict a b
    | _ => false
  let xm := addrs.any isExchange
  let c1 := l.foldl (fun k m => m.loaded s n c k) c
  let c2 := l.foldl (fun k m => m.modified c k) c1
  let stalls := (if conflict then 1 else 0) + (if xm then 8 else 0)
  let c3 := { c2.tick stalls with stallsWin := c2.stallsWin + (if conflict then 1 else 0) }
  ⟨c3, (l.filter (fun m => (m.addr c).2.1)).map (fun _ => Ev.align)
      ++ (if conflict then [Ev.bankStall] else []),
    l.flatMap (fun m => m.reads c n), l.flatMap (fun m => m.stored c n)⟩

/-- The issue of a load/store word: a reserved register field acts as a reserved encoding (R173). -/
def State.issueMem (s : State) (at_ : Issue) (bad : Bool) (l : List MemAcc) : State :=
  let at2 := { at_ with slot := 2 }
  s.issueOr at2 (fun _ => bad) (accesses l at_.core)

/-- A D register that is not a multiple of the access width in words (R167, R173). -/
def drReserved (w : Nat) (dr : BitVec 6) : Bool := dr.toNat % (w / 4) != 0

/-- LD (R166, R167). -/
def execLd (at_ : Issue) (w : AWidth) (dr : BitVec 6) (an : BitVec 4) (mode : AMode) (s : State) :
    Outcome State Fault Refusal :=
  .next (s.issueMem at_ (drReserved (widthBytes w) dr)
    [⟨false, widthBytes w, an.toNat, dr.toNat, mode, false, 0⟩])

/-- ST (R166, R167). -/
def execSt (at_ : Issue) (w : AWidth) (dr : BitVec 6) (an : BitVec 4) (mode : AMode) (s : State) :
    Outcome State Fault Refusal :=
  .next (s.issueMem at_ (drReserved (widthBytes w) dr)
    [⟨true, widthBytes w, an.toNat, dr.toNat, mode, false, 0⟩])

/-- LDA (R166): 4 bytes to an A register. -/
def execLda (at_ : Issue) (ar an : BitVec 4) (mode : AMode) (s : State) :
    Outcome State Fault Refusal :=
  .next (s.issueMem at_ false [⟨false, 4, an.toNat, ar.toNat, mode, true, 0⟩])

/-- STA (R166): an A register as 4 bytes. -/
def execSta (at_ : Issue) (ar an : BitVec 4) (mode : AMode) (s : State) :
    Outcome State Fault Refusal :=
  .next (s.issueMem at_ false [⟨true, 4, an.toNat, ar.toNat, mode, true, 0⟩])

/-- An access of the paired form (R166). -/
def pairAccess (sub : Nat) (p : PairAcc) : MemAcc :=
  ⟨p.store, widthBytes p.w, p.an.toNat, p.dr.toNat, pairMode p, false, sub⟩

/-- The paired form (R110, R111, R166): two accesses of one word, either of them absent. -/
def execPairedAccess (at_ : Issue) (a0 a1 : Option PairAcc) (s : State) :
    Outcome State Fault Refusal :=
  let bad (p : Option PairAcc) : Bool := match p with
    | some p => drReserved (widthBytes p.w) p.dr
    | none => false
  .next (s.issueMem at_ (bad a0 || bad a1)
    ((a0.map (pairAccess 0)).toList ++ (a1.map (pairAccess 1)).toList))

/-- An address register written with latency 1 by an address-register operation. -/
def aOut (c : Core) (slot : Nat) (an : BitVec 4) (v : Word) : OpOut :=
  OpOut.of (c.send slot 1 (.a an.toNat v))

/-- AADDI (chapter 06): a signed immediate added. -/
def execAaddi (at_ : Issue) (an : BitVec 4) (imm : BitVec 17) (s : State) :
    Outcome State Fault Refusal :=
  .next (s.issueAddr at_ (fun c => aOut c at_.slot an (c.readA an.toNat + imm.signExtend 32)))

/-- AADD (chapter 06). -/
def execAadd (at_ : Issue) (an am : BitVec 4) (s : State) : Outcome State Fault Refusal :=
  .next (s.issueAddr at_ (fun c => aOut c at_.slot an (c.readA an.toNat + c.readA am.toNat)))

/-- AMOVI (chapter 06): a signed immediate. -/
def execAmovi (at_ : Issue) (an : BitVec 4) (imm : BitVec 17) (s : State) :
    Outcome State Fault Refusal :=
  .next (s.issueAddr at_ (fun c => aOut c at_.slot an (imm.signExtend 32)))

/-- AMOVHI (chapter 06): the low half keeps the value read at RR. -/
def execAmovhi (at_ : Issue) (an : BitVec 4) (imm : BitVec 16) (s : State) :
    Outcome State Fault Refusal :=
  .next (s.issueAddr at_ (fun c =>
    aOut c at_.slot an (imm ++ (c.readA an.toNat).setWidth 16)))

/-- AMOV (chapter 06). -/
def execAmov (at_ : Issue) (an : BitVec 4) (dm : BitVec 6) (s : State) :
    Outcome State Fault Refusal :=
  .next (s.issueAddr at_ (fun c => aOut c at_.slot an (c.readD dm.toNat)))

/-- RDA (chapter 06). -/
def execRda (at_ : Issue) (dd : BitVec 6) (an : BitVec 4) (s : State) :
    Outcome State Fault Refusal :=
  .next (s.issueAddr at_ (fun c => aluOut c at_.slot dd (c.readA an.toNat)))

end Sys2Proof.Machine
end

