-- ==== Sys2Proof/Machine/Control.lean ====
section
/-! DEFINITION. The operations of the control slot (spec chapters 04 to 06): branches, RETI, SWI,
REP, LOOP, FBAR, CSYNC, predicate logic and the system registers, and the issue of a reserved
encoding. -/

namespace Sys2Proof.Machine

open Host (Outcome)

/-- A control operation's issue is in slot 3. -/
def ctlSlot (at_ : Issue) : Issue := { at_ with slot := 3 }



/-- A branch issued: five delay slots follow whatever its predicate (R168). -/
def Core.branchTo (c : Core) (taken reti : Bool) (target : BitVec 12) : Core :=
  { c with branch := some ⟨target, 5, taken, reti⟩ }

/-- BR (R168). -/
def execBr (at_ : Issue) (target : BitVec 12) (s : State) : Outcome State Fault Refusal :=
  .next (s.issueFlow (ctlSlot at_) (fun _ => false) (fun c =>
    c.branchTo (c.predOf at_) false target))

/-- BRL (R168): the link is (b + 6) mod 4,096. -/
def execBrl (at_ : Issue) (an : BitVec 4) (target : BitVec 12) (s : State) :
    Outcome State Fault Refusal :=
  .next (s.issueFlow (ctlSlot at_) (fun _ => false) (fun c =>
    let c' := c.branchTo (c.predOf at_) false target
    if c.predOf at_ then c'.send 3 1 (.a an.toNat ((c.pc + 6).setWidth 32)) else c'))

/-- BRR (chapter 06): the target is An[11:0], read at RR. -/
def execBrr (at_ : Issue) (an : BitVec 4) (s : State) : Outcome State Fault Refusal :=
  .next (s.issueFlow (ctlSlot at_) (fun _ => false) (fun c =>
    c.branchTo (c.predOf at_) false ((c.readA an.toNat).setWidth 12)))

/-- RETI (R129): the return takes effect after five delay slots. -/
def execReti (at_ : Issue) (s : State) : Outcome State Fault Refusal :=
  .next (s.issueFlow (ctlSlot at_) (fun _ => false) (fun c => c.branchTo (c.predOf at_) true 0))

/-- SWI (R169): ISRC.SOFT. -/
def execSwi (at_ : Issue) (s : State) : Outcome State Fault Refusal :=
  .next (s.issueFlow (ctlSlot at_) (fun _ => false) (fun c =>
    if c.predOf at_ then c.send 3 1 (.isrcSet 8) else c))

/-- Whether the bundle at RR is that of the REP which runs: later iterations issue its other slots only (R140). -/
def Core.ownRep (c : Core) : Bool := c.rep.any (fun r => r.start == c.pc)

/-- REP (R140, R141): the fields are LEN – 1 and COUNT – 1. A body beyond bundle 4,095 is reserved;
with predicate 0 the body runs once as straight code. A REP that comes to its own bundle again, in a later
iteration, has no effect. -/
def execRep (at_ : Issue) (len : BitVec 4) (count : BitVec 6) (s : State) :
    Outcome State Fault Refusal :=
  let act : State := s.issueFlow (ctlSlot at_) (fun c => decide (4095 < c.pc.toNat + len.toNat)) (fun c =>
    if c.predOf at_ then { c with rep := some ⟨c.pc, len.toNat + 1, count.toNat⟩ }
    else { c with guard := len.toNat + 1 })
  .next (match s.reach (ctlSlot at_) with
  | some c => if c.ownRep then (s.fetchFor (ctlSlot at_)).setCore at_.core c else act
  | none => act)

/-- LOOP (R142, R143): the field is LEN – 1, the kernel follows the LOOP bundle. -/
def execLoop (at_ : Issue) (len : BitVec 6) (s : State) : Outcome State Fault Refusal :=
  .next (s.issueFlow (ctlSlot at_) (fun c => decide (4095 < c.pc.toNat + len.toNat + 1)) (fun c =>
    if c.predOf at_ then { c with loop := some ⟨1, c.pc + 1, len.toNat + 1, true⟩ }
    else { c with guard := len.toNat + 2 }))

/-- FBAR (R147): no bundle after it issues; the barrier follows 12 cycles later as its own command.
In a handler it ends no frame of its own: the core drains as well. -/
def execFbar (at_ : Issue) (s : State) : Outcome State Fault Refusal :=
  .next (s.issueFlow (ctlSlot at_) (fun _ => false) (fun c =>
    if c.predOf at_ then { c with run := .draining } else c))

/-- CSYNC (R156): the core waits before issuing the bundle; the release is its own command, after
which the other slots of the bundle issue, those that have not issued yet. So the command of a CSYNC whose
predicate is 1 comes before those of the bundle's other slots. -/
def execCsync (at_ : Issue) (s : State) : Outcome State Fault Refusal :=
  let from_ : Nat := if s.bundlesOn (ctlSlot at_) = 0 then (s.core at_.core).slotNext else 0
  .next (s.issueFlow (ctlSlot at_) (fun _ => false) (fun c =>
    if c.predOf at_ then { c with run := .csync, slotNext := from_, waitSlot := some from_ } else c))

/-- The value MFSR reads (R170), or none for a reserved number. `sel` is the active PARAM_SEL. -/
def Core.readSr (c : Core) (sel : Nat) (srn : Nat) : Option Word :=
  if srn = 0x00 then some c.sr
  else if srn = 0x01 then some c.rnd
  else if srn = 0x02 then some c.isrc
  else if srn = 0x03 then some c.imask
  else if srn = 0x04 then some c.ipc
  else if srn = 0x05 then some c.isav0
  else if srn = 0x06 then some c.isav1
  else if srn = 0x07 then some c.isav2
  else if srn = 0x08 then some (c.lc0.setWidth 32)
  else if srn = 0x09 then some (c.lc1.setWidth 32)
  else if srn = 0x0A then some (c.rrb.setWidth 32)
  else if srn = 0x0B then some (Word.ofNat sel)
  else if 0x10 ≤ srn ∧ srn ≤ 0x17 then some (Tab.get 0 c.cbase (srn - 0x10))
  else if 0x18 ≤ srn ∧ srn ≤ 0x1F then some (Tab.get 0 c.clen (srn - 0x18))
  else none

/-- Whether the bundle at RR lies inside a LOOP kernel, where MTSR of LC0, LC1 and RRB is ignored
(R143). -/
def Core.inKernel (c : Core) : Bool := match c.loop with | some l => !l.fresh | none => false

/-- What MTSR writes (R139, R170), or none for a reserved number. CSIG is written by the caller. -/
def Core.writeSr (c : Core) (srn : Nat) (v : Word) : Option Core :=
  if srn = 0x00 then some (c.send 3 1 (.sr v))
  else if srn = 0x01 then some (c.send 3 1 (.rnd v))
  else if srn = 0x02 then some (c.send 3 1 (.isrcClr (v &&& 0xF)))
  else if srn = 0x03 then some (c.send 3 1 (.imask v))
  else if srn = 0x04 then some (c.send 3 1 (.ipc v))
  else if srn = 0x05 then some (c.send 3 1 (.isav0 v))
  else if srn = 0x06 then some (c.send 3 1 (.isav1 v))
  else if srn = 0x07 then some (c.send 3 1 (.isav2 v))
  else if srn = 0x08 then some (if c.inKernel then c else c.send 3 1 (.lc0 v))
  else if srn = 0x09 then some (if c.inKernel then c else c.send 3 1 (.lc1 v))
  else if srn = 0x0A then some (if c.inKernel then c else c.send 3 1 (.rrb v))
  else if srn = 0x0C then some c
  else if 0x10 ≤ srn ∧ srn ≤ 0x17 then
    some { c with cbaseNew := Tab.put none c.cbaseNew (srn - 0x10) (some v) }
  else if 0x18 ≤ srn ∧ srn ≤ 0x1F then
    some { c with clenNew := Tab.put none c.clenNew (srn - 0x18) (some (v &&& 0x0007FFFC)) }
  else none

/-- Whether MFSR of a number is a reserved encoding (R170). -/
def mfsrReserved (srn : Nat) : Bool :=
  srn == 0x0C || (0x0D ≤ srn && srn ≤ 0x0F) || 0x20 ≤ srn

/-- Whether MTSR of a number is a reserved encoding (R170). -/
def mtsrReserved (srn : Nat) : Bool :=
  srn == 0x0B || (0x0D ≤ srn && srn ≤ 0x0F) || 0x20 ≤ srn

/-- CSIG (R157): ISRC.CLUSTER of each core of the cluster in the mask. -/
def State.csignal (s : State) (n : Nat) (mask : Word) : State :=
  (List.range 8).foldl (fun s i =>
    if mask.getLsbD i then
      let k := n / 8 * 8 + i
      s.setCore k ((s.core k).setSource 2)
    else s) s

/-- MFSR (R170). -/
def execMfsr (at_ : Issue) (dd srn : BitVec 6) (s : State) : Outcome State Fault Refusal :=
  let sel := s.get (Page.ibex at_.core) IBEX.PARAM_SEL.SEL
  .next (s.issueOr (ctlSlot at_) (fun _ => mfsrReserved srn.toNat) (fun _ c =>
    match c.readSr sel srn.toNat with
    | some v => OpOut.of (c.sendD 3 1 dd.toNat v)
    | none => OpOut.of c))

/-- The core's predicate and value at the bundle of a control operation, for effects outside the
core. -/
def State.ctlView (s : State) (at_ : Issue) : Option Core :=
  match s.reach (ctlSlot at_) with
  | some c => if c.issues 0 && c.predOf at_ && !s.slotLost at_.core 3 c then some c else none
  | none => none

/-- A system register written from a value the core supplies (R157, R170). -/
def State.moveToSr (s : State) (at_ : Issue) (srn : Nat) (v : Core → Word) : State :=
  let s' := s.issueOr (ctlSlot at_) (fun _ => mtsrReserved srn) (fun _ c =>
    match c.writeSr srn (v c) with
    | some c' => OpOut.of c'
    | none => OpOut.of c)
  if srn = 0x0C then
    match s.ctlView at_ with
    | some c => s'.csignal at_.core (v c)
    | none => s'
  else s'

/-- MTSR (R170). -/
def execMtsr (at_ : Issue) (dm srn : BitVec 6) (s : State) : Outcome State Fault Refusal :=
  .next (s.moveToSr at_ srn.toNat (fun c => c.readD dm.toNat))

/-- MTSRI (R170): a zero-extended immediate. -/
def execMtsri (at_ : Issue) (imm : BitVec 16) (srn : BitVec 6) (s : State) :
    Outcome State Fault Refusal :=
  .next (s.moveToSr at_ srn.toNat (fun _ => imm.setWidth 32))

/-- PLOG (chapter 06): Pd := TT[2 × Pa + Pb]. -/
def execPlog (at_ : Issue) (pd pa pb : BitVec 3) (tt : BitVec 4) (s : State) :
    Outcome State Fault Refusal :=
  .next (s.issueCore (ctlSlot at_) (fun c =>
    let i := (if c.readP pa.toNat then 2 else 0) + (if c.readP pb.toNat then 1 else 0)
    OpOut.of (c.send 3 1 (.p pd.toNat (tt.getLsbD i)))))

/-- The issue of a reserved encoding (R175). -/
def execReservedEncodingIssue (at_ : Issue) (s : State) : Outcome State Fault Refusal :=
  .next (s.issueFlow at_ (fun _ => true) id)

end Sys2Proof.Machine
end

