-- ==== Sys2Proof/Machine/Cluster.lean ====
section
/-! DEFINITION. The clusters around their cores: staging and core frames (R146 to R153), program-set
swaps (R154), interrupt entry (R128), the exchange of a CSYNC (R156), migration onto a spare (R158 to
R160) and core debug (R161). -/

namespace Sys2Proof.Machine

/-- Handlers that have run out their return are back at their waits. -/
def State.settleCores (s : State) (c : Nat) : State :=
  (clusCores c).foldl (fun s n => s.setCore n (s.core n).settle) s



/-- A core that waits at its barrier outside a handler, or has not run since its domain turned on. -/
def Core.waits (c : Core) : Bool := (c.run == .barrier && !c.inh) || c.run == .idle



/-- The cycle of the cores' frame clock at which stage-out of cluster `c` is scheduled to start: s + D - T
(R146). -/
def State.outAt (s : State) (c : Nat) : Nat := s.declNow c - s.stageNow c true - s.frameFrom c

/-- Whether the commands of cluster `c` act at all. -/
def State.clusLive (s : State) (c : Nat) : Bool := !s.inReset && decide (c < 4) && s.domOn (1 + c)

/-! ### Staging (R146, R149, R153) -/

/-- The data-memory address of sample k of the m-th signal of a list entry (R149). -/
def State.ioAddr (s : State) (n : Nat) (e : IoEnt) (m k : Nat) : Nat :=
  0x20040000 + n * 0x100000 + e.addr + (m * s.fsize + k) * 4

/-- The inputs of core `n` copied into its data memory for the frame of the window (R84, R149): its input list
as active, an exchange of lists following at the frame start (R154). -/
def State.stageIn (s : State) (q n : Nat) : State :=
  let f := s.fseq.winFrame
  let v := s.windowView
  s.writeLocal ((s.ioNow n false).flatMap (fun e =>
    (List.range e.count).flatMap (fun m => (List.range s.fsize).flatMap (fun k =>
      leBytes (s.ioAddr n e m k) (v.passSample q f (e.first + m) k).toNat 4))))

/-- The frame clock of the core of cluster `c` that is furthest: before stage-in, the cycles by which handlers have
run past the scheduled start of the pass (R148). -/
def State.latestClk (s : State) (c : Nat) : Nat :=
  (s.nowCores c).foldl (fun m n => Nat.max m (s.core n).clk) 0

/-- STAGE_IN_START: every enabled core waits at its barrier, and the cluster copies its inputs. -/
def execStageInStart (c : Nat) (s : State) : Host.Outcome State Fault Refusal :=
  .next (if !s.clusLive c || (s.cl c).phase != .waiting then s
  else
    let s' := s.settleCores c
    if !(s'.nowCores c).all (fun n => (s'.core n).waits) then s'
    else
      let late := s'.latestClk c
      let s := (s'.waitAll c late).setCl c { s'.cl c with phase := .stageIn, late := late }
      (s.nowCores c).foldl (fun s n => s.stageIn (s.cl c).pass n) s)

/-- The registers of core `n` that waited for its frame start become active, on its page and on that of
a following spare (R154). -/
def State.swapSet (s : State) (n : Nat) : State :=
  let c := s.core n
  if !(c.swapPend && c.swapReady) then s
  else
    let s := (shadowFlds (Page.ibex n)).foldl (fun s f =>
      let v := Tab.get f.rst s.staged (fkey (Page.ibex n) f)
      s.onCorePage n (fun s p => s.put p f v)) s
    let s := s.setCore n { s.core n with swapPend := false, swapReady := false }
    s.onCorePage n (fun s p => s.raise p 8)

/-- One core at the frame start of its cluster. A core that is overrun already, its deadline having passed
before, starts no frame (R148, R152). -/
def State.coreStart (s : State) (n : Nat) : State :=
  if (s.core n).overrun then s.setCore n { s.core n with clk := 0 }
  else
    let s := s.swapSet n
    if s.flag (Page.ibex n) IBEX.CORE_CTRL.ENABLE then
      s.setCore n ((s.core n).startFrame (BitVec.ofNat 12 (s.get (Page.ibex n) IBEX.FENTRY.BUNDLE)))
    else s.setCore n { s.core n with run := .idle }

/-- CORE_FRAME_START: stage-in ends and every enabled core starts its frame. -/
def execCoreFrameStart (c : Nat) (s : State) : Host.Outcome State Fault Refusal :=
  .next (if !s.clusLive c || (s.cl c).phase != .stageIn then s
  else
    let s := (clusCores c).foldl State.coreStart (s.waitAll c (s.frameFrom c))
    s.setCl c { s.cl c with phase := .frame, xm := [] })

/-- A word as staging reads it, with the checks of R136. -/
def State.stageWord (s : State) (a : Nat) : Word × State :=
  (if s.eccAt a = some .double then 0 else s.word a, s.checkWords a 1)

/-- A staged-out sample in the fade after an overrun (R153): `m` samples of the fade are done. -/
def fadeIn (m : Nat) (x : Word) : Word :=
  if m < 32 then Word.ofInt (roundShift false (x.toInt * (m + 1)) 5) else x

/-- The outputs of core `n` copied to the Signal Plane (R146, R149). -/
def State.stageOut (s : State) (n : Nat) : State :=
  let b := s.fseq.winFrame % 2
  let m0 := s.get (Page.clus (n / 8)) CLUS.FADE_POS.M
  (ioEntries (s.get (Page.ibex n)) true).foldl (fun s e =>
    (List.range e.count).foldl (fun s m => (List.range s.fsize).foldl (fun s k =>
      let r := s.stageWord (s.ioAddr n e m k)
      r.2.planeWrite b (e.first + m) k (fadeIn (m0 + k) r.1)) s) s) s

/-- STAGE_OUT_START: every enabled core has reached its barrier and the cluster copies its outputs; an
overrun suppresses it (R152). -/
def execStageOutStart (c : Nat) (s : State) : Host.Outcome State Fault Refusal :=
  .next (if !s.clusLive c || (s.cl c).phase != .frame || (s.cl c).overrun ||
      !(s.nowCores c).all (fun n => (s.core n).run == .barrier) then s
  else
    let s := s.waitAll c (s.outAt c)
    let s := if s.domOn 5 then (s.nowCores c).foldl State.stageOut s else s
    let s := s.setFadePos c (Nat.min 32 (s.get (Page.clus c) CLUS.FADE_POS.M + s.fsize))
    s.setCl c { s.cl c with phase := .stageOut })

/-! ### Migration (R158 to R160) -/

/-- The addresses of the words in a range of local memory that hold an error of one kind (R136). -/
def State.eccIn (s : State) (base n : Nat) (k : Ecc) : List Nat :=
  (s.ecc.filter (fun e => decide (base ≤ e.1 * 4 ∧ e.1 * 4 < base + n) && e.2 == some k)).map (fun e => e.1 * 4)

/-- The memories of a cluster at `base` copied to the cluster at `dst`; no word there has an error any more. -/
def State.migMove (s : State) (base dst : Nat) : State :=
  { s with mem := Tab.copy s.mem base dst 0x00800000
           ecc := Tab.clear s.ecc (dst / 4) (dst / 4 + 0x00200000) }

/-- The memories of the source copied into spare `c` (R158): program sets, data and exchange memories. The
copy reads corrected values, and a single-bit error it meets counts as in any read (R136); an uncorrectable
error cancels the migration (R160). -/
def State.migCopy (s : State) (c : Nat) : State :=
  let src := (s.cl c).src
  let base := 0x20000000 + src * 0x00800000
  match (s.eccIn base 0x00800000 .double).head? with
  | some a => s.ibexEccEvent a true
  | none =>
    let s := (s.eccIn base 0x00800000 .single).foldl (fun s a => s.ibexEccEvent a false) s
    let s := s.migMove base (0x20000000 + c * 0x00800000)
    (s.setCl c { s.cl c with copying := false, copied := true }).put (Page.clus c)
      CLUS.MIG_STAT.PROGRESS 3088

/-- STAGE_OUT_DONE: the cluster pass reaches its frame barrier; a copy that waits for it is made. -/
def execStageOutDone (c : Nat) (s : State) : Host.Outcome State Fault Refusal :=
  .next (if !s.clusLive c || (s.cl c).phase != .stageOut then s
  else
    let s := (s.waitAll c (s.outAt c + s.stageNow c true)).setCl c { s.cl c with phase := .idle }
    (List.range 4).foldl (fun s k =>
      if s.migState k == 2 && (s.cl k).copying && (s.cl k).src == c then s.migCopy k else s) s)

/-- A write of MIG_CTRL: SOURCE, then CANCEL, then START (R158, R160). -/
def State.migCtrl (s : State) (c v : Nat) : State :=
  let g := Page.clus c
  let s := s.put g CLUS.MIG_CTRL.SOURCE (bits v 0 2)
  let s := if v.testBit 9 then s.migCancel c 1 else s
  if !v.testBit 8 then s
  else if !s.flag g CLUS.CLUS_CTRL.SPARE || bits v 0 2 == c ||
      (s.migState c != 0 && s.migState c != 4) then s.log g Code.refused
  else
    let s := s.setCl c { s.cl c with src := bits v 0 2, copying := false, copied := false }
    let s := (s.put g CLUS.MIG_STAT.STATE 1).put g CLUS.MIG_STAT.PROGRESS 0
    s.request Kind.migration c

/-- MIG_START: a write of MIG_CTRL with START set. -/
def execMigStart (c : Nat) (source : BitVec 2) (s : State) : Host.Outcome State Fault Refusal :=
  .next (if 4 ≤ c then s
  else s.blockWrite (Page.clus c) (fun s => s.migCtrl c (source.toNat + 0x100)))

/-- MIGRATION_COPY_START: the grant is held, and the copy begins at the end of the source's next
stage-out (R158). -/
def execMigrationCopyStart (c : Nat) (s : State) : Host.Outcome State Fault Refusal :=
  .next (if !s.clusLive c || s.migState c != 1 || !s.holds Kind.migration c then s
  else (s.setCl c { s.cl c with copying := true, copied := false }).put (Page.clus c)
    CLUS.MIG_STAT.STATE 2)

/-- The fields of an IBEX page that a migration copies: those of the program and frame registers, and
every shadowed one (R158). -/
def migFlds : List Fld :=
  (IBEX.regs.flatMap RegD.expand).filter (fun f => decide (0x70 ≤ f.off) || f.ty == .rws)

/-- Core `src` copied to the matching core of the spare, with its page. -/
def State.migCore (s : State) (src dst : Nat) : State :=
  let a := Page.ibex src
  let b := Page.ibex dst
  let s := s.setCore1 dst (s.core src)
  let s := migFlds.foldl (fun s f =>
    let s := s.put b f (s.get a f)
    if f.ty == .rws then
      let s := s.putSh b f (s.getSh a f)
      { s with staged := Tab.put f.rst s.staged (fkey b f) (Tab.get f.rst s.staged (fkey a f)) }
    else s) s
  let s := s.put b HDR.SET_STAT.ACTIVE_SET (s.activeSet a)
  { s with dirtyReg := Tab.put false s.dirtyReg b (Tab.get false s.dirtyReg a)
           dirtyTab := Tab.put false s.dirtyTab b (Tab.get false s.dirtyTab a) }

/-- MIG_FOLLOWING: at a source barrier after the copy, the cores' state, the fade position and the IBEX
pages are copied and the spare follows (R158). -/
def execMigFollowing (c : Nat) (s : State) : Host.Outcome State Fault Refusal :=
  .next (if !s.clusLive c || s.migState c != 2 || !(s.cl c).copied then s
  else
    let src := (s.cl c).src
    let s := s.settleCores src
    if !(clusCores src).all (fun n => (s.core n).waits) then s
    else
      let s := (List.range 8).foldl (fun s i => s.migCore (8 * src + i) (8 * c + i)) s
      let g := Page.clus c
      let s := s.put g CLUS.FADE_POS.M (s.get (Page.clus src) CLUS.FADE_POS.M)
      (s.put g CLUS.MIG_STAT.STATE 3).raise g 0)

/-- MIG_CANCEL: a write of CANCEL, or another cause of R160. -/
def execMigCancel (c : Nat) (cause : Byte) (s : State) : Host.Outcome State Fault Refusal :=
  .next (if 4 ≤ c ∨ s.inReset then s
  else if cause = 1 then s.blockWrite (Page.clus c) (fun s => s.migCancel c 1)
  else if 2 ≤ cause.toNat ∧ cause.toNat ≤ 5 then s.migCancel c cause.toNat
  else s)

/-! ### Barrier and deadline (R147, R152) -/

/-- FRAME_CYCLES of a core at its barrier, counted from the scheduled start of the pass. -/
def State.frameCycles (s : State) (n : Nat) : State :=
  let cyc := s.frameFrom (n / 8) + (s.core n).clk
  s.onCorePage n (fun s p => (s.put p IBEX.FRAME_CYCLES.CYCLES (Nat.min cyc 0xFFFFF)).maxUp p
    IBEX.FRAME_CYCLES_MAX.CYCLES cyc)

/-- A core at rest at its barrier, with CFOLD where a pointer was folded. -/
def State.coreRest (s : State) (n : Nat) (r : Core × Bool) : State :=
  let s := s.setCore n r.1
  if r.2 then s.onCorePage n (fun s p => s.raise p 7) else s

/-- Whether the commands of core `n` act at all. -/
def State.coreLive (s : State) (n : Nat) : Bool := decide (n < 32) && s.clusLive (n / 8)

/-- FRAME_BARRIER_REACHED: 12 cycles after its FBAR a core reaches its frame barrier (R147). -/
def execFrameBarrierReached (n : Nat) (s : State) : Host.Outcome State Fault Refusal :=
  .next (if !s.coreLive n || (s.core n).run != .draining then s
  else (s.coreRest n ((s.core n).tick 12).atBarrier).frameCycles n)

/-- Whether core `n` has still to reach the barrier of its frame: the frame has not started, or the core is on
its way (R146, R152). -/
def State.frameOpen (s : State) (n : Nat) : Bool :=
  !(s.core n).overrun && match (s.cl (n / 8)).phase with
    | .waiting => true
    | .stageIn => true
    | .frame => (s.core n).run != .barrier
    | _ => false

/-- CORE_OVERRUN: a core has not reached its barrier at its deadline, its frame not ended or, behind a handler
that delays stage-in, not begun (R148, R152, R153). -/
def execCoreOverrun (n : Nat) (s : State) : Host.Outcome State Fault Refusal :=
  let c := n / 8
  .next (if !s.coreLive n || !(s.nowCores c).contains n || !s.frameOpen n then s
  else
    let s := s.coreRest n (s.core n).atDeadline
    let s := s.onCorePage n (fun s p => (s.bump p IBEX.CORE_OVR_COUNT.COUNT).raise p 6)
    let s := s.setFadePos c 0
    s.setCl c { s.cl c with overrun := true })

/-! ### Interrupts (R126 to R133, R148) -/

/-- Whether the bundle of a position carries a REP that will act there: from that bundle on the REP takes no
interrupt (R127). -/
def State.repAhead (s : State) (n : Nat) (c : Core) : Bool :=
  let v := s.bundleWord (s.fetchBase n) c.pc.toNat 3
  bits v 24 5 == 6 && !ctlReserved v && !s.flowBad n c && c.readP (bits v 29 3)

/-- Whether the position that core `n` comes to next, `p`, is interruptible (R127, R148, R156): at its barrier
only between stage-out and the next stage-in. -/
def State.mayInterrupt (s : State) (n : Nat) (p : Core) : Bool :=
  let c := s.core n
  let ph := (s.cl (n / 8)).phase
  c.interruptible && match c.run with
    | .barrier => ph == .idle || ph == .waiting
    | .csync => true
    | _ => !s.repAhead n p

/-- INTERRUPT_ENTRY: a source pending with IE at 1 in the cycle of an interruptible position (R126, R128).
What IPC holds of a core that waits at its barrier is open. -/
def execInterruptEntry (n : Nat) (s : State) : Host.Outcome State Fault Refusal :=
  .next (if !s.coreLive n then s
  else
    let s := s.setCore n (s.core n).settle
    let c := s.core n
    let p := c.atPosition
    if c.halted || !p.ie || !p.pendingSrc || !s.mayInterrupt n p then s
    else
      let d := s.draw
      let r := p.enterHandler (BitVec.ofNat 12 (s.get (Page.ibex n) IBEX.IVEC.BUNDLE))
        (d.1.setWidth 12)
      let s := (if c.run == .barrier then d.2 else s).setCore n r.1
      s.onCorePage n (fun s p => (s.bump p IBEX.IRQ_COUNT.COUNT).maxUp p IBEX.HOLDOFF_MAX.CYCLES r.2))

/-- A write to a register of core `n`'s page: a spare that copies or follows refuses it (R160). -/
def State.ibexGate (s : State) (n : Nat) (f : State → State) : State :=
  let st := s.migState (n / 8)
  if st = 2 ∨ st = 3 then s.log (Page.ibex n) Code.refused else f s

/-- DOORBELL: a write of the DOORBELL register (R133). -/
def execDoorbell (n : Nat) (value : Word) (s : State) : Host.Outcome State Fault Refusal :=
  .next (if 32 ≤ n then s
  else s.blockWrite (Page.ibex n) (fun s => s.ibexGate n (fun s =>
    if value.getLsbD 0 then s.setCore n ((s.core n).setSource 1) else s)))

/-- CSYNC_RELEASE: every enabled core waits at a CSYNC bundle outside a handler (R156); all go on in the cycle
of the last that came. -/
def execCsyncRelease (c : Nat) (s : State) : Host.Outcome State Fault Refusal :=
  .next (if !s.clusLive c then s
  else
    let s := s.settleCores c
    let on := s.nowCores c
    if on.isEmpty || !on.all (fun n =>
        (s.core n).run == .csync && !(s.core n).inh && !(s.core n).halted) then s
    else
      let s := s.waitAll c (s.latestClk c)
      on.foldl (fun s n => s.setCore n { s.core n with run := .running }) s)

/-- IBEX_ECC_WRITEBACK: a corrected word is written back in a free cycle (R136). -/
def execIbexEccWriteback (addr : Nat) (s : State) : Host.Outcome State Fault Refusal :=
  .next (if s.inReset || decide (addr < 0x20000000) || decide (0x22000000 ≤ addr) ||
      s.eccAt addr != some .single then s
  else { s with ecc := Tab.put none s.ecc (addr / 4) none })

/-! ### Debug (R161) -/

/-- The debug level granted (R71). -/
def State.debugLevel (s : State) : Nat := s.get Page.dev DEV.DBG_STAT.LEVEL

/-- A write to a debug register of core `n` (R161). -/
def State.dbgWrite (s : State) (n : Nat) (f : State → State) : State :=
  s.blockWrite (Page.ibex n) (fun s => s.ibexGate n (fun s =>
    if s.debugLevel < 2 then s.log (Page.ibex n) Code.refused else f s))

/-- HALT_REQ set. -/
def State.haltReq (s : State) (n : Nat) : State := s.setCore n { s.core n with haltReq := true }

/-- RESUME set: issue goes on. -/
def State.resumeCore (s : State) (n : Nat) : State :=
  if (s.core n).halted then
    (s.setCore n { s.core n with halted := false }).putB (Page.ibex n) IBEX.DBG_STAT.HALTED false
  else s

/-- STEP set: issue goes on up to the next interruptible position. -/
def State.stepCore (s : State) (n : Nat) : State :=
  if (s.core n).halted then
    let s := s.resumeCore n
    s.setCore n { s.core n with stepping := true }
  else s

/-- HALT_REQ: a write of DBG_CTRL.HALT_REQ. -/
def execHaltReq (n : Nat) (s : State) : Host.Outcome State Fault Refusal :=
  .next (if 32 ≤ n then s else s.dbgWrite n (fun s => s.haltReq n))

/-- RESUME: a write of DBG_CTRL.RESUME. -/
def execResume (n : Nat) (s : State) : Host.Outcome State Fault Refusal :=
  .next (if 32 ≤ n then s else s.dbgWrite n (fun s => s.resumeCore n))

/-- STEP: a write of DBG_CTRL.STEP. -/
def execStep (n : Nat) (s : State) : Host.Outcome State Fault Refusal :=
  .next (if 32 ≤ n then s else s.dbgWrite n (fun s => s.stepCore n))

/-- Whether a cause for a halt holds at the next position of a core. -/
def State.haltCause (s : State) (n : Nat) (cause : HaltCause) : Bool :=
  let c := s.core n
  let p := Page.ibex n
  match cause with
  | .request => c.haltReq
  | .step => c.stepping && c.redirect.isNone
  | .bp0 => s.flag p (IBEX.DBG_CTRL.BP_EN 0) && decide (s.get p IBEX.DBG_BP0.BUNDLE ≤ c.nextBundle.toNat)
  | .bp1 => s.flag p (IBEX.DBG_CTRL.BP_EN 1) && decide (s.get p IBEX.DBG_BP1.BUNDLE ≤ c.nextBundle.toNat)

/-- The code of a cause in DBG_STAT. -/
def haltCode : HaltCause → Nat
  | .request => 0 | .bp0 => 1 | .bp1 => 2 | .step => 3

/-- CORE_HALTED: a core stops at an interruptible position for debug (R161). -/
def execCoreHalted (n : Nat) (cause : HaltCause) (s : State) : Host.Outcome State Fault Refusal :=
  .next (if !s.coreLive n || (s.core n).halted || !(s.core n).interruptible ||
      s.repAhead n (s.core n).atPosition || !s.haltCause n cause then s
  else
    let p := Page.ibex n
    let s := s.setCore n (s.core n).halt
    let s := (s.putB p IBEX.DBG_STAT.HALTED true).put p IBEX.DBG_STAT.CAUSE (haltCode cause)
    s.raise p 9)

end Sys2Proof.Machine
end

