-- ==== Sys2Proof/Machine/Gpio.lean ====
section
/-! DEFINITION. GPIO pins (R65), the I²C masters (R66 to R68, R429), the VDD_CORE commands that show on
I2CM0 (R66, R425), and boundary scan (R70). -/

namespace Sys2Proof.Machine

/-! ### GPIO -/

/-- GPIO_SET and GPIO_CLR: only the bits of GPIO_OUT written with 1 change. -/
def State.gpioSet (s : State) (v : Nat) : State :=
  s.put Page.gpio GPIO.GPIO_OUT.OUT (s.get Page.gpio GPIO.GPIO_OUT.OUT ||| v)

def State.gpioClr (s : State) (v : Nat) : State :=
  let o := s.get Page.gpio GPIO.GPIO_OUT.OUT
  s.put Page.gpio GPIO.GPIO_OUT.OUT (o - (o &&& v))

/-- The edge selection of a pin. -/
def State.irqMode (s : State) (n : Nat) : Nat :=
  if n < 16 then s.get Page.gpio (GPIO.GPIO_IRQ_MODE0.MODE n)
  else s.get Page.gpio (GPIO.GPIO_IRQ_MODE1.MODE (n - 16))

/-- Whether an edge to `level` is one that the mode selects: rising, falling or both. -/
def edgeSelected (mode : Nat) (level : Bool) : Bool := if level then mode.testBit 0 else mode.testBit 1

/-- The level that a pin drives: none where it is an input or a released open-drain output. -/
def State.gpioDrive (s : State) (n : Nat) : Option Bool :=
  let bit (f : Fld) : Bool := (s.get Page.gpio f).testBit n
  if !bit GPIO.GPIO_DIR.DIR then none
  else if bit GPIO.GPIO_OUT.OUT && bit GPIO.GPIO_OD.OD then none
  else some (bit GPIO.GPIO_OUT.OUT)

/-- GPIO_SET. -/
def execGpioSet (bits : Word) (s : State) : Host.Outcome State Fault Refusal :=
  .next (s.blockWrite Page.gpio (fun s => s.gpioSet bits.toNat))

/-- GPIO_CLR. -/
def execGpioClr (bits : Word) (s : State) : Host.Outcome State Fault Refusal :=
  .next (s.blockWrite Page.gpio (fun s => s.gpioClr bits.toNat))

/-- GPIO_EDGE: a pin's synchronised level changes; a selected edge raises the pin's interrupt bit. -/
def execGpioEdge (pin : Nat) (level : Bool) (s : State) : Host.Outcome State Fault Refusal :=
  let was := s.get Page.gpio GPIO.GPIO_IN.IN
  .next (if s.inReset || decide (32 ≤ pin) || was.testBit pin == level then s
  else
    let s := s.put Page.gpio GPIO.GPIO_IN.IN (if level then was + 2 ^ pin else was - 2 ^ pin)
    if edgeSelected (s.irqMode pin) level then s.raise Page.gpio pin else s)

/-! ### I²C -/

/-- The RESULT code of a result (R67, R68). -/
def i2cCode : I2cResult → Nat
  | .ok => 0 | .addrNack => 2 | .dataNack => 3 | .busStuck => 5

/-- Whether the master's transaction is running. -/
def State.i2cBusy (s : State) (m : Nat) : Bool := s.flag (Page.i2cm m) I2CM.I2C_STAT.BUSY

/-- The end of a transaction: RESULT, WR_DONE and RD_DONE written, BUSY cleared, DONE raised, or ERR for a
result other than OK and NOOP (R67). -/
def State.i2cEnd (s : State) (m code wr rd : Nat) : State :=
  let g := Page.i2cm m
  let s := (s.put g I2CM.I2C_STAT.RESULT code).put g I2CM.I2C_STAT.WR_DONE wr
  let s := (s.put g I2CM.I2C_STAT.RD_DONE rd).putB g I2CM.I2C_STAT.BUSY false
  s.raise g (if code ≤ 1 then 0 else 1)

/-- The bytes read, into I2C_RXDATA in increasing byte order; the bytes beyond keep their values. -/
def State.i2cRx (s : State) (m : Nat) (l : List Byte) : State :=
  (List.zip (List.range l.length) l).foldl (fun (s : State) (e : Nat × Byte) =>
    s.put (Page.i2cm m) (I2CM.I2C_RXDATA.BYTE (e.1 / 4) (e.1 % 4)) e.2.toNat) s

/-- A write of I2C_CMD: REFUSED while BUSY; a GO with WLEN or RLEN above 32 is ignored as a whole with RANGE
(R36, R67); a GO with both 0 ends at once with NOOP (R67). -/
def State.i2cCmd (s : State) (m v : Nat) : State :=
  let g := Page.i2cm m
  if s.i2cBusy m then s.log g Code.refused
  else if v.testBit 24 ∧ (32 < bits v 8 6 ∨ 32 < bits v 16 6) then s.log g Code.range
  else
    let s := s.put g I2CM.I2C_CMD.ADDR (bits v 0 7)
    let s := (s.put g I2CM.I2C_CMD.WLEN (bits v 8 6)).put g I2CM.I2C_CMD.RLEN (bits v 16 6)
    if !v.testBit 24 then s
    else if bits v 8 6 = 0 ∧ bits v 16 6 = 0 then s.i2cEnd m 1 0 0
    else s.putB g I2CM.I2C_STAT.BUSY true

/-- A write of a block register of a master page by the host or over QSPI; I2CM0 is the management
controller's (R66). -/
def State.i2cGate (s : State) (m : Nat) (f : State → State) : State :=
  if m = 0 then s.log (Page.i2cm 0) Code.refused else f s

/-- I2C_GO: a write of I2C_CMD with GO set. -/
def execI2cGo (m : Nat) (cmd : Word) (s : State) : Host.Outcome State Fault Refusal :=
  .next (if 2 ≤ m then s else s.blockWrite (Page.i2cm m) (fun s =>
    s.i2cGate m (fun s => s.i2cCmd m (cmd ||| 0x1000000#32).toNat)))

/-- Byte `i` of I2C_TXDATA. -/
def State.i2cTx (s : State) (m i : Nat) : Byte :=
  BitVec.ofNat 8 (s.get (Page.i2cm m) (I2CM.I2C_TXDATA.BYTE (i / 4) (i % 4)))

/-- Whether a transaction has come to the START of its read phase: it reads, and its write phase, if any, is
complete. -/
def State.i2cSecond (s : State) (m wr : Nat) : Bool :=
  s.get (Page.i2cm m) I2CM.I2C_CMD.RLEN != 0 && s.get (Page.i2cm m) I2CM.I2C_CMD.WLEN == wr

/-- What a transaction puts on the bus up to its end with a result code, `wr` bytes written and `rd` read
(R67, R68): START, the address byte with the write bit and the bytes of I2C_TXDATA; START, the address byte
with the read bit and the bytes read, all but the last acknowledged; at a stuck bus 9 clock pulses in the place of
the START; STOP. -/
def State.i2cSymbols (s : State) (m code wr : Nat) (rd : List Byte) : List I2cSym :=
  let g := Page.i2cm m
  let a := s.get g I2CM.I2C_CMD.ADDR
  let second := s.i2cSecond m wr
  let w : List I2cSym :=
    if s.get g I2CM.I2C_CMD.WLEN = 0 || (code == 5 && !second) then []
    else .start :: .byte (BitVec.ofNat 8 (2 * a)) (code != 2 || second) ::
      ((List.range wr).map (fun i => I2cSym.byte (s.i2cTx m i) true) ++
        (if code = 3 then [.byte (s.i2cTx m wr) false] else []))
  let r : List I2cSym :=
    if code = 5 then [.pulses]
    else if !second then []
    else .start :: .byte (BitVec.ofNat 8 (2 * a + 1)) (code != 2) ::
      rd.zipIdx.map (fun (e : Byte × Nat) =>
        I2cSym.byte e.1 (decide (e.2 + 1 < s.get g I2CM.I2C_CMD.RLEN)))
  w ++ r ++ [.stop]

/-- The bytes written when a transaction ends: all with OK; none where an address byte is not acknowledged or a
START cannot be sent before the write phase is complete; fewer than WLEN where a written byte is not acknowledged
(R68). -/
def i2cWritten (code wl rl wrDone : Nat) : Nat :=
  if code = 0 then wl
  else if code = 2 ∨ code = 5 then (if wrDone < wl ∨ rl = 0 then 0 else wl)
  else if code = 3 then Nat.min wrDone (wl - 1)
  else Nat.min wrDone wl

/-- How a running transaction ends: the counts never exceed WLEN and RLEN, a read phase that has not
begun reads nothing, and a transaction that ends with OK has read RLEN bytes (R67, R68). -/
def State.i2cFinish (s : State) (m code wrDone : Nat) (rdata : List Byte) : State :=
  let g := Page.i2cm m
  let wl := s.get g I2CM.I2C_CMD.WLEN
  let rl := s.get g I2CM.I2C_CMD.RLEN
  let wr := i2cWritten code wl rl wrDone
  let rd := if code = 0 ∨ (code = 4 ∧ wr = wl) then rdata.take rl else []
  let more := s.drawBytes (if code = 0 then rl - rd.length else 0)
  let rd := rd ++ more.1
  let s := { more.2 with pins := { more.2.pins with
    i2c := Tab.put [] s.pins.i2c m (s.i2cSymbols m code wr rd) } }
  (s.i2cRx m rd).i2cEnd m code wr rd.length

/-- I2C_TRANSACTION_END. A transaction that writes nothing has no written byte that goes unacknowledged, so it
does not end so. -/
def execI2cTransactionEnd (m : Nat) (result : I2cResult) (wrDone : Nat) (rdata : List Byte)
    (s : State) : Host.Outcome State Fault Refusal :=
  .next (if s.inReset || decide (2 ≤ m) || !s.i2cBusy m ||
      (result == .dataNack && s.get (Page.i2cm m) I2CM.I2C_CMD.WLEN == 0) then s
  else s.i2cFinish m (i2cCode result) wrDone rdata)

/-- STRETCH_TMO: a slave holds SCL for more than 25 ms (R68, R429). -/
def execStretchTmo (m : Nat) (wrDone : Nat) (rdata : List Byte) (s : State) :
    Host.Outcome State Fault Refusal :=
  .next (if s.inReset || decide (2 ≤ m) || !s.i2cBusy m then s else s.i2cFinish m 4 wrDone rdata)

/-! ### The regulator's PMBus (R66, R424, R425) -/

/-- The 7-bit address of the VDD_CORE regulator (R424). -/
def State.pmbusAddr (s : State) : Nat := (Config.regulatorAddr (Tab.range s.mgmt.flash 0 0x10000)).toNat

/-- One bit of the CRC-8 of the packet error code, x^8 + x^2 + x + 1 (PRESUMED: PMBus, log entry 106). -/
def pecBit (c : Nat) : Nat := if c.testBit 7 then (2 * c % 256) ^^^ 0x07 else 2 * c % 256

/-- The packet error code over the bytes of a message. -/
def pecOf (l : List Byte) : Byte :=
  BitVec.ofNat 8 (l.foldl (fun (c : Nat) (b : Byte) =>
    (List.range 8).foldl (fun (c : Nat) (_ : Nat) => pecBit c) (c ^^^ b.toNat)) 0)

/-- A setpoint in the linear format of a VOUT_MODE, whose low five bits are the exponent: the nearest mantissa
(PRESUMED: PMBus, log entry 106). -/
def linearVout (mode : Byte) (mv : Nat) : Nat :=
  let e := mode.toNat % 32
  if 16 ≤ e then (mv * 2 ^ (32 - e) + 500) / 1000 % 2 ^ 16 else (mv + 500 * 2 ^ e) / (1000 * 2 ^ e) % 2 ^ 16

/-- A transaction of the management controller on I2CM0: its registers, and how it ends (R66). -/
def State.pmbus (s : State) (tx : List Byte) (rl code wrDone : Nat) (rd : List Byte) : State :=
  let g := Page.i2cm 0
  let s := s.put g I2CM.I2C_CMD.ADDR s.pmbusAddr
  let s := (s.put g I2CM.I2C_CMD.WLEN tx.length).put g I2CM.I2C_CMD.RLEN rl
  (tx.zipIdx.foldl (fun (s : State) (e : Byte × Nat) =>
    s.put g (I2CM.I2C_TXDATA.BYTE (e.2 / 4) (e.2 % 4)) e.1.toNat) s).i2cFinish 0 code wrDone rd

/-- A VOUT_COMMAND with a setpoint in mV, with PEC where the regulator accepts it (R424, R425). Which byte a
command without acknowledge stopped at is open. -/
def State.voutCommand (s : State) (ack : Bool) (mv : Nat) : State :=
  let y := linearVout s.vcore.mode mv
  let tx : List Byte := [0x21, BitVec.ofNat 8 y, BitVec.ofNat 8 (y / 256)]
  let tx := if s.vcore.pec then tx ++ [pecOf (BitVec.ofNat 8 (2 * s.pmbusAddr) :: tx)] else tx
  let fr := s.draw
  let v := fr.1.toNat
  if ack then fr.2.pmbus tx 0 0 0 []
  else fr.2.pmbus tx 0 (2 + v % 2) (v / 2 % tx.length) []

/-- VOUT_MODE read once at boot (R425): linear mode with any exponent, from a regulator that accepts PEC or does
not (R424); both are its own. -/
def State.voutMode (s : State) : State :=
  let fr := s.draw
  let mode : Byte := BitVec.ofNat 8 (fr.1.toNat % 32)
  let pec := fr.1.toNat.testBit 5
  let s := { fr.2 with vcore := { s.vcore with mode := mode, pec := pec } }
  let a : Nat := 2 * s.pmbusAddr
  let head : List Byte := [BitVec.ofNat 8 a, 0x20, BitVec.ofNat 8 (a + 1), mode]
  s.pmbus [0x20] (if pec then 2 else 1) 0 0 (if pec then [mode, pecOf head] else [mode])

/-! ### Boundary scan -/

/-- EXTEST: while it is in effect, boundary scan drives every pin (R70). -/
def execExtest (on : Bool) (drive : List PinLevel) (s : State) : Host.Outcome State Fault Refusal :=
  .next { s with pins := { s.pins with
    extest := on
    drive := if on then drive else [] } }

end Sys2Proof.Machine
end

