-- ==== Sys2Proof/Machine/Power.lean ====
section
/-! DEFINITION. Power domains (R387 to R398), the rows of the budget ledger (R399 to R401), the thermal
alarms (R402) and the VDD_CORE setpoint (R425). -/

namespace Sys2Proof.Machine

/-! ### What a domain holds, leaves and takes up (R388, R389) -/

/-- The switched domains in stop order (R387); waking goes the other way. -/
def stopOrder : List Nat := [9, 8, 1, 2, 3, 4, 5, 7, 6]

/-- The pages of a domain, in page order. -/
def pagesOf (d : Nat) : List Nat := allPages.filter (fun p => pageDomain p == d)

/-- The internal addresses that a domain's memories and tables occupy, as ranges. -/
def domRanges (d : Nat) : List (Nat × Nat) :=
  if 1 ≤ d ∧ d ≤ 4 then [(0x20000000 + (d - 1) * 0x00800000, 0x20000000 + d * 0x00800000)]
  else if d = 5 then [(0x10100000, 0x10420000), (0x10440000, 0x10444000), (0x22000000, 0x22400000)]
  else if d = 6 then [(0, 0x04000000)]
  else if d = 7 then [(0x10420000, 0x10440000)]
  else []

/-- The registers of a page beyond its header at their reset values, nothing in its shadow copies. -/
def State.wipePage (s : State) (p : Nat) : State :=
  let lo := (p * 0x1000 + 0x40) * 32
  let hi := (p + 1) * 0x1000 * 32
  { s with
    fld := Tab.clear s.fld lo hi
    shadow := Tab.clear s.shadow lo hi
    staged := Tab.clear s.staged lo hi
    dirtyReg := Tab.put false s.dirtyReg p false
    dirtyTab := Tab.put false s.dirtyTab p false }

/-- What a domain holds beside pages and memories, as it is when the domain turns on. -/
def State.wipeBlocks (s : State) (d : Nat) : State :=
  if 1 ≤ d ∧ d ≤ 4 then
    { s with cores := Tab.clear s.cores (8 * (d - 1)) (8 * d), clus := Tab.clear s.clus (d - 1) d }
  else if d = 5 then
    { s with oryx := ⟨[], [], [], []⟩, meters := [], eqSecs := [], delay := Delay.reset, marks := []
             fseq := { FrameSeq.reset with tick := s.fseq.tick, ticksDone := s.fseq.ticksDone } }
  else if d = 6 then { s with dmas := [], vcore := { s.vcore with sigBad := [] } }
  else if d = 7 then { s with lanes := [], ring := Ring.reset }
  else if d = 8 then { s with audio := [], startTrig := 0 }
  else { s with amps := [], boosts := [], cal := ⟨0, 0⟩ }

/-- Everything in a domain is lost (R388); its headers stay, in AON (R38), but the copies that ACTIVE_SET
and a running SYNC spoke of are gone. -/
def State.wipe (s : State) (d : Nat) : State :=
  let s := (pagesOf d).foldl (fun (s : State) (p : Nat) => s.wipePage p) s
  let s := (pagesOf d).foldl (fun (s : State) (p : Nat) =>
    ((s.put p HDR.SET_STAT.ACTIVE_SET 0).put p HDR.PAGE_CTRL.SYNC 0).put p HDR.PAGE_STAT.BUSY 0) s
  let s := (domRanges d).foldl (fun s r =>
    { s with mem := Tab.clear s.mem r.1 r.2, ecc := Tab.clear s.ecc (r.1 / 4) (r.2 / 4) }) s
  { s.wipeBlocks d with undef := Tab.put false s.undef d false }

/-- A domain that is ON freezes: what runs in it is cancelled (R391, R393, R410, R236, R302). A SYNC, a zero-fill and
a lane's test stand still, to go on at the return from RETENTION (R389). -/
def State.leaveOn (s : State) (d : Nat) : State :=
  if 1 ≤ d ∧ d ≤ 4 then (s.migCancelOf (d - 1) 4).masterReset (.clus (d - 1)) false
  else if d = 5 then ((s.masterReset .oryx false).masterReset .eq false).masterReset .delay false
  else if d = 6 then
    (List.range 4).foldl (fun s e => s.dmaCancel e) s.scrubStop
  else if d = 7 then
    let s := (List.range 12).foldl (fun s l => if s.phase l = Phase.test then s else s.release Kind.laneTrain l) s
    let s := (List.range 8).foldl (fun s p => s.setActive (refOfPort p) false) s
    ((s.setBypass false false).setBypass true false).masterReset .ring false
  else if d = 8 then s.masterReset .port false
  else s

/-- A domain in its new state; what OFF loses is gone. -/
def State.domainTo (s : State) (d : Nat) (t : DomState) : State :=
  let s := { s with dom := Tab.put .off s.dom d t }
  match t with
  | .off => (if d = 7 then (List.range 12).foldl (fun s l => s.release Kind.laneTrain l) s else s).wipe d
  | .retention => if d = 6 then s.storeRetain else s
  | .on => s

/-- A lane as its domain returns to ON (R389): with EN at 1 a new attempt starts at DETECT; with EN at 0 a test
goes on where it stood, and one that waited for its grant asks again. -/
def State.laneReturn (s : State) (l : Nat) : State :=
  if s.enabled (Page.lane l) then s.newSequence l Phase.detect
  else if s.testing l then (if s.phase l = Phase.waitGrant then s.startAttempt l Phase.test else s)
  else if s.phase l ≠ 0 then s.laneDisable l
  else s

/-- A channel with EN at 1 that is OFF goes on to WAIT_RAIL (R376). -/
def State.ampReturn (s : State) (n : Nat) : State :=
  if s.enabled (Page.amp n) && s.ampReady n && s.ampState n == 0 then s.ampEnter n 1 else s

/-- A domain turns ON (R389, R228). -/
def State.comeOn (s : State) (d : Nat) : State :=
  let was := s.domState d
  let s := s.domainTo d .on
  if d = 6 then
    if was = .retention then (List.range 8).foldl (fun s b => s.bankReturn b) s else s
  else if d = 7 then (List.range 12).foldl (fun s l => s.laneReturn l) s
  else if d = 8 then (List.range 52).foldl (fun s p => s.portArm p) s
  else if d = 9 then
    let s := (List.range 16).foldl (fun s n => (s.senseJoin n).ampReturn n) s
    if was = .off then (List.range 8).foldl (fun s k =>
      if s.enabled (Page.boost k) then s.boostRequest k else s) s else s
  else s

/-! ### Refusals (R393) -/

/-- A port of an ON domain is RUNNING, or a channel of an ON domain is outside OFF and LATCHED. -/
def State.outputsRun (s : State) : Bool :=
  (s.domOn 8 && (List.range 52).any (fun p => s.audState p == 2)) ||
    (s.domOn 9 && (List.range 16).any (fun n => s.ampState n != 0 && s.ampState n != 6))

/-- The cause with which a page refuses to quiesce. -/
def State.quiesceCause (s : State) (p : Nat) : Option Nat :=
  let own (b : Bool) (c : Nat) : Option Nat := if b then some c else none
  if s.inCommit p then some 1
  else match blockOf p with
    | some (.clus, c) => own (s.run && s.passList.any (fun i => s.passType i == 4 && s.passClus i == c)) 2
    | some (.frame, _) => own (s.run || s.outputsRun) 3
    | some (.amp, n) => own (s.ampState n != 0 && s.ampState n != 6) 4
    | some (.boost, k) => own (s.boostState k != 0) 4
    | some (.tdm, i) => own (s.audState i != 0) 5
    | some (.i2s, i) => own (s.audState (48 + i) != 0) 5
    | some (.ring, _) => own ([false, true].any (fun b =>
        decide (1 ≤ s.ringState b ∧ s.ringState b ≤ 3))) 6
    | some (.store, _) => own (!s.delayPasses.isEmpty) 7
    | _ => none

/-- The first page that refuses the quiescence of a domain, with its cause. RING refuses for STORE while
LANE is ON and a stream has EXT at 1. -/
def State.refuser (s : State) (d : Nat) : Option (Nat × Nat) :=
  let own := (pagesOf d).findSome? (fun p => (s.quiesceCause p).map (fun c => (p, c)))
  own.orElse fun _ =>
    if d = 6 ∧ s.domOn 7 ∧ s.streams.any (fun id => (s.streamEnt id).ext) then some (Page.ring, 7) else none

/-! ### The course of a power request (R390 to R398) -/

/-- The request's registers brought up to date: CURRENT is the domain being stopped or woken, 0 while
VDD_CORE is still being raised for the request. -/
def State.pwrView (s : State) : State :=
  let s := s.putB Page.pwr PWR.PWR_STAT.BUSY (s.pwr.phase != .idle)
  let none_ := s.pwr.phase == .idle || s.pwr.phase == .raising
  s.put Page.pwr PWR.PWR_STAT.CURRENT (if none_ then 0 else s.pwr.todo.headD 0)

/-- The state with another power request. -/
def State.withPwr (s : State) (p : Pwr) : State := { s with pwr := p }.pwrView

/-- The request ends with a result and an interrupt; a raise of VDD_CORE is released (R425). -/
def State.pwrEnd (s : State) (result irq : Nat) : State :=
  let s := { s with vcore := { s.vcore with up := none } }.withPwr Pwr.reset
  (s.put Page.pwr PWR.PWR_STAT.RESULT result).raise Page.pwr irq

/-- The wake kind of a domain and the instance of its request (R399). -/
def wakeKind (d : Nat) : Nat × Nat :=
  if d ≤ 4 then (Kind.wakeDsp, d - 1)
  else if d = 5 then (Kind.wakeMix, 5)
  else if d = 6 then (Kind.wakeStore, 6)
  else if d = 7 then (Kind.wakeLane, 7)
  else if d = 8 then (Kind.wakePort, 8)
  else (Kind.wakeAmp, 9)

/-- The record of a refusal or of a wake timeout. -/
def State.lastRefuser (s : State) (p d cause : Nat) : State :=
  let s := (s.put Page.pwr PWR.LAST_REFUSER.PAGE p).put Page.pwr PWR.LAST_REFUSER.DOMAIN d
  s.put Page.pwr PWR.LAST_REFUSER.CAUSE cause

/-- The next domain of a rollback restarts, charged at once (R392, R398), or waits for ROOT_LOCK before
it starts (R17). -/
def State.rollNext (s : State) (l : List Nat) : State :=
  match l with
  | [] => s.pwrEnd 2 1
  | d :: _ =>
    if s.flag Page.clk CLK.CLK_STAT.ROOT_LOCK then
      (s.withPwr { s.pwr with phase := .rolling, todo := l, stopped := [] }).chargeNow (wakeKind d).1 (wakeKind d).2
    else s.withPwr { s.pwr with phase := .rollRoot, todo := l, stopped := [] }

/-- A page refuses (R392, R393). -/
def State.pwrRefuse (s : State) (d p cause : Nat) : State :=
  let s := (s.bump Page.pwr PWR.REFUSE_COUNT.COUNT).lastRefuser p d cause
  if s.pwr.any then (s.bump Page.pwr PWR.ABORT_COUNT.COUNT).rollNext s.pwr.stopped
  else s.pwrEnd 3 2

/-- The stop sequence over the domains that remain (R391): a domain in RETENTION goes OFF at once; an ON
domain is asked, and freezes where no page refuses, STORE entering RETENTION after its signatures. -/
def State.stopNext (s : State) : List Nat → State
  | [] => s.pwrEnd 1 0
  | d :: rest =>
    let s := s.withPwr { s.pwr with phase := .stopping, todo := d :: rest }
    if s.domState d ≠ .on then
      let s := s.domainTo d s.pwr.target
      (s.withPwr { s.pwr with any := true }).stopNext rest
    else match s.refuser d with
      | some (p, cause) => s.pwrRefuse d p cause
      | none =>
        if d = 6 ∧ s.pwr.target = .retention then
          (s.withPwr { s.pwr with phase := .signing }).request Kind.retSig storeInst
        else (s.leaveOn d).domainTo d s.pwr.target

/-- The next domain to wake waits for ROOT_LOCK, or asks for its wake grant (R395). -/
def State.wakeNext (s : State) (l : List Nat) : State :=
  match l with
  | [] => s.pwrEnd 1 0
  | d :: _ =>
    if s.flag Page.clk CLK.CLK_STAT.ROOT_LOCK then
      (s.withPwr { s.pwr with phase := .waitGrant, todo := l }).request (wakeKind d).1 (wakeKind d).2
    else s.withPwr { s.pwr with phase := .waitRoot, todo := l }

/-- What waking a domain charges on VDD_CORE. -/
def State.coreCharge (s : State) (d : Nat) : Nat := (s.chargeOf ⟨(wakeKind d).1, (wakeKind d).2⟩ false).on 0

/-- The setpoint that the controller moves to: what the monitors call for or the raise of a request, and
no less than 0.80 V while a register slice is bypassed (R233). -/
def State.vcoreGoal (s : State) : Nat :=
  let up := match s.vcore.up with
    | some u => Nat.max u s.vcore.want
    | none => s.vcore.want
  if s.get Page.busm BUSM.SLICE_CTRL.BYPASS ≠ 0 then Nat.max 800 up else up

/-- A request toward ON begins: VDD_CORE rises first where a domain charges more than 100 units on it
(R425). -/
def State.wakeStart (s : State) (l : List Nat) : State :=
  let mv := s.get Page.busm BUSM.VCORE_SET.MV
  let up := Nat.min 850 ((if s.vcore.want = 0 then mv else s.vcoreGoal) + 20)
  if l.any (fun d => decide (100 < s.coreCharge d)) then
    let s := { s with vcore := { s.vcore with up := some up } }
    if mv < up then s.withPwr { s.pwr with phase := .raising, todo := l } else s.wakeNext l
  else s.wakeNext l

/-- The state a TARGET code names. -/
def targetOf (t : Nat) : DomState := if t = 0 then .off else if t = 1 then .retention else .on

/-- GO of PWR_REQ (R390). -/
def State.pwrGo (s : State) (mask t : Nat) : State :=
  let sel := stopOrder.filter (fun d => mask.testBit (d - 1))
  if t = 3 ∨ sel.isEmpty ∨ (t = 1 ∧ sel.any (fun d => s.domState d == .off)) then
    ((s.log Page.pwr Code.range).put Page.pwr PWR.PWR_STAT.RESULT 5).raise Page.pwr 2
  else
    let todo := sel.filter (fun d => s.domState d != targetOf t)
    let s := s.withPwr ⟨.idle, targetOf t, [], [], false⟩
    if todo.isEmpty then s.pwrEnd 1 0
    else if t = 2 then s.wakeStart todo.reverse
    else s.stopNext todo

/-- A write of PWR_REQ; one with GO while BUSY is 1 is ignored (R390). -/
def State.pwrReq (s : State) (v : Nat) : State :=
  if v.testBit 16 && s.pwrBusy then s.log Page.pwr Code.refused
  else
    let s := (s.put Page.pwr PWR.PWR_REQ.DOMAINS (bits v 0 9)).put Page.pwr PWR.PWR_REQ.TARGET (bits v 9 2)
    if v.testBit 16 then s.pwrGo (bits v 0 9) (bits v 9 2) else s

/-- PWR_REQ_GO: a write of PWR_REQ with GO set. -/
def execPwrReqGo (req : Word) (s : State) : Host.Outcome State Fault Refusal :=
  .next (s.blockWrite Page.pwr (fun s => s.pwrReq (req ||| 0x10000#32).toNat))

/-- RET_SIG_DONE: under its grant, the signatures are written, STORE freezes and the grant is released
(R227, R391). -/
def execRetSigDone (s : State) : Host.Outcome State Fault Refusal :=
  .next (if s.inReset || s.pwr.phase != .signing || !s.holds Kind.retSig storeInst then s
  else
    let s := s.signAll.release Kind.retSig storeInst
    let s := (s.leaveOn 6).domainTo 6 .retention
    s.withPwr { s.pwr with phase := .stopping })

/-- DOMAIN_STOPPED: the stop delay ends and the next domain is asked (R391). -/
def execDomainStopped (s : State) : Host.Outcome State Fault Refusal :=
  .next (if s.inReset || s.pwr.phase != .stopping then s
  else match s.pwr.todo with
    | [] => s
    | d :: rest => (s.withPwr { s.pwr with stopped := d :: s.pwr.stopped, any := true }).stopNext rest)

/-- DOMAIN_WAKE_GRANTED: the grant is held and the power switches close (R395); no wake starts while
ROOT_LOCK is 0 (R17). -/
def execDomainWakeGranted (s : State) : Host.Outcome State Fault Refusal :=
  .next (if s.inReset || s.pwr.phase != .waitGrant || !s.flag Page.clk CLK.CLK_STAT.ROOT_LOCK ||
      !s.holds (wakeKind (s.pwr.todo.headD 0)).1 (wakeKind (s.pwr.todo.headD 0)).2 then s
  else s.withPwr { s.pwr with phase := .waking })

/-- DOMAIN_WAKE_DONE: the wake delay ends, the domain is ON and gives its grant or its rollback charge
back; the next domain follows (R392, R395, R398). -/
def execDomainWakeDone (s : State) : Host.Outcome State Fault Refusal :=
  .next (if s.inReset then s
  else match s.pwr.phase, s.pwr.todo with
    | .waking, d :: rest => ((s.comeOn d).release (wakeKind d).1 (wakeKind d).2).wakeNext rest
    | .rolling, d :: rest => ((s.comeOn d).unchargeNow (wakeKind d).1 (wakeKind d).2).rollNext rest
    | _, _ => s)

/-- The state of domain `d` as DOM_STATE shows it: 3 in transition. -/
def State.domCode (s : State) (d : Nat) : Nat :=
  let moving := (s.pwr.phase == .stopping || s.pwr.phase == .waking || s.pwr.phase == .rolling) &&
    s.pwr.todo.head? == some d
  if moving then 3
  else match s.domState d with
    | .off => 0 | .retention => 1 | .on => 2

/-! ### The ledger's rows (R400, R401) -/

/-- LEDGER_GRANT: the ledger's work in one MGMT_CLK cycle. -/
def execLedgerGrant (s : State) : Host.Outcome State Fault Refusal :=
  .next (if s.inReset then s else s.ledgerCycle.scrubGranted)

/-- What follows for the requester whose grant timed out (R401). -/
def State.grantTimeout (s : State) (kind inst : Nat) : State :=
  if kind ≤ 5 then
    if s.pwr.phase = .waitGrant then (s.lastRefuser 0x04 (s.pwr.todo.headD 0) 8).pwrEnd 4 3 else s
  else if kind = Kind.laneTrain then s.trainFail inst 5
  else if kind = Kind.scrub then s.scrubLate
  else if kind = Kind.retSig then s.pwrRefuse 6 Page.store 8
  else if kind = Kind.boostRise then s.boostTimeout inst
  else s.migCancel inst 2

/-- LEDGER_TIMEOUT: a request whose deadline expires in this MGMT_CLK cycle and that its scan does not
grant (R400, R401). The requests that expire in one cycle do so after its one scan; one whose timer a SOFT_RST has
cancelled does not expire (R410). -/
def execLedgerTimeout (kind inst : Nat) (s : State) : Host.Outcome State Fault Refusal :=
  .next (if s.inReset || !s.waits kind inst || s.ledger.untimed.contains ⟨kind, inst⟩ then s
  else
    let s := if s.ledger.scanned = some s.mgmtNow then s else s.ledgerCycle.scrubGranted
    let s := { s with ledger := { s.ledger with scanned := some s.mgmtNow } }
    if s.waits kind inst then (s.ledgerExpire kind inst).grantTimeout kind inst else s)

/-! ### Thermal alarms (R402) -/

/-- The sensor with the highest reading, the lowest of those that share it. -/
def hottest (l : List Int) : Nat :=
  (List.range 8).foldl (fun m i => if l.getD m 0 < l.getD i 0 then i else m) 0

/-- One alarm follows the highest reading: set at its level, cleared 2 °C below. -/
def State.alarm (s : State) (n : Nat) (hi : Int) : State :=
  let g := Page.pwr
  let level := s.getI g (PWR.THERM_LEVEL.LEVEL n)
  let on := s.flag g (PWR.THERM_STAT.ALARM n)
  if !on && decide (level ≤ hi) then (s.putB g (PWR.THERM_STAT.ALARM n) true).raise g (4 + n)
  else if on && decide (hi ≤ level - 512) then s.putB g (PWR.THERM_STAT.ALARM n) false
  else s

/-- Whether a sensor reads outside –40 °C to +125 °C (R412). -/
def tooHotOrCold (t : Int) : Bool := decide (t < -10240 ∨ 32000 < t)

/-- THERMAL_SAMPLE: the eight sensors are read, in Q8.8 °C; outside the operating range the state of the whole
device is undefined (R8, R412). -/
def execThermalSample (temps : List Int) (s : State) : Host.Outcome State Fault Refusal :=
  .next (if s.inReset then s
  else
    let t := (List.range 8).map (fun i => (satTo 16 (temps.getD i 0)).1)
    let k := hottest t
    let hi := t.getD k 0
    let s := (s.putI Page.pwr PWR.THERM_STAT.HIGHEST hi).put Page.pwr PWR.THERM_STAT.SENSOR k
    let s := (s.alarm 1 hi).alarm 2 hi
    let s := if t.any tooHotOrCold then s.loseDevice else s
    let s := { s with dpll := { s.dpll with temps := t } }
    { s with dpll := { s.dpll with tSum := s.dpll.tSum + s.hoTemp, tCnt := s.dpll.tCnt + 1 } })

/-! ### The VDD_CORE setpoint (R425) -/

/-- Whether the management controller works: out of reset, READY, not restarting. -/
def State.mgmtRuns (s : State) : Bool := !s.inReset && s.ready && !s.mgmt.restart

/-- VCORE_EVALUATE: the speed monitors call for a setpoint; an attempt that failed is made again. -/
def execVcoreEvaluate (wantMv : Nat) (s : State) : Host.Outcome State Fault Refusal :=
  .next (if !s.mgmtRuns then s
  else { s with vcore := { s.vcore with want := Nat.max 650 (Nat.min 850 (wantMv / 5 * 5)), failed := false } })

/-- One move toward a goal, at most 10 mV. -/
def vcoreStep (cur goal : Nat) : Nat :=
  if cur < goal then Nat.min goal (cur + 10) else Nat.max goal (cur - 10)

/-- VCORE_MOVE: one VOUT_COMMAND, sent up to four times until it is acknowledged; `acks` says which are.
-/
def execVcoreMove (acks : List Bool) (s : State) : Host.Outcome State Fault Refusal :=
  let cur := s.get Page.busm BUSM.VCORE_SET.MV
  let goal := s.vcoreGoal
  .next (if !s.mgmtRuns || s.vcore.failed || cur == goal || s.vcore.want == 0 then s
  else
    let tries := acks.take 4
    let mv := vcoreStep cur goal
    let s := (tries.takeWhile (fun b => !b)).foldl (fun (s : State) (_ : Bool) => s.voutCommand false mv) s
    if tries.contains true then
      let s := (s.voutCommand true mv).put Page.busm BUSM.VCORE_SET.MV mv
      match s.pwr.phase, s.vcore.up with
      | .raising, some u =>
        if u ≤ s.get Page.busm BUSM.VCORE_SET.MV then s.wakeNext s.pwr.todo else s
      | _, _ => s
    else { s with vcore := { s.vcore with failed := true } })

end Sys2Proof.Machine
end

