-- ==== Sys2Proof/Machine/Reset.lean ====
section
/-! DEFINITION. Reset of the device (R423, R435), the root PLL and XO_IN (R17, R18), and boot (R55). -/

namespace Sys2Proof.Machine

/-- The state after a reset of the whole device: every register and memory as after power-on; what stays
is the boot flash with its preferred slot, the OTP key and counter, the pins' input levels and boundary
scan, and the commands that wait. -/
def State.afterReset (s : State) : State :=
  let r := State.reset
  let r := { r with
    pending := s.pending
    freeCtr := s.freeCtr
    mgmt := { r.mgmt with
      flash := s.mgmt.flash, prefB := s.mgmt.prefB, key := s.mgmt.key, rollback := s.mgmt.rollback }
    pins := { r.pins with
      extest := s.pins.extest, drive := s.pins.drive, rstLow := s.pins.rstLow, rstDev := s.pins.rstDev } }
  let r := r.putB Page.dev DEV.DBG_STAT.KEY_SET s.mgmt.key.isSome
  r.put Page.gpio GPIO.GPIO_IN.IN (s.get Page.gpio GPIO.GPIO_IN.IN)

/-- The device enters reset, or stays in it. -/
def State.enterReset (s : State) : State := { s.afterReset with inReset := true }

/-- The device leaves reset once neither RESET_N nor a DEV_RST holds it. -/
def State.leaveReset (s : State) : State :=
  if s.pins.rstLow || s.pins.rstDev then s else { s.afterReset with inReset := false }

/-- RESET_N_LOW: a low level of `ns` nanoseconds so far. Below 1 µs it changes nothing, from 2 µs on it
resets the device; between the two it does one or the other (R423). -/
def execResetNLow (ns : Nat) (s : State) : Host.Outcome State Fault Refusal :=
  let hit (s : State) : State := { s with pins := { s.pins with rstLow := true } }.enterReset
  .next (if ns < 1000 then s
  else if 2000 ≤ ns then hit s
  else
    let fr := s.draw
    if fr.1.getLsbD 0 then hit fr.2 else fr.2)

/-- RESET_N_RISE: the device leaves reset and boots (R55); while the 10 µs of a DEV_RST run, it stays in
reset until they end. -/
def execResetNRise (s : State) : Host.Outcome State Fault Refusal :=
  .next (if !s.inReset then s
  else { s with pins := { s.pins with rstLow := false } }.leaveReset)

/-- A write of DEV_RST (R435): the key resets the device, any other value is RANGE. -/
def State.devRst (s : State) (key : Nat) : State :=
  if key = 0xA5C3 then { s with pins := { s.pins with rstDev := true } }.enterReset
  else s.log Page.dev Code.range

/-- DEV_RST. -/
def execDevRst (key : Word) (s : State) : Host.Outcome State Fault Refusal :=
  .next (s.blockWrite Page.dev (fun s => s.devRst key.toNat))

/-- DEV_RST_RELEASE: the 10 µs expire; a RESET_N that is low keeps the device in reset (R435). -/
def execDevRstRelease (s : State) : Host.Outcome State Fault Refusal :=
  .next (if !s.pins.rstDev then s
  else { s with pins := { s.pins with rstDev := false } }.leaveReset)

/-- ROOT_PLL_LOCK: ROOT_LOCK is set; a wake that waited for it asks for its grant, a restart of a
rollback that waited for it begins (R17). -/
def execRootPllLock (s : State) : Host.Outcome State Fault Refusal :=
  .next (if s.inReset then s
  else
    let s := s.putB Page.clk CLK.CLK_STAT.XO_ACTIVE true
    let s := s.putB Page.clk CLK.CLK_STAT.ROOT_LOCK true
    if s.pwr.phase = .waitRoot then s.wakeNext s.pwr.todo
    else if s.pwr.phase = .rollRoot then s.rollNext s.pwr.todo
    else s)

/-- Every switched domain that is ON lies outside R7 from here: its state is undefined (R8, R412). -/
def State.loseDomains (s : State) : State :=
  let ds := (List.range 10).filter (fun d => decide (1 ≤ d) && s.domOn d)
  { s with undef := Tab.puts false s.undef (ds.map (fun d => (d, true))) }

/-- ROOT_UNLOCK: the root PLL loses lock after it had locked (R18). -/
def execRootUnlock (s : State) : Host.Outcome State Fault Refusal :=
  .next (if s.inReset || !s.flag Page.clk CLK.CLK_STAT.ROOT_LOCK then s
  else ((s.putB Page.clk CLK.CLK_STAT.ROOT_LOCK false).raise Page.clk 0).loseDomains)

/-- XO_LOSS: activity on XO_IN stops (R18). -/
def execXoLoss (s : State) : Host.Outcome State Fault Refusal :=
  .next (if s.inReset then s
  else ((s.putB Page.clk CLK.CLK_STAT.XO_ACTIVE false).raise Page.clk 1).loseDomains)

/-- A setpoint within the range and steps of R425. -/
def vcoreRange (mv : Nat) : Nat := Nat.min 850 (Nat.max 650 mv) / 5 * 5

/-- The controller starts from a slot: VOUT_MODE is read and VDD_CORE set over PMBus, then READY (R55, R425). -/
def State.bootFrom (s : State) (b : Bool) (mv : Nat) : State :=
  let g := Page.mgmt
  let s := (s.voutMode.voutCommand true (vcoreRange mv)).put Page.busm BUSM.VCORE_SET.MV (vcoreRange mv)
  let s := { s with vcore := { s.vcore with want := vcoreRange mv } }
  let s := (s.putB g MGMT.BOOT_STAT.RUN_SLOT b).put g MGMT.BOOT_STAT.MODE 1
  s.putB g MGMT.BOOT_STAT.READY true

/-- BOOT_READY: the preferred slot is verified, then the other if it fails; with neither valid the
controller enters RECOVERY (R55, R61). `vcoreMv` is the initial VDD_CORE setpoint that it finds. -/
def execBootReady (vcoreMv : Nat) (s : State) : Host.Outcome State Fault Refusal :=
  .next (if s.inReset || s.bootMode != 0 then s
  else
    let p := s.mgmt.prefB
    let ok (b : Bool) : Bool := s.imageValid b
    let s := s.slotSeen p (ok p)
    if ok p then s.bootFrom p vcoreMv
    else
      let s := s.slotSeen (!p) (ok (!p))
      if ok (!p) then s.bootFrom (!p) vcoreMv
      else s.put Page.mgmt MGMT.BOOT_STAT.MODE 2)

end Sys2Proof.Machine
end

