-- ==== Sys2Proof/Machine/Sched.lean ====
section
/-! DEFINITION. Scheduled actions (R337 to R341, R439): arming, disarming and execution. -/

namespace Sys2Proof.Machine

/-- TYPE of entry k. -/
def State.actType (s : State) (k : Nat) : Nat := s.get Page.sched (SCHED.ACT_CTRL.TYPE k)

/-- Whether entry k is armed. -/
def State.actArmed (s : State) (k : Nat) : Bool := s.flag Page.sched (SCHED.ACT_CTRL.ARMED k)

/-- Whether entry k counts in NT rather than in cycles. -/
def State.actBase (s : State) (k : Nat) : Bool := s.flag Page.sched (SCHED.ACT_CTRL.BASE k)

/-- The present cycle number, or NT in nanoseconds, as the entry's BASE has it. -/
def State.actNow (s : State) (k : Nat) : Nat := if s.actBase k then s.nt else s.cycle

/-- The due instant of entry k (R337). -/
def State.actDue (s : State) (k : Nat) : Nat :=
  let t := s.get Page.sched (SCHED.ACT_TARGET.TARGET k)
  if s.actType k = 1 then (t + 2 ^ 32 - (if s.actBase k then 625000 else 60)) % 2 ^ 32 else t

/-! ### Writes of ACTk_CTRL (R338, R339, R439) -/

/-- ARM of an entry that is not armed (R338, R340). -/
def State.actArm (s : State) (k : Nat) : State :=
  let g := Page.sched
  let s : State := [SCHED.ACT_CTRL.FIRED k, SCHED.ACT_CTRL.LATE k, SCHED.ACT_CTRL.REFUSED k,
    SCHED.ACT_CTRL.CANCELLED k].foldl (fun (s : State) (f : Fld) => s.putB g f false) s
  if s.actType k = 0 ∨ 8 ≤ s.actType k then s.log g Code.range
  else if (s.actDue k + 2 ^ 33 - s.actNow k - 1) % 2 ^ 32 < 2 ^ 31 then
    s.putB g (SCHED.ACT_CTRL.ARMED k) true
  else if s.flag g (SCHED.ACT_CTRL.STRICT k) then
    let s := (s.putB g (SCHED.ACT_CTRL.REFUSED k) true).bump g SCHED.SCHED_REFUSED_COUNT.COUNT
    (s.log g Code.late).raise g 2
  else
    let s := (s.putB g (SCHED.ACT_CTRL.LATE k) true).bump g SCHED.SCHED_LATE_COUNT.COUNT
    s.putB g (SCHED.ACT_CTRL.ARMED k) true

/-- A write of ACTk_CTRL (R439). -/
def State.actCtrl (s : State) (k v : Nat) : State :=
  let g := Page.sched
  let s := if v.testBit 7 then s.putB g (SCHED.ACT_CTRL.ARMED k) false else s
  if s.actArmed k then
    let same := s.actType k == bits v 0 4 && s.actBase k == v.testBit 4 &&
      s.flag g (SCHED.ACT_CTRL.STRICT k) == v.testBit 5
    let s := if same then s else s.log g Code.refused
    if v.testBit 6 then s.log g Code.refused else s
  else
    let s := s.put g (SCHED.ACT_CTRL.TYPE k) (bits v 0 4)
    let s := s.putB g (SCHED.ACT_CTRL.BASE k) (v.testBit 4)
    let s := s.putB g (SCHED.ACT_CTRL.STRICT k) (v.testBit 5)
    if v.testBit 6 then s.actArm k else s

/-- ARM: a write of ACTk_CTRL with ARM set. -/
def execArm (k : Nat) (ctrl : Word) (s : State) : Host.Outcome State Fault Refusal :=
  .next (if 64 ≤ k then s
  else s.blockWrite Page.sched (fun s => s.actCtrl k (ctrl ||| 0x40#32).toNat))

/-- DISARM: a write of ACTk_CTRL with DISARM set. -/
def execDisarm (k : Nat) (ctrl : Word) (s : State) : Host.Outcome State Fault Refusal :=
  .next (if 64 ≤ k then s
  else s.blockWrite Page.sched (fun s => s.actCtrl k (ctrl ||| 0x80#32).toNat))

/-! ### Execution (R339 to R341) -/

/-- The cycle number, or NT, at the Fs tick that comes next, as the entry's BASE has it. -/
def State.actAtTick (s : State) (k : Nat) : Nat :=
  if s.actBase k then { s.time with phase := s.tickPhase }.nt else s.cycle

/-- Whether entry k is due at the Fs tick that comes next: an armed entry whose due instant has been reached by
then, or at a frame boundary where it was armed late. -/
def State.actReady (s : State) (k : Nat) : Bool :=
  s.actArmed k && (if s.flag Page.sched (SCHED.ACT_CTRL.LATE k) then s.boundary
    else s.nextTick.isSome && decide ((s.actAtTick k + 2 ^ 32 - s.actDue k) % 2 ^ 32 < 2 ^ 31))

/-- Whether entry k executes now: it is due and of this type, and no lower entry is due at the same tick, for
entries execute in increasing order (R339). -/
def State.actFires (s : State) (k ty : Nat) : Bool :=
  !s.inReset && decide (k < 64) && s.actReady k && s.actType k == ty && !(List.range k).any s.actReady

/-- What every execution leaves in the entry (R339). -/
def State.actDone (s : State) (k : Nat) : State :=
  let g := Page.sched
  let s := (s.putB g (SCHED.ACT_CTRL.ARMED k) false).putB g (SCHED.ACT_CTRL.FIRED k) true
  let s := (s.put g (SCHED.ACT_DONE.CYCLE k) s.cycle).put g SCHED.LAST_FIRED.ENTRY k
  let s := s.raise g 0
  if s.flag g (SCHED.ACT_CTRL.LATE k) then s.raise g 1 else s

/-- An action refused at its execution (R341). -/
def State.actRefused (s : State) (k : Nat) : State :=
  let g := Page.sched
  let s := (s.putB g (SCHED.ACT_CTRL.ARMED k) false).putB g (SCHED.ACT_CTRL.REFUSED k) true
  (s.bump g SCHED.SCHED_REFUSED_COUNT.COUNT).raise g 2

/-- ACTk_ARG. -/
def State.actArg (s : State) (k : Nat) : Nat := s.get Page.sched (SCHED.ACT_ARG.ARG k)

/-- A COMMIT action: COMMIT_CTRL, the target and GO (R340, R341, R394). -/
def State.actCommit (s : State) (k : Nat) : State :=
  if s.commitPending then (s.log Page.dev Code.refused).actRefused k
  else if s.pwrBusy then s.actRefused k
  else
    let t := s.get Page.sched (SCHED.ACT_TARGET.TARGET k)
    let base := s.actBase k
    let s := s.put Page.dev (if base then DEV.COMMIT_TIME.TIME else DEV.COMMIT_CYCLE.CYCLE) t
    let strict := if s.flag Page.sched (SCHED.ACT_CTRL.STRICT k) then 0x20000 else 0
    (s.commitCtrl (s.actArg k % 256 + (if base then 0x200 else 0x100) + 0x10000 + strict)).actDone k

/-- SCHED_COMMIT. -/
def execSchedCommit (k : Nat) (s : State) : Host.Outcome State Fault Refusal :=
  .next (if s.actFires k 1 then s.actCommit k else s)

/-- SCHED_PORT_START: the ports of one start group (R340, R357). -/
def execSchedPortStart (k : Nat) (s : State) : Host.Outcome State Fault Refusal :=
  .next (if s.actFires k 2 then (s.portStartGroups (2 ^ (s.actArg k % 8))).actDone k else s)

/-- SCHED_PHASE_STEP: PSTEP takes ARG, and GO (R340, R322). -/
def execSchedPhaseStep (k : Nat) (s : State) : Host.Outcome State Fault Refusal :=
  .next (if s.actFires k 3 then
      let s := s.put Page.ref REF.PSTEP.PS (s.actArg k)
      (s.pstepCtrl (s.get Page.ref REF.PSTEP_CTRL.RATE * 256 + 1)).actDone k
    else s)

/-- MUTE set or cleared on the channels that ARG names. -/
def State.actMute (s : State) (k : Nat) (on : Bool) : State :=
  let l := if s.domOn 9 then (List.range 16).filter (fun n => (s.actArg k).testBit n) else []
  (l.foldl (fun s n => s.muteSet n on) s).actDone k

/-- SCHED_MUTE. -/
def execSchedMute (k : Nat) (s : State) : Host.Outcome State Fault Refusal :=
  .next (if s.actFires k 4 then s.actMute k true else s)

/-- SCHED_UNMUTE. -/
def execSchedUnmute (k : Nat) (s : State) : Host.Outcome State Fault Refusal :=
  .next (if s.actFires k 5 then s.actMute k false else s)

/-- SCHED_TRUNK_INSERT: INS_A and INS_B set as a host write does (R340, R301). -/
def execSchedTrunkInsert (k : Nat) (s : State) : Host.Outcome State Fault Refusal :=
  .next (if s.actFires k 6 then
      let set (b : Bool) (s : State) : State :=
        if (s.actArg k).testBit (if b then 1 else 0) then s.insSet b else s
      (s.blockWrite Page.ring (fun s => set true (set false s))).actDone k
    else s)

/-- SCHED_USER_EVENT. -/
def execSchedUserEvent (k : Nat) (s : State) : Host.Outcome State Fault Refusal :=
  .next (if s.actFires k 7 then
      ((s.put Page.sched SCHED.USER_ARG.ARG (s.actArg k)).raise Page.sched 3).actDone k
    else s)

end Sys2Proof.Machine
end

