-- ==== Sys2Proof/Machine/SoftRst.lean ====
section
/-! DEFINITION. SOFT_RST of each block: its active and shadow registers return to their reset values, and
what runs in the block is cancelled (R22, R36, R236, R241, R384, R410, R437, R438, log entry 70). -/

namespace Sys2Proof.Machine

/-- The block registers of a page, active and shadow, at their reset values, but for the fields that `keep`
names. Headers, tables and SHADOW_DIRTY stay. -/
def State.resetRegs (s : State) (p : Nat) (keep : List Fld) : State :=
  let lo := (p * 0x1000 + 0x40) * 32
  let hi := (p + 1) * 0x1000 * 32
  let old := keep.map (fun f => (f, s.get p f))
  let s := { s with fld := Tab.clear s.fld lo hi, shadow := Tab.clear s.shadow lo hi,
                    staged := Tab.clear s.staged lo hi }
  old.foldl (fun (s : State) (e : Fld × Nat) => s.put p e.1 e.2) s

/-- The fields of the register at a page offset; none where it has none. -/
def fldsAt (p off : Nat) : List Fld := (regAt p off).getD []

/-- The fields of several registers of a page. -/
def fldsOf (p : Nat) (offs : List Nat) : List Fld := offs.flatMap (fldsAt p)

/-- Whether FS_SEL accepts a change: DSP0–DSP3, MIX, PORT and AMP are all OFF (R22). -/
def State.fsFree (s : State) : Bool := [1, 2, 3, 4, 5, 8, 9].all (fun d => s.domCode d == 0)

/-- A write of CLK_CTRL (R22). -/
def State.fsSel (s : State) (v : Nat) : State :=
  if bits v 0 2 = 3 then s.log Page.clk Code.range
  else if bits v 0 2 = s.get Page.clk CLK.CLK_CTRL.FS_SEL then s
  else if s.fsFree then s.put Page.clk CLK.CLK_CTRL.FS_SEL v
  else s.log Page.clk Code.refused

/-- FS_SEL_WRITE. -/
def execFsSelWrite (value : Word) (s : State) : Host.Outcome State Fault Refusal :=
  .next (s.blockWrite Page.clk (fun s => s.fsSel value.toNat))

/-- FS_CHANGE_APPLY: an accepted rate change takes effect (R22). -/
def execFsChangeApply (s : State) : Host.Outcome State Fault Refusal :=
  .next (if s.inReset then s else s.fsApply)

/-- MCLK_SEL_APPLY: the selections of the clock outputs take effect (R23). -/
def execMclkSelApply (s : State) : Host.Outcome State Fault Refusal :=
  let word (n : Nat) (f : Nat → Fld) : Nat :=
    ((List.range n).map (fun i => s.get Page.clk (f i) * 4 ^ i)).sum
  .next (if s.inReset then s
  else { s with pins := { s.pins with
    mclk := word 8 CLK.MCLK_CTRL.MCLK_SEL, wclk := word 2 CLK.WCLK_CTRL.WCLK_SEL } })

/-- What follows a change of ROLE, of the selection mode or of a reference's configuration: every reference
judged again, the selection brought up to date (R308 to R312). -/
def State.refsAgain (s : State) : State :=
  (allRefs.foldl (fun (s : State) (k : Nat) =>
    let s := if isPortRef k then s.portQuality k else s
    (if s.refEn k then s else s.setActive k false).judge k false) s).reselect.timeSrcView

/-- SOFT_RST of the REF page: the DPLL starts again in FREE_RUN, without a reference. -/
def State.softRef (s : State) : State :=
  let d := s.dpll
  let s := s.resetRegs Page.ref []
  { s with dpll := { Dpll.reset with
      align := d.align, master := d.master, stepSeq := d.stepSeq, ppsHigh := d.ppsHigh
      temps := d.temps } }.timeSrcView

/-- SOFT_RST of the NTIME page (R438): all but the STEP_SEQ that the node sends returns to reset, and the
references are judged with the reset HOPS_MAX. TIME_SRC_STAT shows the selection that goes on. -/
def State.softNtime (s : State) : State :=
  let g := Page.ntime
  let s := s.resetRegs g [NTIME.NT_STAT.STEP_SEQ]
  { s with dpll := { s.dpll with align := none, ppsHigh := 0 } }.refsAgain

/-- SOFT_RST of the STORE page (R437). -/
def State.softStore (s : State) : State :=
  let s := if s.scrubbing || s.waits Kind.scrub storeInst then s.scrubStop else s
  s.resetRegs Page.store (fldsOf Page.store ([0x40, 0x44] ++ (List.range 8).map (fun k => 0x80 + 4 * k)))

/-- A power request in progress is cancelled (R410): its grant or the charge of its rollback is given back, a raise
of VDD_CORE is released, and the domains stay in the states that they have reached. -/
def State.pwrCancel (s : State) : State :=
  let k := wakeKind (s.pwr.todo.headD 0)
  if s.pwr.phase = .idle then s
  else
    let s := match s.pwr.phase with
      | .waitGrant | .waking => s.release k.1 k.2
      | .rolling => s.unchargeNow k.1 k.2
      | .signing => s.release Kind.retSig storeInst
      | _ => s
    { s with vcore := { s.vcore with up := none } }.withPwr Pwr.reset

/-- SOFT_RST of the PWR page: a power request in progress is cancelled, and the timers of the requests that wait
in the ledger (R410); grants and waiting requests stay. -/
def State.softPwr (s : State) : State :=
  let g := Page.pwr
  let s := s.pwrCancel
  let s := { s with ledger := { s.ledger with untimed := s.ledger.queue ++ s.ledger.fresh } }
  (s.resetRegs g (fldsOf g [0x44, 0x48, 0x184] ++ (List.range 8).map PWR.INUSE.UNITS)).ledgerView.pwrView

/-- SOFT_RST of a lane's page: the lane is disabled and starts again if it is enabled. -/
def State.softLane (s : State) (l : Nat) : State :=
  let s := s.laneDisable l
  let s := (s.resetRegs (Page.lane l) []).setLane l Lane.reset
  if s.enabled (Page.lane l) then s.newSequence l Phase.detect else s

/-- SOFT_RST of a trunk's or spur's page: counters and service messages; the port's state follows its
lanes and stays. -/
def State.softPort (s : State) (p : Nat) : State :=
  let g := portPage p
  let s := s.resetRegs g (fldsOf g [0x40, 0x44, 0x48])
  s.setPort p { s.port p with svcOut := [], svcRx := [] }

/-- SOFT_RST of the RING page: it acts as clearing INS_A and INS_B. -/
def State.softRing (s : State) : State :=
  let s := (s.masterReset .ring false).insClear false
  let s := (s.insClear true).resetRegs Page.ring []
  { s with ring := { Ring.reset with ports := s.ring.ports } }

/-- SOFT_RST of an audio port's page: the port stops. -/
def State.softAudio (s : State) (p : Nat) : State :=
  let s := if s.audState p = 0 then s else s.portHalt p
  (s.resetRegs (audioPage p) []).setAud p Audio.reset

/-- SOFT_RST of an amplifier channel's page acts as EN at 0 (R384): the channel is OFF at the end of its
carrier period. -/
def State.softAmp (s : State) (n : Nat) : State :=
  let g := Page.amp n
  let s := s.ampStop n
  let s := (s.muteSet n false).windowSpoil n
  s.resetRegs g (fldsOf g [0x8C])

/-- SOFT_RST of a cluster's page: its migration is cancelled, its bus port reset. -/
def State.softClus (s : State) (c : Nat) : State :=
  let s := s.masterReset (.clus c) false
  let s := s.migCancel c 0
  s.resetRegs (Page.clus c) (fldsOf (Page.clus c) [0x4C, 0x50, 0x54])

/-- SOFT_RST of a core's page: the core is disabled; its memories stay. A following spare's core and page take
the same change (R158). -/
def State.softIbex (s : State) (n : Nat) : State :=
  (s.onCorePage n (fun s p => s.resetRegs p [])).setCore n Core.reset

/-- SOFT_RST of the FRAME page: RUN is 0, the sequencer is empty; Fs ticks go on. -/
def State.softFrame (s : State) : State :=
  { s.resetRegs Page.frame [] with
    fseq := { FrameSeq.reset with tick := s.fseq.tick, ticksDone := s.fseq.ticksDone } }

/-- SOFT_RST of the DEV page: a pending commit is cancelled; the debug level holds until a device reset
(R71). -/
def State.softDev (s : State) : State :=
  { s.resetRegs Page.dev (fldsOf Page.dev [0x68]) with commit := CommitReq.reset }

/-- SOFT_RST of a page whose domain is ON. For a page of the frame path, the configuration of the last commit
governs from here on. -/
def State.softRst (s : State) (p : Nat) : State :=
  let s := if passPages.contains p then s.takeUp else s
  match blockOf p with
  | none => s
  | some (.dev, _) => s.softDev
  | some (.host, _) => (s.masterReset .pcie false).resetRegs p (fldsOf p [0x40])
  | some (.mgmt, _) => (s.masterReset .mgmt false).resetRegs p (fldsOf p [0x40, 0x4C])
  | some (.pwr, _) => s.softPwr
  | some (.gpio, _) => s.resetRegs p (fldsOf p [0x40, 0x44, 0x50, 0x54, 0x58])
  | some (.clk, _) =>
    (s.resetRegs p (fldsOf p [0x40, 0x44])).fsSel 1
  | some (.ref, _) => s.softRef
  | some (.ntime, _) => s.softNtime
  | some (.busm, _) => (s.retriesEnd.resetRegs p [BUSM.VCORE_SET.MV]).outstView
  | some (.store, _) => s.softStore
  | some (.dma, e) => (s.dmaCancel e).resetRegs p []
  | some (.frame, _) => s.softFrame
  | some (.oryx, _) => { (s.masterReset .oryx false).resetRegs p [] with oryx := ⟨[], [], [], []⟩ }
  | some (.meter, _) => { s.resetRegs p [] with meters := [] }
  | some (.eq, _) => { (s.masterReset .eq false).resetRegs p [] with eqSecs := [] }
  | some (.delay, _) => { (s.masterReset .delay false).resetRegs p [] with delay := Delay.reset }
  | some (.clus, c) => s.softClus c
  | some (.ibex, n) => s.softIbex n
  | some (.ring, _) => s.softRing
  | some (.trunk, t) => s.softPort t
  | some (.spur, k) => s.softPort (4 + k)
  | some (.lane, l) => s.softLane l
  | some (.tdm, q) => s.softAudio q
  | some (.i2s, q) => s.softAudio (48 + q)
  | some (.ampc, _) => (s.calAbort (s.get p AMPC.CAL_STAT.LAST_CHAN)).resetRegs p [AMPC.DRV_EN_STAT.DRIVEN]
  | some (.amp, n) => s.softAmp n
  | some (.boost, k) => (s.boostOff k).resetRegs p [BOOST.BOOST_STAT.RAIL]
  | some (.irq, _) => s.resetRegs p []
  | some (.i2cm, _) => s.resetRegs p []
  | some (.sched, _) => s.resetRegs p []

/-- A SOFT_RST written: refused for a page of a pending commit (R44), without effect on a block that is
not ON. -/
def State.softReq (s : State) (p : Nat) : State :=
  if s.inCommit p then s.log p Code.refused
  else if s.pageOn p then s.softRst p
  else s

/-! ### SYNC (R42) -/

/-- A SYNC written: refused for a page of a pending commit and for a core whose program sets are being
exchanged; the copy takes time. -/
def State.syncReq (s : State) (p : Nat) : State :=
  let swapping := match blockOf p with
    | some (.ibex, n) => (s.core n).swapPend
    | _ => false
  if s.inCommit p || swapping then s.log p Code.refused
  else if !s.pageOn p || !hasTables p || s.syncing p then s
  else (s.putB p HDR.PAGE_CTRL.SYNC true).putB p HDR.PAGE_STAT.BUSY true

/-- The active copy of a page's table or program set copied over the shadow copy; of a migrating source's
core also in its spare (R158). -/
def State.syncCopy (s : State) (p : Nat) : State :=
  match pageTables p with
  | none => s
  | some (a, b, n) =>
    let src := if s.activeSet p = 0 then a else b
    let dst := if s.activeSet p = 0 then b else a
    let one (s : State) (src dst : Nat) : State :=
      { s with mem := Tab.copy s.mem src dst n, ecc := Tab.clear s.ecc (dst / 4) ((dst + n) / 4) }
    let s := one s src dst
    if a < 0x20000000 then s
    else match s.memMirror (clusOfAddr a) with
      | some k => one s src (mirrorAddr dst k)
      | none => s

/-- SYNC_DONE: the copy is complete; what the page's shadow registers hold stays pending. -/
def execSyncDone (page : Nat) (s : State) : Host.Outcome State Fault Refusal :=
  .next (if s.inReset || !s.pageOn page || !s.syncing page then s
  else
    let s := s.syncCopy page
    { (s.putB page HDR.PAGE_CTRL.SYNC false).putB page HDR.PAGE_STAT.BUSY false with
      dirtyTab := Tab.put false s.dirtyTab page false })

/-- SOFT_RST: a write of PAGE_CTRL.SOFT_RST. -/
def execSoftRst (page : Nat) (s : State) : Host.Outcome State Fault Refusal :=
  .next (if (blockOf page).isNone then s else s.ctrlWrite page (fun s => s.softReq page))

/-- SYNC: a write of PAGE_CTRL.SYNC. -/
def execSync (page : Nat) (s : State) : Host.Outcome State Fault Refusal :=
  .next (if (blockOf page).isNone then s else s.ctrlWrite page (fun s => s.syncReq page))

end Sys2Proof.Machine
end

