-- ==== Sys2Proof/Machine/RegWrite.lean ====
section
/-! DEFINITION. What a 32-bit write does to a register that it reaches (R36, R39): the generic write of
fields, and the registers whose writes act. The checks before it (unmapped, shape, READY, domain, lock)
are in Access.lean. -/

namespace Sys2Proof.Machine

/-! ### Fields -/

/-- The RW and W1C fields of a register written. -/
def State.plainWrite (s : State) (p : Nat) (flds : List Fld) (v : Nat) : State :=
  flds.foldl (fun (s : State) (f : Fld) => match f.ty with
    | .rw => s.put p f (bits v f.lo f.w)
    | .w1c =>
      let old := s.get p f
      s.put p f (old - (old &&& bits v f.lo f.w))
    | _ => s) s

/-- A register written field by field: RW fields at once, shadowed fields into their shadow copies (R36,
R39). -/
def State.fieldWrite (s : State) (p : Nat) (flds : List Fld) (v : Nat) : State :=
  let s := s.plainWrite p flds v
  let sh := flds.filter (fun f => f.ty == .rws)
  if sh.isEmpty then s else s.shadowWrite p (sh.map (fun f => (f, bits v f.lo f.w)))

/-! ### Registers whose writes act -/

/-- A write that is accepted only while a condition holds, else ignored with REFUSED. -/
def State.onlyIf (s : State) (p : Nat) (ok : Bool) (f : State → State) : State :=
  if ok then f s else s.log p Code.refused

/-- NT_CTRL: the fields, a change of ROLE, then ALIGN and SET with the ROLE just written (R312, R333,
R334, R336). -/
def State.ntCtrl (s : State) (v : Nat) : State :=
  let was := (s.isMaster, s.get Page.ntime NTIME.NT_CTRL.HOPS_MAX)
  let s := s.plainWrite Page.ntime (fldsAt Page.ntime 0x40) v
  let s := if s.flag Page.ntime NTIME.NT_CTRL.PPS_OUT_EN then s
    else { s with dpll := { s.dpll with ppsHigh := 0 } }
  let s := if was = (s.isMaster, s.get Page.ntime NTIME.NT_CTRL.HOPS_MAX) then s else s.refsAgain
  let s := if v.testBit 1 then s.alignReq else s
  if v.testBit 2 then s.setReq else s

/-- REFk_CFG: a port's reference is active as its time lane is; every reference is judged again. -/
def State.refCfg (s : State) (k v : Nat) : State :=
  let was := s.phaseAlign k
  let s := s.plainWrite Page.ref (fldsAt Page.ref (0x100 + 8 * k)) v
  let s := if s.selected = some k ∧ s.phaseAlign k ≠ was then
    { s with dpll := { s.dpll with built := s.builtFor k } } else s
  let s := if isPortRef k then s.portActivity (k - 4) else s
  s.refsAgain

/-- Writes of the clock, reference, time and scheduling pages. -/
def State.writeClock (s : State) (b : Block) (off v : Nat) (flds : List Fld) : State :=
  match b with
  | .clk => if off = 0x40 then s.fsSel v else s.plainWrite Page.clk flds v
  | .ref =>
    if off = 0x94 then s.pstepCtrl v
    else if off = 0x98 then s.numFreqWrite (Word.ofNat v)
    else if off = 0x9C then s.numPhaseWrite (Word.ofNat v)
    else if 0x100 ≤ off ∧ off < 0x180 ∧ off % 8 = 0 then s.refCfg ((off - 0x100) / 8) v
    else
      let s := s.plainWrite Page.ref flds v
      if off = 0x40 ∨ off = 0x50 ∨ off = 0x54 ∨ off = 0x5C then s.refsAgain else s
  | .ntime => if off = 0x40 then s.ntCtrl v else s.plainWrite Page.ntime flds v
  | _ =>
    let k := (off - 0x100) / 16
    if off < 0x100 then s
    else if off % 16 = 0 then s.actCtrl k v
    else if off % 16 = 12 then s
    else s.onlyIf Page.sched (!s.actArmed k) (fun s => s.plainWrite Page.sched flds v)

/-- SLICE_CTRL: a BYPASS bit is accepted only while VCORE_SET is at least 800 mV (R233). -/
def State.sliceCtrl (s : State) (v : Nat) : State :=
  if bits v 0 16 ≠ 0 ∧ s.get Page.busm BUSM.VCORE_SET.MV < 800 then s.log Page.busm Code.refused
  else s.put Page.busm BUSM.SLICE_CTRL.BYPASS v

/-- SLICE_CTRL_WRITE. -/
def execSliceCtrlWrite (value : Word) (s : State) : Host.Outcome State Fault Refusal :=
  .next (s.blockWrite Page.busm (fun s => s.sliceCtrl value.toNat))

/-- MSIX_CTRL: an unmasked vector's waiting message goes out (R52, R59). -/
def State.msixCtrl (s : State) (flds : List Fld) (v : Nat) : State :=
  let s := s.plainWrite Page.host flds v
  if v.testBit 0 then s else s.sendWaiting

/-- I²C registers: REFUSED while a transaction runs; I2CM0 is the management controller's (R66, R67). -/
def State.i2cWrite (s : State) (by_ : Master) (m off v : Nat) (flds : List Fld) : State :=
  let g := Page.i2cm m
  if m = 0 ∧ by_ ≠ .mgmt then s.log g Code.refused
  else if off = 0x44 then s.i2cCmd m v
  else if off = 0x40 ∨ (0x80 ≤ off ∧ off < 0xA0) then
    s.onlyIf g (!s.i2cBusy m) (fun s => s.plainWrite g flds v)
  else s

/-- Writes of the device, host, management, interrupt, power, GPIO and I²C pages. -/
def State.writeDevice (s : State) (by_ : Master) (b : Block) (inst off v : Nat) (flds : List Fld) : State :=
  match b with
  | .dev =>
    if off = 0x40 then s.commitCtrl v
    else if off = 0x60 then s.devRst v
    else s.plainWrite Page.dev flds v
  | .host =>
    if 0x800 ≤ off ∧ off % 16 = 0xC then s.msixCtrl flds v else s.plainWrite Page.host flds v
  | .mgmt =>
    if off = 0x48 then s.mbxCmd v
    else if 0x100 ≤ off then s.mbxData ((off - 0x100) / 4) v
    else s
  | .irq =>
    if off = 0x70 then s.endService 0 v
    else if off = 0x74 then s.endService 1 v
    else (s.plainWrite Page.irq flds v).pbaSettle
  | .pwr =>
    if off = 0x40 then s.pwrReq v
    else
      let s := s.plainWrite Page.pwr flds v
      if 0x100 ≤ off ∧ off < 0x120 then s.ledgerView else s
  | .gpio =>
    if off = 0x48 then s.gpioSet v
    else if off = 0x4C then s.gpioClr v
    else s.plainWrite Page.gpio flds v
  | _ => s.i2cWrite by_ inst off v flds

/-- DMA registers: RUN becoming 0 raises STOPPED; RING_HEAD above RING_SIZE is RANGE (R237). -/
def State.dmaWrite (s : State) (e off v : Nat) (flds : List Fld) : State :=
  let g := Page.dma e
  if off = 0x4C ∧ s.get g DMA.RING_SIZE.SIZE < bits v 0 12 then s.log g Code.range
  else
    let was := s.flag g DMA.DMA_CTRL.RUN
    let s := s.plainWrite g flds v
    if was && !s.flag g DMA.DMA_CTRL.RUN then s.raise g 2 else s

/-- CLUS_CTRL.SPARE: not while the cluster stands in the active pass list or takes part in a migration. -/
def State.spareWrite (s : State) (c v : Nat) : State :=
  let inList := s.passList.any (fun i => s.passType i == 4 && s.passClus i == c)
  s.onlyIf (Page.clus c) (!inList && s.migState c == 0)
    (fun s => s.putB (Page.clus c) CLUS.CLUS_CTRL.SPARE (v.testBit 0))

/-- Writes of the bus, memory and DMA pages and of the clusters. -/
def State.writeBus (s : State) (b : Block) (inst off v : Nat) (flds : List Fld) : State :=
  match b with
  | .busm => if off = 0x4C then s.sliceCtrl v else s.plainWrite Page.busm flds v
  | .store =>
    if off = 0x4C then s.zfill v
    else if off = 0x5C then s.scrubCtrl v
    else s.plainWrite Page.store flds v
  | .dma => s.dmaWrite inst off v flds
  | _ =>
    if off = 0x40 then s.spareWrite inst v
    else if off = 0x44 then s.migCtrl inst v
    else s

/-! ### Core debug registers (R161) -/

/-- The three words of an accumulator as DBG_DATA0 to DBG_DATA2 show them. -/
def accWord (a : AccVal) (k : Nat) : Word :=
  if k = 0 then a.v.setWidth 32
  else if k = 1 then (a.v >>> 32).setWidth 32
  else Word.ofNat ((a.v >>> 64).toNat + 256 * (BitVec.ofInt 3 a.xc).toNat + 2048 * (if a.lost then 1 else 0))

/-- An accumulator with one of its three words replaced. -/
def accPut (a : AccVal) (k : Nat) (w : Word) : AccVal :=
  let v := a.v.toNat
  if k = 0 then { a with v := BitVec.ofNat 72 (v / 2 ^ 32 * 2 ^ 32 + w.toNat) }
  else if k = 1 then { a with v := BitVec.ofNat 72 (v / 2 ^ 64 * 2 ^ 64 + w.toNat * 2 ^ 32 + v % 2 ^ 32) }
  else { v := BitVec.ofNat 72 (w.toNat % 256 * 2 ^ 64 + v % 2 ^ 64)
         xc := sgn 3 (bits w.toNat 8 3), lost := w.getLsbD 11 }

/-- The value of predicates P0 to P7 as a word; P0 always reads 1 (R99). -/
def Core.predWord (c : Core) : Nat :=
  1 + ((List.range 7).map (fun i => if Tab.get false c.p (i + 1) then 2 ^ (i + 1) else 0)).sum

/-- Word `k` of the register that DBG_SEL names. -/
def Core.dbgRead (c : Core) (r k : Nat) : Word :=
  if 0x50 ≤ r ∧ r < 0x58 then accWord (Tab.get ⟨0, 0, false⟩ c.acc (r - 0x50)) k
  else if k ≠ 0 then 0
  else if r < 0x40 then Tab.get 0 c.d r
  else if r < 0x50 then Tab.get 0 c.a (r - 0x40)
  else if r = 0x58 then Word.ofNat c.predWord
  else if 0x60 ≤ r ∧ r < 0x68 then Tab.get 0 c.cbase (r - 0x60)
  else if 0x68 ≤ r ∧ r < 0x70 then Tab.get 0 c.clen (r - 0x68)
  else match r with
    | 0x70 => c.lc0.setWidth 32 | 0x71 => c.lc1.setWidth 32 | 0x72 => c.rrb.setWidth 32
    | 0x73 => c.sr | 0x74 => c.rnd | 0x75 => c.isrc | 0x76 => c.imask | 0x77 => c.ipc
    | 0x78 => c.isav0 | 0x79 => c.isav1 | 0x7A => c.isav2
    | 0x7B => c.nextBundle.setWidth 32
    | _ => 0

/-- Word `k` of the register that DBG_SEL names, written. -/
def Core.dbgWrite (c : Core) (r k : Nat) (w : Word) : Core :=
  if 0x50 ≤ r ∧ r < 0x58 then
    let z : AccVal := ⟨0, 0, false⟩
    let a := accPut (Tab.get z c.acc (r - 0x50)) k w
    { c with acc := Tab.put z c.acc (r - 0x50) a, accVis := Tab.put z c.accVis (r - 0x50) a }
  else if k ≠ 0 then c
  else if r < 0x40 then { c with d := Tab.put 0 c.d r w }
  else if r < 0x50 then { c with a := Tab.put 0 c.a (r - 0x40) w }
  else if r = 0x58 then
    { c with p := Tab.puts false c.p ((List.range 8).map (fun i => (i, w.getLsbD i))) }
  else if 0x60 ≤ r ∧ r < 0x68 then { c with cbase := Tab.put 0 c.cbase (r - 0x60) w }
  else if 0x68 ≤ r ∧ r < 0x70 then
    { c with clen := Tab.put 0 c.clen (r - 0x68) (w &&& 0x7FFFC#32) }
  else match r with
    | 0x70 => { c with lc0 := w.setWidth 16 } | 0x71 => { c with lc1 := w.setWidth 16 }
    | 0x72 => { c with rrb := w.setWidth 5 } | 0x73 => { c with sr := w &&& 0x37F#32 }
    | 0x74 => { c with rnd := w &&& 1#32 } | 0x75 => { c with isrc := w &&& 0xF#32 }
    | 0x76 => { c with imask := w &&& 0xF#32 } | 0x77 => { c with ipc := w }
    | 0x78 => { c with isav0 := w } | 0x79 => { c with isav1 := w } | 0x7A => { c with isav2 := w }
    | 0x7B => { c with redirect := some (w.setWidth 12) }
    | _ => c

/-- A write of a debug register: from debug level 2 on, of the contents of a register from level 3 on and
while the core is halted, from where on R8 applies to the core's domain (R161). -/
def State.dbgReg (s : State) (n off v : Nat) (flds : List Fld) : State :=
  let g := Page.ibex n
  if s.debugLevel < 2 then s.log g Code.refused
  else if off = 0x300 then
    let s := s.plainWrite g flds v
    let s := if v.testBit 0 then s.haltReq n else s
    let s := if v.testBit 1 then s.resumeCore n else s
    if v.testBit 2 then s.stepCore n else s
  else if 0x314 ≤ off then
    if s.debugLevel = 3 ∧ (s.core n).halted then
      ((s.setCore n ((s.core n).dbgWrite (s.get g IBEX.DBG_SEL.REG) ((off - 0x314) / 4) (Word.ofNat v))).putB g
        HDR.PAGE_LOCK.OVERRIDDEN true).loseDomain (pageDomain g)
    else s.log g Code.refused
  else s.plainWrite g flds v

/-- Writes of a core's page. -/
def State.ibexWrite (s : State) (n off v : Nat) (flds : List Fld) : State :=
  s.ibexGate n (fun s =>
    if off = 0x58 then (if v.testBit 0 then s.setCore n ((s.core n).setSource 1) else s)
    else if 0x300 ≤ off ∧ off < 0x320 then s.dbgReg n off v flds
    else s.fieldWrite (Page.ibex n) flds v)

/-! ### Lanes and rings -/

/-- LANE_CTRL: rate and polarity only in DISABLED, LISTEN and TEST; then RETRAIN. -/
def State.laneCtrl (s : State) (l v : Nat) (flds : List Fld) : State :=
  let g := Page.lane l
  let f := LANE.LANE_CTRL.RATE
  let changes := bits v f.lo f.w != s.get g f ||
    [LANE.LANE_CTRL.TX_POL, LANE.LANE_CTRL.AUTO_POL, LANE.LANE_CTRL.RX_POL].any
      (fun f => v.testBit f.lo != s.flag g f)
  s.onlyIf g (!changes || [Phase.disabled, Phase.listen, Phase.test].contains (s.phase l)) (fun s =>
    let s := s.plainWrite g flds v
    let s := if s.phase l = Phase.listen ∧ (s.lane l).burst = 0 then
      s.put g LANE.LANE_STAT.TX_STATE (if s.flag g LANE.LANE_CTRL.BEACON then 1 else 2) else s
    if v.testBit 0 then s.laneRetrain l else s)

/-- LANE_PWR: only in DISABLED, whose states it sets (R268). -/
def State.lanePwr (s : State) (l v : Nat) : State :=
  let g := Page.lane l
  s.onlyIf g (s.phase l == Phase.disabled) (fun s =>
    let s := (s.put g LANE.LANE_PWR.TX_REQ v).put g LANE.LANE_PWR.RX_REQ (bits v 4 2)
    (s.put g LANE.LANE_STAT.TX_STATE v).put g LANE.LANE_STAT.RX_STATE (bits v 4 2))

/-- Writes of a lane's page. -/
def State.laneWrite (s : State) (l off v : Nat) (flds : List Fld) : State :=
  if off = 0x40 then s.laneCtrl l v flds
  else if off = 0x44 then s.lanePwr l v
  else if off = 0x5C then (s.plainWrite (Page.lane l) flds v).ffeFixed l
  else if off = 0xA0 then s.testCtrl l v
  else if off = 0xAC then s.injCtrl l v
  else if off = 0xC0 then (if v.testBit 0 then s.ltSend l else s)
  else s.plainWrite (Page.lane l) flds v

/-- WRAP_EN of a ring changed: a trunk that is down starts to wrap, or a wrap ends (R292). -/
def State.wrapEnWrite (s : State) (ringB on : Bool) : State :=
  let f := if ringB then RING.RING_CTRL.WRAP_EN_B else RING.RING_CTRL.WRAP_EN_A
  if s.flag Page.ring f = on then s
  else
    let s := s.putB Page.ring f on
    (ringTrunks ringB).foldl (fun (s : State) (t : Nat) =>
      if on then (if s.inserted t && !s.carrying t then s.wrapSoon t else s)
      else
        let s := s.setPort t { s.port t with wrapIn := none }
        if s.flag (Page.trunk t) TRUNK.PORT_STAT.WRAPPING then
          (s.putB (Page.trunk t) TRUNK.PORT_STAT.WRAPPING false).raise (Page.trunk t) 1
        else s) s

/-- BYP_CTRL: INS set or cleared starts an insertion or bypasses the ring (R301, R302). -/
def State.bypCtrl (s : State) (v : Nat) : State :=
  let s := s.put Page.ring RING.BYP_CTRL.INS_TMO (bits v 8 8)
  let s := s.putB Page.ring RING.BYP_CTRL.TIME_REQ (v.testBit 2)
  let ins (b : Bool) (s : State) : State :=
    if v.testBit (if b then 1 else 0) then s.insSet b
    else if s.flag Page.ring (insFld b) then s.insClear b
    else s
  ins true (ins false s)

/-- Writes of the ring, trunk, spur and lane pages. -/
def State.writeLink (s : State) (b : Block) (inst off v : Nat) (flds : List Fld) : State :=
  let svc (p : Nat) : State :=
    if off = 0x94 then
      let s := if v.testBit 0 then s.svcSend p else s
      if v.testBit 1 then s.svcPop p else s
    else s.plainWrite (portPage p) flds v
  match b with
  | .ring =>
    if off = 0x40 then
      let s := s.put Page.ring RING.RING_CTRL.NODE_ID v
      (s.wrapEnWrite false (v.testBit 16)).wrapEnWrite true (v.testBit 17)
    else if off = 0x48 then s.bypCtrl v
    else s.fieldWrite Page.ring flds v
  | .trunk => svc inst
  | .spur => svc (4 + inst)
  | _ => s.laneWrite inst off v flds

/-! ### Ports, amplifiers and boost controllers -/

/-- Writes of an audio port's page: its format and control only while STOPPED (R358), masks under R356. -/
def State.audioWrite (s : State) (p off v : Nat) (flds : List Fld) : State :=
  let g := audioPage p
  if off = 0x40 ∨ off = 0x44 then
    s.onlyIf g (s.audState p == 0) (fun s => (s.plainWrite g flds v).portArm p)
  else if off = 0x50 then s.maskWrite p true (Word.ofNat v)
  else if off = 0x54 then s.maskWrite p false (Word.ofNat v)
  else if off = 0x100 then s.portStartWrite (Word.ofNat v)
  else s.fieldWrite g flds v

/-- Whether a channel is OFF or LATCHED (R385). -/
def State.ampIdle (s : State) (n : Nat) : Bool := s.ampState n == 0 || s.ampState n == 6

/-- AMP_CTRL: MUTE, the shadow copy of SIG_EN, PILOT_EN, then LATCH_CLR and PROBE_REQ. -/
def State.ampCtrl (s : State) (n v : Nat) : State :=
  let g := Page.amp n
  let s := s.muteSet n (v.testBit 0)
  let s := s.shadowWrite g [(AMP.AMP_CTRL.SIG_EN, bits v 1 1)]
  let s := s.pilotEn n (v.testBit 2)
  let s := if v.testBit 3 then s.latchClr n else s
  if v.testBit 4 then s.probeReq n else s

/-- Writes of an amplifier channel's page; a DEADTIME of 0 is out of range unless the channel is OFF (R368). -/
def State.ampWrite (s : State) (n off v : Nat) (flds : List Fld) : State :=
  let g := Page.amp n
  if off = 0x40 then s.ampCtrl n v
  else if off = 0x74 ∧ bits v 0 8 = 0 ∧ s.ampState n ≠ 0 then s.log g Code.range
  else if off = 0x54 ∨ off = 0x58 ∨ (0x60 ≤ off ∧ off ≤ 0x74) then
    s.onlyIf g (s.ampIdle n) (fun s => s.plainWrite g flds v)
  else if off = 0x84 then
    let old := (s.get g AMP.PILOT_CFG.F, s.get g AMP.PILOT_CFG.LEVEL)
    let s := s.plainWrite g flds v
    if (s.get g AMP.PILOT_CFG.F, s.get g AMP.PILOT_CFG.LEVEL) = old then s else s.windowSpoil n
  else s.fieldWrite g flds v

/-- Writes of a boost controller's page; TRACK moves a running controller between TRACKING and FIXED. -/
def State.boostWrite (s : State) (k off v : Nat) (flds : List Fld) : State :=
  let g := Page.boost k
  if off = 0x44 then s.railCfg k (Word.ofNat v)
  else
    let s := s.plainWrite g flds v
    if off = 0x40 ∧ (s.boostState k = 3 ∨ s.boostState k = 4) then
      s.boostEnter k (if v.testBit 0 then 3 else 4)
    else s

/-- Writes of the port, amplifier and boost pages. -/
def State.writeAudio (s : State) (b : Block) (inst off v : Nat) (flds : List Fld) : State :=
  match b with
  | .tdm => s.audioWrite inst off v flds
  | .i2s => s.audioWrite (48 + inst) off v flds
  | .ampc =>
    if off = 0x40 then
      s.onlyIf Page.ampc ((List.range 16).all s.ampIdle) (fun s => s.plainWrite Page.ampc flds v)
    else if off = 0x44 then s.calCtrl (Word.ofNat v)
    else s
  | .amp => s.ampWrite inst off v flds
  | _ => s.boostWrite inst off v flds

/-! ### The register -/

/-- A write of a block register that the checks of Access.lean have let through. -/
def State.regEffect (s : State) (by_ : Master) (p off v : Nat) (flds : List Fld) : State :=
  if rangeBad p off v && !(isDebugReg p off && decide (s.debugLevel < 2)) then s.log p Code.range
  else match blockOf p with
  | none => s
  | some (b, i) =>
    match b with
    | .clk | .ref | .ntime | .sched => s.writeClock b off v flds
    | .dev | .host | .mgmt | .irq | .pwr | .gpio | .i2cm => s.writeDevice by_ b i off v flds
    | .busm | .store | .dma | .clus => s.writeBus b i off v flds
    | .ibex => s.ibexWrite i off v flds
    | .ring | .trunk | .spur | .lane => s.writeLink b i off v flds
    | .tdm | .i2s | .ampc | .amp | .boost => s.writeAudio b i off v flds
    | .frame => if off = 0x40 then s.frameCfg v else s.fieldWrite p flds v
    | .oryx | .meter | .eq | .delay => s.fieldWrite p flds v

/-! ### The page header -/

/-- PAGE_CTRL.EN written. -/
def State.pageEnable (s : State) (p : Nat) (en : Bool) : State :=
  match blockOf p with
  | some (.lane, l) => s.laneEnable l en
  | some (.tdm, q) => if s.pageOn p then s.portEnable q en else s.putB p HDR.PAGE_CTRL.EN en
  | some (.i2s, q) => if s.pageOn p then s.portEnable (48 + q) en else s.putB p HDR.PAGE_CTRL.EN en
  | some (.amp, n) => if s.pageOn p then s.ampEnable n en else s.putB p HDR.PAGE_CTRL.EN en
  | some (.boost, k) => if s.pageOn p then s.boostEnable k en else s.putB p HDR.PAGE_CTRL.EN en
  | _ => s.putB p HDR.PAGE_CTRL.EN en

/-- COMMIT_GROUP written: a page of a pending commit keeps its group (R44). A write that repeats the present
value is no write of the field and logs nothing (DESIGN CHOICE, log entry 86). -/
def State.groupWrite (s : State) (p g : Nat) : State :=
  if g = s.group p then s
  else if s.inCommit p then s.log p Code.refused
  else s.put p HDR.PAGE_CTRL.COMMIT_GROUP g

/-- PAGE_CTRL: the fields, then SOFT_RST, then SYNC. -/
def State.pageCtrl (s : State) (p v : Nat) : State :=
  let s := s.putB p HDR.PAGE_CTRL.VIEW (v.testBit 4)
  let s := s.groupWrite p (bits v 12 3)
  let s := if s.enabled p = v.testBit 0 then s else s.pageEnable p (v.testBit 0)
  let s := if v.testBit 1 then s.softReq p else s
  if v.testBit 5 then s.syncReq p else s

/-- IRQ_FORCE: the matching bits of IRQ_RAW are set (R52). -/
def State.irqForce (s : State) (p v : Nat) : State :=
  s.put p HDR.IRQ_RAW.RAW (s.get p HDR.IRQ_RAW.RAW ||| (v &&& irqMask p))

/-- A write of the header beyond PAGE_CTRL: it acts on a locked page too (R69). -/
def State.headerWrite (s : State) (p off v : Nat) : State :=
  if off = 0x10 then (s.plainWrite p [HDR.IRQ_RAW.RAW] v).pbaSettle
  else if off = 0x14 then (s.put p HDR.IRQ_EN.EN (v &&& irqMask p)).pbaSettle
  else if off = 0x1C then s.irqForce p v
  else if off = 0x2C then (if v.testBit 0 then s.putB p HDR.PAGE_LOCK.LOCK true else s)
  else s

/-- A header write judged by READY (R56) and, on a spare that copies or follows, refused (R160). -/
def State.headerGate (s : State) (p : Nat) (f : State → State) : State :=
  if s.inReset || (blockOf p).isNone then s
  else if s.notReady p || s.spareHeld p then s.log p Code.refused
  else f s

/-- IRQ_FORCE. -/
def execIrqForce (page : Nat) (bits : Word) (s : State) : Host.Outcome State Fault Refusal :=
  .next (s.headerGate page (fun s => s.irqForce page bits.toNat))

/-- PAGE_LOCK: a write of PAGE_LOCK.LOCK (R69). -/
def execPageLock (page : Nat) (s : State) : Host.Outcome State Fault Refusal :=
  .next (s.headerGate page (fun s => s.headerWrite page 0x2C 1))

end Sys2Proof.Machine
end

