-- ==== Sys2Proof/Machine/RegRead.lean ====
section
/-! DEFINITION. What a 32-bit read of a register returns and what it changes (R36, R39, R306): the value
that each field shows, the registers computed from other state, and the clearing of RC fields. -/

namespace Sys2Proof.Machine

/-! ### Fields as a read shows them -/

/-- What a read shows of a field that its page holds: the copy selected by VIEW of a shadowed field, 0 of
a write-only one (R36, R39). -/
def State.fieldView (s : State) (p : Nat) (f : Fld) : Nat :=
  match f.ty with
  | .wo => 0
  | .rws =>
    if !s.flag p HDR.PAGE_CTRL.VIEW then s.getSh p f else s.get p f
  | _ => s.get p f

/-- The fields of a register side by side. -/
def State.wordOf (s : State) (p : Nat) (flds : List Fld) : Nat :=
  (flds.map (fun f => s.fieldView p f * 2 ^ f.lo)).sum

/-- A Bool as a bit at position `b`. -/
def bitAt (x : Bool) (b : Nat) : Nat := if x then 2 ^ b else 0

/-- Bits `0 … n-1` of a word from a test. -/
def bitsWhere (n : Nat) (f : Nat → Bool) : Nat := ((List.range n).map (fun i => bitAt (f i) i)).sum

/-! ### The header -/

/-- PAGE_ID (R31). -/
def pageId (p : Nat) : Nat :=
  match blockOf p with
  | some (b, i) => 1 + i * 2 ^ 8 + b.code * 2 ^ 16
  | none => 0

/-- PAGE_CAP; BLOCK_CAP is the implementation's (log entry 6). -/
def pageCap (p : Nat) : Nat :=
  bitAt (hasShadow p) 0 + bitAt (hasTables p) 1 + pageDomain p * 2 ^ 4 +
    (Config.blockCap p).toNat * 2 ^ 8

/-- The code of a domain state in PAGE_STAT and DOM_STATE. -/
def domStateCode : DomState → Nat
  | .off => 0 | .retention => 1 | .on => 2

/-- PAGE_STAT. -/
def State.pageStat (s : State) (p : Nat) : Nat :=
  bitAt (s.pageOn p && !s.notReady p) 0 + bitAt (s.syncing p) 1 +
    domStateCode (s.domState (pageDomain p)) * 2 ^ 2 + bitAt (s.get p HDR.ERR_COUNT.COUNT != 0) 8

/-- SET_STAT (R42, R44). -/
def State.setStat_ (s : State) (p : Nat) : Nat :=
  s.activeSet p + bitAt (s.dirty p) 1 + bitAt (s.inCommit p) 2 +
    bitAt (s.inCommit p && s.flag Page.dev DEV.COMMIT_STAT.DEFERRED) 3

/-- The header registers that are computed. -/
def State.headerView (s : State) (p off : Nat) : Option Nat :=
  if off = 0x00 then some (pageId p)
  else if off = 0x04 then some (pageCap p)
  else if off = 0x0C then some (s.pageStat p)
  else if off = 0x18 then some (s.irqPend p)
  else if off = 0x20 then some (s.setStat_ p)
  else none

/-! ### Computed registers of the blocks -/

/-- Sample index of the frame being captured: the frame of the last Fs tick (R75). -/
def State.captured (s : State) : Nat := s.fseq.tick.toNat / s.fsize

/-- CORE_STAT.STATE: 0 disabled or in a spare that does not follow, 1 at the barrier or in staging, 2 in a
core frame, 3 halted. -/
def State.coreState (s : State) (n : Nat) : Nat :=
  let c := s.core n
  if c.halted then 3
  else if s.flag (Page.clus (n / 8)) CLUS.CLUS_CTRL.SPARE && s.migState (n / 8) != 3 then 0
  else if s.get (Page.ibex n) IBEX.CORE_CTRL.ENABLE = 0 then 0
  else match c.run with
    | .idle | .barrier | .handlerAtBarrier => 1
    | .running | .draining | .csync | .handlerAtCsync => 2

/-- The computed registers of a core's page. -/
def State.coreView (s : State) (n off : Nat) : Option Nat :=
  let c := s.core n
  if off = 0x40 then some c.sr.toNat
  else if off = 0x54 then
    some (bits c.isrc.toNat 0 4 + bits c.imask.toNat 0 4 * 2 ^ 8 + bitAt c.ie 16 + bitAt c.inh 17)
  else if off = 0x80 then
    some (s.coreState n + bitAt c.inh 2 + bitAt c.swapPend 3 + bitAt (s.migState (n / 8) == 3) 4)
  else none

/-- The computed registers of the frame path's pages. -/
def State.frameView (s : State) (b : Block) (off : Nat) : Option Nat :=
  match b with
  | .frame =>
    if off = 0x48 then
      some (bitAt (s.flag Page.frame FRAME.FRAME_RUN.RUN) 0 + bitAt (s.captured % 2 == 1) 1 +
        s.get Page.frame FRAME.FRAME_STAT.PASS_COUNT * 2 ^ 8)
    else if off = 0x4C then some s.captured
    else if off = 0x54 then some s.budget
    else none
  | .oryx =>
    if off = 0x50 then some (s.fadesRunning + s.get Page.oryx ORYX.FADE_STAT.AT_COMMIT * 2 ^ 16) else none
  | .meter =>
    if off = 0x58 then some ((List.range 1024).countP (fun c => (s.meterCfg c).2 != 0)) else none
  | .eq =>
    if off = 0x44 then some (s.chains.length + Nat.min s.eqTransitions 4095 * 2 ^ 16)
    else if off = 0x48 then some s.eqReserve
    else none
  | .delay =>
    if off = 0x44 then some (s.lines.length + s.tapsFading * 2 ^ 16)
    else if off = 0x48 then some s.delayCap
    else none
  | _ => none

/-- The registers of the AON blocks that are computed. -/
def State.aonView (s : State) (b : Block) (off : Nat) : Option Nat :=
  match b with
  | .dev => if off = 0x40 then
      some (s.wordOf Page.dev (fldsAt Page.dev 0x40) + bitAt s.commitPending 16) else none
  | .irq =>
    if 0x40 ≤ off ∧ off < 0x60 then
      let k := (off - 0x40) / 4
      some (bitsWhere 32 (fun j => s.irqPend (32 * k + j) != 0))
    else if off = 0x60 ∨ off = 0x64 then
      let k := (off - 0x60) / 4
      some (bitsWhere 32 (fun j => s.vecPending (32 * k + j)))
    else none
  | .pwr => if off = 0x48 then
      some (((List.range 9).map (fun i => s.domCode (i + 1) * 2 ^ (2 * i))).sum) else none
  | .ntime =>
    if off = 0x48 then some s.nt
    else if off = 0x54 then some s.cycle
    else none
  | .sched =>
    if off = 0x50 ∨ off = 0x54 then
      let k := (off - 0x50) / 4
      some (bitsWhere 32 (fun j => s.actArmed (32 * k + j)))
    else none
  | .ref =>
    if 0x100 ≤ off ∧ off < 0x180 ∧ off % 8 = 0 then
      let k := (off - 0x100) / 8
      let w := s.wordOf Page.ref (fldsAt Page.ref off)
      let f := REF.REF_CFG.PHASE_ALIGN k
      let w0 := w - bitAt (w.testBit f.lo) f.lo
      if k = 2 then some w0 else if 3 ≤ k ∧ k ≤ 11 then some (w0 + 2 ^ f.lo) else none
    else none
  | _ => none

/-- The computed registers of a page. -/
def State.blockView (s : State) (b : Block) (inst off : Nat) : Option Nat :=
  match b with
  | .dev | .irq | .pwr | .ntime | .sched | .ref => s.aonView b off
  | .frame | .oryx | .meter | .eq | .delay => s.frameView b off
  | .ibex => s.coreView inst off
  | .clus => if off = 0x4C then some (s.stageNow inst false)
      else if off = 0x50 then some (s.stageNow inst true) else none
  | .ring => if off = 0x54 then some s.streamStatWord.toNat
      else if off = 0x58 then some s.streamLast.toNat else none
  | _ => none

/-- The value that a register shows. -/
def State.regView (s : State) (p off : Nat) (flds : List Fld) : Nat :=
  match blockOf p with
  | none => 0
  | some (b, i) =>
    ((if off < 0x40 then s.headerView p off else s.blockView b i off).getD (s.wordOf p flds)) % 2 ^ 32

/-! ### What a read changes -/

/-- The RC fields of a register cleared (R36): back to their reset values. -/
def State.rcClear (s : State) (p : Nat) (flds : List Fld) : State :=
  (flds.filter (fun f => f.ty == .rc)).foldl (fun (s : State) (f : Fld) => s.put p f f.rst) s

/-- A read of a debug data register: the register that DBG_SEL names while the core is halted, else a
free value (R161). -/
def State.dbgView (s : State) (n k : Nat) : Nat × State :=
  if (s.core n).halted then
    (((s.core n).dbgRead (s.get (Page.ibex n) IBEX.DBG_SEL.REG) k).toNat, s)
  else
    let d := s.draw
    (d.1.toNat % 2 ^ 32, d.2)

/-- A read of a register that the checks of Access.lean have let through: its value and the state after
it. -/
def State.regRead (s : State) (p off : Nat) (flds : List Fld) : Nat × State :=
  let v := s.regView p off flds
  match blockOf p with
  | some (.ntime, _) => if off = 0x48 then (v, s.ntNowLatch) else (v, s.rcClear p flds)
  | some (.oryx, _) =>
    if off = 0x68 then
      let t := s.clipDataRead
      ((t.readData.headD 0).toNat, t)
    else (v, s.rcClear p flds)
  | some (.ring, _) => if off = 0x54 then (v, s.streamStatRead) else (v, s.rcClear p flds)
  | some (.lane, l) =>
    if off = 0xB8 then
      let t := s.chkLatch l
      (t.get p LANE.CHK_BITS_LO.BITS, t)
    else (v, s.rcClear p flds)
  | some (.ibex, n) =>
    if 0x314 ≤ off ∧ off ≤ 0x31C then s.dbgView n ((off - 0x314) / 4) else (v, s.rcClear p flds)
  | _ => (v, s.rcClear p flds)

end Sys2Proof.Machine
end

