-- ==== Sys2Proof/Machine/Access.lean ====
section
/-! DEFINITION. Accesses by address (R30 to R35, R38, R40, R69, R71, R229, R433): what stands at an internal
address, the checks of a write and of a read, and the effect at register pages, table windows, program
sets, Ibex memories, Store memory and the Signal Plane. -/

namespace Sys2Proof.Machine

/-! ### What stands at an address -/

/-- What an internal address reaches: an offset of a register page, a copy of a page's table, the meter
readout, Store memory, a program set of a core, an Ibex data or exchange memory, the Signal Plane, the
PCIe outbound target, or nothing. -/
inductive Place where
  | reg (p off : Nat)
  | table (p set : Nat)
  | meter
  | store
  | prog (n set : Nat)
  | local_ (c : Nat)
  | plane
  | outbound
  | hole
  deriving DecidableEq, Repr

/-- What stands at an offset of BAR0 beyond the register pages (R33). -/
def tablePlace (o : Nat) : Place :=
  if o < 0x300000 then .table Page.oryx (o / 0x100000 - 1)
  else if o < 0x400000 then .table Page.eq ((o - 0x300000) / 0x80000)
  else if o < 0x420000 then .table Page.delay ((o - 0x400000) / 0x10000)
  else if o < 0x440000 then .table Page.ring ((o - 0x420000) / 0x10000)
  else if o < 0x444000 then .meter
  else .hole

/-- What stands at an offset of the window of core `n` (R32). -/
def corePlace (n o : Nat) : Place :=
  if o < 0x20000 then .prog n (o / 0x10000)
  else if 0x40000 ≤ o ∧ o < 0x80000 then .local_ (n / 8)
  else if 0x80000 ≤ o ∧ o < 0x84000 ∧ n % 8 = 0 then .local_ (n / 8)
  else .hole

/-- What stands at an internal address (R229). -/
def placeOf (a : Nat) : Place :=
  if a < 0x04000000 then .store
  else if a < 0x10000000 then .hole
  else if a < 0x10100000 then .reg ((a - 0x10000000) / 0x1000) (a % 0x1000)
  else if a < 0x11000000 then tablePlace (a - 0x10000000)
  else if a < 0x20000000 then .hole
  else if a < 0x22000000 then corePlace ((a - 0x20000000) / 0x100000) (a % 0x100000)
  else if a < 0x22400000 then .plane
  else if 0x40000000 ≤ a ∧ a < 0x80000000 then .outbound
  else .hole

/-- The domain that a place is in; 0 for those in AON. -/
def Place.domain : Place → Nat
  | .reg p _ => pageDomain p
  | .table p _ => pageDomain p
  | .meter => 5
  | .store => 6
  | .prog n _ => 1 + n / 8
  | .local_ c => 1 + c
  | .plane => 5
  | .outbound | .hole => 0

/-- An unmapped access, counted (R34). -/
def State.unmapped (s : State) : State := s.bump Page.dev DEV.UNMAPPED_COUNT.COUNT



/-- A number as `n` bytes, lowest first. -/
def wordBytes (v n : Nat) : List Byte := (List.range n).map (fun i => BitVec.ofNat 8 (v / 256 ^ i))

/-- Bytes, lowest first, as a number. -/
def ofLe : List Byte → Nat
  | [] => 0
  | b :: t => b.toNat + 256 * ofLe t

/-! ### Writes of register pages -/

/-- Whether a page's lock covers an offset: PAGE_CTRL and everything beyond the header (R69). -/
def lockCovers (off : Nat) : Bool := off / 4 == 2 || decide (0x40 ≤ off)

/-- Whether the lock of a page stops a write by `by_`: a debug port of level 3 writes a locked page too
(R69, R71). -/
def State.lockStops (s : State) (by_ : Master) (p : Nat) : Bool :=
  s.locked p && !(by_ == .jtag && s.debugLevel == 3)

/-- A 32-bit write at a register page by a master that is not the debug port: unmapped (R34), lock (R69),
READY (R56), domain (R38), a spare that copies or follows (R160), then the register itself. -/
def State.busReg32 (s : State) (by_ : Master) (p off v : Nat) : State :=
  match regAt p off with
  | none => s.unmapped
  | some flds =>
    if s.locked p && lockCovers off then s.log p Code.locked
    else if s.notReady p then s.log p Code.refused
    else if decide (0x40 ≤ off) && !s.pageOn p then s.log p Code.domainOff
    else if s.spareHeld p then s.log p Code.refused
    else if off = 0x08 then s.pageCtrl p v
    else if off < 0x40 then s.headerWrite p off v
    else s.regEffect by_ p off v flds



/-- The shadowed fields of a register, whose shadow copies debug level 2 may write (R71). -/
def shadowedOf (off : Nat) (flds : List Fld) : List Fld :=
  if off < 0x40 then [] else flds.filter (fun f => f.ty == .rws)

/-- Whether a register holds anything but shadowed fields and what debug levels below 3 write: a write of it at
level 3 acts on an active copy (R71, R161). -/
def beyondShadow (p off : Nat) (flds : List Fld) : Bool :=
  !(isDebugReg p off) && (shadowedOf off flds).length != flds.length

/-- A debug override has acted on a page: OVERRIDDEN is set and the page's domain lies outside R7 (R8,
R71, R412). -/
def State.overridden (s : State) (p : Nat) : State :=
  (s.putB p HDR.PAGE_LOCK.OVERRIDDEN true).loseDomain (pageDomain p)

/-- Whether an offset of the MGMT page takes part in the debug exchange, which JTAG reaches at every level
(R71): MBX_CMD with DEBUG_CHALLENGE or DEBUG_RESPONSE, MBX_STAT, MBX_DATA. -/
def exchangeReg (p off : Nat) : Bool :=
  p == Page.mgmt && (off == 0x48 || off == 0x4C || decide (0x100 ≤ off ∧ off < 0x200))

/-- Whether a write of the debug exchange is one that JTAG makes at every level. -/
def exchangeWrite (p off v : Nat) : Bool :=
  exchangeReg p off && (off != 0x48 || bits v 0 8 == 0x30 || bits v 0 8 == 0x31)

/-- Whether the granted level lets a write of the debug port have any effect or log (R71, R161): from level 2 on;
below it the exchange and the debug registers of a core, and from level 1 on PAGE_CTRL, whose VIEW selects the copy
that a read returns. -/
def State.jtagMayWrite (s : State) (pl : Place) (v : Nat) : Bool :=
  decide (2 ≤ s.debugLevel) || (match pl with
    | .reg p off => exchangeWrite p off v || isDebugReg p off || (off == 0x08 && s.debugLevel == 1)
    | _ => false)

/-- The effect of a write that a debug override makes: of the active copy where VIEW selects it. -/
def State.overrideEffect (s : State) (p off v : Nat) (flds : List Fld) : State :=
  if off = 0x08 then s.pageCtrl p v
  else if off < 0x40 then s.headerWrite p off v
  else if s.flag p HDR.PAGE_CTRL.VIEW && flds.any (fun f => f.ty == .rws) then
    (flds.filter (fun f => f.ty == .rws)).foldl
      (fun (s : State) (f : Fld) => s.put p f (bits v f.lo f.w)) (s.plainWrite p flds v)
  else s.regEffect .jtag p off v flds

/-- A write through JTAG below level 3 that the lock and the domain let through (R71): the exchange, the debug
registers of a core, VIEW, and from level 2 on the shadow copies of a register's shadowed fields. -/
def State.jtagEffect (s : State) (p off v : Nat) (flds : List Fld) : State :=
  if exchangeWrite p off v || isDebugReg p off then s.regEffect .jtag p off v flds
  else if off = 0x08 then s.putB p HDR.PAGE_CTRL.VIEW (v.testBit 4)
  else if s.debugLevel < 2 || (shadowedOf off flds).isEmpty then s
  else if rangeBad p off v then s.log p Code.range
  else s.fieldWrite p (shadowedOf off flds) v

/-- Whether a write through JTAG of level 3 is an override: of a locked page or of an active copy (R71). -/
def State.isOverride (s : State) (p off v : Nat) (flds : List Fld) : Bool :=
  s.locked p || (!exchangeWrite p off v &&
    (beyondShadow p off flds || (s.flag p HDR.PAGE_CTRL.VIEW && !(shadowedOf off flds).isEmpty)))

/-- A 32-bit write through JTAG, by debug level (R71). -/
def State.jtagReg32 (s : State) (p off v : Nat) : State :=
  match regAt p off with
  | none => s.unmapped
  | some flds =>
    if s.lockStops .jtag p && lockCovers off then s.log p Code.locked
    else if decide (0x40 ≤ off) && !s.pageOn p then s.log p Code.domainOff
    else if s.spareHeld p || (isDebugReg p off && decide (s.debugLevel < 2)) then s.log p Code.refused
    else if s.debugLevel < 3 then s.jtagEffect p off v flds
    else if s.isOverride p off v flds then (s.overrideEffect p off v flds).overridden p
    else s.overrideEffect p off v flds

/-- A 32-bit write at a register page. -/
def State.reg32 (s : State) (by_ : Master) (p off v : Nat) : State :=
  if by_ = .jtag then s.jtagReg32 p off v else s.busReg32 by_ p off v

/-- Whether an access of `n` bytes at `a`, all byte enables on or not, is aligned and whole: 32 or 64 bits
(R35). -/
def shapeOk (a n : Nat) (full : Bool) : Bool :=
  full && ((n == 4 && a % 4 == 0) || (n == 8 && a % 8 == 0))

/-- A write at a register page: 32 bits; 64 bits in the MSI-X table alone (R35, R59). `v` holds the data. -/
def State.regPageWrite (s : State) (by_ : Master) (p off n : Nat) (full : Bool) (v : Nat) : State :=
  if (blockOf p).isNone then s.unmapped
  else if !shapeOk off n full then
    s.log p (if s.lockStops by_ p && lockCovers off then Code.locked else Code.range)
  else if n = 4 then s.reg32 by_ p off (v % 2 ^ 32)
  else if p = Page.host ∧ 0x800 ≤ off ∧ off < 0xC00 then
    (s.reg32 by_ p off (v % 2 ^ 32)).reg32 by_ p (off + 4) (v / 2 ^ 32 % 2 ^ 32)
  else s.log p (if s.lockStops by_ p && lockCovers off then Code.locked else Code.range)

/-! ### Writes of tables and program sets (R40, R42, R44, R69) -/

/-- A write of one copy of a page's table or program set, whose lock has been tested: the active copy, a
pending commit or SYNC, then the copy itself, which becomes dirty; a debug override writes any copy
(R71). -/
def State.copyWrite (s : State) (by_ : Master) (p : Nat) (active held : Bool) (f : State → State) : State :=
  let lvl := if by_ = .jtag then s.debugLevel else 0
  let shadow (s : State) : State :=
    if held then s.log p Code.refused
    else { f s with dirtyTab := Tab.put false s.dirtyTab p true }
  if lvl = 3 && (active || s.locked p) then
    (if active then f s else shadow s).overridden p
  else if active then s.log p Code.writeToActive
  else shadow s

/-- A write at a table window. -/
def State.tableWrite (s : State) (by_ : Master) (p set a n : Nat) (l : List (Nat × Byte)) : State :=
  if s.lockStops by_ p then s.log p Code.locked
  else if !shapeOk a n (l.length == n) then s.log p Code.range
  else if !s.pageOn p then s.log p Code.domainOff
  else s.copyWrite by_ p (set == s.activeSet p) (s.shadowHeld p) (fun s => s.setBytes l)

/-! ### Ibex memories (R136) -/

/-- A write at a program set (R40, R154). -/
def State.progWrite (s : State) (by_ : Master) (n set a len : Nat) (l : List (Nat × Byte)) : State :=
  let p := Page.ibex n
  if s.lockStops by_ p then s.log p Code.locked
  else if !s.pageOn p then s.log (Page.clus (n / 8)) Code.domainOff
  else s.copyWrite by_ p (set == s.activeSet p) (s.shadowHeld p || (s.core n).swapPend)
    (fun s => s.localWrite a len l)

/-- A write at data or exchange memory; through JTAG from level 3 on, as an override (log entry 18). -/
def State.dataWrite (s : State) (by_ : Master) (c a n : Nat) (l : List (Nat × Byte)) : State :=
  if !s.domOn (1 + c) then s.log (Page.clus c) Code.domainOff
  else if by_ = .jtag then
    (if s.debugLevel < 3 then s
     else (s.localWrite a n l).overridden (Page.clus c))
  else s.localWrite a n l

/-! ### One access of a master -/

/-- What the outbound target answers without a retry: an error while the link is down or Bus Master Enable
is 0 (R235). -/
def State.outboundDown (s : State) : Bool :=
  !s.flag Page.host HOST.HOST_STAT.LINK_UP || !s.flag Page.host HOST.HOST_STAT.BUS_MASTER

/-- A write of the `n` bytes from `a` on, within one target; `l` holds the bytes whose enables are on.
`core` is the Ibex core behind a cluster port. -/
def State.busWrite1 (s : State) (by_ : Master) (core : Option Nat) (a n : Nat) (l : List (Nat × Byte)) : State :=
  let v := ofLe (l.map (·.2))
  if by_ = .jtag && !s.jtagMayWrite (placeOf a) v then s
  else match placeOf a with
  | .reg p off => s.regPageWrite by_ p off n (l.length == n) v
  | .table p set => s.tableWrite by_ p set a n l
  | .meter =>
    if !shapeOk a n (l.length == n) then s.log Page.meter Code.range
    else if !s.domOn 5 then s.log Page.meter Code.domainOff
    else s
  | .store =>
    if by_ = .jtag then
      (if s.debugLevel < 3 then s
       else (s.storeWrite a n l).overridden Page.store)
    else s.storeWrite a n l
  | .prog k set => s.progWrite by_ k set a n l
  | .local_ c => s.dataWrite by_ c a n l
  | .plane => s.planeBusWrite core l
  | .outbound => s.respond s.outboundDown
  | .hole => s.unmapped

/-- The registers that tell of events outside the guarantee (R412), which a domain with undefined state
still reports (R8): the ECC registers, MIG_STAT and THERM_STAT. -/
def eventReg (p off : Nat) : Bool :=
  match blockOf p with
  | some (.store, _) => decide (0x50 ≤ off ∧ off < 0x5C)
  | some (.ibex, _) => decide (0x90 ≤ off ∧ off < 0x9C)
  | some (.clus, _) => decide (0x58 ≤ off ∧ off < 0x64) || off == 0x48
  | some (.pwr, _) => off == 0x1A0
  | _ => false

/-- A read of one register or two at a page (R35): the errors of the two are logged once. -/
def State.regPageRead (s : State) (p off n : Nat) (full : Bool) : List Byte × State :=
  if (blockOf p).isNone then (List.replicate n 0, s.unmapped)
  else if !shapeOk off n full then (List.replicate n 0, s.log p Code.range)
  else
    let offs := if n = 8 then [off, off + 4] else [off]
    let mapped := offs.filter (fun o => (regAt p o).isSome)
    let s := if mapped.length = offs.length then s else s.unmapped
    if decide (0x40 ≤ off) && !s.pageOn p then
      (List.replicate n 0, if mapped.isEmpty then s else s.log p Code.domainOff)
    else if decide (0x40 ≤ off) && Tab.get false s.undef (pageDomain p) && !eventReg p off then s.drawBytes n
    else offs.foldl (fun (r : List Byte × State) (o : Nat) => match regAt p o with
      | none => (r.1 ++ wordBytes 0 4, r.2)
      | some flds =>
        let x := r.2.regRead p o flds
        (r.1 ++ wordBytes x.1 4, x.2)) ([], s)

/-- A byte of the Signal Plane as a bus read returns it: 0 where the written mark is clear (R74, R77) and at
the unused positions (R75). -/
def State.planeByte (s : State) (a : Nat) : Byte :=
  let o := a - 0x22000000
  if decide (o % 128 / 4 < s.fsize) && Tab.get false s.marks (markKey (o / 0x200000) (o / 128 % 16384) (o % 128 / 4)) then s.byte a else 0

/-- Whether a byte of a window reads 0 whatever the state of its domain: in a lost bank and in a word with an
uncorrectable error (R136, R222, R228). -/
def State.readsZero (s : State) (pl : Place) (a : Nat) : Bool :=
  match pl with
  | .store => s.bankLost (storeBank a) || s.storeEcc a == some .double
  | .prog _ _ | .local_ _ => s.unitEcc (checkUnit a) (a / checkUnit a) == some .double
  | _ => false

/-- Bytes of a domain whose state is undefined (R8): free values, but for those that read 0 in any case. -/
def State.openBytes (s : State) (pl : Place) (a n : Nat) : List Byte × State :=
  let d := s.drawBytes n
  (d.1.zipIdx.map (fun (e : Byte × Nat) => if s.readsZero pl (a + e.2) then 0 else e.1), d.2)

/-- A read of a memory or table window whose domain is ON. -/
def State.windowRead (s : State) (pl : Place) (a n : Nat) : List Byte × State :=
  let plain (f : Nat → Byte) : List Byte × State := ((List.range n).map (fun i => f (a + i)), s)
  match pl with
  | .store =>
    let r := s.storeRead a n
    (r.1, r.2.2.respond r.2.1)
  | .prog _ _ | .local_ _ => s.localRead a n
  | .plane => plain s.planeByte
  | _ => plain s.byte

/-- The page that logs DOMAIN_OFF for a window (R433). -/
def Place.owner : Place → Nat
  | .reg p _ => p
  | .table p _ => p
  | .meter => Page.meter
  | .store => Page.store
  | .prog n _ => Page.clus (n / 8)
  | .local_ c => Page.clus c
  | .plane => Page.frame
  | .outbound | .hole => Page.dev

/-- Whether a window takes 32-bit and 64-bit accesses alone (R35). -/
def Place.wordWide : Place → Bool
  | .table _ _ | .meter => true
  | _ => false

/-- The completion timeout of an outbound read recorded in the uncorrectable error status of AER (R57): bit 14
(PRESUMED: PCIe Base Specification, log entry 83). -/
def State.aerTimeout (s : State) : State := { s with pins := { s.pins with aer := s.pins.aer ||| 2 ^ 14 } }

/-- A read of the `n` bytes from `a` on, within one target; `full` says that every byte enable is on. In a domain
whose state is undefined the bytes are open and every event is logged all the same (R8). The
host answers a read of the outbound window with bytes that are open, or not within 50 ms, which ends the
read with an error (R57). -/
def State.busRead1 (s : State) (by_ : Master) (a n : Nat) (full : Bool) : List Byte × State :=
  let zero := List.replicate n (0 : Byte)
  let pl := placeOf a
  let exchange : Bool := match pl with
    | .reg p off => exchangeReg p off
    | _ => false
  if by_ = .jtag ∧ s.debugLevel < 1 ∧ exchange = false then (zero, s)
  else match pl with
  | .reg p off => s.regPageRead p off n full
  | .hole => (zero, s.unmapped)
  | .outbound =>
    if s.outboundDown then (zero, s.respond true)
    else
      let d := s.draw
      if d.1.getLsbD 0 then d.2.drawBytes n else (zero, d.2.aerTimeout.respond true)
  | _ =>
    if pl.wordWide && !shapeOk a n full then (zero, s.log pl.owner Code.range)
    else if !s.domOn pl.domain then (zero, s.log pl.owner Code.domainOff)
    else if Tab.get false s.undef pl.domain then (s.windowRead pl a n).2.openBytes pl a n
    else s.windowRead pl a n

/-! ### Accesses of any length -/

/-- An access cut at multiples of `w`. -/
def cutAt (w a n : Nat) : List (Nat × Nat) :=
  (unitsOf w a n).map (fun u =>
    let lo := Nat.max a (w * u)
    (lo, Nat.min (a + n) (w * u + w) - lo))

/-- The accesses that a transaction makes: within 256-byte blocks, and 32 bits at a time in the register
space where it is wider than 64 bits, or `wide` as a DMA beat is (R35, R233). -/
def piecesOf (wide : Bool) (a n : Nat) : List (Nat × Nat) :=
  (cutAt 256 a n).flatMap (fun e =>
    if 0x10000000 ≤ e.1 ∧ e.1 < 0x11000000 ∧ (wide || decide (8 < n)) then cutAt 4 e.1 e.2 else [e])

/-- A write of any length. Pieces without an enabled byte make no access where the transaction was split. -/
def State.busWrite (s : State) (by_ : Master) (core : Option Nat) (wide : Bool) (a n : Nat)
    (l : List (Nat × Byte)) : State :=
  (piecesOf wide a n).foldl (fun (s : State) (e : Nat × Nat) =>
    let l := l.filter (fun x => decide (e.1 ≤ x.1 ∧ x.1 < e.1 + e.2))
    if l.isEmpty && decide (e.2 < n) then s else s.busWrite1 by_ core e.1 e.2 l) s

/-- A read of any length; `on` tells which byte enables are on. -/
def State.busRead (s : State) (by_ : Master) (wide : Bool) (a n : Nat) (on : Nat → Bool) : List Byte × State :=
  (piecesOf wide a n).foldl (fun (r : List Byte × State) (e : Nat × Nat) =>
    let full := (List.range e.2).all (fun i => on (e.1 + i))
    let x := r.2.busRead1 by_ e.1 e.2 full
    (r.1 ++ x.1, x.2)) ([], s)

/-! ### The commands -/

/-- Whether an address lies in a register page. -/
def inPages (a : Nat) : Bool := decide (0x10000000 ≤ a) && decide (a < 0x10100000)

/-- Whether an address lies in a table window or a program set. -/
def inTables (a : Nat) : Bool :=
  match placeOf a with
  | .table _ _ => true
  | .meter => true
  | .prog _ _ => true
  | _ => false

/-- The access of a host or master at its address. -/
def State.accessWrite (s : State) (acc : Access) : State :=
  { s with respErr := false }.busWrite1 acc.by_ none acc.addr acc.size (accBytes acc)

/-- REGISTER_WRITE: a write at a register page (R35, R36, R38, R56, R69). -/
def execRegisterWrite (acc : Access) (s : State) : Host.Outcome State Fault Refusal :=
  .next (if s.inReset || !inPages acc.addr then s else s.accessWrite acc)

/-- TABLE_WRITE: a write at a table window or a program set (R40). -/
def execTableWrite (acc : Access) (s : State) : Host.Outcome State Fault Refusal :=
  .next (if s.inReset || !inTables acc.addr then s else s.accessWrite acc)

end Sys2Proof.Machine
end

