-- ==== Sys2Proof/Machine/HostIf.lean ====
section
/-! DEFINITION. The host side (R57 to R60): PCIe resets, power states and link-up, and the frames of the
QSPI slave. -/

namespace Sys2Proof.Machine

/-! ### PCIe (R57 to R59) -/



/-- The HOST page after a PCIe reset: its block registers at their reset values, and the interrupt bits
of what changed. -/
def State.hostReset (s : State) (hot : Bool) : State :=
  let was := s.flag Page.host HOST.HOST_STAT.LINK_UP
  let d3 := s.d3hot
  let s := { s with pins := { s.pins with pcie := PcieCfg.reset } }.resetRegs Page.host []
  let s := if was then s.raise Page.host 0 else s
  let s := if hot then s.raise Page.host 1 else s
  if d3 then s.raise Page.host 2 else s

/-- PCIE_RESET: the endpoint and the HOST page alone are reset; the outbound transactions in flight end with an
error, and what waits to issue goes on waiting (R58, R234, R236). -/
def execPcieReset (kind : PcieReset) (s : State) : Host.Outcome State Fault Refusal :=
  .next (if s.inReset then s
  else (({ s with respErr := false }.masterReset .pcie false).retriesEnd).hostReset (kind == PcieReset.hotReset))

/-- DSTATE_CHANGE: the endpoint enters D3hot or returns to D0, when the waiting messages go out (R58). -/
def execDstateChange (d3 : Bool) (s : State) : Host.Outcome State Fault Refusal :=
  .next (if s.inReset || s.d3hot == d3 then s
  else
    let s := (s.put Page.host HOST.HOST_STAT.DSTATE (if d3 then 3 else 0)).raise Page.host 2
    if d3 then s else s.sendWaiting)

/-- The identifiers of the endpoint (R57): Vendor ID, Device ID, Revision ID, class code. -/
def pcieVendor : Nat := 0x1F3B
def pcieDevice : Nat := 0x4E40
def pcieRevision : Nat := 0x01
def pcieClass : Nat := 0x040100

/-- A word of the type 0 header of the configuration space as the PCIe Base Specification lays it out
(PRESUMED, log entry 83): what R57 gives of it, and the bases that the host has set. The three BARs are 64-bit,
BAR2 and BAR4 prefetchable ("Address spaces", chapter 02). -/
def State.pcieHeader (s : State) (off : Nat) : Nat :=
  let c := s.pins.pcie
  let low (b size flags : Nat) : Nat := b / size * size % 2 ^ 32 + flags
  let high (b : Nat) : Nat := b / 2 ^ 32 % 2 ^ 32
  match off with
  | 0x00 => pcieDevice * 2 ^ 16 + pcieVendor
  | 0x04 => bitAt (s.flag Page.host HOST.HOST_STAT.BUS_MASTER) 2
  | 0x08 => pcieClass * 2 ^ 8 + pcieRevision
  | 0x10 => low c.bar0 0x1000000 0x4
  | 0x14 => high c.bar0
  | 0x18 => low c.bar2 0x4000000 0xC
  | 0x1C => high c.bar2
  | 0x20 => low c.bar4 0x4000000 0xC
  | 0x24 => high c.bar4
  | 0x2C => (Config.subsystemIds s.configBlock).toNat
  | _ => 0

/-- The three words of the MSI-X capability as the PCIe Base Specification lays them out (PRESUMED, log entry 83):
64 vectors, the function mask and the enable that the host has set; the table and the PBA in BAR0 at the offsets
that R57 gives. The bits of the next capability are 0. -/
def State.msixCapability (s : State) (off : Nat) : Nat :=
  let c := s.pins.pcie
  match off with
  | 0 => 0x11 + (63 + bitAt c.fnMask 14 + bitAt c.msixEn 15) * 2 ^ 16
  | 4 => 0x1800
  | 8 => 0x1C00
  | _ => 0

/-- PCIE_LINK_UP: the link reaches L0 with a generation and a width, and the host has set the endpoint up
(R57, R235); messages that no mask holds back any more go out (R52). -/
def execPcieLinkUp (speed : Nat) (x2 : Bool) (cfg : PcieCfg) (s : State) : Host.Outcome State Fault Refusal :=
  .next (if s.inReset || decide (speed < 1) || decide (4 < speed) then s
  else
    let s := s.put Page.host HOST.HOST_STAT.SPEED speed
    let s := s.put Page.host HOST.HOST_STAT.WIDTH (if x2 then 2 else 1)
    let s := s.putB Page.host HOST.HOST_STAT.BUS_MASTER cfg.busMaster
    ({ s with pins := { s.pins with pcie := cfg } }.putB Page.host HOST.HOST_STAT.LINK_UP true).sendWaiting)

/-! ### QSPI slave (R60) -/

/-- The state with no error counted on any page and no access counted as lost or unmapped. -/
def State.noErrors (s : State) : State :=
  ((allPages.foldl (fun (s : State) (p : Nat) => s.put p HDR.ERR_COUNT.COUNT 0) s).put Page.dev
    DEV.UNMAPPED_COUNT.COUNT 0).put Page.store STORE.LOST_ACCESS_COUNT.COUNT 0

/-- Whether a write logs an error, is discarded as lost or unmapped, or ends with an error response. -/
def State.writeErrs (s : State) (f : State → State) : Bool :=
  let t := f { s.noErrors with respErr := false }
  allPages.any (fun p => t.get p HDR.ERR_COUNT.COUNT != 0) ||
    t.get Page.dev DEV.UNMAPPED_COUNT.COUNT != 0 ||
    t.get Page.store STORE.LOST_ACCESS_COUNT.COUNT != 0 || t.respErr

/-- QSPI_STAT with its bits 0 to 2 set. -/
def State.qspiSet (s : State) (done err aborted : Bool) : State :=
  { s with pins := { s.pins with qspi := bitAt done 0 + bitAt err 1 + bitAt aborted 2 } }

/-- Whether ADDR or CNT aborts the frame. -/
def qspiBad (addr : Word) (cnt : Byte) : Bool := addr.toNat % 4 != 0 || decide (63 < cnt.toNat)

/-- The posted writes of a frame: words at ADDR, ADDR + 4, … -/
def State.qspiWrites (s : State) (addr : Nat) (words : List Word) : State :=
  ((List.range words.length).zip words).foldl (fun (s : State) (e : Nat × Word) =>
    let a := (addr + 4 * e.1) % 2 ^ 32
    s.busWrite1 .qspi none a 4 (leBytes a e.2.toNat 4)) s

/-- QSPI_WRITE: a Write frame. `words` are the whole words received (R60). -/
def execQspiWrite (addr : Word) (cnt : Byte) (words : List Word) (s : State) :
    Host.Outcome State Fault Refusal :=
  .next (if s.inReset then s
  else if qspiBad addr cnt then s.qspiSet false true true
  else
    let l := words.take (cnt.toNat + 1)
    let f (s : State) : State := s.qspiWrites addr.toNat l
    (f { s with respErr := false }).qspiSet (l.length == cnt.toNat + 1) (s.writeErrs f) false)

/-- Whether a read can outlast the wait bytes: Store memory and BAR4 space. -/
def slowRead (a : Nat) : Bool :=
  match placeOf a with
  | .store | .prog _ _ | .local_ _ | .plane => true
  | _ => false

/-- The words that a frame reads, each a read of its own. -/
def State.qspiReads (s : State) (addr n : Nat) : List Word × State :=
  (List.range n).foldl (fun (r : List Word × State) (i : Nat) =>
    let x := r.2.busRead1 .qspi ((addr + 4 * i) % 2 ^ 32) 4 true
    (r.1 ++ [Word.ofNat (ofLe x.1)], x.2)) ([], s)

/-- QSPI_READ: a Read frame; after 64 wait bytes the slave sends 0x5A. A frame with an unknown command is
aborted (R60). -/
def execQspiRead (addr : Word) (cnt : Byte) (frame : QspiFrame) (s : State) :
    Host.Outcome State Fault Refusal :=
  .next (if s.inReset then s
  else
    let set (s : State) (aborted : Bool) : State :=
      s.qspiSet (s.pins.qspi.testBit 0) (s.pins.qspi.testBit 1) aborted
    if frame.cmd != 0x0B || qspiBad addr cnt then { set s true with readData := [] }
    else if slowRead addr.toNat && decide (64 < frame.waits) then { set s false with readData := [0x5A] }
    else
      let r := { s with respErr := false }.qspiReads addr.toNat (cnt.toNat + 1)
      { set r.2 false with readData := r.1 })

/-- QSPI_STATUS: a Status frame returns QSPI_STAT (R60). -/
def execQspiStatus (s : State) : Host.Outcome State Fault Refusal :=
  .next (if s.inReset then s
  else { s with readData := [Word.ofNat (s.pins.qspi % 8 + bitAt s.ready 3)] })

end Sys2Proof.Machine
end

