-- ==== Sys2Proof/Machine/Dma.lean ====
section
/-! DEFINITION. Bus transactions and their retries (R229 to R235) and the DMA engines (R237 to R241). -/

namespace Sys2Proof.Machine

/-! ### Bus transactions -/

/-- A transaction whose retries are exhausted ends with an error (R235). -/
def State.retryFail (s : State) : State :=
  ((s.bump Page.busm BUSM.RETRY_FAIL_COUNT.COUNT).raise Page.busm 1).respond true

/-- The timer of a DMA engine starts at the first retry of any transaction of its descriptor (R240). -/
def State.timerStart (s : State) (m : Master) : State :=
  match m with
  | .dma e =>
    let x := Tab.get Dma.reset s.dmas e
    if x.since.isSome || !s.dmaActive e then s
    else { s with dmas := Tab.put Dma.reset s.dmas e { x with since := some s.rootNow } }
  | _ => s

/-- The timer of a DMA engine is cancelled when no transaction of its descriptor waits for a retry any more
(R240). -/
def State.timerStop (s : State) (m : Master) : State :=
  match m with
  | .dma e =>
    if s.issued.any (fun r => r.by_ == m) then s
    else { s with dmas := Tab.put Dma.reset s.dmas e { Tab.get Dma.reset s.dmas e with since := none } }
  | _ => s

/-- Whether DMA_TMO of the engine has passed since its timer started: from then on the engine owns the fault, also
where a reissue succeeds in the same cycle (R240, R408). -/
def State.timerOver (s : State) (m : Master) : Bool :=
  match m with
  | .dma e =>
    let us := s.get (Page.dma e) DMA.DMA_TMO.US
    us != 0 && (match (Tab.get Dma.reset s.dmas e).since with
      | some t => decide (us * 393216 ≤ (s.rootNow - t) * 125)
      | none => false)
  | _ => false

/-- A transaction answered RETRY for the first time waits for its reissues; without any it fails (R235). -/
def State.retryQueue (s : State) (r : Retry) : State :=
  if r.left = 0 then s.retryFail
  else ({ s with retries := s.retries ++ [{ r with tried := true }] }.outstView).timerStart r.by_

/-- Whether a master has fewer than 32 transactions outstanding (R234). -/
def State.hasRoom (s : State) (m : Master) : Bool :=
  decide (s.issued.countP (fun r => r.by_ == m) < 32)

/-- The transactions that wait to issue. -/
def State.waiting (s : State) : List Retry := s.retries.filter (fun r => !r.tried)

/-- Whether a transaction of master `m` with a QoS may issue (R234): the master and the matrix are below their
limits, and no waiting transaction of a master with room has a higher QoS. Ties follow the order of the commands
(log entry 10). -/
def State.admits (s : State) (m : Master) (qos : Nat) : Bool :=
  s.hasRoom m && decide (s.outstanding < 256) &&
    s.waiting.all (fun w => !s.hasRoom w.by_ || decide (w.qos ≤ qos))

/-- The Ibex core behind a cluster port, where it belongs to that cluster. -/
def portCore (by_ : Master) (core : Nat) : Option Nat :=
  match by_ with
  | .clus c => if core / 8 = c then some core else none
  | _ => none

/-- The bytes of a transaction whose strobes are on. -/
def strobed (addr : Nat) (bytes : List Byte) (strobes : List Bool) : List (Nat × Byte) :=
  ((List.range bytes.length).zip (bytes.zip strobes)).filterMap (fun e =>
    if e.2.2 then some (addr + e.1, e.2.1) else none)

/-- A transaction served at its target: the data of a read is returned as bytes. -/
def State.busServe (s : State) (by_ : Master) (write : Bool) (addr : Nat) (bytes : List Byte)
    (strobes : List Bool) (core : Option Nat) : State :=
  if write then s.busWrite by_ core false addr bytes.length (strobed addr bytes strobes)
  else
    let r := s.busRead by_ false addr bytes.length (fun a => strobes.getD (a - addr) false)
    { r.2 with readData := r.1.map (fun b => b.setWidth 32) }

/-- A transaction issued for the first time: served at its target, or answered RETRY by the PCIe outbound target
while the link is up and not in L0 (R235). -/
def State.busIssue (s : State) (r : Retry) (inL0 : Bool) : State :=
  if placeOf r.addr = .outbound ∧ !s.outboundDown ∧ !inL0 then s.retryQueue r
  else s.busServe r.by_ r.write r.addr r.bytes r.strobes r.core

/-- BUS_TRANSACTION: a transaction served at its target; `inL0` tells whether the PCIe link is in L0. Of
a read, `bytes` gives the length. A master at its limit, and one that is not admitted, waits to issue it (R234). -/
def execBusTransaction (by_ : Master) (write : Bool) (addr : Nat) (bytes : List Byte) (strobes : List Bool)
    (qos : BitVec 4) (core : Nat) (inL0 : Bool) (s : State) : Host.Outcome State Fault Refusal :=
  .next (if s.inReset then s
  else
    let s := { s with respErr := false, readData := [] }
    let r : Retry := ⟨by_, write, addr, bytes, strobes, s.get Page.busm BUSM.RETRY_CTRL.RETRY_MAX,
      portCore by_ core, qos.toNat, false⟩
    if !s.admits by_ r.qos || s.waiting.any (fun w => w.by_ == by_) then
      { s with retries := s.retries ++ [r] }
    else s.busIssue r inL0)

/-- The transaction of a master that issues next: the oldest that waits to issue, where it is admitted, else the
oldest that waits for its reissue (R234, R235). -/
def State.nextIssue (s : State) (m : Master) : Option Retry :=
  let mine := s.retries.filter (fun r => r.by_ == m)
  (mine.find? (fun r => !r.tried && s.admits m r.qos)).orElse fun _ => mine.find? (fun r => r.tried)

/-- A transaction issued again (R235). -/
def State.busReissue (s : State) (r : Retry) (inL0 : Bool) : State :=
  let t := { s with retries := s.retries.erase r }.outstView
  if s.outboundDown then (t.respond true).timerStop r.by_
  else if inL0 then (t.busServe r.by_ r.write r.addr r.bytes r.strobes r.core).timerStop r.by_
  else if r.left ≤ 1 then t.retryFail.timerStop r.by_
  else { s with retries := s.retries.replace r { r with left := r.left - 1 } }

/-- BUS_RETRY: a waiting transaction of a master is issued, or issued again (R234, R235). A DMA engine whose timer
has run out makes no reissue: it owns the fault (R240, R408). -/
def execBusRetry (by_ : Master) (inL0 : Bool) (s : State) : Host.Outcome State Fault Refusal :=
  .next (if s.inReset then s
  else match s.nextIssue by_ with
  | none => s
  | some r =>
    let t := { s with respErr := false, readData := [] }
    if !r.tried then { t with retries := s.retries.erase r }.busIssue r inL0
    else if s.timerOver by_ then s
    else t.busReissue r inL0)

/-! ### DMA descriptors (R238, R239) -/

/-- The descriptor and the status that its check already gives. -/
def State.dma (s : State) (e : Nat) : Dma := Tab.get Dma.reset s.dmas e

/-- An engine replaced. -/
def State.setDma (s : State) (e : Nat) (d : Dma) : State :=
  { s with dmas := Tab.put Dma.reset s.dmas e d }

def Desc.irq (d : Nat) : Bool := d.testBit 4
def Desc.coreEn (d : Nat) : Bool := d.testBit 5
def Desc.core (d : Nat) : Nat := bits d 6 5
def Desc.twoD (d : Nat) : Bool := d.testBit 11
def Desc.src (d : Nat) : Nat := bits d 32 32
def Desc.dst (d : Nat) : Nat := bits d 64 32
def Desc.len (d : Nat) : Nat := bits d 96 27
def Desc.rows (d : Nat) : Nat := bits d 128 12
def Desc.srcStride (d : Nat) : Nat := bits d 160 27
def Desc.dstStride (d : Nat) : Nat := bits d 192 27

/-- Whether a reserved bit is set. -/
def Desc.reserved (d : Nat) : Bool :=
  [(12, 20), (123, 5), (140, 20), (187, 5), (219, 5)].any (fun e => bits d e.1 e.2 != 0)

/-- Last address of the source span; of the destination span. -/
def Desc.srcEnd (d : Nat) : Nat := Desc.src d + Desc.rows d * Desc.srcStride d + Desc.len d - 1
def Desc.dstEnd (d : Nat) : Nat := Desc.dst d + Desc.rows d * Desc.dstStride d + Desc.len d - 1

/-- Whether a region grants engine `e` access to a whole span. -/
def State.granted (s : State) (e lo hi : Nat) (wr : Bool) : Bool :=
  (List.range 16).any (fun k =>
    decide (s.get Page.busm (BUSM.REGION_BASE.BASE k) ≤ lo) &&
    decide (hi ≤ s.get Page.busm (BUSM.REGION_LIMIT.LIMIT k)) &&
    (s.get Page.busm (if wr then BUSM.REGION_PERM.WR k else BUSM.REGION_PERM.RD k)).testBit e)

/-- The status that the check of a descriptor gives before any transfer, or none where it may run. -/
def State.dmaCheck (s : State) (e d : Nat) : Option Nat :=
  let flat := !Desc.twoD d && (Desc.rows d != 0 || Desc.srcStride d != 0 || Desc.dstStride d != 0)
  if Desc.len d = 0 then some 0x40
  else if Desc.reserved d || flat || decide (0x4000000 < Desc.len d) then some 0x02
  else if 0xFFFFFFFF < Desc.srcEnd d ∨ 0xFFFFFFFF < Desc.dstEnd d then some 0x05
  else if !s.granted e (Desc.src d) (Desc.srcEnd d) false ||
      !s.granted e (Desc.dst d) (Desc.dstEnd d) true then some 0x05
  else if Desc.dst d ≤ 0x223FFFFF ∧ 0x22000000 ≤ Desc.dstEnd d then some 0x05
  else if Desc.src d ≤ Desc.dstEnd d ∧ Desc.dst d ≤ Desc.srcEnd d then some 0x02
  else none

/-- The address of the descriptor at RING_TAIL (R237). -/
def State.descAddr (s : State) (e : Nat) : Nat :=
  let g := Page.dma e
  (s.get g DMA.RING_BASE.ADDR * 32 + 32 * s.get g DMA.RING_TAIL.TAIL) % 2 ^ 32

/-- DMA_DESCRIPTOR_START: the next descriptor is read and checked. -/
def execDmaDescriptorStart (e : Nat) (s : State) : Host.Outcome State Fault Refusal :=
  let g := Page.dma e
  .next (if s.inReset || decide (4 ≤ e) || !s.domOn 6 || s.dmaActive e || !s.flag g DMA.DMA_CTRL.RUN ||
      s.get g DMA.RING_HEAD.HEAD == s.get g DMA.RING_TAIL.TAIL then s
  else
    let r := { s with respErr := false }.busRead (.dma e) true (s.descAddr e) 32 (fun _ => true)
    let d := ofLe r.1
    let t := r.2.setDma e { desc := d, from_ := s.descAddr e
                            code := if r.2.respErr then some 0x41 else r.2.dmaCheck e d
                            since := none }
    t.putB g DMA.DMA_STAT.ACTIVE true)

/-! ### The transfer -/

/-- One row read: the bytes up to the first error response. -/
def State.dmaRead (s : State) (e a n : Nat) : List Byte × State :=
  (piecesOf true a n).foldl (fun (r : List Byte × State) (p : Nat × Nat) =>
    if r.2.respErr then r
    else
      let x := r.2.busRead1 (.dma e) p.1 p.2 true
      if x.2.respErr then (r.1, x.2) else (r.1 ++ x.1, x.2)) ([], s)

/-- One row written, up to the first error response. -/
def State.dmaWriteRow (s : State) (e a : Nat) (l : List Byte) : State :=
  let cells := (List.range l.length).zip l
  (piecesOf true a l.length).foldl (fun (s : State) (p : Nat × Nat) =>
    if s.respErr then s
    else s.busWrite1 (.dma e) none p.1 p.2 (((cells.drop (p.1 - a)).take p.2).map (fun c => (a + c.1, c.2)))) s

/-- One row moved, at most `n` bytes of it; an error response of the read stops what follows it. -/
def State.dmaRow (s : State) (e d r n : Nat) : State :=
  if s.respErr || n == 0 then s
  else
    let x := s.dmaRead e (Desc.src d + r * Desc.srcStride d) n
    let bad := x.2.respErr
    let t := { x.2 with respErr := false }.dmaWriteRow e (Desc.dst d + r * Desc.dstStride d) x.1
    t.respond bad

/-- The transfer of a descriptor, at most `limit` bytes of it (R239). -/
def State.dmaMove (s : State) (e d limit : Nat) : State :=
  (List.range (Desc.rows d + 1)).foldl (fun (s : State) (r : Nat) =>
    s.dmaRow e d r (Nat.min (Desc.len d) (limit - r * Desc.len d))) { s with respErr := false }

/-! ### The end of a descriptor -/

/-- RUN cleared by an error status under HALT_ON_ERR. -/
def State.dmaHalt (s : State) (e : Nat) : State :=
  let g := Page.dma e
  if s.flag g DMA.DMA_CTRL.HALT_ON_ERR && s.flag g DMA.DMA_CTRL.RUN then
    (s.putB g DMA.DMA_CTRL.RUN false).raise g 2
  else s

/-- ISRC.DMA of the descriptor's core is set. -/
def State.dmaSignal (s : State) (d : Nat) : State :=
  let n := Desc.core d
  if Desc.coreEn d && s.domOn (1 + n / 8) then s.setCore n ((s.core n).setSource 4) else s

/-- A descriptor ends with a status: its STATUS word, RING_TAIL, the counters and the interrupts (R237,
R238). -/
def State.dmaEnd (s : State) (e code : Nat) : State :=
  let g := Page.dma e
  let d := (s.dma e).desc
  let a := (s.dma e).from_ + 28
  let s := s.busWrite (.dma e) none true a 4 (leBytes a (code + s.nt / 256 * 256) 4)
  let s := s.put g DMA.RING_TAIL.TAIL
    ((s.get g DMA.RING_TAIL.TAIL + 1) % (s.get g DMA.RING_SIZE.SIZE + 1))
  let s := (s.bump g DMA.DESC_COUNT.COUNT).put g DMA.DMA_STAT.LAST_CODE code
  let s := (s.putB g DMA.DMA_STAT.ACTIVE false).setDma e Dma.reset
  let s := if Desc.irq d then s.raise g 0 else s
  let s := s.dmaSignal d
  if code = 0 ∨ code = 0x40 then s
  else
    let s := if code = 2 ∨ code = 5 then s.log g code else s
    (s.raise g 1).dmaHalt e

/-- DMA_DESCRIPTOR_DONE: the transfer, then the status. `busErr` tells that a transaction outside the model
(the PCIe outbound target) ended with an error after `moved` bytes. -/
def execDmaDescriptorDone (e : Nat) (busErr : Bool) (moved : Nat) (s : State) :
    Host.Outcome State Fault Refusal :=
  .next (if s.inReset || decide (4 ≤ e) || !s.domOn 6 || !s.dmaActive e then s
  else match (s.dma e).code with
  | some c => s.dmaEnd e c
  | none =>
    let d := (s.dma e).desc
    let total := (Desc.rows d + 1) * Desc.len d
    let t := s.dmaMove e d (if busErr then Nat.min moved total else total)
    t.dmaEnd e (if busErr || t.respErr then 0x41 else 0))

/-- Whether the timer of engine `e` runs: a transaction of its current descriptor has been answered RETRY and
has not ended since (R240). -/
def State.dmaTimer (s : State) (e : Nat) : Bool := (s.dma e).since.isSome

/-- DMA_TIMEOUT: DMA_TMO expires during the retries of the current descriptor (R240). -/
def execDmaTimeout (e moved : Nat) (s : State) : Host.Outcome State Fault Refusal :=
  .next (if s.inReset || decide (4 ≤ e) || !s.domOn 6 || !s.dmaActive e || (s.dma e).code.isSome ||
      s.get (Page.dma e) DMA.DMA_TMO.US == 0 || !s.dmaTimer e then s
  else
    let d := (s.dma e).desc
    let t := s.dmaMove e d (Nat.min moved ((Desc.rows d + 1) * Desc.len d))
    (t.masterReset (.dma e) true).dmaEnd e 0x42)

end Sys2Proof.Machine
end

