-- ==== Sys2Proof/Machine/Pins.lean ====
section
/-! DEFINITION. What each pin drives: the clock outputs (R21, R23), PPS_OUT (R336), the bypass controls
(R301), the interrupt pins (R53), GPIO (R65), the gates and driver enables (R369), audio ports, lanes and serial
interfaces, the state of every pin in reset and without its supply (R417), and boundary scan over all of them (R70).
Between the shifts of a JTAG operation, which one command holds whole, TDO is at high impedance (log entry 110). -/

namespace Sys2Proof.Machine

/-- What a pin drives: a level, nothing (high impedance, a released open drain), nothing with the internal pull-down or
pull-up of R417 connected, a termination, electrical idle, or a signal that changes inside the steps of this model (a
gate under its modulator, a serial line). -/
inductive PinDrive where
  | low | high | highZ | pullDown | pullUp | terminated | idle | signal
  deriving DecidableEq, Repr

/-- A level. -/
def PinDrive.level (b : Bool) : PinDrive := if b then .high else .low

/-- A clock of `period` ROOT_CLK periods that rises at phase 0 of the link cycle, with a duty cycle of 50 %. -/
def wave (period phase : Nat) : Bool := decide (phase % period < period / 2)

/-- The level of MCLK_OUTn: 24.576 MHz or 12.288 MHz, rising at an Fs tick, or low (R21, R23). -/
def State.mclkLevel (s : State) (n : Nat) : Bool :=
  let sel := s.pins.mclk / 4 ^ n % 4
  if s.time.starts = 0 then false
  else if sel = 1 then wave 128 s.time.phase
  else if sel = 2 then wave 256 s.time.phase
  else false

/-- A 48 kHz clock: it rises at the ticks that start cycles with an even number (R21). -/
def State.wave48 (s : State) : Bool := s.time.c.toNat % 2 == 0

/-- The level of WCLK_OUTn: the word clock at Fs or at 48 kHz, or low (R21). -/
def State.wclkLevel (s : State) (n : Nat) : Bool :=
  let sel := s.pins.wclk / 4 ^ n % 4
  if s.time.starts = 0 then false
  else if sel = 1 then
    (if s.fs = 0 then s.wave48 else if s.fs = 1 then wave 32768 s.time.phase else wave 16384 s.time.phase)
  else if sel = 2 then s.wave48
  else false

/-- Whether a running port drives an output pin (R346, R358, R417): its clocks where it is their master, DOUT while
it transmits. A port that has not started drives nothing yet. -/
def State.portDrives (s : State) (p role : Nat) : Bool :=
  let g := audioPage p
  s.domOn 8 && s.portRuns p &&
    (if role ≤ 1 then s.dirMaster p true
     else if role = 2 then s.dirEn p true
     else !isI2s p && s.dirEn p false && s.get g TDM.PORT_CTRL.RX_SRC == 2)

/-- Whether a lane's transmitter drives its pair: ON, and no near-end loopback (R268, R276). -/
def State.laneDrives (s : State) (l : Nat) : Bool :=
  let g := Page.lane l
  s.laneOn && s.get g LANE.LANE_STAT.TX_STATE == 0 &&
    !(s.phase l == Phase.test &&
      (s.get g LANE.TEST_CTRL.LOOPBACK == 1 || s.get g LANE.TEST_CTRL.LOOPBACK == 2))

/-- What a pin does while its supply is absent (R417). -/
def pinUnpowered : Pin → PinDrive
  | .ampGate _ _ => .pullDown
  | .boostGate _ => .pullDown
  | .input .resetN _ => .pullDown
  | _ => .highZ

/-- What an input does, in reset and after it alike (R417). -/
def inputState : InPin → PinDrive
  | .receive => .terminated
  | .port => .pullDown
  | .sense => .highZ
  | .xo => .highZ
  | .reference => .pullDown
  | .resetN => .highZ
  | .jtag => .pullUp
  | .trstN => .pullDown

/-- What a pin does in reset (R417). -/
def pinInReset : Pin → PinDrive
  | .mclkOut _ => .low
  | .wclkOut _ => .low
  | .ppsOut => .low
  | .bypCtl _ => .highZ
  | .irqN _ => .highZ
  | .gpio _ => .pullDown
  | .ampGate _ _ => .low
  | .ampDrvEn _ => .highZ
  | .boostGate _ => .low
  | .portOut _ _ => .highZ
  | .laneTx _ => .idle
  | .pcieTx _ => .idle
  | .i2c _ _ => .highZ
  | .qspi _ n => if n = 0 then .pullUp else .highZ
  | .tdo => .highZ
  | .input k _ => inputState k
  | .other _ => .highZ

/-- What a pin drives by its function, out of reset. -/
def State.pinRuns (s : State) : Pin → PinDrive
  | .mclkOut n => .level (s.mclkLevel n)
  | .wclkOut n => .level (s.wclkLevel n)
  | .ppsOut => .level (decide (0 < s.dpll.ppsHigh))
  | .bypCtl ringB =>
    if s.flag Page.ring (if ringB then RING.BYP_STAT.BYPB_DRIVEN else RING.BYP_STAT.BYPA_DRIVEN) then .high
    else .highZ
  | .irqN m => if s.irqPinLow m then .low else .highZ
  | .gpio n => match s.gpioDrive n with
    | some b => .level b
    | none => if (s.get Page.gpio GPIO.GPIO_PD.PD).testBit n then .pullDown else .highZ
  | .ampGate n _ =>
    if !s.domOn 9 || s.ampState n < 2 || 4 < s.ampState n then .low else .signal
  | .ampDrvEn g =>
    if s.domOn 9 then .level ((s.get Page.ampc AMPC.DRV_EN_STAT.DRIVEN).testBit g) else .highZ
  | .boostGate k => if s.domOn 9 && s.boostDrives k then .signal else .low
  | .portOut p role => if s.portDrives p role then .signal else .highZ
  | .laneTx n => if s.laneDrives n then .signal else .idle
  | .pcieTx _ => if s.flag Page.host HOST.HOST_STAT.LINK_UP then .signal else .idle
  | .i2c m _ => if s.i2cBusy m then .signal else .highZ
  | .qspi master n =>
    if master || s.flag Page.mgmt MGMT.BOOT_STAT.READY then .signal else if n = 0 then .pullUp else .highZ
  | .tdo => .highZ
  | .input k _ => inputState k
  | .other _ => .highZ

/-- What a pin drives by its function; in reset its state of R417. -/
def State.pinFunction (s : State) (p : Pin) : PinDrive := if s.inReset then pinInReset p else s.pinRuns p

/-- What a pin drives: while EXTEST is in effect, the level that boundary scan gives it (R70), low for a pin
that the scan chain's contents do not name. -/
def State.pinLevel (s : State) (p : Pin) : PinDrive :=
  if s.pins.extest then .level ((s.pins.drive.find? (fun d => d.pin == p)).any (fun d => d.level))
  else s.pinFunction p

end Sys2Proof.Machine
end

