-- ==== Sys2Proof/Machine/SlotWord.lean ====
section
/-! DEFINITION. The operations that slot words spell (R163 to R170): the command of each slot word by its
PRED, opcode and operand fields, and the commands of a bundle of a program set in the order in which they
issue. The commands of the block name operations; this file says which words of program memory stand for
them. -/

namespace Sys2Proof.Machine

/-- An operand field of `w` bits from bit `lo` on. -/
def fld (w v lo : Nat) : BitVec w := BitVec.ofNat w (bits v lo w)

/-- The operands of layout MA. -/
def macArgs (v : Nat) : MacArgs :=
  { acc := fld 3 v 21, da := fld 6 v 15, db := fld 6 v 9, psh := fld 2 v 7, dual := v.testBit 6,
    clr := v.testBit 5 }

/-- The condition of a COND field (R165). -/
def condOf (n : Nat) : Cond :=
  match n with
  | 0 => .eq | 1 => .ne | 2 => .lt | 3 => .le | 4 => .ltu | 5 => .leu | 6 => .gt | _ => .ge

/-- The operation of a MAC slot word that is not reserved (R165). -/
def macInstr (i : Issue) (v : Nat) : Instr :=
  let dd := fld 6 v 18
  let da := fld 6 v 12
  let db := fld 6 v 6
  match bits v 24 5 with
  | 0x00 => .nop i
  | 0x01 => .mac i (macArgs v)
  | 0x02 => .msu i (macArgs v)
  | 0x03 => .mova i (fld 3 v 21) (fld 6 v 15) (fld 6 v 9)
  | 0x04 => .ext i (fld 6 v 15) (fld 3 v 21) (fld 5 v 10)
  | 0x05 => .extd i (fld 6 v 15) (fld 3 v 21) (fld 5 v 10)
  | 0x06 => .mul i dd da db
  | 0x07 => .divs i (fld 3 v 21) (fld 6 v 15) (fld 6 v 9)
  | 0x08 => .divq i (fld 3 v 21) (fld 6 v 15) (fld 6 v 9) (fld 6 v 3)
  | 0x09 => .add i dd da db
  | 0x0A => .sub i dd da db
  | 0x0B => .adds i dd da db
  | 0x0C => .subs i dd da db
  | 0x0D => .and i dd da db
  | 0x0E => .or i dd da db
  | 0x0F => .xor i dd da db
  | 0x10 => .shli i dd da (fld 5 v 0)
  | 0x11 => .shri i dd da (fld 5 v 0)
  | 0x12 => .srai i dd da (fld 5 v 0)
  | 0x13 => .addi i dd da (fld 12 v 0)
  | 0x14 => .mov i dd da
  | 0x15 => .movi i dd (fld 18 v 0)
  | 0x16 => .movhi i dd (fld 16 v 0)
  | 0x17 => .abs i dd da
  | 0x18 => .neg i dd da
  | 0x19 => .min i dd da db
  | 0x1A => .max i dd da db
  | 0x1B => .cmp i (fld 3 v 21) (condOf (bits v 18 3)) da db
  | 0x1C => .cmpi i (fld 3 v 21) (condOf (bits v 18 3)) da (fld 12 v 0)
  | _ => .reservedEncodingIssue i

/-- The address-register operation of a 24-bit body that is not reserved. -/
def aopInstr (i : Issue) (v : Nat) : Instr :=
  let an := fld 4 v 17
  match bits v 21 3 with
  | 0 => .aaddi i an (fld 17 v 0)
  | 1 => .aadd i an (fld 4 v 0)
  | 2 => .amovi i an (fld 17 v 0)
  | 3 => .amovhi i an (fld 16 v 0)
  | 4 => .amov i an (fld 6 v 0)
  | 5 => .rda i (fld 6 v 0) an
  | _ => .reservedEncodingIssue i

/-- The width of a W field that is not 0 (R166). -/
def accessWidth (w : Nat) : AWidth := if w = 1 then .w4 else if w = 2 then .w8 else .w16

/-- The addressing mode of a single-form word (R166). -/
def modeOf (v : Nat) : AMode :=
  match bits v 9 3 with
  | 0 => .off (fld 9 v 0)
  | 1 => .idx (fld 4 v 0)
  | 2 => .postI (fld 9 v 0)
  | 3 => .postR (fld 4 v 0)
  | 4 => .circ (fld 3 v 6) (fld 6 v 0)
  | _ => .circR (fld 3 v 6) (fld 4 v 0)

/-- One access of a paired-form word, in 14 bits, or none where W is 0 (R166). -/
def pairOf (v : Nat) : Option PairAcc :=
  if bits v 11 2 = 0 then none
  else some { store := v.testBit 13, w := accessWidth (bits v 11 2), an := fld 3 v 8, dr := fld 6 v 2,
              pm := fld 2 v 0 }

/-- The operation of a load/store slot word that is not reserved (R166). -/
def lsInstr (i : Issue) (v : Nat) : Instr :=
  if v.testBit 28 then .pairedAccess i (pairOf (bits v 14 14)) (pairOf (bits v 0 14))
  else match bits v 24 4 with
    | 0 => .nop i
    | 1 => .ld i (accessWidth (bits v 22 2)) (fld 6 v 12) (fld 4 v 18) (modeOf v)
    | 2 => .st i (accessWidth (bits v 22 2)) (fld 6 v 12) (fld 4 v 18) (modeOf v)
    | 3 => .lda i (fld 4 v 12) (fld 4 v 18) (modeOf v)
    | 4 => .sta i (fld 4 v 12) (fld 4 v 18) (modeOf v)
    | 5 => aopInstr i v
    | _ => .reservedEncodingIssue i

/-- The operation of a control slot word that is not reserved (R168 to R170). -/
def ctlInstr (i : Issue) (v : Nat) : Instr :=
  match bits v 24 5 with
  | 0x00 => .nop i
  | 0x01 => .br i (fld 12 v 0)
  | 0x02 => .brl i (fld 4 v 20) (fld 12 v 0)
  | 0x03 => .brr i (fld 4 v 20)
  | 0x04 => .reti i
  | 0x05 => .swi i
  | 0x06 => .rep i (fld 4 v 8) (fld 6 v 0)
  | 0x07 => .loop i (fld 6 v 0)
  | 0x08 => .fbar i
  | 0x09 => .csync i
  | 0x0A => .mfsr i (fld 6 v 18) (fld 6 v 0)
  | 0x0B => .mtsr i (fld 6 v 12) (fld 6 v 0)
  | 0x0C => .mtsri i (fld 16 v 6) (fld 6 v 0)
  | 0x0D => .plog i (fld 3 v 21) (fld 3 v 18) (fld 3 v 15) (fld 4 v 11)
  | 0x0E => aopInstr i v
  | _ => .reservedEncodingIssue i

/-- Whether a word is reserved in its slot, apart from its place and the other slots (R173). -/
def slotReserved (slot v : Nat) : Bool :=
  if slot < 2 then macReserved v else if slot = 2 then lsReserved v else ctlReserved v

/-- The command that a slot word of core `core` spells, `adv` bundles on (R163). -/
def slotInstr (core adv slot v : Nat) : Instr :=
  let i : Issue := { core := core, slot := slot, pred := Machine.fld 3 v 29, adv := adv }
  if slotReserved slot v then .reservedEncodingIssue i
  else if slot < 2 then macInstr i v
  else if slot = 2 then lsInstr i v
  else ctlInstr i v

/-- Whether the control word `v` of the bundle that core `n` comes to `adv` bundles on is a CSYNC that acts: not
reserved, by itself or by its place, and with its predicate at 1. -/
def State.syncs (s : State) (n adv v : Nat) : Bool :=
  let at_ : Issue := { core := n, slot := 3, pred := Machine.fld 3 v 29, adv := adv }
  let c := (s.core n).advance (s.bundlesOn at_)
  bits v 24 5 == 9 && !ctlReserved v && !s.flowBad n c && c.predOf at_

/-- The four commands of bundle `b` of the program set that core `n` fetches from, `adv` bundles on, in slot
order (R97, R162); a CSYNC that acts comes first, since the core waits before it issues the bundle (R156). A half
with an uncorrectable error spells two NOPs (R136). -/
def State.spelled (s : State) (n b adv : Nat) : List Instr :=
  let w (k : Nat) : Nat := s.bundleWord (s.fetchBase n) b k
  if s.syncs n adv (w 3) then
    [slotInstr n adv 3 (w 3), slotInstr n 0 0 (w 0), slotInstr n 0 1 (w 1), slotInstr n 0 2 (w 2)]
  else
    [slotInstr n adv 0 (w 0), slotInstr n 0 1 (w 1), slotInstr n 0 2 (w 2), slotInstr n 0 3 (w 3)]

end Sys2Proof.Machine
end

