-- ==== Sys2Proof/Machine/Dispatch.lean ====
section
/-! DEFINITION. What each command does: one arm per constructor of `Instr`, each a call of the
meaning in the file of its family. -/

namespace Sys2Proof.Machine

/-- The effect of a command on everything but the queue. -/
def exec (i : Instr) (s : State) : Host.Outcome State Fault Refusal :=
  match i with
  | .resetNLow ns => Sys2Proof.Machine.execResetNLow ns s
  | .resetNRise => Sys2Proof.Machine.execResetNRise s
  | .rootPllLock => Sys2Proof.Machine.execRootPllLock s
  | .rootUnlock => Sys2Proof.Machine.execRootUnlock s
  | .xoLoss => Sys2Proof.Machine.execXoLoss s
  | .bootReady vcoreMv => Sys2Proof.Machine.execBootReady vcoreMv s
  | .devRst key => Sys2Proof.Machine.execDevRst key s
  | .devRstRelease => Sys2Proof.Machine.execDevRstRelease s
  | .fsSelWrite value => Sys2Proof.Machine.execFsSelWrite value s
  | .fsChangeApply => Sys2Proof.Machine.execFsChangeApply s
  | .mclkSelApply => Sys2Proof.Machine.execMclkSelApply s
  | .nominalCycleStart => Sys2Proof.Machine.execNominalCycleStart s
  | .fsTick sense => Sys2Proof.Machine.execFsTick sense s
  | .passStart pass => Sys2Proof.Machine.execPassStart pass s
  | .clusterPassOverrun pass => Sys2Proof.Machine.execClusterPassOverrun pass s
  | .registerWrite acc => Sys2Proof.Machine.execRegisterWrite acc s
  | .tableWrite acc => Sys2Proof.Machine.execTableWrite acc s
  | .softRst page => Sys2Proof.Machine.execSoftRst page s
  | .sync page => Sys2Proof.Machine.execSync page s
  | .syncDone page => Sys2Proof.Machine.execSyncDone page s
  | .irqForce page bits => Sys2Proof.Machine.execIrqForce page bits s
  | .pageLock page => Sys2Proof.Machine.execPageLock page s
  | .commitGo ctrl => Sys2Proof.Machine.execCommitGo ctrl s
  | .commitAbort ctrl => Sys2Proof.Machine.execCommitAbort ctrl s
  | .commitValidationDone => Sys2Proof.Machine.execCommitValidationDone s
  | .commitApply => Sys2Proof.Machine.execCommitApply s
  | .vectorAssert v => Sys2Proof.Machine.execVectorAssert v s
  | .vecEoi reg bits => Sys2Proof.Machine.execVecEoi reg bits s
  | .pcieReset kind => Sys2Proof.Machine.execPcieReset kind s
  | .dstateChange d3 => Sys2Proof.Machine.execDstateChange d3 s
  | .qspiWrite addr cnt words => Sys2Proof.Machine.execQspiWrite addr cnt words s
  | .qspiRead addr cnt frame => Sys2Proof.Machine.execQspiRead addr cnt frame s
  | .qspiStatus => Sys2Proof.Machine.execQspiStatus s
  | .getVersion len tag => Sys2Proof.Machine.execGetVersion len tag s
  | .getUid len tag => Sys2Proof.Machine.execGetUid len tag s
  | .flashRead len tag => Sys2Proof.Machine.execFlashRead len tag s
  | .flashWrite len tag => Sys2Proof.Machine.execFlashWrite len tag s
  | .flashErase len tag => Sys2Proof.Machine.execFlashErase len tag s
  | .imageVerify len tag => Sys2Proof.Machine.execImageVerify len tag s
  | .imageSetPref len tag => Sys2Proof.Machine.execImageSetPref len tag s
  | .imageSwitch len tag => Sys2Proof.Machine.execImageSwitch len tag s
  | .thermalRead len tag => Sys2Proof.Machine.execThermalRead len tag s
  | .thermalSetAlarm len tag => Sys2Proof.Machine.execThermalSetAlarm len tag s
  | .debugChallenge len tag => Sys2Proof.Machine.execDebugChallenge len tag s
  | .debugResponse len tag => Sys2Proof.Machine.execDebugResponse len tag s
  | .debugKeyProgram len tag => Sys2Proof.Machine.execDebugKeyProgram len tag s
  | .rollbackAdvance len tag => Sys2Proof.Machine.execRollbackAdvance len tag s
  | .mbxCommandEnd verdict => Sys2Proof.Machine.execMbxCommandEnd verdict s
  | .watchdogRestart => Sys2Proof.Machine.execWatchdogRestart s
  | .controllerRestartDone => Sys2Proof.Machine.execControllerRestartDone s
  | .gpioSet bits => Sys2Proof.Machine.execGpioSet bits s
  | .gpioClr bits => Sys2Proof.Machine.execGpioClr bits s
  | .gpioEdge pin level => Sys2Proof.Machine.execGpioEdge pin level s
  | .i2cGo m cmd => Sys2Proof.Machine.execI2cGo m cmd s
  | .i2cTransactionEnd m result wrDone rdata => Sys2Proof.Machine.execI2cTransactionEnd m result wrDone rdata s
  | .stretchTmo m wrDone rdata => Sys2Proof.Machine.execStretchTmo m wrDone rdata s
  | .extest on drive => Sys2Proof.Machine.execExtest on drive s
  | .frameCfgWrite value => Sys2Proof.Machine.execFrameCfgWrite value s
  | .signalPlaneWrite acc core => Sys2Proof.Machine.execSignalPlaneWrite acc core s
  | .clipDataRead => Sys2Proof.Machine.execClipDataRead s
  | .stageInStart c => Sys2Proof.Machine.execStageInStart c s
  | .coreFrameStart c => Sys2Proof.Machine.execCoreFrameStart c s
  | .stageOutStart c => Sys2Proof.Machine.execStageOutStart c s
  | .stageOutDone c => Sys2Proof.Machine.execStageOutDone c s
  | .frameBarrierReached n => Sys2Proof.Machine.execFrameBarrierReached n s
  | .coreOverrun n => Sys2Proof.Machine.execCoreOverrun n s
  | .interruptEntry n => Sys2Proof.Machine.execInterruptEntry n s
  | .doorbell n value => Sys2Proof.Machine.execDoorbell n value s
  | .csyncRelease c => Sys2Proof.Machine.execCsyncRelease c s
  | .ibexEccWriteback addr => Sys2Proof.Machine.execIbexEccWriteback addr s
  | .nop at_ => Sys2Proof.Machine.execNop at_ s
  | .mac at_ a => Sys2Proof.Machine.execMac at_ a s
  | .msu at_ a => Sys2Proof.Machine.execMsu at_ a s
  | .mova at_ acc dx sh => Sys2Proof.Machine.execMova at_ acc dx sh s
  | .ext at_ dd acc sh => Sys2Proof.Machine.execExt at_ dd acc sh s
  | .extd at_ dd acc sh => Sys2Proof.Machine.execExtd at_ dd acc sh s
  | .mul at_ dd da db => Sys2Proof.Machine.execMul at_ dd da db s
  | .divs at_ acc dq dy => Sys2Proof.Machine.execDivs at_ acc dq dy s
  | .divq at_ acc dq dx dy => Sys2Proof.Machine.execDivq at_ acc dq dx dy s
  | .add at_ dd da db => Sys2Proof.Machine.execAdd at_ dd da db s
  | .sub at_ dd da db => Sys2Proof.Machine.execSub at_ dd da db s
  | .adds at_ dd da db => Sys2Proof.Machine.execAdds at_ dd da db s
  | .subs at_ dd da db => Sys2Proof.Machine.execSubs at_ dd da db s
  | .and at_ dd da db => Sys2Proof.Machine.execAnd at_ dd da db s
  | .or at_ dd da db => Sys2Proof.Machine.execOr at_ dd da db s
  | .xor at_ dd da db => Sys2Proof.Machine.execXor at_ dd da db s
  | .shli at_ dd da n => Sys2Proof.Machine.execShli at_ dd da n s
  | .shri at_ dd da n => Sys2Proof.Machine.execShri at_ dd da n s
  | .srai at_ dd da n => Sys2Proof.Machine.execSrai at_ dd da n s
  | .addi at_ dd da imm => Sys2Proof.Machine.execAddi at_ dd da imm s
  | .mov at_ dd da => Sys2Proof.Machine.execMov at_ dd da s
  | .movi at_ dd imm => Sys2Proof.Machine.execMovi at_ dd imm s
  | .movhi at_ dd imm => Sys2Proof.Machine.execMovhi at_ dd imm s
  | .abs at_ dd da => Sys2Proof.Machine.execAbs at_ dd da s
  | .neg at_ dd da => Sys2Proof.Machine.execNeg at_ dd da s
  | .min at_ dd da db => Sys2Proof.Machine.execMin at_ dd da db s
  | .max at_ dd da db => Sys2Proof.Machine.execMax at_ dd da db s
  | .cmp at_ pd c da db => Sys2Proof.Machine.execCmp at_ pd c da db s
  | .cmpi at_ pd c da imm => Sys2Proof.Machine.execCmpi at_ pd c da imm s
  | .ld at_ w dr an mode => Sys2Proof.Machine.execLd at_ w dr an mode s
  | .st at_ w dr an mode => Sys2Proof.Machine.execSt at_ w dr an mode s
  | .lda at_ ar an mode => Sys2Proof.Machine.execLda at_ ar an mode s
  | .sta at_ ar an mode => Sys2Proof.Machine.execSta at_ ar an mode s
  | .pairedAccess at_ a0 a1 => Sys2Proof.Machine.execPairedAccess at_ a0 a1 s
  | .aaddi at_ an imm => Sys2Proof.Machine.execAaddi at_ an imm s
  | .aadd at_ an am => Sys2Proof.Machine.execAadd at_ an am s
  | .amovi at_ an imm => Sys2Proof.Machine.execAmovi at_ an imm s
  | .amovhi at_ an imm => Sys2Proof.Machine.execAmovhi at_ an imm s
  | .amov at_ an dm => Sys2Proof.Machine.execAmov at_ an dm s
  | .rda at_ dd an => Sys2Proof.Machine.execRda at_ dd an s
  | .br at_ target => Sys2Proof.Machine.execBr at_ target s
  | .brl at_ an target => Sys2Proof.Machine.execBrl at_ an target s
  | .brr at_ an => Sys2Proof.Machine.execBrr at_ an s
  | .reti at_ => Sys2Proof.Machine.execReti at_ s
  | .swi at_ => Sys2Proof.Machine.execSwi at_ s
  | .rep at_ len count => Sys2Proof.Machine.execRep at_ len count s
  | .loop at_ len => Sys2Proof.Machine.execLoop at_ len s
  | .fbar at_ => Sys2Proof.Machine.execFbar at_ s
  | .csync at_ => Sys2Proof.Machine.execCsync at_ s
  | .mfsr at_ dd srn => Sys2Proof.Machine.execMfsr at_ dd srn s
  | .mtsr at_ dm srn => Sys2Proof.Machine.execMtsr at_ dm srn s
  | .mtsri at_ imm srn => Sys2Proof.Machine.execMtsri at_ imm srn s
  | .plog at_ pd pa pb tt => Sys2Proof.Machine.execPlog at_ pd pa pb tt s
  | .reservedEncodingIssue at_ => Sys2Proof.Machine.execReservedEncodingIssue at_ s
  | .haltReq n => Sys2Proof.Machine.execHaltReq n s
  | .coreHalted n cause => Sys2Proof.Machine.execCoreHalted n cause s
  | .resume n => Sys2Proof.Machine.execResume n s
  | .step n => Sys2Proof.Machine.execStep n s
  | .migStart c source => Sys2Proof.Machine.execMigStart c source s
  | .migrationCopyStart c => Sys2Proof.Machine.execMigrationCopyStart c s
  | .migFollowing c => Sys2Proof.Machine.execMigFollowing c s
  | .migCancel c cause => Sys2Proof.Machine.execMigCancel c cause s
  | .storeEccWriteback addr => Sys2Proof.Machine.execStoreEccWriteback addr s
  | .busTransaction by_ write addr bytes strobes qos core inL0 => Sys2Proof.Machine.execBusTransaction by_ write addr bytes strobes qos core inL0 s
  | .busRetry by_ inL0 => Sys2Proof.Machine.execBusRetry by_ inL0 s
  | .sliceCtrlWrite value => Sys2Proof.Machine.execSliceCtrlWrite value s
  | .zfill bits => Sys2Proof.Machine.execZfill bits s
  | .zfillDone bank => Sys2Proof.Machine.execZfillDone bank s
  | .scrubPassStart => Sys2Proof.Machine.execScrubPassStart s
  | .scrubPassEnd => Sys2Proof.Machine.execScrubPassEnd s
  | .scrubLate => Sys2Proof.Machine.execScrubLate s
  | .dmaDescriptorStart e => Sys2Proof.Machine.execDmaDescriptorStart e s
  | .dmaDescriptorDone e busErr moved => Sys2Proof.Machine.execDmaDescriptorDone e busErr moved s
  | .dmaTimeout e moved => Sys2Proof.Machine.execDmaTimeout e moved s
  | .markerReceive lane body arrive => Sys2Proof.Machine.execMarkerReceive lane body arrive s
  | .markerMissing lane => Sys2Proof.Machine.execMarkerMissing lane s
  | .idleReceive lane body => Sys2Proof.Machine.execIdleReceive lane body s
  | .serviceReceive lane body arrive => Sys2Proof.Machine.execServiceReceive lane body arrive s
  | .ts1Receive lane body => Sys2Proof.Machine.execTs1Receive lane body s
  | .ts2Receive lane body => Sys2Proof.Machine.execTs2Receive lane body s
  | .loopTestReceive lane body => Sys2Proof.Machine.execLoopTestReceive lane body s
  | .invalidHeader lane => Sys2Proof.Machine.execInvalidHeader lane s
  | .retrain lane => Sys2Proof.Machine.execRetrain lane s
  | .laneEnable lane en => Sys2Proof.Machine.execLaneEnable lane en s
  | .laneTrainGranted lane => Sys2Proof.Machine.execLaneTrainGranted lane s
  | .trainPhaseAdvance lane => Sys2Proof.Machine.execTrainPhaseAdvance lane s
  | .confirmCountDone lane => Sys2Proof.Machine.execConfirmCountDone lane s
  | .trainPhaseTimeout lane => Sys2Proof.Machine.execTrainPhaseTimeout lane s
  | .trainTotalTimeout lane => Sys2Proof.Machine.execTrainTotalTimeout lane s
  | .backoffExpiry lane => Sys2Proof.Machine.execBackoffExpiry lane s
  | .energyDetect lane => Sys2Proof.Machine.execEnergyDetect lane s
  | .beaconBurst lane => Sys2Proof.Machine.execBeaconBurst lane s
  | .spurHuntTimeout lane => Sys2Proof.Machine.execSpurHuntTimeout lane s
  | .testCtrlWrite lane value => Sys2Proof.Machine.execTestCtrlWrite lane value s
  | .chkRestart lane => Sys2Proof.Machine.execChkRestart lane s
  | .chkBitsLoRead lane => Sys2Proof.Machine.execChkBitsLoRead lane s
  | .injGo lane value => Sys2Proof.Machine.execInjGo lane value s
  | .injPeriod lane => Sys2Proof.Machine.execInjPeriod lane s
  | .ltSend lane => Sys2Proof.Machine.execLtSend lane s
  | .ltTimeout lane => Sys2Proof.Machine.execLtTimeout lane s
  | .cellReceive trunk cell arrive => Sys2Proof.Machine.execCellReceive trunk cell arrive s
  | .spurCellReceive spur cell arrive => Sys2Proof.Machine.execSpurCellReceive spur cell arrive s
  | .wrappedCellExpiry trunk => Sys2Proof.Machine.execWrappedCellExpiry trunk s
  | .insSet ringB => Sys2Proof.Machine.execInsSet ringB s
  | .insertionProceed ringB => Sys2Proof.Machine.execInsertionProceed ringB s
  | .insDone ringB => Sys2Proof.Machine.execInsDone ringB s
  | .insFail ringB => Sys2Proof.Machine.execInsFail ringB s
  | .insClear ringB => Sys2Proof.Machine.execInsClear ringB s
  | .svcSend port => Sys2Proof.Machine.execSvcSend port s
  | .svcPop port => Sys2Proof.Machine.execSvcPop port s
  | .streamStatRead => Sys2Proof.Machine.execStreamStatRead s
  | .freqMeasurement k raw => Sys2Proof.Machine.execFreqMeasurement k raw s
  | .refActivityLoss k => Sys2Proof.Machine.execRefActivityLoss k s
  | .soakComplete k => Sys2Proof.Machine.execSoakComplete k s
  | .numFreqWrite value => Sys2Proof.Machine.execNumFreqWrite value s
  | .numPhaseWrite value => Sys2Proof.Machine.execNumPhaseWrite value s
  | .dpllPhaseSample err => Sys2Proof.Machine.execDpllPhaseSample err s
  | .dpllLocked => Sys2Proof.Machine.execDpllLocked s
  | .holdoverEvaluate => Sys2Proof.Machine.execHoldoverEvaluate s
  | .pstepGo ctrl => Sys2Proof.Machine.execPstepGo ctrl s
  | .pstepDone => Sys2Proof.Machine.execPstepDone s
  | .align => Sys2Proof.Machine.execAlign s
  | .alignDone => Sys2Proof.Machine.execAlignDone s
  | .set => Sys2Proof.Machine.execSet s
  | .setDone => Sys2Proof.Machine.execSetDone s
  | .ntNowRead at_ => Sys2Proof.Machine.execNtNowRead at_ s
  | .ppsInEdge at_ => Sys2Proof.Machine.execPpsInEdge at_ s
  | .ppsOutCycWrite value => Sys2Proof.Machine.execPpsOutCycWrite value s
  | .arm k ctrl => Sys2Proof.Machine.execArm k ctrl s
  | .disarm k ctrl => Sys2Proof.Machine.execDisarm k ctrl s
  | .schedCommit k => Sys2Proof.Machine.execSchedCommit k s
  | .schedPortStart k => Sys2Proof.Machine.execSchedPortStart k s
  | .schedPhaseStep k => Sys2Proof.Machine.execSchedPhaseStep k s
  | .schedMute k => Sys2Proof.Machine.execSchedMute k s
  | .schedUnmute k => Sys2Proof.Machine.execSchedUnmute k s
  | .schedTrunkInsert k => Sys2Proof.Machine.execSchedTrunkInsert k s
  | .schedUserEvent k => Sys2Proof.Machine.execSchedUserEvent k s
  | .portStartWrite groups => Sys2Proof.Machine.execPortStartWrite groups s
  | .portStartTick => Sys2Proof.Machine.execPortStartTick s
  | .portRxFrame port frame => Sys2Proof.Machine.execPortRxFrame port frame s
  | .portTxFrame port len frac rate => Sys2Proof.Machine.execPortTxFrame port len frac rate s
  | .clkLoss port tx => Sys2Proof.Machine.execClkLoss port tx s
  | .maskImmWrite port tx mask => Sys2Proof.Machine.execMaskImmWrite port tx mask s
  | .portStop port => Sys2Proof.Machine.execPortStop port s
  | .senseSample chan v i0 => Sys2Proof.Machine.execSenseSample chan v i0 s
  | .carrierPeriod chan => Sys2Proof.Machine.execCarrierPeriod chan s
  | .ocpComparator chan => Sys2Proof.Machine.execOcpComparator chan s
  | .ampEnable chan en => Sys2Proof.Machine.execAmpEnable chan en s
  | .probeStart chan => Sys2Proof.Machine.execProbeStart chan s
  | .probeDone chan meanV meanI => Sys2Proof.Machine.execProbeDone chan meanV meanI s
  | .holdExpiry chan => Sys2Proof.Machine.execHoldExpiry chan s
  | .attemptsClear chan => Sys2Proof.Machine.execAttemptsClear chan s
  | .latchClr chan => Sys2Proof.Machine.execLatchClr chan s
  | .probeReq chan => Sys2Proof.Machine.execProbeReq chan s
  | .mute chan on => Sys2Proof.Machine.execMute chan on s
  | .pilotWindowEnd chan => Sys2Proof.Machine.execPilotWindowEnd chan s
  | .calGo ctrl => Sys2Proof.Machine.execCalGo ctrl s
  | .calStepEnd => Sys2Proof.Machine.execCalStepEnd s
  | .boostEnable k en => Sys2Proof.Machine.execBoostEnable k en s
  | .boostRiseGranted k => Sys2Proof.Machine.execBoostRiseGranted k s
  | .railReady k => Sys2Proof.Machine.execRailReady k s
  | .railCfgWrite k value => Sys2Proof.Machine.execRailCfgWrite k value s
  | .boostSwitchPeriod k peak vsn => Sys2Proof.Machine.execBoostSwitchPeriod k peak vsn s
  | .railOv k => Sys2Proof.Machine.execRailOv k s
  | .railUv k => Sys2Proof.Machine.execRailUv k s
  | .pwrReqGo req => Sys2Proof.Machine.execPwrReqGo req s
  | .retSigDone => Sys2Proof.Machine.execRetSigDone s
  | .domainStopped => Sys2Proof.Machine.execDomainStopped s
  | .domainWakeGranted => Sys2Proof.Machine.execDomainWakeGranted s
  | .domainWakeDone => Sys2Proof.Machine.execDomainWakeDone s
  | .ledgerGrant => Sys2Proof.Machine.execLedgerGrant s
  | .ledgerTimeout kind inst => Sys2Proof.Machine.execLedgerTimeout kind inst s
  | .thermalSample temps => Sys2Proof.Machine.execThermalSample temps s
  | .vcoreEvaluate wantMv => Sys2Proof.Machine.execVcoreEvaluate wantMv s
  | .vcoreMove acks => Sys2Proof.Machine.execVcoreMove acks s
  | .chkLocked lane => Sys2Proof.Machine.execChkLocked lane s
  | .chkLockLost lane => Sys2Proof.Machine.execChkLockLost lane s
  | .refActivityReturn k => Sys2Proof.Machine.execRefActivityReturn k s
  | .pcieLinkUp speed x2 cfg => Sys2Proof.Machine.execPcieLinkUp speed x2 cfg s
  | .holdoverEstimatorMean => Sys2Proof.Machine.execHoldoverEstimatorMean s
  | .ntBit31Change at_ => Sys2Proof.Machine.execNtBit31Change at_ s

end Sys2Proof.Machine
end

