-- ==== Sys2Proof/Safety.lean ====
section
/-! DEFINITION. The terms in which statements speak of runs: the canonical form of memory, the invariant
of every state, what no command may undo, and frames. -/

namespace Sys2Proof.Machine

/-- Memory in its one canonical form: addresses rise strictly, and no listed byte is 0, which an address
that is not listed reads as. -/
def Memory.wf (m : List Host.Cell) : Bool := Tab.wf (0 : Byte) m

/-- The invariant of the machine: memory is canonical, the instant lies inside the link cycle of 32,768
ROOT_CLK periods, and Q lies below 3 × 2^32 (R305). -/
structure State.Inv (s : State) : Prop where
  mem   : Memory.wf s.mem = true
  phase : s.time.phase < 32768
  q     : s.time.q < 3 * 2 ^ 32

/-- What no command of the machine undoes between two states: the waiting commands stay as they are, the
invariant holds on, the anti-rollback counter never falls, a programmed debug key stays (R61, R64), and
no free value is drawn again. -/
structure Keeps (s t : State) : Prop where
  pending  : t.pending = s.pending
  inv      : s.Inv → t.Inv
  rollback : s.mgmt.rollback ≤ t.mgmt.rollback
  key      : ∀ k, s.mgmt.key = some k → t.mgmt.key = some k
  free     : s.freeCtr ≤ t.freeCtr

/-! ### Frames -/

/-- The parts of the state that a command can change: all of it but the queue. -/
inductive Part where
  | inReset | fld | shadow | staged | dirtyTab | dirtyReg | mem | marks | ecc | dom | undef | time 
  | cores | clus | fseq | oryx | meters | eqSecs | delay | ledger | pwr | lanes | ring | dpll | audio
  | startTrig | amps | boosts | cal | commit | mgmt | pins | dmas | retries | vcore | freeCtr 
  | readData | respErr
  deriving DecidableEq, Repr

/-- Part `p` is the same in both states. -/
def Part.same (p : Part) (s t : State) : Prop :=
  match p with
  | .inReset => t.inReset = s.inReset
  | .fld => t.fld = s.fld
  | .shadow => t.shadow = s.shadow
  | .staged => t.staged = s.staged
  | .dirtyTab => t.dirtyTab = s.dirtyTab
  | .dirtyReg => t.dirtyReg = s.dirtyReg
  | .mem => t.mem = s.mem
  | .marks => t.marks = s.marks
  | .ecc => t.ecc = s.ecc
  | .dom => t.dom = s.dom
  | .undef => t.undef = s.undef
  | .time => t.time = s.time
  | .cores => t.cores = s.cores
  | .clus => t.clus = s.clus
  | .fseq => t.fseq = s.fseq
  | .oryx => t.oryx = s.oryx
  | .meters => t.meters = s.meters
  | .eqSecs => t.eqSecs = s.eqSecs
  | .delay => t.delay = s.delay
  | .ledger => t.ledger = s.ledger
  | .pwr => t.pwr = s.pwr
  | .lanes => t.lanes = s.lanes
  | .ring => t.ring = s.ring
  | .dpll => t.dpll = s.dpll
  | .audio => t.audio = s.audio
  | .startTrig => t.startTrig = s.startTrig
  | .amps => t.amps = s.amps
  | .boosts => t.boosts = s.boosts
  | .cal => t.cal = s.cal
  | .commit => t.commit = s.commit
  | .mgmt => t.mgmt = s.mgmt
  | .pins => t.pins = s.pins
  | .dmas => t.dmas = s.dmas
  | .retries => t.retries = s.retries
  | .vcore => t.vcore = s.vcore
  | .freeCtr => t.freeCtr = s.freeCtr
  | .readData => t.readData = s.readData
  | .respErr => t.respErr = s.respErr

/-- No part outside `ps` differs, and the queue is the same. -/
structure Only (ps : List Part) (s t : State) : Prop where
  pending : t.pending = s.pending
  same    : ∀ p, p ∉ ps → p.same s t

/-- No register (page and offset) outside `rs` differs in what software reads of its active copy. -/
def OnlyRegs (rs : List (Nat × Nat)) (s t : State) : Prop :=
  ∀ (p : Nat) (f : Fld), f.off < 0x1000 → f.lo < 32 → (p, f.off) ∉ rs → t.get p f = s.get p f

/-- A write to a block register of page `p` reaches the register: the device is not in reset, the page need
not wait for READY (R56), its domain is ON (R38), it is not locked (R69), and no migration into its cluster is
under way (R160). -/
structure State.Takes (s : State) (p : Nat) : Prop where
  run    : s.inReset = false
  ready  : s.notReady p = false
  on     : s.pageOn p = true
  opened : s.locked p = false
  unheld : s.spareHeld p = false

/-- Interrupt bit `b` of page `p` is set, and no other bit of its IRQ_RAW differs. -/
def Raised (p b : Nat) (s t : State) : Prop :=
  t.get p HDR.IRQ_RAW.RAW = (s.get p HDR.IRQ_RAW.RAW ||| 2 ^ b) % 2 ^ 32

/-- An error was logged by page `p` alone (R37): the count saturates, the code and the time stand in
ERR_LAST, no other register differs. -/
def Logged (p code : Nat) (s t : State) : Prop :=
  t.get p HDR.ERR_COUNT.COUNT = Nat.min (s.get p HDR.ERR_COUNT.COUNT + 1) 65535 ∧
  t.get p HDR.ERR_LAST.CODE = code ∧ t.get p HDR.ERR_LAST.NT_STAMP = s.nt / 256 % 2 ^ 24 ∧
  OnlyRegs [(p, 0x24), (p, 0x28)] s t ∧ Only [.fld] s t

/-- A write access of 32 bits to the register at offset `off` of page `p`, aligned and with all byte enables
(R35), by a master other than the debug port; `v` is its data. -/
structure Writes (acc : Access) (p off v : Nat) : Prop where
  master  : acc.by_ ≠ .jtag
  size    : acc.size = 4
  enables : acc.enables.toNat % 16 = 15
  page    : p < 256
  offset  : off < 0x1000 ∧ off % 4 = 0
  addr    : acc.addr = 0x10000000 + p * 0x1000 + off
  data    : acc.data.toNat % 2 ^ 32 = v

/-- The bundle of an operation issues on its core and its slot is not past (R97, R171; log entry 91); the core is
`c` as the operation issues. No bundle that the core fetches on the way has an error in its check bits, and the
operation's own half of the bundle at RR was fetched whole (R136). -/
structure State.Reaches (s : State) (at_ : Issue) (c : Core) : Prop where
  run    : s.inReset = false
  core   : at_.core < 32
  on     : s.domOn (1 + at_.core / 8) = true
  before : (s.core at_.core).takes (s.bundlesOn at_) at_.slot = true
  bundle : { (s.core at_.core).advance (s.bundlesOn at_) with slotNext := at_.slot + 1 } = c
  clean  : ∀ pc ∈ (s.core at_.core).fetches (s.bundlesOn at_), ∀ h, h < 2 →
    s.unitEcc 8 ((s.fetchBase at_.core + 16 * pc.toNat + 8 * h) / 8) = none
  whole  : s.slotLost at_.core at_.slot c = false
  issues : c.issues 0 = true

/-- The same, with the operation's predicate at 1 (R99): the operation acts. -/
structure State.Acts (s : State) (at_ : Issue) (c : Core) : Prop extends State.Reaches s at_ c where
  pred : c.readP at_.pred.toNat = true

/-- Core `n` is `c` in `t`; the matching core of a following spare may have taken the same state (R158), no
other core differs. -/
structure CoreIs (n : Nat) (c : Core) (s t : State) : Prop where
  core   : t.core n = c
  others : ∀ m, m ≠ n → (∀ k, s.follower (n / 8) = some k → m ≠ 8 * k + n % 8) → t.core m = s.core m

/-- What an event of core `n` shows on its page (R124, R125). -/
def EventShown (n : Nat) (s t : State) : Ev → Prop
  | .xov => t.get (Page.ibex n) IBEX.XOV_COUNT.COUNT =
      Nat.min (s.get (Page.ibex n) IBEX.XOV_COUNT.COUNT + 1) (2 ^ IBEX.XOV_COUNT.COUNT.w - 1) ∧
      Raised (Page.ibex n) 0 s t
  | .xlost => Raised (Page.ibex n) 1 s t
  | .sat => t.get (Page.ibex n) IBEX.SAT_COUNT.COUNT =
      Nat.min (s.get (Page.ibex n) IBEX.SAT_COUNT.COUNT + 1) (2 ^ IBEX.SAT_COUNT.COUNT.w - 1) ∧
      Raised (Page.ibex n) 2 s t
  | .satCountOnlyDz => t.get (Page.ibex n) IBEX.SAT_COUNT.COUNT =
      Nat.min (s.get (Page.ibex n) IBEX.SAT_COUNT.COUNT + 1) (2 ^ IBEX.SAT_COUNT.COUNT.w - 1) ∧
      Raised (Page.ibex n) 3 s t
  | .align => Raised (Page.ibex n) 4 s t
  | .bankStall => t.get (Page.ibex n) IBEX.STALL_COUNT.COUNT =
      Nat.min (s.get (Page.ibex n) IBEX.STALL_COUNT.COUNT + 1) (2 ^ IBEX.STALL_COUNT.COUNT.w - 1)

/-- An operation of core `n` in `slot` that reaches no memory: the core is `c` with the flags of its events
under way, a single event shows on the page, and without an event only cores differ. -/
structure Issued (n slot : Nat) (c : Core) (evs : List Ev) (s t : State) : Prop where
  core  : CoreIs n (c.sendFlags slot evs) s t
  quiet : evs = [] → Only [.cores] s t
  event : ∀ e, evs = [e] → s.follower (n / 8) ≠ some (n / 8) → EventShown n s t e
  pages : ∀ (p : Nat) (f : Fld), f.off < 0x1000 → f.lo < 32 → p ≠ Page.ibex n →
    (∀ k, s.follower (n / 8) = some k → p ≠ Page.ibex (8 * k + n % 8)) → t.get p f = s.get p f
  parts : Only [.cores, .fld] s t

/-- A reserved encoding has issued in `slot` of the bundle at which core `n` was `c` (R175): SR.ILL under way,
ILL_INFO and the ILLEGAL interrupt. -/
structure IsIllegal (n slot : Nat) (c : Core) (s t : State) : Prop where
  core   : CoreIs n (c.send slot 7 (.flags 0x40)) s t
  valid  : t.get (Page.ibex n) IBEX.ILL_INFO.VALID = 1
  bundle : t.get (Page.ibex n) IBEX.ILL_INFO.BUNDLE = c.pc.toNat
  slot   : t.get (Page.ibex n) IBEX.ILL_INFO.SLOT = slot
  raised : s.follower (n / 8) ≠ some (n / 8) → Raised (Page.ibex n) 5 s t
  parts  : Only [.cores, .fld] s t

/-- The `n` bytes of Store memory from `a` on are there: the domain is ON, no bank is lost, every word they meet
has valid check bits. -/
structure StoreClean (s : State) (a n : Nat) : Prop where
  on   : s.domOn 6 = true
  kept : Tab.get false s.undef 6 = false
  top  : a + n ≤ 0x04000000
  lost : ∀ b, b < 8 → s.bankLost b = false
  ecc  : ∀ x, a ≤ x → x < a + n → s.storeEcc x = none

/-- What a reset of the whole device leaves (R423): every register and memory as at power-on but the key flag
and the levels at the GPIO pins; every switched domain OFF; flash, OTP and the waiting commands as they
were. -/
structure AfterReset (s t : State) : Prop where
  pending  : t.pending = s.pending
  regs     : ∀ (p : Nat) (f : Fld), f.off < 0x1000 → f.lo < 32 →
    (p, f.off) ≠ (Page.dev, 0x68) → (p, f.off) ≠ (Page.gpio, 0x50) → t.get p f = f.rst
  keySet   : t.flag Page.dev DEV.DBG_STAT.KEY_SET = s.mgmt.key.isSome
  levels   : t.get Page.gpio GPIO.GPIO_IN.IN = s.get Page.gpio GPIO.GPIO_IN.IN % 2 ^ 32
  shadow   : t.shadow = []
  mem      : t.mem = []
  domains  : ∀ d, 1 ≤ d → t.domState d = .off
  time     : t.time = State.reset.time
  parts    : t.cores = [] ∧ t.clus = [] ∧ t.lanes = [] ∧ t.audio = [] ∧ t.amps = [] ∧ t.boosts = [] ∧ t.dmas = []
  flash    : t.mgmt.flash = s.mgmt.flash ∧ t.mgmt.prefB = s.mgmt.prefB
  otp      : t.mgmt.key = s.mgmt.key ∧ t.mgmt.rollback = s.mgmt.rollback

/-! ### What each command can change -/

/-- The parts of the state that a command can change: no other part differs after it. -/
def partsOf (i : Instr) : List Part :=
  match i with
  | .arm _ _ | .attemptsClear _ | .disarm _ _ | .fsChangeApply | .fsSelWrite _ | .gpioClr _ | .gpioEdge _ _
  | .gpioSet _ | .i2cGo _ _ | .insClear _ | .insDone _ | .insFail _ | .insSet _ | .insertionProceed _
  | .irqForce _ _ | .ltTimeout _ | .pageLock _ | .ppsOutCycWrite _ | .pstepDone | .railUv _
  | .schedTrunkInsert _ | .schedUserEvent _ | .set | .sliceCtrlWrite _ | .sync _ | .zfill _ =>
    [.fld]
  | .extest _ _ | .mclkSelApply => [.pins]
  | .vcoreEvaluate _ => [.vcore]
  | .qspiStatus => [.readData]
  | .holdoverEstimatorMean => [.dpll]
  | .ibexEccWriteback _ | .storeEccWriteback _ => [.ecc]
  | .confirmCountDone _ => [.lanes]
  | .csyncRelease _ => [.cores]
  | .domainWakeGranted => [.fld, .pwr]
  | .ledgerGrant | .scrubLate | .scrubPassStart => [.fld, .ledger]
  | .debugChallenge _ _ | .debugKeyProgram _ _ | .debugResponse _ _ | .flashErase _ _ | .flashRead _ _
  | .flashWrite _ _ | .getUid _ _ | .getVersion _ _ | .imageSetPref _ _ | .imageSwitch _ _
  | .imageVerify _ _ | .rollbackAdvance _ _ | .thermalRead _ _ | .thermalSetAlarm _ _ =>
    [.fld, .mgmt]
  | .rootUnlock | .xoLoss => [.fld, .undef]
  | .dstateChange _ | .pcieLinkUp _ _ _ | .vecEoi _ _ | .vectorAssert _ => [.fld, .pins]
  | .commitAbort _ | .commitGo _ | .schedCommit _ => [.fld, .commit]
  | .clkLoss _ _ | .portRxFrame _ _ | .portStop _ | .portTxFrame _ _ _ _ | .schedPortStart _ =>
    [.fld, .audio]
  | .align | .dpllLocked | .dpllPhaseSample _ | .freqMeasurement _ _ | .holdoverEvaluate | .numFreqWrite _
  | .numPhaseWrite _ | .pstepGo _ | .refActivityLoss _ | .refActivityReturn _ | .schedPhaseStep _
  | .soakComplete _ =>
    [.fld, .dpll]
  | .mute _ _ | .pilotWindowEnd _ | .schedMute _ | .schedUnmute _ | .senseSample _ _ _ => [.fld, .amps]
  | .portStartWrite _ => [.fld, .startTrig]
  | .boostRiseGranted _ | .boostSwitchPeriod _ _ _ | .railOv _ => [.fld, .boosts]
  | .calGo _ => [.fld, .cal]
  | .ntBit31Change _ => [.fld, .time]
  | .frameCfgWrite _ => [.fld, .marks]
  | .beaconBurst _ | .chkLocked _ | .chkRestart _ | .laneTrainGranted _ | .ltSend _ => [.fld, .lanes]
  | .svcPop _ | .svcSend _ | .wrappedCellExpiry _ => [.fld, .ring]
  | .migrationCopyStart _ => [.fld, .clus]
  | .coreHalted _ _ | .doorbell _ _ | .frameBarrierReached _ | .haltReq _ | .resume _ | .step _ =>
    [.fld, .cores]
  | .i2cTransactionEnd _ _ _ _ | .stretchTmo _ _ _ => [.fld, .pins, .freeCtr]
  | .thermalSample _ => [.fld, .undef, .dpll]
  | .watchdogRestart => [.fld, .mgmt, .retries]
  | .controllerRestartDone => [.fld, .mgmt, .freeCtr]
  | .portStartTick => [.fld, .audio, .startTrig]
  | .boostEnable _ _ | .railCfgWrite _ _ | .railReady _ => [.fld, .ledger, .boosts]
  | .calStepEnd => [.fld, .amps, .freeCtr]
  | .ntNowRead _ => [.fld, .time, .readData]
  | .ppsInEdge _ => [.fld, .time, .dpll]
  | .signalPlaneWrite _ _ => [.fld, .mem, .marks]
  | .chkLockLost _ | .injGo _ _ | .injPeriod _ | .trainPhaseAdvance _ => [.fld, .lanes, .freeCtr]
  | .trainPhaseTimeout _ | .trainTotalTimeout _ => [.fld, .ledger, .lanes]
  | .chkBitsLoRead _ => [.fld, .freeCtr, .readData]
  | .coreFrameStart _ | .coreOverrun _ => [.fld, .cores, .clus]
  | .interruptEntry _ => [.fld, .cores, .freeCtr]
  | .mbxCommandEnd _ => [.fld, .mgmt, .retries, .freeCtr]
  | .rootPllLock => [.fld, .ledger, .pwr, .vcore]
  | .bootReady _ => [.fld, .pins, .vcore, .freeCtr]
  | .syncDone _ => [.fld, .dirtyTab, .mem, .ecc]
  | .maskImmWrite _ _ _ => [.fld, .shadow, .dirtyReg, .audio]
  | .ampEnable _ _ | .carrierPeriod _ | .holdExpiry _ | .latchClr _ | .ocpComparator _ | .probeDone _ _ _
  | .probeReq _ | .probeStart _ =>
    [.fld, .amps, .boosts, .freeCtr]
  | .clipDataRead => [.fld, .oryx, .freeCtr, .readData]
  | .zfillDone _ => [.fld, .mem, .ecc, .delay]
  | .scrubPassEnd => [.fld, .ecc, .undef, .ledger]
  | .idleReceive _ _ | .loopTestReceive _ _ => [.fld, .ledger, .lanes, .dpll]
  | .streamStatRead => [.fld, .ring, .freeCtr, .readData]
  | .migCancel _ _ | .migStart _ _ => [.fld, .cores, .clus, .ledger]
  | .ts2Receive _ _ => [.fld, .ledger, .lanes, .dpll, .freeCtr]
  | .invalidHeader _ => [.fld, .lanes, .ring, .dpll, .freeCtr]
  | .serviceReceive _ _ _ => [.fld, .ledger, .lanes, .ring, .dpll]
  | .br _ _ | .brl _ _ _ | .brr _ _ | .csync _ | .fbar _ | .loop _ _ | .rep _ _ _
  | .reservedEncodingIssue _ | .reti _ | .swi _ =>
    [.fld, .undef, .cores, .clus, .ledger]
  | .stageInStart _ => [.fld, .mem, .ecc, .cores, .clus]
  | .vcoreMove _ => [.fld, .ledger, .pwr, .pins, .vcore, .freeCtr]
  | .clusterPassOverrun _ => [.fld, .mem, .marks, .cores, .clus, .fseq]
  | .backoffExpiry _ | .energyDetect _ | .laneEnable _ _ | .markerMissing _ | .markerReceive _ _ _
  | .retrain _ | .spurHuntTimeout _ | .testCtrlWrite _ _ | .ts1Receive _ _ =>
    [.fld, .ledger, .lanes, .ring, .dpll, .freeCtr]
  | .migFollowing _ => [.fld, .shadow, .staged, .dirtyTab, .dirtyReg, .cores]
  | .pcieReset _ => [.fld, .shadow, .staged, .pins, .dmas, .retries, .respErr]
  | .commitValidationDone => [.fld, .staged, .dirtyTab, .dirtyReg, .cores, .oryx, .commit]
  | .aadd _ _ _ | .aaddi _ _ _ | .abs _ _ _ | .add _ _ _ _ | .addi _ _ _ _ | .adds _ _ _ _ | .amov _ _ _
  | .amovhi _ _ _ | .amovi _ _ _ | .and _ _ _ _ | .cmp _ _ _ _ _ | .cmpi _ _ _ _ _ | .divq _ _ _ _ _
  | .divs _ _ _ _ | .ext _ _ _ _ | .extd _ _ _ _ | .ld _ _ _ _ _ | .lda _ _ _ _ | .mac _ _ | .max _ _ _ _
  | .mfsr _ _ _ | .min _ _ _ _ | .mov _ _ _ | .mova _ _ _ _ | .movhi _ _ _ | .movi _ _ _ | .msu _ _
  | .mtsr _ _ _ | .mtsri _ _ _ | .mul _ _ _ _ | .neg _ _ _ | .nop _ | .or _ _ _ _ | .pairedAccess _ _ _
  | .plog _ _ _ _ _ | .rda _ _ _ | .shli _ _ _ _ | .shri _ _ _ _ | .srai _ _ _ _ | .st _ _ _ _ _
  | .sta _ _ _ _ | .stageOutDone _ | .sub _ _ _ _ | .subs _ _ _ _ | .xor _ _ _ _ =>
    [.fld, .mem, .ecc, .undef, .cores, .clus, .ledger]
  | .stageOutStart _ => [.fld, .mem, .marks, .undef, .cores, .clus, .ledger]
  | .ledgerTimeout _ _ => [.fld, .cores, .clus, .ledger, .pwr, .lanes, .boosts, .vcore]
  | .alignDone | .nominalCycleStart | .setDone =>
    [.fld, .undef, .time, .fseq, .lanes, .ring, .dpll, .freeCtr]
  | .cellReceive _ _ _ | .spurCellReceive _ _ _ =>
    [.fld, .mem, .ecc, .undef, .ledger, .lanes, .ring, .dpll]
  | .qspiRead _ _ _ =>
    [.fld, .undef, .cores, .clus, .oryx, .ledger, .ring, .pins, .freeCtr, .readData, .respErr]
  | .passStart _ => [.fld, .mem, .marks, .ecc, .undef, .cores, .clus, .fseq, .oryx, .eqSecs, .delay]
  | .dmaDescriptorStart _ =>
    [.fld, .undef, .cores, .clus, .oryx, .ledger, .ring, .pins, .dmas, .freeCtr, .readData, .respErr]
  | .fsTick _ =>
    [.fld, .mem, .marks, .ecc, .undef, .time, .cores, .clus, .fseq, .oryx, .meters, .eqSecs, .delay,
    .ledger, .ring, .audio, .amps, .boosts, .freeCtr]
  | .commitApply =>
    [.fld, .staged, .dirtyTab, .dirtyReg, .mem, .marks, .ecc, .undef, .cores, .clus, .fseq, .oryx, .meters,
    .eqSecs, .delay, .ledger, .ring, .audio, .amps, .commit]
  | .softRst _ =>
    [.fld, .shadow, .staged, .mem, .ecc, .undef, .cores, .clus, .fseq, .oryx, .meters, .eqSecs, .delay,
    .ledger, .pwr, .lanes, .ring, .dpll, .audio, .amps, .boosts, .commit, .dmas, .retries, .vcore,
    .freeCtr, .respErr]
  | .domainWakeDone =>
    [.fld, .shadow, .staged, .dirtyTab, .dirtyReg, .mem, .marks, .ecc, .dom, .undef, .cores, .clus, .fseq,
    .oryx, .meters, .eqSecs, .delay, .ledger, .pwr, .lanes, .ring, .dpll, .audio, .startTrig, .amps,
    .boosts, .cal, .dmas, .vcore, .freeCtr]
  | .domainStopped | .pwrReqGo _ | .retSigDone =>
    [.fld, .shadow, .staged, .dirtyTab, .dirtyReg, .mem, .marks, .ecc, .dom, .undef, .cores, .clus, .fseq,
    .oryx, .meters, .eqSecs, .delay, .ledger, .pwr, .lanes, .ring, .dpll, .audio, .startTrig, .amps,
    .boosts, .cal, .dmas, .retries, .vcore, .freeCtr, .respErr]
  | .busRetry _ _ | .busTransaction _ _ _ _ _ _ _ _ | .devRst _ | .devRstRelease | .dmaDescriptorDone _ _ _
  | .dmaTimeout _ _ | .qspiWrite _ _ _ | .registerWrite _ | .resetNLow _ | .resetNRise | .tableWrite _ =>
    [.inReset, .fld, .shadow, .staged, .dirtyTab, .dirtyReg, .mem, .marks, .ecc, .dom, .undef, .time,
    .cores, .clus, .fseq, .oryx, .meters, .eqSecs, .delay, .ledger, .pwr, .lanes, .ring, .dpll, .audio,
    .startTrig, .amps, .boosts, .cal, .commit, .mgmt, .pins, .dmas, .retries, .vcore, .freeCtr, .readData,
    .respErr]

end Sys2Proof.Machine
end

