-- ==== Sys2Proof/Certificates/Slice0/Obligations.lean ====
section
/-! DEFINITION. The statements for the provers. Each docstring names the commands and the rules of the spec
that its statement speaks of; a clause that rests on a choice of the model names the log entry. -/

open Sys2Proof Sys2Proof.Machine

/-- A STEP RUNS THE COMMAND IN FRONT: with a command at the front of the queue, a step is that command's
effect with the queue's rest; on an empty queue the block idles, which lets one ROOT_CLK period of the link
cycle pass and changes nothing but the instant (the model's choice, log entry 2; that commands wait in a
queue is log entry 1). -/
def Obligations.StepRunsTheCommandInFront : Prop :=
  (∀ (c : Instr) (q : List Instr) (s : State), step { s with pending := c :: q } = exec c { s with pending := q }) ∧
  (∀ s : State, s.pending = [] → ∃ t, step s = .next t ∧ t.time = { s.time with phase := min (s.time.phase + 1) 32767 } ∧
    t.fld = s.fld ∧ Only [.time] s t)

/-- RESET: no command waits, every register has its reset value in both copies, every switched domain is
OFF, memories list nothing (a byte that nothing has written reads 0, log entry 4), no free value has been
drawn, no debug key is programmed (log entry 5), the instant is 0 before the first nominal start (log entry
74), and the invariant holds. -/
def Obligations.ResetState : Prop :=
  State.reset.pending = [] ∧
  (∀ (p : Nat) (f : Fld), State.reset.get p f = f.rst ∧ State.reset.getSh p f = f.rst) ∧
  (∀ a, State.reset.byte a = 0) ∧ (∀ d, 1 ≤ d → State.reset.domState d = .off) ∧ State.reset.domState 0 = .on ∧
  State.reset.ready = false ∧ State.reset.freeCtr = 0 ∧ State.reset.mgmt.key = none ∧ State.reset.time = ⟨0, 0, 0, 0, false⟩ ∧ State.reset.Inv

/-- No row of the command table gives bits, so no word spells a command, and placing a word changes nothing.
SLOT WORDS (R163, R165, R166, R173): the words of the worked example of the spec spell its four operations,
a word of zeros is a NOP in every slot, and a reserved word spells the issue of a reserved encoding; PRED is
bits 31 to 29 throughout. -/
def Obligations.NoWordSpellsACommand : Prop :=
  (∀ (s : State) (nbits w : Nat), decodeTableWord nbits w = none ∧ s.withFetchWord nbits w = s) ∧
  (slotInstr 0 0 0 0xA1108060 = .mac ⟨0, 0, 5, 0⟩ ⟨0, 33, 0, 0, true, true⟩ ∧
   slotInstr 0 0 1 0xA1309E60 = .mac ⟨0, 1, 5, 0⟩ ⟨1, 33, 15, 0, true, true⟩ ∧
   slotInstr 0 0 2 0x92204000 = .pairedAccess ⟨0, 2, 4, 0⟩ (some ⟨false, .w4, 0, 32, 1⟩) none ∧
   (∀ core adv slot : Nat, slot < 4 → slotInstr core adv slot 0 = .nop ⟨core, slot, 0, adv⟩) ∧
   (∀ core adv slot v : Nat, slotReserved slot v = true →
     slotInstr core adv slot v = .reservedEncodingIssue ⟨core, slot, BitVec.ofNat 3 (v / 2 ^ 29), adv⟩))

/-- EVERY STEP KEEPS THE INVARIANT: memory stays in its canonical form, the instant inside the link cycle,
and Q below 3 × 2^32 (R305). -/
def Obligations.EveryStepKeepsTheInvariant : Prop :=
  ∀ s t : State, s.Inv → step s = .next t → t.Inv

/-- EVERY STEP COMPLETES: from every state a step answers a next state, in which the commands that wait are
those that waited behind the first, in their order (that commands keep their order is the model's choice,
log entry 1). -/
def Obligations.EveryStepCompletesInOrder : Prop :=
  ∀ s : State, ∃ t, step s = .next t ∧ t.pending = s.pending.tail

/-- WHAT NO STEP UNDOES (R61, R64): the anti-rollback counter never falls and a programmed debug key stays
as it is, whatever command runs, a reset among them (that OTP outlives a reset is log entry 5); the counter
that numbers the free values drawn never falls (log entry 3). -/
def Obligations.OneTimeMemoryIsNeverUndone : Prop :=
  ∀ s t : State, step s = .next t → s.mgmt.rollback ≤ t.mgmt.rollback ∧
    (∀ k, s.mgmt.key = some k → t.mgmt.key = some k) ∧ s.freeCtr ≤ t.freeCtr

/-- THE FRAME OF EVERY COMMAND: a command changes no part of the state but those listed for it in `partsOf`;
the waiting commands among what it leaves. -/
def Obligations.CommandsChangeTheirPartsOnly : Prop :=
  ∀ (i : Instr) (s t : State), exec i s = .next t → Only (partsOf i) s t

/-- RESET_N_LOW, RESET_N_RISE, DEV_RST, DEV_RST_RELEASE: a low level under 1 µs changes nothing and one of 2
µs or more resets the whole device (R423); one between the two does one or the other (log entry 76); the key
of R435 resets the device as RESET_N does and any other value is an error; the device leaves reset when
neither holds it. What a reset leaves: every register at its reset value but KEY_SET and the GPIO input
levels, every domain OFF, no memory; flash, OTP key and OTP counter stay (log entry 5), and so does the
queue (log entry 1). -/
def Obligations.ResetTakesTheWholeDevice : Prop :=
  (∀ (s : State) (ns : Nat), ns < 1000 → exec (.resetNLow ns) s = .next s) ∧
  (∀ (s : State) (ns : Nat), 2000 ≤ ns → ∃ t, exec (.resetNLow ns) s = .next t ∧
    t.inReset = true ∧ t.pins.rstLow = true ∧ AfterReset s t) ∧
  (∀ (s : State) (ns : Nat), 1000 ≤ ns → ns < 2000 → ∃ t, exec (.resetNLow ns) s = .next t ∧
    ((t.inReset = true ∧ AfterReset s t) ∨ Only [.freeCtr] s t)) ∧
  (∀ s : State, s.inReset = true → s.pins.rstDev = false → ∃ t, exec .resetNRise s = .next t ∧
    t.inReset = false ∧ t.pins.rstLow = false ∧ AfterReset s t) ∧
  (∀ (s : State) (key : Word), s.Takes Page.dev → key = 0xA5C3 → ∃ t, exec (.devRst key) s = .next t ∧
    t.inReset = true ∧ t.pins.rstDev = true ∧ AfterReset s t) ∧
  (∀ (s : State) (key : Word), s.Takes Page.dev → key ≠ 0xA5C3 → ∃ t, exec (.devRst key) s = .next t ∧
    Logged Page.dev Code.range s t) ∧
  (∀ s : State, s.pins.rstDev = true → s.pins.rstLow = false → ∃ t, exec .devRstRelease s = .next t ∧
    t.inReset = false ∧ AfterReset s t) ∧
  (∀ s : State, s.pins.rstDev = true → s.pins.rstLow = true → ∃ t, exec .devRstRelease s = .next t ∧
    t.inReset = s.inReset ∧ t.pins.rstDev = false ∧ Only [.pins] s t)

/-- ROOT_PLL_LOCK, ROOT_UNLOCK, XO_LOSS (R17, R18): the lock shows in CLK_STAT, and a power request that
waits for it asks the ledger or goes on with its rollback; the loss of lock or of the oscillator raises its
interrupt and leaves every domain that is ON undefined (R8; that these are the domains marked is log entry
22). BOOT_READY (R55, R61): the preferred slot is verified first; the controller runs from it if it is
valid, else from the other if that is valid, with VDD_CORE at its initial setpoint, and enters RECOVERY with
READY clear if neither is. An image older than the anti-rollback counter is not valid, and neither is an
erased slot. -/
def Obligations.RootClockAndBoot : Prop :=
  ((∀ s : State, s.inReset = false → s.pwr.phase ≠ .waitRoot → s.pwr.phase ≠ .rollRoot →
     ∃ t, exec .rootPllLock s = .next t ∧
     t.get Page.clk CLK.CLK_STAT.ROOT_LOCK = 1 ∧ t.get Page.clk CLK.CLK_STAT.XO_ACTIVE = 1 ∧
     OnlyRegs [(Page.clk, 0x44)] s t ∧ Only [.fld] s t) ∧
   (∀ (s : State) (d : Nat) (rest : List Nat), s.inReset = false → s.pwr.phase = .waitRoot →
     s.pwr.todo = d :: rest → ∃ t, exec .rootPllLock s = .next t ∧
     t.get Page.clk CLK.CLK_STAT.ROOT_LOCK = 1 ∧ t.pwr.phase = .waitGrant ∧ t.pwr.todo = d :: rest ∧
     ⟨(wakeKind d).1, (wakeKind d).2⟩ ∈ t.ledger.fresh ∧ t.dom = s.dom) ∧
   (∀ (s : State) (d : Nat) (rest : List Nat), s.inReset = false → s.pwr.phase = .rollRoot →
     s.pwr.todo = d :: rest → ∃ t, exec .rootPllLock s = .next t ∧
     t.get Page.clk CLK.CLK_STAT.ROOT_LOCK = 1 ∧ t.pwr.phase = .rolling ∧ t.pwr.todo = d :: rest ∧ t.dom = s.dom) ∧
   (∀ s : State, s.inReset = false → s.flag Page.clk CLK.CLK_STAT.ROOT_LOCK = true →
     ∃ t, exec .rootUnlock s = .next t ∧ t.get Page.clk CLK.CLK_STAT.ROOT_LOCK = 0 ∧ Raised Page.clk 0 s t ∧
     (∀ d, Tab.get false t.undef d = (Tab.get false s.undef d || (decide (1 ≤ d ∧ d ≤ 9) && s.domOn d))) ∧
     OnlyRegs [(Page.clk, 0x44), (Page.clk, 0x10)] s t ∧ Only [.fld, .undef] s t) ∧
   (∀ s : State, s.inReset = false →
     ∃ t, exec .xoLoss s = .next t ∧ t.get Page.clk CLK.CLK_STAT.XO_ACTIVE = 0 ∧ Raised Page.clk 1 s t ∧
     (∀ d, Tab.get false t.undef d = (Tab.get false s.undef d || (decide (1 ≤ d ∧ d ≤ 9) && s.domOn d))) ∧
     OnlyRegs [(Page.clk, 0x44), (Page.clk, 0x10)] s t ∧ Only [.fld, .undef] s t)) ∧
  ((∀ (s : State) (mv : Nat), s.inReset = false → s.bootMode = 0 →
     let p := s.mgmt.prefB
     (s.imageValid p = true → ∃ t, exec (.bootReady mv) s = .next t ∧
       t.flag Page.mgmt MGMT.BOOT_STAT.RUN_SLOT = p ∧ t.get Page.mgmt MGMT.BOOT_STAT.MODE = 1 ∧
       t.get Page.busm BUSM.VCORE_SET.MV = Nat.min 850 (Nat.max 650 mv) / 5 * 5 ∧
       t.ready = true ∧ Only [.fld, .freeCtr, .vcore, .pins] s t) ∧
     (s.imageValid p = false → s.imageValid (!p) = true → ∃ t, exec (.bootReady mv) s = .next t ∧
       t.flag Page.mgmt MGMT.BOOT_STAT.RUN_SLOT = (!p) ∧ t.get Page.mgmt MGMT.BOOT_STAT.MODE = 1 ∧
       t.ready = true ∧ Only [.fld, .freeCtr, .vcore, .pins] s t) ∧
     (s.imageValid p = false → s.imageValid (!p) = false → ∃ t, exec (.bootReady mv) s = .next t ∧
       t.get Page.mgmt MGMT.BOOT_STAT.MODE = 2 ∧ t.ready = s.ready ∧
       t.get Page.busm BUSM.VCORE_SET.MV = s.get Page.busm BUSM.VCORE_SET.MV ∧ Only [.fld] s t)) ∧
   (∀ (s : State) (b : Bool), Config.securityVersion (s.imageHeader b) < s.mgmt.rollback → s.imageValid b = false) ∧
   (∀ (s : State) (mv : Nat), s.inReset = false → s.bootMode = 0 → s.mgmt.flash = [] →
     ∃ t, exec (.bootReady mv) s = .next t ∧ t.get Page.mgmt MGMT.BOOT_STAT.MODE = 2 ∧ t.ready = s.ready))

/-- FS_SEL_WRITE, FS_CHANGE_APPLY, MCLK_SEL_APPLY (R22, R23): a change of the rate is accepted while DSP0 to
DSP3, MIX, PORT and AMP show OFF in DOM_STATE, shows in FS_SEL alone, and reaches FS_ACTIVE when it is
applied; the clock outputs take their selections when these are applied. FRAME_CFG_WRITE (R75, R82 and the
register's table): the frame size is written while RUN is 0, and the positions that a frame of the new size
does not use read as 0; a write of another size while RUN is 1 is REFUSED, and a reserved size is RANGE
(that it is RANGE alone while RUN is 1: log entry 87). CLIP_DATA_READ (R182): the read returns the clip
counter of the signal in CLIP_SEL and clears it alone (while MIX's state is not undefined, R8); while MIX is
not ON it returns 0 and logs DOMAIN_OFF. -/
def Obligations.RateClockAndFrameSettings : Prop :=
  ((∀ (s : State) (v : Word), s.Takes Page.clk → bits v.toNat 0 2 = 3 →
     ∃ t, exec (.fsSelWrite v) s = .next t ∧ Logged Page.clk Code.range s t) ∧
   (∀ (s : State) (v : Word), s.Takes Page.clk → bits v.toNat 0 2 ≠ 3 →
     bits v.toNat 0 2 ≠ s.get Page.clk CLK.CLK_CTRL.FS_SEL → (∃ d ∈ [1, 2, 3, 4, 5, 8, 9], s.domCode d ≠ 0) →
     ∃ t, exec (.fsSelWrite v) s = .next t ∧ Logged Page.clk Code.refused s t) ∧
   (∀ (s : State) (v : Word), s.Takes Page.clk → bits v.toNat 0 2 ≠ 3 →
     (∀ d ∈ [1, 2, 3, 4, 5, 8, 9], s.domCode d = 0) →
     ∃ t, exec (.fsSelWrite v) s = .next t ∧ t.get Page.clk CLK.CLK_CTRL.FS_SEL = bits v.toNat 0 2 ∧
       OnlyRegs [(Page.clk, 0x40)] s t ∧ Only [.fld] s t) ∧
   (∀ s : State, s.inReset = false → ∃ t, exec .fsChangeApply s = .next t ∧
     t.get Page.clk CLK.CLK_STAT.FS_ACTIVE = s.get Page.clk CLK.CLK_CTRL.FS_SEL % 4 ∧
     t.get Page.clk CLK.CLK_STAT.ROOT_LOCK = s.get Page.clk CLK.CLK_STAT.ROOT_LOCK ∧
     OnlyRegs [(Page.clk, 0x44)] s t ∧ Only [.fld] s t) ∧
   (∀ s : State, s.inReset = false → (∀ i, i < 8 → s.get Page.clk (CLK.MCLK_CTRL.MCLK_SEL i) < 4) →
     (∀ i, i < 2 → s.get Page.clk (CLK.WCLK_CTRL.WCLK_SEL i) < 4) → ∃ t, exec .mclkSelApply s = .next t ∧
     (∀ i, i < 8 → t.pins.mclk / 4 ^ i % 4 = s.get Page.clk (CLK.MCLK_CTRL.MCLK_SEL i)) ∧
     (∀ i, i < 2 → t.pins.wclk / 4 ^ i % 4 = s.get Page.clk (CLK.WCLK_CTRL.WCLK_SEL i)) ∧
     t.pins.messages = s.pins.messages ∧ Only [.pins] s t)) ∧
  ((∀ (s : State) (v : Word), s.Takes Page.frame → 6 ≤ bits v.toNat 0 3 →
     ∃ t, exec (.frameCfgWrite v) s = .next t ∧ Logged Page.frame Code.range s t) ∧
   (∀ (s : State) (v : Word), s.Takes Page.frame → bits v.toNat 0 3 < 6 → s.run = true →
     ∃ t, exec (.frameCfgWrite v) s = .next t ∧ Logged Page.frame Code.refused s t) ∧
   (∀ (s : State) (v : Word), s.Takes Page.frame → bits v.toNat 0 3 < 6 → s.run = false →
     ∃ t, exec (.frameCfgWrite v) s = .next t ∧
       t.get Page.frame FRAME.FRAME_CFG.N_LOG2 = bits v.toNat 0 3 ∧ OnlyRegs [(Page.frame, 0x40)] s t ∧
       (∀ k, Tab.get false t.marks k = (Tab.get false s.marks k && decide (k % 32 < 2 ^ bits v.toNat 0 3))) ∧
       Only [.fld, .marks] s t) ∧
   (∀ s : State, s.inReset = false → s.pageOn Page.oryx = true → Tab.get false s.undef 5 = false →
     ∃ t, exec .clipDataRead s = .next t ∧
     t.readData = [Word.ofNat (Tab.get 0 s.oryx.clips (s.get Page.oryx ORYX.CLIP_SEL.DST))] ∧
     Tab.get 0 t.oryx.clips (s.get Page.oryx ORYX.CLIP_SEL.DST) = 0 ∧
     (∀ i, i ≠ s.get Page.oryx ORYX.CLIP_SEL.DST → Tab.get 0 t.oryx.clips i = Tab.get 0 s.oryx.clips i) ∧
     t.oryx.gains = s.oryx.gains ∧ t.oryx.fades = s.oryx.fades ∧ Only [.oryx, .readData] s t) ∧
   (∀ s : State, s.inReset = false → s.pageOn Page.oryx = false → ∃ t, exec .clipDataRead s = .next t ∧
     t.readData = [0] ∧ t.oryx = s.oryx ∧ t.get Page.oryx HDR.ERR_LAST.CODE = Code.domainOff))

/-- NOMINAL_CYCLE_START, SET_DONE, ALIGN_DONE (R305, R333, R334): a nominal start opens a link cycle at
phase 0 with no Fs tick counted and the accepted rate in effect; C and Q are 0 at the first start after
ROOT_LOCK and then advance by 1 and 31,250, unless a SET or an ALIGN loads them. FS_TICK (R19, R20, R76,
R85): the tick that comes next in the link cycle has the sample index of R20; it is counted, the time stays,
what was latched at the last tick leaves, and one tick after a frame boundary a processing window opens if
RUN has been 1 for a frame. While MIX is not ON no window is open. A command with no tick to come in this
cycle changes nothing. FS_TICK and NOMINAL_CYCLE_START for samples and markers (R74, R78, R79, R80, R90,
R91, R93, R195, R196, R286, R295 to R297, R324, R325): at a tick with MIX on, the samples that entered one
tick before are written, an ingress signal without one reads 0, the fast slice sums its entries on them and
its results are ingress samples and go out, every other emitter reads the frame path 2N + 1 samples back
while RUN has been 1 that long, the meters take that sample, the test generators and what was presented
enter, and injection forms its cells. At a nominal start a lane that sends blocks sends a marker of the new
cycle number with its own time, or the followed one's, and an extracted stream presents the copy chosen by
R296 of its offset's origin, or counts an underrun. -/
def Obligations.StartsAndTicksAdvanceTime : Prop :=
  ((∀ s : State, s.inReset = false → (s.time.starts ≠ 0 ∨ s.flag Page.clk CLK.CLK_STAT.ROOT_LOCK = true) →
     ∃ t, exec .nominalCycleStart s = .next t ∧ t.time.phase = 0 ∧ t.time.starts = s.time.starts + 1 ∧
       t.fseq.ticksDone = 0 ∧ t.get Page.clk CLK.CLK_STAT.FS_ACTIVE = s.get Page.clk CLK.CLK_CTRL.FS_SEL % 4 ∧
       (s.flag Page.ntime NTIME.NT_STAT.SET_PEND = false → s.flag Page.ntime NTIME.NT_STAT.ALIGN_PEND = false →
         (s.time.starts = 0 → t.time.c = 0 ∧ t.time.q = 0) ∧
         (s.time.starts ≠ 0 → t.time.c = s.time.c + 1 ∧ t.time.q = (s.time.q + 31250) % (3 * 2 ^ 32)))) ∧
   (∀ s : State, s.time.starts = 0 → s.flag Page.clk CLK.CLK_STAT.ROOT_LOCK = false →
     exec .nominalCycleStart s = .next s) ∧
   (∀ s : State, s.inReset = false → s.flag Page.ntime NTIME.NT_STAT.SET_PEND = true → s.time.starts ≠ 0 →
     ∃ t, exec .setDone s = .next t ∧
       t.time.c = BitVec.ofNat 32 (s.get Page.ntime NTIME.CYC_SET_VAL.CYCLE) ∧
       t.time.q = 3 * s.get Page.ntime NTIME.NT_SET_VAL.NT % (3 * 2 ^ 32) ∧ t.time.phase = 0 ∧
       t.get Page.ntime NTIME.NT_STAT.SET_PEND = 0 ∧
       t.get Page.ntime NTIME.NT_STAT.STEP_SEQ = (s.get Page.ntime NTIME.NT_STAT.STEP_SEQ + 1) % 4) ∧
   (∀ (s : State) (v : Int × Int) (x : Nat × RxMarker), s.inReset = false → s.dpll.align = some x →
     s.flag Page.ntime NTIME.NT_STAT.ALIGN_PEND = true → s.flag Page.ntime NTIME.NT_STAT.SET_PEND = false →
     State.alignValues { s with time :=
       ⟨s.time.nextCQ.1, s.time.nextCQ.2, 0, s.time.starts + 1, s.time.bit31⟩ } = some v →
     ∃ t, exec .alignDone s = .next t ∧ t.time.c = BitVec.ofInt 32 v.1 ∧
       t.time.q = (v.2 % (3 * 2 ^ 32)).toNat ∧ t.time.phase = 0 ∧
       t.get Page.ntime NTIME.NT_STAT.ALIGN_PEND = 0 ∧ t.dpll.align = none)) ∧
  ((∀ (s : State) (sense : List SensePair) (i : BitVec 32), s.inReset = false → s.nextTick = some i →
     ∃ t, exec (.fsTick sense) s = .next t ∧ t.fseq.tick = i ∧ t.fseq.ticksDone = s.fseq.ticksDone + 1 ∧
       t.fseq.runAge = s.fseq.runAge + 1 ∧ t.fseq.fresh = false ∧ t.fseq.held = false ∧
       t.fseq.sending = s.fseq.latch ∧ t.time.c = s.time.c ∧ t.time.q = s.time.q ∧
       (s.domOn 5 = false → t.fseq.winOn = false) ∧
       (s.domOn 5 = true → (i - 1).toNat % s.fsize ≠ 0 → t.fseq.winOn = s.fseq.winOn) ∧
       (s.domOn 5 = true → (i - 1).toNat % s.fsize = 0 → t.fseq.winOn = (s.run && decide (s.fsize + 1 ≤ s.fseq.runAge)) ∧
         (t.fseq.winOn = true → t.fseq.passDone = []))) ∧
   (∀ (s : State) (sense : List SensePair), s.nextTick = none → exec (.fsTick sense) s = .next s) ∧
   (∀ s : State, s.time.starts ≠ 0 → s.fseq.ticksDone = 0 →
     (s.fs = 1 → s.nextTick = some s.time.c) ∧
     (s.fs = 0 → s.time.c.getLsbD 0 = false → s.nextTick = some (s.time.c / 2)) ∧
     (s.fs = 0 → s.time.c.getLsbD 0 = true → s.nextTick = none) ∧
     (s.fs = 2 → s.nextTick = some (s.time.c * 2))) ∧
   (∀ s : State, s.time.starts ≠ 0 → s.fseq.ticksDone = 1 →
     (s.fs = 2 → s.nextTick = some (s.time.c * 2 + 1)) ∧ (s.fs < 2 → s.nextTick = none))) ∧
  (let back := fun (s : State) (i : BitVec 32) => i - BitVec.ofNat 32 (2 * s.fsize + 1)
   let path := fun (s : State) (i : BitVec 32) (sig : Nat) =>
     if s.run && decide (2 * s.fsize + 1 ≤ s.fseq.runAge) then s.planeAt (back s i) sig else 0
   let ticks := fun (s : State) (i : BitVec 32) => s.inReset = false ∧ s.nextTick = some i ∧ s.domOn 5 = true ∧
     s.fseq.old = [] ∧ s.fsize ≤ 32 ∧ (s.fseq.entered.map (·.1)).Nodup ∧ s.fseq.held = false
   (∀ (s : State) (sense : List SensePair) (i : BitVec 32), ticks s i →
     let now := fun (t : State) (sig : Nat) =>
       t.planeRead ((i - 1).toNat / s.fsize % 2) sig ((i - 1).toNat % s.fsize)
     let landed := s.portsLanding.map (·.1)
     ∃ t, exec (.fsTick sense) s = .next t ∧
       (∀ e ∈ s.fseq.entered, ∀ v ∈ e.2, e.1 < 16384 → e.1 ∉ landed → e.1 ∉ s.fastDsts → now t e.1 = v) ∧
       (∀ e ∈ s.portsLanding, landed.Nodup → e.1 < 16384 → e.1 ∉ s.fastDsts → now t e.1 = e.2) ∧
       (∀ sig ∈ s.ingressSigs, sig ∉ s.fseq.entered.map (·.1) → sig ∉ landed → sig ∉ s.fastDsts → now t sig = 0) ∧
       (∀ sig ∈ s.emitSigs, Tab.get 0 t.fseq.latch sig =
         if sig ∈ s.fastDsts then now t sig else path s i sig) ∧
       (∀ g : Nat, g < 16 → ∀ v ∈ s.testGen g i,
         let sig := s.get Page.frame (FRAME.TG_CTRL.SIGNAL g)
         (∀ h : Nat, g < h → h < 16 → s.get Page.frame (FRAME.TG_CTRL.SIGNAL h) ≠ sig) →
         sig ∉ (s.senseSignals sense).map (·.1) → Tab.get none t.fseq.entered sig = some v) ∧
       (∀ sig ∈ s.fseq.presented.map (·.1), (s.fs = 2 → s.fseq.ticksDone = 0) →
         sig ∉ (s.senseSignals sense).map (·.1) →
         (∀ h : Nat, h < 16 → s.get Page.frame (FRAME.TG_CTRL.SIGNAL h) ≠ sig) →
         Tab.get none t.fseq.entered sig = Tab.get none s.fseq.presented sig) ∧
       t.fseq.presented = [] ∧
       (∀ c : Nat, c < 1024 → s.enabled Page.meter = true → (s.meterCfg c).2 ≠ 0 →
         let p := (s.meterCfg c).2
         t.meter c = (meterStep (s.meter c) (s.planeAt (back s i) (s.meterCfg c).1)
           (s.get Page.meter (METER.PROF_CFG.HOLD p)) (s.get Page.meter (METER.PROF_REL.REL p))
           (s.get Page.meter (METER.PROF_CFG.TC_LOG2 p))).1 ∧
         ((back s i).toNat % s.fsize = s.fsize - 1 → t.readLE (0x10440000 + 16 * c) 4 = (t.meter c).peak % 2 ^ 32 ∧
           t.readLE (0x10440000 + 16 * c + 8) 4 = (t.meter c).clips.toNat ∧
           t.readLE (0x10440000 + 16 * c + 12) 4 = (back s i).toNat)) ∧
       (s.domOn 7 = true → s.fastDsts = [] → t.ring.formed = (s.ring.formed ++ s.injStreams.map (s.formCell
           (fun sig => (path s i sig, s.run && decide (2 * s.fsize + 1 ≤ s.fseq.runAge) && Tab.get false s.marks
             (markKey ((back s i).toNat / s.fsize % 2) sig ((back s i).toNat % s.fsize)))) (i + 1).toNat)).filter
         (fun e => sendCycle s.fs e.2.stream.toNat e.1 != s.cycle))) ∧
   (∀ (s : State) (sense : List SensePair) (i : BitVec 32), ticks s i →
     let now := fun (t : State) (sig : Nat) =>
       t.planeRead ((i - 1).toNat / s.fsize % 2) sig ((i - 1).toNat % s.fsize)
     let keys := fun (d : Nat) => ((s.xpts.filter (fun e => e.fast && e.dst == d)).map Xpt.key) ++ s.fadesOf true d
     (s.fastDsts.flatMap keys).Nodup → (∀ d ∈ s.fastDsts, ∀ x ∈ keys d, keySrc x ∉ s.fastDsts) →
     ∃ t, exec (.fsTick sense) s = .next t ∧ ∀ d ∈ s.fastDsts, now t d = Word.ofInt (extractAcc 32 false
       ((keys d).foldl (fun (a : AccVal) (x : Nat) =>
         (accAdd a ((now t (keySrc x)).toInt * (s.ramp x).next.value * 8)).1) (accInit 0)) 31).1) ∧
   (∀ (s : State) (l : Nat), s.inReset = false → s.domOn 7 = true → l < 12 → s.sendsBlocks l = true →
     (s.time.starts ≠ 0 ∨ s.flag Page.clk CLK.CLK_STAT.ROOT_LOCK = true) →
     s.flag Page.ntime NTIME.NT_STAT.SET_PEND = false → s.flag Page.ntime NTIME.NT_STAT.ALIGN_PEND = false →
     ∃ t, exec .nominalCycleStart s = .next t ∧ (t.lane l).txMark.isSome = true ∧
       (t.lane l).exch.isSome = t.laneUp l ∧ ∀ m ∈ (t.lane l).txMark,
         m.cyc = t.cycle ∧ m.sd = (t.lane l).sd ∧ m.dep = t.lineBits (m.sd * t.laneRate l) ∧ m.src = t.nodeId ∧
         (t.lane l).deps.head? = some (m.cyc, m.dep) ∧
         (t.followed = none → m.mnt = t.time.q / 3 % 2 ^ 32 ∧ m.master = t.ownMaster ∧ m.ql = t.ownQl ∧
           m.corr = int48 (roundDiv ((t.time.q % 3 * 65536 : Nat) : Int) 3 +
             roundDiv ((m.sd * t.laneRate l : Nat) * 15625) 6) ∧ m.flags % 256 = 0) ∧
         (∀ p ∈ t.followed, ∀ r ∈ t.usableMark (t.timeLane p) m.dep, m.mnt = r.mnt ∧ m.master = r.master ∧
           m.ql = r.ql ∧ m.flags % 256 = Nat.min 255 (r.flags % 256 + 1) ∧
           ∀ d ∈ t.dRx (t.timeLane p), m.corr = int48 (r.corr + d + roundDiv ((m.dep - r.arr : Nat) * 15625) 6))) ∧
   (∀ (s : State) (id : Nat), s.inReset = false → s.domOn 7 = true → s.domOn 5 = true → s.ecc = [] → s.domOn 6 = true →
     (s.time.starts ≠ 0 ∨ s.flag Page.clk CLK.CLK_STAT.ROOT_LOCK = true) → s.commitPending = false →
     s.flag Page.ntime NTIME.NT_STAT.SET_PEND = false → s.flag Page.ntime NTIME.NT_STAT.ALIGN_PEND = false →
     s.get Page.clk CLK.CLK_CTRL.FS_SEL = s.fs → (s.fs = 0 → s.time.starts ≠ 0 → s.time.c.getLsbD 0 = true) →
     id ∈ s.streams → s.extracts (s.streamEnt id) = true → Tab.get none s.ring.restart id = none →
     ∃ t, exec .nominalCycleStart s = .next t ∧
       let e := s.streamEnt id
       let j := sampleIndex s.fs 0 ((t.cycle + 2 ^ 32 - e.offset) % 2 ^ 32)
       let x := chooseCopy e (s.bufEntry id j) (s.bufEntry e.partner j)
       let smp := match x with
         | some y => y.1
         | none => if e.ufill then Tab.get [] s.ring.last id else List.replicate 7 0
       (x = none → (t.stat id).underrun = Nat.min ((s.stat id).underrun + 1) 255) ∧
       (x ≠ none → (t.stat id).underrun = (s.stat id).underrun) ∧
       (∀ y ∈ x, (t.stat id).fallback = if y.2 then Nat.min ((s.stat id).fallback + 1) 255 else (s.stat id).fallback) ∧
       ∀ c ∈ s.extChans, c.stream = id → (∀ d ∈ s.extChans, d.signal = c.signal → d = c) →
         Tab.get none t.fseq.presented c.signal = some (smp.getD c.slot 0)))

/-- PASS_START, CLUSTER_PASS_OVERRUN (R49, R85, R88, R146, R192): in an open window a pass of the list that
governs the window starts once; a cluster pass makes its cluster wait for its cores; a cluster pass that is
overrun is counted, raises OVERRUN on the FRAME and the CLUS page, leaves its cluster idle, and its declared
outputs read as 0 in the frame of the window. What a window begun before a boundary runs under is log entry
100. PASS_START of an engine pass in a window that no older configuration governs (R180, R181, R188, R203,
R209, R215, R220): an Oryx pass writes, for each destination and position, the extracted sum of its entries
and then its fading ones, each source times its ramp one sample further; an EQ pass runs each chain's
sections in order, each on its own history, with its transition blended in; a delay pass writes its line
first and each tap outputs the sample of its delay, crossfaded from the old delay where a crossfade runs.
Nothing else of the Signal Plane changes. -/
def Obligations.PassesStartOnceAndOverrun : Prop :=
  ((∀ (s : State) (q : Nat), s.inReset = false → s.domOn 5 = true → s.fseq.winOn = true →
     q ∈ s.windowView.passList → Tab.get false s.fseq.passDone q = false → ∃ t, exec (.passStart q) s = .next t ∧
       Tab.get false t.fseq.passDone q = true ∧
       (∀ i, i ≠ q → Tab.get false t.fseq.passDone i = Tab.get false s.fseq.passDone i) ∧
       (s.windowView.passPresent q = true → s.windowView.passType q = 4 →
         (t.cl (s.windowView.passClus q)).phase = .waiting ∧ (t.cl (s.windowView.passClus q)).pass = q ∧
         (s.fseq.oldTabs = [] → t.mem = s.mem))) ∧
   (∀ (s : State) (q : Nat), Tab.get false s.fseq.passDone q = true → ∃ t, exec (.passStart q) s = .next t ∧
     (s.fseq.oldTabs = [] → t.mem = s.mem) ∧ Only [.fld, .mem] s t ∧ (s.fseq.old = [] → t = s)) ∧
   (∀ (s : State) (q : Nat), s.inReset = false → s.domOn 5 = true → q ∈ s.windowView.passList →
     s.windowView.passType q = 4 → Tab.get false s.fseq.passDone q = true →
     (s.cl (s.windowView.passClus q)).phase ≠ .idle →
     let c := s.windowView.passClus q
     (∀ e ∈ s.fseq.old, e.key ∉ [fkey Page.frame FRAME.OVERRUN_COUNT.COUNT, fkey Page.frame HDR.IRQ_RAW.RAW,
       fkey (Page.clus c) HDR.IRQ_RAW.RAW]) →
     ∃ t, exec (.clusterPassOverrun q) s = .next t ∧ (t.cl c).phase = .idle ∧
       t.get Page.frame FRAME.OVERRUN_COUNT.COUNT =
         Nat.min (s.get Page.frame FRAME.OVERRUN_COUNT.COUNT + 1) 65535 ∧
       Raised Page.frame 0 s t ∧ Raised (Page.clus c) 3 s t ∧
       (∀ n k, s.fseq.old = [] → n / 8 = c → n < 32 → s.get (Page.ibex n) IBEX.CORE_CTRL.ENABLE = 1 →
         ∀ e ∈ ioEntries (s.get (Page.ibex n)) true, ∀ sig ∈ e.sigs, sig < 16384 → k < 32 →
           Tab.get false t.marks (markKey (s.fseq.winFrame % 2) sig k) = false) ∧
       (s.fseq.oldTabs = [] → t.mem = s.mem) ∧ Only [.fld, .mem, .marks, .cores, .clus, .fseq] s t)) ∧
  (let runs := fun (s : State) (q ty : Nat) => s.inReset = false ∧ s.domOn 5 = true ∧ s.fseq.winOn = true ∧
     s.fseq.old = [] ∧ q ∈ s.passList ∧ Tab.get false s.fseq.passDone q = false ∧ s.passPresent q = true ∧
     s.passType q = ty ∧ s.fsize ≤ 32
   let input := fun (s : State) (q sig k : Nat) => s.planeRead (s.passBuffer q s.fseq.winFrame sig) sig k
   let others := fun (s t : State) (dsts : List Nat) => ∀ b sig k : Nat, b < 2 → sig < 16384 → k < 32 →
     (b = s.fseq.winFrame % 2 → sig ∉ dsts) → t.planeRead b sig k = s.planeRead b sig k
   (∀ (s : State) (q : Nat), runs s q 1 →
     let keys := fun (d : Nat) => ((s.passXpts q).filter (fun e => e.dst == d)).map Xpt.key ++
       (if s.fadePass d == some q then s.fadesOf false d else [])
     let after := fun (r : Ramp) (n : Nat) => (List.range n).foldl (fun (r : Ramp) _ => r.next) r
     ((s.oryxDsts q).flatMap keys).Nodup →
     ∃ t, exec (.passStart q) s = .next t ∧ others s t (s.oryxDsts q) ∧ ∀ d ∈ s.oryxDsts q,
       (∀ k : Nat, k < s.fsize → t.planeRead (s.fseq.winFrame % 2) d k = Word.ofInt (extractAcc 32 false
         ((keys d).foldl (fun (a : AccVal) (x : Nat) =>
           (accAdd a ((input s q (keySrc x) k).toInt * (after (s.ramp x) (k + 1)).value * 8)).1) (accInit 0)) 31).1) ∧
       ∀ x ∈ keys d, Tab.get none s.oryx.fades x = none → t.ramp x = after (s.ramp x) s.fsize) ∧
   (∀ (s : State) (q : Nat), runs s q 2 → s.get Page.eq EQ.EQ_LEN.LEN ≤ 16384 →
     (∀ e ∈ s.eqSecs, e.2.extra = false) → ((s.passChains q).map (fun c => c.2.dst)).Nodup →
     ∃ t, exec (.passStart q) s = .next t ∧ others s t ((s.passChains q).map (fun c => c.2.dst)) ∧
       ∀ c ∈ s.passChains q,
         let step := fun (l : List (EqEntry × Bool × EqSec)) (x : Word) =>
           l.foldl (fun (p : Int × List (EqEntry × Bool × EqSec)) (e : EqEntry × Bool × EqSec) =>
             let o := eqPosition e.2.2 e.1.c (e.1.keep && e.2.1) p.1
             (o.1, p.2 ++ [(e.1, e.2.1, o.2.1)])) (x.toInt * 2 ^ 31, [])
         let at_ := fun (n : Nat) => (List.range n).foldl (fun (l : List (EqEntry × Bool × EqSec)) (k : Nat) =>
             (step l (input s q c.2.src k)).2)
           ((List.range c.2.len).map (fun k => (s.eqEntry (c.2.start + k), k + 1 != c.2.len, s.eqSec c.1 k)))
         (∀ k : Nat, k < s.fsize → t.planeRead (s.fseq.winFrame % 2) c.2.dst k =
           Word.ofInt ((step (at_ k) (input s q c.2.src k)).1 / 2 ^ 31)) ∧
         (at_ s.fsize).map (fun e => e.2.2) = (List.range c.2.len).map (fun k => t.eqSec c.1 k)) ∧
   (∀ (e : EqSec) (c : Coef) (keep : Bool) (u : Int), e.tr = none → eqPosition e c keep u =
     ((section1 c e.h u keep).1, ⟨(section1 c e.h u keep).2.1, none, e.extra⟩, (section1 c e.h u keep).2.2)) ∧
   (∀ (e : EqSec) (x : EqTrans) (c : Coef) (keep : Bool) (u : Int), e.tr = some x →
     let o := section1 x.old x.h u keep
     let n := section1 c e.h u keep
     let w := fadeWeight x.b (x.k + 1)
     let r := eqPosition e c keep u
     r.1 = (if keep then roundShift false (o.1 * (2 ^ 28 - w) + n.1 * w) 28
       else roundShift false (o.1 / 2 ^ 31 * (2 ^ 28 - w) + n.1 / 2 ^ 31 * w) 28 * 2 ^ 31) ∧
     r.2.1 = ⟨n.2.1, if x.k + 1 < 2 ^ x.b then some ⟨x.old, o.2.1, x.k + 1, x.b⟩ else none, e.extra⟩ ∧
     r.2.2 = o.2.2 ++ n.2.2) ∧
   (∀ (s : State) (q : Nat) (l : Line), runs s q 3 → (∀ x ∈ s.passTaps q, x.line = l) →
     ((s.passTaps q).map (fun x => x.e.dst)).Nodup → s.gathered l.base = none → s.ecc = [] →
     (∀ b, b < 8 → s.bankLost b = false) → l.base + 4 * l.len ≤ 0x04000000 → s.fsize ≤ l.len →
     s.fseq.winFrame * s.fsize + s.fsize ≤ 2 ^ 32 →
     let first := s.fseq.winFrame * s.fsize
     let rd := fun (d k : Nat) => if d ≤ k then input s q l.src (k - d)
       else s.lineRead l (BitVec.ofNat 32 (first + k - d))
     let fits := fun (d : Nat) => d ≤ first ∧ d + s.fsize ≤ l.len
     ∃ t, exec (.passStart q) s = .next t ∧ others s t ((s.passTaps q).map (fun x => x.e.dst)) ∧
       ∀ x ∈ s.passTaps q, fits (s.tap x.idx).cur →
         ((s.tap x.idx).fade = none → ∀ k : Nat, k < s.fsize →
           t.planeRead (s.fseq.winFrame % 2) x.e.dst k = rd (s.tap x.idx).cur k) ∧
         (∀ y ∈ (s.tap x.idx).fade, fits y.1 → y.2.1 + s.fsize ≤ 2 ^ y.2.2 → ∀ k : Nat, k < s.fsize →
           let w := fadeWeight y.2.2 (y.2.1 + k + 1)
           t.planeRead (s.fseq.winFrame % 2) x.e.dst k = Word.ofInt (roundShift false
             ((rd y.1 k).toInt * (2 ^ 28 - w) + (rd (s.tap x.idx).cur k).toInt * w) 28))))

/-- SIGNAL_PLANE_WRITE (R77, R433): a write of the cluster port of core n to samples that it may write
stores exactly the enabled bytes and marks their samples as written; every other write changes no byte, logs
RANGE and raises BAD_WRITE, and one while MIX is not ON logs DOMAIN_OFF. That a write with one byte not
accepted is discarded whole, and that part of a sample marks it, is log entry 88; positions beyond N are log
entry 52. TABLE_WRITE (R35, R40, R42, R44, R69, R154, R433): a write of the shadow copy of a table stores
exactly its bytes and makes the page dirty; one to a locked page logs LOCKED alone, whatever else holds; one
to the active copy, during a pending commit or a SYNC, or to a domain that is not ON stores nothing and logs
its code (the order of these checks is log entry 17). -/
def Obligations.PlaneAndTableWrites : Prop :=
  (let sig (a : Nat) : Nat := (a - 0x22000000) / 128 % 16384
   let buf (a : Nat) : Nat := (a - 0x22000000) / 0x200000
   let pos (a : Nat) : Nat := (a - 0x22000000) % 128 / 4
   let inside (acc : Access) : Prop := 0x22000000 ≤ acc.addr ∧ acc.addr + acc.size ≤ 0x22400000
   (∀ (s : State) (acc : Access) (n : Nat), s.inReset = false → s.domOn 5 = true → inside acc →
     acc.by_ = .clus (n / 8) → accBytes acc ≠ [] →
     (∀ x ∈ accBytes acc, s.mayWritePlane n (buf x.1) (sig x.1) (pos x.1) = true) →
     ∃ t, exec (.signalPlaneWrite acc n) s = .next t ∧ (∀ x ∈ accBytes acc, t.byte x.1 = x.2) ∧
       (∀ a, (∀ x ∈ accBytes acc, x.1 ≠ a) → t.byte a = s.byte a) ∧
       (∀ x ∈ accBytes acc, Tab.get false t.marks (markKey (buf x.1) (sig x.1) (pos x.1)) = true) ∧
       Only [.mem, .marks] s t) ∧
   (∀ (s : State) (acc : Access) (n : Nat) (x : Nat × Byte), s.inReset = false → s.domOn 5 = true → inside acc →
     x ∈ accBytes acc → s.mayWritePlane n (buf x.1) (sig x.1) (pos x.1) = false →
     ∃ t, exec (.signalPlaneWrite acc n) s = .next t ∧ t.get Page.frame HDR.ERR_LAST.CODE = Code.range ∧
       Raised Page.frame 3 s t ∧ Only [.fld] s t) ∧
   (∀ (s : State) (acc : Access) (n : Nat), s.inReset = false → s.domOn 5 = true → inside acc →
     (∀ c, acc.by_ = .clus c → n / 8 ≠ c) →
     ∃ t, exec (.signalPlaneWrite acc n) s = .next t ∧ t.get Page.frame HDR.ERR_LAST.CODE = Code.range ∧
       Raised Page.frame 3 s t ∧ Only [.fld] s t) ∧
   (∀ (s : State) (acc : Access) (n : Nat), s.inReset = false → s.domOn 5 = false → inside acc →
     ∃ t, exec (.signalPlaneWrite acc n) s = .next t ∧ Logged Page.frame Code.domainOff s t)) ∧
  (let whole (acc : Access) : Prop := acc.by_ ≠ .jtag ∧ ((acc.size = 4 ∧ acc.enables.toNat % 16 = 15 ∧
     acc.addr % 4 = 0) ∨ (acc.size = 8 ∧ acc.enables = 0xFF#8 ∧ acc.addr % 8 = 0))
   (∀ (s : State) (acc : Access) (p set : Nat), s.inReset = false → whole acc → placeOf acc.addr = .table p set →
     s.pageOn p = true → s.locked p = false → set ≠ s.activeSet p → s.shadowHeld p = false →
     ∃ t, exec (.tableWrite acc) s = .next t ∧ (∀ x ∈ accBytes acc, t.byte x.1 = x.2) ∧
       (∀ a, (a < acc.addr ∨ acc.addr + acc.size ≤ a) → t.byte a = s.byte a) ∧ t.dirty p = true ∧
       Only [.mem, .dirtyTab, .respErr] s t) ∧
   (∀ (s : State) (acc : Access) (p : Nat), s.inReset = false → whole acc →
     placeOf acc.addr = .table p (s.activeSet p) → s.pageOn p = true → s.locked p = false →
     ∃ t, exec (.tableWrite acc) s = .next t ∧ Logged p Code.writeToActive { s with respErr := false } t) ∧
   (∀ (s : State) (acc : Access) (p set : Nat), s.inReset = false → acc.by_ ≠ .jtag →
     acc.addr % 256 + acc.size ≤ 256 → 1 ≤ acc.size → acc.size ≤ 8 → placeOf acc.addr = .table p set → s.locked p = true →
     ∃ t, exec (.tableWrite acc) s = .next t ∧ Logged p Code.locked { s with respErr := false } t) ∧
   (∀ (s : State) (acc : Access) (p set : Nat), s.inReset = false → whole acc → placeOf acc.addr = .table p set →
     s.pageOn p = true → s.locked p = false → set ≠ s.activeSet p → s.shadowHeld p = true →
     ∃ t, exec (.tableWrite acc) s = .next t ∧ Logged p Code.refused { s with respErr := false } t) ∧
   (∀ (s : State) (acc : Access) (p set : Nat), s.inReset = false → whole acc → placeOf acc.addr = .table p set →
     s.locked p = false → s.pageOn p = false →
     ∃ t, exec (.tableWrite acc) s = .next t ∧ Logged p Code.domainOff { s with respErr := false } t) ∧
   (∀ (s : State) (acc : Access) (n set : Nat), s.inReset = false → whole acc → placeOf acc.addr = .prog n set →
     s.pageOn (Page.ibex n) = true → s.locked (Page.ibex n) = false → set = s.activeSet (Page.ibex n) →
     ∃ t, exec (.tableWrite acc) s = .next t ∧
       Logged (Page.ibex n) Code.writeToActive { s with respErr := false } t) ∧
   (∀ (s : State) (acc : Access) (n set : Nat), s.inReset = false → whole acc → acc.size = 4 →
     placeOf acc.addr = .prog n set → s.pageOn (Page.ibex n) = true → s.locked (Page.ibex n) = false →
     set ≠ s.activeSet (Page.ibex n) → s.shadowHeld (Page.ibex n) = false → (s.core n).swapPend = false →
     s.memMirror (n / 8) = none →
     ∃ t, exec (.tableWrite acc) s = .next t ∧ (∀ x ∈ accBytes acc, t.byte x.1 = x.2) ∧
       (∀ a, (a < acc.addr ∨ acc.addr + 4 ≤ a) → t.byte a = s.byte a) ∧ t.dirty (Page.ibex n) = true ∧
       Only [.mem, .ecc, .dirtyTab, .respErr] s t))

/-- REGISTER_WRITE, the order in which a write of 32 bits is judged (R34, R35, R37, R38, R56, R69; the order
is log entry 12): an offset that the page does not map is counted; then the lock, READY and the domain
refuse it under their codes; a write of another shape is RANGE, or LOCKED where the lock covers it (log
entry 13). Nothing else changes. What a write that is served does (R36, R39, R52): RW fields take their bits
at once and shadowed fields in the shadow copy alone, which makes the page dirty, in every register of every
page whose write does nothing else; a value out of range leaves every field and logs RANGE; IRQ_RAW bits
written as 1 clear and IRQ_EN keeps the bits that the page has, on a locked page and whatever the state of
the domain, and the PBA bits of vectors that are no longer pending clear with them (R59). A register read of
32 bits (R34, R35, R36, R38, R39): each field shows its value, a write-only field 0 and a shadowed field the
copy that VIEW selects; the read clears RC fields and nothing else; it returns 0 and is counted at an
unmapped offset, and returns 0 and logs DOMAIN_OFF while the domain is not ON. Registers computed from other
state and fields of an undefined domain (R8) are not among these. -/
def Obligations.RegisterWritesAreJudgedAndTake : Prop :=
  ((∀ (s : State) (acc : Access) (p off v : Nat), s.inReset = false → Writes acc p off v → regAt p off = none →
     ∃ t, exec (.registerWrite acc) s = .next t ∧ t.get Page.dev DEV.UNMAPPED_COUNT.COUNT =
         Nat.min (s.get Page.dev DEV.UNMAPPED_COUNT.COUNT + 1) 65535 ∧
       OnlyRegs [(Page.dev, 0x64)] s t ∧ Only [.fld, .respErr] s t) ∧
   (∀ (s : State) (acc : Access) (p off v : Nat), s.inReset = false → Writes acc p off v → regAt p off ≠ none →
     (s.locked p = false ∨ (off < 0x40 ∧ off ≠ 0x08)) → s.notReady p = true → ∃ t, exec (.registerWrite acc) s = .next t ∧
       Logged p Code.refused { s with respErr := false } t) ∧
   (∀ (s : State) (acc : Access) (p off v : Nat), s.inReset = false → Writes acc p off v → regAt p off ≠ none →
     0x40 ≤ off → s.locked p = false → s.notReady p = false → s.pageOn p = false → ∃ t, exec (.registerWrite acc) s = .next t ∧
       Logged p Code.domainOff { s with respErr := false } t) ∧
   (∀ (s : State) (acc : Access) (p off v : Nat), s.inReset = false → Writes acc p off v → regAt p off ≠ none →
     (0x40 ≤ off ∨ off = 0x08) → s.locked p = true →
     ∃ t, exec (.registerWrite acc) s = .next t ∧ Logged p Code.locked { s with respErr := false } t) ∧
   (∀ (s : State) (acc : Access) (p off : Nat), s.inReset = false → p < 256 → off < 0x1000 →
     acc.addr = 0x10000000 + p * 0x1000 + off → (blockOf p).isSome = true →
     (acc.size = 1 ∨ acc.size = 2 ∨ (acc.size = 4 ∧ (off % 4 ≠ 0 ∨ acc.enables.toNat % 16 ≠ 15))) →
     acc.by_ ≠ .jtag →
     ∃ t, exec (.registerWrite acc) s = .next t ∧ Logged p
       (if s.locked p = true ∧ (0x40 ≤ off ∨ off / 4 = 2) then Code.locked else Code.range) { s with respErr := false } t)) ∧
  (let plain (p off : Nat) : Bool := match blockOf p with
     | some (.oryx, _) | some (.meter, _) | some (.eq, _) | some (.delay, _) => true
     | some (.host, _) => decide (off < 0x800)
     | some (.pwr, _) => off != 0x40 && !decide (0x100 ≤ off ∧ off < 0x120)
     | some (.gpio, _) => off != 0x48 && off != 0x4C
     | some (.busm, _) => off != 0x4C
     | some (.store, _) => off != 0x4C && off != 0x5C
     | some (.dma, _) => off != 0x40 && off != 0x4C
     | some (.frame, _) => off != 0x40
     | some (.ibex, _) => off != 0x58 && !decide (0x300 ≤ off ∧ off < 0x320)
     | some (.ring, _) => off != 0x40 && off != 0x48
     | some (.trunk, _) | some (.spur, _) => off != 0x94
     | some (.lane, _) => !([0x40, 0x44, 0x5C, 0xA0, 0xAC, 0xC0].contains off)
     | some (.tdm, _) | some (.i2s, _) => !([0x40, 0x44, 0x50, 0x54, 0x100].contains off)
     | some (.amp, _) => !([0x40, 0x54, 0x58, 0x74, 0x84].contains off) && !decide (0x60 ≤ off ∧ off ≤ 0x74)
     | some (.boost, _) => off != 0x40 && off != 0x44
     | _ => false
   (∀ (s : State) (acc : Access) (p off v : Nat), s.Takes p → Writes acc p off v → 0x40 ≤ off →
     regAt p off ≠ none → rangeBad p off v = true → ∃ t, exec (.registerWrite acc) s = .next t ∧
       Logged p Code.range { s with respErr := false } t) ∧
   (∀ (s : State) (acc : Access) (p off v : Nat) (flds : List Fld), s.Takes p → Writes acc p off v →
     plain p off = true → 0x40 ≤ off → regAt p off = some flds →
     rangeBad p off v = false → s.shadowHeld p = false → ∃ t, exec (.registerWrite acc) s = .next t ∧
       (∀ f ∈ flds, f.ty = .rw → t.get p f = bits v f.lo f.w) ∧
       (∀ f ∈ flds, f.ty = .rws → t.getSh p f = bits v f.lo f.w ∧ t.get p f = s.get p f ∧ t.dirty p = true) ∧
       (∀ f ∈ flds, f.ty ∈ [.ro, .rc, .wo] → t.get p f = s.get p f) ∧
       OnlyRegs [(p, off)] s t ∧ Only [.fld, .shadow, .dirtyReg, .respErr] s t) ∧
   (∀ (s : State) (acc : Access) (p v : Nat), s.inReset = false → Writes acc p 0x10 v → (blockOf p).isSome = true →
     s.notReady p = false → s.spareHeld p = false → ∃ t, exec (.registerWrite acc) s = .next t ∧
       (∀ v, v < 64 → (t.get Page.host (pbaFld v)).testBit (v % 32) =
         ((s.get Page.host (pbaFld v)).testBit (v % 32) && t.vecPending v)) ∧
       (s.get p HDR.IRQ_RAW.RAW < 2 ^ 32 →
         t.get p HDR.IRQ_RAW.RAW = s.get p HDR.IRQ_RAW.RAW - (s.get p HDR.IRQ_RAW.RAW &&& v)) ∧
       OnlyRegs [(p, 0x10), (Page.host, (pbaFld 0).off), (Page.host, (pbaFld 32).off)] s t ∧ Only [.fld, .respErr] s t) ∧
   (∀ (s : State) (acc : Access) (p v : Nat), s.inReset = false → Writes acc p 0x14 v → (blockOf p).isSome = true →
     s.notReady p = false → s.spareHeld p = false → ∃ t, exec (.registerWrite acc) s = .next t ∧
       (∀ v, v < 64 → (t.get Page.host (pbaFld v)).testBit (v % 32) =
         ((s.get Page.host (pbaFld v)).testBit (v % 32) && t.vecPending v)) ∧ t.get p HDR.IRQ_EN.EN = v &&& irqMask p ∧
       OnlyRegs [(p, 0x14), (Page.host, (pbaFld 0).off), (Page.host, (pbaFld 32).off)] s t ∧ Only [.fld, .respErr] s t)) ∧
  (let hidden (p off : Nat) : Bool := match blockOf p with
     | some (.oryx, _) => off == 0x68
     | some (.lane, _) => off == 0xB8
     | some (.ibex, _) => decide (0x314 ≤ off ∧ off ≤ 0x31C)
     | _ => false
   let at_ (p off : Nat) : Nat := 0x10000000 + p * 0x1000 + off
   (∀ (s : State) (by_ : Master) (p off : Nat) (flds : List Fld) (qos : BitVec 4) (core : Nat) (inL0 : Bool),
     s.inReset = false → by_ ≠ .jtag → s.admits by_ qos.toNat = true → s.waiting.any (fun w => w.by_ == by_) = false →
     p < 256 → off < 0x1000 → off % 4 = 0 → regAt p off = some flds → hidden p off = false →
     (off < 0x40 ∨ (s.pageOn p = true ∧ Tab.get false s.undef (pageDomain p) = false)) →
     (off < 0x40 → s.headerView p off = none) →
     (∀ x ∈ blockOf p, 0x40 ≤ off → s.blockView x.1 x.2 off = none) →
     (∀ f ∈ flds, s.get p f < 2 ^ f.w ∧ s.getSh p f < 2 ^ f.w) →
     ∃ t, exec (.busTransaction by_ false (at_ p off) [0, 0, 0, 0] [true, true, true, true] qos core inL0) s = .next t ∧
       t.readData.length = 4 ∧
       (∀ f ∈ flds, bits (ofLe (t.readData.map (fun w => w.setWidth 8))) f.lo f.w =
         if f.ty = .wo then 0
         else if f.ty = .rws then (if s.flag p HDR.PAGE_CTRL.VIEW then s.get p f else s.getSh p f)
         else s.get p f) ∧
       (∀ f ∈ flds, t.get p f = if f.ty = .rc then f.rst else s.get p f) ∧
       t.respErr = false ∧ OnlyRegs [(p, off)] s t ∧ Only [.fld, .readData, .respErr] s t) ∧
   (∀ (s : State) (by_ : Master) (p off : Nat) (qos : BitVec 4) (core : Nat) (inL0 : Bool),
     s.inReset = false → by_ ≠ .jtag → s.admits by_ qos.toNat = true → s.waiting.any (fun w => w.by_ == by_) = false →
     p < 256 → off < 0x1000 → off % 4 = 0 →
     ∃ t, exec (.busTransaction by_ false (at_ p off) [0, 0, 0, 0] [true, true, true, true] qos core inL0) s = .next t ∧
       (regAt p off = none → t.readData = [0, 0, 0, 0] ∧ OnlyRegs [(Page.dev, 0x64)] s t ∧
         t.get Page.dev DEV.UNMAPPED_COUNT.COUNT = Nat.min (s.get Page.dev DEV.UNMAPPED_COUNT.COUNT + 1) 65535) ∧
       (regAt p off ≠ none → 0x40 ≤ off → s.pageOn p = false → t.readData = [0, 0, 0, 0] ∧
         Logged p Code.domainOff { s with readData := [0, 0, 0, 0], respErr := false } t)))

/-- SOFT_RST, SYNC, SYNC_DONE (R42, R44, R69): SOFT_RST of a page whose domain is ON returns the RW and
shadowed registers of the page to their reset values in both copies (the registers that log entry 70 keeps
apart) and keeps EN; SYNC shows BUSY until SYNC_DONE, which makes the shadow copy of the page's table or
program set equal to the active one and clears the table's dirty flag; both are refused for a page of a
pending commit. IRQ_FORCE, PAGE_LOCK (R52, R69): forced bits that the page has are set in IRQ_RAW and no
other; LOCK is set. Both act on a locked page and in every state of the domain once READY is set, but not on
a page of a spare that copies or follows (R160). -/
def Obligations.CommonHeaderCommands : Prop :=
  ((∀ (s : State) (p off : Nat) (flds : List Fld), s.Takes p → s.inCommit p = false → 0x40 ≤ off → off < 0x1000 →
     regAt p off = some flds → (p, off) ∉ [(Page.clk, 0x40), (Page.gpio, 0x40), (Page.gpio, 0x44),
       (Page.gpio, 0x54), (Page.gpio, 0x58)] → ∃ t, exec (.softRst p) s = .next t ∧
       (∀ f ∈ flds, f.ty = .rw ∨ f.ty = .rws → t.get p f = f.rst) ∧
       (∀ f ∈ flds, f.ty = .rws → t.getSh p f = f.rst) ∧ t.enabled p = s.enabled p ∧
       (s.fseq.oldPages = [] → (∀ e, p ≠ Page.dma e) → t.mem = s.mem)) ∧
   (∀ (s : State) (p : Nat), (blockOf p).isSome = true → s.Takes p → s.inCommit p = true →
     ∃ t, exec (.softRst p) s = .next t ∧ Logged p Code.refused s t) ∧
   (∀ (s : State) (p : Nat), (pageTables p).isSome = true → s.Takes p → s.inCommit p = false → s.syncing p = false →
     (∀ n, blockOf p = some (.ibex, n) → (s.core n).swapPend = false) → ∃ t, exec (.sync p) s = .next t ∧ t.syncing p = true ∧
       OnlyRegs [(p, 0x08), (p, 0x0C)] s t ∧ Only [.fld] s t) ∧
   (∀ (s : State) (p : Nat), (blockOf p).isSome = true → s.Takes p → s.inCommit p = true →
     ∃ t, exec (.sync p) s = .next t ∧ Logged p Code.refused s t) ∧
   (∀ (s : State) (p a b n : Nat), s.inReset = false → s.pageOn p = true → s.syncing p = true →
     pageTables p = some (a, b, n) → (a < 0x20000000 ∨ s.memMirror (clusOfAddr a) = none) →
     ∃ t, exec (.syncDone p) s = .next t ∧ t.syncing p = false ∧ Tab.get false t.dirtyTab p = false ∧
       (∀ i, i < n → t.byte (a + i) = t.byte (b + i)) ∧
       (∀ i, i < n → s.activeSet p = 0 → t.byte (a + i) = s.byte (a + i)) ∧
       (∀ i, i < n → s.activeSet p ≠ 0 → t.byte (b + i) = s.byte (b + i)) ∧
       (∀ x, (x < a ∨ a + n ≤ x) → (x < b ∨ b + n ≤ x) → t.byte x = s.byte x) ∧
       OnlyRegs [(p, 0x08), (p, 0x0C)] s t ∧ Only [.fld, .mem, .ecc, .dirtyTab] s t)) ∧
  ((∀ (s : State) (p : Nat) (b : Word), s.inReset = false → (blockOf p).isSome = true → s.notReady p = false →
     s.spareHeld p = false → ∃ t, exec (.irqForce p b) s = .next t ∧
       t.get p HDR.IRQ_RAW.RAW = (s.get p HDR.IRQ_RAW.RAW ||| (b.toNat &&& irqMask p)) % 2 ^ 32 ∧
       OnlyRegs [(p, 0x10)] s t ∧ Only [.fld] s t) ∧
   (∀ (s : State) (p : Nat), s.inReset = false → (blockOf p).isSome = true → s.notReady p = false →
     s.spareHeld p = false → ∃ t, exec (.pageLock p) s = .next t ∧ t.locked p = true ∧ OnlyRegs [(p, 0x2C)] s t ∧ Only [.fld] s t) ∧
   (∀ (s : State) (p : Nat) (b : Word), s.inReset = false → (blockOf p).isSome = true →
     (s.notReady p = true ∨ s.spareHeld p = true) →
     (∃ t, exec (.irqForce p b) s = .next t ∧ Logged p Code.refused s t) ∧
     (∃ t, exec (.pageLock p) s = .next t ∧ Logged p Code.refused s t)))

/-- COMMIT_GO, COMMIT_ABORT (R43, R44, R45, R50): a GO with TIMING 0b00 makes the commit pending with its
groups, TIMING and STRICT latched and the outcome bits cleared; a GO while a commit is pending or a power
request runs logs REFUSED, TIMING 0b11 RANGE; a timed GO stays pending with its target latched, or is late
where the target is past; ABORT ends the pending commit and sets ABORTED, and does nothing more without one
or in the MGMT_CLK cycle of the boundary that applies it. The page list is fixed at GO (log entry 85); ABORT
beside a GO that is refused, or with TIMING 0b11, is log entry 56, the MGMT_CLK cycle log entry 101. -/
def Obligations.CommitGoAndAbort : Prop :=
  (∀ (s : State) (ctrl : Word), s.Takes Page.dev →
    (s.commitPending = false ∨ ctrl.getLsbD 18 = true ∧ s.commitAtOnce = false) → bits ctrl.toNat 8 2 = 0 → s.pwrBusy = false → ∃ t, exec (.commitGo ctrl) s = .next t ∧
      t.get Page.dev DEV.COMMIT_CTRL.GROUP_MASK = ctrl.toNat % 256 ∧ t.get Page.dev DEV.COMMIT_CTRL.TIMING = 0 ∧
      t.flag Page.dev DEV.COMMIT_CTRL.STRICT = ctrl.getLsbD 17 ∧
      (∀ f ∈ [DEV.COMMIT_STAT.DONE, DEV.COMMIT_STAT.LATE, DEV.COMMIT_STAT.DEFERRED, DEV.COMMIT_STAT.REFUSED,
        DEV.COMMIT_STAT.ABORTED, DEV.COMMIT_STAT.CODE, DEV.COMMIT_STAT.DEFER_FRAMES], t.get Page.dev f = 0) ∧
      t.get Page.dev DEV.COMMIT_STAT.PENDING = 1 ∧
      t.commit = ⟨allPages.filter (fun p => (ctrl.toNat % 256).testBit (s.group p)), 0, ctrl.getLsbD 17, 0, false, false⟩ ∧
      OnlyRegs [(Page.dev, 0x40), (Page.dev, 0x44)] s t ∧ Only [.fld, .commit] s t) ∧
  (∀ (s : State) (ctrl : Word), s.Takes Page.dev →
    (s.commitPending = false ∨ ctrl.getLsbD 18 = true ∧ s.commitAtOnce = false) → (bits ctrl.toNat 8 2 = 1 ∨ bits ctrl.toNat 8 2 = 2) → s.pwrBusy = false →
    ∃ t, exec (.commitGo ctrl) s = .next t ∧
      let now := if bits ctrl.toNat 8 2 = 1 then s.cycle else s.nt
      let target := if bits ctrl.toNat 8 2 = 1 then s.get Page.dev DEV.COMMIT_CYCLE.CYCLE
        else s.get Page.dev DEV.COMMIT_TIME.TIME
      let past := decide (2 ^ 31 ≤ (target + 2 ^ 33 - now - 1) % 2 ^ 32)
      t.flag Page.dev DEV.COMMIT_STAT.LATE = past ∧
      (past = false → t.get Page.dev DEV.COMMIT_STAT.PENDING = 1 ∧ t.commit.target = target ∧
        t.commit.timing = bits ctrl.toNat 8 2 ∧ OnlyRegs [(Page.dev, 0x40), (Page.dev, 0x44)] s t) ∧
      (past = true → ctrl.getLsbD 17 = true → t.commitPending = false ∧
        t.flag Page.dev DEV.COMMIT_STAT.REFUSED = true ∧ t.get Page.dev DEV.COMMIT_STAT.CODE = Code.late) ∧
      (past = true → ctrl.getLsbD 17 = false → t.commitPending = true ∧ t.commit.late = true ∧
        t.get Page.dev HDR.ERR_LAST.CODE = Code.late) ∧ Only [.fld, .commit] s t) ∧
  (∀ (s : State) (ctrl : Word), s.Takes Page.dev → (ctrl.getLsbD 18 = false ∨ s.commitAtOnce = true) →
    (bits ctrl.toNat 8 2 = 3 ∨ s.commitPending = true ∨ s.pwrBusy = true) →
    ∃ t, exec (.commitGo ctrl) s = .next t ∧ t.get Page.dev HDR.ERR_LAST.CODE =
        (if bits ctrl.toNat 8 2 = 3 then Code.range else Code.refused) ∧ t.commit = s.commit ∧
      OnlyRegs [(Page.dev, 0x40), (Page.dev, 0x24), (Page.dev, 0x28)] s t ∧ Only [.fld] s t) ∧
  (∀ (s : State) (ctrl : Word), s.Takes Page.dev → ctrl.getLsbD 18 = true → s.commitAtOnce = false →
    (bits ctrl.toNat 8 2 = 3 ∨ s.pwrBusy = true) → ∃ t, exec (.commitGo ctrl) s = .next t ∧
      t.get Page.dev HDR.ERR_LAST.CODE = (if bits ctrl.toNat 8 2 = 3 then Code.range else Code.refused) ∧
      t.commitPending = false ∧ Only [.fld, .commit] s t) ∧
  (∀ (s : State) (ctrl : Word), ctrl.getLsbD 16 = true →
    exec (.commitAbort ctrl) s = exec (.commitGo (ctrl ||| 0x40000#32)) s) ∧
  (∀ (s : State) (ctrl : Word), s.Takes Page.dev → ctrl.getLsbD 16 = false →
    ∃ t, exec (.commitAbort ctrl) s = .next t ∧
      (s.commitPending = true → s.commitAtOnce = false → t.commitPending = false ∧ t.get Page.dev DEV.COMMIT_STAT.DEFERRED = 0 ∧
        t.get Page.dev DEV.COMMIT_STAT.ABORTED = 1 ∧ t.commit = CommitReq.reset) ∧
      (s.commitPending = false ∨ s.commitAtOnce = true → t.commit = s.commit ∧ OnlyRegs [(Page.dev, 0x40)] s t) ∧
      OnlyRegs [(Page.dev, 0x40), (Page.dev, 0x44)] s t ∧ Only [.fld, .commit] s t)

/-- COMMIT_VALIDATION_DONE, COMMIT_APPLY (R45, R47, R48, R192, R212, R436): the first check of 1 to 5 that
fails ends the commit with its code; where none fails the commit waits for its boundary; there a failure of
check 6 or 7 defers the commit, or refuses it where it is strict and timed; a strict timed commit whose
target boundary has passed ends as a late one. What the checks of R47 refuse (checks 1 to 5,
COMMIT_VALIDATION_DONE) and defer (6 and 7, COMMIT_APPLY of a commit that is not strict and timed): a field
out of range, an Oryx table out of order (R179), two producers of one signal (R73), a core or a schedule
beyond the window (R87, R151), more streams on a lane than its slots (R299), too many fading entries (R184,
R192), EQ transitions beyond the reserve or at a position still in one (R212). What a commit that is applied
takes up (R38, R41, R154): every shadow register of its pages that are dirty and whose domain is ON becomes
active and keeps its value, their table copies exchange their roles, SHADOW_DIRTY clears; the registers of
an IBEX page wait for the core's next frame start; every other page stays as it is (log entry 54), and no
byte of a table changes. -/
def Obligations.CommitChecksDecide : Prop :=
  ((∀ s : State, s.inReset = false → s.commitPending = true → s.commit.checked = false → s.commitPast = false →
     s.refusal s.commitConfig = none → exec .commitValidationDone s =
       .next { s with commit := { s.commit with checked := true } }) ∧
   (∀ (s : State) (f : Fail), s.inReset = false → s.commitPending = true → s.commit.checked = false →
     s.commitPast = false → s.refusal s.commitConfig = some f → ∃ t, exec .commitValidationDone s = .next t ∧
       t.commitPending = false ∧ t.flag Page.dev DEV.COMMIT_STAT.REFUSED = true ∧
       t.get Page.dev DEV.COMMIT_STAT.CODE = f.1 % 256 ∧ t.get Page.dev DEV.COMMIT_DETAIL.PAGE = f.2.1 % 256 ∧
       t.get Page.dev DEV.COMMIT_DETAIL.INDEX = f.2.2 % 2 ^ 17 ∧ t.get Page.dev HDR.ERR_LAST.CODE = f.1 % 256 ∧
       Raised Page.dev 1 s t ∧ OnlyRegs [(Page.dev, 0x44), (Page.dev, 0x54), (Page.dev, 0x24), (Page.dev, 0x28),
         (Page.dev, 0x10)] s t ∧ Only [.fld, .commit] s t) ∧
   (∀ (s : State) (f : Fail) (b : BitVec 32), s.inReset = false → s.nextTick = some b → s.commitDue = true →
     s.commitMissed = false → (s.throughG2 b).refusal (s.throughG2 b).commitConfig = some f →
     ∃ t, exec .commitApply s = .next t ∧ t.commitPending = false ∧
       t.get Page.dev DEV.COMMIT_STAT.CODE = f.1 % 256 ∧ t.flag Page.dev DEV.COMMIT_STAT.REFUSED = true) ∧
   (∀ (s : State) (f : Fail) (b : BitVec 32), s.inReset = false → s.nextTick = some b → s.commitDue = true →
     s.commitMissed = false → (s.throughG2 b).refusal (s.throughG2 b).commitConfig = none →
     (s.throughG2 b).deferral (s.throughG2 b).commitConfig = some f →
     ∃ t, exec .commitApply s = .next t ∧ t.get Page.dev DEV.COMMIT_STAT.CODE = f.1 % 256 ∧
       (s.commit.strict = true ∧ s.commit.timing ≠ 0 → t.commitPending = false ∧
         t.flag Page.dev DEV.COMMIT_STAT.REFUSED = true) ∧
       (s.commit.strict = false ∨ s.commit.timing = 0 → t.commit = s.commit ∧
         t.flag Page.dev DEV.COMMIT_STAT.DEFERRED = true ∧ (s.fseq.held = false →
           t.get Page.dev DEV.COMMIT_STAT.DEFER_FRAMES =
             Nat.min (s.get Page.dev DEV.COMMIT_STAT.DEFER_FRAMES + 1) 65535 ∧
           (s.flag Page.dev DEV.COMMIT_STAT.DEFERRED = false →
             t.get Page.dev HDR.ERR_LAST.CODE = Code.deferred)))) ∧
   (∀ (s : State) (b : BitVec 32), s.inReset = false → s.nextTick = some b → s.commitDue = true →
     s.commitMissed = true → ∃ t, exec .commitApply s = .next t ∧ t.commitPending = false ∧
       t.flag Page.dev DEV.COMMIT_STAT.LATE = true ∧ t.flag Page.dev DEV.COMMIT_STAT.REFUSED = true ∧
       t.get Page.dev DEV.COMMIT_STAT.CODE = Code.late) ∧
   (∀ s : State, s.commitPending = false → exec .commitValidationDone s = .next s ∧ exec .commitApply s = .next s)) ∧
  (let open_ (s : State) : Bool := !s.inReset && s.commitPending && !s.commit.checked && !s.commitPast
   let ends (t : State) (code : Nat) : Prop := t.commitPending = false ∧
     t.flag Page.dev DEV.COMMIT_STAT.REFUSED = true ∧ t.get Page.dev DEV.COMMIT_STAT.CODE = code
   let named (t : State) (p i : Nat) : Prop := t.get Page.dev DEV.COMMIT_DETAIL.PAGE = p ∧
     t.get Page.dev DEV.COMMIT_DETAIL.INDEX = i % 2 ^ 17
   (∀ s : State, open_ s = true → s.commitConfig.check1 s s.scans ≠ none → ∃ t, exec .commitValidationDone s = .next t ∧ ends t Code.range) ∧
   (∀ (s : State) (i : Nat), open_ s = true → let new := s.commitConfig
     new.check1 s s.scans = none → new.domOn 5 = true →
     let keys := new.xpts.map (fun e => e.dst * 16384 + e.src)
     i + 1 < keys.length → keys.getD (i + 1) 0 ≤ keys.getD i 0 → (∀ j < i, keys.getD j 0 < keys.getD (j + 1) 0) →
     ∃ t, exec .commitValidationDone s = .next t ∧ ends t 0x44 ∧ named t Page.oryx (i + 1)) ∧
   (∀ (s : State) (sig : Nat), open_ s = true → let new := s.commitConfig
     new.check1 s s.scans = none → new.check2 = none →
     1 < new.producers.countP (fun e => e.2 == sig) →
     (∀ k < sig, new.producers.countP (fun e => e.2 == k) ≤ 1) →
     ∃ t, exec .commitValidationDone s = .next t ∧ ends t 0x40 ∧ t.get Page.dev DEV.COMMIT_DETAIL.INDEX = sig % 2 ^ 17) ∧
   (∀ (s : State) (i n : Nat), open_ s = true → let new := s.commitConfig
     new.check1 s s.scans = none → new.check2 = none → new.check3 = none →
     i ∈ new.presentPasses 4 → n ∈ new.enCores (new.passClus i) →
     let d := new.ibexCfg n IBEX.DECL_WCET.CYCLES
     (new.budget < d + 64 ∨ d < new.stageCycles (n / 8) false + new.stageCycles (n / 8) true + 16) →
     ∃ t, exec .commitValidationDone s = .next t ∧ ends t 0x41) ∧
   (∀ (s : State) (q : Slot), open_ s = true → let new := s.commitConfig
     new.check1 s s.scans = none → new.check2 = none → new.check3 = none → new.coreLate = none → new.domOn 5 = true →
     q ∈ new.schedule → new.budget < q.start + q.cost →
     ∃ t, exec .commitValidationDone s = .next t ∧ ends t 0x41 ∧ t.get Page.dev DEV.COMMIT_DETAIL.PAGE = Page.frame) ∧
   (∀ (s : State) (p lidx par : Nat), open_ s = true → let new := s.commitConfig
     new.check1 s s.scans = none → new.check2 = none → new.check3 = none → new.check4 = none → new.domOn 7 = true →
     p < 8 → lidx < (if p < 4 then 2 else 1) → par < 2 → new.slots p < (new.portPlan p lidx par).length →
     ∃ t, exec .commitValidationDone s = .next t ∧ ends t 0x42) ∧
   (∀ (s : State) (b : BitVec 32), s.inReset = false → s.nextTick = some b → s.commitDue = true →
     s.commitMissed = false → (s.commit.strict = false ∨ s.commit.timing = 0) →
     let past := s.throughG2 b
     let new := past.commitConfig
     let moves := eqMoving past new
     past.refusal new = none → new.domOn 5 = true → ∃ t, exec .commitApply s = .next t ∧
       (4096 < new.fadeKeys.length ∨ new.cps / 2 < new.fastCount → t.commit = s.commit ∧
         t.flag Page.dev DEV.COMMIT_STAT.DEFERRED = true ∧ t.get Page.dev DEV.COMMIT_STAT.CODE = 0x43) ∧
       (new.fadeKeys.length ≤ 4096 → new.fastCount ≤ new.cps / 2 → ((∃ e ∈ moves, e.2.2 = true) ∨
         ∃ i < 8, new.get Page.eq (EQ.XALLOW.ALLOW i) < moves.countP (fun e => e.1 == some i)) → t.commit = s.commit ∧
         t.flag Page.dev DEV.COMMIT_STAT.DEFERRED = true ∧ t.get Page.dev DEV.COMMIT_STAT.CODE = 0x45))) ∧
  (∀ (s : State) (b : BitVec 32) (p : Nat), s.inReset = false → s.nextTick = some b → s.commitDue = true →
     s.commitMissed = false → (s.throughG2 b).refusal (s.throughG2 b).commitConfig = none →
     (s.throughG2 b).deferral (s.throughG2 b).commitConfig = none → (blockOf p).isSome = true →
     s.fseq.oldTabs = [] → s.commit.pages.Nodup →
     let takes := s.commit.pages.contains p && s.dirty p && s.pageOn p
     let core := match blockOf p with
       | some (.ibex, n) => some n
       | _ => none
     ∃ t, exec .commitApply s = .next t ∧
       (takes = true → core = none → ∀ f ∈ shadowFlds p, t.get p f = s.getSh p f % 2 ^ f.w) ∧
       (takes = true → ∀ n ∈ core, (t.core n).swapPend = true ∧
         ∀ f ∈ shadowFlds p, t.ibexCfg n f = s.getSh p f) ∧
       (takes = true → hasTables p = true → t.activeSet p = (1 - s.activeSet p) % 2) ∧
       (takes = true → t.dirty p = false) ∧ (∀ f ∈ shadowFlds p, t.getSh p f = s.getSh p f) ∧
       (takes = false → t.dirty p = s.dirty p ∧ t.activeSet p = s.activeSet p ∧
         ∀ f ∈ shadowFlds p, t.get p f = s.get p f) ∧
       (∀ x ∈ pageTables p, ∀ i < x.2.2, t.byte (x.1 + i) = s.byte (x.1 + i) ∧ t.byte (x.2.1 + i) = s.byte (x.2.1 + i)))

/-- COMMIT_APPLY of a commit that passes every check (R51): COMMIT_SEQ advances by one, COMMIT_DONE_CYCLE
takes the cycle number, DONE is set and COMMIT_DONE is raised; nothing is pending any more. -/
def Obligations.AppliedCommitIsReported : Prop :=
  ∀ (s : State) (b : BitVec 32), s.inReset = false → s.nextTick = some b → s.commitDue = true →
    s.commitMissed = false → (s.throughG2 b).refusal (s.throughG2 b).commitConfig = none →
    (s.throughG2 b).deferral (s.throughG2 b).commitConfig = none →
    ∃ t, exec .commitApply s = .next t ∧
      t.get Page.dev DEV.COMMIT_SEQ.SEQ = (s.get Page.dev DEV.COMMIT_SEQ.SEQ + 1) % 2 ^ 32 ∧
      t.get Page.dev DEV.COMMIT_DONE_CYCLE.CYCLE = s.cycle ∧ t.get Page.dev DEV.COMMIT_STAT.DONE = 1 ∧
      (t.get Page.dev HDR.IRQ_RAW.RAW).testBit 0 = true ∧ t.commitPending = false ∧ t.commit = CommitReq.reset

/-- VECTOR_ASSERT (R52, R53): a vector that is pending and not in service is put in service with the network
time in VEC_NT; its message is sent, or waits in the PBA while MSI-X is not enabled, the function or the
vector is masked or the endpoint is in D3hot (log entry 61); every IRQ_N pin selected for it is low. -/
def Obligations.PendingVectorAsserts : Prop :=
  (∀ (s : State) (v : Nat), s.inReset = false → v < 64 → s.vecPending v = true → s.inService v = false →
    ∃ t, exec (.vectorAssert v) s = .next t ∧ t.inService v = true ∧ t.get Page.irq (IRQ.VEC_NT.NT v) = s.nt ∧
      (s.pins.pcie.msixEn = true → s.pins.pcie.fnMask = false → s.flag Page.host (HOST.MSIX_CTRL.MASK v) = false →
        s.d3hot = false → t.pins.messages = [s.message v] ∧ (t.get Page.host (pbaFld v)).testBit (v % 32) = false) ∧
      (s.pins.pcie.msixEn = false ∨ s.pins.pcie.fnMask = true ∨ s.flag Page.host (HOST.MSIX_CTRL.MASK v) = true ∨
        s.d3hot = true → t.pins.messages = [] ∧ (t.get Page.host (pbaFld v)).testBit (v % 32) = true) ∧
      (∀ u, u < 64 → u ≠ v → t.inService u = s.inService u) ∧
      (∀ m, (s.get Page.irq (IRQ.VEC_PIN.PINS (v / 8) (v % 8))).testBit m = true → t.irqPinLow m = true) ∧
      OnlyRegs [(Page.irq, (insvcFld v).off), (Page.irq, (IRQ.VEC_NT.NT v).off), (Page.host, (pbaFld v).off)] s t ∧
      Only [.fld, .pins] s t) ∧
  (∀ (s : State) (v : Nat), s.vecPending v = false ∨ s.inService v = true → exec (.vectorAssert v) s = .next s)

/-- VEC_EOI (R54): a 1 written to a vector's EOI bit ends its service; a vector that is still pending is in
service again at once with a new time and a new message, so that no event is lost; other vectors are as they
were. -/
def Obligations.EndOfServiceReassertsPendingVectors : Prop :=
  ∀ (s : State) (reg : Nat) (bits : Word), s.Takes Page.irq → reg < 2 → ∃ t, exec (.vecEoi reg bits) s = .next t ∧
    (∀ v, v < 64 → let ended := decide (v / 32 = reg) && bits.getLsbD (v % 32)
      t.inService v = (s.inService v && (!ended || s.vecPending v)) ∧
      t.get Page.irq (IRQ.VEC_NT.NT v) =
        (if ended && s.inService v && s.vecPending v then s.nt else s.get Page.irq (IRQ.VEC_NT.NT v))) ∧
    t.pins.messages = ((List.range 32).filter (fun i => let v := 32 * reg + i
      bits.getLsbD i && s.inService v && s.vecPending v && !s.msixHolds v)).map (fun i => s.message (32 * reg + i)) ∧
    (∀ i, i < 32 → bits.getLsbD i = true → s.inService (32 * reg + i) = true → s.vecPending (32 * reg + i) = true →
      s.msixHolds (32 * reg + i) = true →
      (t.get Page.host (pbaFld (32 * reg + i))).testBit i = true) ∧
    (∀ (p : Nat) (f : Fld), f.off < 0x1000 → f.lo < 32 → p ≠ Page.irq → p ≠ Page.host → t.get p f = s.get p f) ∧
    Only [.fld, .pins] s t

/-- PCIE_RESET, DSTATE_CHANGE, PCIE_LINK_UP (R57, R58): a PCIe reset returns the block registers of HOST to
their reset values and raises the bits of what changed; the outbound transactions in flight end with an
error, those of the PCIe inbound master are gone, and every other one goes on waiting; D3hot keeps messages
waiting and D0 sends those that nothing masks; link-up reports generation and width, and a message that the
host's setting of the configuration space releases goes out (log entries 63, 83). QSPI_WRITE, QSPI_READ,
QSPI_STATUS (R60): an unknown command, ADDR that is not a multiple of 4 or CNT above 63 aborts the frame; a
Write frame writes the words received up to CNT + 1 and is DONE where all have come; a Read frame returns
CNT + 1 words, or the code 0x5A where its target is not ready after 64 wait bytes; a Status frame returns
QSPI_STAT and changes nothing (log entry 64). -/
def Obligations.HostInterfaces : Prop :=
  ((∀ (s : State) (kind : PcieReset), s.inReset = false → ∃ t, exec (.pcieReset kind) s = .next t ∧
       (∀ f : Fld, 0x40 ≤ f.off → f.off < 0x1000 → f.lo < 32 → t.get Page.host f = f.rst) ∧
       (s.flag Page.host HOST.HOST_STAT.LINK_UP = true → (t.get Page.host HDR.IRQ_RAW.RAW).testBit 0 = true) ∧
       (kind = .hotReset → (t.get Page.host HDR.IRQ_RAW.RAW).testBit 1 = true) ∧
       (s.d3hot = true → (t.get Page.host HDR.IRQ_RAW.RAW).testBit 2 = true) ∧
       t.retries = s.retries.filter (fun r => !r.tried && r.by_ != .pcie) ∧
       (t.respErr = s.issued.any (fun r => r.by_ != .pcie)) ∧
       (s.issued.any (fun r => r.by_ == .pcie) = true → Raised Page.busm 0 s t ∧
         t.get Page.busm BUSM.MASTER_ABORT_COUNT.COUNT =
           Nat.min (s.get Page.busm BUSM.MASTER_ABORT_COUNT.COUNT + 1) 65535) ∧
       t.pins = { s.pins with pcie := PcieCfg.reset } ∧
       (∀ (p : Nat) (f : Fld), f.off < 0x1000 → f.lo < 32 → p ≠ Page.host → p ≠ Page.busm →
         t.get p f = s.get p f) ∧
       Only [.fld, .pins, .respErr, .retries, .shadow, .staged, .dmas] s t) ∧
   (∀ s : State, s.inReset = false → s.d3hot = false → ∃ t, exec (.dstateChange true) s = .next t ∧
       t.d3hot = true ∧ Raised Page.host 2 s t ∧ OnlyRegs [(Page.host, 0x40), (Page.host, 0x10)] s t ∧
       Only [.fld] s t) ∧
   (∀ s : State, s.inReset = false → s.d3hot = true → ∃ t, exec (.dstateChange false) s = .next t ∧
       t.get Page.host HOST.HOST_STAT.DSTATE = 0 ∧ Raised Page.host 2 s t ∧
       t.pins.messages = ((List.range 64).filter (fun v => (s.get Page.host (pbaFld v)).testBit (v % 32) &&
         !s.messageMasked s.pins.pcie v)).map s.message ∧
       (∀ v, v < 64 → (t.get Page.host (pbaFld v)).testBit (v % 32) =
         ((s.get Page.host (pbaFld v)).testBit (v % 32) && s.messageMasked s.pins.pcie v)) ∧
       OnlyRegs [(Page.host, 0x40), (Page.host, 0x10), (Page.host, 0xC00), (Page.host, 0xC04)] s t ∧
       Only [.fld, .pins] s t) ∧
   (∀ (s : State) (speed : Nat) (x2 : Bool) (cfg : PcieCfg), s.inReset = false → 1 ≤ speed → speed ≤ 4 →
     ∃ t, exec (.pcieLinkUp speed x2 cfg) s = .next t ∧ t.get Page.host HOST.HOST_STAT.SPEED = speed ∧
       t.get Page.host HOST.HOST_STAT.WIDTH = (if x2 then 2 else 1) ∧
       t.flag Page.host HOST.HOST_STAT.BUS_MASTER = cfg.busMaster ∧
       t.flag Page.host HOST.HOST_STAT.LINK_UP = true ∧ t.pins.pcie = cfg ∧
       t.pins.messages = ((List.range 64).filter (fun v => (s.get Page.host (pbaFld v)).testBit (v % 32) &&
         !s.messageMasked cfg v && !s.d3hot)).map s.message ∧
       (∀ v, v < 64 → (t.get Page.host (pbaFld v)).testBit (v % 32) =
         ((s.get Page.host (pbaFld v)).testBit (v % 32) && (s.messageMasked cfg v || s.d3hot))) ∧
       OnlyRegs [(Page.host, 0x40), (Page.host, 0xC00), (Page.host, 0xC04)] s t ∧ Only [.fld, .pins] s t)) ∧
  ((∀ (s : State) (addr : Word) (cnt : Byte) (words : List Word), s.inReset = false →
     (addr.toNat % 4 ≠ 0 ∨ 64 ≤ cnt.toNat) →
     exec (.qspiWrite addr cnt words) s = .next { s with pins := { s.pins with qspi := 6 } }) ∧
   (∀ (s : State) (addr : Word) (cnt : Byte) (frame : QspiFrame), s.inReset = false →
     (frame.cmd ≠ 0x0B ∨ addr.toNat % 4 ≠ 0 ∨ 64 ≤ cnt.toNat) →
     ∃ t, exec (.qspiRead addr cnt frame) s = .next t ∧ t.readData = [] ∧
       t.pins = { s.pins with qspi := s.pins.qspi % 4 + 4 } ∧ Only [.pins, .readData] s t) ∧
   (∀ (s : State) (addr : Word) (cnt : Byte) (words : List Word), s.inReset = false → addr.toNat % 4 = 0 →
     cnt.toNat < 64 → ∃ t, exec (.qspiWrite addr cnt words) s = .next t ∧
       t.pins.qspi.testBit 0 = decide (cnt.toNat + 1 ≤ words.length) ∧ t.pins.qspi.testBit 2 = false ∧
       t.fld = ({ s with respErr := false }.qspiWrites addr.toNat (words.take (cnt.toNat + 1))).fld ∧
       t.mem = ({ s with respErr := false }.qspiWrites addr.toNat (words.take (cnt.toNat + 1))).mem) ∧
   (∀ (s : State) (addr : Word) (cnt : Byte) (frame : QspiFrame), s.inReset = false → frame.cmd = 0x0B →
     addr.toNat % 4 = 0 → cnt.toNat < 64 → slowRead addr.toNat = true → 64 < frame.waits →
     ∃ t, exec (.qspiRead addr cnt frame) s = .next t ∧
       t.readData = [0x5A] ∧ t.pins = { s.pins with qspi := s.pins.qspi % 4 } ∧ Only [.pins, .readData] s t) ∧
   (∀ (s : State) (addr : Word) (cnt : Byte) (frame : QspiFrame), s.inReset = false → frame.cmd = 0x0B →
     addr.toNat % 4 = 0 → cnt.toNat < 64 → (slowRead addr.toNat = false ∨ frame.waits ≤ 64) →
     ∃ t, exec (.qspiRead addr cnt frame) s = .next t ∧
       t.readData.length = cnt.toNat + 1 ∧ t.readData.head? = some (Word.ofNat (ofLe
         ({ s with respErr := false }.busRead1 .qspi addr.toNat 4 true).1)) ∧ t.pins.qspi < 4 ∧
       t.mem = s.mem) ∧
   (∀ s : State, s.inReset = false → ∃ t, exec .qspiStatus s = .next t ∧
       t.readData = [Word.ofNat (s.pins.qspi % 8 + if s.ready then 8 else 0)] ∧ Only [.readData] s t))

/-- The mailbox commands (R64): a write of MBX_CMD with GO starts the command of its opcode: BUSY is set,
DONE cleared, OPCODE, LEN and TAG are taken; while BUSY the write is ignored and logs REFUSED; a flash
command of byte length 0 that the mailbox serves ends at once with NOOP (log entry 57). MBX_COMMAND_END
(R63, R64): the command in progress ends with TAG, STATUS and RLEN, BUSY cleared, DONE set and MBX_DONE
raised: BAD_OPCODE and BAD_ARG first, then each command's own results; a rollback counter never falls, a key
is programmed once, an image that verifies restarts the controller under IMAGE_SWITCH. The order of the
checks, the argument lengths, AUTH_FAIL and the layout of GET_VERSION are log entry 57; that a response
consumes its nonce and the largest level counts is log entry 58. WATCHDOG_RESTART, CONTROLLER_RESTART_DONE
(R62): a restart sets BUSY and is counted; a switch under way ends in its new slot with OK; any other
command in progress ends INTERRUPTED (a watchdog restart during a switch: log entries 81, 82); without one
BUSY is cleared. -/
def Obligations.MailboxAndController : Prop :=
  (∀ e ∈ ([(Instr.getVersion, 0x01), (Instr.getUid, 0x02), (Instr.flashRead, 0x10), (Instr.flashWrite, 0x11),
       (Instr.flashErase, 0x12), (Instr.imageVerify, 0x13), (Instr.imageSetPref, 0x14), (Instr.imageSwitch, 0x15),
       (Instr.thermalRead, 0x20), (Instr.thermalSetAlarm, 0x21), (Instr.debugChallenge, 0x30),
       (Instr.debugResponse, 0x31), (Instr.debugKeyProgram, 0x32), (Instr.rollbackAdvance, 0x33)] :
       List ((Byte → Byte → Instr) × Nat)),
     ∀ (s : State) (len tag : Byte), s.Takes Page.mgmt → ∃ t, exec (e.1 len tag) s = .next t ∧
       (s.flag Page.mgmt MGMT.MBX_STAT.BUSY = true → Logged Page.mgmt Code.refused s t) ∧
       (s.flag Page.mgmt MGMT.MBX_STAT.BUSY = false →
         t.get Page.mgmt MGMT.MBX_CMD.OPCODE = e.2 ∧ t.get Page.mgmt MGMT.MBX_CMD.LEN = len.toNat ∧
         t.get Page.mgmt MGMT.MBX_CMD.TAG = tag.toNat ∧
         (s.mbxServes e.2 = false ∨ s.mbxNoop e.2 len.toNat = false → t.mgmt.running = some (e.2, len.toNat) ∧
           t.get Page.mgmt MGMT.MBX_STAT.BUSY = 1 ∧ t.get Page.mgmt MGMT.MBX_STAT.DONE = 0 ∧
           OnlyRegs [(Page.mgmt, 0x48), (Page.mgmt, 0x4C)] s t) ∧
         (s.mbxServes e.2 = true → s.mbxNoop e.2 len.toNat = true → t.mgmt.running = none ∧
           t.get Page.mgmt MGMT.MBX_STAT.BUSY = 0 ∧ t.get Page.mgmt MGMT.MBX_STAT.DONE = 1 ∧
           t.get Page.mgmt MGMT.MBX_STAT.STATUS = Mbx.noop ∧ t.get Page.mgmt MGMT.MBX_STAT.TAG = tag.toNat ∧
           t.get Page.mgmt MGMT.MBX_STAT.RLEN = 0 ∧ Raised Page.mgmt 0 s t ∧
           OnlyRegs [(Page.mgmt, 0x48), (Page.mgmt, 0x4C), (Page.mgmt, 0x10)] s t)) ∧
       Only [.fld, .mgmt] s t) ∧
  ((∀ (s : State) (ok : Bool) (op len : Nat), s.mgmtLive = true → s.mgmt.running = some (op, len) →
     ∃ t, exec (.mbxCommandEnd ok) s = .next t ∧
       (¬ (op = 0x15 ∧ s.imageValid (s.mbxByte 0 == 1) = true ∧ s.mbxServes op = true ∧
           s.mbxArgsOk op len = true) →
         t.get Page.mgmt MGMT.MBX_STAT.BUSY = 0 ∧ t.get Page.mgmt MGMT.MBX_STAT.DONE = 1 ∧
         t.get Page.mgmt MGMT.MBX_STAT.TAG = s.get Page.mgmt MGMT.MBX_CMD.TAG % 256 ∧ t.mgmt.running = none ∧
         Raised Page.mgmt 0 s t) ∧
       (s.mbxServes op = false → t.get Page.mgmt MGMT.MBX_STAT.STATUS = Mbx.badOpcode ∧
         t.get Page.mgmt MGMT.MBX_STAT.RLEN = 0 ∧ t.mgmt.flash = s.mgmt.flash) ∧
       (s.mbxServes op = true → s.mbxArgsOk op len = false →
         t.get Page.mgmt MGMT.MBX_STAT.STATUS = Mbx.badArg ∧ t.mgmt.flash = s.mgmt.flash) ∧
       (s.mbxServes op = true → s.mbxArgsOk op len = true →
         (op = 0x01 → t.get Page.mgmt MGMT.MBX_STAT.STATUS = Mbx.ok ∧ t.get Page.mgmt MGMT.MBX_STAT.RLEN = 16 ∧
           (∀ i (hi : i < 4), t.get Page.mgmt (MGMT.MBX_DATA.DATA i) =
             [Config.imageVersion (s.imageHeader false), Config.imageVersion (s.imageHeader true),
               Config.securityVersion (s.imageHeader s.runSlot), s.mgmt.rollback][i] % 2 ^ 32)) ∧
         (op = 0x02 → t.get Page.mgmt MGMT.MBX_STAT.STATUS = Mbx.ok ∧ t.get Page.mgmt MGMT.MBX_STAT.RLEN = 16 ∧
           ∀ i, i < 16 → t.mbxByte i = (Config.uid i).toNat) ∧
         (op = 0x10 → ok = true → t.get Page.mgmt MGMT.MBX_STAT.RLEN = s.mbxByte 4 ∧
           ∀ i, i < s.mbxByte 4 → t.mbxByte i = (s.flashByte (s.mbxLE 0 4 + i)).toNat) ∧
         (op = 0x11 ∨ op = 0x12 → s.flashGuarded (s.mbxLE 0 4) (s.flashJob op len).length = true →
           t.get Page.mgmt MGMT.MBX_STAT.STATUS = Mbx.protected_ ∧ t.mgmt.flash = s.mgmt.flash) ∧
         (op = 0x12 → ok = true → s.flashGuarded (s.mbxLE 0 4) 0x10000 = false →
           (∀ i, i < 0x10000 → t.flashByte (s.mbxLE 0 4 + i) = 0xFF) ∧
           ∀ a, (a < s.mbxLE 0 4 ∨ s.mbxLE 0 4 + 0x10000 ≤ a) → t.flashByte a = s.flashByte a) ∧
         (op = 0x13 → t.get Page.mgmt MGMT.MBX_STAT.STATUS = Mbx.ok ∧
           t.get Page.mgmt MGMT.MBX_STAT.RLEN = 1 ∧
           t.mbxByte 0 = (if s.imageValid (s.mbxByte 0 == 1) then 0 else 1) ∧
           t.flag Page.mgmt (if s.mbxByte 0 = 1 then MGMT.BOOT_STAT.B_VALID else MGMT.BOOT_STAT.A_VALID) =
             s.imageValid (s.mbxByte 0 == 1)) ∧
         (op = 0x14 → ok = true → t.mgmt.prefB = decide (s.mbxByte 0 = 1)) ∧
         (op = 0x15 → s.imageValid (s.mbxByte 0 == 1) = true → t.mgmt.restart = true ∧
           t.mgmt.toSlot = some (decide (s.mbxByte 0 = 1)) ∧ t.get Page.mgmt MGMT.MBX_STAT.BUSY = 1) ∧
         (op = 0x15 → s.imageValid (s.mbxByte 0 == 1) = false →
           t.get Page.mgmt MGMT.MBX_STAT.STATUS = Mbx.authFail ∧ t.mgmt.restart = false) ∧
         (op = 0x20 → t.get Page.mgmt MGMT.MBX_STAT.RLEN = 18) ∧
         (op = 0x21 → t.get Page.pwr (PWR.THERM_LEVEL.LEVEL 1) = s.mbxLE 0 2 ∧
           t.get Page.pwr (PWR.THERM_LEVEL.LEVEL 2) = s.mbxLE 2 2) ∧
         (op = 0x30 → t.get Page.mgmt MGMT.MBX_STAT.RLEN = 32 ∧
           ∃ n, t.mgmt.nonce = some (s.mbxByte 0, n) ∧ n.length = 32) ∧
         (op = 0x31 → (∀ k n lvl, s.mgmt.key = some k → s.mgmt.nonce = some (lvl, n) →
             Config.debugVerifies k n ((List.range 16).map Config.uid) lvl
               ((List.range 64).map (fun i => BitVec.ofNat 8 (s.mbxByte i))) = false) →
           t.get Page.mgmt MGMT.MBX_STAT.STATUS = Mbx.authFail ∧ t.mgmt.nonce = none ∧
           t.get Page.dev DEV.DBG_STAT.LEVEL = s.get Page.dev DEV.DBG_STAT.LEVEL) ∧
         (∀ k n lvl, op = 0x31 → s.mgmt.key = some k → s.mgmt.nonce = some (lvl, n) →
           Config.debugVerifies k n ((List.range 16).map Config.uid) lvl
             ((List.range 64).map (fun i => BitVec.ofNat 8 (s.mbxByte i))) = true → lvl ≤ 3 →
           s.get Page.dev DEV.DBG_STAT.LEVEL ≤ 3 → t.get Page.mgmt MGMT.MBX_STAT.STATUS = Mbx.ok ∧
           t.mgmt.nonce = none ∧
           t.get Page.dev DEV.DBG_STAT.LEVEL = Nat.max (s.get Page.dev DEV.DBG_STAT.LEVEL) lvl) ∧
         (op = 0x32 → s.mgmt.key = none → ∃ k, t.mgmt.key = some k ∧ k.length = 64 ∧
           t.flag Page.dev DEV.DBG_STAT.KEY_SET = true) ∧
         (op = 0x32 → s.mgmt.key ≠ none → t.get Page.mgmt MGMT.MBX_STAT.STATUS = Mbx.otpUsed ∧
           t.mgmt.key = s.mgmt.key) ∧
         (op = 0x33 → t.mgmt.rollback = Nat.max s.mgmt.rollback (s.mbxByte 0) ∧
           t.get Page.mgmt MGMT.MBX_STAT.STATUS =
             (if s.mbxByte 0 < s.mgmt.rollback then Mbx.otpUsed else Mbx.ok))) ∧
       Only [.fld, .freeCtr, .mgmt, .retries] s t)) ∧
  ((∀ s : State, s.inReset = false → s.bootMode ≠ 0 → ∃ t, exec .watchdogRestart s = .next t ∧
       t.mgmt.restart = true ∧ t.mgmt.toSlot = s.mgmt.toSlot ∧ t.mgmt.running = s.mgmt.running ∧
       t.get Page.mgmt MGMT.MBX_STAT.BUSY = 1 ∧
       t.get Page.mgmt MGMT.BOOT_STAT.WDOG_COUNT = Nat.min (s.get Page.mgmt MGMT.BOOT_STAT.WDOG_COUNT + 1) 255 ∧
       Raised Page.mgmt 1 s t ∧
       (∀ (p : Nat) (f : Fld), f.off < 0x1000 → f.lo < 32 → p ≠ Page.busm →
         (p, f.off) ∉ [(Page.mgmt, 0x40), (Page.mgmt, 0x4C), (Page.mgmt, 0x10)] → t.get p f = s.get p f) ∧
       Only [.fld, .mgmt, .retries] s t) ∧
   (∀ s : State, s.inReset = false → s.mgmt.restart = true → ∃ t, exec .controllerRestartDone s = .next t ∧
       t.mgmt.restart = false ∧ t.get Page.mgmt MGMT.MBX_STAT.BUSY = 0 ∧
       (∀ b, s.mgmt.toSlot = some b → t.runSlot = b ∧ t.get Page.mgmt MGMT.MBX_STAT.STATUS = Mbx.ok ∧
         t.get Page.mgmt MGMT.MBX_STAT.DONE = 1 ∧ t.mgmt.flash = s.mgmt.flash ∧ t.mgmt.running = none) ∧
       (∀ x, s.mgmt.toSlot = none → s.mgmt.running = some x → t.mgmt.running = none ∧
         t.get Page.mgmt MGMT.MBX_STAT.STATUS = Mbx.interrupted ∧ t.get Page.mgmt MGMT.MBX_STAT.DONE = 1 ∧
         (∀ a, a < 0x10000 → t.flashByte a = s.flashByte a)) ∧
       (s.mgmt.toSlot = none → s.mgmt.running = none → OnlyRegs [(Page.mgmt, 0x4C)] s t) ∧
       Only [.fld, .freeCtr, .mgmt] s t))

/-- GPIO_SET, GPIO_CLR, GPIO_EDGE (R65): a set or a clear changes in GPIO_OUT only the bits written with 1;
an edge at a pin changes its bit of GPIO_IN and raises the pin's interrupt bit where the edge selection asks
for it. I2C_GO, I2C_TRANSACTION_END, STRETCH_TMO (R66, R67, R68, R429): I2CM0 refuses a GO; on I2CM1 a GO
while BUSY is REFUSED, one with a length above 32 is ignored whole with RANGE (log entry 62), both lengths 0
end at once with NOOP, any other sets BUSY; the end sends STOP, writes RESULT, WR_DONE and RD_DONE, takes
the bytes read (all RLEN of them under OK, those that the operand does not give being free values) and
raises DONE or ERR. EXTEST (R70): while it is in effect boundary scan drives the pins it names; its end
gives every pin back (that a pin it does not name is low is log entry 105). -/
def Obligations.PinsAndTwoWireMasters : Prop :=
  ((∀ (s : State) (v : Word), s.Takes Page.gpio →
     (∃ t, exec (.gpioSet v) s = .next t ∧ (∀ i, i < 32 → (t.get Page.gpio GPIO.GPIO_OUT.OUT).testBit i =
         ((s.get Page.gpio GPIO.GPIO_OUT.OUT).testBit i || v.getLsbD i)) ∧
       OnlyRegs [(Page.gpio, 0x44)] s t ∧ Only [.fld] s t) ∧
     (∃ t, exec (.gpioClr v) s = .next t ∧ (∀ i, i < 32 → (t.get Page.gpio GPIO.GPIO_OUT.OUT).testBit i =
         ((s.get Page.gpio GPIO.GPIO_OUT.OUT).testBit i && !v.getLsbD i)) ∧
       OnlyRegs [(Page.gpio, 0x44)] s t ∧ Only [.fld] s t)) ∧
   (∀ (s : State) (pin : Nat) (level : Bool), s.inReset = false → pin < 32 →
     (s.get Page.gpio GPIO.GPIO_IN.IN).testBit pin = !level → ∃ t, exec (.gpioEdge pin level) s = .next t ∧
       (∀ i, i < 32 → (t.get Page.gpio GPIO.GPIO_IN.IN).testBit i =
         if i = pin then level else (s.get Page.gpio GPIO.GPIO_IN.IN).testBit i) ∧
       (edgeSelected (s.irqMode pin) level = true → Raised Page.gpio pin s t ∧
         OnlyRegs [(Page.gpio, 0x50), (Page.gpio, 0x10)] s t) ∧
       (edgeSelected (s.irqMode pin) level = false → OnlyRegs [(Page.gpio, 0x50)] s t) ∧ Only [.fld] s t)) ∧
  ((∀ (s : State) (cmd : Word), s.Takes (Page.i2cm 0) → ∃ t, exec (.i2cGo 0 cmd) s = .next t ∧
       Logged (Page.i2cm 0) Code.refused s t) ∧
   (∀ (s : State) (cmd : Word), s.Takes (Page.i2cm 1) → s.i2cBusy 1 = true →
     ∃ t, exec (.i2cGo 1 cmd) s = .next t ∧ Logged (Page.i2cm 1) Code.refused s t) ∧
   (∀ (s : State) (cmd : Word), s.Takes (Page.i2cm 1) → s.i2cBusy 1 = false →
     (32 < bits cmd.toNat 8 6 ∨ 32 < bits cmd.toNat 16 6) →
     ∃ t, exec (.i2cGo 1 cmd) s = .next t ∧ Logged (Page.i2cm 1) Code.range s t) ∧
   (∀ (s : State) (cmd : Word), s.Takes (Page.i2cm 1) → s.i2cBusy 1 = false → bits cmd.toNat 8 6 ≤ 32 →
     bits cmd.toNat 16 6 ≤ 32 → ∃ t, exec (.i2cGo 1 cmd) s = .next t ∧
       let wl := bits cmd.toNat 8 6
       let rl := bits cmd.toNat 16 6
       t.get (Page.i2cm 1) I2CM.I2C_CMD.ADDR = cmd.toNat % 128 ∧ t.get (Page.i2cm 1) I2CM.I2C_CMD.WLEN = wl ∧
       t.get (Page.i2cm 1) I2CM.I2C_CMD.RLEN = rl ∧
       (wl = 0 → rl = 0 → t.i2cBusy 1 = false ∧ t.get (Page.i2cm 1) I2CM.I2C_STAT.RESULT = 1 ∧
         Raised (Page.i2cm 1) 0 s t) ∧
       (wl + rl ≠ 0 → t.i2cBusy 1 = true ∧ OnlyRegs [(Page.i2cm 1, 0x44), (Page.i2cm 1, 0x48)] s t) ∧
       Only [.fld] s t) ∧
   (∀ (s : State) (m : Nat) (result : I2cResult) (wrDone : Nat) (rdata : List Byte), s.inReset = false → m < 2 →
     s.i2cBusy m = true → s.get (Page.i2cm m) I2CM.I2C_CMD.WLEN ≤ 32 → s.get (Page.i2cm m) I2CM.I2C_CMD.RLEN ≤ 32 →
     (result = .dataNack → s.get (Page.i2cm m) I2CM.I2C_CMD.WLEN ≠ 0) → ∃ t, exec (.i2cTransactionEnd m result wrDone rdata) s = .next t ∧ t.i2cBusy m = false ∧
       t.get (Page.i2cm m) I2CM.I2C_STAT.RESULT = i2cCode result ∧ (Tab.get [] t.pins.i2c m).getLast? = some .stop ∧
       (result = .busStuck → .pulses ∈ Tab.get [] t.pins.i2c m) ∧
       (result = .ok → t.get (Page.i2cm m) I2CM.I2C_STAT.WR_DONE = s.get (Page.i2cm m) I2CM.I2C_CMD.WLEN ∧
         t.get (Page.i2cm m) I2CM.I2C_STAT.RD_DONE = s.get (Page.i2cm m) I2CM.I2C_CMD.RLEN ∧
         (∀ i, (h : i < rdata.length) → i < s.get (Page.i2cm m) I2CM.I2C_CMD.RLEN →
           t.get (Page.i2cm m) (I2CM.I2C_RXDATA.BYTE (i / 4) (i % 4)) = rdata[i].toNat) ∧
         Raised (Page.i2cm m) 0 s t) ∧
       (result ≠ .ok → t.get (Page.i2cm m) I2CM.I2C_STAT.WR_DONE =
           (if result = .dataNack then Nat.min wrDone (s.get (Page.i2cm m) I2CM.I2C_CMD.WLEN - 1)
             else if wrDone < s.get (Page.i2cm m) I2CM.I2C_CMD.WLEN ∨ s.get (Page.i2cm m) I2CM.I2C_CMD.RLEN = 0 then 0
             else s.get (Page.i2cm m) I2CM.I2C_CMD.WLEN) ∧
         t.get (Page.i2cm m) I2CM.I2C_STAT.RD_DONE = 0 ∧ Raised (Page.i2cm m) 1 s t ∧
         OnlyRegs [(Page.i2cm m, 0x48), (Page.i2cm m, 0x10)] s t) ∧
       Only (if result = .ok ∧ rdata.length < s.get (Page.i2cm m) I2CM.I2C_CMD.RLEN
         then [.fld, .pins, .freeCtr] else [.fld, .pins]) s t) ∧
   (∀ (s : State) (m wrDone : Nat) (rdata : List Byte), s.inReset = false → m < 2 → s.i2cBusy m = true →
     s.get (Page.i2cm m) I2CM.I2C_CMD.RLEN ≤ 32 →
     ∃ t, exec (.stretchTmo m wrDone rdata) s = .next t ∧ t.i2cBusy m = false ∧
       t.get (Page.i2cm m) I2CM.I2C_STAT.RESULT = 4 ∧
       t.get (Page.i2cm m) I2CM.I2C_STAT.RD_DONE = (if wrDone < s.get (Page.i2cm m) I2CM.I2C_CMD.WLEN then 0
         else Nat.min rdata.length (s.get (Page.i2cm m) I2CM.I2C_CMD.RLEN)) ∧
       Raised (Page.i2cm m) 1 s t ∧ Only [.fld, .pins] s t)) ∧
  (∀ (s : State) (on : Bool) (drive : List PinLevel), ∃ t, exec (.extest on drive) s = .next t ∧
     t.pins.extest = on ∧
     (on = false → ∀ p, t.pinLevel p = t.pinFunction p) ∧
     (on = true → (drive.map (·.pin)).Nodup → ∀ d ∈ drive, t.pinLevel d.pin = .level d.level) ∧
     (on = true → ∀ p, p ∉ drive.map (·.pin) → t.pinLevel p = .level false) ∧ Only [.pins] s t)

/-- The 32-bit operations of the MAC slots (R97, R99, R105, R165): in slot 0 or 1 each sends its result to
DD with latency 1; ADDS, SUBS, ABS and NEG limit it to 32 bits, which sets SR.SAT. NOP, CMP, CMPI, PLOG and
the address-register operations in their slots (R97, R163, R165): predicates, A registers and RDA's register
are sent with latency 1; NOP sends nothing. -/
def Obligations.IntegerOperations : Prop :=
  (∀ (s : State) (at_ : Issue) (c : Core) (dd da db : BitVec 6) (n : BitVec 5) (imm12 : BitVec 12)
     (imm18 : BitVec 18) (imm16 : BitVec 16), at_.slot < 2 → s.Acts at_ c →
     let x := c.readD da.toNat
     let y := c.readD db.toNat
     let gives := fun (i : Instr) (v : Word) (evs : List Ev) => ∃ t, exec i s = .next t ∧
       Issued at_.core at_.slot (c.sendD at_.slot 1 dd.toNat v) evs s t
     let limited := fun (z : Int) => (Word.ofInt (if z > 2 ^ 31 - 1 then 2 ^ 31 - 1 else if z < -2 ^ 31 then -2 ^ 31 else z),
       if z > 2 ^ 31 - 1 ∨ z < -2 ^ 31 then [Ev.sat] else [])
     gives (.add at_ dd da db) (x + y) [] ∧ gives (.sub at_ dd da db) (x - y) [] ∧
     gives (.adds at_ dd da db) (limited (x.toInt + y.toInt)).1 (limited (x.toInt + y.toInt)).2 ∧
     gives (.subs at_ dd da db) (limited (x.toInt - y.toInt)).1 (limited (x.toInt - y.toInt)).2 ∧
     gives (.and at_ dd da db) (x &&& y) [] ∧ gives (.or at_ dd da db) (x ||| y) [] ∧
     gives (.xor at_ dd da db) (x ^^^ y) [] ∧ gives (.shli at_ dd da n) (x <<< n.toNat) [] ∧
     gives (.shri at_ dd da n) (x >>> n.toNat) [] ∧ gives (.srai at_ dd da n) (x.sshiftRight n.toNat) [] ∧
     gives (.addi at_ dd da imm12) (x + imm12.signExtend 32) [] ∧ gives (.mov at_ dd da) x [] ∧
     gives (.movi at_ dd imm18) (imm18.signExtend 32) [] ∧
     gives (.movhi at_ dd imm16) (imm16 ++ (c.readD dd.toNat).setWidth 16) [] ∧
     gives (.abs at_ dd da) (limited x.toInt.natAbs).1 (limited x.toInt.natAbs).2 ∧
     gives (.neg at_ dd da) (limited (-x.toInt)).1 (limited (-x.toInt)).2 ∧
     gives (.min at_ dd da db) (if x.toInt ≤ y.toInt then x else y) [] ∧
     gives (.max at_ dd da db) (if x.toInt ≤ y.toInt then y else x) []) ∧
  (∀ (s : State) (at_ : Issue) (c : Core) (k : Cond) (pd pa pb : BitVec 3) (da db : BitVec 6) (imm12 : BitVec 12)
     (tt : BitVec 4) (an am : BitVec 4) (imm17 : BitVec 17) (imm16 : BitVec 16) (dd : BitVec 6), s.Acts at_ c →
     let gives := fun (i : Instr) (d : Dest) => ∃ t, exec i s = .next t ∧
       Issued at_.core at_.slot (c.send at_.slot 1 d) [] s t
     (∃ t, exec (.nop at_) s = .next t ∧ Issued at_.core at_.slot c [] s t) ∧
     (at_.slot < 2 →
       gives (.cmp at_ pd k da db) (.p pd.toNat (condHolds k (c.readD da.toNat) (c.readD db.toNat))) ∧
       gives (.cmpi at_ pd k da imm12) (.p pd.toNat (condHolds k (c.readD da.toNat) (imm12.signExtend 32)))) ∧
     (at_.slot = 3 → gives (.plog at_ pd pa pb tt) (.p pd.toNat (tt.getLsbD
       ((if c.readP pa.toNat then 2 else 0) + (if c.readP pb.toNat then 1 else 0))))) ∧
     (2 ≤ at_.slot →
       gives (.aaddi at_ an imm17) (.a an.toNat (c.readA an.toNat + imm17.signExtend 32)) ∧
       gives (.aadd at_ an am) (.a an.toNat (c.readA an.toNat + c.readA am.toNat)) ∧
       gives (.amovi at_ an imm17) (.a an.toNat (imm17.signExtend 32)) ∧
       gives (.amovhi at_ an imm16) (.a an.toNat (imm16 ++ (c.readA an.toNat).setWidth 16)) ∧
       gives (.amov at_ an da) (.a an.toNat (c.readD da.toNat)) ∧
       ∃ t, exec (.rda at_ dd an) s = .next t ∧
         Issued at_.core at_.slot (c.sendD at_.slot 1 dd.toNat (c.readA an.toNat)) [] s t))

/-- MAC, MSU, MOVA (R113 to R116, R165, R173): the addend initialises the accumulator or is added to it
exactly modulo 2^72 with the excursion counted in XC; XC beyond ±3 sets XLOST; DUAL with register 63, a MOVA
shift above 40 and a pair of MAC slots that R172 excludes are reserved encodings. EXT, EXTD (R117, R118,
R119): an accumulator with an excursion gives the limit of its sign and XOV; otherwise the value shifted,
rounded and limited; the results have latency 2; an odd DD of EXTD is a reserved encoding. DIVS, DIVQ (R121,
R122): a step doubles the remainder and adds or subtracts the divisor by their signs, the quotient bit goes
in from the right; the end of a division corrects the quotient and the remainder so that the remainder is 0
or has the sign of the dividend; a divisor of 0 and a dividend not below it saturate. A pair of MAC slots
that R172 excludes is reserved. -/
def Obligations.AccumulatorsAndDivisionSteps : Prop :=
  (∀ (s : State) (at_ : Issue) (c : Core), at_.slot < 2 → s.Acts at_ c →
     (∀ (a : MacArgs) (neg : Bool), dualReserved a = false → s.pairBad at_.core c = false →
       let p := (c.readD a.da.toNat).toInt * (c.readD a.db.toNat).toInt +
         (if a.dual then (c.readD (a.da.toNat + 1)).toInt * (c.readD (a.db.toNat + 1)).toInt else 0)
       let z := (if neg then -1 else 1) * (p * 2 ^ a.psh.toNat)
       let old := c.accFwd a.acc.toNat
       let sum := old.v.toInt + z
       let xc := if sum ≥ 2 ^ 71 then old.xc + 1 else if sum < -2 ^ 71 then old.xc - 1 else old.xc
       ∃ t, exec (if neg then .msu at_ a else .mac at_ a) s = .next t ∧
         (a.clr = true → Issued at_.core at_.slot (c.sendAcc at_.slot a.acc.toNat ⟨BitVec.ofInt 72 z, 0, false⟩) [] s t) ∧
         (a.clr = false → old.lost = true → Issued at_.core at_.slot
           (c.sendAcc at_.slot a.acc.toNat ⟨BitVec.ofInt 72 sum, old.xc, true⟩) [] s t) ∧
         (a.clr = false → old.lost = false → -3 ≤ xc → xc ≤ 3 → Issued at_.core at_.slot
           (c.sendAcc at_.slot a.acc.toNat ⟨BitVec.ofInt 72 sum, xc, false⟩) [] s t) ∧
         (a.clr = false → old.lost = false → 3 < xc → Issued at_.core at_.slot
           (c.sendAcc at_.slot a.acc.toNat ⟨BitVec.ofInt 72 sum, 3, true⟩) [.xlost] s t) ∧
         (a.clr = false → old.lost = false → xc < -3 → Issued at_.core at_.slot
           (c.sendAcc at_.slot a.acc.toNat ⟨BitVec.ofInt 72 sum, -3, true⟩) [.xlost] s t)) ∧
     (∀ (acc : BitVec 3) (dx sh : BitVec 6), sh.toNat ≤ 40 → s.pairBad at_.core c = false → ∃ t, exec (.mova at_ acc dx sh) s = .next t ∧
       Issued at_.core at_.slot (c.sendAcc at_.slot acc.toNat
         ⟨BitVec.ofInt 72 ((c.readD dx.toNat).toInt * 2 ^ sh.toNat), 0, false⟩) [] s t) ∧
     (∀ a : MacArgs, dualReserved a = true ∨ s.pairBad at_.core c = true → ∃ t u, exec (.mac at_ a) s = .next t ∧
       IsIllegal at_.core at_.slot c s t ∧ exec (.msu at_ a) s = .next u ∧ IsIllegal at_.core at_.slot c s u) ∧
     (∀ (acc : BitVec 3) (dx sh : BitVec 6), 40 < sh.toNat ∨ s.pairBad at_.core c = true → ∃ t, exec (.mova at_ acc dx sh) s = .next t ∧
       IsIllegal at_.core at_.slot c s t)) ∧
  (∀ (s : State) (at_ : Issue) (c : Core) (dd : BitVec 6) (acc : BitVec 3) (sh : BitVec 5), at_.slot < 2 → s.Acts at_ c →
     let a := c.accOld acc.toNat
     let q := roundShift (c.rnd.getLsbD 0) a.v.toInt sh.toNat
     (∃ t, exec (.ext at_ dd acc sh) s = .next t ∧ ∃ v evs,
       Issued at_.core at_.slot (c.sendD at_.slot 2 dd.toNat (Word.ofInt v)) evs s t ∧
       (a.xc > 0 → v = 2 ^ 31 - 1 ∧ evs = [.xov]) ∧ (a.xc < 0 → v = -2 ^ 31 ∧ evs = [.xov]) ∧
       (a.xc = 0 → q > 2 ^ 31 - 1 → v = 2 ^ 31 - 1 ∧ evs = [.sat]) ∧
       (a.xc = 0 → q < -2 ^ 31 → v = -2 ^ 31 ∧ evs = [.sat]) ∧
       (a.xc = 0 → -2 ^ 31 ≤ q → q ≤ 2 ^ 31 - 1 → v = q ∧ evs = [])) ∧
     (dd.getLsbD 0 = false → ∃ t, exec (.extd at_ dd acc sh) s = .next t ∧ ∃ v evs,
       Issued at_.core at_.slot ((c.sendD at_.slot 2 dd.toNat ((BitVec.ofInt 64 v).setWidth 32)).sendD at_.slot 2
         (dd.toNat + 1) ((BitVec.ofInt 64 v >>> 32).setWidth 32)) evs s t ∧
       (a.xc > 0 → v = 2 ^ 63 - 1 ∧ evs = [.xov]) ∧ (a.xc < 0 → v = -2 ^ 63 ∧ evs = [.xov]) ∧
       (a.xc = 0 → q > 2 ^ 63 - 1 → v = 2 ^ 63 - 1 ∧ evs = [.sat]) ∧
       (a.xc = 0 → q < -2 ^ 63 → v = -2 ^ 63 ∧ evs = [.sat]) ∧
       (a.xc = 0 → -2 ^ 63 ≤ q → q ≤ 2 ^ 63 - 1 → v = q ∧ evs = [])) ∧
     (dd.getLsbD 0 = true → ∃ t, exec (.extd at_ dd acc sh) s = .next t ∧ IsIllegal at_.core at_.slot c s t)) ∧
  ((∀ (s : State) (at_ : Issue) (c : Core) (acc : BitVec 3) (dq dy : BitVec 6), at_.slot < 2 → s.Acts at_ c →
     s.pairBad at_.core c = false →
     let old := c.accFwd acc.toNat
     let r := old.v.toInt
     let y := (c.readD dy.toNat).toInt
     let same := decide (0 ≤ r) == decide (0 ≤ y)
     let q := (c.readQuo dq.toNat <<< 1) ||| (if same then 1 else 0)
     ∃ t, exec (.divs at_ acc dq dy) s = .next t ∧ Issued at_.core at_.slot ((c.sendAcc at_.slot acc.toNat
       ⟨BitVec.ofInt 72 (if same then 2 * r - y else 2 * r + y), old.xc, old.lost⟩).sendQuo at_.slot
       (physD c.rrb dq.toNat) q) [] s t) ∧
   (∀ (s : State) (at_ : Issue) (c : Core) (acc : BitVec 3) (dq dx dy : BitVec 6), at_.slot < 2 → s.Acts at_ c →
     s.pairBad at_.core c = true → ∃ t u, exec (.divs at_ acc dq dy) s = .next t ∧
       IsIllegal at_.core at_.slot c s t ∧ exec (.divq at_ acc dq dx dy) s = .next u ∧
       IsIllegal at_.core at_.slot c s u) ∧
   (∀ (s : State) (at_ : Issue) (c : Core) (acc : BitVec 3) (dq dx dy : BitVec 6), at_.slot < 2 → s.Acts at_ c →
     s.pairBad at_.core c = false →
     let x := (c.readD dx.toNat).toInt
     let y := (c.readD dy.toNat).toInt
     let old := c.accFwd acc.toNat
     ∃ t, exec (.divq at_ acc dq dx dy) s = .next t ∧
       (y = 0 → Issued at_.core at_.slot (c.sendD at_.slot 4 dq.toNat (if x < 0 then 0x80000000 else 0x7FFFFFFF))
         [.satCountOnlyDz] s t) ∧
       (y ≠ 0 → y.natAbs ≤ x.natAbs → Issued at_.core at_.slot (c.sendD at_.slot 4 dq.toNat
         (if decide (x < 0) = decide (y < 0) then 0x7FFFFFFF else 0x80000000)) [.sat] s t) ∧
       (y ≠ 0 → x.natAbs < y.natAbs → ∃ (q r : Int),
         Issued at_.core at_.slot (Core.sendD (c.sendAcc at_.slot acc.toNat ⟨BitVec.ofInt 72 r, old.xc, old.lost⟩)
           at_.slot 4 dq.toNat (Word.ofInt q)) [] s t ∧
         q * y + r = (2 * ((c.readQuo dq.toNat).toNat % 2 ^ 31 : Int) - (2 ^ 31 - 1)) * y + old.v.toInt ∧
         (old.v.toInt.natAbs ≤ y.natAbs → r = 0 ∨ (r < 0 ↔ x < 0) ∧ r.natAbs < y.natAbs))))

/-- MUL (R120): the 64-bit product is shifted right by 31, rounded under R118 and saturated; the only
operands that saturate are two times 0x8000_0000, which give 0x7FFF_FFFF and set SR.SAT. -/
def Obligations.MulSaturatesOnOnePairOnly : Prop :=
  ∀ (s : State) (at_ : Issue) (c : Core) (dd da db : BitVec 6), at_.slot < 2 → s.Acts at_ c →
    let x := c.readD da.toNat
    let y := c.readD db.toNat
    (¬ (x = 0x80000000 ∧ y = 0x80000000) → ∃ t, exec (.mul at_ dd da db) s = .next t ∧
      Issued at_.core at_.slot (c.sendD at_.slot 4 dd.toNat (Word.ofInt
        (roundShift (c.rnd.getLsbD 0) (x.toInt * y.toInt) 31))) [] s t ∧
      -2 ^ 31 ≤ roundShift (c.rnd.getLsbD 0) (x.toInt * y.toInt) 31 ∧
      roundShift (c.rnd.getLsbD 0) (x.toInt * y.toInt) 31 < 2 ^ 31) ∧
    (x = 0x80000000 → y = 0x80000000 → ∃ t, exec (.mul at_ dd da db) s = .next t ∧
      Issued at_.core at_.slot (c.sendD at_.slot 4 dd.toNat 0x7FFFFFFF) [.sat] s t)

/-- A DIVS chain divides (R121, R122): 31 steps on a dividend below its divisor, ended by DIVQ, give the
quotient in Q1.31 rounded toward zero and the remainder. -/
def Obligations.DivisionChainDivides : Prop :=
  ∀ x y : Word, y.toInt ≠ 0 → x.toInt.natAbs < y.toInt.natAbs → ∀ q0 : Word,
    let run := (List.range 31).foldl (fun (e : Acc72 × Word) _ =>
      ((divStep e.1 y).1, (e.2 <<< 1) ||| (if (divStep e.1 y).2 then (1 : Word) else 0)))
      (BitVec.ofInt 72 x.toInt, q0)
    let r := divFinish run.1 run.2 x y
    r.1 = Word.ofInt ((x.toInt * 2 ^ 31).tdiv y.toInt) ∧
      r.2.1 = some (BitVec.ofInt 72 ((x.toInt * 2 ^ 31).tmod y.toInt)) ∧ r.2.2 = []

/-- LD, LDA (R105, R109, R134, R137, R166, R167): a load takes the aligned words at its effective address to
DR, DR + 1, … (LDA: to An) with latency 4, a post-modify mode writes the base register with latency 1, an
exchange access stalls 8 cycles, a misaligned address sets SR.ALIGN; a DR that is no multiple of the width
is reserved. -/
def Obligations.LoadsTakeAlignedWords : Prop :=
  ∀ (s : State) (at_ : Issue) (c : Core) (wd : AWidth) (dr : BitVec 6) (ar an : BitVec 4) (mode : AMode), at_.slot = 2 → s.Acts at_ c →
    let n := at_.core
    let flow := fun (w : Nat) (e : Word × Option Word) (dst : Nat → Dest) (i : Instr) =>
      let a := BitVec.ofNat 32 (e.1.toNat - e.1.toNat % w)
      (∀ j, j < w / 4 → s.eccAt (coreMemAddr n (a + BitVec.ofNat 32 (4 * j))) = none) →
      let c1 := (List.range (w / 4)).foldl (fun (k : Core) j => k.send 2 4 (dst j)) c
      let c2 := match e.2 with | some v => c1.send 2 1 (.a an.toNat v) | none => c1
      ∃ t, exec i s = .next t ∧ Issued n 2 (c2.tick (if isExchange a then 8 else 0))
        (if e.1.toNat % w = 0 then [] else [.align]) s t
    let word := fun (w : Nat) (e : Word × Option Word) (j : Nat) =>
      s.coreWord n (c.clk + 8) (BitVec.ofNat 32 (e.1.toNat - e.1.toNat % w) + BitVec.ofNat 32 (4 * j))
    (dr.toNat % (widthBytes wd / 4) = 0 → let e := c.address (widthBytes wd) an.toNat mode;
      flow (widthBytes wd) e (fun j => .d (physD c.rrb (dr.toNat + j)) (word (widthBytes wd) e j))
        (.ld at_ wd dr an mode)) ∧
    (let e := c.address 4 an.toNat mode;
      flow 4 e (fun j => .a ar.toNat (word 4 e j)) (.lda at_ ar an mode)) ∧
    (dr.toNat % (widthBytes wd / 4) ≠ 0 → ∃ t u, exec (.ld at_ wd dr an mode) s = .next t ∧ IsIllegal n 2 c s t ∧
      exec (.st at_ wd dr an mode) s = .next u ∧ IsIllegal n 2 c s u) ∧
    (∀ a : Word, isExchange a = false → a.toNat % 4 = 0 → s.eccAt (coreMemAddr n a) = none →
      s.coreWord n (c.clk + 8) a = s.word (coreMemAddr n a))

/-- ST, STA (R109, R134, R137, R158, R166, R167): a store writes the bytes of DR, DR + 1, … (STA: of An) at
its aligned effective address in the core's data memory or in the exchange memory, and into a spare that
mirrors the cluster; every other byte is as before. The paired form (R106, R110, R111, R166): both accesses
take their addresses at RR and the loads see memory as it was; access 1 is the later store; a bank conflict
costs one cycle and shows in STALL_COUNT; a reserved register field of either access is a reserved encoding.
-/
def Obligations.StoresAndPairedAccesses : Prop :=
  (∀ (s : State) (at_ : Issue) (c : Core) (wd : AWidth) (dr : BitVec 6) (ar an : BitVec 4) (mode : AMode), at_.slot = 2 → s.Acts at_ c →
     let n := at_.core
     let flow := fun (w : Nat) (e : Word × Option Word) (src : Nat → Word) (i : Instr) =>
       let a := BitVec.ofNat 32 (e.1.toNat - e.1.toNat % w)
       let base := coreMemAddr n a
       let c2 := match e.2 with | some v => c.send 2 1 (.a an.toNat v) | none => c
       ∃ t, exec i s = .next t ∧
         CoreIs n ((c2.tick (if isExchange a then 8 else 0)).sendFlags 2
           (if e.1.toNat % w = 0 then [] else [.align])) s t ∧
         (isExchange a = false ∨ s.xmNow (n / 8) (c.clk + 8) = [] → ∀ i, i < w →
           t.byte (base + i) = BitVec.ofNat 8 ((src (i / 4)).toNat / 256 ^ (i % 4))) ∧
         (∀ x, (x < base ∨ base + w ≤ x) → (∀ k, s.memMirror (n / 8) = some k →
           (x < mirrorAddr base k ∨ mirrorAddr base k + w ≤ x)) → t.byte x = s.byte x) ∧
         (∀ k i, s.memMirror (n / 8) = some k → i < w → isExchange a = false →
           t.byte (mirrorAddr base k + i) = t.byte (base + i)) ∧
         (e.1.toNat % w = 0 → t.fld = s.fld) ∧ Only [.clus, .cores, .ecc, .fld, .mem] s t
     (dr.toNat % (widthBytes wd / 4) = 0 → flow (widthBytes wd) (c.address (widthBytes wd) an.toNat mode)
       (fun j => c.readD (dr.toNat + j)) (.st at_ wd dr an mode)) ∧
     flow 4 (c.address 4 an.toNat mode) (fun _ => c.readA ar.toNat) (.sta at_ ar an mode)) ∧
  (∀ (s : State) (at_ : Issue) (c : Core) (p q : PairAcc), at_.slot = 2 → s.Acts at_ c →
     let n := at_.core
     let addr := fun (p : PairAcc) => let e := (c.address (widthBytes p.w) p.an.toNat (pairMode p)).1
       BitVec.ofNat 32 (e.toNat - e.toNat % widthBytes p.w)
     let base := fun (p : PairAcc) => coreMemAddr n (addr p)
     let bad := fun (p : PairAcc) => decide (p.dr.toNat % (widthBytes p.w / 4) ≠ 0)
     let value := fun (p : PairAcc) (i : Nat) =>
       BitVec.ofNat 8 ((c.readD (p.dr.toNat + i / 4)).toNat / 256 ^ (i % 4))
     let inside := fun (p : PairAcc) (x : Nat) => base p ≤ x ∧ x < base p + widthBytes p.w
     (bad p = true ∨ bad q = true → ∃ t, exec (.pairedAccess at_ (some p) (some q)) s = .next t ∧ IsIllegal n 2 c s t) ∧
     (bad p = false → bad q = false → s.memMirror (n / 8) = none →
       (∀ r, r = p ∨ r = q → r.store = false → ∀ j, j < 4 → s.eccAt (base r + 4 * j) = none) →
       ∃ t, exec (.pairedAccess at_ (some p) (some q)) s = .next t ∧
         (isExchange (addr p) = false → isExchange (addr q) = false →
           (∀ r, r = p ∨ r = q → r.store = false → ∀ j, j < widthBytes r.w / 4 → ∃ f ∈ (t.core n).flight,
             f.due = c.cyc + 4 ∧ f.dest = .d (physD c.rrb (r.dr.toNat + j)) (s.word (base r + 4 * j))) ∧
           (q.store = true → ∀ i, i < widthBytes q.w → t.byte (base q + i) = value q i) ∧
           (p.store = true → ∀ i, i < widthBytes p.w → (q.store = true → ¬ inside q (base p + i)) →
             t.byte (base p + i) = value p i)) ∧
         (∀ x, (∀ r, r = p ∨ r = q → r.store = true → ¬ inside r x) → t.byte x = s.byte x) ∧
         (t.core n).clk = c.clk + (if bankConflict (addr p) (addr q) then 1 else 0) +
           (if isExchange (addr p) || isExchange (addr q) then 8 else 0) ∧
         (bankConflict (addr p) (addr q) = true → s.follower (n / 8) ≠ some (n / 8) →
           t.get (Page.ibex n) IBEX.STALL_COUNT.COUNT =
             Nat.min (s.get (Page.ibex n) IBEX.STALL_COUNT.COUNT + 1) (2 ^ 32 - 1))) ∧
     (bad p = false → (exec (.pairedAccess at_ (some p) none) s = if p.store then
         exec (.st at_ p.w p.dr (p.an.setWidth 4) (pairMode p)) s
       else exec (.ld at_ p.w p.dr (p.an.setWidth 4) (pairMode p)) s) ∧
       exec (.pairedAccess at_ none (some p)) s = exec (.pairedAccess at_ (some p) none) s) ∧
     (∃ t, exec (.pairedAccess at_ none none) s = .next t ∧ Issued n 2 c [] s t))

/-- BR, BRL, BRR, RETI, SWI, REP, LOOP, FBAR, CSYNC (R140 to R143, R147, R156, R168, R169): where no delay
slot, REP body or LOOP kernel forbids it, each has its effect on the sequencer alone, and nothing with
predicate 0 but the delay slots of a branch and the one run of a body; a CSYNC waits before the other slots
of its bundle; a REP met again in a later iteration of its body has no effect. -/
def Obligations.ControlFlowOperations : Prop :=
  ∀ (s : State) (at_ : Issue) (c : Core) (target : BitVec 12) (an : BitVec 4) (len4 : BitVec 4)
    (count len6 : BitVec 6), at_.slot = 3 → s.Reaches at_ c →
    let n := at_.core
    let p := c.readP at_.pred.toNat
    let gives := fun (i : Instr) (c' : Core) => ∃ t, exec i s = .next t ∧ CoreIs n c' s t ∧ Only [.cores] s t
    let from_ := if s.bundlesOn at_ = 0 then (s.core n).slotNext else 0
    (c.ownRep = true → gives (.rep at_ len4 count) c) ∧ (s.flowBad at_.core c = false → c.ownRep = false →
    gives (.br at_ target) { c with branch := some ⟨target, 5, p, false⟩ } ∧
    gives (.brl at_ an target) (if p then
      Core.send { c with branch := some ⟨target, 5, true, false⟩ } 3 1 (.a an.toNat ((c.pc + 6).setWidth 32))
      else { c with branch := some ⟨target, 5, false, false⟩ }) ∧
    gives (.brr at_ an) { c with branch := some ⟨(c.readA an.toNat).setWidth 12, 5, p, false⟩ } ∧
    gives (.reti at_) { c with branch := some ⟨0, 5, p, true⟩ } ∧
    gives (.swi at_) (if p then c.send 3 1 (.isrcSet 8) else c) ∧
    gives (.fbar at_) (if p then { c with run := .draining } else c) ∧
    gives (.csync at_) (if p then { c with run := .csync, slotNext := from_, waitSlot := some from_ } else c) ∧
    (c.pc.toNat + len4.toNat ≤ 4095 → gives (.rep at_ len4 count) (if p then
      { c with rep := some ⟨c.pc, len4.toNat + 1, count.toNat⟩ } else { c with guard := len4.toNat + 1 })) ∧
    (c.pc.toNat + len6.toNat + 1 ≤ 4095 → gives (.loop at_ len6) (if p then
      { c with loop := some ⟨1, c.pc + 1, len6.toNat + 1, true⟩ } else { c with guard := len6.toNat + 2 })))

/-- The same operations in a delay slot, a REP body or a LOOP kernel, a body or kernel that runs past bundle
4,095, and a reserved encoding anywhere (R141, R142, R147, R156, R173, R175): with predicate 1 they are
reserved encodings, with predicate 0 they do nothing. An operation whose predicate is 0 (R99): it writes no
register, sets no flag, makes no access and counts nothing; only the bundle issues. -/
def Obligations.ReservedPlacesAndFalsePredicates : Prop :=
  ((∀ (s : State) (at_ : Issue) (c : Core) (i : Instr) (target : BitVec 12) (an : BitVec 4) (len4 : BitVec 4)
     (count len6 : BitVec 6), at_.slot = 3 → s.Reaches at_ c → (i = .rep at_ len4 count → c.ownRep = false) →
     (s.flowBad at_.core c = true ∧ i ∈ [.br at_ target, .brl at_ an target, .brr at_ an, .reti at_, .swi at_, .fbar at_, .csync at_,
       .rep at_ len4 count, .loop at_ len6] ∨ (4095 < c.pc.toNat + len4.toNat ∧ i = .rep at_ len4 count) ∨
       (4095 < c.pc.toNat + len6.toNat + 1 ∧ i = .loop at_ len6)) →
     ∃ t, exec i s = .next t ∧ (c.readP at_.pred.toNat = true → IsIllegal at_.core 3 c s t) ∧
       (c.readP at_.pred.toNat = false → CoreIs at_.core c s t ∧ Only [.cores] s t)) ∧
   (∀ (s : State) (at_ : Issue) (c : Core), s.Reaches at_ c → ∃ t, exec (.reservedEncodingIssue at_) s = .next t ∧
       (c.readP at_.pred.toNat = true → IsIllegal at_.core at_.slot c s t ∧
         (s.follower (at_.core / 8) ≠ some (at_.core / 8) → t.get (Page.ibex at_.core) IBEX.ILL_INFO.COUNT =
           Nat.min (s.get (Page.ibex at_.core) IBEX.ILL_INFO.COUNT + 1) (2 ^ IBEX.ILL_INFO.COUNT.w - 1))) ∧
       (c.readP at_.pred.toNat = false → CoreIs at_.core c s t ∧ Only [.cores] s t))) ∧
  (∀ (s : State) (at_ : Issue) (c : Core) (i : Instr) (dd da db : BitVec 6) (acc pd pa : BitVec 3) (a : MacArgs)
     (w : AWidth) (an am : BitVec 4) (mode : AMode) (n5 : BitVec 5) (n6 : BitVec 6) (imm12 : BitVec 12) (k : Cond)
     (imm16 : BitVec 16) (imm17 : BitVec 17) (imm18 : BitVec 18) (a0 a1 : Option PairAcc) (tt : BitVec 4),
     s.Reaches at_ c → c.readP at_.pred.toNat = false →
     (at_.slot < 2 ∧ i ∈ [.mac at_ a, .msu at_ a, .mova at_ acc da n6, .ext at_ dd acc n5, .extd at_ dd acc n5, .mul at_ dd da db,
       .divs at_ acc dd da, .divq at_ acc dd da db, .add at_ dd da db, .sub at_ dd da db, .adds at_ dd da db,
       .subs at_ dd da db, .and at_ dd da db, .or at_ dd da db, .xor at_ dd da db, .shli at_ dd da n5, .shri at_ dd da n5,
       .srai at_ dd da n5, .addi at_ dd da imm12, .mov at_ dd da, .movi at_ dd imm18, .movhi at_ dd imm16, .abs at_ dd da,
       .neg at_ dd da, .min at_ dd da db, .max at_ dd da db, .cmp at_ pd k da db, .cmpi at_ pd k da imm12] ∨
       at_.slot = 2 ∧ i ∈ [.ld at_ w dd an mode, .st at_ w dd an mode, .lda at_ am an mode, .sta at_ am an mode,
       .pairedAccess at_ a0 a1] ∨
       2 ≤ at_.slot ∧ i ∈ [.aaddi at_ an imm17, .aadd at_ an am, .amovi at_ an imm17, .amovhi at_ an imm16, .amov at_ an da,
       .rda at_ dd an] ∨
       at_.slot = 3 ∧ i ∈ [.mfsr at_ dd n6, .mtsr at_ da n6, .mtsri at_ imm16 n6, .plog at_ pd pa acc tt]) →
     ∃ t, exec i s = .next t ∧ CoreIs at_.core c s t ∧ Only [.cores] s t)

/-- MFSR, MTSR, MTSRI (R139, R143, R157, R170): MFSR sends the system register to DD with latency 1; a write
sends the value to the register, ISRC bits written with 1 are cleared, buffers wait for the barrier, CSIG
signals the cores of the cluster in the mask, LC0, LC1 and RRB are not written inside a kernel; other
numbers are reserved. -/
def Obligations.SystemRegisters : Prop :=
  ∀ (s : State) (at_ : Issue) (c : Core) (dd dm srn : BitVec 6) (imm : BitVec 16), at_.slot = 3 → s.Acts at_ c →
    let n := at_.core
    let reads := fun (k : Nat) (v : Word) => srn.toNat = k → ∃ t, exec (.mfsr at_ dd srn) s = .next t ∧
      Issued n 3 (c.sendD 3 1 dd.toNat v) [] s t
    let writes := fun (k : Nat) (c' : Word → Core) => srn.toNat = k →
      (∃ t, exec (.mtsr at_ dm srn) s = .next t ∧ Issued n 3 (c' (c.readD dm.toNat)) [] s t) ∧
      (∃ t, exec (.mtsri at_ imm srn) s = .next t ∧ Issued n 3 (c' (imm.setWidth 32)) [] s t)
    (reads 0 c.sr ∧ reads 1 c.rnd ∧ reads 2 c.isrc ∧ reads 3 c.imask ∧ reads 4 c.ipc ∧ reads 5 c.isav0 ∧
      reads 6 c.isav1 ∧ reads 7 c.isav2 ∧ reads 8 (c.lc0.setWidth 32) ∧ reads 9 (c.lc1.setWidth 32) ∧
      reads 10 (c.rrb.setWidth 32) ∧ reads 11 (Word.ofNat (s.get (Page.ibex n) IBEX.PARAM_SEL.SEL)) ∧
      ∀ k, k < 8 → reads (0x10 + k) (Tab.get 0 c.cbase k) ∧ reads (0x18 + k) (Tab.get 0 c.clen k)) ∧
    (writes 0 (fun v => c.send 3 1 (.sr v)) ∧ writes 1 (fun v => c.send 3 1 (.rnd v)) ∧
      writes 2 (fun v => c.send 3 1 (.isrcClr (v &&& 0xF))) ∧ writes 3 (fun v => c.send 3 1 (.imask v)) ∧
      writes 4 (fun v => c.send 3 1 (.ipc v)) ∧ writes 5 (fun v => c.send 3 1 (.isav0 v)) ∧
      writes 6 (fun v => c.send 3 1 (.isav1 v)) ∧ writes 7 (fun v => c.send 3 1 (.isav2 v)) ∧
      writes 8 (fun v => if c.inKernel then c else c.send 3 1 (.lc0 v)) ∧
      writes 9 (fun v => if c.inKernel then c else c.send 3 1 (.lc1 v)) ∧
      writes 10 (fun v => if c.inKernel then c else c.send 3 1 (.rrb v)) ∧
      ∀ k, k < 8 → writes (0x10 + k) (fun v => { c with cbaseNew := Tab.put none c.cbaseNew k (some v) }) ∧
        writes (0x18 + k) (fun v => { c with clenNew := Tab.put none c.clenNew k (some (v &&& 0x0007FFFC)) })) ∧
    (srn.toNat = 12 → s.follower (n / 8) = none → (∃ t, exec (.mtsri at_ imm srn) s = .next t ∧
      (∀ i, i < 8 → n / 8 * 8 + i ≠ n → imm.getLsbD i = true →
        t.core (n / 8 * 8 + i) = (s.core (n / 8 * 8 + i)).setSource 2) ∧
      t.core n = (if imm.getLsbD (n % 8) then c.setSource 2 else c) ∧
      (∀ m, m ≠ n → (m / 8 ≠ n / 8 ∨ imm.getLsbD (m % 8) = false) → t.core m = s.core m) ∧ Only [.cores] s t) ∧
      ∃ t, exec (.mtsr at_ dm srn) s = .next t ∧
        t.core n = (if (c.readD dm.toNat).getLsbD (n % 8) then c.setSource 2 else c) ∧ Only [.cores] s t) ∧
    (srn.toNat = 12 ∨ 13 ≤ srn.toNat ∧ srn.toNat ≤ 15 ∨ 32 ≤ srn.toNat → ∃ t, exec (.mfsr at_ dd srn) s = .next t ∧
      IsIllegal n 3 c s t) ∧
    (11 = srn.toNat ∨ 13 ≤ srn.toNat ∧ srn.toNat ≤ 15 ∨ 32 ≤ srn.toNat →
      (∃ t, exec (.mtsr at_ dm srn) s = .next t ∧ IsIllegal n 3 c s t) ∧
      ∃ t, exec (.mtsri at_ imm srn) s = .next t ∧ IsIllegal n 3 c s t)

/-- When a result is seen (R104, R105): on a core with nothing in flight and no branch, REP or LOOP, a
result sent to Dn with latency l is read l bundles later and not before; an accumulator is seen at once by
accumulating operations and after 4 cycles by others. The order of bundles (R140, R143, R162, R168):
straight code wraps after bundle 4,095; a taken branch reaches its target after five delay slots; a REP body
runs COUNT times; a LOOP kernel runs LC0 + 1 times and LC1[1:0] times more, each turn rotating the registers
by one. -/
def Obligations.BundlesIssueInOrderAndResultsLand : Prop :=
  (∀ (c : Core) (slot l n k : Nat) (v : Word), c.flight = [] → c.redirect = none → c.branch = none → c.rep = none →
     c.loop = none → n < 64 → 1 ≤ l →
     ((c.sendD slot l n v).advance k).readD n = (if l ≤ k then v else c.readD n) ∧
     (∀ m, m < 64 → physD c.rrb m ≠ physD c.rrb n → ((c.sendD slot l n v).advance k).readD m = c.readD m) ∧
     (∀ (a : Nat) (x : AccVal), ((c.sendAcc slot a x).advance k).accFwd a = x ∧
       ((c.sendAcc slot a x).advance k).accOld a = (if 4 ≤ k then x else c.accOld a))) ∧
  ((∀ c : Core, c.redirect = none → c.branch = none → c.rep = none → c.loop = none → c.advance1.pc = c.pc + 1) ∧
   (∀ (c : Core) (target : BitVec 12) (taken : Bool) (k : Nat), c.redirect = none → 1 ≤ k → k ≤ 6 →
     (c.branchTo taken false target |>.advance k).pc =
       (if k = 6 ∧ taken = true then target else c.pc + BitVec.ofNat 12 k)) ∧
   (∀ (c : Core) (len count k : Nat), c.redirect = none → c.branch = none → 1 ≤ len → len ≤ 16 →
     c.pc.toNat + len ≤ 4096 → k < len * (count + 1) →
     (Core.advance { c with rep := some ⟨c.pc, len, count⟩ } k).pc = c.pc + BitVec.ofNat 12 (k % len)) ∧
   (∀ (c : Core) (len count : Nat), c.redirect = none → c.branch = none → c.loop = none → 1 ≤ len → len ≤ 16 →
     c.pc.toNat + len ≤ 4096 →
     (Core.advance { c with rep := some ⟨c.pc, len, count⟩ } (len * (count + 1))).pc = c.pc + BitVec.ofNat 12 len ∧
     (Core.advance { c with rep := some ⟨c.pc, len, count⟩ } (len * (count + 1))).rep = none) ∧
   (∀ (c : Core) (len : Nat), c.redirect = none → c.branch = none → c.rep = none → c.flight = [] → 1 ≤ len →
     len ≤ 64 → c.pc.toNat + len ≤ 4095 →
     let turns := c.lc0.toNat + 1 + c.lc1.toNat % 4
     let start := { c with loop := some ⟨1, c.pc + 1, len, true⟩ }
     (∀ k, k < len * turns → (Core.advance start (k + 1)).pc = c.pc + 1 + BitVec.ofNat 12 (k % len)) ∧
     (Core.advance start (len * turns + 1)).pc = c.pc + 1 + BitVec.ofNat 12 len ∧
     (Core.advance start (len * turns + 1)).loop = none ∧
     (Core.advance start (len * turns + 1)).rrb = c.rrb - BitVec.ofNat 5 turns))

/-- STAGE_IN_START, CORE_FRAME_START, STAGE_OUT_START, STAGE_OUT_DONE (R146, R149, R152, R153, R154): where
every enabled core waits at its barrier the inputs of the frame are copied into the data memories; then
every enabled core starts at FENTRY with its new set, where one is ready; when all are at their barriers the
outputs go out and the fade advances by one frame; the end of stage-out ends the cluster pass, and a copy
that waited for it is one effect (log entry 51). FRAME_BARRIER_REACHED, CORE_OVERRUN (R147, R151, R152,
R153): 12 cycles after FBAR the core is at its barrier with everything landed, and FRAME_CYCLES shows its
frame, counted from the scheduled start of the pass (log entry 49); a core that has not come by its
deadline, in its frame or behind a handler that delays stage-in, stops there, the overrun is counted, the
fade restarts and the cluster's stage-out is suppressed. -/
def Obligations.ClusterFramesRun : Prop :=
  ((∀ (s : State) (c : Nat), s.clusLive c = true → (s.cl c).phase = .waiting →
     let s' := s.settleCores c
     (s.nowCores c).all (fun n => (s'.core n).waits) = true → ∃ t, exec (.stageInStart c) s = .next t ∧
       (t.cl c).phase = .stageIn ∧ (t.cl c).late = s'.latestClk c ∧ t.fld = s.fld ∧
       (∀ n ∈ clusCores c, t.core n = (s'.core n).waitTo (s'.latestClk c)) ∧
       (∀ x, x < 0x20000000 → t.byte x = s.byte x) ∧
       (∀ n e, s.nowCores c = [n] → ioEntries (s.get (Page.ibex n)) false = [e] → s.memMirror c = none →
         e.addr + e.count * s.fsize * 4 ≤ 0x40000 → ∀ m k, m < e.count → k < s.fsize → t.word (s.ioAddr n e m k) =
           s.windowView.passSample (s.cl c).pass s.fseq.winFrame (e.first + m) k)) ∧
   (∀ (s : State) (c : Nat), s.clusLive c = true → (s.cl c).phase = .stageIn →
     ∃ t, exec (.coreFrameStart c) s = .next t ∧ (t.cl c).phase = .frame ∧
       (∀ n ∈ clusCores c, (s.core n).overrun = false →
         (t.flag (Page.ibex n) IBEX.CORE_CTRL.ENABLE = true → (t.core n).run = .running ∧ (t.core n).clk = 0 ∧
           (t.core n).redirect = some (BitVec.ofNat 12 (t.get (Page.ibex n) IBEX.FENTRY.BUNDLE))) ∧
         (t.flag (Page.ibex n) IBEX.CORE_CTRL.ENABLE = false → (t.core n).run = .idle) ∧
         ((s.core n).swapPend = true → (s.core n).swapReady = true →
           (t.core n).swapPend = false ∧ (t.get (Page.ibex n) HDR.IRQ_RAW.RAW).testBit 8 = true ∧
           ∀ f ∈ shadowFlds (Page.ibex n), t.get (Page.ibex n) f =
             Tab.get f.rst s.staged (fkey (Page.ibex n) f) % 2 ^ f.w) ∧
         ((s.core n).swapPend = false ∨ (s.core n).swapReady = false →
           (t.core n).swapPend = (s.core n).swapPend ∧
           ∀ f ∈ shadowFlds (Page.ibex n), t.get (Page.ibex n) f = s.get (Page.ibex n) f)) ∧
       (∀ n ∈ clusCores c, (s.core n).overrun = true → (t.core n).run = (s.core n).run ∧ (t.core n).clk = 0 ∧
         (t.core n).overrun = true ∧ (t.core n).swapPend = (s.core n).swapPend) ∧
       Only [.clus, .cores, .fld] s t) ∧
   (∀ (s : State) (c : Nat), s.clusLive c = true → (s.cl c).phase = .frame → (s.cl c).overrun = false →
     (s.nowCores c).all (fun n => (s.core n).run == .barrier) = true → ∃ t, exec (.stageOutStart c) s = .next t ∧
       (t.cl c).phase = .stageOut ∧ (∀ n ∈ clusCores c, t.core n = (s.core n).waitTo (s.outAt c)) ∧
       (s.domOn 5 = false →
         t.get (Page.clus c) CLUS.FADE_POS.M = Nat.min 32 (s.get (Page.clus c) CLUS.FADE_POS.M + s.fsize) ∧
         (∀ k, s.follower c = some k → t.get (Page.clus k) CLUS.FADE_POS.M = t.get (Page.clus c) CLUS.FADE_POS.M) ∧
         OnlyRegs ((Page.clus c, 0x54) :: ((s.follower c).map (fun k => (Page.clus k, 0x54))).toList) s t ∧
         Only [.clus, .cores, .fld] s t) ∧
       (∀ n e, s.domOn 5 = true → s.nowCores c = [n] → ioEntries (s.get (Page.ibex n)) true = [e] → s.ecc = [] →
         s.fsize ≤ 32 → e.addr + e.count * s.fsize * 4 ≤ 0x40000 → ∀ m k, m < e.count → k < s.fsize →
         t.planeRead (s.fseq.winFrame % 2) (e.first + m) k =
           fadeIn (s.get (Page.clus c) CLUS.FADE_POS.M + k) (s.word (s.ioAddr n e m k)))) ∧
   (∀ (s : State) (c : Nat), s.clusLive c = true → (s.cl c).phase = .stageOut → ∃ t, exec (.stageOutDone c) s = .next t ∧
       (t.cl c).phase = .idle ∧ ((∀ k, k < 4 → ¬ (s.migState k = 2 ∧ (s.cl k).copying = true ∧ (s.cl k).src = c)) →
         Only [.clus, .cores] s t) ∧
       (∀ k, k < 4 → k ≠ c → s.migState k = 2 → (s.cl k).copying = true → (s.cl k).src = c →
         (∀ j, j < 4 → j ≠ k → ¬ (s.migState j = 2 ∧ (s.cl j).copying = true ∧ (s.cl j).src = c)) → s.ecc = [] →
         (t.cl k).copied = true ∧
         t.get (Page.clus k) CLUS.MIG_STAT.PROGRESS = 3088 ∧
         ∀ i, i < 0x800000 → t.byte (0x20000000 + k * 0x800000 + i) = s.byte (0x20000000 + c * 0x800000 + i)))) ∧
  ((∀ (s : State) (n : Nat), s.coreLive n = true → (s.core n).run = .draining →
     ∃ t, exec (.frameBarrierReached n) s = .next t ∧ CoreIs n ((s.core n).tick 12).atBarrier.1 s t ∧
       (t.core n).run = .barrier ∧ (t.core n).flight = [] ∧
       t.get (Page.ibex n) IBEX.FRAME_CYCLES.CYCLES =
         Nat.min (s.frameFrom (n / 8) + (s.core n).clk + 12) 0xFFFFF ∧
       (((s.core n).tick 12).atBarrier.2 = true → (t.get (Page.ibex n) HDR.IRQ_RAW.RAW).testBit 7 = true) ∧
       Only [.cores, .fld] s t) ∧
   (∀ (s : State) (n : Nat), s.coreLive n = true → n ∈ s.nowCores (n / 8) → (s.core n).overrun = false →
     ((s.cl (n / 8)).phase = .waiting ∨ (s.cl (n / 8)).phase = .stageIn ∨
       ((s.cl (n / 8)).phase = .frame ∧ (s.core n).run ≠ .barrier)) →
     ∃ t, exec (.coreOverrun n) s = .next t ∧ CoreIs n (s.core n).atDeadline.1 s t ∧
       (t.core n).run = .barrier ∧ (t.core n).flight = [] ∧ (t.core n).overrun = true ∧
       (t.cl (n / 8)).overrun = true ∧ t.get (Page.clus (n / 8)) CLUS.FADE_POS.M = 0 ∧
       (t.get (Page.ibex n) HDR.IRQ_RAW.RAW).testBit 6 = true ∧ (s.follower (n / 8) ≠ some (n / 8) →
         t.get (Page.ibex n) IBEX.CORE_OVR_COUNT.COUNT =
           Nat.min (s.get (Page.ibex n) IBEX.CORE_OVR_COUNT.COUNT + 1) 65535) ∧
       Only [.clus, .cores, .fld] s t))

/-- INTERRUPT_ENTRY, DOORBELL (R126 to R133, R148): a pending source at an interruptible position saves the
pc in IPC, SR in ISAV0, LC0 and LC1 in ISAV1, RRB and the LOOP sequencer in ISAV2 (its bits: log entry 20),
clears IE, sets INH and goes to IVEC; a doorbell sets ISRC.DOORBELL, but not on a spare that copies or
follows. CSYNC_RELEASE, IBEX_ECC_WRITEBACK (R136, R156): when every enabled core of the cluster waits at a
CSYNC outside a handler they all go on in the cycle of the last; the corrected word is written back and its
check bits are right again. -/
def Obligations.CoreInterruptsAndWriteback : Prop :=
  ((∀ (s : State) (n : Nat), s.coreLive n = true →
     let c := (s.core n).settle
     let p := c.atPosition
     c.halted = false → p.ie = true → p.pendingSrc = true → c.interruptible = true →
     (c.run = .barrier → (s.cl (n / 8)).phase = .idle ∨ (s.cl (n / 8)).phase = .waiting) →
     (c.run ≠ .barrier → c.run ≠ .csync → (s.setCore n c).repAhead n p = false) →
     ∃ t, exec (.interruptEntry n) s = .next t ∧
       let d := t.core n
       d.redirect = some (BitVec.ofNat 12 (s.get (Page.ibex n) IBEX.IVEC.BUNDLE)) ∧ d.ie = false ∧ d.inh = true ∧
       d.flight = [] ∧
       (c.run = .csync → d.ipc = c.pc.setWidth 32 ∧ d.run = .handlerAtCsync) ∧
       (c.run = .barrier → d.run = .handlerAtBarrier) ∧
       (c.run = .running → d.ipc = p.pc.setWidth 32 ∧ d.run = .running) ∧
       d.isav0 = p.landAll.sr ∧ d.isav1.toNat % 2 ^ 16 = p.landAll.lc0.toNat ∧
       d.isav1.toNat / 2 ^ 16 = p.landAll.lc1.toNat ∧ d.isav2.toNat % 32 = p.landAll.rrb.toNat ∧
       ((∀ l ∈ p.landAll.loop, 1 ≤ l.len ∧ l.len ≤ 64) → seqUnpack (BitVec.ofNat 27 (d.isav2.toNat / 32)) =
         p.landAll.loop.map (fun l => { l with fresh := false })) ∧
       d.d = p.landAll.d ∧ d.a = p.landAll.a ∧ d.p = p.landAll.p ∧ d.acc = p.acc ∧
       16 ≤ t.get (Page.ibex n) IBEX.HOLDOFF_MAX.CYCLES ∧
       (s.follower (n / 8) ≠ some (n / 8) → t.get (Page.ibex n) IBEX.IRQ_COUNT.COUNT =
         Nat.min (s.get (Page.ibex n) IBEX.IRQ_COUNT.COUNT + 1) 65535) ∧ Only [.cores, .fld, .freeCtr] s t) ∧
   (∀ (s : State) (n : Nat) (v : Word), n < 32 → s.Takes (Page.ibex n) →
     ∃ t, exec (.doorbell n v) s = .next t ∧
       (v.getLsbD 0 = true → (t.core n).isrc = (s.core n).isrc ||| 1 ∧ CoreIs n ((s.core n).setSource 1) s t) ∧
       (v.getLsbD 0 = false → t = s) ∧ Only [.cores] s t) ∧
   (∀ (s : State) (n : Nat) (v : Word), n < 32 → s.inReset = false → s.locked (Page.ibex n) = false →
     s.notReady (Page.ibex n) = false → s.pageOn (Page.ibex n) = true →
     (s.migState (n / 8) = 2 ∨ s.migState (n / 8) = 3) →
     ∃ t, exec (.doorbell n v) s = .next t ∧ Logged (Page.ibex n) Code.refused s t)) ∧
  ((∀ (s : State) (c : Nat), s.clusLive c = true → let s' := s.settleCores c
     s.nowCores c ≠ [] → (∀ n ∈ s.nowCores c, (s'.core n).run = .csync ∧ (s'.core n).inh = false ∧
       (s'.core n).halted = false) →
     ∃ t, exec (.csyncRelease c) s = .next t ∧
       (∀ n ∈ s.nowCores c, t.core n = { (s'.core n).waitTo (s'.latestClk c) with run := .running }) ∧
       Only [.cores] s t) ∧
   (∀ (s : State) (a : Nat), s.inReset = false → 0x20000000 ≤ a → a < 0x22000000 → s.eccAt a = some .single →
     ∃ t, exec (.ibexEccWriteback a) s = .next t ∧ t.eccAt a = none ∧
       (∀ b, b / 4 ≠ a / 4 → t.eccAt b = s.eccAt b) ∧ Only [.ecc] s t))

/-- HALT_REQ, RESUME, STEP, CORE_HALTED (R71, R160, R161): without debug level 2, and on a spare that copies
or follows, the debug registers refuse a write; a request waits for an interruptible position; there the
core halts with its cause, everything in flight landed and the next bundle kept; RESUME and STEP let it go
on. MIG_START, MIGRATION_COPY_START, MIG_FOLLOWING, MIG_CANCEL (R158, R160): START on a spare asks for the
grant, and is REFUSED elsewhere and while a migration runs; with the grant the copy waits for the source's
stage-out; at a source barrier after the copy the spare's cores take the state of the source's and follow; a
cancel gives the grant back. -/
def Obligations.CoreDebugAndMigration : Prop :=
  ((∀ (s : State) (n : Nat) (i : Instr), n < 32 → i ∈ [.haltReq n, .resume n, .step n] → s.inReset = false →
     s.locked (Page.ibex n) = false → s.notReady (Page.ibex n) = false → s.pageOn (Page.ibex n) = true →
     (s.migState (n / 8) = 2 ∨ s.migState (n / 8) = 3 ∨ s.debugLevel < 2) →
     ∃ t, exec i s = .next t ∧ Logged (Page.ibex n) Code.refused s t) ∧
   (∀ (s : State) (n : Nat), n < 32 → s.Takes (Page.ibex n) → 2 ≤ s.debugLevel →
     (∃ t, exec (.haltReq n) s = .next t ∧ CoreIs n { s.core n with haltReq := true } s t ∧ Only [.cores] s t) ∧
     ((s.core n).halted = true →
       (∃ t, exec (.resume n) s = .next t ∧ CoreIs n { s.core n with halted := false } s t ∧
         t.get (Page.ibex n) IBEX.DBG_STAT.HALTED = 0 ∧ OnlyRegs [(Page.ibex n, 0x304)] s t ∧ Only [.cores, .fld] s t) ∧
       (∃ t, exec (.step n) s = .next t ∧ CoreIs n { s.core n with halted := false, stepping := true } s t ∧
         t.get (Page.ibex n) IBEX.DBG_STAT.HALTED = 0 ∧ OnlyRegs [(Page.ibex n, 0x304)] s t ∧ Only [.cores, .fld] s t)) ∧
     ((s.core n).halted = false → exec (.resume n) s = .next s ∧ exec (.step n) s = .next s)) ∧
   (∀ (s : State) (n : Nat) (cause : HaltCause), s.coreLive n = true → (s.core n).halted = false →
     (s.core n).interruptible = true → s.repAhead n (s.core n).atPosition = false →
     s.haltCause n cause = true → ∃ t, exec (.coreHalted n cause) s = .next t ∧
       CoreIs n (s.core n).halt s t ∧ (t.core n).halted = true ∧ (t.core n).flight = [] ∧ (t.core n).haltReq = false ∧
       t.get (Page.ibex n) IBEX.DBG_STAT.HALTED = 1 ∧ t.get (Page.ibex n) IBEX.DBG_STAT.CAUSE = haltCode cause ∧
       Raised (Page.ibex n) 9 s t ∧ OnlyRegs [(Page.ibex n, 0x304), (Page.ibex n, 0x10)] s t ∧ Only [.cores, .fld] s t)) ∧
  ((∀ (s : State) (c : Nat) (source : BitVec 2), c < 4 → s.Takes (Page.clus c) →
     s.flag (Page.clus c) CLUS.CLUS_CTRL.SPARE = true → source.toNat ≠ c → (s.migState c = 0 ∨ s.migState c = 4) →
     ∃ t, exec (.migStart c source) s = .next t ∧ t.migState c = 1 ∧ (t.cl c).src = source.toNat ∧
       t.get (Page.clus c) CLUS.MIG_CTRL.SOURCE = source.toNat ∧ t.get (Page.clus c) CLUS.MIG_STAT.PROGRESS = 0 ∧
       t.ledger.fresh = s.ledger.fresh ++ [⟨Kind.migration, c⟩] ∧ Only [.clus, .fld, .ledger] s t) ∧
   (∀ (s : State) (c : Nat) (source : BitVec 2), c < 4 → s.Takes (Page.clus c) →
     (s.flag (Page.clus c) CLUS.CLUS_CTRL.SPARE = false ∨ source.toNat = c ∨ (s.migState c ≠ 0 ∧ s.migState c ≠ 4)) →
     ∃ t, exec (.migStart c source) s = .next t ∧ t.get (Page.clus c) HDR.ERR_LAST.CODE = Code.refused ∧
       OnlyRegs [(Page.clus c, 0x44), (Page.clus c, 0x24), (Page.clus c, 0x28)] s t ∧ Only [.fld] s t) ∧
   (∀ (s : State) (c : Nat), s.clusLive c = true → s.migState c = 1 → s.holds Kind.migration c = true →
     ∃ t, exec (.migrationCopyStart c) s = .next t ∧ t.migState c = 2 ∧ (t.cl c).copying = true ∧
       (t.cl c).copied = false ∧ OnlyRegs [(Page.clus c, 0x48)] s t ∧ Only [.clus, .fld] s t) ∧
   (∀ (s : State) (c : Nat), s.clusLive c = true → s.migState c = 2 → (s.cl c).copied = true →
     let src := (s.cl c).src
     let s' := s.settleCores src
     src ≠ c → src < 4 → (clusCores src).all (fun n => (s'.core n).waits) = true →
     ∃ t, exec (.migFollowing c) s = .next t ∧ t.migState c = 3 ∧ (∀ i, i < 8 →
         t.core (8 * c + i) = s'.core (8 * src + i) ∧
         t.activeSet (Page.ibex (8 * c + i)) = s.activeSet (Page.ibex (8 * src + i)) % 2 ∧
         t.get (Page.ibex (8 * c + i)) IBEX.FENTRY.BUNDLE = s.get (Page.ibex (8 * src + i)) IBEX.FENTRY.BUNDLE % 4096) ∧
       t.get (Page.clus c) CLUS.FADE_POS.M = s.get (Page.clus src) CLUS.FADE_POS.M % 64 ∧
       Raised (Page.clus c) 0 s t ∧ Only [.cores, .dirtyReg, .dirtyTab, .fld, .shadow, .staged] s t) ∧
   (∀ (s : State) (c : Nat) (cause : Byte), c < 4 → s.inReset = false → 1 ≤ cause.toNat → cause.toNat ≤ 5 →
     (cause = 1 → s.Takes (Page.clus c)) → s.migState c ∈ [1, 2, 3] → ∃ t, exec (.migCancel c cause) s = .next t ∧
       t.migState c = 0 ∧ t.get (Page.clus c) CLUS.MIG_STAT.CAUSE = cause.toNat ∧
       (t.get (Page.clus c) HDR.IRQ_RAW.RAW).testBit 2 = true ∧ (t.cl c).copying = false ∧ (t.cl c).copied = false ∧
       (s.holds Kind.migration c = true → (⟨Kind.migration, c⟩ : Req) ∈ t.ledger.rel) ∧
       (∀ i, i < 8 → (t.core (8 * c + i)).run = .idle) ∧ Only [.clus, .cores, .fld, .ledger] s t) ∧
   (∀ (s : State) (c : Nat) (cause : Byte), s.migState c = 0 ∨ 4 ≤ s.migState c → 2 ≤ cause.toNat →
     exec (.migCancel c cause) s = .next s))

/-- BUS_TRANSACTION, BUS_RETRY (R34, R229, R233 to R235, R433): a write changes the bytes whose strobes are
on and nothing else, a read returns the bytes of memory; at an unmapped address the access is counted, at a
domain that is not ON it is logged; at the outbound target it ends with an error while the link is down, and
waits for its reissues while the link is up but not in L0; one already answered RETRY fails after RETRY_MAX
reissues; one that its limits do not admit waits to issue (order of requests: log entry 10). -/
def Obligations.BusTransactions : Prop :=
  let free (s : State) (m : Master) (q : Nat) : Bool := s.admits m q && !s.waiting.any (fun w => w.by_ == m)
  let max (s : State) : Nat := s.get Page.busm BUSM.RETRY_CTRL.RETRY_MAX
  (∀ (s : State) (by_ : Master) (addr : Nat) (bytes : List Byte) (strobes : List Bool) (qos : BitVec 4) (core : Nat)
    (inL0 : Bool), s.inReset = false → by_ ≠ .jtag → free s by_ qos.toNat = true →
    StoreClean s addr bytes.length → strobes.length = bytes.length → (∃ t, exec (.busTransaction by_ true addr bytes strobes qos core inL0) s = .next t ∧
      (∀ i, (h : i < bytes.length) → t.byte (addr + i) = (if strobes.getD i false then bytes[i] else s.byte (addr + i))) ∧
      (∀ x, (x < addr ∨ addr + bytes.length ≤ x) → t.byte x = s.byte x) ∧ t.respErr = false ∧ t.fld = s.fld ∧
      Only [.ecc, .mem, .readData, .respErr] s t) ∧
    ∃ t, exec (.busTransaction by_ false addr bytes strobes qos core inL0) s = .next t ∧
      t.readData = (List.range bytes.length).map (fun i => (s.byte (addr + i)).setWidth 32) ∧ t.respErr = false ∧
      Only [.readData, .respErr] s t) ∧
  (∀ (s : State) (by_ : Master) (write : Bool) (addr : Nat) (b : Byte) (qos : BitVec 4) (core : Nat) (inL0 : Bool),
    s.inReset = false → by_ ≠ .jtag → free s by_ qos.toNat = true →
    (placeOf addr = .hole → ∃ t, exec (.busTransaction by_ write addr [b] [true] qos core inL0) s = .next t ∧
      t.get Page.dev DEV.UNMAPPED_COUNT.COUNT = Nat.min (s.get Page.dev DEV.UNMAPPED_COUNT.COUNT + 1) 65535 ∧
      OnlyRegs [(Page.dev, 0x64)] s t ∧ t.mem = s.mem) ∧
    (placeOf addr = .store → s.domOn 6 = false → ∃ t,
      exec (.busTransaction by_ write addr [b] [true] qos core inL0) s = .next t ∧
      t.get Page.store HDR.ERR_LAST.CODE = Code.domainOff ∧ OnlyRegs [(Page.store, 0x24), (Page.store, 0x28)] s t ∧
      t.mem = s.mem ∧ (write = false → t.readData = [0]))) ∧
  (∀ (s : State) (by_ : Master) (write : Bool) (addr : Nat) (bytes : List Byte) (strobes : List Bool)
    (qos : BitVec 4) (core : Nat) (inL0 : Bool), s.inReset = false → free s by_ qos.toNat = true →
    placeOf addr = .outbound →
    (s.outboundDown = false → max s ≠ 0 →
      ∃ t, exec (.busTransaction by_ write addr bytes strobes qos core false) s = .next t ∧
        t.retries = s.retries ++ [⟨by_, write, addr, bytes, strobes, max s, portCore by_ core, qos.toNat, true⟩] ∧
        t.mem = s.mem ∧ Only [.fld, .readData, .respErr, .retries, .dmas] s t) ∧
    (s.outboundDown = true → by_ ≠ .jtag → bytes ≠ [] → addr % 256 + bytes.length ≤ 256 →
      ∃ t, exec (.busTransaction by_ write addr bytes strobes qos core inL0) s = .next t ∧ t.respErr = true ∧
        Only [.readData, .respErr] s t)) ∧
  (∀ (s : State) (by_ : Master) (write : Bool) (addr : Nat) (bytes : List Byte) (strobes : List Bool)
    (qos : BitVec 4) (core : Nat) (inL0 : Bool), s.inReset = false → free s by_ qos.toNat = false →
    ∃ t, exec (.busTransaction by_ write addr bytes strobes qos core inL0) s = .next t ∧
      t.retries = s.retries ++ [⟨by_, write, addr, bytes, strobes, max s, portCore by_ core, qos.toNat, false⟩] ∧
      Only [.readData, .respErr, .retries] s t) ∧
  (∀ (s : State) (by_ : Master) (r : Retry) (inL0 : Bool), s.inReset = false → placeOf r.addr = .store →
    s.nextIssue by_ = some r → r.tried = false → r.write = true → StoreClean s r.addr r.bytes.length →
    r.strobes.length = r.bytes.length → by_ ≠ .jtag → ∃ t, exec (.busRetry by_ inL0) s = .next t ∧
      t.retries = s.retries.erase r ∧ t.respErr = false ∧
      (∀ i, (h : i < r.bytes.length) →
        t.byte (r.addr + i) = (if r.strobes.getD i false then r.bytes[i] else s.byte (r.addr + i))) ∧
      (∀ x, (x < r.addr ∨ r.addr + r.bytes.length ≤ x) → t.byte x = s.byte x)) ∧
  (∀ (s : State) (by_ : Master) (r : Retry) (inL0 : Bool), s.inReset = false → placeOf r.addr = .outbound →
    s.nextIssue by_ = some r → s.timerOver by_ = false → ∃ t, exec (.busRetry by_ inL0) s = .next t ∧
      (r.tried = false → s.outboundDown = false → inL0 = false → r.left ≠ 0 →
        t.retries = s.retries.erase r ++ [{ r with tried := true }]) ∧
      (r.tried = true → s.outboundDown = true → t.retries = s.retries.erase r ∧ t.respErr = true) ∧
      (r.tried = true → s.outboundDown = false → inL0 = false → r.left ≤ 1 →
        t.retries = s.retries.erase r ∧ t.respErr = true ∧ t.get Page.busm BUSM.RETRY_FAIL_COUNT.COUNT =
          Nat.min (s.get Page.busm BUSM.RETRY_FAIL_COUNT.COUNT + 1) 65535 ∧ Raised Page.busm 1 s t) ∧
      (r.tried = true → s.outboundDown = false → inL0 = false → 1 < r.left →
        t.retries = s.retries.replace r { r with left := r.left - 1 } ∧ t.fld = s.fld))

/-- SLICE_CTRL_WRITE, ZFILL, ZFILL_DONE, STORE_ECC_WRITEBACK (R222, R228, R425): a bypass is refused below
800 mV; a zero-fill starts on a lost bank alone and ends with the whole bank 0, its check bits valid and the
bank lost no more; a write-back makes the check bits of the one word valid. SCRUB_PASS_START,
SCRUB_PASS_END, SCRUB_LATE (R226, R399): a pass that is due asks for its grant; its end counts the pass,
leaves no correctable word and gives the grant back; a pass that is late is counted and asks again. -/
def Obligations.StoreMaintenanceAndScrubbing : Prop :=
  ((∀ (s : State) (v : Word), s.Takes Page.busm → ∃ t, exec (.sliceCtrlWrite v) s = .next t ∧
       (v.toNat % 65536 ≠ 0 → s.get Page.busm BUSM.VCORE_SET.MV < 800 → Logged Page.busm Code.refused s t) ∧
       (v.toNat % 65536 = 0 ∨ 800 ≤ s.get Page.busm BUSM.VCORE_SET.MV →
         t.get Page.busm BUSM.SLICE_CTRL.BYPASS = v.toNat % 65536 ∧ OnlyRegs [(Page.busm, 0x4C)] s t) ∧
       Only [.fld] s t) ∧
   (∀ (s : State) (v : Word), s.Takes Page.store → ∃ t, exec (.zfill v) s = .next t ∧
       (∀ b, b < 8 → t.bitOf Page.store STORE.STORE_STAT.ZFILL_BUSY b =
         (s.bitOf Page.store STORE.STORE_STAT.ZFILL_BUSY b || (v.getLsbD b && s.bankLost b))) ∧
       ((∃ b, b < 8 ∧ v.getLsbD b = true ∧ (s.bankLost b = false ∨
         s.bitOf Page.store STORE.STORE_STAT.ZFILL_BUSY b = true)) →
         t.get Page.store HDR.ERR_LAST.CODE = Code.refused) ∧
       OnlyRegs [(Page.store, 0x40), (Page.store, 0x24), (Page.store, 0x28)] s t ∧ Only [.fld] s t) ∧
   (∀ (s : State) (b : Nat), s.inReset = false → s.domOn 6 = true → b < 8 →
     s.bitOf Page.store STORE.STORE_STAT.ZFILL_BUSY b = true → ∃ t, exec (.zfillDone b) s = .next t ∧
       (∀ i, i < 0x800000 → t.byte (b * 0x800000 + i) = 0 ∧ t.storeEcc (b * 0x800000 + i) = none) ∧
       (s.fseq.oldTabs = [] → ∀ x, (x < b * 0x800000 ∨ (b + 1) * 0x800000 ≤ x) → t.byte x = s.byte x) ∧ t.bankLost b = false ∧
       t.get Page.store (STORE.LOST_CAUSE.CAUSE b) = 0 ∧ t.bitOf Page.store STORE.STORE_STAT.ZFILL_BUSY b = false ∧
       (∀ k, k < 8 → k ≠ b → t.bankLost k = s.bankLost k) ∧ Raised Page.store 3 s t ∧
       OnlyRegs [(Page.store, 0x40), (Page.store, 0x44), (Page.store, 0x10)] s t ∧ Only [.ecc, .fld, .mem, .delay] s t) ∧
   (∀ (s : State) (a : Nat), s.inReset = false → s.domOn 6 = true → a < 0x04000000 → s.storeEcc a = some .single →
     ∃ t, exec (.storeEccWriteback a) s = .next t ∧ t.storeEcc a = none ∧
       (∀ x, x / 8 ≠ a / 8 → t.storeEcc x = s.storeEcc x) ∧ Only [.ecc] s t)) ∧
  ((∀ s : State, s.scrubOn = true → s.scrubbing = false → s.waits Kind.scrub 6 = false → s.holds Kind.scrub 6 = false →
     ∃ t, exec .scrubPassStart s = .next t ∧ t.ledger.fresh = s.ledger.fresh ++ [⟨Kind.scrub, 6⟩] ∧
       Only [.fld, .ledger] s t) ∧
   (∀ s : State, s.scrubOn = true → s.scrubbing = true → ∃ t, exec .scrubPassEnd s = .next t ∧
       t.scrubbing = false ∧ (s.holds Kind.scrub 6 = true → (⟨Kind.scrub, 6⟩ : Req) ∈ t.ledger.rel) ∧
       (s.ecc = [] → t.ecc = [] ∧ t.get Page.store STORE.SCRUB_STAT.PASSES =
         (s.get Page.store STORE.SCRUB_STAT.PASSES + 1) % 65536) ∧
       (∀ a, Tab.wf none s.ecc = true → s.bankLost (storeBank a) = false → a < 0x04000000 → t.storeEcc a ≠ some .single) ∧
       t.mem = s.mem ∧ Only [.ecc, .fld, .ledger] s t) ∧
   (∀ s : State, s.scrubOn = true → (s.scrubbing = true ∨ s.waits Kind.scrub 6 = true) →
     ∃ t, exec .scrubLate s = .next t ∧ t.scrubbing = false ∧ t.get Page.store STORE.SCRUB_LATE_COUNT.COUNT =
         Nat.min (s.get Page.store STORE.SCRUB_LATE_COUNT.COUNT + 1) 65535 ∧ Raised Page.store 4 s t ∧
       (⟨Kind.scrub, 6⟩ : Req) ∈ t.ledger.fresh ∧ Only [.fld, .ledger] s t))

/-- DMA_DESCRIPTOR_START, DMA_DESCRIPTOR_DONE, DMA_TIMEOUT (R237 to R241): the descriptor at RING_TAIL is
read and checked; one that passes moves its bytes, row by row where it is two-dimensional, from Store memory
or the Signal Plane to Store memory or to the shadow copy of a table, and ends with status 0, one that does
not ends with the status of its check; RING_TAIL goes on, the status word, DESC_COUNT and the interrupts are
written; a timeout ends it with 0x42. -/
def Obligations.DmaDescriptors : Prop :=
  (∀ (s : State) (e : Nat), s.inReset = false → e < 4 → s.dmaActive e = false →
    s.flag (Page.dma e) DMA.DMA_CTRL.RUN = true →
    s.get (Page.dma e) DMA.RING_HEAD.HEAD ≠ s.get (Page.dma e) DMA.RING_TAIL.TAIL → StoreClean s (s.descAddr e) 32 →
    ∃ t, exec (.dmaDescriptorStart e) s = .next t ∧ t.dmaActive e = true ∧ (t.dma e).desc = s.readLE (s.descAddr e) 32 ∧
      (t.dma e).from_ = s.descAddr e ∧
      (t.dma e).code = s.dmaCheck e (s.readLE (s.descAddr e) 32) ∧ OnlyRegs [(Page.dma e, 0x58)] s t ∧
      Only [.dmas, .fld, .respErr] s t) ∧
  (∀ (s : State) (e code moved : Nat) (busErr : Bool), s.inReset = false → e < 4 → s.dmaActive e = true →
    (s.dma e).code = some code → StoreClean s (s.dma e).from_ 32 → code < 256 →
    ∃ t, exec (.dmaDescriptorDone e busErr moved) s = .next t ∧ t.dmaActive e = false ∧
      t.get (Page.dma e) DMA.DMA_STAT.LAST_CODE = code ∧
      t.get (Page.dma e) DMA.RING_TAIL.TAIL = (s.get (Page.dma e) DMA.RING_TAIL.TAIL + 1) %
        (s.get (Page.dma e) DMA.RING_SIZE.SIZE + 1) % 4096 ∧
      t.get (Page.dma e) DMA.DESC_COUNT.COUNT = Nat.min (s.get (Page.dma e) DMA.DESC_COUNT.COUNT + 1) (2 ^ 32 - 1) ∧
      t.readLE ((s.dma e).from_ + 28) 4 = code + s.nt / 256 * 256 ∧
      (∀ x, (x < (s.dma e).from_ + 28 ∨ (s.dma e).from_ + 32 ≤ x) → t.byte x = s.byte x) ∧
      (code ≠ 0 → code ≠ 0x40 → (t.get (Page.dma e) HDR.IRQ_RAW.RAW).testBit 1 = true ∧
        (s.flag (Page.dma e) DMA.DMA_CTRL.HALT_ON_ERR = true → s.flag (Page.dma e) DMA.DMA_CTRL.RUN = true →
          t.flag (Page.dma e) DMA.DMA_CTRL.RUN = false)) ∧
      ((s.dma e).desc.testBit 4 = true → (t.get (Page.dma e) HDR.IRQ_RAW.RAW).testBit 0 = true) ∧
      (Desc.coreEn (s.dma e).desc = true → s.domOn (1 + Desc.core (s.dma e).desc / 8) = true →
        (t.core (Desc.core (s.dma e).desc)).isrc = (s.core (Desc.core (s.dma e).desc)).isrc ||| 4)) ∧
  (∀ (s : State) (e : Nat), s.inReset = false → e < 4 → s.dmaActive e = true → (s.dma e).code = none →
    let d := (s.dma e).desc
    let n := Desc.len d
    let src (r : Nat) : Nat := Desc.src d + r * Desc.srcStride d
    let dst (r : Nat) : Nat := Desc.dst d + r * Desc.dstStride d
    let last := Desc.rows d
    let stat (x : Nat) : Bool := decide ((s.dma e).from_ + 28 ≤ x ∧ x < (s.dma e).from_ + 32)
    StoreClean s (s.dma e).from_ 32 → (last ≠ 0 → n ≤ Desc.dstStride d) →
    StoreClean s (src 0) (src last + n - src 0) → StoreClean s (dst 0) (dst last + n - dst 0) →
    (src last + n ≤ dst 0 ∨ dst last + n ≤ src 0) →
    ((s.dma e).from_ + 32 ≤ dst 0 ∨ dst last + n ≤ (s.dma e).from_) →
    ∃ t, exec (.dmaDescriptorDone e false 0) s = .next t ∧ t.get (Page.dma e) DMA.DMA_STAT.LAST_CODE = 0 ∧
      t.dmaActive e = false ∧ (∀ r ≤ last, ∀ i < n, t.byte (dst r + i) = s.byte (src r + i)) ∧
      (∀ x, (∀ r ≤ last, x < dst r ∨ dst r + n ≤ x) → stat x = false → t.byte x = s.byte x)) ∧
  (∀ (s : State) (e p set : Nat), s.inReset = false → e < 4 → s.dmaActive e = true → (s.dma e).code = none →
    let d := (s.dma e).desc
    let n := Desc.len d
    let stat (x : Nat) : Bool := decide ((s.dma e).from_ + 28 ≤ x ∧ x < (s.dma e).from_ + 32)
    StoreClean s (s.dma e).from_ 32 → Desc.rows d = 0 → StoreClean s (Desc.src d) n → n ≠ 0 → n % 4 = 0 →
    Desc.dst d % 4 = 0 → Desc.dst d % 256 + n ≤ 256 → placeOf (Desc.dst d) = .table p set → s.pageOn p = true →
    s.locked p = false → s.shadowHeld p = false →
    ∃ t, exec (.dmaDescriptorDone e false 0) s = .next t ∧ t.get (Page.dma e) DMA.DMA_STAT.LAST_CODE = 0 ∧
      (set ≠ s.activeSet p → t.dirty p = true ∧ (∀ i < n, t.byte (Desc.dst d + i) = s.byte (Desc.src d + i)) ∧
        ∀ x, (x < Desc.dst d ∨ Desc.dst d + n ≤ x) → stat x = false → t.byte x = s.byte x) ∧
      (set = s.activeSet p → t.get p HDR.ERR_LAST.CODE = Code.writeToActive ∧
        ∀ x, stat x = false → t.byte x = s.byte x)) ∧
  (∀ (s : State) (e : Nat), s.inReset = false → e < 4 → s.dmaActive e = true → (s.dma e).code = none →
    let d := (s.dma e).desc
    let n := Desc.len d
    StoreClean s (s.dma e).from_ 32 → Desc.rows d = 0 → StoreClean s (Desc.dst d) n → n ≠ 0 →
    0x22000000 ≤ Desc.src d → Desc.src d + n ≤ 0x22400000 → s.domOn 5 = true → Tab.get false s.undef 5 = false →
    ((s.dma e).from_ + 32 ≤ Desc.dst d ∨ Desc.dst d + n ≤ (s.dma e).from_) →
    ∃ t, exec (.dmaDescriptorDone e false 0) s = .next t ∧ t.get (Page.dma e) DMA.DMA_STAT.LAST_CODE = 0 ∧
      ∀ i < n, t.byte (Desc.dst d + i) = s.planeByte (Desc.src d + i)) ∧
  (∀ (s : State) (e moved : Nat), s.inReset = false → e < 4 → s.domOn 6 = true → s.dmaActive e = true →
    (s.dma e).code = none → s.get (Page.dma e) DMA.DMA_TMO.US ≠ 0 → s.dmaTimer e = true → ∃ t, exec (.dmaTimeout e moved) s = .next t ∧
      t.dmaActive e = false ∧ t.get (Page.dma e) DMA.DMA_STAT.LAST_CODE = 0x42 ∧
      (t.get (Page.dma e) HDR.IRQ_RAW.RAW).testBit 1 = true ∧ (moved = 0 → StoreClean s (s.dma e).from_ 32 →
        t.get Page.busm BUSM.MASTER_ABORT_COUNT.LAST = 9 + e ∧
        ∀ x, (x < (s.dma e).from_ + 28 ∨ (s.dma e).from_ + 32 ≤ x) → t.byte x = s.byte x))

/-- MARKER_RECEIVE, MARKER_MISSING (R246, R248, R252, R254, R270 to R272): on an aligned lane the marker of
the expected cycle is taken, any other and an invalid one count as missing; a trunk lane that hunts aligns
on the second of two consecutive markers; a marker received inverted turns the polarity round; the fourth
missing marker in a row takes a trunk lane to training and a spur to its hunt. INVALID_HEADER (R253, R260):
the header is counted and CONFIRM counts afresh; at 16 of 64 a locked lane loses header lock and alignment.
-/
def Obligations.BlocksAlignLanes : Prop :=
  ((∀ (s : State) (l : Nat) (body : Body) (arrive : Nat), s.receives l = true →
     let raw := if s.rxInverts l then ~~~body else body
     let b := descramble raw
     let m := markerOf b (s.lineBits arrive)
     (markerOk b = true → s.aligned l = true → m.cyc = (s.lane l).due → s.pairSkew l m = none →
       ∃ t, exec (.markerReceive l body arrive) s = .next t ∧ (t.lane l).due = (m.cyc + 1) % 2 ^ 32 ∧
         (t.lane l).miss = 0 ∧ (t.lane l).marks.head? = some m ∧ t.aligned l = true ∧
         t.get (Page.lane l) LANE.LANE_STAT.PARTNER_LIDX = m.lidx) ∧
     (s.aligned l = true → (markerOk b = true ∧ m.cyc ≠ (s.lane l).due ∨ markerOk b = false) →
       ∃ t, exec (.markerReceive l body arrive) s = .next t ∧ t.get (Page.lane l) LANE.MARKER_MISS_COUNT.COUNT =
           Nat.min (s.get (Page.lane l) LANE.MARKER_MISS_COUNT.COUNT + 1) 65535 ∧
         (markerOk b = false → t.get (Page.lane l) LANE.CTL_ERR_COUNT.COUNT =
           Nat.min (s.get (Page.lane l) LANE.CTL_ERR_COUNT.COUNT + 1) 65535)) ∧
     (markerOk b = true → s.aligned l = false → markerHead (~~~raw) = false → l < 8 →
       ∃ t, exec (.markerReceive l body arrive) s = .next t ∧
         (∀ c n, (s.lane l).seen = some (c, n) → m.cyc = (c + 1) % 2 ^ 32 → n < 1024 → t.aligned l = true) ∧
         ((s.lane l).seen = none → t.aligned l = false ∧ (t.lane l).seen = some (m.cyc, 0) ∧ Only [.lanes] s t)) ∧
     (s.aligned l = false → s.flag (Page.lane l) LANE.LANE_CTRL.AUTO_POL = true → markerHead (~~~raw) = true →
       ∃ t, exec (.markerReceive l body arrive) s = .next t ∧
         t.flag (Page.lane l) LANE.LANE_STAT.RX_INVERTED = !s.flag (Page.lane l) LANE.LANE_STAT.RX_INVERTED ∧
         OnlyRegs [(Page.lane l, 0x48)] s t ∧ Only [.fld, .lanes] s t)) ∧
   (∀ (s : State) (l : Nat), s.receives l = true → s.aligned l = true → ∃ t, exec (.markerMissing l) s = .next t ∧
       t.get (Page.lane l) LANE.MARKER_MISS_COUNT.COUNT =
         Nat.min (s.get (Page.lane l) LANE.MARKER_MISS_COUNT.COUNT + 1) 65535 ∧
       (t.get (Page.lane l) HDR.IRQ_RAW.RAW).testBit 4 = true ∧
       ((s.lane l).miss ≠ 3 → (t.lane l).miss = (s.lane l).miss + 1 ∧ t.phase l = s.phase l) ∧
       ((s.lane l).miss = 3 → s.laneUp l = true → l < 8 → t.phase l = Phase.waitGrant ∧
         (t.lane l).trainFrom ∈ [Phase.adapt, Phase.cdrLock]) ∧
       ((s.lane l).miss = 3 → s.laneUp l = true → 8 ≤ l → (t.lane l).hunting = true ∧ t.phase l = Phase.up)) ∧
   (∀ (s : State) (l : Nat) (body : Body) (arrive : Nat), s.receives l = false →
     exec (.markerReceive l body arrive) s = .next s ∧ exec (.markerMissing l) s = .next s)) ∧
  (∀ (s : State) (l : Nat), s.receives l = true → (8 ≤ l ∨ s.aligned l = true) →
     ∃ t, exec (.invalidHeader l) s = .next t ∧
       t.get (Page.lane l) LANE.HDR_ERR_COUNT.COUNT =
         Nat.min (s.get (Page.lane l) LANE.HDR_ERR_COUNT.COUNT + 1) (2 ^ 32 - 1) ∧
       ((s.lane l).hdrLock = true → 16 ≤ ((false :: (s.lane l).hdrs).take 64).count false →
         t.aligned l = false ∧ (t.lane l).hdrLock = false ∧ (t.get (Page.lane l) HDR.IRQ_RAW.RAW).testBit 5 = true) ∧
       ((s.lane l).hdrLock = false → (t.lane l).confDone = false ∧ (t.lane l).hdrs = [] ∧ t.phase l = s.phase l ∧
         OnlyRegs [(Page.lane l, 0x6C)] s t ∧ Only [.fld, .lanes] s t))

/-- IDLE_RECEIVE, SERVICE_RECEIVE, TS1_RECEIVE, TS2_RECEIVE, LOOP_TEST_RECEIVE (R246, R257, R260, R261,
R277, R303): on an aligned lane, or a spur that holds header lock, an invalid block is counted and
discarded; an idle block counts its wrong bits; a host message joins the FIFO of 16 or is lost with SVC_OVF;
TS1 takes a lane out of UP; TS2 with CONF_DONE takes a lane that has counted its time to UP; a loop-test
block is returned once or ends the test. -/
def Obligations.ControlBlocksReceived : Prop :=
  (∀ (s : State) (l : Nat) (body : Body) (arrive : Nat) (i : Instr) (ok : Bool), s.receives l = true →
    (i, ok) ∈ [(Instr.idleReceive l body, ctlOk body Ctl.idle false),
      (.serviceReceive l body arrive, ctlOk body Ctl.service true && decide (arrive < 2 ^ 64)),
      (.ts1Receive l body, ctlOk body Ctl.ts1 true), (.ts2Receive l body, ctlOk body Ctl.ts2 true),
      (.loopTestReceive l body, ctlOk body Ctl.loopTest true)] →
    ∃ t, exec i s = .next t ∧ ((s.goodHeader l).readsBlocks l = false → Only [.lanes] s t) ∧
      ((s.goodHeader l).readsBlocks l = true → ok = false → t.get (Page.lane l) LANE.CTL_ERR_COUNT.COUNT =
        Nat.min (s.get (Page.lane l) LANE.CTL_ERR_COUNT.COUNT + 1) 65535 ∧ (t.lane l).confDone = false ∧
        OnlyRegs [(Page.lane l, 0x70)] s t ∧ Only [.fld, .lanes] s t)) ∧
  (∀ (s : State) (l : Nat) (body : Body), s.receives l = true → s.readsBlocks l = true → ctlOk body Ctl.idle false = true →
    ∃ t, exec (.idleReceive l body) s = .next t ∧ t.get (Page.lane l) LANE.IDLE_ERR_COUNT.COUNT =
      Nat.min (s.get (Page.lane l) LANE.IDLE_ERR_COUNT.COUNT + ones body.toNat 190) (2 ^ 32 - 1)) ∧
  (∀ (s : State) (l : Nat) (body : Body) (arrive : Nat), s.receives l = true → s.readsBlocks l = true →
    ctlOk body Ctl.service true = true → arrive < 2 ^ 64 → 1 ≤ bodyField body 64 8 → bodyField body 64 8 ≤ 0x3F →
    ∃ t, exec (.serviceReceive l body arrive) s = .next t ∧
      ((s.port (portOf l)).svcRx.length < 16 → (t.port (portOf l)).svcRx = (s.port (portOf l)).svcRx ++ [svcWords body] ∧
        t.get (portPage (portOf l)) TRUNK.SVC_STAT.RX_LEVEL = (s.port (portOf l)).svcRx.length + 1 ∧
        (t.get (portPage (portOf l)) HDR.IRQ_RAW.RAW).testBit 4 = true) ∧
      (16 ≤ (s.port (portOf l)).svcRx.length → (t.port (portOf l)).svcRx = (s.port (portOf l)).svcRx ∧
        t.flag (portPage (portOf l)) TRUNK.SVC_STAT.SVC_OVF = true ∧
        (t.get (portPage (portOf l)) HDR.IRQ_RAW.RAW).testBit 5 = true)) ∧
  (∀ (s : State) (l : Nat) (body : Body), s.receives l = true → s.readsBlocks l = true → ctlOk body Ctl.ts1 true = true →
    ∃ t, exec (.ts1Receive l body) s = .next t ∧ t.get (Page.lane l) LANE.PARTNER.NODE_ID = bodyField body 72 16 ∧
      (s.laneUp l = true → t.phase l = Phase.waitGrant ∧
        (t.lane l).trainFrom = (if s.aligned l then Phase.adapt else Phase.cdrLock) ∧
        t.get (Page.lane l) LANE.RECOVERY_COUNT.RETRAIN =
          Nat.min (s.get (Page.lane l) LANE.RECOVERY_COUNT.RETRAIN + 1) 65535) ∧
      (s.phase l = Phase.adapt ∨ s.phase l = Phase.confirm → bodyField body 68 2 ≠ (if 8 ≤ l then 1 else 0) →
        t.get (Page.lane l) LANE.TRAIN_INFO.FAIL_CAUSE = 3 ∧ t.phase l ∈ [Phase.backoff, Phase.listen])) ∧
  (∀ (s : State) (l : Nat) (body : Body), s.receives l = true → s.readsBlocks l = true → ctlOk body Ctl.ts2 true = true →
    ∃ t, exec (.ts2Receive l body) s = .next t ∧ (s.laneUp l = true → Only [.lanes] s t) ∧
      (s.phase l = Phase.confirm → (s.lane l).confDone = true → bodyField body 90 1 = 1 →
        bodyField body 68 2 = (if 8 ≤ l then 1 else 0) → bodyField body 88 2 = s.get (Page.lane l) LANE.LANE_CTRL.RATE →
        t.phase l = Phase.up ∧ (t.get (Page.lane l) HDR.IRQ_RAW.RAW).testBit 0 = true ∧
        t.get (Page.lane l) LANE.TRAIN_INFO.ATTEMPT = 0)) ∧
  (∀ (s : State) (l : Nat) (body : Body), s.receives l = true → s.readsBlocks l = true → ctlOk body Ctl.loopTest true = true →
    ∃ t, exec (.loopTestReceive l body) s = .next t ∧
      (bodyField body 64 1 = 0 → (t.lane l).loops = (s.lane l).loops ++
        [⟨true, bodyField body 72 16, Word.ofNat (bodyField body 88 32)⟩]) ∧
      (bodyField body 64 1 = 1 → bodyField body 72 16 = s.nodeId →
        t.flag (Page.lane l) LANE.LT_STAT.PENDING = false ∧ t.flag (Page.lane l) LANE.LT_STAT.DONE = true ∧
        t.get (Page.lane l) LANE.LT_RET.TOKEN = bodyField body 88 32 ∧ t.flag (Page.lane l) LANE.LT_STAT.MATCH =
          decide (bodyField body 88 32 = s.get (Page.lane l) LANE.LT_TOKEN.TOKEN) ∧
        (t.get (Page.lane l) HDR.IRQ_RAW.RAW).testBit 8 = true))

/-- RETRAIN, LANE_ENABLE, LANE_TRAIN_GRANTED (R255): an enabled lane asks for its grant and waits; without
EN the lane is DISABLED; with the grant it enters the phase at which its attempt starts.
TRAIN_PHASE_ADVANCE, CONFIRM_COUNT_DONE (R256, R260, R266): DETECT goes to CDR_LOCK with energy, CDR_LOCK to
BLOCK_LOCK with the clock recovered, an aligned BLOCK_LOCK to ADAPT, ADAPT to CONFIRM with an open eye and
no request of its own unanswered; the end of CONFIRM's 1 ms is noted. -/
def Obligations.LaneTrainingAdvances : Prop :=
  ((∀ (s : State) (l : Nat), l < 12 → s.Takes (Page.lane l) → ∃ t, exec (.retrain l) s = .next t ∧
       (s.enabled (Page.lane l) = true → s.testing l = false → t.phase l = Phase.waitGrant ∧
         (t.lane l).trainFrom = Phase.detect ∧ t.get (Page.lane l) LANE.TRAIN_INFO.ATTEMPT = 0 ∧
         (⟨Kind.laneTrain, l⟩ : Req) ∈ t.ledger.fresh) ∧
       (s.enabled (Page.lane l) = false ∨ s.testing l = true → t = s)) ∧
   (∀ (s : State) (l : Nat) (en : Bool), l < 12 → s.inReset = false → s.notReady (Page.lane l) = false →
     s.locked (Page.lane l) = false → ∃ t, exec (.laneEnable l en) s = .next t ∧ t.enabled (Page.lane l) = en ∧
       (s.laneOn = true → s.enabled (Page.lane l) = false → s.testing l = false → en = true →
         t.phase l = Phase.waitGrant ∧ (t.lane l).trainFrom = Phase.detect ∧
         t.get (Page.lane l) LANE.TRAIN_INFO.ATTEMPT = 0 ∧ (⟨Kind.laneTrain, l⟩ : Req) ∈ t.ledger.fresh) ∧
       (s.laneOn = true → s.enabled (Page.lane l) = true → s.testing l = false → en = false →
         t.phase l = Phase.disabled ∧ t.aligned l = false) ∧
       (s.laneOn = false ∨ s.enabled (Page.lane l) = en ∨ s.testing l = true →
         OnlyRegs [(Page.lane l, 0x08)] s t ∧ Only [.fld] s t)) ∧
   (∀ (s : State) (l : Nat), l < 12 → s.laneOn = true → s.phase l = Phase.waitGrant →
     s.holds Kind.laneTrain l = true → ∃ t, exec (.laneTrainGranted l) s = .next t ∧
       ((s.lane l).trainFrom = Phase.detect → t.phase l = Phase.detect ∧ t.aligned l = false ∧ (t.lane l).sd = 0 ∧
         t.flag (Page.lane l) LANE.LANE_STAT.CDR_LOCKED = false) ∧
       ((s.lane l).trainFrom = Phase.cdrLock → t.phase l = Phase.cdrLock ∧ t.aligned l = false ∧
         t.flag (Page.lane l) LANE.LANE_STAT.CDR_LOCKED = false) ∧
       ((s.lane l).trainFrom = Phase.adapt → t.phase l = Phase.adapt ∧ OnlyRegs [(Page.lane l, 0x48)] s t ∧
         Only [.fld] s t))) ∧
  (∀ (s : State) (l : Nat), l < 12 → s.laneOn = true →
     (∃ t, exec (.trainPhaseAdvance l) s = .next t ∧
       (s.phase l = Phase.detect → t.phase l = Phase.cdrLock ∧ t.flag (Page.lane l) LANE.LANE_STAT.ENERGY = true ∧
         OnlyRegs [(Page.lane l, 0x48)] s t) ∧
       (s.phase l = Phase.cdrLock → t.phase l = Phase.blockLock ∧ t.aligned l = false ∧
         t.flag (Page.lane l) LANE.LANE_STAT.CDR_LOCKED = true ∧ (t.getI (Page.lane l) LANE.FREQ_OFF.PPB).natAbs ≤ 51200000 ∧
         OnlyRegs [(Page.lane l, 0x48), (Page.lane l, 0x58)] s t) ∧
       (s.phase l = Phase.blockLock → t.phase l = if s.aligned l then Phase.adapt else Phase.blockLock) ∧
       (s.phase l = Phase.adapt → (s.lane l).ffeReq ≠ 15 → t = s) ∧
       (s.phase l = Phase.adapt → (s.lane l).ffeReq = 15 →
         t.phase l = Phase.confirm ∧ 20 ≤ t.get (Page.lane l) LANE.RXEQ_STAT.EYE_H ∧
         16 ≤ t.get (Page.lane l) LANE.RXEQ_STAT.EYE_W ∧ (t.lane l).confDone = false ∧
         OnlyRegs [(Page.lane l, 0x48), (Page.lane l, 0x64)] s t) ∧
       ((s.phase l < 2 ∨ 5 < s.phase l) → t = s) ∧ Only [.fld, .freeCtr, .lanes] s t) ∧
     (s.phase l = Phase.confirm → ∃ t, exec (.confirmCountDone l) s = .next t ∧ (t.lane l).confDone = true ∧
       (∀ k, k ≠ l → t.lane k = s.lane k) ∧ Only [.lanes] s t))

/-- TRAIN_PHASE_TIMEOUT, TRAIN_TOTAL_TIMEOUT (R256, R262): a failed attempt is recorded with its phase and
cause, logged with code 0x40 and gives its grant back; the lane backs off 100 ms, doubled each time, and
after the sixth listens. BACKOFF_EXPIRY, ENERGY_DETECT, BEACON_BURST, SPUR_HUNT_TIMEOUT (R262, R263, R272):
the end of the wait starts the next attempt with the count kept; energy does so at once, and in LISTEN
starts a new sequence; a beacon sends blocks for 8 cycles; a spur that hunts too long trains. -/
def Obligations.LaneTrainingRecovers : Prop :=
  (∀ (s : State) (l cause : Nat) (i : Instr), l < 12 → s.laneOn = true → 2 ≤ s.phase l → s.phase l ≤ 6 →
     (i, cause) ∈ [(Instr.trainPhaseTimeout l, 1), (.trainTotalTimeout l, 2)] → ∃ t, exec i s = .next t ∧
       let n := Nat.min 6 (s.get (Page.lane l) LANE.TRAIN_INFO.ATTEMPT + 1)
       t.get (Page.lane l) LANE.TRAIN_INFO.FAIL_PHASE = s.phase l ∧
       t.get (Page.lane l) LANE.TRAIN_INFO.FAIL_CAUSE = cause ∧ t.get (Page.lane l) LANE.TRAIN_INFO.ATTEMPT = n ∧
       t.get (Page.lane l) HDR.ERR_LAST.CODE = 0x40 ∧ (t.get (Page.lane l) HDR.IRQ_RAW.RAW).testBit 2 = true ∧
       (n < 6 → t.phase l = Phase.backoff ∧ t.get (Page.lane l) LANE.TRAIN_INFO.BACKOFF_MS = 100 * 2 ^ (n - 1)) ∧
       (n = 6 → t.phase l = Phase.listen ∧ (t.get (Page.lane l) HDR.IRQ_RAW.RAW).testBit 3 = true) ∧
       (s.holds Kind.laneTrain l = true → (⟨Kind.laneTrain, l⟩ : Req) ∈ t.ledger.rel) ∧
       t.aligned l = false ∧ Only [.fld, .lanes, .ledger] s t) ∧
  ((∀ (s : State) (l : Nat) (i : Instr), l < 12 → s.laneOn = true → s.phase l = Phase.backoff →
     i ∈ [.backoffExpiry l, .energyDetect l] → ∃ t, exec i s = .next t ∧ t.phase l = Phase.waitGrant ∧
       (t.lane l).trainFrom = (if s.testing l then Phase.test else Phase.detect) ∧
       t.get (Page.lane l) LANE.TRAIN_INFO.ATTEMPT = s.get (Page.lane l) LANE.TRAIN_INFO.ATTEMPT ∧
       (⟨Kind.laneTrain, l⟩ : Req) ∈ t.ledger.fresh) ∧
   (∀ (s : State) (l : Nat), l < 12 → s.laneOn = true → s.phase l = Phase.listen →
     (∃ t, exec (.energyDetect l) s = .next t ∧ t.phase l = Phase.waitGrant ∧ (t.lane l).trainFrom = Phase.detect ∧
       t.get (Page.lane l) LANE.TRAIN_INFO.ATTEMPT = 0 ∧
       (t.get (Page.lane l) HDR.IRQ_RAW.RAW).testBit 10 = true) ∧
     (s.flag (Page.lane l) LANE.LANE_CTRL.BEACON = true → ∃ t, exec (.beaconBurst l) s = .next t ∧
       (t.lane l).burst = 9 ∧ t.get (Page.lane l) LANE.LANE_STAT.TX_STATE = 0 ∧
       OnlyRegs [(Page.lane l, 0x48)] s t ∧ Only [.fld, .lanes] s t)) ∧
   (∀ (s : State) (l : Nat), 8 ≤ l → l < 12 → s.laneOn = true → (s.lane l).hunting = true →
     ∃ t, exec (.spurHuntTimeout l) s = .next t ∧ t.phase l = Phase.waitGrant ∧ (t.lane l).hunting = false ∧
       (t.lane l).trainFrom ∈ [Phase.adapt, Phase.cdrLock] ∧ t.get (Page.lane l) LANE.TRAIN_INFO.ATTEMPT = 0))

/-- TEST_CTRL_WRITE, CHK_RESTART, CHK_LOCKED, CHK_LOCK_LOST, CHK_BITS_LO_READ (R273, R274): a test starts
from DISABLED or LISTEN with a grant and ends with a write of 0; the checker's lock, its count of bits and
the wrong bits that lose it (at least 64 from a line, those not injected in a loopback of the lane's own
pattern: log entry 96); a read of CHK_BITS_LO latches the high half. INJ_GO, INJ_PERIOD, LT_SEND, LT_TIMEOUT
(R275, R277): an injection inverts one bit, or a burst of them, in the phases that allow it, but none of a
header in TEST; a loop test is queued while the lane is UP and none is pending, and ends after 16 cycles. -/
def Obligations.LaneTestsAndInjection : Prop :=
  ((∀ (s : State) (l : Nat) (v : Word), l < 12 → s.Takes (Page.lane l) → ∃ t, exec (.testCtrlWrite l v) s = .next t ∧
       let gen := bits v.toNat 0 3
       let chk := bits v.toNat 4 3
       let loop := bits v.toNat 8 2
       let idle := decide (gen = 0 ∧ chk = 0 ∧ loop = 0)
       (4 < gen ∨ 4 < chk → Logged (Page.lane l) Code.range s t) ∧
       (gen ≤ 4 → chk ≤ 4 → idle = false → s.phase l ∉ [Phase.test, Phase.disabled, Phase.listen] →
         Logged (Page.lane l) Code.refused s t) ∧
       (gen ≤ 4 → chk ≤ 4 → (idle = true ∨ s.phase l ∈ [Phase.test, Phase.disabled, Phase.listen]) →
         t.get (Page.lane l) LANE.TEST_CTRL.PATGEN = gen ∧ t.get (Page.lane l) LANE.TEST_CTRL.PATCHK = chk ∧
         t.get (Page.lane l) LANE.TEST_CTRL.LOOPBACK = loop) ∧
       (gen ≤ 4 → chk ≤ 4 → idle = false → s.phase l = Phase.test → t.phase l = Phase.test) ∧
       (gen ≤ 4 → chk ≤ 4 → idle = false → s.phase l ∈ [Phase.disabled, Phase.listen] →
         t.phase l = Phase.waitGrant ∧ (t.lane l).trainFrom = Phase.test ∧
         (⟨Kind.laneTrain, l⟩ : Req) ∈ t.ledger.fresh) ∧
       (idle = true → s.phase l = Phase.test → t.flag (Page.lane l) LANE.CHK_STAT.LOCKED = false ∧
         t.phase l = if s.enabled (Page.lane l) then Phase.waitGrant else Phase.disabled)) ∧
   (∀ (s : State) (l : Nat), l < 12 → s.Takes (Page.lane l) → ∃ t, exec (.chkRestart l) s = .next t ∧
       t.flag (Page.lane l) LANE.CHK_STAT.LOCKED = false ∧ t.chkCount l = 0 ∧
       OnlyRegs [(Page.lane l, 0xB0)] s t ∧ Only [.fld, .lanes] s t) ∧
   (∀ (s : State) (l : Nat), l < 12 → s.laneOn = true →
     (s.phase l = Phase.test → s.get (Page.lane l) LANE.TEST_CTRL.PATCHK ≠ 0 →
       (s.ownPattern l = true → s.patternFits l = true) → ∃ t, exec (.chkLocked l) s = .next t ∧
       t.flag (Page.lane l) LANE.CHK_STAT.LOCKED = true ∧ t.chkCount l = s.chkCount l % 2 ^ 64 ∧
       OnlyRegs [(Page.lane l, 0xB0)] s t ∧ Only [.fld, .lanes] s t) ∧
     (s.flag (Page.lane l) LANE.CHK_STAT.LOCKED = true → ∃ t, exec (.chkLockLost l) s = .next t ∧
       t.flag (Page.lane l) LANE.CHK_STAT.LOCKED = false ∧
       (let was := s.get (Page.lane l) LANE.CHK_ERR_COUNT.COUNT
        let now := t.get (Page.lane l) LANE.CHK_ERR_COUNT.COUNT
        if s.ownPattern l && s.patternFits l then Nat.min was (2 ^ 32 - 1) ≤ now ∧ now ≤ Nat.min (was + 64) (2 ^ 32 - 1)
        else Nat.min (was + 64) (2 ^ 32 - 1) ≤ now) ∧ Raised (Page.lane l) 7 s t ∧
       t.chkCount l = s.chkCount l % 2 ^ 64 ∧
       OnlyRegs [(Page.lane l, 0xB0), (Page.lane l, 0xB4), (Page.lane l, 0x10)] s t ∧ Only [.fld, .lanes, .freeCtr] s t)) ∧
   (∀ (s : State) (l : Nat), l < 12 → s.inReset = false → s.pageOn (Page.lane l) = true →
     ∃ t, exec (.chkBitsLoRead l) s = .next t ∧ t.readData = [Word.ofNat (s.chkCount l)] ∧
       t.get (Page.lane l) LANE.CHK_BITS_HI.BITS = s.chkCount l / 2 ^ 32 % 2 ^ 32 ∧
       OnlyRegs [(Page.lane l, 0xB8), (Page.lane l, 0xBC)] s t ∧ Only [.fld, .readData] s t)) ∧
  ((∀ (s : State) (l : Nat) (v : Word), l < 12 → s.Takes (Page.lane l) → ∃ t, exec (.injGo l v) s = .next t ∧
       let kind := bits v.toNat 0 2
       let burst := bits v.toNat 2 6
       (kind = 3 ∨ kind = 2 ∧ s.phase l = Phase.test → Logged (Page.lane l) Code.range s t) ∧
       (kind ≠ 3 → ¬ (kind = 2 ∧ s.phase l = Phase.test) → t.get (Page.lane l) LANE.INJ_CTRL.KIND = kind ∧
         t.get (Page.lane l) LANE.INJ_CTRL.BURST_LEN = burst ∧
         t.get (Page.lane l) LANE.INJ_CTRL.PERIOD = bits v.toNat 16 16 ∧
         (s.injectable l = true → (t.lane l).injBits = (s.lane l).injBits + (if kind = 1 then burst + 1 else 1) ∧
           (t.lane l).injOn = decide (bits v.toNat 16 16 ≠ 0) ∧
           (t.lane l).injs.map (fun i => (i.header, i.len)) = (s.lane l).injs.map (fun i => (i.header, i.len)) ++
             [(kind == 2, if kind = 1 then burst + 1 else 1)]) ∧
         (s.injectable l = false → (t.lane l).injBits = (s.lane l).injBits)) ∧ Only [.fld, .freeCtr, .lanes] s t) ∧
   (∀ (s : State) (l : Nat), l < 12 → s.laneOn = true → (s.lane l).injOn = true → s.injectable l = true →
     s.phase l = Phase.test → s.get (Page.lane l) LANE.INJ_CTRL.KIND = 2 →
     ∃ t, exec (.injPeriod l) s = .next t ∧ Logged (Page.lane l) Code.range s t) ∧
   (∀ (s : State) (l : Nat), l < 12 → s.laneOn = true → (s.lane l).injOn = true → s.injectable l = true →
     ¬ (s.phase l = Phase.test ∧ s.get (Page.lane l) LANE.INJ_CTRL.KIND = 2) →
     ∃ t, exec (.injPeriod l) s = .next t ∧ (t.lane l).injBits = (s.lane l).injBits +
         (if s.get (Page.lane l) LANE.INJ_CTRL.KIND = 1 then s.get (Page.lane l) LANE.INJ_CTRL.BURST_LEN + 1 else 1) ∧
       (s.phase l ≠ Phase.test → t.fld = s.fld) ∧ Only [.fld, .freeCtr, .lanes] s t) ∧
   (∀ (s : State) (l : Nat), l < 12 → s.Takes (Page.lane l) → ∃ t, exec (.ltSend l) s = .next t ∧
       (s.flag (Page.lane l) LANE.LT_STAT.PENDING = true ∨ s.laneUp l = false →
         Logged (Page.lane l) Code.refused s t) ∧
       (s.flag (Page.lane l) LANE.LT_STAT.PENDING = false → s.laneUp l = true →
         t.flag (Page.lane l) LANE.LT_STAT.PENDING = true ∧ t.flag (Page.lane l) LANE.LT_STAT.DONE = false ∧
         (t.lane l).loops = (s.lane l).loops ++
           [⟨false, s.nodeId, Word.ofNat (s.get (Page.lane l) LANE.LT_TOKEN.TOKEN)⟩] ∧
         OnlyRegs [(Page.lane l, 0xC8)] s t) ∧ Only [.fld, .lanes] s t) ∧
   (∀ (s : State) (l : Nat), l < 12 → s.laneOn = true → s.flag (Page.lane l) LANE.LT_STAT.PENDING = true →
     ∃ t, exec (.ltTimeout l) s = .next t ∧ t.flag (Page.lane l) LANE.LT_STAT.PENDING = false ∧
       Raised (Page.lane l) 9 s t ∧ OnlyRegs [(Page.lane l, 0xC8), (Page.lane l, 0x10)] s t ∧ Only [.fld] s t))

/-- CELL_RECEIVE, SPUR_CELL_RECEIVE, WRAPPED_CELL_EXPIRY (R281, R283, R285, R288, R289, R293 to R295): a
cell is counted, one older than AGE_MAX counts as an error, a stripped cell ends here, a new copy in time is
written to its stream's buffer and a duplicate is not; nothing is taken before insertion; a cell behind a
valid marker takes a lane that has counted its time to UP (R260); the wrapped cell that has waited longest
is dropped at its expiry, and counted unless it is one that R283 counts nowhere. -/
def Obligations.CellsReceived : Prop :=
  (∀ (s : State) (p : Nat) (cell : Cell) (arrive : Nat), p < 8 → s.laneOn = true → s.carrying p = true →
    (p < 4 → s.inserted p = true) →
    let i := if p < 4 then Instr.cellReceive p cell arrive else .spurCellReceive (p - 4) cell arrive
    let l := if p < 4 then s.cellArrives p cell else p + 4
    let o := (cellOrigin cell s.cycle).1
    let age := (cellOrigin cell s.cycle).2
    let id := s.governs cell.stream.toNat
    let e := s.streamEnt id
    let j := sampleIndex e.rate cell.stream.toNat o
    let m := Tab.get none s.ring.merge id
    let stripped := decide (p < 4 ∧ (e.role p).1 = 2 ∧ cell.wrap = false)
    s.phase l ≠ Phase.confirm → ∃ t, exec i s = .next t ∧
      (s.get Page.ring RING.RING_CFG.AGE_MAX < age → t.get (portPage p) TRUNK.CELL_ERR_COUNT.COUNT =
          Nat.min (s.get (portPage p) TRUNK.CELL_ERR_COUNT.COUNT + 1) (2 ^ 32 - 1) ∧
        Raised (portPage p) 2 s t ∧ OnlyRegs [(portPage p, 0x54), (portPage p, 0x10)] s t ∧ Only [.fld, .lanes] s t) ∧
      (age ≤ s.get Page.ring RING.RING_CFG.AGE_MAX → oddHalfRate e o = false →
        t.get (portPage p) TRUNK.CELLS_RX.COUNT =
          Nat.min (s.get (portPage p) TRUNK.CELLS_RX.COUNT + 1) (2 ^ 32 - 1) ∧
        (stripped = true → t.get (portPage p) TRUNK.STRIP_COUNT.COUNT =
            Nat.min (s.get (portPage p) TRUNK.STRIP_COUNT.COUNT + 1) 65535 ∧
          OnlyRegs [(portPage p, 0x4C), (portPage p, 0x58)] s t ∧ Only [.fld, .lanes] s t) ∧
        (stripped = false → s.extracts e = true → copyTest m s.mergeWin j = .new → s.onTime e o arrive = true →
          s.storeOk (entryAddr e j) = true → Tab.get none t.ring.merge id = some (copyMark m j) ∧
          (∀ k, k < 7 → t.word (entryAddr e j + 4 * k) = cell.samples.getD k 0) ∧
          t.bufEntry id j = some (cell.sub, (List.range 7).map (fun k => cell.samples.getD k 0)) ∧
          ∀ x, (x < entryAddr e j ∨ entryAddr e j + 32 ≤ x) → t.byte x = s.byte x) ∧
        (stripped = false → s.extracts e = true → copyTest m s.mergeWin j = .dup → t.mem = s.mem) ∧
        (stripped = false → s.extracts e = true → copyTest m s.mergeWin j = .new → s.onTime e o arrive = false →
          t.mem = s.mem ∧ t.get Page.ring RING.LATE_COUNT.COUNT =
            Nat.min (s.get Page.ring RING.LATE_COUNT.COUNT + 1) (2 ^ 32 - 1) ∧
          (t.get Page.ring HDR.IRQ_RAW.RAW).testBit 1 = true)) ∧
      (∀ k, k ≠ l → t.lane k = s.lane k) ∧ Only [.ecc, .fld, .lanes, .mem, .ring] s t) ∧
  (∀ (s : State) (p : Nat) (cell : Cell) (arrive : Nat), p < 4 → s.inserted p = false ∨ s.carrying p = false →
    ∃ t, exec (.cellReceive p cell arrive) s = .next t ∧
      (s.phase (s.cellArrives p cell) ≠ Phase.confirm → Only [.lanes] s t)) ∧
  (∀ (s : State) (p : Nat) (cell : Cell) (arrive : Nat), p < 8 →
    let i := if p < 4 then Instr.cellReceive p cell arrive else .spurCellReceive (p - 4) cell arrive
    let l := if p < 4 then s.cellArrives p cell else p + 4
    s.receives l = true → s.readsBlocks l = true → s.phase l = Phase.confirm → (s.lane l).confDone = true →
    (s.lane l).afterMark = true → ∃ t, exec i s = .next t ∧ t.phase l = Phase.up ∧
      (t.get (Page.lane l) HDR.IRQ_RAW.RAW).testBit 0 = true) ∧
  (∀ (s : State) (t : Nat) (c : TxCell) (q : List TxCell), t < 4 → s.laneOn = true → (s.port t).waitq = c :: q →
    ∃ u, exec (.wrappedCellExpiry t) s = .next u ∧ (u.port t).waitq = q ∧
      (c.quiet = false → u.get (Page.trunk t) TRUNK.WRAP_DROP_COUNT.COUNT =
        Nat.min (s.get (Page.trunk t) TRUNK.WRAP_DROP_COUNT.COUNT + 1) 65535 ∧ Raised (Page.trunk t) 3 s u) ∧
      (c.quiet = true → u.fld = s.fld) ∧
      OnlyRegs [(Page.trunk t, 0x5C), (Page.trunk t, 0x10)] s u ∧ Only [.fld, .ring] s u)

/-- INS_SET, INSERTION_PROCEED, INS_DONE, INS_FAIL, INS_CLEAR (R300 to R302): a ring waits for its trunks
and for time, then drives its bypass pin, is INSERTED when other nodes stand at both ends, and FAILED with
the pin released otherwise; clearing INS bypasses it and ends its wraps. SVC_SEND, SVC_POP, STREAM_STAT_READ
(R296, R303): a host message waits for its slot, refused while one waits, RANGE for a channel of the device;
POP drops the head of the receive FIFO; the stream's four counters are returned and cleared. -/
def Obligations.RingInsertionAndService : Prop :=
  ((∀ (s : State) (b : Bool), s.Takes Page.ring →
     (∃ t, exec (.insSet b) s = .next t ∧ t.flag Page.ring (insFld b) = true ∧
       (s.flag Page.ring (insFld b) = false → t.ringState b = 1) ∧ (s.flag Page.ring (insFld b) = true → t = s) ∧
       t.ringState (!b) = s.ringState (!b) ∧ OnlyRegs [(Page.ring, 0x48), (Page.ring, 0x4C)] s t ∧ Only [.fld] s t) ∧
     ∃ t, exec (.insClear b) s = .next t ∧ t.flag Page.ring (insFld b) = false ∧ t.ringState b = 0 ∧
       t.flag Page.ring (if b then RING.BYP_STAT.BYPB_DRIVEN else RING.BYP_STAT.BYPA_DRIVEN) = false ∧
       t.ringState (!b) = s.ringState (!b) ∧
       (∀ k ∈ ringTrunks b, t.flag (Page.trunk k) TRUNK.PORT_STAT.WRAPPING = false ∧
         (s.flag (Page.trunk k) TRUNK.PORT_STAT.WRAPPING = true → Raised (Page.trunk k) 1 s t)) ∧
       OnlyRegs ([(Page.ring, 0x48), (Page.ring, 0x4C)] ++ (ringTrunks b).flatMap
         (fun k => [(Page.trunk k, 0x40), (Page.trunk k, 0x10)])) s t ∧ Only [.fld] s t) ∧
   (∀ (s : State) (b : Bool), s.laneOn = true →
     (s.ringState b = 1 → s.insReady b = true → ∃ t, exec (.insertionProceed b) s = .next t ∧
       ((ringTrunks b).all s.foreignPartner = true → t.ringState b = 3 ∧ Raised Page.ring 6 s t) ∧
       ((ringTrunks b).all s.foreignPartner = false → t.ringState b = 2 ∧
         t.flag Page.ring (if b then RING.BYP_STAT.BYPB_DRIVEN else RING.BYP_STAT.BYPA_DRIVEN) = true) ∧
       OnlyRegs [(Page.ring, 0x4C), (Page.ring, 0x10)] s t ∧ Only [.fld] s t) ∧
     (s.ringState b = 2 → (ringTrunks b).all s.carrying = true → (ringTrunks b).all s.foreignPartner = true →
       ∃ t, exec (.insDone b) s = .next t ∧ t.ringState b = 3 ∧ Raised Page.ring 6 s t ∧
       OnlyRegs [(Page.ring, 0x4C), (Page.ring, 0x10)] s t ∧ Only [.fld] s t) ∧
     (s.ringState b = 2 → ∃ t, exec (.insFail b) s = .next t ∧ t.ringState b = 4 ∧ Raised Page.ring 7 s t ∧
       t.flag Page.ring (if b then RING.BYP_STAT.BYPB_DRIVEN else RING.BYP_STAT.BYPA_DRIVEN) = false ∧
       OnlyRegs [(Page.ring, 0x4C), (Page.ring, 0x10)] s t ∧ Only [.fld] s t))) ∧
  ((∀ (s : State) (p : Nat), p < 8 → s.Takes (portPage p) → ∃ t, exec (.svcSend p) s = .next t ∧
       let sch := s.get (portPage p) (TRUNK.SVC_TX.DATA 0) % 256
       let busy := s.flag (portPage p) TRUNK.SVC_STAT.TX_PENDING
       (sch = 0 ∨ 0x3F < sch → Logged (portPage p) Code.range s t) ∧
       (1 ≤ sch → sch ≤ 0x3F → busy = true → Logged (portPage p) Code.refused s t) ∧
       (1 ≤ sch → sch ≤ 0x3F → busy = false → t.flag (portPage p) TRUNK.SVC_STAT.TX_PENDING = true ∧
         (t.port p).svcOut = (List.range 5).map (fun k => Word.ofNat (s.get (portPage p) (TRUNK.SVC_TX.DATA k))) ∧
         OnlyRegs [(portPage p, 0x98)] s t) ∧ Only [.fld, .ring] s t) ∧
   (∀ (s : State) (p : Nat), p < 8 → s.Takes (portPage p) → ∃ t, exec (.svcPop p) s = .next t ∧
       (t.port p).svcRx = (s.port p).svcRx.drop 1 ∧
       t.get (portPage p) TRUNK.SVC_STAT.RX_LEVEL = ((s.port p).svcRx.length - 1) % 32 ∧
       (∀ k, k < 5 → t.get (portPage p) (TRUNK.SVC_RX.DATA k) =
         ((((s.port p).svcRx.drop 1).headD []).getD k 0).toNat) ∧
       t.flag (portPage p) TRUNK.SVC_STAT.SVC_OVF = false ∧ Only [.fld, .ring] s t) ∧
   (∀ s : State, s.inReset = false → s.pageOn Page.ring = true → ∃ t, exec .streamStatRead s = .next t ∧
       t.readData = [s.streamStatWord] ∧ t.stat (s.get Page.ring RING.STREAM_SEL.STREAM) = ⟨0, 0, 0, 0⟩ ∧
       (∀ id, id ≠ s.get Page.ring RING.STREAM_SEL.STREAM → t.stat id = s.stat id) ∧ t.fld = s.fld ∧
       Only [.readData, .ring] s t))

/-- FREQ_MEASUREMENT, REF_ACTIVITY_LOSS, REF_ACTIVITY_RETURN (R308 to R310): a measurement of an enabled,
active reference stands in REFk_FOFF (with the median in use less the median of the qualified raw offsets);
a qualified reference beyond REJECT is disqualified, one that fits ACCEPT soaks; a reference that stops
being active is disqualified at once and loses its measurement. An input is active again as its edges
return, a port while its time lane is UP with fewer than four missing markers, the numeric reference while
NUM_FREQ is fresh. -/
def Obligations.ReferencesAreMeasured : Prop :=
  (∀ (s : State) (k : Nat) (raw : Word), s.inReset = false → k < 12 → s.refEn k = true → s.refActive k = true →
    let r := if isPortRef k then raw.toInt + s.getI Page.ref REF.DPLL_FREQ.VALUE else raw.toInt
    let off := if s.medianOn then r - medianOf
      ({ s with dpll := { s.dpll with raw := Tab.put none s.dpll.raw k (some r) } }).qualRaw else r
    let o := (satTo 32 off).1
    let bad := isPortRef k && (s.flag Page.ref (REF.REF_STAT.QL_BAD k) || s.flag Page.ref (REF.REF_STAT.LOOP k))
    let limit := fun (f : Fld) => s.get Page.ref f * 256
    let left := s.get Page.ref (REF.REF_STAT.SOAK_LEFT k)
    ∃ t, exec (.freqMeasurement k raw) s = .next t ∧ t.foff k = o ∧ Tab.get none t.dpll.raw k = some r ∧
      (isPortRef k = true → t.get (Page.lane (s.timeLane (k - 4))) LANE.FREQ_OFF.PPB = sat32Word raw.toInt) ∧
      (s.qualified k = true →
        t.qualified k = !(bad || decide (limit REF.QUAL_LIM.REJECT < o.natAbs)) ∧
        (t.qualified k = false → (t.get Page.ref HDR.IRQ_RAW.RAW).testBit 3 = true ∧
          t.flag Page.ref (REF.REF_STAT.TREND k) = false) ∧
        (t.qualified k = true → t.flag Page.ref (REF.REF_STAT.TREND k) =
          decide (limit REF.QUAL_LIM.REJECT ≤ 2 * o.natAbs))) ∧
      (s.qualified k = false → t.qualified k = false ∧ t.flag Page.ref (REF.REF_STAT.SOAKING k) =
          (decide (o.natAbs ≤ limit REF.QUAL_LIM.ACCEPT) && !bad) ∧
        (t.flag Page.ref (REF.REF_STAT.SOAKING k) = false → t.get Page.ref (REF.REF_STAT.SOAK_LEFT k) = 0) ∧
        (t.flag Page.ref (REF.REF_STAT.SOAKING k) = true → t.dpllState ≠ 4 →
          t.get Page.ref (REF.REF_STAT.SOAK_LEFT k) % 65536 =
          (if s.flag Page.ref (REF.REF_STAT.SOAKING k) then left - (if k = 3 then 160 else 1) else s.soakTime) % 65536))) ∧
  (∀ (s : State) (k : Nat) (raw : Word), (s.inReset = true ∨ 12 ≤ k ∨ s.refEn k = false ∨ s.refActive k = false) →
    exec (.freqMeasurement k raw) s = .next s) ∧
  (∀ (s : State) (k : Nat), s.inReset = false → k < 13 →
    let shown := if isPortRef k then s.laneUp (s.timeLane (k - 4)) && decide ((s.lane (s.timeLane (k - 4))).miss < 4)
      else k != 12 || s.dpll.numFresh
    (∃ t, exec (.refActivityLoss k) s = .next t ∧ t.refActive k = false ∧ (s.refActive k = false → k ≠ 12 → t = s) ∧
      (s.refActive k = true → Tab.get none t.dpll.raw k = none ∧ t.qualified k = false ∧
        (s.qualified k = true → (t.get Page.ref HDR.IRQ_RAW.RAW).testBit 3 = true) ∧
        (s.qualified k = false → t.flag Page.ref (REF.REF_STAT.SOAKING k) = false))) ∧
    ∃ t, exec (.refActivityReturn k) s = .next t ∧ t.refActive k = (shown && s.refEn k) ∧
      (s.refActive k = (shown && s.refEn k) → isPortRef k = false → t = s)) ∧
  (∀ s : State, s.inReset = false → ∃ t, exec (.refActivityLoss 12) s = .next t ∧ t.dpll.numFresh = false)

/-- SOAK_COMPLETE and selection (R310, R312, R316, R319 to R321): the reference whose soak ends is
qualified, and in AUTO the only eligible one is selected at once, which starts the loop in ACQUIRING; when
the only one is lost the DPLL goes from LOCKED to HOLDOVER with the mean of its history, or at once to LOST
where that was not all LOCKED. Where the holdover timer expires in the same MGMT_CLK cycle the soak does not
end (R408). -/
def Obligations.SelectionFollowsQualification : Prop :=
  (∀ (s : State) (k : Nat), s.inReset = false → k < 13 → s.flag Page.ref (REF.REF_STAT.SOAKING k) = true →
    s.hoExpires = false → s.refEn k = true → s.refActive k = true → (isPortRef k = true → s.flag Page.ref (REF.REF_STAT.QL_BAD k) = false ∧
      s.flag Page.ref (REF.REF_STAT.LOOP k) = false) →
    ∃ t, exec (.soakComplete k) s = .next t ∧ t.qualified k = true ∧
      t.flag Page.ref (REF.REF_STAT.SOAKING k) = false ∧ t.get Page.ref (REF.REF_STAT.SOAK_LEFT k) = 0 ∧
      (t.get Page.ref HDR.IRQ_RAW.RAW).testBit 2 = true ∧ t.eligible k = (isPortRef k != s.isMaster) ∧
      ((∀ j, j < 13 → j ≠ k → s.qualified j = false) → (isPortRef k != s.isMaster) = true → s.selected = none →
        s.get Page.ref REF.REF_CTRL.MODE = 0 → t.selected = some k ∧ t.dpllState = 1 ∧
        (t.get Page.ref HDR.IRQ_RAW.RAW).testBit 1 = true ∧ (s.dpllState ≠ 1 → (t.get Page.ref HDR.IRQ_RAW.RAW).testBit 0 = true))) ∧
  (∀ (s : State) (k : Nat), s.inReset = false → k < 13 → s.selected = some k → s.refActive k = true →
    s.qualified k = true → (∀ j, j < 13 → j ≠ k → s.qualified j = false) → s.dpllState = 2 →
    s.get Page.ref REF.REF_CTRL.MODE = 0 →
    let span := (s.dpll.ho.drop 1).take (s.get Page.ref REF.HO_CFG.AVG_S)
    let valid := span.length == s.get Page.ref REF.HO_CFG.AVG_S && span.all (·.locked)
    ∃ t, exec (.refActivityLoss k) s = .next t ∧ t.selected = none ∧ t.dpllState = (if valid then 3 else 4) ∧
      t.flag Page.ref REF.DPLL_STAT.HO_VALID = valid ∧ t.get Page.ref REF.HO_ELAPSED.VALUE = 0 ∧
      (valid = true → span ≠ [] → t.getI Page.ref REF.HO_FREQ.VALUE =
        (satTo 32 (roundDiv (span.map (·.freq)).sum span.length)).1) ∧
      (t.get Page.ref HDR.IRQ_RAW.RAW).testBit 0 = true ∧ (t.get Page.ref HDR.IRQ_RAW.RAW).testBit 1 = true) ∧
  (∀ (s : State) (k : Nat), (s.inReset = true ∨ 13 ≤ k ∨ s.flag Page.ref (REF.REF_STAT.SOAKING k) = false ∨
    s.hoExpires = true) →
    exec (.soakComplete k) s = .next s)

/-- DPLL_PHASE_SAMPLE, NUM_PHASE_WRITE, NUM_FREQ_WRITE, DPLL_LOCKED (R309, R316 to R318, R331, R332): a
sample of the selected reference stands in PHASE_ERR and the error history, the first one of a frequency
reference being built out; an error of a port beyond ALIGN_LIM asks for an ALIGN; the loop is of type 2, its
integral term summing the error, its proportional term within SLEW_MAX and at 0 while ALIGN_REQ stands, then
at the frequency measured of the port; SLEWING says that the term is at its limit (the damping factor and
the natural frequency of a bandwidth: log entry 30); DPLL_FREQ shows the steering less a phase step under
way, within R15; 16 samples beyond four times THRESH take a LOCKED loop to ACQUIRING, an error within THRESH
for TIME locks it. HOLDOVER_ESTIMATOR_MEAN, HOLDOVER_EVALUATE (R319 to R321): the 1 s means enter the
history of 256; each second of holdover or LOST advances HO_ELAPSED and the bound of R320, steers by R319
within R15, and a bound beyond TE_LIMIT ends HOLDOVER in LOST. -/
def Obligations.DpllAndHoldover : Prop :=
  (let took := fun (k : Nat) (raw : Int) (s t : State) =>
     let x := raw + (s.dpll.stepOff - roundDiv s.dpll.stepLeft 24576)
     let e := if isPortRef k then raw else match s.dpll.built with
       | some b => x - b
       | none => 0
     let held := isPortRef k && decide (s.get Page.ntime NTIME.ALIGN_LIM.NS * 1000 < e.natAbs)
     let far := if 4 * (s.get Page.ref REF.LOCK_CFG.THRESH * 1000) < e.natAbs then s.dpll.far + 1 else 0
     let lim : Nat := s.get Page.ntime NTIME.NT_CTRL.SLEW_MAX * 25600
     let w : Int := (Config.loopRate (s.get Page.ref (if s.dpllState = 2 then REF.DPLL_BW.LOCK_BW else REF.DPLL_BW.ACQ_BW)) : Nat)
     let n := match s.dpll.sampled with
       | some t => s.time.starts - t
       | none => 0
     let prop := -(roundDiv (w * e * 49152) (2 ^ 40))
     t.getI Page.ref REF.PHASE_ERR.VALUE = (satTo 32 e).1 ∧ t.dpll.hist = (e :: s.dpll.hist).take 256 ∧
     t.dpll.sampled = some s.time.starts ∧
     (held = false → t.dpll.integ = within (steerLimit * 2 ^ 80) (s.dpll.integ - w * w * e * n * 24576) ∧
       t.dpll.base = within steerLimit (roundDiv t.dpll.integ (2 ^ 80) + within lim prop)) ∧
     (held = true → t.dpll.base = within steerLimit (roundDiv t.dpll.integ (2 ^ 80)) ∧
       ∀ f ∈ Tab.get none s.dpll.raw k, t.dpll.integ = within steerLimit f * 2 ^ 80) ∧
     t.getI Page.ref REF.DPLL_FREQ.VALUE = within steerLimit (t.dpll.base - s.dpll.move) ∧
     t.flag Page.ntime NTIME.NT_STAT.SLEWING = (!held && decide (lim ≤ prop.natAbs)) ∧
     (isPortRef k = false → s.dpll.built = none → t.dpll.built = some x) ∧
     (isPortRef k = true ∨ s.dpll.built.isSome = true → t.dpll.built = s.dpll.built) ∧
     t.flag Page.ntime NTIME.NT_STAT.ALIGN_REQ = held ∧
     (s.dpllState = 2 → 16 ≤ far → t.dpllState = 1 ∧ (t.get Page.ref HDR.IRQ_RAW.RAW).testBit 0 = true ∧ t.dpll.far = 0) ∧
     (s.dpllState ≠ 2 ∨ far < 16 → t.dpllState = s.dpllState ∧ t.dpll.far = far ∧ t.dpll.inThresh =
       decide (e.natAbs ≤ s.get Page.ref REF.LOCK_CFG.THRESH * 1000)) ∧
     Only [.fld, .dpll] s t
   (∀ (s : State) (err : Word) (k : Nat), s.inReset = false → s.selected = some k → k < 13 →
     (k ≤ 2 → ∃ t, exec (.dpllPhaseSample err) s = .next t ∧ took k (s.rawPhase k err.toInt) s t) ∧
     (s.phaseAlign k = false → s.rawPhase k err.toInt = err.toInt) ∧
     (∀ e, 3 ≤ k → k ≤ 11 → s.dpll.waiting = some e →
       ∃ t, exec (.dpllPhaseSample err) s = .next t ∧ took k e s t ∧ t.dpll.waiting = none) ∧
     (k = 12 ∨ 3 ≤ k ∧ s.dpll.waiting = none → exec (.dpllPhaseSample err) s = .next s)) ∧
   (∀ (s : State) (err : Word), s.selected = none → exec (.dpllPhaseSample err) s = .next s) ∧
   (∀ (s : State) (v : Word), s.Takes Page.ref → ∃ t, exec (.numPhaseWrite v) s = .next t ∧
     t.get Page.ref REF.NUM_PHASE.PS = v.toNat ∧
     (s.selected = some 12 → took 12 v.toInt s t) ∧
     (s.selected ≠ some 12 → OnlyRegs [(Page.ref, 0x9C)] s t ∧ Only [.fld] s t)) ∧
   (∀ (s : State) (v : Word), s.Takes Page.ref → ∃ t, exec (.numFreqWrite v) s = .next t ∧
     t.get Page.ref REF.NUM_FREQ.PPB = v.toNat ∧
     t.dpll.numFresh = true ∧ (s.refEn 12 = true → t.refActive 12 = true ∧ Tab.get none t.dpll.raw 12 = some v.toInt ∧
       (s.medianOn = false → t.foff 12 = v.toInt)) ∧
     (s.refEn 12 = false → s.refActive 12 = false → OnlyRegs [(Page.ref, 0x98)] s t ∧ Only [.fld, .dpll] s t)) ∧
   (∀ s : State, s.inReset = false → (s.dpllState = 1 → s.dpll.inThresh = true → ∃ t, exec .dpllLocked s = .next t ∧
       t.dpllState = 2 ∧ t.dpll.far = 0 ∧ Raised Page.ref 0 s t ∧
       OnlyRegs [(Page.ref, 0x44), (Page.ref, 0x10)] s t ∧ Only [.fld, .dpll] s t) ∧
     (s.dpllState ≠ 1 ∨ s.dpll.inThresh = false → exec .dpllLocked s = .next s))) ∧
  ((∀ s : State, s.inReset = false → ∃ t, exec .holdoverEstimatorMean s = .next t ∧
     t.dpll.ho = (⟨if s.dpll.fCnt = 0 then s.getI Page.ref REF.DPLL_FREQ.VALUE else roundDiv s.dpll.fSum s.dpll.fCnt,
       if s.dpll.tCnt = 0 then s.hoTemp else roundDiv s.dpll.tSum s.dpll.tCnt,
       s.dpll.locked && s.dpllState == 2⟩ :: s.dpll.ho).take 256 ∧
     t.dpll.fSum = 0 ∧ t.dpll.fCnt = 0 ∧ t.dpll.tSum = 0 ∧ t.dpll.tCnt = 0 ∧ t.fld = s.fld ∧ Only [.dpll] s t) ∧
   (∀ s : State, s.inReset = false → (s.dpllState = 3 ∨ s.dpllState = 4) →
     let n := s.get Page.ref REF.HO_ELAPSED.VALUE + 1
     let dT := s.hoTemp - s.dpll.t0
     let tInt := s.dpll.tInt + dT.natAbs
     let e := 512 * 86400 * s.getI Page.ref REF.HO_FUNC.VALUE * n
       + 256 * s.getI Page.ref REF.HO_AGING_UNC.VALUE * (n * n : Nat) + 2 * 86400 * s.getI Page.ref REF.HO_TC_UNC.VALUE * tInt
     let f := s.getI Page.ref REF.HO_FREQ.VALUE + roundDiv (s.getI Page.ref REF.HO_AGING.VALUE * n) 86400
       + roundDiv (s.getI Page.ref REF.HO_TC.VALUE * dT) 256
     let f := max (-25600000) (min 25600000 f)
     ∃ t, exec .holdoverEvaluate s = .next t ∧ t.dpll.tInt = tInt ∧ t.dpll.base = f ∧
       t.get Page.ref REF.HO_ELAPSED.VALUE = Nat.min n (2 ^ 32 - 1) ∧
       t.getI Page.ref REF.DPLL_FREQ.VALUE = max (-25600000) (min 25600000 (f - s.dpll.move)) ∧
       t.get Page.ref REF.HO_TE.VALUE = Nat.min (e / (512 * 256 * 86400)).toNat (2 ^ 32 - 1) ∧
       t.dpllState = (if s.dpllState = 3 ∧ (s.get Page.ref REF.HO_CFG.TE_LIMIT : Int) * (512 * 256 * 86400) < e then 4
         else s.dpllState) ∧
       (s.dpllState = 3 → t.dpllState = 4 → (t.get Page.ref HDR.IRQ_RAW.RAW).testBit 0 = true ∧
         ∀ k, k < 13 → t.flag Page.ref (REF.REF_STAT.SOAKING k) = true →
           t.get Page.ref (REF.REF_STAT.SOAK_LEFT k) = s.get Page.ref REF.SOAK_CFG.LOST_SOAK % 65536) ∧
       Only [.fld, .dpll] s t) ∧
   (∀ s : State, (s.inReset = true ∨ s.dpllState < 3 ∨ 4 < s.dpllState) → exec .holdoverEvaluate s = .next s))

/-- PSTEP_GO, PSTEP_DONE, ALIGN, SET, NT_NOW_READ, PPS_IN_EDGE, PPS_OUT_CYC_WRITE, NT_BIT31_CHANGE (R305 to
R307, R322, R333, R334, R336): a phase step adds PSTEP and is BUSY until done, RATE 0 is refused; ALIGN and
SET wait for the next nominal start where they are accepted; NT is read and captured with its fraction and
C; NT crossing a multiple of 2^31 shows. -/
def Obligations.TimeIsReadSetAndStepped : Prop :=
  (∀ (s : State) (v : Word), s.Takes Page.ref → ∃ t, exec (.pstepGo v) s = .next t ∧
    (bits v.toNat 8 8 = 0 → Logged Page.ref Code.range s t) ∧
    (bits v.toNat 8 8 ≠ 0 → t.get Page.ref REF.PSTEP_CTRL.RATE = bits v.toNat 8 8 ∧
      t.flag Page.ref REF.PSTEP_CTRL.BUSY = (decide (v.toNat % 2 = 1) || s.flag Page.ref REF.PSTEP_CTRL.BUSY) ∧
      t.dpll.stepLeft = s.dpll.stepLeft + (if v.toNat % 2 = 1 then 24576 * s.getI Page.ref REF.PSTEP.PS else 0) ∧
      t.dpll.stepOff = s.dpll.stepOff + (if v.toNat % 2 = 1 then s.getI Page.ref REF.PSTEP.PS else 0) ∧
      OnlyRegs [(Page.ref, 0x94)] s t ∧ Only [.fld, .dpll] s t)) ∧
  (∀ s : State, s.inReset = false → s.flag Page.ref REF.PSTEP_CTRL.BUSY = true → s.dpll.stepLeft = 0 →
    ∃ t, exec .pstepDone s = .next t ∧ t.flag Page.ref REF.PSTEP_CTRL.BUSY = false ∧
    Raised Page.ref 6 s t ∧ OnlyRegs [(Page.ref, 0x94), (Page.ref, 0x10)] s t ∧ Only [.fld] s t) ∧
  (∀ s : State, s.dpll.stepLeft ≠ 0 → exec .pstepDone s = .next s) ∧
  (∀ s : State, let t := s.dpllCycle
    let d := s.dpll.stepLeft - t.dpll.stepLeft
    let rate : Int := (s.get Page.ref REF.PSTEP_CTRL.RATE * 256000 : Nat)
    t.dpll.move = d ∧ (0 < s.dpll.stepLeft → d = min (min rate (t.dpll.base + steerLimit)) s.dpll.stepLeft) ∧
      (s.dpll.stepLeft ≤ 0 → -d = min (min rate (steerLimit - t.dpll.base)) (-s.dpll.stepLeft)) ∧
      t.getI Page.ref REF.DPLL_FREQ.VALUE = within steerLimit (t.dpll.base - d)) ∧
  (∀ (s : State) (ok : Bool) (i : Instr) (f : Fld), s.Takes Page.ntime →
    (i, f, ok) ∈ [(Instr.align, NTIME.NT_STAT.ALIGN_PEND, !s.isMaster &&
        (match s.selected with | some k => isPortRef k | none => false)),
      (.set, NTIME.NT_STAT.SET_PEND, s.isMaster)] →
    let free := !s.domOn 5 || !s.flag Page.frame FRAME.FRAME_RUN.RUN
    ∃ t, exec i s = .next t ∧ (ok = true → free = true → t.get Page.ntime f = 1 ∧
        OnlyRegs [(Page.ntime, 0x44)] s t ∧ Only [.fld, .dpll] s t) ∧
      (ok = false ∨ free = false → Logged Page.ntime Code.refused s t)) ∧
  (∀ (s : State) (at_ : Nat), s.inReset = false → at_ < 32768 →
    let nt := (s.time.q * 32768 + at_ * 31250) / 98304 % 2 ^ 32
    let frac := (s.time.q * 32768 + at_ * 31250) % 98304 * 65536 / 98304
    (∃ t, exec (.ntNowRead at_) s = .next t ∧ t.readData = [Word.ofNat nt] ∧
      t.get Page.ntime NTIME.NT_FRAC.FRAC = frac ∧ t.get Page.ntime NTIME.CYC_LATCH.CYCLE = s.time.c.toNat ∧
      OnlyRegs [(Page.ntime, 0x4C), (Page.ntime, 0x50)] s t ∧ Only [.fld, .time, .readData] s t) ∧
    (∃ t, exec (.ppsInEdge at_) s = .next t ∧ t.get Page.ntime NTIME.PPS_CAP_NT.VALUE = nt ∧
      t.get Page.ntime NTIME.PPS_CAP_FRAC.VALUE = frac ∧ t.get Page.ntime NTIME.PPS_CAP_CYC.VALUE = s.time.c.toNat ∧
      Raised Page.ntime 10 s t ∧ (s.selected ≠ some 3 → t.dpll = s.dpll) ∧ (s.selected = some 3 → t.dpll.waiting.isSome) ∧
      OnlyRegs [(Page.ntime, 0x78), (Page.ntime, 0x7C), (Page.ntime, 0x80), (Page.ntime, 0x10)] s t ∧
      Only [.fld, .time, .dpll] s t) ∧
    (∃ t, exec (.ntBit31Change at_) s = .next t ∧ t.time.bit31 = decide (2 ^ 31 ≤ nt) ∧ t.time.phase = at_ ∧
      (s.time.bit31 = decide (2 ^ 31 ≤ nt) → t.fld = s.fld) ∧
      (s.time.bit31 = false → 2 ^ 31 ≤ nt → Raised Page.ntime 0 s t) ∧
      (s.time.bit31 = true → nt < 2 ^ 31 → Raised Page.ntime 1 s t) ∧
      OnlyRegs [(Page.ntime, 0x10)] s t ∧ Only [.fld, .time] s t)) ∧
  (∀ (s : State) (v : Word), s.Takes Page.ntime → ∃ t, exec (.ppsOutCycWrite v) s = .next t ∧
    t.get Page.ntime NTIME.PPS_OUT_CYC.CYCLE = v.toNat ∧ OnlyRegs [(Page.ntime, 0x70)] s t ∧ Only [.fld] s t)

/-- ARM, DISARM (R337 to R340, R439): DISARM acts first; an entry not armed then takes the written TYPE,
BASE and STRICT, and ARM arms it where its due instant is ahead by the serial test of R338; a past strict
one is refused with code LATE, a past one that is not strict is armed LATE, an empty TYPE logs RANGE. An
entry that stays armed keeps its fields and refuses the ARM. SCHED_COMMIT, SCHED_PORT_START,
SCHED_PHASE_STEP, SCHED_MUTE, SCHED_UNMUTE, SCHED_TRUNK_INSERT, SCHED_USER_EVENT (R339 to R341, R394): an
armed entry of the type whose due instant has come executes at the next Fs tick, a late one at the next
frame boundary, entries due at one tick in increasing order: ARMED clears, FIRED is set, ACTk_DONE and
LAST_FIRED are written, EXECUTED is raised, and the action has its effect; a COMMIT during a pending commit
or a power request is refused instead. An entry that does not fire changes nothing. -/
def Obligations.ScheduledActions : Prop :=
  (let g := Page.sched
   (∀ (s : State) (k : Nat) (ctrl : Word), k < 64 → s.Takes g →
     (s.actArmed k = false ∨ ctrl.getLsbD 7 = true) → ∃ t, exec (.arm k ctrl) s = .next t ∧
       let ty := ctrl.toNat % 16
       let base := ctrl.getLsbD 4
       let now : BitVec 32 := if base then BitVec.ofNat 32 s.nt else s.time.c
       let lead : BitVec 32 := if ty = 1 then (if base then 625000 else 60) else 0
       let past := 2 ^ 31 ≤ (BitVec.ofNat 32 (s.get g (SCHED.ACT_TARGET.TARGET k)) - lead - now - 1).toNat
       t.actType k = ty ∧ t.actBase k = base ∧ t.flag g (SCHED.ACT_CTRL.STRICT k) = ctrl.getLsbD 5 ∧
       t.flag g (SCHED.ACT_CTRL.FIRED k) = false ∧ t.flag g (SCHED.ACT_CTRL.CANCELLED k) = false ∧
       (ty = 0 ∨ 8 ≤ ty → t.actArmed k = false ∧ t.get g HDR.ERR_LAST.CODE = Code.range ∧
         t.get g HDR.ERR_COUNT.COUNT = Nat.min (s.get g HDR.ERR_COUNT.COUNT + 1) 65535) ∧
       (1 ≤ ty → ty < 8 → ¬ past → t.actArmed k = true ∧ t.flag g (SCHED.ACT_CTRL.LATE k) = false ∧
         t.flag g (SCHED.ACT_CTRL.REFUSED k) = false ∧ OnlyRegs [(g, 0x100 + 16 * k)] s t) ∧
       (1 ≤ ty → ty < 8 → past → ctrl.getLsbD 5 = true → t.actArmed k = false ∧
         t.flag g (SCHED.ACT_CTRL.REFUSED k) = true ∧ t.get g HDR.ERR_LAST.CODE = Code.late ∧ Raised g 2 s t ∧
         t.get g SCHED.SCHED_REFUSED_COUNT.COUNT = Nat.min (s.get g SCHED.SCHED_REFUSED_COUNT.COUNT + 1) 65535) ∧
       (1 ≤ ty → ty < 8 → past → ctrl.getLsbD 5 = false → t.actArmed k = true ∧
         t.flag g (SCHED.ACT_CTRL.LATE k) = true ∧
         t.get g SCHED.SCHED_LATE_COUNT.COUNT = Nat.min (s.get g SCHED.SCHED_LATE_COUNT.COUNT + 1) 65535 ∧
         OnlyRegs [(g, 0x100 + 16 * k), (g, 0x40)] s t) ∧
       OnlyRegs [(g, 0x100 + 16 * k), (g, 0x40), (g, 0x44), (g, 0x24), (g, 0x28), (g, 0x10)] s t ∧ Only [.fld] s t) ∧
   (∀ (s : State) (k : Nat) (ctrl : Word), k < 64 → s.Takes g → s.actArmed k = true → ctrl.getLsbD 7 = false →
     ∃ t, exec (.arm k ctrl) s = .next t ∧ t.actArmed k = true ∧ t.get g HDR.ERR_LAST.CODE = Code.refused ∧
       OnlyRegs [(g, 0x24), (g, 0x28)] s t ∧ Only [.fld] s t) ∧
   (∀ (s : State) (k : Nat) (ctrl : Word), k < 64 → s.Takes g → ctrl.getLsbD 6 = false →
     ∃ t, exec (.disarm k ctrl) s = .next t ∧ t.actArmed k = false ∧ t.actType k = ctrl.toNat % 16 ∧
       t.actBase k = ctrl.getLsbD 4 ∧ t.flag g (SCHED.ACT_CTRL.STRICT k) = ctrl.getLsbD 5 ∧
       t.get g (SCHED.ACT_CTRL.FIRED k) = s.get g (SCHED.ACT_CTRL.FIRED k) ∧
       OnlyRegs [(g, 0x100 + 16 * k)] s t ∧ Only [.fld] s t) ∧
   (∀ (s : State) (k : Nat) (ctrl : Word), ctrl.getLsbD 6 = true → ctrl.getLsbD 7 = true →
     exec (.disarm k ctrl) s = exec (.arm k ctrl) s)) ∧
  (let g := Page.sched
   let ready := fun (s : State) (k : Nat) => s.actArmed k = true ∧
     if s.flag g (SCHED.ACT_CTRL.LATE k) then s.boundary = true
     else s.nextTick.isSome ∧ ((if s.actBase k then { s.time with phase := s.tickPhase }.nt else s.cycle) +
       2 ^ 32 - s.actDue k) % 2 ^ 32 < 2 ^ 31
   let due := fun (s : State) (k ty : Nat) => s.inReset = false ∧ k < 64 ∧ s.actType k = ty ∧ ready s k ∧
     ∀ j, j < k → ¬ ready s j
   let arg := fun (s : State) (k : Nat) => s.get g (SCHED.ACT_ARG.ARG k)
   let fired := fun (s t : State) (k : Nat) => t.actArmed k = false ∧ t.flag g (SCHED.ACT_CTRL.FIRED k) = true ∧
     t.get g (SCHED.ACT_DONE.CYCLE k) = s.cycle ∧ t.get g SCHED.LAST_FIRED.ENTRY = k ∧
     (t.get g HDR.IRQ_RAW.RAW).testBit 0 = true
   (∀ (s : State) (k : Nat), due s k 1 → ∃ t, exec (.schedCommit k) s = .next t ∧
     (s.commitPending = false → s.pwrBusy = false → fired s t k ∧
       t.get Page.dev DEV.COMMIT_CTRL.GROUP_MASK = arg s k % 256 ∧
       t.get Page.dev DEV.COMMIT_CTRL.TIMING = (if s.actBase k then 2 else 1) ∧
       t.flag Page.dev DEV.COMMIT_CTRL.STRICT = s.flag g (SCHED.ACT_CTRL.STRICT k)) ∧
     (s.commitPending = true ∨ s.pwrBusy = true → t.actArmed k = false ∧ t.commit = s.commit ∧
       t.flag g (SCHED.ACT_CTRL.REFUSED k) = true ∧ t.get g (SCHED.ACT_CTRL.FIRED k) = s.get g (SCHED.ACT_CTRL.FIRED k) ∧
       t.get g SCHED.SCHED_REFUSED_COUNT.COUNT = Nat.min (s.get g SCHED.SCHED_REFUSED_COUNT.COUNT + 1) 65535 ∧
       Raised g 2 s t ∧ (s.commitPending = true → t.get Page.dev HDR.ERR_LAST.CODE = Code.refused)) ∧
     Only [.fld, .commit] s t) ∧
   (∀ (s : State) (k : Nat), due s k 2 → ∃ t, exec (.schedPortStart k) s = .next t ∧ fired s t k ∧
     (∀ p, p < 52 → s.domOn 8 = true → s.get (audioPage p) TDM.PORT_CTRL.START_GROUP = arg s k % 8 →
       s.audState p = 1 → s.formatOk p = true → t.audState p = 2) ∧ Only [.fld, .audio] s t) ∧
   (∀ (s : State) (k : Nat), due s k 3 → ∃ t, exec (.schedPhaseStep k) s = .next t ∧ fired s t k ∧
     t.get Page.ref REF.PSTEP.PS = arg s k % 2 ^ 32 ∧
     (s.get Page.ref REF.PSTEP_CTRL.RATE % 256 ≠ 0 → t.flag Page.ref REF.PSTEP_CTRL.BUSY = true ∧
       t.dpll.stepLeft = s.dpll.stepLeft + 24576 * (BitVec.ofNat 32 (arg s k)).toInt ∧
       t.dpll.stepOff = s.dpll.stepOff + (BitVec.ofNat 32 (arg s k)).toInt) ∧ Only [.fld, .dpll] s t) ∧
   (∀ (s : State) (k ty : Nat) (on : Bool) (i : Instr), (i, ty, on) ∈ [(Instr.schedMute k, 4, true), (.schedUnmute k, 5, false)] →
     due s k ty → ∃ t, exec i s = .next t ∧ fired s t k ∧
     (∀ n, n < 16 → (s.domOn 9 = true → (arg s k).testBit n = true → t.flag (Page.amp n) AMP.AMP_CTRL.MUTE = on ∧
         (s.flag (Page.amp n) AMP.AMP_CTRL.MUTE ≠ on → (t.amp n).mfac.a = (s.amp n).mfac.value ∧
           (t.amp n).mfac.b = if on then 0 else ampOne)) ∧
       (s.domOn 9 = false ∨ (arg s k).testBit n = false →
         t.flag (Page.amp n) AMP.AMP_CTRL.MUTE = s.flag (Page.amp n) AMP.AMP_CTRL.MUTE ∧ t.amp n = s.amp n)) ∧
     Only [.fld, .amps] s t) ∧
   (∀ (s : State) (k : Nat), due s k 6 → ∃ t, exec (.schedTrunkInsert k) s = .next t ∧ fired s t k ∧ Only [.fld] s t ∧
     (s.Takes Page.ring → ∀ b : Bool, (arg s k).testBit (if b then 1 else 0) = true → t.flag Page.ring (insFld b) = true ∧
       (s.flag Page.ring (insFld b) = false → t.ringState b = 1) ∧
       (s.flag Page.ring (insFld b) = true → t.ringState b = s.ringState b))) ∧
   (∀ (s : State) (k : Nat), due s k 7 → ∃ t, exec (.schedUserEvent k) s = .next t ∧ fired s t k ∧
     t.get g SCHED.USER_ARG.ARG = arg s k % 2 ^ 32 ∧ (t.get g HDR.IRQ_RAW.RAW).testBit 3 = true ∧
     OnlyRegs [(g, 0x48), (g, 0x4C), (g, 0x100 + 16 * k), (g, 0x10C + 16 * k), (g, 0x10)] s t ∧ Only [.fld] s t) ∧
   (∀ (s : State) (k ty : Nat) (i : Instr), (i, ty) ∈ [(Instr.schedCommit k, 1), (.schedPortStart k, 2), (.schedPhaseStep k, 3),
     (.schedMute k, 4), (.schedUnmute k, 5), (.schedTrunkInsert k, 6), (.schedUserEvent k, 7)] → ¬ due s k ty →
     exec i s = .next s))

/-- PORT_START_WRITE, PORT_START_TICK, PORT_STOP, CLK_LOSS, MASK_IMM_WRITE (R342, R344, R351, R352, R356 to
R358): a write of PORT_START triggers its groups; at the tick every ARMED port of a triggered group starts,
or logs RANGE where its format cannot run; a port whose EN was cleared stops at its frame's end; a slave
direction without a clock is lost; a mask written with MASK_IMM changes both copies. -/
def Obligations.PortsStartAndStop : Prop :=
  (∀ (s : State) (groups : Word), s.Takes (audioPage 0) → ∃ t, exec (.portStartWrite groups) s = .next t ∧
    t.startTrig = s.startTrig ||| groups.toNat % 256 ∧ t.fld = s.fld ∧ Only [.startTrig] s t) ∧
  (∀ s : State, s.inReset = false → s.startTrig ≠ 0 → ∃ t, exec .portStartTick s = .next t ∧ t.startTrig = 0 ∧
    (∀ p, p < 52 → let g := audioPage p
      let hit := s.domOn 8 && s.startTrig.testBit (s.get g TDM.PORT_CTRL.START_GROUP) && s.audState p == 1
      (hit = true → s.formatOk p = true → t.audState p = 2 ∧ (t.get g HDR.IRQ_RAW.RAW).testBit 0 = true ∧
        t.aud p = { Audio.reset with rxMasks := [(0, Word.ofNat (s.get g TDM.RX_MASK.MASK))],
                                     txMask := Word.ofNat (s.get g TDM.TX_MASK.MASK) }) ∧
      (hit = true → s.formatOk p = false → t.audState p = 1 ∧ t.get g HDR.ERR_LAST.CODE = Code.range ∧
        (t.get g HDR.IRQ_RAW.RAW).testBit 9 = true ∧ t.aud p = s.aud p) ∧
      (hit = false → t.audState p = s.audState p ∧ t.aud p = s.aud p ∧
        t.get g HDR.IRQ_RAW.RAW = s.get g HDR.IRQ_RAW.RAW)) ∧ Only [.fld, .audio, .startTrig] s t) ∧
  (∀ (s : State) (p : Nat), s.inReset = false → s.domOn 8 = true → p < 52 →
    ((s.aud p).stopping = true → ∃ t, exec (.portStop p) s = .next t ∧ t.aud p = Audio.reset ∧
      t.audState p = (if s.enabled (audioPage p) && (s.dirEn p true || s.dirEn p false) then 1 else 0) ∧
      t.get (audioPage p) TDM.PORT_STAT.RX_FILL = 0 ∧ t.get (audioPage p) TDM.PORT_STAT.TX_FILL = 0 ∧
      Raised (audioPage p) 1 s t ∧ OnlyRegs [(audioPage p, 0x58), (audioPage p, 0x10)] s t ∧
      Only [.fld, .audio] s t) ∧
    ((s.aud p).stopping = false → exec (.portStop p) s = .next s) ∧
    (∀ tx : Bool, (s.dirSlips p tx = true → (s.pdir p tx).lost = false → ∃ t, exec (.clkLoss p tx) s = .next t ∧
        (t.pdir p tx).lost = true ∧ (t.pdir p tx).aligned = false ∧ t.audState p = 3 ∧
        (if tx then (t.aud p).txq = [] else (t.aud p).rxq = []) ∧
        t.get (audioPage p) (if tx then TDM.PORT_STAT.TX_SLIP_PEND else TDM.PORT_STAT.RX_SLIP_PEND) = 0 ∧
        Raised (audioPage p) 5 s t ∧ OnlyRegs [(audioPage p, 0x58), (audioPage p, 0x10)] s t ∧
        Only [.fld, .audio] s t) ∧
      (s.dirSlips p tx = false ∨ (s.pdir p tx).lost = true → exec (.clkLoss p tx) s = .next s))) ∧
  (∀ (s : State) (p : Nat) (tx : Bool) (mask : Word), p < 52 → s.Takes (audioPage p) →
    let g := audioPage p
    let f := if tx then TDM.TX_MASK.MASK else TDM.RX_MASK.MASK
    let v := if isI2s p then mask.toNat % 4 else mask.toNat
    ∃ t, exec (.maskImmWrite p tx mask) s = .next t ∧
      (s.shadowHeld g = true → Logged g Code.refused s t) ∧
      (s.shadowHeld g = false → s.flag g TDM.PORT_CTRL.MASK_IMM = true → t.get g f = v ∧ t.getSh g f = v ∧
        t.dirtyReg = s.dirtyReg ∧ OnlyRegs [(g, f.off)] s t ∧ Only [.fld, .shadow] s t) ∧
      (s.shadowHeld g = false → s.flag g TDM.PORT_CTRL.MASK_IMM = false → t.getSh g f = v ∧
        Tab.get false t.dirtyReg g = true ∧ t.fld = s.fld ∧ Only [.shadow, .dirtyReg] s t))

/-- PORT_RX_FRAME, PORT_TX_FRAME (R342, R345, R347, R348, R351 to R354, R356): a frame received in a running
enabled direction is cut by the format into samples at the top of Q1.31 and queued with the mask of its FS
edge, marked invalid and counted where its length is; the first aligns the direction; the 16th valid one in
a row brings a lost direction back. A frame sent carries the samples of the enabled slots and zeros or
nothing in the others. -/
def Obligations.PortFramesMove : Prop :=
  (∀ (s : State) (p : Nat) (fr : RxFrame), s.inReset = false → s.domOn 8 = true → p < 52 → s.portRuns p = true →
    s.dirEn p false = true →
    let g := audioPage p
    let a := s.aud p
    let len := if s.dirMaster p false then (if isI2s p then 64 else 2 ^ s.get g TDM.TDM_CFG.FRAME_LOG2) else fr.len
    let samples := s.rxSamples p len fr.din
    let mask := match a.rxMasks.find? (fun m => decide (m.1 ≤ s.rootNow - fr.since)) with
      | some m => m.2
      | none => ((a.rxMasks.getLast?).map (·.2)).getD 0
    let valid := decide (s.frameMin p ≤ fr.len ∧ fr.len ≤ 2048 ∧ (a.rx.len = 0 ∨ a.rx.len = fr.len))
    let e : RxEntry := ⟨some samples, mask, valid, fr.frac % 64, 0⟩
    ∃ t, exec (.portRxFrame p fr) s = .next t ∧ t.get g TDM.FRAME_LEN.RX = len % 4096 ∧
      (isI2s p = true → t.get g TDM.FRAME_LEN.TX = len % 4096) ∧
      (∀ n i : Nat, n < s.portSlots p → i < 32 → (samples.getD n 0).getLsbD (31 - i) = (decide (i < s.portData p) &&
        fr.din.testBit (s.slotStart p + n * (if isI2s p then len / 2 else s.portSlotW p) + i))) ∧
      (s.dirMaster p false = true → (t.aud p).rxq = [⟨some samples, mask, true, 0, 0⟩] ∧
        OnlyRegs [(g, 0x6C)] s t) ∧
      (s.dirMaster p false = false → t.getI g TDM.RATE_OFF.PPB = (satTo 32 fr.rate).1 ∧ (t.aud p).rx.len = fr.len ∧
        (valid = false → (t.get g HDR.IRQ_RAW.RAW).testBit 7 = true ∧ t.get g TDM.FRAME_ERR_COUNT.COUNT =
          Nat.min (s.get g TDM.FRAME_ERR_COUNT.COUNT + 1) 65535) ∧
        (a.rx.lost = false → a.rx.aligned = true → (t.aud p).rxq = (a.rxq ++ [e]).take 4) ∧
        (a.rx.lost = false → a.rx.aligned = false → (t.aud p).rx.aligned = true ∧ (t.aud p).rxq.getLast? = some e) ∧
        (a.rx.lost = true → ¬ (valid = true ∧ 15 ≤ a.rx.good) → (t.aud p).rx.lost = true ∧ (t.aud p).rxq = a.rxq ∧
          (t.aud p).rx.good = if valid then a.rx.good + 1 else 0) ∧
        (a.rx.lost = true → valid = true → 15 ≤ a.rx.good → (t.aud p).rx.lost = false ∧ (t.aud p).rx.aligned = true ∧
          (t.aud p).rxq.getLast? = some e ∧ (t.get g HDR.IRQ_RAW.RAW).testBit 6 = true ∧
          t.audState p = if a.tx.lost then 3 else 2)) ∧
      (∀ q, q ≠ p → t.aud q = s.aud q) ∧ Only [.fld, .audio] s t) ∧
  (∀ (s : State) (p len frac : Nat) (rate : Int), s.inReset = false → s.domOn 8 = true → p < 52 → s.portRuns p = true →
    s.dirEn p true = true →
    let g := audioPage p
    let a := s.aud p
    let sent := fun (e : TxEntry) => (e.slots.zip (List.range 32)).map (fun x =>
      if (if s.flag g TDM.PORT_CTRL.MASK_IMM then s.get g TDM.TX_MASK.MASK else e.mask.toNat).testBit x.2
      then some (s.slotWord p x.2 x.1.1 x.1.2)
      else if s.flag g TDM.PORT_CTRL.SLOT_OFF then some 0 else none)
    let valid := decide (s.frameMin p ≤ len ∧ len ≤ 2048 ∧ (a.tx.len = 0 ∨ a.tx.len = len))
    ∃ t, exec (.portTxFrame p len frac rate) s = .next t ∧
      (s.dirMaster p true = true → (t.aud p).txq = a.txq ∧ t.get g TDM.FRAME_LEN.TX =
          (if isI2s p then 64 else 2 ^ s.get g TDM.TDM_CFG.FRAME_LOG2) % 4096 ∧
        (∀ e, a.txq.find? (fun e => e.age == 1) = some e → (t.aud p).out = sent e)) ∧
      (s.dirMaster p true = false → t.get g TDM.FRAME_LEN.TX = len % 4096 ∧ (t.aud p).tx.len = len ∧
        (∀ e rest, a.tx.lost = false → a.tx.aligned = true → a.txq = e :: rest → (t.aud p).out = sent e ∧
          (t.aud p).txq = rest ∧ t.get g TDM.PORT_STAT.TX_FILL = Nat.min ((64 * e.age + frac % 64 : Nat) + e.moved).toNat 255) ∧
        (a.tx.lost = false → a.tx.aligned = true → a.txq = [] → (t.aud p).out = a.out) ∧
        (a.tx.lost = false → (t.aud p).tx.aligned = true) ∧
        (a.tx.lost = true → ¬ (valid = true ∧ 15 ≤ a.tx.good) → (t.aud p).tx.lost = true ∧ (t.aud p).out = a.out ∧
          (t.aud p).tx.good = if valid then a.tx.good + 1 else 0) ∧
        (a.tx.lost = true → valid = true → 15 ≤ a.tx.good → (t.aud p).tx.lost = false ∧ (t.aud p).tx.aligned = true ∧
          (t.get g HDR.IRQ_RAW.RAW).testBit 6 = true ∧ t.audState p = if a.rx.lost then 3 else 2)) ∧
      (∀ q, q ≠ p → t.aud q = s.aud q) ∧ Only [.fld, .audio] s t) ∧
  (∀ (s : State) (p len frac : Nat) (rate : Int) (fr : RxFrame), s.portRuns p = false →
    exec (.portRxFrame p fr) s = .next s ∧ exec (.portTxFrame p len frac rate) s = .next s)

/-- AMP_ENABLE, PROBE_START, PROBE_DONE, OCP_COMPARATOR, HOLD_EXPIRY, ATTEMPTS_CLEAR, LATCH_CLR, PROBE_REQ
(R369, R374 to R376, R378, R380): a channel goes from OFF to WAIT_RAIL, PROBE and RAMP; an unhealthy probe
counts an attempt and leads to HOLD, the third to LATCHED; a channel in PROBE, RAMP or HOLD suspends its
pair's boost; EN at 0 takes it off at its next period. -/
def Obligations.ChannelsMoveThroughTheirStates : Prop :=
  let live := fun (s : State) (n : Nat) => s.inReset = false ∧ s.domOn 9 = true ∧ n < 16
  let moves := fun (n st : Nat) (extra : List (Nat × Nat)) (s t : State) => t.ampState n = st ∧
    (∀ m, m ≠ n → t.ampState m = s.ampState m) ∧
    (t.get Page.ampc AMPC.DRV_EN_STAT.DRIVEN).testBit (n / 4) = (List.range 4).any (fun i =>
      decide (2 ≤ t.ampState (n / 4 * 4 + i) ∧ t.ampState (n / 4 * 4 + i) ≤ 4)) ∧
    (3 ≤ s.boostState (n / 2) → st ∈ [2, 3, 5] → t.boostState (n / 2) = 5) ∧
    OnlyRegs ([(Page.amp n, 0x8C), (Page.amp n, 0x10), (Page.ampc, 0x4C), (Page.boost (n / 2), 0x54),
      (Page.boost (n / 2), 0x58)] ++ extra) s t ∧ Only [.fld, .amps, .boosts, .freeCtr] s t
  let probed := fun (n : Nat) (good : Bool) (s t : State) => (t.get (Page.amp n) HDR.IRQ_RAW.RAW).testBit 4 = true ∧
    ((s.amp n).probeRet = none → good = true → moves n 3 [(Page.amp n, 0xA0)] s t) ∧
    ((s.amp n).probeRet = none → good = false →
      let k := Nat.min (s.get (Page.amp n) AMP.AMP_STAT.ATTEMPTS + 1) 3
      t.get (Page.amp n) AMP.AMP_STAT.ATTEMPTS = k ∧ moves n (if k = 3 then 6 else 5) [(Page.amp n, 0xA0)] s t) ∧
    (∀ st, (s.amp n).probeRet = some st → st < 8 → st ≠ 0 → moves n st [(Page.amp n, 0xA0)] s t) ∧
    ((s.amp n).probeRet = some 0 →
      t.ampState n = (if (s.amp n).enAgain && s.ampReady n then 1 else 0))
  (∀ (s : State) (n : Nat) (en : Bool), n < 16 → s.inReset = false → s.notReady (Page.amp n) = false →
    s.locked (Page.amp n) = false → ∃ t, exec (.ampEnable n en) s = .next t ∧
    (s.domOn 9 = false → t.enabled (Page.amp n) = en ∧ OnlyRegs [(Page.amp n, 0x08)] s t ∧ Only [.fld] s t) ∧
    (s.domOn 9 = true → en = true → s.enabled (Page.amp n) = true → t = s) ∧
    (s.domOn 9 = true → en = true → s.enabled (Page.amp n) = false → s.ampReady n = false →
      Logged (Page.amp n) Code.range s t) ∧
    (s.domOn 9 = true → en = true → s.enabled (Page.amp n) = false → s.ampReady n = true →
      t.enabled (Page.amp n) = true ∧ (s.ampState n = 0 → moves n 1 [(Page.amp n, 0x08)] s t) ∧
      (s.ampState n ≠ 0 → (t.amp n).enAgain = true ∧ (t.amp n).offPend = (s.amp n).offPend ∧
        OnlyRegs [(Page.amp n, 0x08)] s t ∧ Only [.fld, .amps] s t)) ∧
    (s.domOn 9 = true → en = false → s.enabled (Page.amp n) = false → t = s) ∧
    (s.domOn 9 = true → en = false → s.enabled (Page.amp n) = true → t.enabled (Page.amp n) = false ∧
      (s.ampState n ≠ 0 → (t.amp n).offPend = true ∧ (t.amp n).enAgain = false) ∧ OnlyRegs [(Page.amp n, 0x08)] s t ∧ Only [.fld, .amps] s t)) ∧
  (∀ (s : State) (n : Nat), live s n →
    (s.ampState n = 1 → (s.enabled (Page.boost (n / 2)) = false ∨ 3 ≤ s.boostState (n / 2)) →
      ∃ t, exec (.probeStart n) s = .next t ∧ moves n 2 [] s t) ∧
    (s.ampState n ≠ 1 → exec (.probeStart n) s = .next s) ∧
    (s.ampState n = 5 → ∃ t, exec (.holdExpiry n) s = .next t ∧
      moves n (if s.get (Page.amp n) AMP.AMP_STAT.ATTEMPTS = 3 then 6 else 2) [] s t) ∧
    (s.ampState n = 4 → ∃ t, exec (.attemptsClear n) s = .next t ∧ t.get (Page.amp n) AMP.AMP_STAT.ATTEMPTS = 0 ∧
      t.ampState n = 4 ∧ OnlyRegs [(Page.amp n, 0x8C)] s t ∧ Only [.fld] s t) ∧
    (s.ampState n = 2 → ∃ t, exec (.ocpComparator n) s = .next t ∧ t.get (Page.amp n) AMP.RDC_LAST.SHORT = 1 ∧
      t.get (Page.amp n) AMP.RDC_LAST.MOHM = 0 ∧ probed n false s t) ∧
    (s.ampState n = 3 ∨ s.ampState n = 4 → ∃ t, exec (.ocpComparator n) s = .next t ∧
      let half := 8 / 2 ^ s.get Page.ampc AMPC.AMPC_CTRL.FSW
      ((s.amp n).cnt < half ∨ (s.amp n).cnt = half ∧ n * half % 8 = 0 → (t.amp n).cut1 = true ∧
        (t.amp n).cut2 = (s.amp n).cut2 ∧ t.freeCtr = s.freeCtr) ∧
      (half < (s.amp n).cnt → (t.amp n).cut2 = true ∧ (t.amp n).cut1 = (s.amp n).cut1 ∧ t.freeCtr = s.freeCtr) ∧
      ((t.amp n).cut1 = true ∨ (t.amp n).cut2 = true) ∧ t.fld = s.fld ∧ Only [.amps, .freeCtr] s t) ∧
    (s.ampState n < 2 ∨ 4 < s.ampState n → exec (.ocpComparator n) s = .next s)) ∧
  (∀ (s : State) (n : Nat) (mv mi : Word), live s n → s.ampState n = 2 →
    let v := mv.toInt * s.get (Page.amp n) AMP.SENSE_SCALE.V_FS * 1000
    let i := mi.toInt * s.get (Page.amp n) AMP.SENSE_SCALE.I_FS
    ∃ t, exec (.probeDone n mv mi) s = .next t ∧ t.get (Page.amp n) AMP.RDC_LAST.SHORT = 0 ∧
      (i ≠ 0 → (v = 0 ∨ (v < 0 ↔ i < 0)) → t.get (Page.amp n) AMP.RDC_LAST.MOHM =
          Nat.min (divConv v.natAbs i.natAbs).toNat 0xFFFF ∧
        probed n (decide (s.get (Page.amp n) AMP.RDC_WIN.RDC_MIN ≤ (divConv v.natAbs i.natAbs).toNat ∧
          (divConv v.natAbs i.natAbs).toNat ≤ s.get (Page.amp n) AMP.RDC_WIN.RDC_MAX)) s t) ∧
      (i = 0 → v ≠ 0 → t.get (Page.amp n) AMP.RDC_LAST.MOHM = 0xFFFF ∧ probed n false s t) ∧
      (i ≠ 0 → v ≠ 0 → ¬ (v < 0 ↔ i < 0) → ((s.amp n).probeRet ≠ some 2 → t.freeCtr = s.freeCtr + 1) ∧
        ((s.amp n).probeRet = none → t.ampState n ∈ [5, 6])) ∧
      (i = 0 → v = 0 → ((s.amp n).probeRet ≠ some 2 → t.freeCtr = s.freeCtr + 1) ∧ ((s.amp n).probeRet = none → t.ampState n ∈ [3, 5, 6]))) ∧
  (∀ (s : State) (n : Nat), n < 16 → s.Takes (Page.amp n) →
    (s.ampState n = 6 → ∃ t, exec (.latchClr n) s = .next t ∧ t.get (Page.amp n) AMP.AMP_STAT.ATTEMPTS = 0 ∧
      moves n 5 [] s t) ∧
    (s.ampState n ≠ 6 → exec (.latchClr n) s = .next s) ∧
    ∃ t, exec (.probeReq n) s = .next t ∧ (s.ampState n = 0 ∨ s.ampState n = 6 →
        (t.amp n).probeRet = some (s.ampState n) ∧ moves n 2 [] s t) ∧
      (s.ampState n ≠ 0 → s.ampState n ≠ 6 → Logged (Page.amp n) Code.refused s t))

/-- CARRIER_PERIOD (R367 to R369, R374 to R376): the limit of the period is counted, a channel that was
disabled goes OFF, one at LIMIT_N limited periods in a row trips to HOLD, and any other drives its gates
with the edges of its modulation. SENSE_SAMPLE, MUTE, PILOT_WINDOW_END, CAL_GO, CAL_STEP_END (R362, R366,
R379, R381 to R383): a sense sample in RAMP or RUN runs the loop on the delayed, interpolated audio of the
channel (the interpolator's coefficients are open, log entry 98), whose modulation never exceeds MOD_MAX;
MUTE ramps; a pilot window reports the impedance; a calibration goes through its steps, with measured trims
that are free values. -/
def Obligations.ChannelsPlayAndAreMeasured : Prop :=
  (∀ (s : State) (n : Nat), s.inReset = false → s.domOn 9 = true → n < 16 →
     let g := Page.amp n
     let a := s.amp n
     let cut := a.cut1 || a.cut2
     let run := if cut then a.run + 1 else 0
     let trips := decide (s.ampState n = 3 ∨ s.ampState n = 4) && decide (s.get g AMP.OCP_CFG.LIMIT_N ≤ run)
     ∃ t, exec (.carrierPeriod n) s = .next t ∧
       t.flag g AMP.AMP_STAT.LIMITING = cut ∧ t.get g AMP.LIMIT_COUNT.COUNT =
         (if cut then Nat.min (s.get g AMP.LIMIT_COUNT.COUNT + 1) (2 ^ 32 - 1) else s.get g AMP.LIMIT_COUNT.COUNT) ∧
       (cut = true → a.limited = false → (t.get g HDR.IRQ_RAW.RAW).testBit 0 = true) ∧
       (t.amp n).cut1 = false ∧ (t.amp n).cut2 = false ∧ (t.amp n).cnt = 0 ∧ (t.amp n).mStart = a.mod ∧
       (a.offPend = true → (t.amp n).offPend = false ∧
         t.ampState n = if a.enAgain && s.ampReady n then 1 else 0) ∧
       (a.offPend = false → trips = true → t.ampState n = 5 ∧ (t.amp n).gates = none ∧
         (t.get g HDR.IRQ_RAW.RAW).testBit 1 = true ∧
         t.get g AMP.TRIP_COUNT.COUNT = Nat.min (s.get g AMP.TRIP_COUNT.COUNT + 1) (2 ^ 32 - 1) ∧
         t.get g AMP.AMP_STAT.ATTEMPTS = (match a.rampAt with
           | some x => if s.time.starts - x < 960000 then Nat.min (s.get g AMP.AMP_STAT.ATTEMPTS + 1) 3
             else s.get g AMP.AMP_STAT.ATTEMPTS
           | none => s.get g AMP.AMP_STAT.ATTEMPTS)) ∧
       (a.offPend = false → trips = false → t.ampState n = s.ampState n ∧ (t.amp n).run = run ∧
         (t.amp n).gates = (if 2 ≤ s.ampState n ∧ s.ampState n ≤ 4 then some (s.gateEdges n a.mStart a.mHalf).1 else none) ∧
         OnlyRegs [(g, 0x8C), (g, 0xA4), (g, 0x10)] s t ∧ Only [.fld, .amps] s t) ∧
       (∀ m, m ≠ n → t.amp m = s.amp m ∧ t.ampState m = s.ampState m) ∧ Only [.fld, .amps, .boosts] s t) ∧
  ((∀ (s : State) (n : Nat) (v i : Word), s.inReset = false → s.domOn 9 = true → n < 16 →
     (s.ampState n = 3 ∨ s.ampState n = 4 → ∃ t, exec (.senseSample n v i) s = .next t ∧
       let x := s.loopStep n (s.ampInput n) v.toInt i.toInt
       (t.amp n).mod = x.1.mod ∧ (t.amp n).mod.natAbs ≤ s.get (Page.amp n) AMP.PWM_CFG.MOD_MAX * 2 ^ 22 ∧
       (t.amp n).s1 = x.1.s1 ∧ (t.amp n).s4 = x.1.s4 ∧ (t.amp n).cnt = (s.amp n).cnt + 1 ∧
       (x.2 = true → t.get (Page.amp n) AMP.CLIP_COUNT.COUNT =
           Nat.min (s.get (Page.amp n) AMP.CLIP_COUNT.COUNT + 1) (2 ^ 32 - 1) ∧
         (t.amp n).s1 = (s.amp n).s1 ∧ (t.amp n).s2 = (s.amp n).s2 ∧ (t.amp n).s3 = (s.amp n).s3 ∧
         (t.amp n).s4 = (s.amp n).s4 ∧ ((s.amp n).clipped = false → Raised (Page.amp n) 7 s t)) ∧
       (x.2 = false → t.fld = s.fld) ∧ (t.amp n).pos = (s.amp n).pos + 1 ∧
       (t.amp n).pilot.n = (s.amp n).pilot.n + 1 ∧ ((∀ y ∈ (s.amp n).ys, y = 0) →
         s.flag (Page.amp n) AMP.AMP_CTRL.PILOT_EN = false → s.ampInput n = 0) ∧ (∀ m, m ≠ n → t.amp m = s.amp m) ∧
       OnlyRegs [(Page.amp n, 0xAC), (Page.amp n, 0x10)] s t ∧ Only [.fld, .amps] s t) ∧
     (s.ampState n = 2 → ∃ t, exec (.senseSample n v i) s = .next t ∧
       (t.amp n).mod = ((s.amp n).probe.getD (s.amp n).mod) ∧ (t.amp n).pilot.n = (s.amp n).pilot.n + 1 ∧
       t.fld = s.fld ∧ Only [.amps] s t) ∧
     (s.ampState n < 2 ∨ 4 < s.ampState n → exec (.senseSample n v i) s = .next (s.setAmp n { s.amp n with
       pilot := { (s.amp n).pilot with n := (s.amp n).pilot.n + 1 } }))) ∧
   (∀ (s : State) (n : Nat) (on : Bool), n < 16 → s.Takes (Page.amp n) → ∃ t, exec (.mute n on) s = .next t ∧
     t.flag (Page.amp n) AMP.AMP_CTRL.MUTE = on ∧
     (s.flag (Page.amp n) AMP.AMP_CTRL.MUTE = on → t = s) ∧
     (s.flag (Page.amp n) AMP.AMP_CTRL.MUTE ≠ on → (t.amp n).mfac = ⟨(s.amp n).mfac.value, if on then 0 else ampOne, 0,
       s.get (Page.amp n) AMP.AMP_RAMP.LEN * 2 ^ s.fs⟩) ∧
     OnlyRegs [(Page.amp n, 0x40)] s t ∧ Only [.fld, .amps] s t) ∧
   (∀ (s : State) (n : Nat), s.inReset = false → s.domOn 9 = true → n < 16 → ∃ t, exec (.pilotWindowEnd n) s = .next t ∧
     let g := Page.amp n
     let z := (s.amp n).pilot.impedance (s.get g AMP.SENSE_SCALE.V_FS) (s.get g AMP.SENSE_SCALE.I_FS)
     t.flag g AMP.AMP_STAT.Z_VALID = (s.amp n).pilot.ok ∧
     ((s.amp n).pilot.ok = true → t.get g AMP.Z_CYCLE.VALUE = s.cycle ∧ t.flag g AMP.AMP_STAT.OPEN = z.isNone ∧
       (t.get g HDR.IRQ_RAW.RAW).testBit 5 = true ∧
       t.getI g AMP.Z_RE.VALUE = (z.getD (0x7FFFFFFF, 0x7FFFFFFF, 0x7FFFFFFF)).1 ∧
       t.getI g AMP.Z_IM.VALUE = (z.getD (0x7FFFFFFF, 0x7FFFFFFF, 0x7FFFFFFF)).2.1 ∧
       t.getI g AMP.Z_MAG.VALUE = (z.getD (0x7FFFFFFF, 0x7FFFFFFF, 0x7FFFFFFF)).2.2) ∧
     (t.amp n).pilot.f = s.get g AMP.PILOT_CFG.F ∧ (t.amp n).pilot.level = s.get g AMP.PILOT_CFG.LEVEL ∧
     (t.amp n).pilot.n = 0 ∧ (t.amp n).clipped = false ∧
     (t.amp n).pilot.ok = (decide (s.ampState n = 3 ∨ s.ampState n = 4) && s.flag g AMP.AMP_CTRL.PILOT_EN) ∧
     OnlyRegs [(g, 0x8C), (g, 0x90), (g, 0x94), (g, 0x98), (g, 0x9C), (g, 0x10)] s t ∧ Only [.fld, .amps] s t) ∧
   (∀ (s : State) (ctrl : Word), s.Takes Page.ampc → ∃ t, exec (.calGo ctrl) s = .next t ∧
     let c := ctrl.toNat % 16
     let no := s.flag Page.ampc AMPC.CAL_STAT.BUSY || [0, 2, 5, 6].contains (s.ampState c)
     t.get Page.ampc AMPC.CAL_CTRL.CHAN = c ∧
     (ctrl.getLsbD 4 = true → no = true → t.get Page.ampc HDR.ERR_LAST.CODE = Code.refused ∧ t.cal = s.cal) ∧
     (ctrl.getLsbD 4 = true → no = false → t.flag Page.ampc AMPC.CAL_STAT.BUSY = true ∧
       t.get Page.ampc AMPC.CAL_STAT.STEP = 0 ∧ t.get Page.ampc AMPC.CAL_STAT.LAST_CHAN = c ∧
       t.get Page.ampc AMPC.CAL_STAT.ABORTED = 0 ∧ OnlyRegs [(Page.ampc, 0x44), (Page.ampc, 0x48)] s t) ∧
     (ctrl.getLsbD 4 = false → OnlyRegs [(Page.ampc, 0x44)] s t) ∧ Only [.fld, .cal] s t) ∧
   (∀ s : State, s.inReset = false → s.domOn 9 = true → s.flag Page.ampc AMPC.CAL_STAT.BUSY = true →
     let c := s.get Page.ampc AMPC.CAL_STAT.LAST_CHAN
     let st := s.get Page.ampc AMPC.CAL_STAT.STEP
     ∃ t, exec .calStepEnd s = .next t ∧ (t.amp c).pilot.ok = false ∧
       (st = 3 → t.flag Page.ampc AMPC.CAL_STAT.BUSY = false ∧ t.get Page.ampc AMPC.CAL_STAT.STEP = 0 ∧
         Raised Page.ampc 0 s t) ∧
       (st < 3 → t.flag Page.ampc AMPC.CAL_STAT.BUSY = true ∧ t.get Page.ampc AMPC.CAL_STAT.STEP = st + 1) ∧
       (st ≠ 2 → t.freeCtr = s.freeCtr) ∧ Only [.fld, .amps, .freeCtr] s t))

/-- BOOST_ENABLE, BOOST_RISE_GRANTED, RAIL_READY, RAIL_CFG_WRITE (R370, R371, R380): EN asks for the rise
grant and its clearing turns the controller OFF; under the grant the rail rises from its measured value; the
rail at FLOOR gives the grant back and leads to TRACKING, FIXED or, with a channel of the pair busy,
SUSPENDED; a FLOOR raised while the rail is up asks again, a RAIL_CFG out of range is refused.
BOOST_SWITCH_PERIOD, RAIL_OV, RAIL_UV (R373): the rail is measured each period, the gate is driven only
below the target and without over-voltage, ILIM ends the drive; an over-voltage counts once per excursion,
an under-voltage in TRACKING or FIXED. -/
def Obligations.BoostRails : Prop :=
  ((∀ (s : State) (k : Nat) (en : Bool), k < 8 → s.inReset = false → s.notReady (Page.boost k) = false →
     s.locked (Page.boost k) = false → ∃ t, exec (.boostEnable k en) s = .next t ∧
     t.enabled (Page.boost k) = en ∧
     (s.domOn 9 = false ∨ s.enabled (Page.boost k) = en → OnlyRegs [(Page.boost k, 0x08)] s t ∧ Only [.fld] s t) ∧
     (s.domOn 9 = true → s.enabled (Page.boost k) = false → en = true → t.boostState k = 1 ∧
       t.ledger.fresh = s.ledger.fresh ++ [⟨Kind.boostRise, k⟩]) ∧
     (s.domOn 9 = true → s.enabled (Page.boost k) = true → en = false → t.boostState k = 0 ∧
       t.boost k = Boost.reset ∧ t.get (Page.boost k) BOOST.RAIL_TARGET.MV = 0 ∧ t.waits Kind.boostRise k = false ∧
       t.holds Kind.boostRise k = false) ∧ Only [.fld, .ledger, .boosts] s t) ∧
   (∀ (s : State) (k : Nat), s.inReset = false → s.domOn 9 = true → k < 8 →
     (s.boostState k = 1 → s.holds Kind.boostRise k = true → ∃ t, exec (.boostRiseGranted k) s = .next t ∧
       t.boostState k = 2 ∧ (t.boost k).running = true ∧ t.get (Page.boost k) BOOST.RAIL_TARGET.MV =
         s.get (Page.boost k) BOOST.BOOST_STAT.RAIL % 1024 ∧ (t.boost k).endRise =
         decide (s.get (Page.boost k) BOOST.RAIL_CFG.FLOOR ≤ s.get (Page.boost k) BOOST.BOOST_STAT.RAIL) ∧
       OnlyRegs [(Page.boost k, 0x54), (Page.boost k, 0x58)] s t ∧ Only [.fld, .boosts] s t) ∧
     (s.boostState k ≠ 1 ∨ s.holds Kind.boostRise k = false → exec (.boostRiseGranted k) s = .next s) ∧
     (s.boostState k = 2 → ∃ t, exec (.railReady k) s = .next t ∧
       t.boostState k = (if [2 * k, 2 * k + 1].any (fun n => [2, 3, 5].contains (s.ampState n)) then 5
         else if s.flag (Page.boost k) BOOST.BOOST_CTRL.TRACK then 3 else 4) ∧
       (t.boost k).target = s.get (Page.boost k) BOOST.RAIL_CFG.FLOOR * mvUnit ∧
       t.holds Kind.boostRise k = false ∧ Raised (Page.boost k) 0 s t ∧ Only [.fld, .ledger, .boosts] s t)) ∧
   (∀ (s : State) (k : Nat) (v : Word), k < 8 → s.Takes (Page.boost k) → ∃ t, exec (.railCfgWrite k v) s = .next t ∧
     let g := Page.boost k
     let floor := bits v.toNat 0 10
     let max := bits v.toNat 16 10
     (1000 < floor ∨ 1000 < max ∨ max < floor → Logged g Code.range s t) ∧
     (floor ≤ max → max ≤ 1000 → t.get g BOOST.RAIL_CFG.FLOOR = floor ∧ t.get g BOOST.RAIL_CFG.MAX = max ∧
       (2 ≤ s.boostState k → s.get g BOOST.RAIL_CFG.FLOOR < floor → t.boostState k = 1 ∧
         (⟨Kind.boostRise, k⟩ : Req) ∈ t.ledger.fresh ∧ (t.boost k).oldFloor = s.get g BOOST.RAIL_CFG.FLOOR ∧
         (t.boost k).target = (s.boost k).target) ∧
       (s.boostState k < 2 ∨ floor ≤ s.get g BOOST.RAIL_CFG.FLOOR → t.boostState k = s.boostState k ∧
         OnlyRegs [(g, 0x44)] s t ∧ Only [.fld, .boosts] s t)) ∧ Only [.fld, .ledger, .boosts] s t)) ∧
  ((∀ (s : State) (k peak vsn : Nat), s.inReset = false → s.domOn 9 = true → k < 8 →
     let g := Page.boost k
     let ov := decide (s.get g BOOST.BOOST_LIM.OV < vsn)
     let on := (s.boost k).running && decide (1 ≤ s.boostState k) && !ov &&
       decide ((vsn : Int) * mvUnit < (s.boost k).target)
     ∃ t, exec (.boostSwitchPeriod k peak vsn) s = .next t ∧ t.get g BOOST.BOOST_STAT.RAIL = Nat.min vsn 1000 ∧
       (t.boost k).ovOn = ov ∧ (t.boost k).driven = on ∧
       (t.boost k).limited = (on && decide (s.get g BOOST.BOOST_LIM.ILIM + 1 < peak)) ∧
       (ov = true → (s.boost k).ovOn = false → Raised g 2 s t ∧ t.get g BOOST.BOOST_FLT_COUNT.OV =
         Nat.min (s.get g BOOST.BOOST_FLT_COUNT.OV + 1) 65535) ∧
       (ov = false ∨ (s.boost k).ovOn = true → OnlyRegs [(g, 0x54)] s t) ∧
       OnlyRegs [(g, 0x54), (g, 0x5C), (g, 0x10)] s t ∧ Only [.fld, .boosts] s t) ∧
   (∀ (s : State) (k : Nat), s.inReset = false → s.domOn 9 = true → k < 8 →
     ((s.boost k).ovOn = false → ∃ t, exec (.railOv k) s = .next t ∧ (t.boost k).ovOn = true ∧
       (t.boost k).driven = false ∧ Raised (Page.boost k) 2 s t ∧ t.get (Page.boost k) BOOST.BOOST_FLT_COUNT.OV =
         Nat.min (s.get (Page.boost k) BOOST.BOOST_FLT_COUNT.OV + 1) 65535 ∧
       OnlyRegs [(Page.boost k, 0x5C), (Page.boost k, 0x10)] s t ∧ Only [.fld, .boosts] s t) ∧
     ((s.boost k).ovOn = true → exec (.railOv k) s = .next s) ∧
     (s.boostState k = 3 ∨ s.boostState k = 4 → ∃ t, exec (.railUv k) s = .next t ∧
       Raised (Page.boost k) 1 s t ∧ t.get (Page.boost k) BOOST.BOOST_FLT_COUNT.UV =
         Nat.min (s.get (Page.boost k) BOOST.BOOST_FLT_COUNT.UV + 1) 65535 ∧
       OnlyRegs [(Page.boost k, 0x5C), (Page.boost k, 0x10)] s t ∧ Only [.fld] s t) ∧
     (s.boostState k ≠ 3 → s.boostState k ≠ 4 → exec (.railUv k) s = .next s)))

/-- PWR_REQ_GO (R390, R391, R393 to R395, R425): a GO while BUSY logs REFUSED, an impossible request RANGE;
with nothing to do it ends at once; toward ON the last domain of the stop order asks for its wake grant,
once ROOT_LOCK stands and, where a domain charges more than 100 units on VDD_CORE, once that supply has
risen by 20 mV; toward OFF or RETENTION the first domain freezes in its new state unless one of its pages
refuses. DOMAIN_STOPPED, RET_SIG_DONE, DOMAIN_WAKE_GRANTED, DOMAIN_WAKE_DONE (R17, R389, R391, R392, R395,
R398): a stopped domain is followed by the next, whose refusal makes the stopped ones restart in reverse
order; STORE freezes after its signatures; no domain wakes and none restarts while ROOT_LOCK is 0; a granted
domain is ON after its wake delay and gives its grant back; the last one ends the request with its result.
-/
def Obligations.PowerRequests : Prop :=
  (∀ (s : State) (req : Word), s.Takes Page.pwr → ∃ t, exec (.pwrReqGo req) s = .next t ∧
     let g := Page.pwr
     let tgt := bits req.toNat 9 2
     let sel := stopOrder.filter (fun d => (bits req.toNat 0 9).testBit (d - 1))
     let want : DomState := if tgt = 0 then .off else if tgt = 1 then .retention else .on
     let wrong := decide (tgt = 3) || sel.isEmpty || (decide (tgt = 1) && sel.any (fun d => s.domState d == .off))
     let todo := sel.filter (fun d => s.domState d != want)
     (s.pwrBusy = true → Logged g Code.refused s t) ∧
     (s.pwrBusy = false → t.get g PWR.PWR_REQ.DOMAINS = bits req.toNat 0 9 ∧ t.get g PWR.PWR_REQ.TARGET = tgt) ∧
     (s.pwrBusy = false → wrong = true → t.get g PWR.PWR_STAT.RESULT = 5 ∧ t.get g HDR.ERR_LAST.CODE = Code.range ∧
       Raised g 2 s t ∧ Only [.fld] s t) ∧
     (s.pwrBusy = false → wrong = false → todo = [] → t.get g PWR.PWR_STAT.RESULT = 1 ∧ t.pwrBusy = false ∧
       Raised g 0 s t ∧ t.dom = s.dom) ∧
     (s.pwrBusy = false → wrong = false → tgt = 2 → todo ≠ [] → (∀ d ∈ todo, s.coreCharge d ≤ 100) →
       t.pwrBusy = true ∧ t.pwr.todo = todo.reverse ∧ t.dom = s.dom ∧
       (s.flag Page.clk CLK.CLK_STAT.ROOT_LOCK = true → t.pwr.phase = .waitGrant ∧
         ∃ d, todo.reverse.head? = some d ∧ (⟨(wakeKind d).1, (wakeKind d).2⟩ : Req) ∈ t.ledger.fresh) ∧
       (s.flag Page.clk CLK.CLK_STAT.ROOT_LOCK = false → t.pwr.phase = .waitRoot)) ∧
     (s.pwrBusy = false → wrong = false → tgt = 2 → (∃ d ∈ todo, 100 < s.coreCharge d) →
       let mv := s.get Page.busm BUSM.VCORE_SET.MV
       let up := Nat.min 850 ((if s.vcore.want = 0 then mv else s.vcoreGoal) + 20)
       t.vcore.up = some up ∧ t.pwrBusy = true ∧ t.pwr.todo = todo.reverse ∧ t.dom = s.dom ∧
       (mv < up → t.pwr.phase = .raising ∧ t.ledger = s.ledger) ∧
       (up ≤ mv → t.pwr.phase = if s.flag Page.clk CLK.CLK_STAT.ROOT_LOCK then .waitGrant else .waitRoot)) ∧
     (∀ d rest, todo = d :: rest → s.pwrBusy = false → wrong = false → tgt < 2 → s.domState d = .on →
       (s.refuser d = none → ¬ (d = 6 ∧ tgt = 1) → t.domState d = want ∧ t.pwr.phase = .stopping ∧
         t.pwr.todo = d :: rest ∧ t.pwrBusy = true ∧ ∀ e, e ≠ d → t.domState e = s.domState e) ∧
       (s.refuser d = none → d = 6 → tgt = 1 → t.pwr.phase = .signing ∧ t.domState 6 = .on ∧
         (⟨Kind.retSig, 6⟩ : Req) ∈ t.ledger.fresh) ∧
       (∀ p cause, s.refuser d = some (p, cause) → t.get g PWR.PWR_STAT.RESULT = 3 ∧ t.pwrBusy = false ∧
         t.get g PWR.LAST_REFUSER.PAGE = p % 256 ∧ t.get g PWR.LAST_REFUSER.DOMAIN = d ∧
         t.get g PWR.LAST_REFUSER.CAUSE = cause % 256 ∧ Raised g 2 s t ∧ t.dom = s.dom))) ∧
  ((∀ (s : State) (d : Nat) (rest : List Nat), s.inReset = false → s.pwr.phase = .stopping → s.pwr.todo = d :: rest →
     ∃ t, exec .domainStopped s = .next t ∧
     (rest = [] → t.pwr = Pwr.reset ∧ t.pwrBusy = false ∧ t.get Page.pwr PWR.PWR_STAT.RESULT = 1 ∧ Raised Page.pwr 0 s t ∧
       t.dom = s.dom) ∧
     (∀ e more, rest = e :: more → 1 ≤ e → s.domState e = .on →
       (s.refuser e = none → ¬ (e = 6 ∧ s.pwr.target = .retention) → t.domState e = s.pwr.target ∧
         t.pwr.phase = .stopping ∧ t.pwr.todo = rest ∧ t.pwr.stopped = d :: s.pwr.stopped) ∧
       (∀ p cause, s.refuser e = some (p, cause) → t.pwr.todo = d :: s.pwr.stopped ∧
         t.pwr.phase = (if s.flag Page.clk CLK.CLK_STAT.ROOT_LOCK then .rolling else .rollRoot) ∧
         t.get Page.pwr PWR.ABORT_COUNT.COUNT = Nat.min (s.get Page.pwr PWR.ABORT_COUNT.COUNT + 1) 65535 ∧
         t.get Page.pwr PWR.REFUSE_COUNT.COUNT = Nat.min (s.get Page.pwr PWR.REFUSE_COUNT.COUNT + 1) 65535 ∧
         t.dom = s.dom))) ∧
   (∀ s : State, s.inReset = false → s.pwr.phase = .signing → s.holds Kind.retSig 6 = true →
     ∃ t, exec .retSigDone s = .next t ∧ t.domState 6 = .retention ∧ t.pwr.phase = .stopping ∧
       t.holds Kind.retSig 6 = false ∧ t.pwr.todo = s.pwr.todo) ∧
   (∀ s : State, s.inReset = false → s.pwr.phase = .waitGrant →
     (s.flag Page.clk CLK.CLK_STAT.ROOT_LOCK = true →
       s.holds (wakeKind (s.pwr.todo.headD 0)).1 (wakeKind (s.pwr.todo.headD 0)).2 = true →
       ∃ t, exec .domainWakeGranted s = .next t ∧ t.pwr = { s.pwr with phase := .waking } ∧
         OnlyRegs [(Page.pwr, 0x44)] s t ∧ Only [.fld, .pwr] s t) ∧
     (s.flag Page.clk CLK.CLK_STAT.ROOT_LOCK = false ∨
       s.holds (wakeKind (s.pwr.todo.headD 0)).1 (wakeKind (s.pwr.todo.headD 0)).2 = false →
       exec .domainWakeGranted s = .next s)) ∧
   (∀ (s : State) (d : Nat) (rest : List Nat), s.inReset = false → s.pwr.todo = d :: rest → 1 ≤ d → d ≤ 9 →
     (s.pwr.phase = .waking → ∃ t, exec .domainWakeDone s = .next t ∧ t.domState d = .on ∧
       (∀ e, e ≠ d → t.domState e = s.domState e) ∧
       (rest = [] → t.pwr = Pwr.reset ∧ t.get Page.pwr PWR.PWR_STAT.RESULT = 1 ∧ t.pwrBusy = false) ∧
       (rest ≠ [] → t.pwr.todo = rest ∧ t.pwr.phase =
         if s.flag Page.clk CLK.CLK_STAT.ROOT_LOCK then .waitGrant else .waitRoot)) ∧
     (s.pwr.phase = .rolling → ∃ t, exec .domainWakeDone s = .next t ∧ t.domState d = .on ∧
       (rest = [] → t.pwr = Pwr.reset ∧ t.get Page.pwr PWR.PWR_STAT.RESULT = 2 ∧
         (t.get Page.pwr HDR.IRQ_RAW.RAW).testBit 1 = true) ∧
       (rest ≠ [] → t.pwr.todo = rest ∧ t.pwr.phase =
         if s.flag Page.clk CLK.CLK_STAT.ROOT_LOCK then .rolling else .rollRoot))))

/-- LEDGER_GRANT (R399, R400): releases come first, then the new requests join the queue, then the scan; no
charge that the scan makes takes a supply over its budget, no request is lost, and a grant that nobody gave
back stays. -/
def Obligations.LedgerKeepsItsBudgets : Prop :=
  ∀ s : State, s.inReset = false → ∃ t, exec .ledgerGrant s = .next t ∧
    let held := s.ledger.held.filter (fun c => c.rollback || !s.ledger.rel.contains c.req)
    t.ledger.rel = [] ∧ t.ledger.fresh = [] ∧
    (∀ n, n < 8 → inUse t.ledger.held n ≤ Nat.max (inUse held n) (s.get Page.pwr (PWR.BUDGET.UNITS n))) ∧
    (∀ c ∈ held, c ∈ t.ledger.held) ∧
    (∀ r ∈ s.ledger.queue ++ s.ledger.fresh, r ∈ t.ledger.queue ∨ s.chargeOf r false ∈ t.ledger.held) ∧
    (∀ c ∈ t.ledger.held, c ∈ held ∨ ∃ r ∈ s.ledger.queue ++ s.ledger.fresh, c = s.chargeOf r false) ∧
    (∀ n, n < 8 → t.get Page.pwr (PWR.INUSE.UNITS n) = inUse t.ledger.held n % 2 ^ 13) ∧
    Only [.fld, .ledger] s t

/-- LEDGER_TIMEOUT, THERMAL_SAMPLE, VCORE_EVALUATE, VCORE_MOVE (R400 to R402, R412, R425): a request that
the one scan of its cycle does not grant is removed and counted, a wake one ends its power request with
result 4; the alarms follow the hottest sensor with 2 °C of hysteresis, and a sensor outside –40 to +125 °C
leaves the whole device undefined; VDD_CORE moves by at most 10 mV toward its goal once a command is
acknowledged within four tries, and a request that raised it asks for its first wake grant when the raise is
reached. -/
def Obligations.TimeoutsAlarmsAndVcore : Prop :=
  (∀ (s : State) (kind inst : Nat), s.inReset = false → s.waits kind inst = true → kind < 11 → inst < 32 →
    s.ledger.untimed.contains ⟨kind, inst⟩ = false →
    (s.ledger.scanned = some s.mgmtNow ∨ s.ledgerCycle.waits kind inst = true) → ∃ t, exec (.ledgerTimeout kind inst) s = .next t ∧
    t.get Page.pwr PWR.LEDGER_LAST.KIND = kind ∧ t.get Page.pwr PWR.LEDGER_LAST.INSTANCE = inst ∧
    (t.get Page.pwr HDR.IRQ_RAW.RAW).testBit 4 = true ∧
    t.get Page.pwr PWR.GRANT_TMO_COUNT.COUNT = Nat.min (s.get Page.pwr PWR.GRANT_TMO_COUNT.COUNT + 1) 65535 ∧
    (kind ≠ Kind.scrub → t.waits kind inst = false) ∧
    (kind < 6 → s.pwr.phase = .waitGrant → t.get Page.pwr PWR.PWR_STAT.RESULT = 4 ∧ t.pwr = Pwr.reset)) ∧
  (∀ (s : State) (kind inst : Nat), s.waits kind inst = false ∨ s.ledger.untimed.contains ⟨kind, inst⟩ = true → exec (.ledgerTimeout kind inst) s = .next s) ∧
  (∀ (s : State) (temps : List Int), s.inReset = false → ∃ t, exec (.thermalSample temps) s = .next t ∧
    let m := (List.range 8).map (fun i => (satTo 16 (temps.getD i 0)).1)
    t.dpll.temps = m ∧ t.get Page.pwr PWR.THERM_STAT.SENSOR < 8 ∧
    (∀ x ∈ m, x ≤ t.getI Page.pwr PWR.THERM_STAT.HIGHEST) ∧
    m[t.get Page.pwr PWR.THERM_STAT.SENSOR]? = some (t.getI Page.pwr PWR.THERM_STAT.HIGHEST) ∧
    (∀ n ∈ [1, 2], let level := s.getI Page.pwr (PWR.THERM_LEVEL.LEVEL n)
      let hi := t.getI Page.pwr PWR.THERM_STAT.HIGHEST
      t.flag Page.pwr (PWR.THERM_STAT.ALARM n) = (if s.flag Page.pwr (PWR.THERM_STAT.ALARM n)
        then decide (level - 512 < hi) else decide (level ≤ hi)) ∧
      (s.flag Page.pwr (PWR.THERM_STAT.ALARM n) = false → level ≤ hi →
        (t.get Page.pwr HDR.IRQ_RAW.RAW).testBit (4 + n) = true)) ∧
    ((∀ x ∈ m, -10240 ≤ x ∧ x ≤ 32000) → t.undef = s.undef) ∧
    ((∃ x ∈ m, x < -10240 ∨ 32000 < x) → ∀ d < 10, Tab.get false t.undef d = true) ∧
    OnlyRegs [(Page.pwr, 0x1A0), (Page.pwr, 0x10)] s t ∧ Only [.fld, .undef, .dpll] s t) ∧
  (∀ (s : State) (mv : Nat), s.inReset = false → s.ready = true → s.mgmt.restart = false →
    ∃ t, exec (.vcoreEvaluate mv) s = .next t ∧ 650 ≤ t.vcore.want ∧ t.vcore.want ≤ 850 ∧
      (650 ≤ mv → mv ≤ 850 → t.vcore.want = mv / 5 * 5) ∧ t.vcore.failed = false ∧ t.fld = s.fld ∧ Only [.vcore] s t) ∧
  (∀ (s : State) (acks : List Bool), s.inReset = false → s.ready = true → s.mgmt.restart = false →
    s.vcore.failed = false → s.vcore.want ≠ 0 →
    let cur := s.get Page.busm BUSM.VCORE_SET.MV
    let goal := s.vcoreGoal
    cur ≠ goal → ∃ t, exec (.vcoreMove acks) s = .next t ∧
      (true ∉ acks.take 4 → t.vcore.failed = true ∧ t.get Page.busm BUSM.VCORE_SET.MV = cur ∧ t.pwr = s.pwr) ∧
      (true ∈ acks.take 4 → t.get Page.busm BUSM.VCORE_SET.MV =
        (if cur < goal then Nat.min goal (cur + 10) else Nat.max goal (cur - 10)) % 1024 ∧
        (s.pwr.phase ≠ .raising → t.pwr = s.pwr) ∧
        (s.pwr.phase = .raising → s.vcore.up.isSome = true → s.pwr.todo ≠ [] →
          let u := s.vcore.up.getD 0
          (t.get Page.busm BUSM.VCORE_SET.MV < u → t.pwr = s.pwr) ∧
          (u ≤ t.get Page.busm BUSM.VCORE_SET.MV → t.pwr.todo = s.pwr.todo ∧
            t.pwr.phase = if s.flag Page.clk CLK.CLK_STAT.ROOT_LOCK then .waitGrant else .waitRoot))))

/-- COMMANDS COMPLETE WITH THEIR OWN EFFECT (R20, R35, R40, R77, R128, R146, R147, R152, R156, R229, R237,
R246, R254, R281, R289, R293, R305, R333, R334): where the conditions named here hold of the state and the
operands alone, a nominal start, a tick, a SET, an ALIGN, a register write, a table write, a write of the
Signal Plane, the phases of a cluster pass, a frame barrier, a core's overrun, an interrupt entry, a CSYNC
release, a doorbell, a bus write, a DMA descriptor, a block, a marker and a cell received, a missing marker,
an invalid header and the expiry of a wrapped cell answer a next state with that effect. -/
def Obligations.CommandsCompleteWithTheirEffect : Prop :=
  (∀ s : State, s.inReset = false → s.time.starts ≠ 0 → s.flag Page.ntime NTIME.NT_STAT.SET_PEND = false →
    s.flag Page.ntime NTIME.NT_STAT.ALIGN_PEND = false → ∃ t, exec .nominalCycleStart s = .next t ∧
      t.time.c = s.time.c + 1 ∧ t.time.q = (s.time.q + 31250) % (3 * 2 ^ 32) ∧ t.time.phase = 0) ∧
  (∀ (s : State) (sense : List SensePair) (i : BitVec 32), s.inReset = false → s.nextTick = some i →
    ∃ t, exec (.fsTick sense) s = .next t ∧ t.fseq.tick = i ∧ t.fseq.ticksDone = s.fseq.ticksDone + 1) ∧
  (∀ s : State, s.inReset = false → s.flag Page.ntime NTIME.NT_STAT.SET_PEND = true → s.time.starts ≠ 0 →
    ∃ t, exec .setDone s = .next t ∧ t.time.c = BitVec.ofNat 32 (s.get Page.ntime NTIME.CYC_SET_VAL.CYCLE) ∧
      t.time.q = 3 * s.get Page.ntime NTIME.NT_SET_VAL.NT % (3 * 2 ^ 32)) ∧
  (∀ (s : State) (v : Int × Int) (x : Nat × RxMarker), s.inReset = false → s.dpll.align = some x →
    s.flag Page.ntime NTIME.NT_STAT.ALIGN_PEND = true → s.flag Page.ntime NTIME.NT_STAT.SET_PEND = false →
    State.alignValues { s with time :=
      ⟨s.time.nextCQ.1, s.time.nextCQ.2, 0, s.time.starts + 1, s.time.bit31⟩ } = some v →
    ∃ t, exec .alignDone s = .next t ∧ t.time.c = BitVec.ofInt 32 v.1 ∧
      t.time.q = (v.2 % (3 * 2 ^ 32)).toNat) ∧
  (∀ (s : State) (acc : Access) (v : Nat), s.Takes Page.gpio → Writes acc Page.gpio 0x40 v →
    ∃ t, exec (.registerWrite acc) s = .next t ∧ t.get Page.gpio GPIO.GPIO_DIR.DIR = v % 2 ^ 32 ∧
      OnlyRegs [(Page.gpio, 0x40)] s t) ∧
  (∀ (s : State) (acc : Access) (p set : Nat), s.inReset = false → acc.by_ ≠ .jtag → acc.size = 4 →
    acc.enables.toNat % 16 = 15 → acc.addr % 4 = 0 → placeOf acc.addr = .table p set → s.pageOn p = true →
    s.locked p = false → set ≠ s.activeSet p → s.shadowHeld p = false →
    ∃ t, exec (.tableWrite acc) s = .next t ∧ (∀ x ∈ accBytes acc, t.byte x.1 = x.2) ∧ t.dirty p = true) ∧
  (∀ (s : State) (acc : Access) (n : Nat), s.inReset = false → s.domOn 5 = true → 0x22000000 ≤ acc.addr →
    acc.addr + acc.size ≤ 0x22400000 → acc.by_ = .clus (n / 8) → accBytes acc ≠ [] →
    (∀ x ∈ accBytes acc, s.mayWritePlane n ((x.1 - 0x22000000) / 0x200000) ((x.1 - 0x22000000) / 128 % 16384)
      ((x.1 - 0x22000000) % 128 / 4) = true) →
    ∃ t, exec (.signalPlaneWrite acc n) s = .next t ∧ ∀ x ∈ accBytes acc, t.byte x.1 = x.2) ∧
  (∀ (s : State) (c : Nat), s.clusLive c = true →
    ((s.cl c).phase = .waiting → (s.nowCores c).all (fun n => ((s.settleCores c).core n).waits) = true →
      ∃ t, exec (.stageInStart c) s = .next t ∧ (t.cl c).phase = .stageIn) ∧
    ((s.cl c).phase = .stageIn → ∃ t, exec (.coreFrameStart c) s = .next t ∧ (t.cl c).phase = .frame ∧
      ∀ n ∈ clusCores c, (s.core n).overrun = false → t.flag (Page.ibex n) IBEX.CORE_CTRL.ENABLE = true →
        (t.core n).run = .running) ∧
    ((s.cl c).phase = .frame → (s.cl c).overrun = false →
      (s.nowCores c).all (fun n => (s.core n).run == .barrier) = true →
      ∃ t, exec (.stageOutStart c) s = .next t ∧ (t.cl c).phase = .stageOut) ∧
    ((s.cl c).phase = .stageOut → ∃ t, exec (.stageOutDone c) s = .next t ∧ (t.cl c).phase = .idle)) ∧
  (∀ (s : State) (n : Nat), s.coreLive n = true →
    ((s.core n).run = .draining → ∃ t, exec (.frameBarrierReached n) s = .next t ∧ (t.core n).run = .barrier) ∧
    ((s.cl (n / 8)).phase = .frame → n ∈ s.nowCores (n / 8) → (s.core n).overrun = false →
      (s.core n).run ≠ .barrier → ∃ t, exec (.coreOverrun n) s = .next t ∧ (t.core n).run = .barrier ∧
        (t.core n).overrun = true ∧ (t.cl (n / 8)).overrun = true) ∧
    ((s.core n).run = .barrier → (s.core n).halted = false → (s.core n).ie = true → (s.core n).pendingSrc = true →
      (s.cl (n / 8)).phase = .idle → ∃ t, exec (.interruptEntry n) s = .next t ∧
        (t.core n).run = .handlerAtBarrier ∧ (t.core n).ie = false ∧ (t.core n).inh = true ∧
        (t.core n).redirect = some (BitVec.ofNat 12 (s.get (Page.ibex n) IBEX.IVEC.BUNDLE)))) ∧
  (∀ (s : State) (n : Nat) (v : Word), n < 32 → s.Takes (Page.ibex n) → v.getLsbD 0 = true →
    ∃ t, exec (.doorbell n v) s = .next t ∧ (t.core n).isrc = (s.core n).isrc ||| 1) ∧
  (∀ (s : State) (c : Nat), s.clusLive c = true → s.nowCores c ≠ [] →
    (∀ n ∈ s.nowCores c, (s.core n).run = .csync ∧ (s.core n).inh = false ∧ (s.core n).halted = false) →
    ∃ t, exec (.csyncRelease c) s = .next t ∧ ∀ n ∈ s.nowCores c, (t.core n).run = .running) ∧
  (∀ (s : State) (by_ : Master) (addr : Nat) (bytes : List Byte) (qos : BitVec 4) (core : Nat) (inL0 : Bool),
    s.inReset = false → by_ ≠ .jtag → s.admits by_ qos.toNat = true →
    s.waiting.any (fun w => w.by_ == by_) = false → StoreClean s addr bytes.length →
    ∃ t, exec (.busTransaction by_ true addr bytes (List.replicate bytes.length true) qos core inL0) s = .next t ∧
      (∀ i, (h : i < bytes.length) → t.byte (addr + i) = bytes[i]) ∧
      ∀ x, (x < addr ∨ addr + bytes.length ≤ x) → t.byte x = s.byte x) ∧
  (∀ (s : State) (e code moved : Nat) (busErr : Bool), s.inReset = false → e < 4 →
    (s.dmaActive e = false → s.flag (Page.dma e) DMA.DMA_CTRL.RUN = true →
      s.get (Page.dma e) DMA.RING_HEAD.HEAD ≠ s.get (Page.dma e) DMA.RING_TAIL.TAIL →
      StoreClean s (s.descAddr e) 32 → ∃ t, exec (.dmaDescriptorStart e) s = .next t ∧ t.dmaActive e = true ∧
        (t.dma e).desc = s.readLE (s.descAddr e) 32) ∧
    (s.dmaActive e = true → (s.dma e).code = some code → code < 256 → StoreClean s (s.dma e).from_ 32 →
      ∃ t, exec (.dmaDescriptorDone e busErr moved) s = .next t ∧ t.dmaActive e = false ∧
        t.readLE ((s.dma e).from_ + 28) 4 = code + s.nt / 256 * 256)) ∧
  (∀ (s : State) (l : Nat), s.receives l = true →
    (∀ (body : Body) (arrive : Nat), s.aligned l = true →
      let b := descramble (if s.rxInverts l then ~~~body else body)
      let m := markerOf b (s.lineBits arrive)
      markerOk b = true → m.cyc = (s.lane l).due → s.pairSkew l m = none →
      ∃ t, exec (.markerReceive l body arrive) s = .next t ∧ (t.lane l).due = (m.cyc + 1) % 2 ^ 32 ∧
        (t.lane l).miss = 0 ∧ (t.lane l).marks.head? = some m) ∧
    (s.aligned l = true → ∃ t, exec (.markerMissing l) s = .next t ∧ t.get (Page.lane l)
      LANE.MARKER_MISS_COUNT.COUNT = Nat.min (s.get (Page.lane l) LANE.MARKER_MISS_COUNT.COUNT + 1) 65535) ∧
    (s.aligned l = true → ∃ t, exec (.invalidHeader l) s = .next t ∧ t.get (Page.lane l)
      LANE.HDR_ERR_COUNT.COUNT = Nat.min (s.get (Page.lane l) LANE.HDR_ERR_COUNT.COUNT + 1) (2 ^ 32 - 1))) ∧
  (∀ (s : State) (l : Nat) (body : Body) (arrive : Nat), s.receives l = true → s.aligned l = true →
    (ctlOk body Ctl.idle false = true → ∃ t, exec (.idleReceive l body) s = .next t ∧
      t.get (Page.lane l) LANE.IDLE_ERR_COUNT.COUNT =
        Nat.min (s.get (Page.lane l) LANE.IDLE_ERR_COUNT.COUNT + ones body.toNat 190) (2 ^ 32 - 1)) ∧
    (ctlOk body Ctl.service true = true → arrive < 2 ^ 64 → 1 ≤ bodyField body 64 8 → bodyField body 64 8 ≤ 0x3F →
      (s.port (portOf l)).svcRx.length < 16 → ∃ t, exec (.serviceReceive l body arrive) s = .next t ∧
        (t.port (portOf l)).svcRx = (s.port (portOf l)).svcRx ++ [svcWords body]) ∧
    (ctlOk body Ctl.ts1 true = true → ∃ t, exec (.ts1Receive l body) s = .next t ∧
      t.get (Page.lane l) LANE.PARTNER.NODE_ID = bodyField body 72 16) ∧
    (ctlOk body Ctl.ts2 true = true → s.phase l = Phase.confirm → (s.lane l).confDone = true →
      bodyField body 90 1 = 1 → bodyField body 68 2 = (if 8 ≤ l then 1 else 0) →
      bodyField body 88 2 = s.get (Page.lane l) LANE.LANE_CTRL.RATE →
      ∃ t, exec (.ts2Receive l body) s = .next t ∧ t.phase l = Phase.up) ∧
    (ctlOk body Ctl.loopTest true = true → bodyField body 64 1 = 0 →
      ∃ t, exec (.loopTestReceive l body) s = .next t ∧ (t.lane l).loops = (s.lane l).loops ++
        [⟨true, bodyField body 72 16, Word.ofNat (bodyField body 88 32)⟩])) ∧
  (∀ (s : State) (p : Nat) (cell : Cell) (arrive : Nat), p < 4 → s.laneOn = true →
    (cellOrigin cell s.cycle).2 ≤ s.get Page.ring RING.RING_CFG.AGE_MAX →
    oddHalfRate (s.streamEnt (s.governs cell.stream.toNat)) (cellOrigin cell s.cycle).1 = false →
    (s.carrying p = true → s.inserted p = true → s.phase (s.cellArrives p cell) ≠ Phase.confirm →
      ∃ t, exec (.cellReceive p cell arrive) s = .next t ∧ t.get (Page.trunk p) TRUNK.CELLS_RX.COUNT =
        Nat.min (s.get (Page.trunk p) TRUNK.CELLS_RX.COUNT + 1) (2 ^ 32 - 1)) ∧
    (s.carrying (p + 4) = true → s.phase (p + 8) ≠ Phase.confirm →
      ∃ t, exec (.spurCellReceive p cell arrive) s = .next t ∧ t.get (Page.spur p) TRUNK.CELLS_RX.COUNT =
        Nat.min (s.get (Page.spur p) TRUNK.CELLS_RX.COUNT + 1) (2 ^ 32 - 1))) ∧
  (∀ (s : State) (k : Nat) (c : TxCell) (q : List TxCell), k < 4 → s.laneOn = true → (s.port k).waitq = c :: q →
    ∃ t, exec (.wrappedCellExpiry k) s = .next t ∧ (t.port k).waitq = q)
end

