-- ==== Sys2Proof/Laws/Tab.lean ====
section
/-! SUPPORT. Sparse tables: what reading after writing gives, and that every operation keeps the canonical
form. -/

namespace Sys2Proof.Machine

variable {α : Type} [DecidableEq α] {d : α}

/-- The canonical form in terms of the list library. -/
theorem Tab.wf_iff (t : Tab α) :
    Tab.wf d t = true ↔ t.Pairwise (fun a b => a.1 < b.1) ∧ ∀ e ∈ t, e.2 ≠ d := by
  induction t with
  | nil => simp [Tab.wf]
  | cons e t ih =>
    obtain ⟨k, v⟩ := e
    cases t with
    | nil => simp [Tab.wf]
    | cons e' t =>
      obtain ⟨k', v'⟩ := e'
      simp only [Tab.wf, Bool.and_eq_true, bne_iff_ne, decide_eq_true_eq, ih, List.pairwise_cons,
        List.mem_cons, forall_eq_or_imp]
      constructor
      · rintro ⟨⟨h1, h2⟩, ⟨h3, h4⟩, h5, h6⟩
        exact ⟨⟨⟨h2, fun a ha => Nat.lt_trans h2 (h3 a ha)⟩, h3, h4⟩, h1, h5, h6⟩
      · rintro ⟨⟨⟨h2, _⟩, h3, h4⟩, h1, h5, h6⟩
        exact ⟨⟨h1, h2⟩, ⟨h3, h4⟩, h5, h6⟩

@[simp] theorem Tab.wf_nil : Tab.wf d ([] : Tab α) = true := rfl

/-- Any part of a canonical table, in its order, is canonical. -/
theorem Tab.wf_sublist {t u : Tab α} (h : u.Sublist t) (ht : Tab.wf d t = true) : Tab.wf d u = true := by
  rw [Tab.wf_iff] at *
  exact ⟨ht.1.sublist h, fun e he => ht.2 e (h.subset he)⟩

theorem Tab.wf_filter (p : Nat × α → Bool) {t : Tab α} (ht : Tab.wf d t = true) :
    Tab.wf d (t.filter p) = true := Tab.wf_sublist List.filter_sublist ht

theorem Tab.wf_drop {t : Tab α} (i : Nat) (ht : Tab.wf d t = true) : Tab.wf d (Tab.drop t i) = true :=
  Tab.wf_filter _ ht

theorem Tab.wf_clear {t : Tab α} (lo hi : Nat) (ht : Tab.wf d t = true) :
    Tab.wf d (Tab.clear t lo hi) = true := Tab.wf_filter _ ht

/-- The keys that a write leaves are the written one and some of the old ones. -/
theorem Tab.mem_put {t : Tab α} {i : Nat} {v : α} {e : Nat × α} (h : e ∈ Tab.put d t i v) :
    e = (i, v) ∧ v ≠ d ∨ e ∈ t := by
  induction t with
  | nil => simp only [Tab.put] at h; split at h <;> simp_all
  | cons x t ih =>
    obtain ⟨k, w⟩ := x
    simp only [Tab.put, Tab.drop] at h
    split at h
    · split at h
      · exact .inr (List.mem_of_mem_filter h)
      · rcases List.mem_cons.1 h with h | h
        · exact .inl ⟨h, by assumption⟩
        · exact .inr h
    · split at h
      · split at h
        · exact .inr (List.mem_cons_of_mem _ (List.mem_of_mem_filter h))
        · rcases List.mem_cons.1 h with h | h
          · exact .inl ⟨h, by assumption⟩
          · exact .inr (List.mem_cons_of_mem _ h)
      · rcases List.mem_cons.1 h with h | h
        · exact .inr (h ▸ List.mem_cons_self)
        · rcases ih h with h | h
          · exact .inl h
          · exact .inr (List.mem_cons_of_mem _ h)

/-- A write keeps the canonical form. -/
theorem Tab.wf_put {t : Tab α} (i : Nat) (v : α) (ht : Tab.wf d t = true) :
    Tab.wf d (Tab.put d t i v) = true := by
  induction t with
  | nil => simp only [Tab.put]; split <;> simp_all [Tab.wf]
  | cons x t ih =>
    obtain ⟨k, w⟩ := x
    have hs : Tab.wf d t = true := Tab.wf_sublist (List.sublist_cons_self _ _) ht
    have hp := (Tab.wf_iff _).1 ht
    simp only [Tab.put]
    split
    · split
      · exact Tab.wf_drop _ ht
      · rw [Tab.wf_iff]
        refine ⟨List.pairwise_cons.2 ⟨fun a ha => ?_, hp.1⟩, fun e he => ?_⟩
        · rcases List.mem_cons.1 ha with rfl | ha
          · assumption
          · have := (List.pairwise_cons.1 hp.1).1 a ha
            simp only at *; omega
        · rcases List.mem_cons.1 he with rfl | he
          · assumption
          · exact hp.2 e he
    · split
      · split
        · exact Tab.wf_drop _ hs
        · rw [Tab.wf_iff]
          refine ⟨List.pairwise_cons.2 ⟨fun a ha => ?_, (List.pairwise_cons.1 hp.1).2⟩, fun e he => ?_⟩
          · have := (List.pairwise_cons.1 hp.1).1 a ha
            simp only at *; omega
          · rcases List.mem_cons.1 he with rfl | he
            · assumption
            · exact hp.2 e (List.mem_cons_of_mem _ he)
      · have hi := (Tab.wf_iff _).1 (ih hs)
        rw [Tab.wf_iff]
        refine ⟨List.pairwise_cons.2 ⟨fun a ha => ?_, hi.1⟩, fun e he => ?_⟩
        · rcases Tab.mem_put ha with ⟨rfl, _⟩ | ha
          · simp only; omega
          · exact (List.pairwise_cons.1 hp.1).1 a ha
        · rcases List.mem_cons.1 he with rfl | he
          · exact hp.2 _ List.mem_cons_self
          · exact hi.2 e he

theorem Tab.wf_puts {t : Tab α} (l : List (Nat × α)) (ht : Tab.wf d t = true) :
    Tab.wf d (Tab.puts d t l) = true := by
  unfold Tab.puts
  induction l generalizing t with
  | nil => exact ht
  | cons e l ih => exact ih (Tab.wf_put _ _ ht)

/-- A copied range keeps the canonical form. -/
theorem Tab.wf_copy {t : Tab α} (src dst n : Nat) (ht : Tab.wf d t = true) :
    Tab.wf d (Tab.copy t src dst n) = true := by
  rw [Tab.wf_iff] at *
  obtain ⟨h1, h2⟩ := ht
  unfold Tab.copy Tab.range
  constructor
  · rw [List.pairwise_append, List.pairwise_append]
    refine ⟨⟨h1.filter _, ?_, ?_⟩, h1.filter _, ?_⟩
    · rw [List.pairwise_map]
      refine (List.Pairwise.and_mem.1 (h1.filter _)).imp ?_
      intro a b h
      simp only [List.mem_filter, decide_eq_true_eq] at h
      omega
    · intro a ha b hb
      simp only [List.mem_map, List.mem_filter, decide_eq_true_eq] at ha hb
      obtain ⟨c, hc, rfl⟩ := hb
      simp only; omega
    · intro a ha b hb
      simp only [List.mem_append, List.mem_map, List.mem_filter, decide_eq_true_eq] at ha hb
      rcases ha with ha | ⟨c, hc, rfl⟩
      · omega
      · simp only; omega
  · intro e he
    simp only [List.mem_append, List.mem_map, List.mem_filter] at he
    rcases he with (he | ⟨c, hc, rfl⟩) | he
    · exact h2 e he.1
    · exact h2 c hc.1
    · exact h2 e he.1

theorem Tab.wf_swap {t : Tab α} (a b n : Nat) (ht : Tab.wf d t = true) :
    Tab.wf d (Tab.swap d t a b n) = true := Tab.wf_puts _ (Tab.wf_clear _ _ (Tab.wf_clear _ _ ht))

/-! ### Reading after writing -/

omit [DecidableEq α] in
@[simp] theorem Tab.get_nil (i : Nat) : Tab.get d ([] : Tab α) i = d := rfl

omit [DecidableEq α] in
/-- Nothing under a key: the default is read. -/
theorem Tab.get_of_not_mem {t : Tab α} {i : Nat} (h : ∀ e ∈ t, e.1 ≠ i) : Tab.get d t i = d := by
  induction t with
  | nil => rfl
  | cons e t ih =>
    have h0 := h e List.mem_cons_self
    simp only [Tab.get]
    rw [if_neg (fun h => h0 h.symm)]
    exact ih (fun x hx => h x (List.mem_cons_of_mem _ hx))

omit [DecidableEq α] in
theorem Tab.get_drop_self (t : Tab α) (i : Nat) : Tab.get d (Tab.drop t i) i = d :=
  Tab.get_of_not_mem (fun e he => by simpa using (List.mem_filter.1 he).2)

omit [DecidableEq α] in
theorem Tab.get_drop_ne (t : Tab α) {i j : Nat} (h : j ≠ i) :
    Tab.get d (Tab.drop t i) j = Tab.get d t j := by
  induction t with
  | nil => rfl
  | cons e t ih =>
    obtain ⟨k, v⟩ := e
    unfold Tab.drop at *
    by_cases hk : k = i
    · subst hk
      simp only [List.filter, bne_self_eq_false, Tab.get, if_neg h]
      exact ih
    · have : (k != i) = true := by simpa using hk
      simp only [List.filter, this, Tab.get, ih]

/-- A read of the written key gives the written value. -/
@[simp] theorem Tab.get_put_self (t : Tab α) (i : Nat) (v : α) : Tab.get d (Tab.put d t i v) i = v := by
  induction t with
  | nil => simp only [Tab.put]; split <;> simp_all [Tab.get]
  | cons e t ih =>
    obtain ⟨k, w⟩ := e
    simp only [Tab.put]
    split
    · split
      · rw [Tab.get_drop_self]; symm; assumption
      · simp [Tab.get]
    · split
      · split
        · rw [Tab.get_drop_self]; symm; assumption
        · simp [Tab.get]
      · simp only [Tab.get]; rw [if_neg (by assumption)]; exact ih

/-- A read of any other key gives what it gave. -/
@[simp] theorem Tab.get_put_ne (t : Tab α) {i j : Nat} (v : α) (h : j ≠ i) :
    Tab.get d (Tab.put d t i v) j = Tab.get d t j := by
  induction t with
  | nil => simp only [Tab.put]; split <;> simp [Tab.get, h]
  | cons e t ih =>
    obtain ⟨k, w⟩ := e
    simp only [Tab.put]
    split
    · split
      · exact Tab.get_drop_ne _ h
      · simp only [Tab.get, if_neg h]
    · split
      · rename_i hk
        subst hk
        split
        · rw [Tab.get_drop_ne _ h]; simp only [Tab.get, if_neg h]
        · simp only [Tab.get, if_neg h]
      · simp only [Tab.get, ih]

/-- Another key read with any default. -/
theorem Tab.get_put_other (t : Tab α) {e : α} {i j : Nat} (v : α) (h : j ≠ i) :
    Tab.get e (Tab.put d t i v) j = Tab.get e t j := by
  induction t with
  | nil => simp only [Tab.put]; split <;> simp [Tab.get, h]
  | cons x t ih =>
    obtain ⟨k, w⟩ := x
    simp only [Tab.put]
    split
    · split
      · exact Tab.get_drop_ne _ h
      · simp only [Tab.get, if_neg h]
    · split
      · rename_i hk
        subst hk
        split
        · rw [Tab.get_drop_ne _ h]; simp only [Tab.get, if_neg h]
        · simp only [Tab.get, if_neg h]
      · simp only [Tab.get, ih]

theorem Tab.get_put (t : Tab α) (i j : Nat) (v : α) :
    Tab.get d (Tab.put d t i v) j = if j = i then v else Tab.get d t j := by
  split
  · rename_i h; subst h; exact Tab.get_put_self _ _ _
  · exact Tab.get_put_ne _ _ (by assumption)

/-- Writes under other keys leave a key alone. -/
theorem Tab.get_puts_ne (t : Tab α) (l : List (Nat × α)) {j : Nat} (h : ∀ e ∈ l, e.1 ≠ j) :
    Tab.get d (Tab.puts d t l) j = Tab.get d t j := by
  unfold Tab.puts
  induction l generalizing t with
  | nil => rfl
  | cons e l ih =>
    rw [List.foldl_cons, ih _ (fun x hx => h x (List.mem_cons_of_mem _ hx)),
      Tab.get_put_ne _ _ (fun hj => h e List.mem_cons_self hj.symm)]

/-- Two canonical tables that read alike are the same data. -/
theorem Tab.ext_of_get {t u : Tab α} (ht : Tab.wf d t = true) (hu : Tab.wf d u = true)
    (h : ∀ i, Tab.get d t i = Tab.get d u i) : t = u := by
  induction t generalizing u with
  | nil =>
    cases u with
    | nil => rfl
    | cons e u =>
      have h1 := h e.1
      have h2 := ((Tab.wf_iff _).1 hu).2 e List.mem_cons_self
      simp only [Tab.get, if_true] at h1
      exact absurd h1.symm h2
  | cons e t ih =>
    obtain ⟨k, v⟩ := e
    have hp := (Tab.wf_iff _).1 ht
    have low (j : Nat) (hj : j ≤ k) : Tab.get d t j = d :=
      Tab.get_of_not_mem (fun x hx => by
        have h := (List.pairwise_cons.1 hp.1).1 x hx
        simp only at h; omega)
    cases u with
    | nil =>
      have h1 := h k
      simp only [Tab.get, if_true] at h1
      exact absurd h1 (hp.2 _ List.mem_cons_self)
    | cons e' u =>
      obtain ⟨k', v'⟩ := e'
      have hq := (Tab.wf_iff _).1 hu
      have low' (j : Nat) (hj : j ≤ k') : Tab.get d u j = d :=
        Tab.get_of_not_mem (fun x hx => by
          have h := (List.pairwise_cons.1 hq.1).1 x hx
          simp only at h; omega)
      have hv := hp.2 _ List.mem_cons_self
      have hv' := hq.2 _ List.mem_cons_self
      have hk : k = k' := by
        rcases Nat.lt_trichotomy k k' with hlt | heq | hgt
        · have h1 := h k
          simp only [Tab.get, if_true, if_neg (Nat.ne_of_lt hlt)] at h1
          rw [low' k (Nat.le_of_lt hlt)] at h1
          exact absurd h1 hv
        · exact heq
        · have h1 := h k'
          simp only [Tab.get, if_true, if_neg (Nat.ne_of_lt hgt)] at h1
          rw [low k' (Nat.le_of_lt hgt)] at h1
          exact absurd h1.symm hv'
      subst hk
      have h1 := h k
      simp only [Tab.get, if_true] at h1
      subst h1
      congr 1
      refine ih (Tab.wf_sublist (List.sublist_cons_self _ _) ht)
        (Tab.wf_sublist (List.sublist_cons_self _ _) hu) (fun i => ?_)
      by_cases hi : i = k
      · subst hi; rw [low i (Nat.le_refl _), low' i (Nat.le_refl _)]
      · have := h i
        simpa only [Tab.get, if_neg hi] using this

end Sys2Proof.Machine
end

