-- ==== Sys2Proof/Laws/Keeps.lean ====
section
/-! SUPPORT. The relation `Keeps` between two states: it is reflexive and transitive, a record update that
touches none of its parts has it, and folds have it where their step has. -/

namespace Sys2Proof.Machine

theorem Keeps.refl (s : State) : Keeps s s :=
  ⟨rfl, id, Nat.le_refl _, fun _ h => h, Nat.le_refl _⟩

theorem Keeps.trans {a b c : State} (h : Keeps a b) (g : Keeps b c) : Keeps a c :=
  ⟨g.pending.trans h.pending, fun i => g.inv (h.inv i), Nat.le_trans h.rollback g.rollback,
   fun k e => g.key k (h.key k e), Nat.le_trans h.free g.free⟩

/-- A state that differs in no part that `Keeps` speaks of. -/
theorem Keeps.upd {a b : State} {x1 : Bool} {x2 : Tab Nat} {x3 : Tab Nat} {x4 : Tab Nat} {x5 : Tab Bool} {x6 : Tab Bool}
    {x8 : Tab Bool} {x9 : Tab (Option Ecc)} {x10 : Tab DomState} {x11 : Tab Bool}
    {x13 : Tab Core} {x14 : Tab Clus} {x15 : FrameSeq} {x16 : Oryx} {x17 : Tab Meter}
    {x18 : Tab EqSec} {x19 : Delay} {x20 : Ledger} {x21 : Pwr} {x22 : Tab Lane} {x23 : Ring}
    {x24 : Dpll} {x25 : Tab Audio} {x26 : Nat} {x27 : Tab Amp} {x28 : Tab Boost} {x29 : Cal}
    {x30 : CommitReq} {x32 : Pins} {x33 : Tab Dma} {x34 : List Retry} {x35 : Vcore}
    {x37 : List Word} {x38 : Bool}
    (h : Keeps a b) :
    Keeps a (State.mk b.pending x1 x2 x3 x4 x5 x6 b.mem x8 x9 x10 x11 b.time x13 x14 x15 x16 x17 x18 x19 x20 x21
      x22 x23 x24 x25 x26 x27 x28 x29 x30 b.mgmt x32 x33 x34 x35 b.freeCtr x37 x38) :=
  h.trans ⟨rfl, fun i => ⟨i.mem, i.phase, i.q⟩, Nat.le_refl _, fun _ e => e, Nat.le_refl _⟩

/-- A state that differs in memory, time, management controller or free values as `Keeps` allows. -/
theorem Keeps.step {a b : State} {x1 : Bool} {x2 : Tab Nat} {x3 : Tab Nat} {x4 : Tab Nat} {x5 : Tab Bool} {x6 : Tab Bool}
    {m : List Host.Cell} {x8 : Tab Bool} {x9 : Tab (Option Ecc)} {x10 : Tab DomState} {x11 : Tab Bool} {t : Time}
    {x13 : Tab Core} {x14 : Tab Clus} {x15 : FrameSeq} {x16 : Oryx} {x17 : Tab Meter}
    {x18 : Tab EqSec} {x19 : Delay} {x20 : Ledger} {x21 : Pwr} {x22 : Tab Lane} {x23 : Ring}
    {x24 : Dpll} {x25 : Tab Audio} {x26 : Nat} {x27 : Tab Amp} {x28 : Tab Boost} {x29 : Cal}
    {x30 : CommitReq} {g : Mgmt} {x32 : Pins} {x33 : Tab Dma} {x34 : List Retry} {x35 : Vcore} {f : Nat}
    {x37 : List Word} {x38 : Bool}
    (h : Keeps a b) (hm : Memory.wf b.mem = true → Memory.wf m = true)
    (hp : b.time.phase < 32768 → t.phase < 32768) (hq : b.time.q < 3 * 2 ^ 32 → t.q < 3 * 2 ^ 32)
    (hr : b.mgmt.rollback ≤ g.rollback) (hk : ∀ k, b.mgmt.key = some k → g.key = some k)
    (hf : b.freeCtr ≤ f) :
    Keeps a (State.mk b.pending x1 x2 x3 x4 x5 x6 m x8 x9 x10 x11 t x13 x14 x15 x16 x17 x18 x19 x20 x21
      x22 x23 x24 x25 x26 x27 x28 x29 x30 g x32 x33 x34 x35 f x37 x38) :=
  h.trans ⟨rfl, fun i => ⟨hm i.mem, hp i.phase, hq i.q⟩, hr, hk, hf⟩

/-- A change of memory that keeps its form. -/
theorem Keeps.withMem {a b : State} (h : Keeps a b) (m : List Host.Cell)
    (hm : Memory.wf b.mem = true → Memory.wf m = true) : Keeps a { b with mem := m } :=
  h.trans ⟨rfl, fun i => ⟨hm i.mem, i.phase, i.q⟩, Nat.le_refl _, fun _ e => e, Nat.le_refl _⟩

/-- A change of time that stays inside the link cycle and below the range of Q. -/
theorem Keeps.withTime {a b : State} (h : Keeps a b) (t : Time)
    (hp : b.time.phase < 32768 → t.phase < 32768) (hq : b.time.q < 3 * 2 ^ 32 → t.q < 3 * 2 ^ 32) :
    Keeps a { b with time := t } :=
  h.trans ⟨rfl, fun i => ⟨i.mem, hp i.phase, hq i.q⟩, Nat.le_refl _, fun _ e => e, Nat.le_refl _⟩

/-- A change of the management controller that keeps its counter and its key. -/
theorem Keeps.withMgmt {a b : State} (h : Keeps a b) (m : Mgmt) (hr : b.mgmt.rollback ≤ m.rollback)
    (hk : ∀ k, b.mgmt.key = some k → m.key = some k) : Keeps a { b with mgmt := m } :=
  h.trans ⟨rfl, fun i => ⟨i.mem, i.phase, i.q⟩, hr, hk, Nat.le_refl _⟩

/-- A fold whose step has it. -/
theorem Keeps.foldl {β : Type} {a : State} {f : State → β → State} {l : List β} {s : State}
    (h : Keeps a s) (hf : ∀ t x, Keeps a t → Keeps a (f t x)) : Keeps a (l.foldl f s) := by
  induction l generalizing s with
  | nil => exact h
  | cons x l ih => exact ih (hf s x h)

/-- The same for a fold that carries a state beside other data. -/
theorem Keeps.foldl_snd {β γ : Type} {a : State} {f : γ × State → β → γ × State} {l : List β}
    {p : γ × State} (h : Keeps a p.2) (hf : ∀ t x, Keeps a t.2 → Keeps a (f t x).2) :
    Keeps a (l.foldl f p).2 := by
  induction l generalizing p with
  | nil => exact h
  | cons x l ih => exact ih (hf p x h)

theorem Keeps.foldl_fst {β γ : Type} {a : State} {f : State × γ → β → State × γ} {l : List β}
    {p : State × γ} (h : Keeps a p.1) (hf : ∀ t x, Keeps a t.1 → Keeps a (f t x).1) :
    Keeps a (l.foldl f p).1 := by
  induction l generalizing p with
  | nil => exact h
  | cons x l ih => exact ih (hf p x h)

/-- The answer of a command that is a next state. -/
theorem Keeps.next {a b c : State} (h : Keeps a b)
    (e : (Host.Outcome.next b : Host.Outcome State Fault Refusal) = .next c) : Keeps a c := by
  cases e; exact h

end Sys2Proof.Machine
end

