-- ==== Sys2Proof/Laws/KeepsOps.lean ====
section
/-! SUPPORT. What no command undoes (`Keeps`), for the shared operations over registers, engines and links: one lemma per function
that gives a state. -/

namespace Sys2Proof.Machine

theorem State.respond_keeps {σ : State} (s : State) (err : Bool) (h : Keeps σ s) :
    Keeps σ (State.respond s err) := by
  unfold State.respond
  with_reducible repeat' (first | assumption | fail_if_no_progress apply Keeps.upd)

theorem State.put_keeps {σ : State} (s : State) (p : Nat) (f : Fld) (v : Nat) (h : Keeps σ s) :
    Keeps σ (State.put s p f v) := by
  unfold State.put
  with_reducible repeat' (first | assumption | fail_if_no_progress apply Keeps.upd)

theorem State.putB_keeps {σ : State} (s : State) (p : Nat) (f : Fld) (b : Bool) (h : Keeps σ s) :
    Keeps σ (State.putB s p f b) := by
  unfold State.putB
  with_reducible repeat' (first | assumption | apply State.put_keeps)

theorem State.putSh_keeps {σ : State} (s : State) (p : Nat) (f : Fld) (v : Nat) (h : Keeps σ s) :
    Keeps σ (State.putSh s p f v) := by
  unfold State.putSh
  with_reducible repeat' (first | assumption | fail_if_no_progress apply Keeps.upd)

theorem State.putDirty_keeps {σ : State} (s : State) (p : Nat) (f : Fld) (v : Nat) (h : Keeps σ s) :
    Keeps σ (State.putDirty s p f v) := by
  unfold State.putDirty
  with_reducible repeat' (first | assumption | apply State.putSh_keeps | fail_if_no_progress apply Keeps.upd)

theorem State.bump_keeps {σ : State} (s : State) (p : Nat) (f : Fld) (n : Nat) (h : Keeps σ s) :
    Keeps σ (State.bump s p f n) := by
  unfold State.bump
  with_reducible repeat' (first | assumption | apply State.put_keeps)

theorem State.maxUp_keeps {σ : State} (s : State) (p : Nat) (f : Fld) (v : Nat) (h : Keeps σ s) :
    Keeps σ (State.maxUp s p f v) := by
  unfold State.maxUp
  with_reducible repeat' (first | assumption | apply State.put_keeps)

theorem State.putI_keeps {σ : State} (s : State) (p : Nat) (f : Fld) (z : Int) (h : Keeps σ s) :
    Keeps σ (State.putI s p f z) := by
  unfold State.putI
  with_reducible repeat' (first | assumption | apply State.put_keeps)

theorem State.raise_keeps {σ : State} (s : State) (p : Nat) (b : Nat) (h : Keeps σ s) :
    Keeps σ (State.raise s p b) := by
  unfold State.raise
  with_reducible repeat' (first | assumption | apply State.put_keeps)

theorem State.atPhase_keeps {σ : State} (s : State) (at_ : Nat) (h : Keeps σ s) : Keeps σ (State.atPhase s at_) :=
  h.trans ⟨rfl, fun i => ⟨i.mem, Nat.lt_of_le_of_lt (Nat.min_le_right _ _) (by decide), i.q⟩,
    Nat.le_refl _, fun _ e => e, Nat.le_refl _⟩

theorem State.log_keeps {σ : State} (s : State) (p : Nat) (code : Nat) (h : Keeps σ s) :
    Keeps σ (State.log s p code) := by
  unfold State.log
  with_reducible repeat' (first | assumption | apply State.bump_keeps | apply State.put_keeps)

theorem State.draw_keeps {σ : State} (s : State) (h : Keeps σ s) : Keeps σ (State.draw s).2 :=
  h.trans ⟨rfl, fun i => ⟨i.mem, i.phase, i.q⟩, Nat.le_refl _, fun _ e => e, Nat.le_succ _⟩

theorem State.drawBytes_keeps {σ : State} (s : State) (n : Nat) (h : Keeps σ s) :
    Keeps σ (State.drawBytes s n).2 := by
  induction n generalizing s with
  | zero => exact h
  | succ n ih => exact ih _ (State.draw_keeps _ h)

theorem State.loseDomain_keeps {σ : State} (s : State) (d : Nat) (h : Keeps σ s) :
    Keeps σ (State.loseDomain s d) := by
  unfold State.loseDomain
  with_reducible repeat' (first | assumption | fail_if_no_progress apply Keeps.upd)

theorem State.loseDevice_keeps {σ : State} (s : State) (h : Keeps σ s) :
    Keeps σ (State.loseDevice s) := by
  unfold State.loseDevice
  with_reducible repeat' (first
    | assumption | apply State.loseDomain_keeps | (refine Keeps.foldl ?_ (fun _ _ _ => ?_)))

theorem State.blockWrite_keeps {σ : State} (s : State) (p : Nat) (f : State → State) (hf : ∀ x, Keeps σ x → Keeps σ (f x)) (h : Keeps σ s) :
    Keeps σ (State.blockWrite s p f) := by
  unfold State.blockWrite
  with_reducible repeat' (first
    | assumption | apply hf | apply State.log_keeps | fail_if_no_progress apply Keeps.upd | split)

theorem State.ctrlWrite_keeps {σ : State} (s : State) (p : Nat) (f : State → State) (hf : ∀ x, Keeps σ x → Keeps σ (f x)) (h : Keeps σ s) :
    Keeps σ (State.ctrlWrite s p f) := by
  unfold State.ctrlWrite
  with_reducible repeat' (first
    | assumption | apply hf | apply State.log_keeps | fail_if_no_progress apply Keeps.upd | split)

theorem State.blockRead_keeps {σ : State} (s : State) (p : Nat) (f : State → State) (hf : ∀ x, Keeps σ x → Keeps σ (f x)) (h : Keeps σ s) :
    Keeps σ (State.blockRead s p f) := by
  unfold State.blockRead
  with_reducible repeat' (first
    | assumption | apply hf | apply State.log_keeps | apply State.draw_keeps
    | fail_if_no_progress apply Keeps.upd | split)

theorem State.setByte_keeps {σ : State} (s : State) (a : Nat) (v : Byte) (h : Keeps σ s) :
    Keeps σ (State.setByte s a v) := h.withMem _ (Tab.wf_put _ _)

theorem State.setBytes_keeps {σ : State} (s : State) (l : List (Nat × Byte)) (h : Keeps σ s) :
    Keeps σ (State.setBytes s l) := h.withMem _ (Tab.wf_puts _)

theorem State.setWord_keeps {σ : State} (s : State) (a : Nat) (v : Word) (h : Keeps σ s) :
    Keeps σ (State.setWord s a v) := by
  unfold State.setWord
  with_reducible repeat' (first | assumption | apply State.setBytes_keeps)

theorem State.shadowWrite_keeps {σ : State} (s : State) (p : Nat) (l : List (Fld × Nat)) (h : Keeps σ s) :
    Keeps σ (State.shadowWrite s p l) := by
  unfold State.shadowWrite
  with_reducible repeat' (first
    | assumption | apply State.log_keeps | apply State.putDirty_keeps
    | (refine Keeps.foldl ?_ (fun _ _ _ => ?_)) | (refine Keeps.foldl_snd ?_ (fun _ _ _ => ?_))
    | (refine Keeps.foldl_fst ?_ (fun _ _ _ => ?_)) | fail_if_no_progress apply Keeps.upd | split)

theorem State.ledgerView_keeps {σ : State} (s : State) (h : Keeps σ s) :
    Keeps σ (State.ledgerView s) := by
  unfold State.ledgerView
  with_reducible repeat' (first
    | assumption | apply State.put_keeps | apply State.putB_keeps
    | (refine Keeps.foldl ?_ (fun _ _ _ => ?_)))

theorem State.withLedger_keeps {σ : State} (s : State) (l : Ledger) (h : Keeps σ s) :
    Keeps σ (State.withLedger s l) := by
  unfold State.withLedger
  with_reducible repeat' (first
    | assumption | apply State.ledgerView_keeps | fail_if_no_progress apply Keeps.upd)

theorem State.request_keeps {σ : State} (s : State) (kind : Nat) (inst : Nat) (h : Keeps σ s) :
    Keeps σ (State.request s kind inst) := by
  unfold State.request
  with_reducible repeat' (first | assumption | apply State.withLedger_keeps)

theorem State.release_keeps {σ : State} (s : State) (kind : Nat) (inst : Nat) (h : Keeps σ s) :
    Keeps σ (State.release s kind inst) := by
  unfold State.release
  with_reducible repeat' (first | assumption | apply State.withLedger_keeps)

theorem State.chargeNow_keeps {σ : State} (s : State) (kind : Nat) (inst : Nat) (h : Keeps σ s) :
    Keeps σ (State.chargeNow s kind inst) := by
  unfold State.chargeNow
  with_reducible repeat' (first | assumption | apply State.withLedger_keeps)

theorem State.unchargeNow_keeps {σ : State} (s : State) (kind : Nat) (inst : Nat) (h : Keeps σ s) :
    Keeps σ (State.unchargeNow s kind inst) := by
  unfold State.unchargeNow
  with_reducible repeat' (first | assumption | apply State.withLedger_keeps)

theorem State.ledgerCycle_keeps {σ : State} (s : State) (h : Keeps σ s) :
    Keeps σ (State.ledgerCycle s) := by
  unfold State.ledgerCycle
  with_reducible repeat' (first | assumption | apply State.withLedger_keeps)

theorem State.ledgerExpire_keeps {σ : State} (s : State) (kind : Nat) (inst : Nat) (h : Keeps σ s) :
    Keeps σ (State.ledgerExpire s kind inst) := by
  unfold State.ledgerExpire
  with_reducible repeat' (first
    | assumption | apply State.withLedger_keeps | apply State.bump_keeps | apply State.put_keeps
    | apply State.raise_keeps)

theorem State.setStoreEcc_keeps {σ : State} (s : State) (a : Nat) (e : Option Ecc) (h : Keeps σ s) :
    Keeps σ (State.setStoreEcc s a e) := by
  unfold State.setStoreEcc
  with_reducible repeat' (first | assumption | fail_if_no_progress apply Keeps.upd)

theorem State.storeEccEvent_keeps {σ : State} (s : State) (a : Nat) (uncorr : Bool) (h : Keeps σ s) :
    Keeps σ (State.storeEccEvent s a uncorr) := by
  unfold State.storeEccEvent
  with_reducible repeat' (first
    | assumption | apply State.loseDomain_keeps | apply State.bump_keeps | apply State.put_keeps
    | apply State.raise_keeps | apply State.putB_keeps | fail_if_no_progress apply Keeps.upd | split)

theorem State.lostCount_keeps {σ : State} (s : State) (a : Nat) (n : Nat) (h : Keeps σ s) :
    Keeps σ (State.lostCount s a n) := by
  unfold State.lostCount
  with_reducible repeat' (first
    | assumption | apply State.bump_keeps | (refine Keeps.foldl ?_ (fun _ _ _ => ?_))
    | (refine Keeps.foldl_snd ?_ (fun _ _ _ => ?_)) | (refine Keeps.foldl_fst ?_ (fun _ _ _ => ?_))
    | fail_if_no_progress apply Keeps.upd | split)

theorem State.storeCheck_keeps {σ : State} (s : State) (a : Nat) (h : Keeps σ s) :
    Keeps σ (State.storeCheck s a).2 := by
  unfold State.storeCheck
  with_reducible repeat' (first
    | assumption | apply State.storeEccEvent_keeps | fail_if_no_progress apply Keeps.upd | split)

theorem State.storeRead_keeps {σ : State} (s : State) (a : Nat) (n : Nat) (h : Keeps σ s) :
    Keeps σ (State.storeRead s a n).2.2 := by
  unfold State.storeRead
  with_reducible repeat' (first
    | assumption | apply State.log_keeps | apply State.storeCheck_keeps | apply State.lostCount_keeps
    | (refine Keeps.foldl ?_ (fun _ _ _ => ?_)) | (refine Keeps.foldl_snd ?_ (fun _ _ _ => ?_))
    | (refine Keeps.foldl_fst ?_ (fun _ _ _ => ?_)) | fail_if_no_progress apply Keeps.upd | split)

theorem State.storeWord_keeps {σ : State} (s : State) (w : Nat) (l : List (Nat × Byte)) (h : Keeps σ s) :
    Keeps σ (State.storeWord s w l) := by
  unfold State.storeWord
  with_reducible repeat' (first
    | assumption | apply State.setStoreEcc_keeps | apply State.setBytes_keeps
    | apply State.storeEccEvent_keeps | fail_if_no_progress apply Keeps.upd | split | intro _ | dsimp only)

theorem State.storePut_keeps {σ : State} (s : State) (a : Nat) (n : Nat) (l : List (Nat × Byte)) (h : Keeps σ s) :
    Keeps σ (State.storePut s a n l) := by
  unfold State.storePut
  with_reducible repeat' (first
    | assumption | apply State.storeWord_keeps | apply State.lostCount_keeps
    | (refine Keeps.foldl ?_ (fun _ _ _ => ?_)))

theorem State.storeWrite_keeps {σ : State} (s : State) (a : Nat) (n : Nat) (l : List (Nat × Byte)) (h : Keeps σ s) :
    Keeps σ (State.storeWrite s a n l) := by
  unfold State.storeWrite
  with_reducible repeat' (first
    | assumption | apply State.log_keeps | apply State.storePut_keeps | fail_if_no_progress apply Keeps.upd
    | split)

theorem State.storeLine_keeps {σ : State} (s : State) (a : Nat) (h : Keeps σ s) :
    Keeps σ (State.storeLine s a) := by
  unfold State.storeLine
  with_reducible repeat' (first
    | assumption | apply State.bump_keeps | apply State.storeCheck_keeps
    | (refine Keeps.foldl ?_ (fun _ _ _ => ?_)) | (refine Keeps.foldl_snd ?_ (fun _ _ _ => ?_))
    | (refine Keeps.foldl_fst ?_ (fun _ _ _ => ?_)) | fail_if_no_progress apply Keeps.upd | split)

theorem State.setCl_keeps {σ : State} (s : State) (c : Nat) (v : Clus) (h : Keeps σ s) :
    Keeps σ (State.setCl s c v) := by
  unfold State.setCl
  with_reducible repeat' (first | assumption | fail_if_no_progress apply Keeps.upd)

theorem State.setCore1_keeps {σ : State} (s : State) (n : Nat) (c : Core) (h : Keeps σ s) :
    Keeps σ (State.setCore1 s n c) := by
  unfold State.setCore1
  with_reducible repeat' (first | assumption | fail_if_no_progress apply Keeps.upd)

theorem State.migCancel_keeps {σ : State} (s : State) (c : Nat) (cause : Nat) (h : Keeps σ s) :
    Keeps σ (State.migCancel s c cause) := by
  unfold State.migCancel
  with_reducible repeat' (first
    | assumption | apply State.put_keeps | apply State.raise_keeps | apply State.release_keeps
    | apply State.setCl_keeps | apply State.setCore1_keeps | (refine Keeps.foldl ?_ (fun _ _ _ => ?_))
    | (refine Keeps.foldl_snd ?_ (fun _ _ _ => ?_)) | (refine Keeps.foldl_fst ?_ (fun _ _ _ => ?_))
    | fail_if_no_progress apply Keeps.upd | split | intro _ | dsimp only)

theorem State.migCancelOf_keeps {σ : State} (s : State) (c : Nat) (cause : Nat) (h : Keeps σ s) :
    Keeps σ (State.migCancelOf s c cause) := by
  unfold State.migCancelOf
  with_reducible repeat' (first
    | assumption | apply State.migCancel_keeps | (refine Keeps.foldl ?_ (fun _ _ _ => ?_))
    | (refine Keeps.foldl_snd ?_ (fun _ _ _ => ?_)) | (refine Keeps.foldl_fst ?_ (fun _ _ _ => ?_))
    | fail_if_no_progress apply Keeps.upd | split)

theorem State.setCore_keeps {σ : State} (s : State) (n : Nat) (c : Core) (h : Keeps σ s) :
    Keeps σ (State.setCore s n c) := by
  unfold State.setCore
  with_reducible repeat' (first
    | assumption | apply State.setCore1_keeps | fail_if_no_progress apply Keeps.upd | split)

theorem State.onCorePage_keeps {σ : State} (s : State) (n : Nat) (g : State → Nat → State) (hg : ∀ x y0, Keeps σ x → Keeps σ (g x y0)) (h : Keeps σ s) :
    Keeps σ (State.onCorePage s n g) := by
  unfold State.onCorePage
  with_reducible repeat' (first | assumption | apply hg | fail_if_no_progress apply Keeps.upd | split)

theorem State.coreEv_keeps {σ : State} (s : State) (n : Nat) (e : Ev) (h : Keeps σ s) :
    Keeps σ (State.coreEv s n e) := by
  unfold State.coreEv
  with_reducible repeat' (first
    | assumption | apply State.onCorePage_keeps | apply State.raise_keeps | apply State.bump_keeps
    | apply State.maxUp_keeps | fail_if_no_progress apply Keeps.upd | split | intro _)

theorem State.ibexEccEvent_keeps {σ : State} (s : State) (a : Nat) (uncorr : Bool) (h : Keeps σ s) :
    Keeps σ (State.ibexEccEvent s a uncorr) := by
  unfold State.ibexEccEvent
  with_reducible repeat' (first
    | assumption | apply State.loseDomain_keeps | apply State.migCancelOf_keeps | apply State.bump_keeps
    | apply State.put_keeps | apply State.raise_keeps | fail_if_no_progress apply Keeps.upd | split)

theorem State.checkWords_keeps {σ : State} (s : State) (a n : Nat) (h : Keeps σ s) :
    Keeps σ (State.checkWords s a n) := by
  induction n generalizing s a with
  | zero => exact h
  | succ n ih =>
    unfold State.checkWords
    apply ih
    split
    · exact State.ibexEccEvent_keeps _ _ _ h
    · exact State.ibexEccEvent_keeps _ _ _ h
    · exact h

theorem State.clearEcc_keeps {σ : State} (s : State) (l : List (Nat × Byte)) (h : Keeps σ s) :
    Keeps σ (State.clearEcc s l) := by
  unfold State.clearEcc
  with_reducible repeat' (first | assumption | fail_if_no_progress apply Keeps.upd)

theorem State.writeLocal_keeps {σ : State} (s : State) (l : List (Nat × Byte)) (h : Keeps σ s) :
    Keeps σ (State.writeLocal s l) := by
  unfold State.writeLocal
  with_reducible repeat' (first | assumption | apply State.clearEcc_keeps | apply State.setBytes_keeps)

theorem State.localRead_keeps {σ : State} (s : State) (a : Nat) (n : Nat) (h : Keeps σ s) :
    Keeps σ (State.localRead s a n).2 := by
  unfold State.localRead
  with_reducible repeat' (first
    | assumption | apply State.ibexEccEvent_keeps | apply State.respond_keeps
    | (refine Keeps.foldl ?_ (fun _ _ _ => ?_)) | (refine Keeps.foldl_snd ?_ (fun _ _ _ => ?_))
    | (refine Keeps.foldl_fst ?_ (fun _ _ _ => ?_)) | fail_if_no_progress apply Keeps.upd | split)

theorem State.localWord_keeps {σ : State} (s : State) (w : Nat) (l : List (Nat × Byte)) (h : Keeps σ s) :
    Keeps σ (State.localWord s w l) := by
  unfold State.localWord
  with_reducible repeat' (first
    | assumption | apply State.writeLocal_keeps | apply State.ibexEccEvent_keeps
    | fail_if_no_progress apply Keeps.upd | split)

theorem State.localWrite_keeps {σ : State} (s : State) (a : Nat) (n : Nat) (l : List (Nat × Byte)) (h : Keeps σ s) :
    Keeps σ (State.localWrite s a n l) := by
  unfold State.localWrite
  with_reducible repeat' (first
    | assumption | apply State.localWord_keeps | (refine Keeps.foldl ?_ (fun _ _ _ => ?_)))

theorem State.xmStore_keeps {σ : State} (s : State) (n : Nat) (clk : Nat) (e : Nat × Byte) (h : Keeps σ s) :
    Keeps σ (State.xmStore s n clk e) := by
  unfold State.xmStore
  with_reducible repeat' (first
    | assumption | apply State.writeLocal_keeps | apply State.setCl_keeps
    | fail_if_no_progress apply Keeps.upd | split | intro _ | dsimp only)

theorem State.coreStore_keeps {σ : State} (s : State) (n : Nat) (clk : Nat) (l : List (Nat × Byte)) (h : Keeps σ s) :
    Keeps σ (State.coreStore s n clk l) := by
  unfold State.coreStore
  with_reducible repeat' (first
    | assumption | apply State.xmStore_keeps | apply State.writeLocal_keeps
    | (refine Keeps.foldl ?_ (fun _ _ _ => ?_)))

theorem State.finishOp_keeps {σ : State} (s : State) (n : Nat) (slot : Nat) (o : OpOut) (h : Keeps σ s) :
    Keeps σ (State.finishOp s n slot o) := by
  unfold State.finishOp
  with_reducible repeat' (first
    | assumption | apply State.setCore_keeps | apply State.coreEv_keeps | apply State.checkWords_keeps
    | apply State.coreStore_keeps | (refine Keeps.foldl ?_ (fun _ _ _ => ?_)))

theorem State.fetchCheck_keeps {σ : State} (s : State) (base : Nat) (pc : BitVec 12) (h : Keeps σ s) :
    Keeps σ (State.fetchCheck s base pc) := by
  unfold State.fetchCheck
  with_reducible repeat' (first
    | assumption | apply State.ibexEccEvent_keeps | (refine Keeps.foldl ?_ (fun _ _ _ => ?_))
    | (refine Keeps.foldl_snd ?_ (fun _ _ _ => ?_)) | (refine Keeps.foldl_fst ?_ (fun _ _ _ => ?_))
    | fail_if_no_progress apply Keeps.upd | split | intro _ | dsimp only)

theorem State.fetchFor_keeps {σ : State} (s : State) (at_ : Issue) (h : Keeps σ s) :
    Keeps σ (State.fetchFor s at_) := by
  unfold State.fetchFor
  with_reducible repeat' (first
    | assumption | apply State.fetchCheck_keeps | (refine Keeps.foldl ?_ (fun _ _ _ => ?_)))

theorem State.illegal_keeps {σ : State} (s : State) (n : Nat) (slot : Nat) (c : Core) (h : Keeps σ s) :
    Keeps σ (State.illegal s n slot c) := by
  unfold State.illegal
  with_reducible repeat' (first
    | assumption | apply State.setCore_keeps | apply State.onCorePage_keeps | apply State.put_keeps
    | apply State.raise_keeps | apply State.bump_keeps | fail_if_no_progress apply Keeps.upd | split
    | intro _)

theorem State.issueOr_keeps {σ : State} (s : State) (at_ : Issue) (bad : Core → Bool) (f : State → Core → OpOut) (h : Keeps σ s) :
    Keeps σ (State.issueOr s at_ bad f) := by
  unfold State.issueOr
  with_reducible repeat' (first
    | assumption | apply State.fetchFor_keeps | apply State.setCore_keeps | apply State.illegal_keeps
    | apply State.finishOp_keeps | fail_if_no_progress apply Keeps.upd | split | intro _ | dsimp only)

theorem State.issue_keeps {σ : State} (s : State) (at_ : Issue) (f : State → Core → OpOut) (h : Keeps σ s) :
    Keeps σ (State.issue s at_ f) := by
  unfold State.issue
  with_reducible repeat' (first | assumption | apply State.issueOr_keeps)

theorem State.issueCore_keeps {σ : State} (s : State) (at_ : Issue) (f : Core → OpOut) (h : Keeps σ s) :
    Keeps σ (State.issueCore s at_ f) := by
  unfold State.issueCore
  with_reducible repeat' (first | assumption | apply State.issue_keeps)

theorem State.issueFlow_keeps {σ : State} (s : State) (at_ : Issue) (bad : Core → Bool) (f : Core → Core) (h : Keeps σ s) :
    Keeps σ (State.issueFlow s at_ bad f) := by
  unfold State.issueFlow
  with_reducible repeat' (first
    | assumption | apply State.fetchFor_keeps | apply State.setCore_keeps | apply State.illegal_keeps
    | fail_if_no_progress apply Keeps.upd | split | intro _ | dsimp only)

theorem State.issueMac_keeps {σ : State} (s : State) (at_ : Issue) (bad : Bool) (f : Core → OpOut) (h : Keeps σ s) :
    Keeps σ (State.issueMac s at_ bad f) := by
  unfold State.issueMac
  with_reducible repeat' (first
    | assumption | apply State.issueOr_keeps | fail_if_no_progress apply Keeps.upd | split)

theorem State.issueAcc_keeps {σ : State} (s : State) (at_ : Issue) (bad : Bool) (f : Core → OpOut) (h : Keeps σ s) :
    Keeps σ (State.issueAcc s at_ bad f) := by
  unfold State.issueAcc
  with_reducible repeat' (first
    | assumption | apply State.issueOr_keeps | fail_if_no_progress apply Keeps.upd | split)

theorem State.issueAddr_keeps {σ : State} (s : State) (at_ : Issue) (f : Core → OpOut) (h : Keeps σ s) :
    Keeps σ (State.issueAddr s at_ f) := by
  unfold State.issueAddr
  with_reducible repeat' (first
    | assumption | apply State.issueOr_keeps | fail_if_no_progress apply Keeps.upd | split)

theorem State.planeWrite_keeps {σ : State} (s : State) (b : Nat) (sig : Nat) (k : Nat) (v : Word) (h : Keeps σ s) :
    Keeps σ (State.planeWrite s b sig k v) := by
  unfold State.planeWrite
  with_reducible repeat' (first
    | assumption | apply State.setWord_keeps | fail_if_no_progress apply Keeps.upd)

theorem State.setRamp_keeps {σ : State} (s : State) (k : Nat) (r : Ramp) (h : Keeps σ s) :
    Keeps σ (State.setRamp s k r) := by
  unfold State.setRamp
  with_reducible repeat' (first | assumption | fail_if_no_progress apply Keeps.upd)

theorem State.setFade_keeps {σ : State} (s : State) (k : Nat) (f : Option Fade) (h : Keeps σ s) :
    Keeps σ (State.setFade s k f) := by
  unfold State.setFade
  with_reducible repeat' (first | assumption | fail_if_no_progress apply Keeps.upd)

theorem State.fadeNote_keeps {σ : State} (s : State) (before : Nat) (h : Keeps σ s) :
    Keeps σ (State.fadeNote s before) := by
  unfold State.fadeNote
  with_reducible repeat' (first
    | assumption | apply State.maxUp_keeps | apply State.raise_keeps | fail_if_no_progress apply Keeps.upd
    | split | intro _ | dsimp only)

theorem State.oryxEvents_keeps {σ : State} (s : State) (dst : Nat) (evs : List Ev) (h : Keeps σ s) :
    Keeps σ (State.oryxEvents s dst evs) := by
  unfold State.oryxEvents
  with_reducible repeat' (first
    | assumption | apply State.raise_keeps | apply State.bump_keeps | fail_if_no_progress apply Keeps.upd
    | split)

theorem State.sumDst_keeps {σ : State} (s : State) (keys : List Nat) (dst : Nat) (read : Nat → Word) (h : Keeps σ s) :
    Keeps σ (State.sumDst s keys dst read).2 := by
  unfold State.sumDst
  with_reducible repeat' (first
    | assumption | apply State.setRamp_keeps | apply State.oryxEvents_keeps
    | (refine Keeps.foldl ?_ (fun _ _ _ => ?_)) | (refine Keeps.foldl_snd ?_ (fun _ _ _ => ?_)))

theorem State.endFades_keeps {σ : State} (s : State) (keys : List Nat) (h : Keeps σ s) :
    Keeps σ (State.endFades s keys) := by
  unfold State.endFades
  with_reducible repeat' (first
    | assumption | apply State.setFade_keeps | (refine Keeps.foldl ?_ (fun _ _ _ => ?_))
    | (refine Keeps.foldl_snd ?_ (fun _ _ _ => ?_)) | (refine Keeps.foldl_fst ?_ (fun _ _ _ => ?_))
    | fail_if_no_progress apply Keeps.upd | split)

theorem State.dropEnded_keeps {σ : State} (s : State) (keys : List Nat) (h : Keeps σ s) :
    Keeps σ (State.dropEnded s keys) := by
  unfold State.dropEnded
  with_reducible repeat' (first
    | assumption | apply State.setRamp_keeps | apply State.setFade_keeps
    | (refine Keeps.foldl ?_ (fun _ _ _ => ?_)) | (refine Keeps.foldl_snd ?_ (fun _ _ _ => ?_))
    | (refine Keeps.foldl_fst ?_ (fun _ _ _ => ?_)) | fail_if_no_progress apply Keeps.upd | split)

theorem State.noteRetire_keeps {σ : State} (s : State) (h : Keeps σ s) :
    Keeps σ (State.noteRetire s) := by
  unfold State.noteRetire
  with_reducible repeat' (first | assumption | apply State.put_keeps)

theorem State.oryxPass_keeps {σ : State} (s : State) (i : Nat) (b : Nat) (read : Nat → Nat → Word) (h : Keeps σ s) :
    Keeps σ (State.oryxPass s i b read) := by
  unfold State.oryxPass
  with_reducible repeat' (first
    | assumption | apply State.sumDst_keeps | apply State.planeWrite_keeps | apply State.noteRetire_keeps
    | apply State.dropEnded_keeps | apply State.fadeNote_keeps | apply State.endFades_keeps
    | (refine Keeps.foldl ?_ (fun _ _ _ => ?_)))

theorem State.fastEval_keeps {σ : State} (s : State) (read : Nat → Word) (h : Keeps σ s) :
    Keeps σ (State.fastEval s read).2 := by
  unfold State.fastEval
  with_reducible repeat' (first
    | assumption | apply State.sumDst_keeps | apply State.fadeNote_keeps | apply State.endFades_keeps
    | (refine Keeps.foldl ?_ (fun _ _ _ => ?_)) | (refine Keeps.foldl_snd ?_ (fun _ _ _ => ?_)))

theorem State.fastFrameEnd_keeps {σ : State} (s : State) (h : Keeps σ s) :
    Keeps σ (State.fastFrameEnd s) := by
  unfold State.fastFrameEnd
  with_reducible repeat' (first | assumption | apply State.noteRetire_keeps | apply State.dropEnded_keeps)

theorem State.oryxCompare_keeps {σ : State} (s : State) (old : List Xpt) (which : Xpt → Bool) (h : Keeps σ s) :
    Keeps σ (State.oryxCompare s old which) := by
  unfold State.oryxCompare
  with_reducible repeat' (first
    | assumption | apply State.setRamp_keeps | apply State.setFade_keeps
    | (refine Keeps.foldl ?_ (fun _ _ _ => ?_)) | (refine Keeps.foldl_snd ?_ (fun _ _ _ => ?_))
    | (refine Keeps.foldl_fst ?_ (fun _ _ _ => ?_)) | fail_if_no_progress apply Keeps.upd | split | intro _
    | dsimp only)

theorem State.fadesGone_keeps {σ : State} (s : State) (h : Keeps σ s) :
    Keeps σ (State.fadesGone s) := by
  unfold State.fadesGone
  with_reducible repeat' (first
    | assumption | apply State.setRamp_keeps | apply State.setFade_keeps
    | (refine Keeps.foldl ?_ (fun _ _ _ => ?_)))

theorem State.fadeDropNote_keeps {σ : State} (s : State) (n : Nat) (h : Keeps σ s) :
    Keeps σ (State.fadeDropNote s n) := by
  unfold State.fadeDropNote
  with_reducible repeat' (first
    | assumption | apply State.raise_keeps | apply State.bump_keeps | fail_if_no_progress apply Keeps.upd
    | split)

theorem State.fadeDiscard_keeps {σ : State} (s : State) (h : Keeps σ s) :
    Keeps σ (State.fadeDiscard s) := by
  unfold State.fadeDiscard
  with_reducible repeat' (first | assumption | apply State.fadeDropNote_keeps | apply State.fadesGone_keeps)

theorem State.oryxStart_keeps {σ : State} (s : State) (h : Keeps σ s) :
    Keeps σ (State.oryxStart s) := by
  unfold State.oryxStart
  with_reducible repeat' (first
    | assumption | (refine Keeps.foldl ?_ (fun _ _ _ => ?_)) | (refine Keeps.foldl_snd ?_ (fun _ _ _ => ?_))
    | (refine Keeps.foldl_fst ?_ (fun _ _ _ => ?_)) | fail_if_no_progress apply Keeps.upd)

theorem State.setMeter_keeps {σ : State} (s : State) (c : Nat) (m : Meter) (h : Keeps σ s) :
    Keeps σ (State.setMeter s c m) := by
  unfold State.setMeter
  with_reducible repeat' (first | assumption | fail_if_no_progress apply Keeps.upd)

theorem State.meterReadout_keeps {σ : State} (s : State) (c : Nat) (last : BitVec 32) (h : Keeps σ s) :
    Keeps σ (State.meterReadout s c last) := by
  unfold State.meterReadout
  with_reducible repeat' (first | assumption | apply State.setBytes_keeps)

theorem State.meterTick_keeps {σ : State} (s : State) (j : BitVec 32) (h : Keeps σ s) :
    Keeps σ (State.meterTick s j) := by
  unfold State.meterTick
  with_reducible repeat' (first
    | assumption | apply State.setMeter_keeps | apply State.raise_keeps | apply State.meterReadout_keeps
    | (refine Keeps.foldl ?_ (fun _ _ _ => ?_)) | (refine Keeps.foldl_snd ?_ (fun _ _ _ => ?_))
    | (refine Keeps.foldl_fst ?_ (fun _ _ _ => ?_)) | fail_if_no_progress apply Keeps.upd | split | intro _
    | dsimp only)

theorem State.meterRestart_keeps {σ : State} (s : State) (old : Nat → Nat × Nat) (h : Keeps σ s) :
    Keeps σ (State.meterRestart s old) := by
  unfold State.meterRestart
  with_reducible repeat' (first
    | assumption | apply State.setMeter_keeps | (refine Keeps.foldl ?_ (fun _ _ _ => ?_))
    | (refine Keeps.foldl_snd ?_ (fun _ _ _ => ?_)) | (refine Keeps.foldl_fst ?_ (fun _ _ _ => ?_))
    | fail_if_no_progress apply Keeps.upd | split)

theorem State.setEqSec_keeps {σ : State} (s : State) (c : Nat) (k : Nat) (e : EqSec) (h : Keeps σ s) :
    Keeps σ (State.setEqSec s c k e) := by
  unfold State.setEqSec
  with_reducible repeat' (first | assumption | fail_if_no_progress apply Keeps.upd)

theorem State.eqEvents_keeps {σ : State} (s : State) (evs : List Ev) (h : Keeps σ s) :
    Keeps σ (State.eqEvents s evs) := by
  unfold State.eqEvents
  with_reducible repeat' (first
    | assumption | apply State.raise_keeps | apply State.bump_keeps
    | (refine Keeps.foldl ?_ (fun _ _ _ => ?_)) | (refine Keeps.foldl_snd ?_ (fun _ _ _ => ?_))
    | (refine Keeps.foldl_fst ?_ (fun _ _ _ => ?_)) | fail_if_no_progress apply Keeps.upd | split)

theorem State.eqNote_keeps {σ : State} (s : State) (before : Nat) (h : Keeps σ s) :
    Keeps σ (State.eqNote s before) := by
  unfold State.eqNote
  with_reducible repeat' (first
    | assumption | apply State.maxUp_keeps | apply State.raise_keeps | fail_if_no_progress apply Keeps.upd
    | split | intro _ | dsimp only)

theorem State.eqLeave_keeps {σ : State} (s : State) (c : Nat) (len : Nat) (h : Keeps σ s) :
    Keeps σ (State.eqLeave s c len) := by
  unfold State.eqLeave
  with_reducible repeat' (first
    | assumption | apply State.setEqSec_keeps | (refine Keeps.foldl ?_ (fun _ _ _ => ?_))
    | (refine Keeps.foldl_snd ?_ (fun _ _ _ => ?_)) | (refine Keeps.foldl_fst ?_ (fun _ _ _ => ?_))
    | fail_if_no_progress apply Keeps.upd | split | intro _ | dsimp only)

theorem State.chainSample_keeps {σ : State} (s : State) (c : Nat) (ch : Chain) (x : Word) (h : Keeps σ s) :
    Keeps σ (State.chainSample s c ch x).2 := by
  unfold State.chainSample
  with_reducible repeat' (first
    | assumption | apply State.eqEvents_keeps | apply State.setEqSec_keeps | apply State.eqLeave_keeps
    | (refine Keeps.foldl ?_ (fun _ _ _ => ?_)) | (refine Keeps.foldl_snd ?_ (fun _ _ _ => ?_)))

theorem State.eqPass_keeps {σ : State} (s : State) (i : Nat) (b : Nat) (read : Nat → Nat → Word) (h : Keeps σ s) :
    Keeps σ (State.eqPass s i b read) := by
  unfold State.eqPass
  with_reducible repeat' (first
    | assumption | apply State.chainSample_keeps | apply State.planeWrite_keeps | apply State.eqNote_keeps
    | (refine Keeps.foldl ?_ (fun _ _ _ => ?_)))

theorem State.eqCompare_keeps {σ : State} (s : State) (sOld : State) (h : Keeps σ s) :
    Keeps σ (State.eqCompare s sOld) := by
  unfold State.eqCompare
  with_reducible repeat' (first
    | assumption | apply State.eqNote_keeps | (refine Keeps.foldl ?_ (fun _ _ _ => ?_))
    | (refine Keeps.foldl_snd ?_ (fun _ _ _ => ?_)) | (refine Keeps.foldl_fst ?_ (fun _ _ _ => ?_))
    | fail_if_no_progress apply Keeps.upd)

theorem State.setTap_keeps {σ : State} (s : State) (i : Nat) (t : Tap) (h : Keeps σ s) :
    Keeps σ (State.setTap s i t) := by
  unfold State.setTap
  with_reducible repeat' (first | assumption | fail_if_no_progress apply Keeps.upd)

theorem State.delayNote_keeps {σ : State} (s : State) (before : Nat) (h : Keeps σ s) :
    Keeps σ (State.delayNote s before) := by
  unfold State.delayNote
  with_reducible repeat' (first
    | assumption | apply State.raise_keeps | fail_if_no_progress apply Keeps.upd | split)

theorem State.setGather_keeps {σ : State} (s : State) (base : Nat) (g : Option Gather) (h : Keeps σ s) :
    Keeps σ (State.setGather s base g) := by
  unfold State.setGather
  with_reducible repeat' (first | assumption | fail_if_no_progress apply Keeps.upd)

theorem State.gatherStore_keeps {σ : State} (s : State) (base : Nat) (h : Keeps σ s) :
    Keeps σ (State.gatherStore s base) := by
  unfold State.gatherStore
  with_reducible repeat' (first
    | assumption | apply State.setGather_keeps | apply State.storePut_keeps
    | fail_if_no_progress apply Keeps.upd | split)

theorem State.lineWrite_keeps {σ : State} (s : State) (l : Line) (j : BitVec 32) (v : Word) (h : Keeps σ s) :
    Keeps σ (State.lineWrite s l j v) := by
  unfold State.lineWrite
  with_reducible repeat' (first
    | assumption | apply State.gatherStore_keeps | apply State.setGather_keeps
    | fail_if_no_progress apply Keeps.upd | split | intro _ | dsimp only)

theorem State.lineClear_keeps {σ : State} (s : State) (l : Line) (h : Keeps σ s) :
    Keeps σ (State.lineClear s l) := by
  unfold State.lineClear
  with_reducible repeat' (first | assumption | fail_if_no_progress apply Keeps.upd)

theorem State.lineRestart_keeps {σ : State} (s : State) (l : Line) (h : Keeps σ s) :
    Keeps σ (State.lineRestart s l) := by
  unfold State.lineRestart
  with_reducible repeat' (first | assumption | apply State.bump_keeps | apply State.lineClear_keeps)

theorem State.notelinesLost_keeps {σ : State} (s : State) (h : Keeps σ s) :
    Keeps σ (State.notelinesLost s) := by
  unfold State.notelinesLost
  with_reducible repeat' (first
    | assumption | apply State.raise_keeps | (refine Keeps.foldl ?_ (fun _ _ _ => ?_))
    | (refine Keeps.foldl_snd ?_ (fun _ _ _ => ?_)) | (refine Keeps.foldl_fst ?_ (fun _ _ _ => ?_))
    | fail_if_no_progress apply Keeps.upd | split)

theorem State.restartRefilled_keeps {σ : State} (s : State) (h : Keeps σ s) :
    Keeps σ (State.restartRefilled s) := by
  unfold State.restartRefilled
  with_reducible repeat' (first
    | assumption | apply State.lineRestart_keeps | (refine Keeps.foldl ?_ (fun _ _ _ => ?_))
    | (refine Keeps.foldl_snd ?_ (fun _ _ _ => ?_)) | (refine Keeps.foldl_fst ?_ (fun _ _ _ => ?_))
    | fail_if_no_progress apply Keeps.upd | split)

theorem State.bufFetch_keeps {σ : State} (s : State) (l : Line) (held : Option Nat) (x : Nat) (h : Keeps σ s) :
    Keeps σ (State.bufFetch s l held x) := by
  unfold State.bufFetch
  with_reducible repeat' (first
    | assumption | apply State.storeLine_keeps | fail_if_no_progress apply Keeps.upd | split)

theorem State.fetchAhead_keeps {σ : State} (s : State) (l : Line) (d : Nat) (j : BitVec 32) (h : Keeps σ s) :
    Keeps σ (State.fetchAhead s l d j).2 := by
  unfold State.fetchAhead
  with_reducible repeat' (first | assumption | apply State.bufFetch_keeps)

theorem State.setReady_keeps {σ : State} (s : State) (i : Nat) (x : Option Nat) (h : Keeps σ s) :
    Keeps σ (State.setReady s i x) := by
  unfold State.setReady
  with_reducible repeat' (first | assumption | fail_if_no_progress apply Keeps.upd)

theorem State.waitFetch_keeps {σ : State} (s : State) (l : Line) (i : Nat) (t : Tap) (j : BitVec 32) (h : Keeps σ s) :
    Keeps σ (State.waitFetch s l i t j) := by
  unfold State.waitFetch
  with_reducible repeat' (first
    | assumption | apply State.fetchAhead_keeps | apply State.setReady_keeps
    | fail_if_no_progress apply Keeps.upd | split)

theorem State.tapFetch_keeps {σ : State} (s : State) (l : Line) (i : Nat) (t : Tap) (j : BitVec 32) (h : Keeps σ s) :
    Keeps σ (State.tapFetch s l i t j).2 := by
  unfold State.tapFetch
  with_reducible repeat' (first
    | assumption | apply State.bufFetch_keeps | apply State.setReady_keeps | apply State.waitFetch_keeps
    | fail_if_no_progress apply Keeps.upd | split)

theorem State.delayPass_keeps {σ : State} (s : State) (i : Nat) (b : Nat) (first : BitVec 32) (read : Nat → Nat → Word) (h : Keeps σ s) :
    Keeps σ (State.delayPass s i b first read) := by
  unfold State.delayPass
  with_reducible repeat' (first
    | assumption | apply State.notelinesLost_keeps | apply State.lineWrite_keeps
    | apply State.tapFetch_keeps | apply State.planeWrite_keeps | apply State.setTap_keeps
    | apply State.delayNote_keeps | (refine Keeps.foldl ?_ (fun _ _ _ => ?_))
    | (refine Keeps.foldl_snd ?_ (fun _ _ _ => ?_)) | (refine Keeps.foldl_fst ?_ (fun _ _ _ => ?_))
    | fail_if_no_progress apply Keeps.upd | split)

theorem State.delayCounts_keeps {σ : State} (s : State) (sOld : State) (starts : Bool) (h : Keeps σ s) :
    Keeps σ (State.delayCounts s sOld starts) := by
  unfold State.delayCounts
  with_reducible repeat' (first
    | assumption | apply State.raise_keeps | apply State.put_keeps | apply State.bump_keeps
    | (refine Keeps.foldl ?_ (fun _ _ _ => ?_)))

theorem State.prefetch_keeps {σ : State} (s : State) (taps : List (TapAt × Tap)) (first : BitVec 32) (h : Keeps σ s) :
    Keeps σ (State.prefetch s taps first).2 := by
  unfold State.prefetch
  with_reducible repeat' (first
    | assumption | apply State.fetchAhead_keeps | (refine Keeps.foldl ?_ (fun _ _ _ => ?_))
    | (refine Keeps.foldl_snd ?_ (fun _ _ _ => ?_)) | (refine Keeps.foldl_fst ?_ (fun _ _ _ => ?_))
    | fail_if_no_progress apply Keeps.upd | split)

theorem State.commitFetch_keeps {σ : State} (s : State) (sOld : State) (b : BitVec 32) (h : Keeps σ s) :
    Keeps σ (State.commitFetch s sOld b) := by
  unfold State.commitFetch
  with_reducible repeat' (first
    | assumption | apply State.prefetch_keeps | fail_if_no_progress apply Keeps.upd)

theorem State.delayCompare_keeps {σ : State} (s : State) (sOld : State) (h : Keeps σ s) :
    Keeps σ (State.delayCompare s sOld) := by
  unfold State.delayCompare
  with_reducible repeat' (first
    | assumption | apply State.gatherStore_keeps | apply State.lineClear_keeps | apply State.delayNote_keeps
    | (refine Keeps.foldl ?_ (fun _ _ _ => ?_)) | (refine Keeps.foldl_snd ?_ (fun _ _ _ => ?_))
    | (refine Keeps.foldl_fst ?_ (fun _ _ _ => ?_)) | fail_if_no_progress apply Keeps.upd | split)

theorem State.delayStart_keeps {σ : State} (s : State) (b : BitVec 32) (h : Keeps σ s) :
    Keeps σ (State.delayStart s b) := by
  unfold State.delayStart
  with_reducible repeat' (first
    | assumption | apply State.lineRestart_keeps | apply State.prefetch_keeps
    | (refine Keeps.foldl ?_ (fun _ _ _ => ?_)) | (refine Keeps.foldl_snd ?_ (fun _ _ _ => ?_))
    | (refine Keeps.foldl_fst ?_ (fun _ _ _ => ?_)) | fail_if_no_progress apply Keeps.upd)

theorem State.setLane_keeps {σ : State} (s : State) (l : Nat) (v : Lane) (h : Keeps σ s) :
    Keeps σ (State.setLane s l v) := by
  unfold State.setLane
  with_reducible repeat' (first | assumption | fail_if_no_progress apply Keeps.upd)

theorem State.setPort_keeps {σ : State} (s : State) (p : Nat) (v : Port) (h : Keeps σ s) :
    Keeps σ (State.setPort s p v) := by
  unfold State.setPort
  with_reducible repeat' (first | assumption | fail_if_no_progress apply Keeps.upd)

theorem State.setDpll_keeps {σ : State} (s : State) (st : Nat) (h : Keeps σ s) :
    Keeps σ (State.setDpll s st) := by
  unfold State.setDpll
  with_reducible repeat' (first
    | assumption | apply State.raise_keeps | apply State.put_keeps | fail_if_no_progress apply Keeps.upd
    | split)

theorem State.restartSoaks_keeps {σ : State} (s : State) (h : Keeps σ s) :
    Keeps σ (State.restartSoaks s) := by
  unfold State.restartSoaks
  with_reducible repeat' (first
    | assumption | apply State.put_keeps | (refine Keeps.foldl ?_ (fun _ _ _ => ?_))
    | (refine Keeps.foldl_snd ?_ (fun _ _ _ => ?_)) | (refine Keeps.foldl_fst ?_ (fun _ _ _ => ?_))
    | fail_if_no_progress apply Keeps.upd | split)

theorem State.enterLost_keeps {σ : State} (s : State) (h : Keeps σ s) :
    Keeps σ (State.enterLost s) := by
  unfold State.enterLost
  with_reducible repeat' (first | assumption | apply State.restartSoaks_keeps | apply State.setDpll_keeps)

theorem State.showFreq_keeps {σ : State} (s : State) (h : Keeps σ s) :
    Keeps σ (State.showFreq s) := by
  unfold State.showFreq
  with_reducible repeat' (first | assumption | apply State.put_keeps)

theorem State.steerTo_keeps {σ : State} (s : State) (f : Int) (h : Keeps σ s) :
    Keeps σ (State.steerTo s f) := by
  unfold State.steerTo
  with_reducible repeat' (first
    | assumption | apply State.showFreq_keeps | fail_if_no_progress apply Keeps.upd)

theorem State.enterHoldover_keeps {σ : State} (s : State) (h : Keeps σ s) :
    Keeps σ (State.enterHoldover s) := by
  unfold State.enterHoldover
  with_reducible repeat' (first
    | assumption | apply State.put_keeps | apply State.putB_keeps | apply State.setDpll_keeps
    | apply State.steerTo_keeps | apply State.enterLost_keeps | fail_if_no_progress apply Keeps.upd | split
    | intro _ | dsimp only)

theorem State.timeSrcView_keeps {σ : State} (s : State) (h : Keeps σ s) :
    Keeps σ (State.timeSrcView s) := by
  unfold State.timeSrcView
  with_reducible repeat' (first
    | assumption | apply State.put_keeps | apply State.putB_keeps | fail_if_no_progress apply Keeps.upd
    | split)

theorem State.selectRef_keeps {σ : State} (s : State) (n : Option Nat) (h : Keeps σ s) :
    Keeps σ (State.selectRef s n) := by
  unfold State.selectRef
  with_reducible repeat' (first
    | assumption | apply State.putB_keeps | apply State.put_keeps | apply State.timeSrcView_keeps
    | apply State.raise_keeps | fail_if_no_progress apply Keeps.upd | split)

theorem State.reselect_keeps {σ : State} (s : State) (h : Keeps σ s) :
    Keeps σ (State.reselect s) := by
  unfold State.reselect
  with_reducible repeat' (first
    | assumption | apply State.putB_keeps | apply State.raise_keeps | apply State.selectRef_keeps
    | apply State.setDpll_keeps | apply State.steerTo_keeps | apply State.enterHoldover_keeps
    | (refine Keeps.foldl ?_ (fun _ _ _ => ?_)) | (refine Keeps.foldl_snd ?_ (fun _ _ _ => ?_))
    | (refine Keeps.foldl_fst ?_ (fun _ _ _ => ?_)) | fail_if_no_progress apply Keeps.upd | split | intro _
    | dsimp only)

theorem State.disqualify_keeps {σ : State} (s : State) (k : Nat) (h : Keeps σ s) :
    Keeps σ (State.disqualify s k) := by
  unfold State.disqualify
  with_reducible repeat' (first | assumption | apply State.putB_keeps | apply State.raise_keeps)

theorem State.judge_keeps {σ : State} (s : State) (k : Nat) (fresh : Bool) (h : Keeps σ s) :
    Keeps σ (State.judge s k fresh) := by
  unfold State.judge
  with_reducible repeat' (first
    | assumption | apply State.disqualify_keeps | apply State.raise_keeps | apply State.putB_keeps
    | apply State.put_keeps | fail_if_no_progress apply Keeps.upd | split | intro _ | dsimp only)

theorem State.portQuality_keeps {σ : State} (s : State) (k : Nat) (h : Keeps σ s) :
    Keeps σ (State.portQuality s k) := by
  unfold State.portQuality
  with_reducible repeat' (first
    | assumption | apply State.put_keeps | apply State.putB_keeps | fail_if_no_progress apply Keeps.upd
    | split)

theorem State.portJudge_keeps {σ : State} (s : State) (k : Nat) (h : Keeps σ s) :
    Keeps σ (State.portJudge s k) := by
  unfold State.portJudge
  with_reducible repeat' (first
    | assumption | apply State.reselect_keeps | apply State.judge_keeps | apply State.portQuality_keeps)

theorem State.setActive_keeps {σ : State} (s : State) (k : Nat) (b : Bool) (h : Keeps σ s) :
    Keeps σ (State.setActive s k b) := by
  unfold State.setActive
  with_reducible repeat' (first
    | assumption | apply State.putB_keeps | apply State.reselect_keeps | apply State.judge_keeps
    | fail_if_no_progress apply Keeps.upd | split | intro _ | dsimp only)

theorem State.portActivity_keeps {σ : State} (s : State) (p : Nat) (h : Keeps σ s) :
    Keeps σ (State.portActivity s p) := by
  unfold State.portActivity
  with_reducible repeat' (first | assumption | apply State.portJudge_keeps | apply State.setActive_keeps)

theorem State.freqMeasure_keeps {σ : State} (s : State) (k : Nat) (raw : Int) (h : Keeps σ s) :
    Keeps σ (State.freqMeasure s k raw) := by
  unfold State.freqMeasure
  with_reducible repeat' (first
    | assumption | apply State.put_keeps | apply State.reselect_keeps | apply State.judge_keeps
    | fail_if_no_progress apply Keeps.upd | split)

theorem execFreqMeasurement_keeps {σ : State} (k : Nat) (raw : Word) (s : State) {t : State} (h : Keeps σ s)
    (e : (execFreqMeasurement k raw s) = .next t) : Keeps σ t := by
  unfold execFreqMeasurement at e
  refine Keeps.next ?_ e
  with_reducible repeat' (first
    | assumption | apply State.freqMeasure_keeps | fail_if_no_progress apply Keeps.upd | split)

theorem execRefActivityLoss_keeps {σ : State} (k : Nat) (s : State) {t : State} (h : Keeps σ s)
    (e : (execRefActivityLoss k s) = .next t) : Keeps σ t := by
  unfold execRefActivityLoss at e
  refine Keeps.next ?_ e
  with_reducible repeat' (first
    | assumption | apply State.setActive_keeps | fail_if_no_progress apply Keeps.upd | split)

theorem execRefActivityReturn_keeps {σ : State} (k : Nat) (s : State) {t : State} (h : Keeps σ s)
    (e : (execRefActivityReturn k s) = .next t) : Keeps σ t := by
  unfold execRefActivityReturn at e
  refine Keeps.next ?_ e
  with_reducible repeat' (first
    | assumption | apply State.portActivity_keeps | apply State.setActive_keeps
    | fail_if_no_progress apply Keeps.upd | split)

theorem execSoakComplete_keeps {σ : State} (k : Nat) (s : State) {t : State} (h : Keeps σ s)
    (e : (execSoakComplete k s) = .next t) : Keeps σ t := by
  unfold execSoakComplete at e
  refine Keeps.next ?_ e
  with_reducible repeat' (first
    | assumption | apply State.putB_keeps | apply State.put_keeps | apply State.reselect_keeps
    | apply State.judge_keeps | apply State.raise_keeps | fail_if_no_progress apply Keeps.upd | split)

theorem State.numFreqWrite_keeps {σ : State} (s : State) (v : Word) (h : Keeps σ s) :
    Keeps σ (State.numFreqWrite s v) := by
  unfold State.numFreqWrite
  with_reducible repeat' (first
    | assumption | apply State.freqMeasure_keeps | apply State.setActive_keeps | apply State.put_keeps
    | fail_if_no_progress apply Keeps.upd)

theorem State.steer_keeps {σ : State} (s : State) (k : Nat) (e : Int) (held : Bool) (h : Keeps σ s) :
    Keeps σ (State.steer s k e held) := by
  unfold State.steer
  with_reducible repeat' (first
    | assumption | apply State.putB_keeps | apply State.showFreq_keeps
    | fail_if_no_progress apply Keeps.upd)

theorem State.freeRunMove_keeps {σ : State} (s : State) (h : Keeps σ s) :
    Keeps σ (State.freeRunMove s) := by
  unfold State.freeRunMove
  with_reducible repeat' (first | assumption | fail_if_no_progress apply Keeps.upd | split)

theorem State.stepMove_keeps {σ : State} (s : State) (h : Keeps σ s) :
    Keeps σ (State.stepMove s) := by
  unfold State.stepMove
  with_reducible repeat' (first | assumption | fail_if_no_progress apply Keeps.upd)

theorem State.dpllCycle_keeps {σ : State} (s : State) (h : Keeps σ s) :
    Keeps σ (State.dpllCycle s) := by
  unfold State.dpllCycle
  with_reducible repeat' (first
    | assumption | apply State.showFreq_keeps | apply State.stepMove_keeps | apply State.freeRunMove_keeps
    | fail_if_no_progress apply Keeps.upd)

theorem State.sampleError_keeps {σ : State} (s : State) (k : Nat) (raw : Int) (h : Keeps σ s) :
    Keeps σ (State.sampleError s k raw).2 := by
  unfold State.sampleError
  with_reducible repeat' (first | assumption | fail_if_no_progress apply Keeps.upd | split)

theorem State.takeSample_keeps {σ : State} (s : State) (raw : Int) (h : Keeps σ s) :
    Keeps σ (State.takeSample s raw) := by
  unfold State.takeSample
  with_reducible repeat' (first
    | assumption | apply State.sampleError_keeps | apply State.put_keeps | apply State.raise_keeps
    | apply State.putB_keeps | apply State.steer_keeps | apply State.setDpll_keeps
    | fail_if_no_progress apply Keeps.upd | split | intro _ | dsimp only)

theorem execDpllPhaseSample_keeps {σ : State} (err : Word) (s : State) {t : State} (h : Keeps σ s)
    (e : (execDpllPhaseSample err s) = .next t) : Keeps σ t := by
  unfold execDpllPhaseSample at e
  refine Keeps.next ?_ e
  with_reducible repeat' (first
    | assumption | apply State.takeSample_keeps | fail_if_no_progress apply Keeps.upd | split)

theorem State.numPhaseWrite_keeps {σ : State} (s : State) (v : Word) (h : Keeps σ s) :
    Keeps σ (State.numPhaseWrite s v) := by
  unfold State.numPhaseWrite
  with_reducible repeat' (first
    | assumption | apply State.put_keeps | apply State.takeSample_keeps
    | fail_if_no_progress apply Keeps.upd | split | intro _ | dsimp only)

theorem execDpllLocked_keeps {σ : State} (s : State) {t : State} (h : Keeps σ s)
    (e : (execDpllLocked s) = .next t) : Keeps σ t := by
  unfold execDpllLocked at e
  refine Keeps.next ?_ e
  with_reducible repeat' (first
    | assumption | apply State.setDpll_keeps | fail_if_no_progress apply Keeps.upd | split)

theorem execHoldoverEstimatorMean_keeps {σ : State} (s : State) {t : State} (h : Keeps σ s)
    (e : (execHoldoverEstimatorMean s) = .next t) : Keeps σ t := by
  unfold execHoldoverEstimatorMean at e
  refine Keeps.next ?_ e
  with_reducible repeat' (first | assumption | fail_if_no_progress apply Keeps.upd | split)

theorem execHoldoverEvaluate_keeps {σ : State} (s : State) {t : State} (h : Keeps σ s)
    (e : (execHoldoverEvaluate s) = .next t) : Keeps σ t := by
  unfold execHoldoverEvaluate at e
  refine Keeps.next ?_ e
  with_reducible repeat' (first
    | assumption | apply State.put_keeps | apply State.steerTo_keeps | apply State.enterLost_keeps
    | fail_if_no_progress apply Keeps.upd | split | intro _ | dsimp only)

theorem State.pstepCtrl_keeps {σ : State} (s : State) (v : Nat) (h : Keeps σ s) :
    Keeps σ (State.pstepCtrl s v) := by
  unfold State.pstepCtrl
  with_reducible repeat' (first
    | assumption | apply State.log_keeps | apply State.put_keeps | apply State.putB_keeps
    | fail_if_no_progress apply Keeps.upd | split)

theorem execPstepDone_keeps {σ : State} (s : State) {t : State} (h : Keeps σ s)
    (e : (execPstepDone s) = .next t) : Keeps σ t := by
  unfold execPstepDone at e
  refine Keeps.next ?_ e
  with_reducible repeat' (first
    | assumption | apply State.raise_keeps | apply State.putB_keeps | fail_if_no_progress apply Keeps.upd
    | split)

theorem State.bit31Follow_keeps {σ : State} (s : State) (h : Keeps σ s) : Keeps σ (State.bit31Follow s) := by
  unfold State.bit31Follow
  dsimp only
  split
  · exact h
  · exact State.raise_keeps _ _ _ (h.withTime _ id id)

theorem State.loadTime_keeps {σ : State} (s : State) (c q : Nat) (h : Keeps σ s) :
    Keeps σ (State.loadTime s c q) :=
  h.withTime _ id (fun _ => Nat.mod_lt _ (by decide))

theorem State.cancelArmed_keeps {σ : State} (s : State) (h : Keeps σ s) :
    Keeps σ (State.cancelArmed s) := by
  unfold State.cancelArmed
  with_reducible repeat' (first
    | assumption | apply State.putB_keeps | apply State.raise_keeps
    | (refine Keeps.foldl ?_ (fun _ _ _ => ?_)) | (refine Keeps.foldl_snd ?_ (fun _ _ _ => ?_))
    | (refine Keeps.foldl_fst ?_ (fun _ _ _ => ?_)) | fail_if_no_progress apply Keeps.upd | split | intro _
    | dsimp only)

theorem State.ntNowLatch_keeps {σ : State} (s : State) (h : Keeps σ s) :
    Keeps σ (State.ntNowLatch s) := by
  unfold State.ntNowLatch
  with_reducible repeat' (first | assumption | apply State.put_keeps)

theorem execNtNowRead_keeps {σ : State} (at_ : Nat) (s : State) {t : State} (h : Keeps σ s)
    (e : (execNtNowRead at_ s) = .next t) : Keeps σ t := by
  unfold execNtNowRead at e
  refine Keeps.next ?_ e
  with_reducible repeat' (first
    | assumption | apply State.atPhase_keeps | apply State.ntNowLatch_keeps
    | fail_if_no_progress apply Keeps.upd | split)

theorem execNtBit31Change_keeps {σ : State} (at_ : Nat) (s : State) {t : State} (h : Keeps σ s)
    (e : (execNtBit31Change at_ s) = .next t) : Keeps σ t := by
  unfold execNtBit31Change at e
  refine Keeps.next ?_ e
  with_reducible repeat' (first
    | assumption | apply State.bit31Follow_keeps | apply State.atPhase_keeps
    | fail_if_no_progress apply Keeps.upd | split)

theorem State.makeMarker_keeps {σ : State} (s : State) (l : Nat) (h : Keeps σ s) :
    Keeps σ (State.makeMarker s l).2 := by
  unfold State.makeMarker
  with_reducible repeat' (first
    | assumption | apply State.draw_keeps | fail_if_no_progress apply Keeps.upd | split | intro _
    | dsimp only)

theorem State.masterChange_keeps {σ : State} (s : State) (m : RxMarker) (h : Keeps σ s) :
    Keeps σ (State.masterChange s m) := by
  unfold State.masterChange
  with_reducible repeat' (first
    | assumption | apply State.raise_keeps | fail_if_no_progress apply Keeps.upd | split)

theorem State.masterFollow_keeps {σ : State} (s : State) (m : RxMarker) (h : Keeps σ s) :
    Keeps σ (State.masterFollow s m) := by
  unfold State.masterFollow
  with_reducible repeat' (first
    | assumption | apply State.put_keeps | apply State.timeSrcView_keeps
    | fail_if_no_progress apply Keeps.upd)

theorem State.alignTake_keeps {σ : State} (s : State) (l : Nat) (m : RxMarker) (h : Keeps σ s) :
    Keeps σ (State.alignTake s l m) := by
  unfold State.alignTake
  with_reducible repeat' (first | assumption | fail_if_no_progress apply Keeps.upd | split)

theorem State.markerTime_keeps {σ : State} (s : State) (l : Nat) (m : RxMarker) (h : Keeps σ s) :
    Keeps σ (State.markerTime s l m) := by
  unfold State.markerTime
  with_reducible repeat' (first
    | assumption | apply State.portJudge_keeps | apply State.alignTake_keeps
    | apply State.masterFollow_keeps | apply State.masterChange_keeps | fail_if_no_progress apply Keeps.upd
    | split | intro _ | dsimp only)

theorem State.timeExchange_keeps {σ : State} (s : State) (l : Nat) (b : Body) (h : Keeps σ s) :
    Keeps σ (State.timeExchange s l b) := by
  unfold State.timeExchange
  with_reducible repeat' (first
    | assumption | apply State.setLane_keeps | apply State.put_keeps | apply State.raise_keeps
    | fail_if_no_progress apply Keeps.upd | split | intro _ | dsimp only)

theorem State.alignReq_keeps {σ : State} (s : State) (h : Keeps σ s) :
    Keeps σ (State.alignReq s) := by
  unfold State.alignReq
  with_reducible repeat' (first
    | assumption | apply State.putB_keeps | apply State.log_keeps | fail_if_no_progress apply Keeps.upd
    | split | intro _ | dsimp only)

theorem State.setReq_keeps {σ : State} (s : State) (h : Keeps σ s) :
    Keeps σ (State.setReq s) := by
  unfold State.setReq
  with_reducible repeat' (first
    | assumption | apply State.putB_keeps | apply State.log_keeps | fail_if_no_progress apply Keeps.upd
    | split)

theorem State.ppsEdge_keeps {σ : State} (s : State) (h : Keeps σ s) :
    Keeps σ (State.ppsEdge s) := by
  unfold State.ppsEdge
  with_reducible repeat' (first
    | assumption | apply State.put_keeps | fail_if_no_progress apply Keeps.upd | split)

theorem execPpsInEdge_keeps {σ : State} (at_ : Nat) (s : State) {t : State} (h : Keeps σ s)
    (e : (execPpsInEdge at_ s) = .next t) : Keeps σ t := by
  unfold execPpsInEdge at e
  refine Keeps.next ?_ e
  with_reducible repeat' (first
    | assumption | apply State.atPhase_keeps | apply State.put_keeps | apply State.raise_keeps
    | fail_if_no_progress apply Keeps.upd | split | intro _ | dsimp only)

theorem execPpsOutCycWrite_keeps {σ : State} (value : Word) (s : State) {t : State} (h : Keeps σ s)
    (e : (execPpsOutCycWrite value s) = .next t) : Keeps σ t := by
  unfold execPpsOutCycWrite at e
  refine Keeps.next ?_ e
  with_reducible repeat' (first
    | assumption | apply State.blockWrite_keeps | apply State.put_keeps
    | fail_if_no_progress apply Keeps.upd | split | intro _)

end Sys2Proof.Machine
end

