-- ==== Sys2Proof/Laws/KeepsLinks.lean ====
section
/-! SUPPORT. What no command undoes (`Keeps`), for lanes and rings: one lemma per function
that gives a state. -/

namespace Sys2Proof.Machine

theorem State.farEndLine_keeps {σ : State} (s : State) (l : Nat) (h : Keeps σ s) :
    Keeps σ (State.farEndLine s l).2 := by
  unfold State.farEndLine
  with_reducible repeat' (first | assumption | apply State.draw_keeps)

theorem State.testLine_keeps {σ : State} (s : State) (l : Nat) (h : Keeps σ s) :
    Keeps σ (State.testLine s l) := by
  unfold State.testLine
  with_reducible repeat' (first
    | assumption | apply State.farEndLine_keeps | apply State.setLane_keeps
    | fail_if_no_progress apply Keeps.upd | split | intro _ | dsimp only)

theorem State.settleLine_keeps {σ : State} (s : State) (l : Nat) (m : TxMarker) (h : Keeps σ s) :
    Keeps σ (State.settleLine s l m) := by
  unfold State.settleLine
  with_reducible repeat' (first
    | assumption | apply State.put_keeps | apply State.bump_keeps | apply State.raise_keeps
    | apply State.setLane_keeps | apply State.setPort_keeps | fail_if_no_progress apply Keeps.upd | split)

theorem State.setPhase_keeps {σ : State} (s : State) (l : Nat) (ph : Nat) (h : Keeps σ s) :
    Keeps σ (State.setPhase s l ph) := by
  unfold State.setPhase
  with_reducible repeat' (first
    | assumption | apply State.put_keeps | fail_if_no_progress apply Keeps.upd | split)

theorem State.setPortState_keeps {σ : State} (s : State) (p : Nat) (v : Nat) (h : Keeps σ s) :
    Keeps σ (State.setPortState s p v) := by
  unfold State.setPortState
  with_reducible repeat' (first
    | assumption | apply State.put_keeps | (refine Keeps.foldl ?_ (fun _ _ _ => ?_)))

theorem State.raisePort_keeps {σ : State} (s : State) (p : Nat) (b : Nat) (h : Keeps σ s) :
    Keeps σ (State.raisePort s p b) := by
  unfold State.raisePort
  with_reducible repeat' (first
    | assumption | apply State.raise_keeps | (refine Keeps.foldl ?_ (fun _ _ _ => ?_)))

theorem State.wrapStart_keeps {σ : State} (s : State) (p : Nat) (h : Keeps σ s) :
    Keeps σ (State.wrapStart s p) := by
  unfold State.wrapStart
  with_reducible repeat' (first
    | assumption | apply State.raise_keeps | apply State.putB_keeps | fail_if_no_progress apply Keeps.upd
    | split)

theorem State.wrapSoon_keeps {σ : State} (s : State) (p : Nat) (h : Keeps σ s) :
    Keeps σ (State.wrapSoon s p) := by
  unfold State.wrapSoon
  with_reducible repeat' (first
    | assumption | apply State.draw_keeps | apply State.wrapStart_keeps | apply State.setPort_keeps
    | fail_if_no_progress apply Keeps.upd | split | intro _ | dsimp only)

theorem State.recall_keeps {σ : State} (s : State) (p : Nat) (h : Keeps σ s) :
    Keeps σ (State.recall s p) := by
  unfold State.recall
  with_reducible repeat' (first
    | assumption | apply State.draw_keeps | apply State.put_keeps | apply State.setPort_keeps
    | fail_if_no_progress apply Keeps.upd | split)

theorem State.portDown_keeps {σ : State} (s : State) (p : Nat) (h : Keeps σ s) :
    Keeps σ (State.portDown s p) := by
  unfold State.portDown
  with_reducible repeat' (first
    | assumption | apply State.setPortState_keeps | apply State.raisePort_keeps | apply State.wrapSoon_keeps
    | apply State.recall_keeps | fail_if_no_progress apply Keeps.upd | split | intro _ | dsimp only)

theorem State.portWait_keeps {σ : State} (s : State) (p : Nat) (h : Keeps σ s) :
    Keeps σ (State.portWait s p) := by
  unfold State.portWait
  with_reducible repeat' (first
    | assumption | apply State.setPortState_keeps | fail_if_no_progress apply Keeps.upd | split)

theorem State.leftUp_keeps {σ : State} (s : State) (l : Nat) (h : Keeps σ s) :
    Keeps σ (State.leftUp s l) := by
  unfold State.leftUp
  with_reducible repeat' (first
    | assumption | apply State.portActivity_keeps | apply State.portDown_keeps | apply State.raise_keeps)

theorem State.setFfe_keeps {σ : State} (s : State) (l : Nat) (pre : Nat) (post : Nat) (h : Keeps σ s) :
    Keeps σ (State.setFfe s l pre post) := by
  unfold State.setFfe
  with_reducible repeat' (first | assumption | apply State.put_keeps)

theorem State.takePreset_keeps {σ : State} (s : State) (l : Nat) (i : Nat) (h : Keeps σ s) :
    Keeps σ (State.takePreset s l i) := by
  unfold State.takePreset
  with_reducible repeat' (first | assumption | apply State.setFfe_keeps)

theorem State.ffeAnswer_keeps {σ : State} (s : State) (l : Nat) (a : Nat) (b : Nat) (h : Keeps σ s) :
    Keeps σ (State.ffeAnswer s l a b) := by
  unfold State.ffeAnswer
  with_reducible repeat' (first | assumption | apply State.setLane_keeps)

theorem State.ffeTakes_keeps {σ : State} (s : State) (l : Nat) (preset : Nat) (h : Keeps σ s) :
    Keeps σ (State.ffeTakes s l preset) := by
  unfold State.ffeTakes
  with_reducible repeat' (first | assumption | apply State.ffeAnswer_keeps | apply State.takePreset_keeps)

theorem State.ffeAct_keeps {σ : State} (s : State) (l : Nat) (req : Nat) (h : Keeps σ s) :
    Keeps σ (State.ffeAct s l req) := by
  unfold State.ffeAct
  with_reducible repeat' (first
    | assumption | apply State.ffeAnswer_keeps | apply State.setFfe_keeps | apply State.ffeTakes_keeps
    | fail_if_no_progress apply Keeps.upd | split | intro _ | dsimp only)

theorem State.ffeServe_keeps {σ : State} (s : State) (l : Nat) (req : Nat) (h : Keeps σ s) :
    Keeps σ (State.ffeServe s l req) := by
  unfold State.ffeServe
  with_reducible repeat' (first
    | assumption | apply State.setLane_keeps | apply State.ffeAct_keeps
    | fail_if_no_progress apply Keeps.upd | split | intro _ | dsimp only)

theorem State.ffeNote_keeps {σ : State} (s : State) (l : Nat) (req : Nat) (h : Keeps σ s) :
    Keeps σ (State.ffeNote s l req) := by
  unfold State.ffeNote
  with_reducible repeat' (first
    | assumption | apply State.ffeServe_keeps | fail_if_no_progress apply Keeps.upd | split)

theorem State.ffeAsk_keeps {σ : State} (s : State) (l : Nat) (stat : Nat) (h : Keeps σ s) :
    Keeps σ (State.ffeAsk s l stat) := by
  unfold State.ffeAsk
  with_reducible repeat' (first
    | assumption | apply State.setLane_keeps | apply State.draw_keeps | fail_if_no_progress apply Keeps.upd
    | split | intro _ | dsimp only)

theorem State.ffeFixed_keeps {σ : State} (s : State) (l : Nat) (h : Keeps σ s) :
    Keeps σ (State.ffeFixed s l) := by
  unfold State.ffeFixed
  with_reducible repeat' (first
    | assumption | apply State.setLane_keeps | apply State.takePreset_keeps
    | fail_if_no_progress apply Keeps.upd | split | intro _ | dsimp only)

theorem State.endBurst_keeps {σ : State} (s : State) (l : Nat) (h : Keeps σ s) :
    Keeps σ (State.endBurst s l) := by
  unfold State.endBurst
  with_reducible repeat' (first
    | assumption | apply State.put_keeps | apply State.setLane_keeps | fail_if_no_progress apply Keeps.upd
    | split)

theorem State.startAttempt_keeps {σ : State} (s : State) (l : Nat) (first : Nat) (h : Keeps σ s) :
    Keeps σ (State.startAttempt s l first) := by
  unfold State.startAttempt
  with_reducible repeat' (first
    | assumption | apply State.endBurst_keeps | apply State.request_keeps | apply State.release_keeps
    | apply State.setLane_keeps | apply State.put_keeps | apply State.setPhase_keeps
    | apply State.leftUp_keeps | apply State.bump_keeps | fail_if_no_progress apply Keeps.upd | split
    | intro _ | dsimp only)

theorem State.newSequence_keeps {σ : State} (s : State) (l : Nat) (first : Nat) (h : Keeps σ s) :
    Keeps σ (State.newSequence s l first) := by
  unfold State.newSequence
  with_reducible repeat' (first | assumption | apply State.startAttempt_keeps | apply State.put_keeps)

theorem State.loseAlign_keeps {σ : State} (s : State) (l : Nat) (h : Keeps σ s) :
    Keeps σ (State.loseAlign s l) := by
  unfold State.loseAlign
  with_reducible repeat' (first | assumption | apply State.setLane_keeps | apply State.putB_keeps)

theorem State.enterTraining_keeps {σ : State} (s : State) (l : Nat) (h : Keeps σ s) :
    Keeps σ (State.enterTraining s l) := by
  unfold State.enterTraining
  with_reducible repeat' (first
    | assumption | apply State.loseAlign_keeps | apply State.putB_keeps | apply State.takePreset_keeps
    | apply State.setPhase_keeps | apply State.setLane_keeps | fail_if_no_progress apply Keeps.upd | split
    | intro _ | dsimp only)

theorem State.trainFail_keeps {σ : State} (s : State) (l : Nat) (cause : Nat) (h : Keeps σ s) :
    Keeps σ (State.trainFail s l cause) := by
  unfold State.trainFail
  with_reducible repeat' (first
    | assumption | apply State.put_keeps | apply State.release_keeps | apply State.raise_keeps
    | apply State.log_keeps | apply State.loseAlign_keeps | apply State.putB_keeps
    | apply State.setPhase_keeps | fail_if_no_progress apply Keeps.upd | split | intro _ | dsimp only)

theorem State.goUp_keeps {σ : State} (s : State) (l : Nat) (h : Keeps σ s) :
    Keeps σ (State.goUp s l) := by
  unfold State.goUp
  with_reducible repeat' (first
    | assumption | apply State.raise_keeps | apply State.setPhase_keeps | apply State.release_keeps
    | apply State.put_keeps | apply State.setLane_keeps | apply State.portActivity_keeps
    | apply State.portWait_keeps)

theorem State.laneDisable_keeps {σ : State} (s : State) (l : Nat) (h : Keeps σ s) :
    Keeps σ (State.laneDisable s l) := by
  unfold State.laneDisable
  with_reducible repeat' (first
    | assumption | apply State.setLane_keeps | apply State.release_keeps | apply State.loseAlign_keeps
    | apply State.putB_keeps | apply State.setPhase_keeps | apply State.leftUp_keeps
    | apply State.portWait_keeps | fail_if_no_progress apply Keeps.upd | split | intro _ | dsimp only)

theorem State.laneEnable_keeps {σ : State} (s : State) (l : Nat) (en : Bool) (h : Keeps σ s) :
    Keeps σ (State.laneEnable s l en) := by
  unfold State.laneEnable
  with_reducible repeat' (first
    | assumption | apply State.putB_keeps | apply State.newSequence_keeps | apply State.laneDisable_keeps
    | fail_if_no_progress apply Keeps.upd | split | intro _ | dsimp only)

theorem execLaneEnable_keeps {σ : State} (lane : Nat) (en : Bool) (s : State) {t : State} (h : Keeps σ s)
    (e : (execLaneEnable lane en s) = .next t) : Keeps σ t := by
  unfold execLaneEnable at e
  refine Keeps.next ?_ e
  with_reducible repeat' (first
    | assumption | apply State.ctrlWrite_keeps | apply State.laneEnable_keeps
    | fail_if_no_progress apply Keeps.upd | split | intro _)

theorem State.laneRetrain_keeps {σ : State} (s : State) (l : Nat) (h : Keeps σ s) :
    Keeps σ (State.laneRetrain s l) := by
  unfold State.laneRetrain
  with_reducible repeat' (first
    | assumption | apply State.newSequence_keeps | fail_if_no_progress apply Keeps.upd | split)

theorem execRetrain_keeps {σ : State} (lane : Nat) (s : State) {t : State} (h : Keeps σ s)
    (e : (execRetrain lane s) = .next t) : Keeps σ t := by
  unfold execRetrain at e
  refine Keeps.next ?_ e
  with_reducible repeat' (first
    | assumption | apply State.blockWrite_keeps | apply State.laneRetrain_keeps
    | fail_if_no_progress apply Keeps.upd | split | intro _)

theorem execLaneTrainGranted_keeps {σ : State} (lane : Nat) (s : State) {t : State} (h : Keeps σ s)
    (e : (execLaneTrainGranted lane s) = .next t) : Keeps σ t := by
  unfold execLaneTrainGranted at e
  refine Keeps.next ?_ e
  with_reducible repeat' (first
    | assumption | apply State.enterTraining_keeps | fail_if_no_progress apply Keeps.upd | split)

theorem State.equalise_keeps {σ : State} (s : State) (l : Nat) (eyeH : Nat) (eyeW : Nat) (h : Keeps σ s) :
    Keeps σ (State.equalise s l eyeH eyeW) := by
  unfold State.equalise
  with_reducible repeat' (first
    | assumption | apply State.draw_keeps | apply State.put_keeps | apply State.setLane_keeps)

theorem State.adaptDone_keeps {σ : State} (s : State) (l : Nat) (h : Keeps σ s) :
    Keeps σ (State.adaptDone s l) := by
  unfold State.adaptDone
  with_reducible repeat' (first
    | assumption | apply State.equalise_keeps | apply State.setPhase_keeps | apply State.setLane_keeps)

theorem State.freqTrack_keeps {σ : State} (s : State) (l : Nat) (h : Keeps σ s) :
    Keeps σ (State.freqTrack s l) := by
  unfold State.freqTrack
  with_reducible repeat' (first | assumption | apply State.draw_keeps | apply State.putI_keeps)

theorem State.cdrLocks_keeps {σ : State} (s : State) (l : Nat) (h : Keeps σ s) :
    Keeps σ (State.cdrLocks s l) := by
  unfold State.cdrLocks
  with_reducible repeat' (first
    | assumption | apply State.setPhase_keeps | apply State.loseAlign_keeps | apply State.freqTrack_keeps
    | apply State.putB_keeps)

theorem execTrainPhaseAdvance_keeps {σ : State} (lane : Nat) (s : State) {t : State} (h : Keeps σ s)
    (e : (execTrainPhaseAdvance lane s) = .next t) : Keeps σ t := by
  unfold execTrainPhaseAdvance at e
  refine Keeps.next ?_ e
  with_reducible repeat' (first
    | assumption | apply State.setPhase_keeps | apply State.putB_keeps | apply State.cdrLocks_keeps
    | apply State.adaptDone_keeps | fail_if_no_progress apply Keeps.upd | split)

theorem execConfirmCountDone_keeps {σ : State} (lane : Nat) (s : State) {t : State} (h : Keeps σ s)
    (e : (execConfirmCountDone lane s) = .next t) : Keeps σ t := by
  unfold execConfirmCountDone at e
  refine Keeps.next ?_ e
  with_reducible repeat' (first
    | assumption | apply State.setLane_keeps | fail_if_no_progress apply Keeps.upd | split)

theorem execTrainPhaseTimeout_keeps {σ : State} (lane : Nat) (s : State) {t : State} (h : Keeps σ s)
    (e : (execTrainPhaseTimeout lane s) = .next t) : Keeps σ t := by
  unfold execTrainPhaseTimeout at e
  refine Keeps.next ?_ e
  with_reducible repeat' (first
    | assumption | apply State.trainFail_keeps | fail_if_no_progress apply Keeps.upd | split)

theorem execTrainTotalTimeout_keeps {σ : State} (lane : Nat) (s : State) {t : State} (h : Keeps σ s)
    (e : (execTrainTotalTimeout lane s) = .next t) : Keeps σ t := by
  unfold execTrainTotalTimeout at e
  refine Keeps.next ?_ e
  with_reducible repeat' (first
    | assumption | apply State.trainFail_keeps | fail_if_no_progress apply Keeps.upd | split)

theorem State.nextAttempt_keeps {σ : State} (s : State) (l : Nat) (h : Keeps σ s) :
    Keeps σ (State.nextAttempt s l) := by
  unfold State.nextAttempt
  with_reducible repeat' (first | assumption | apply State.startAttempt_keeps)

theorem execBackoffExpiry_keeps {σ : State} (lane : Nat) (s : State) {t : State} (h : Keeps σ s)
    (e : (execBackoffExpiry lane s) = .next t) : Keeps σ t := by
  unfold execBackoffExpiry at e
  refine Keeps.next ?_ e
  with_reducible repeat' (first
    | assumption | apply State.nextAttempt_keeps | fail_if_no_progress apply Keeps.upd | split)

theorem execEnergyDetect_keeps {σ : State} (lane : Nat) (s : State) {t : State} (h : Keeps σ s)
    (e : (execEnergyDetect lane s) = .next t) : Keeps σ t := by
  unfold execEnergyDetect at e
  refine Keeps.next ?_ e
  with_reducible repeat' (first
    | assumption | apply State.putB_keeps | apply State.nextAttempt_keeps | apply State.newSequence_keeps
    | apply State.raise_keeps | fail_if_no_progress apply Keeps.upd | split | intro _ | dsimp only)

theorem execBeaconBurst_keeps {σ : State} (lane : Nat) (s : State) {t : State} (h : Keeps σ s)
    (e : (execBeaconBurst lane s) = .next t) : Keeps σ t := by
  unfold execBeaconBurst at e
  refine Keeps.next ?_ e
  with_reducible repeat' (first
    | assumption | apply State.put_keeps | apply State.setLane_keeps | fail_if_no_progress apply Keeps.upd
    | split)

theorem State.cdrStill_keeps {σ : State} (s : State) (l : Nat) (h : Keeps σ s) :
    Keeps σ (State.cdrStill s l).2 := by
  unfold State.cdrStill
  with_reducible repeat' (first | assumption | apply State.draw_keeps | apply State.putB_keeps)

theorem State.lostTraining_keeps {σ : State} (s : State) (l : Nat) (h : Keeps σ s) :
    Keeps σ (State.lostTraining s l) := by
  unfold State.lostTraining
  with_reducible repeat' (first | assumption | apply State.cdrStill_keeps | apply State.newSequence_keeps)

theorem execSpurHuntTimeout_keeps {σ : State} (lane : Nat) (s : State) {t : State} (h : Keeps σ s)
    (e : (execSpurHuntTimeout lane s) = .next t) : Keeps σ t := by
  unfold execSpurHuntTimeout at e
  refine Keeps.next ?_ e
  with_reducible repeat' (first
    | assumption | apply State.lostTraining_keeps | fail_if_no_progress apply Keeps.upd | split)

theorem State.putSkew_keeps {σ : State} (s : State) (l : Nat) (z : Int) (h : Keeps σ s) :
    Keeps σ (State.putSkew s l z) := by
  unfold State.putSkew
  with_reducible repeat' (first
    | assumption | apply State.putI_keeps | apply State.put_keeps | apply State.draw_keeps
    | fail_if_no_progress apply Keeps.upd | split)

theorem State.formStep_keeps {σ : State} (s : State) (p : Nat) (c : Nat) (ok : Bool) (h : Keeps σ s) :
    Keeps σ (State.formStep s p c ok) := by
  unfold State.formStep
  with_reducible repeat' (first
    | assumption | apply State.setPort_keeps | apply State.raisePort_keeps | apply State.setPortState_keeps
    | fail_if_no_progress apply Keeps.upd | split | intro _ | dsimp only)

theorem State.formMiss_keeps {σ : State} (s : State) (p : Nat) (h : Keeps σ s) :
    Keeps σ (State.formMiss s p) := by
  unfold State.formMiss
  with_reducible repeat' (first
    | assumption | apply State.setPortState_keeps | fail_if_no_progress apply Keeps.upd | split)

theorem State.markerMiss_keeps {σ : State} (s : State) (l : Nat) (h : Keeps σ s) :
    Keeps σ (State.markerMiss s l) := by
  unfold State.markerMiss
  with_reducible repeat' (first
    | assumption | apply State.raise_keeps | apply State.bump_keeps | apply State.setLane_keeps
    | apply State.formMiss_keeps | apply State.portActivity_keeps | apply State.portDown_keeps
    | apply State.putB_keeps | apply State.lostTraining_keeps | fail_if_no_progress apply Keeps.upd | split
    | intro _ | dsimp only)

theorem execMarkerMissing_keeps {σ : State} (lane : Nat) (s : State) {t : State} (h : Keeps σ s)
    (e : (execMarkerMissing lane s) = .next t) : Keeps σ t := by
  unfold execMarkerMissing at e
  refine Keeps.next ?_ e
  with_reducible repeat' (first
    | assumption | apply State.markerMiss_keeps | fail_if_no_progress apply Keeps.upd | split)

theorem State.goodHeader_keeps {σ : State} (s : State) (l : Nat) (h : Keeps σ s) :
    Keeps σ (State.goodHeader s l) := by
  unfold State.goodHeader
  with_reducible repeat' (first | assumption | apply State.setLane_keeps)

theorem State.trafficSeen_keeps {σ : State} (s : State) (l : Nat) (h : Keeps σ s) :
    Keeps σ (State.trafficSeen s l) := by
  unfold State.trafficSeen
  with_reducible repeat' (first
    | assumption | apply State.setLane_keeps | apply State.goUp_keeps | fail_if_no_progress apply Keeps.upd
    | split | intro _ | dsimp only)

theorem State.badControl_keeps {σ : State} (s : State) (l : Nat) (h : Keeps σ s) :
    Keeps σ (State.badControl s l) := by
  unfold State.badControl
  with_reducible repeat' (first | assumption | apply State.setLane_keeps | apply State.bump_keeps)

theorem State.rxControl_keeps {σ : State} (s : State) (l : Nat) (ok : Bool) (f : State → State) (hf : ∀ x, Keeps σ x → Keeps σ (f x)) (h : Keeps σ s) :
    Keeps σ (State.rxControl s l ok f) := by
  unfold State.rxControl
  with_reducible repeat' (first
    | assumption | apply hf | apply State.goodHeader_keeps | apply State.badControl_keeps
    | fail_if_no_progress apply Keeps.upd | split | intro _ | dsimp only)

theorem State.cellHeader_keeps {σ : State} (s : State) (l : Nat) (h : Keeps σ s) :
    Keeps σ (State.cellHeader s l) := by
  unfold State.cellHeader
  with_reducible repeat' (first
    | assumption | apply State.goodHeader_keeps | apply State.trafficSeen_keeps
    | fail_if_no_progress apply Keeps.upd | split | intro _ | dsimp only)

theorem State.markerPartner_keeps {σ : State} (s : State) (l : Nat) (m : RxMarker) (h : Keeps σ s) :
    Keeps σ (State.markerPartner s l m) := by
  unfold State.markerPartner
  with_reducible repeat' (first | assumption | apply State.put_keeps | apply State.putB_keeps)

theorem State.markerForm_keeps {σ : State} (s : State) (l : Nat) (m : RxMarker) (h : Keeps σ s) :
    Keeps σ (State.markerForm s l m) := by
  unfold State.markerForm
  with_reducible repeat' (first
    | assumption | apply State.formStep_keeps | apply State.putSkew_keeps
    | fail_if_no_progress apply Keeps.upd | split)

theorem State.markerTake_keeps {σ : State} (s : State) (l : Nat) (m : RxMarker) (h : Keeps σ s) :
    Keeps σ (State.markerTake s l m) := by
  unfold State.markerTake
  with_reducible repeat' (first
    | assumption | apply State.bump_keeps | apply State.setLane_keeps | apply State.portActivity_keeps
    | apply State.markerPartner_keeps | apply State.markerTime_keeps | apply State.markerForm_keeps
    | fail_if_no_progress apply Keeps.upd | split)

theorem State.markerSkewed_keeps {σ : State} (s : State) (l : Nat) (m : RxMarker) (z : Int) (h : Keeps σ s) :
    Keeps σ (State.markerSkewed s l m z) := by
  unfold State.markerSkewed
  with_reducible repeat' (first
    | assumption | apply State.putSkew_keeps | apply State.raise_keeps | apply State.markerMiss_keeps
    | apply State.setLane_keeps)

theorem State.markerAligned_keeps {σ : State} (s : State) (l : Nat) (m : RxMarker) (h : Keeps σ s) :
    Keeps σ (State.markerAligned s l m) := by
  unfold State.markerAligned
  with_reducible repeat' (first
    | assumption | apply State.markerMiss_keeps | apply State.markerSkewed_keeps
    | apply State.markerTake_keeps | fail_if_no_progress apply Keeps.upd | split)

theorem State.markerHunt_keeps {σ : State} (s : State) (l : Nat) (m : RxMarker) (h : Keeps σ s) :
    Keeps σ (State.markerHunt s l m) := by
  unfold State.markerHunt
  with_reducible repeat' (first
    | assumption | apply State.markerTake_keeps | apply State.putB_keeps | apply State.setLane_keeps
    | fail_if_no_progress apply Keeps.upd | split | intro _ | dsimp only)

theorem State.markerReceive_keeps {σ : State} (s : State) (l : Nat) (body : Body) (arrive : Nat) (h : Keeps σ s) :
    Keeps σ (State.markerReceive s l body arrive) := by
  unfold State.markerReceive
  with_reducible repeat' (first
    | assumption | apply State.goodHeader_keeps | apply State.putB_keeps | apply State.markerAligned_keeps
    | apply State.markerHunt_keeps | apply State.markerMiss_keeps | apply State.badControl_keeps
    | fail_if_no_progress apply Keeps.upd | split | intro _ | dsimp only)

theorem execMarkerReceive_keeps {σ : State} (lane : Nat) (body : Body) (arrive : Nat) (s : State) {t : State} (h : Keeps σ s)
    (e : (execMarkerReceive lane body arrive s) = .next t) : Keeps σ t := by
  unfold execMarkerReceive at e
  refine Keeps.next ?_ e
  with_reducible repeat' (first | assumption | apply State.markerReceive_keeps)

theorem execIdleReceive_keeps {σ : State} (lane : Nat) (body : Body) (s : State) {t : State} (h : Keeps σ s)
    (e : (execIdleReceive lane body s) = .next t) : Keeps σ t := by
  unfold execIdleReceive at e
  refine Keeps.next ?_ e
  with_reducible repeat' (first
    | assumption | apply State.rxControl_keeps | apply State.trafficSeen_keeps | apply State.bump_keeps
    | fail_if_no_progress apply Keeps.upd | split | intro _)

theorem State.tsPartner_keeps {σ : State} (s : State) (l : Nat) (b : Body) (h : Keeps σ s) :
    Keeps σ (State.tsPartner s l b) := by
  unfold State.tsPartner
  with_reducible repeat' (first | assumption | apply State.put_keeps | apply State.putB_keeps)

theorem State.tsServe_keeps {σ : State} (s : State) (l : Nat) (b : Body) (f : State → State) (hf : ∀ x, Keeps σ x → Keeps σ (f x)) (h : Keeps σ s) :
    Keeps σ (State.tsServe s l b f) := by
  unfold State.tsServe
  with_reducible repeat' (first
    | assumption | apply hf | apply State.trainFail_keeps | apply State.ffeAsk_keeps
    | apply State.ffeServe_keeps | apply State.ffeNote_keeps | fail_if_no_progress apply Keeps.upd | split)

theorem State.noTraffic_keeps {σ : State} (s : State) (l : Nat) (h : Keeps σ s) :
    Keeps σ (State.noTraffic s l) := by
  unfold State.noTraffic
  with_reducible repeat' (first | assumption | apply State.setLane_keeps)

theorem execTs1Receive_keeps {σ : State} (lane : Nat) (body : Body) (s : State) {t : State} (h : Keeps σ s)
    (e : (execTs1Receive lane body s) = .next t) : Keeps σ t := by
  unfold execTs1Receive at e
  refine Keeps.next ?_ e
  with_reducible repeat' (first
    | assumption | apply State.rxControl_keeps | apply State.tsPartner_keeps | apply State.noTraffic_keeps
    | apply State.newSequence_keeps | apply State.tsServe_keeps | simp only [id]
    | fail_if_no_progress apply Keeps.upd | split | intro _)

theorem execTs2Receive_keeps {σ : State} (lane : Nat) (body : Body) (s : State) {t : State} (h : Keeps σ s)
    (e : (execTs2Receive lane body s) = .next t) : Keeps σ t := by
  unfold execTs2Receive at e
  refine Keeps.next ?_ e
  with_reducible repeat' (first
    | assumption | apply State.rxControl_keeps | apply State.noTraffic_keeps | apply State.tsServe_keeps
    | apply State.tsPartner_keeps | apply State.goUp_keeps | fail_if_no_progress apply Keeps.upd | split
    | intro _ | dsimp only)

theorem State.loopReturned_keeps {σ : State} (s : State) (l : Nat) (token : Word) (h : Keeps σ s) :
    Keeps σ (State.loopReturned s l token) := by
  unfold State.loopReturned
  with_reducible repeat' (first
    | assumption | apply State.putB_keeps | apply State.put_keeps | apply State.raise_keeps)

theorem execLoopTestReceive_keeps {σ : State} (lane : Nat) (body : Body) (s : State) {t : State} (h : Keeps σ s)
    (e : (execLoopTestReceive lane body s) = .next t) : Keeps σ t := by
  unfold execLoopTestReceive at e
  refine Keeps.next ?_ e
  with_reducible repeat' (first
    | assumption | apply State.rxControl_keeps | apply State.trafficSeen_keeps | apply State.setLane_keeps
    | apply State.loopReturned_keeps | fail_if_no_progress apply Keeps.upd | split | intro _ | dsimp only)

theorem State.headerLoss_keeps {σ : State} (s : State) (l : Nat) (h : Keeps σ s) :
    Keeps σ (State.headerLoss s l) := by
  unfold State.headerLoss
  with_reducible repeat' (first
    | assumption | apply State.loseAlign_keeps | apply State.raise_keeps | apply State.portActivity_keeps
    | apply State.setLane_keeps | apply State.portDown_keeps | fail_if_no_progress apply Keeps.upd | split
    | intro _ | dsimp only)

theorem execInvalidHeader_keeps {σ : State} (lane : Nat) (s : State) {t : State} (h : Keeps σ s)
    (e : (execInvalidHeader lane s) = .next t) : Keeps σ t := by
  unfold execInvalidHeader at e
  refine Keeps.next ?_ e
  with_reducible repeat' (first
    | assumption | apply State.bump_keeps | apply State.setLane_keeps | apply State.headerLoss_keeps
    | fail_if_no_progress apply Keeps.upd | split | intro _ | dsimp only)

theorem State.setChkLock_keeps {σ : State} (s : State) (l : Nat) (b : Bool) (h : Keeps σ s) :
    Keeps σ (State.setChkLock s l b) := by
  unfold State.setChkLock
  with_reducible repeat' (first | assumption | apply State.putB_keeps | apply State.setLane_keeps)

theorem State.chkRestart_keeps {σ : State} (s : State) (l : Nat) (h : Keeps σ s) :
    Keeps σ (State.chkRestart s l) := by
  unfold State.chkRestart
  with_reducible repeat' (first | assumption | apply State.setChkLock_keeps | apply State.setLane_keeps)

theorem execChkRestart_keeps {σ : State} (lane : Nat) (s : State) {t : State} (h : Keeps σ s)
    (e : (execChkRestart lane s) = .next t) : Keeps σ t := by
  unfold execChkRestart at e
  refine Keeps.next ?_ e
  with_reducible repeat' (first
    | assumption | apply State.blockWrite_keeps | apply State.chkRestart_keeps
    | fail_if_no_progress apply Keeps.upd | split | intro _)

theorem State.testFields_keeps {σ : State} (s : State) (l : Nat) (v : Nat) (h : Keeps σ s) :
    Keeps σ (State.testFields s l v) := by
  unfold State.testFields
  with_reducible repeat' (first
    | assumption | apply State.setChkLock_keeps | apply State.setLane_keeps | apply State.put_keeps
    | apply State.chkRestart_keeps | fail_if_no_progress apply Keeps.upd | split)

theorem State.testLeave_keeps {σ : State} (s : State) (l : Nat) (h : Keeps σ s) :
    Keeps σ (State.testLeave s l) := by
  unfold State.testLeave
  with_reducible repeat' (first
    | assumption | apply State.setChkLock_keeps | apply State.newSequence_keeps | apply State.setPhase_keeps
    | apply State.endBurst_keeps | apply State.release_keeps | fail_if_no_progress apply Keeps.upd | split
    | intro _ | dsimp only)

theorem State.testCtrl_keeps {σ : State} (s : State) (l : Nat) (v : Nat) (h : Keeps σ s) :
    Keeps σ (State.testCtrl s l v) := by
  unfold State.testCtrl
  with_reducible repeat' (first
    | assumption | apply State.log_keeps | apply State.testFields_keeps | apply State.testLeave_keeps
    | apply State.startAttempt_keeps | fail_if_no_progress apply Keeps.upd | split | intro _ | dsimp only)

theorem execTestCtrlWrite_keeps {σ : State} (lane : Nat) (value : Word) (s : State) {t : State} (h : Keeps σ s)
    (e : (execTestCtrlWrite lane value s) = .next t) : Keeps σ t := by
  unfold execTestCtrlWrite at e
  refine Keeps.next ?_ e
  with_reducible repeat' (first
    | assumption | apply State.blockWrite_keeps | apply State.testCtrl_keeps
    | fail_if_no_progress apply Keeps.upd | split | intro _)

theorem execChkLocked_keeps {σ : State} (lane : Nat) (s : State) {t : State} (h : Keeps σ s)
    (e : (execChkLocked lane s) = .next t) : Keeps σ t := by
  unfold execChkLocked at e
  refine Keeps.next ?_ e
  with_reducible repeat' (first
    | assumption | apply State.setChkLock_keeps | fail_if_no_progress apply Keeps.upd | split)

theorem State.chkLost_keeps {σ : State} (s : State) (l : Nat) (h : Keeps σ s) :
    Keeps σ (State.chkLost s l) := by
  unfold State.chkLost
  with_reducible repeat' (first | assumption | apply State.raise_keeps | apply State.setChkLock_keeps)

theorem execChkLockLost_keeps {σ : State} (lane : Nat) (s : State) {t : State} (h : Keeps σ s)
    (e : (execChkLockLost lane s) = .next t) : Keeps σ t := by
  unfold execChkLockLost at e
  refine Keeps.next ?_ e
  with_reducible repeat' (first
    | assumption | apply State.draw_keeps | apply State.chkLost_keeps | apply State.bump_keeps
    | fail_if_no_progress apply Keeps.upd | split)

theorem State.chkLatch_keeps {σ : State} (s : State) (l : Nat) (h : Keeps σ s) :
    Keeps σ (State.chkLatch s l) := by
  unfold State.chkLatch
  with_reducible repeat' (first | assumption | apply State.put_keeps)

theorem execChkBitsLoRead_keeps {σ : State} (lane : Nat) (s : State) {t : State} (h : Keeps σ s)
    (e : (execChkBitsLoRead lane s) = .next t) : Keeps σ t := by
  unfold execChkBitsLoRead at e
  refine Keeps.next ?_ e
  with_reducible repeat' (first
    | assumption | apply State.blockRead_keeps | apply State.chkLatch_keeps
    | fail_if_no_progress apply Keeps.upd | split | intro _)

theorem State.injectWrong_keeps {σ : State} (s : State) (l : Nat) (n : Nat) (h : Keeps σ s) :
    Keeps σ (State.injectWrong s l n) := by
  unfold State.injectWrong
  with_reducible repeat' (first
    | assumption | apply State.bump_keeps | apply State.chkLost_keeps | fail_if_no_progress apply Keeps.upd
    | split | intro _ | dsimp only)

theorem State.inject_keeps {σ : State} (s : State) (l : Nat) (h : Keeps σ s) :
    Keeps σ (State.inject s l) := by
  unfold State.inject
  with_reducible repeat' (first
    | assumption | apply State.draw_keeps | apply State.injectWrong_keeps | apply State.setLane_keeps)

theorem State.injCtrl_keeps {σ : State} (s : State) (l : Nat) (v : Nat) (h : Keeps σ s) :
    Keeps σ (State.injCtrl s l v) := by
  unfold State.injCtrl
  with_reducible repeat' (first
    | assumption | apply State.log_keeps | apply State.put_keeps | apply State.setLane_keeps
    | apply State.inject_keeps | fail_if_no_progress apply Keeps.upd | split | intro _ | dsimp only)

theorem execInjGo_keeps {σ : State} (lane : Nat) (value : Word) (s : State) {t : State} (h : Keeps σ s)
    (e : (execInjGo lane value s) = .next t) : Keeps σ t := by
  unfold execInjGo at e
  refine Keeps.next ?_ e
  with_reducible repeat' (first
    | assumption | apply State.blockWrite_keeps | apply State.injCtrl_keeps
    | fail_if_no_progress apply Keeps.upd | split | intro _)

theorem execInjPeriod_keeps {σ : State} (lane : Nat) (s : State) {t : State} (h : Keeps σ s)
    (e : (execInjPeriod lane s) = .next t) : Keeps σ t := by
  unfold execInjPeriod at e
  refine Keeps.next ?_ e
  with_reducible repeat' (first
    | assumption | apply State.log_keeps | apply State.inject_keeps | fail_if_no_progress apply Keeps.upd
    | split)

theorem State.ltSend_keeps {σ : State} (s : State) (l : Nat) (h : Keeps σ s) :
    Keeps σ (State.ltSend s l) := by
  unfold State.ltSend
  with_reducible repeat' (first
    | assumption | apply State.log_keeps | apply State.setLane_keeps | apply State.putB_keeps
    | fail_if_no_progress apply Keeps.upd | split | intro _ | dsimp only)

theorem execLtSend_keeps {σ : State} (lane : Nat) (s : State) {t : State} (h : Keeps σ s)
    (e : (execLtSend lane s) = .next t) : Keeps σ t := by
  unfold execLtSend at e
  refine Keeps.next ?_ e
  with_reducible repeat' (first
    | assumption | apply State.blockWrite_keeps | apply State.ltSend_keeps
    | fail_if_no_progress apply Keeps.upd | split | intro _)

theorem execLtTimeout_keeps {σ : State} (lane : Nat) (s : State) {t : State} (h : Keeps σ s)
    (e : (execLtTimeout lane s) = .next t) : Keeps σ t := by
  unfold execLtTimeout at e
  refine Keeps.next ?_ e
  with_reducible repeat' (first
    | assumption | apply State.raise_keeps | apply State.putB_keeps | fail_if_no_progress apply Keeps.upd
    | split)

theorem State.sendMarker_keeps {σ : State} (s : State) (l : Nat) (h : Keeps σ s) :
    Keeps σ (State.sendMarker s l) := by
  unfold State.sendMarker
  with_reducible repeat' (first | assumption | apply State.makeMarker_keeps | apply State.setLane_keeps)

theorem State.chkCycle_keeps {σ : State} (s : State) (l : Nat) (h : Keeps σ s) :
    Keeps σ (State.chkCycle s l) := by
  unfold State.chkCycle
  with_reducible repeat' (first
    | assumption | apply State.setLane_keeps | apply State.draw_keeps | apply State.bump_keeps
    | fail_if_no_progress apply Keeps.upd | split | intro _ | dsimp only)

theorem State.rxCycle_keeps {σ : State} (s : State) (l : Nat) (h : Keeps σ s) :
    Keeps σ (State.rxCycle s l) := by
  unfold State.rxCycle
  with_reducible repeat' (first
    | assumption | apply State.equalise_keeps | apply State.freqTrack_keeps | apply State.draw_keeps
    | apply State.setLane_keeps | apply State.bump_keeps | fail_if_no_progress apply Keeps.upd | split
    | intro _ | dsimp only)

theorem State.txCycle_keeps {σ : State} (s : State) (l : Nat) (h : Keeps σ s) :
    Keeps σ (State.txCycle s l) := by
  unfold State.txCycle
  with_reducible repeat' (first
    | assumption | apply State.setLane_keeps | apply State.settleLine_keeps | apply State.testLine_keeps
    | apply State.sendMarker_keeps | fail_if_no_progress apply Keeps.upd | split | intro _ | dsimp only)

theorem State.laneCycle_keeps {σ : State} (s : State) (l : Nat) (h : Keeps σ s) :
    Keeps σ (State.laneCycle s l) := by
  unfold State.laneCycle
  with_reducible repeat' (first
    | assumption | apply State.txCycle_keeps | apply State.rxCycle_keeps | apply State.chkCycle_keeps
    | apply State.endBurst_keeps | apply State.setLane_keeps | fail_if_no_progress apply Keeps.upd | split
    | intro _ | dsimp only)

theorem State.setStat_keeps {σ : State} (s : State) (id : Nat) (v : StreamStat) (h : Keeps σ s) :
    Keeps σ (State.setStat s id v) := by
  unfold State.setStat
  with_reducible repeat' (first | assumption | fail_if_no_progress apply Keeps.upd)

theorem State.countUnderrun_keeps {σ : State} (s : State) (id : Nat) (h : Keeps σ s) :
    Keeps σ (State.countUnderrun s id) := by
  unfold State.countUnderrun
  with_reducible repeat' (first
    | assumption | apply State.raise_keeps | apply State.bump_keeps | apply State.setStat_keeps)

theorem State.countLate_keeps {σ : State} (s : State) (id : Nat) (h : Keeps σ s) :
    Keeps σ (State.countLate s id) := by
  unfold State.countLate
  with_reducible repeat' (first
    | assumption | apply State.raise_keeps | apply State.bump_keeps | apply State.setStat_keeps)

theorem State.countMismatch_keeps {σ : State} (s : State) (id : Nat) (h : Keeps σ s) :
    Keeps σ (State.countMismatch s id) := by
  unfold State.countMismatch
  with_reducible repeat' (first
    | assumption | apply State.raise_keeps | apply State.put_keeps | apply State.bump_keeps
    | apply State.setStat_keeps)

theorem State.countFallback_keeps {σ : State} (s : State) (id : Nat) (h : Keeps σ s) :
    Keeps σ (State.countFallback s id) := by
  unfold State.countFallback
  with_reducible repeat' (first
    | assumption | apply State.raise_keeps | apply State.bump_keeps | apply State.setStat_keeps)

theorem State.streamStatRead_keeps {σ : State} (s : State) (h : Keeps σ s) :
    Keeps σ (State.streamStatRead s) := by
  unfold State.streamStatRead
  with_reducible repeat' (first
    | assumption | apply State.setStat_keeps | fail_if_no_progress apply Keeps.upd)

theorem execStreamStatRead_keeps {σ : State} (s : State) {t : State} (h : Keeps σ s)
    (e : (execStreamStatRead s) = .next t) : Keeps σ t := by
  unfold execStreamStatRead at e
  refine Keeps.next ?_ e
  with_reducible repeat' (first | assumption | apply State.blockRead_keeps | apply State.streamStatRead_keeps)

theorem State.cellExtract_keeps {σ : State} (s : State) (c : Cell) (o : Nat) (arrive : Nat) (h : Keeps σ s) :
    Keeps σ (State.cellExtract s c o arrive) := by
  unfold State.cellExtract
  with_reducible repeat' (first
    | assumption | apply State.raise_keeps | apply State.bump_keeps | apply State.countLate_keeps
    | apply State.storeWrite_keeps | fail_if_no_progress apply Keeps.upd | split | intro _ | dsimp only)

theorem State.entryNote_keeps {σ : State} (s : State) (id : Nat) (j : Nat) (h : Keeps σ s) :
    Keeps σ (State.entryNote s id j) := by
  unfold State.entryNote
  with_reducible repeat' (first | assumption | apply State.storeRead_keeps)

theorem State.presentTo_keeps {σ : State} (s : State) (id : Nat) (smp : List Word) (h : Keeps σ s) :
    Keeps σ (State.presentTo s id smp) := by
  unfold State.presentTo
  with_reducible repeat' (first | assumption | fail_if_no_progress apply Keeps.upd)

theorem State.presentOne_keeps {σ : State} (s : State) (id : Nat) (j : Nat) (o : Nat) (h : Keeps σ s) :
    Keeps σ (State.presentOne s id j o) := by
  unfold State.presentOne
  with_reducible repeat' (first
    | assumption | apply State.entryNote_keeps | apply State.countMismatch_keeps
    | apply State.presentTo_keeps | apply State.countFallback_keeps | apply State.countUnderrun_keeps
    | fail_if_no_progress apply Keeps.upd | split | intro _ | dsimp only)

theorem State.presentAll_keeps {σ : State} (s : State) (second : Bool) (h : Keeps σ s) :
    Keeps σ (State.presentAll s second) := by
  unfold State.presentAll
  with_reducible repeat' (first
    | assumption | apply State.presentOne_keeps | (refine Keeps.foldl ?_ (fun _ _ _ => ?_))
    | (refine Keeps.foldl_snd ?_ (fun _ _ _ => ?_)) | (refine Keeps.foldl_fst ?_ (fun _ _ _ => ?_))
    | fail_if_no_progress apply Keeps.upd | split)

theorem State.streamRestart_keeps {σ : State} (s : State) (id : Nat) (b : Word) (h : Keeps σ s) :
    Keeps σ (State.streamRestart s id b) := by
  unfold State.streamRestart
  with_reducible repeat' (first | assumption | fail_if_no_progress apply Keeps.upd)

theorem State.restartStreams_keeps {σ : State} (s : State) (h : Keeps σ s) :
    Keeps σ (State.restartStreams s) := by
  unfold State.restartStreams
  with_reducible repeat' (first
    | assumption | apply State.streamRestart_keeps | (refine Keeps.foldl ?_ (fun _ _ _ => ?_)))

theorem State.placeCell_keeps {σ : State} (s : State) (p : Nat) (lidx : Nat) (c : TxCell) (h : Keeps σ s) :
    Keeps σ (State.placeCell s p lidx c) := by
  unfold State.placeCell
  with_reducible repeat' (first | assumption | apply State.bump_keeps | apply State.setPort_keeps)

theorem State.waitCell_keeps {σ : State} (s : State) (p : Nat) (c : TxCell) (h : Keeps σ s) :
    Keeps σ (State.waitCell s p c) := by
  unfold State.waitCell
  with_reducible repeat' (first | assumption | apply State.setPort_keeps)

theorem State.spillCell_keeps {σ : State} (s : State) (p : Nat) (c : TxCell) (h : Keeps σ s) :
    Keeps σ (State.spillCell s p c) := by
  unfold State.spillCell
  with_reducible repeat' (first | assumption | apply State.setPort_keeps)

theorem State.spillNote_keeps {σ : State} (s : State) (h : Keeps σ s) :
    Keeps σ (State.spillNote s) := by
  unfold State.spillNote
  with_reducible repeat' (first | assumption | apply State.raise_keeps | apply State.bump_keeps)

theorem State.forwardTo_keeps {σ : State} (s : State) (t : Nat) (c : TxCell) (h : Keeps σ s) :
    Keeps σ (State.forwardTo s t c) := by
  unfold State.forwardTo
  with_reducible repeat' (first
    | assumption | apply State.waitCell_keeps | apply State.placeCell_keeps | apply State.spillCell_keeps
    | fail_if_no_progress apply Keeps.upd | split | intro _ | dsimp only)

theorem State.spurSend_keeps {σ : State} (s : State) (fresh : Bool) (k : Nat) (c : TxCell) (h : Keeps σ s) :
    Keeps σ (State.spurSend s fresh k c) := by
  unfold State.spurSend
  with_reducible repeat' (first
    | assumption | apply State.placeCell_keeps | apply State.spillCell_keeps | apply State.spillNote_keeps
    | fail_if_no_progress apply Keeps.upd | split | intro _ | dsimp only)

theorem State.relaySpurs_keeps {σ : State} (s : State) (c : TxCell) (o : Nat) (origin_ : Option Nat) (h : Keeps σ s) :
    Keeps σ (State.relaySpurs s c o origin_) := by
  unfold State.relaySpurs
  with_reducible repeat' (first
    | assumption | apply State.spurSend_keeps | (refine Keeps.foldl ?_ (fun _ _ _ => ?_))
    | (refine Keeps.foldl_snd ?_ (fun _ _ _ => ?_)) | (refine Keeps.foldl_fst ?_ (fun _ _ _ => ?_))
    | fail_if_no_progress apply Keeps.upd | split | intro _ | dsimp only)

theorem State.cellBad_keeps {σ : State} (s : State) (p : Nat) (h : Keeps σ s) :
    Keeps σ (State.cellBad s p) := by
  unfold State.cellBad
  with_reducible repeat' (first | assumption | apply State.raise_keeps | apply State.bump_keeps)

theorem State.cellValid_keeps {σ : State} (s : State) (t : Nat) (c : Cell) (o : Nat) (arrive : Nat) (h : Keeps σ s) :
    Keeps σ (State.cellValid s t c o arrive) := by
  unfold State.cellValid
  with_reducible repeat' (first
    | assumption | apply State.bump_keeps | apply State.forwardTo_keeps | apply State.relaySpurs_keeps
    | apply State.cellExtract_keeps | fail_if_no_progress apply Keeps.upd | split | intro _ | dsimp only)

theorem execCellReceive_keeps {σ : State} (trunk : Nat) (cell : Cell) (arrive : Nat) (s : State) {t : State} (h : Keeps σ s)
    (e : (execCellReceive trunk cell arrive s) = .next t) : Keeps σ t := by
  unfold execCellReceive at e
  refine Keeps.next ?_ e
  with_reducible repeat' (first
    | assumption | apply State.cellHeader_keeps | apply State.cellBad_keeps | apply State.cellValid_keeps
    | fail_if_no_progress apply Keeps.upd | split | intro _ | dsimp only)

theorem State.injectFrom_keeps {σ : State} (s : State) (e : StreamEnt) (c : TxCell) (h : Keeps σ s) :
    Keeps σ (State.injectFrom s e c) := by
  unfold State.injectFrom
  with_reducible repeat' (first
    | assumption | apply State.setPort_keeps | fail_if_no_progress apply Keeps.upd | split)

theorem State.spurValid_keeps {σ : State} (s : State) (k : Nat) (c : Cell) (o : Nat) (arrive : Nat) (h : Keeps σ s) :
    Keeps σ (State.spurValid s k c o arrive) := by
  unfold State.spurValid
  with_reducible repeat' (first
    | assumption | apply State.bump_keeps | apply State.relaySpurs_keeps | apply State.cellExtract_keeps
    | apply State.injectFrom_keeps | fail_if_no_progress apply Keeps.upd | split | intro _ | dsimp only)

theorem execSpurCellReceive_keeps {σ : State} (spur : Nat) (cell : Cell) (arrive : Nat) (s : State) {t : State} (h : Keeps σ s)
    (e : (execSpurCellReceive spur cell arrive s) = .next t) : Keeps σ t := by
  unfold execSpurCellReceive at e
  refine Keeps.next ?_ e
  with_reducible repeat' (first
    | assumption | apply State.cellHeader_keeps | apply State.cellBad_keeps | apply State.spurValid_keeps
    | fail_if_no_progress apply Keeps.upd | split | intro _ | dsimp only)

theorem State.wrapDrop_keeps {σ : State} (s : State) (t : Nat) (c : TxCell) (h : Keeps σ s) :
    Keeps σ (State.wrapDrop s t c) := by
  unfold State.wrapDrop
  with_reducible repeat' (first
    | assumption | apply State.raise_keeps | apply State.bump_keeps | fail_if_no_progress apply Keeps.upd
    | split)

theorem execWrappedCellExpiry_keeps {σ : State} (trunk : Nat) (s : State) {t : State} (h : Keeps σ s)
    (e : (execWrappedCellExpiry trunk s) = .next t) : Keeps σ t := by
  unfold execWrappedCellExpiry at e
  refine Keeps.next ?_ e
  with_reducible repeat' (first
    | assumption | apply State.wrapDrop_keeps | apply State.setPort_keeps
    | fail_if_no_progress apply Keeps.upd | split)

theorem State.formCells_keeps {σ : State} (s : State) (read : Nat → Word × Bool) (j : Nat) (h : Keeps σ s) :
    Keeps σ (State.formCells s read j) := by
  unfold State.formCells
  with_reducible repeat' (first | assumption | fail_if_no_progress apply Keeps.upd | split)

theorem State.injectCell_keeps {σ : State} (s : State) (o : Nat) (c : Cell) (h : Keeps σ s) :
    Keeps σ (State.injectCell s o c) := by
  unfold State.injectCell
  with_reducible repeat' (first | assumption | apply State.relaySpurs_keeps | apply State.injectFrom_keeps)

theorem State.injectFormed_keeps {σ : State} (s : State) (h : Keeps σ s) :
    Keeps σ (State.injectFormed s) := by
  unfold State.injectFormed
  with_reducible repeat' (first
    | assumption | apply State.injectCell_keeps | (refine Keeps.foldl ?_ (fun _ _ _ => ?_))
    | (refine Keeps.foldl_snd ?_ (fun _ _ _ => ?_)) | (refine Keeps.foldl_fst ?_ (fun _ _ _ => ?_))
    | fail_if_no_progress apply Keeps.upd)

theorem State.settleOne_keeps {σ : State} (s : State) (t : Nat) (c : TxCell) (h : Keeps σ s) :
    Keeps σ (State.settleOne s t c) := by
  unfold State.settleOne
  with_reducible repeat' (first
    | assumption | apply State.waitCell_keeps | apply State.placeCell_keeps | apply State.spillNote_keeps
    | apply State.spillCell_keeps | fail_if_no_progress apply Keeps.upd | split | intro _ | dsimp only)

theorem State.settleSpilled_keeps {σ : State} (s : State) (t : Nat) (c : TxCell) (h : Keeps σ s) :
    Keeps σ (State.settleSpilled s t c) := by
  unfold State.settleSpilled
  with_reducible repeat' (first
    | assumption | apply State.waitCell_keeps | apply State.spillCell_keeps
    | fail_if_no_progress apply Keeps.upd | split | intro _ | dsimp only)

theorem State.placeSpilled_keeps {σ : State} (s : State) (t : Nat) (c : TxCell) (h : Keeps σ s) :
    Keeps σ (State.placeSpilled s t c) := by
  unfold State.placeSpilled
  with_reducible repeat' (first
    | assumption | apply State.waitCell_keeps | apply State.placeCell_keeps | apply State.spillCell_keeps
    | fail_if_no_progress apply Keeps.upd | split | intro _ | dsimp only)

theorem State.settleWrapped_keeps {σ : State} (s : State) (t : Nat) (c : TxCell) (h : Keeps σ s) :
    Keeps σ (State.settleWrapped s t c) := by
  unfold State.settleWrapped
  with_reducible repeat' (first
    | assumption | apply State.placeCell_keeps | apply State.wrapDrop_keeps | apply State.waitCell_keeps
    | fail_if_no_progress apply Keeps.upd | split | intro _ | dsimp only)

theorem State.settleTrunks_keeps {σ : State} (s : State) (h : Keeps σ s) :
    Keeps σ (State.settleTrunks s) := by
  unfold State.settleTrunks
  with_reducible repeat' (first
    | assumption | apply State.setPort_keeps | apply State.settleSpilled_keeps | apply State.settleOne_keeps
    | apply State.settleWrapped_keeps | (refine Keeps.foldl ?_ (fun _ _ _ => ?_)))

theorem State.settleSpur_keeps {σ : State} (s : State) (k : Nat) (h : Keeps σ s) :
    Keeps σ (State.settleSpur s k) := by
  unfold State.settleSpur
  with_reducible repeat' (first
    | assumption | apply State.spurSend_keeps | apply State.setPort_keeps
    | (refine Keeps.foldl ?_ (fun _ _ _ => ?_)))

theorem State.spillsFirst_keeps {σ : State} (s : State) (h : Keeps σ s) :
    Keeps σ (State.spillsFirst s) := by
  unfold State.spillsFirst
  with_reducible repeat' (first
    | assumption | apply State.setPort_keeps | apply State.placeSpilled_keeps
    | (refine Keeps.foldl ?_ (fun _ _ _ => ?_)))

theorem State.wrapCycle_keeps {σ : State} (s : State) (t : Nat) (h : Keeps σ s) :
    Keeps σ (State.wrapCycle s t) := by
  unfold State.wrapCycle
  with_reducible repeat' (first
    | assumption | apply State.raise_keeps | apply State.putB_keeps | apply State.setPort_keeps
    | apply State.wrapStart_keeps | fail_if_no_progress apply Keeps.upd | split | intro _ | dsimp only)

theorem State.svcCycle_keeps {σ : State} (s : State) (p : Nat) (h : Keeps σ s) :
    Keeps σ (State.svcCycle s p) := by
  unfold State.svcCycle
  with_reducible repeat' (first
    | assumption | apply State.putB_keeps | apply State.setLane_keeps | fail_if_no_progress apply Keeps.upd
    | split | intro _ | dsimp only)

theorem State.restartsOver_keeps {σ : State} (s : State) (h : Keeps σ s) :
    Keeps σ (State.restartsOver s) := by
  unfold State.restartsOver
  with_reducible repeat' (first | assumption | fail_if_no_progress apply Keeps.upd)

theorem State.ringSettle_keeps {σ : State} (s : State) (h : Keeps σ s) :
    Keeps σ (State.ringSettle s) := by
  unfold State.ringSettle
  with_reducible repeat' (first
    | assumption | apply State.setPort_keeps | apply State.settleTrunks_keeps | apply State.wrapCycle_keeps
    | (refine Keeps.foldl ?_ (fun _ _ _ => ?_)))

theorem State.ringCycle_keeps {σ : State} (s : State) (h : Keeps σ s) :
    Keeps σ (State.ringCycle s) := by
  unfold State.ringCycle
  with_reducible repeat' (first
    | assumption | apply State.setPort_keeps | apply State.spillsFirst_keeps | apply State.settleSpur_keeps
    | apply State.svcCycle_keeps | apply State.injectFormed_keeps | apply State.restartsOver_keeps
    | (refine Keeps.foldl ?_ (fun _ _ _ => ?_)))

theorem State.ringLoads_keeps {σ : State} (s : State) (h : Keeps σ s) :
    Keeps σ (State.ringLoads s) := by
  unfold State.ringLoads
  with_reducible repeat' (first
    | assumption | apply State.put_keeps | (refine Keeps.foldl ?_ (fun _ _ _ => ?_))
    | (refine Keeps.foldl_snd ?_ (fun _ _ _ => ?_)) | (refine Keeps.foldl_fst ?_ (fun _ _ _ => ?_))
    | fail_if_no_progress apply Keeps.upd | split)

theorem State.setRingState_keeps {σ : State} (s : State) (ringB : Bool) (v : Nat) (h : Keeps σ s) :
    Keeps σ (State.setRingState s ringB v) := by
  unfold State.setRingState
  with_reducible repeat' (first | assumption | apply State.put_keeps)

theorem State.setBypass_keeps {σ : State} (s : State) (ringB : Bool) (b : Bool) (h : Keeps σ s) :
    Keeps σ (State.setBypass s ringB b) := by
  unfold State.setBypass
  with_reducible repeat' (first | assumption | apply State.putB_keeps)

theorem State.insSet_keeps {σ : State} (s : State) (ringB : Bool) (h : Keeps σ s) :
    Keeps σ (State.insSet s ringB) := by
  unfold State.insSet
  with_reducible repeat' (first
    | assumption | apply State.setRingState_keeps | apply State.putB_keeps
    | fail_if_no_progress apply Keeps.upd | split)

theorem State.wrapsEnd_keeps {σ : State} (s : State) (ringB : Bool) (h : Keeps σ s) :
    Keeps σ (State.wrapsEnd s ringB) := by
  unfold State.wrapsEnd
  with_reducible repeat' (first
    | assumption | apply State.raise_keeps | apply State.putB_keeps
    | (refine Keeps.foldl ?_ (fun _ _ _ => ?_)) | (refine Keeps.foldl_snd ?_ (fun _ _ _ => ?_))
    | (refine Keeps.foldl_fst ?_ (fun _ _ _ => ?_)) | fail_if_no_progress apply Keeps.upd | split)

theorem State.insClear_keeps {σ : State} (s : State) (ringB : Bool) (h : Keeps σ s) :
    Keeps σ (State.insClear s ringB) := by
  unfold State.insClear
  with_reducible repeat' (first
    | assumption | apply State.wrapsEnd_keeps | apply State.setRingState_keeps | apply State.setBypass_keeps
    | apply State.putB_keeps)

theorem execInsSet_keeps {σ : State} (ringB : Bool) (s : State) {t : State} (h : Keeps σ s)
    (e : (execInsSet ringB s) = .next t) : Keeps σ t := by
  unfold execInsSet at e
  refine Keeps.next ?_ e
  with_reducible repeat' (first
    | assumption | apply State.blockWrite_keeps | apply State.insSet_keeps
    | fail_if_no_progress apply Keeps.upd | split | intro _)

theorem execInsClear_keeps {σ : State} (ringB : Bool) (s : State) {t : State} (h : Keeps σ s)
    (e : (execInsClear ringB s) = .next t) : Keeps σ t := by
  unfold execInsClear at e
  refine Keeps.next ?_ e
  with_reducible repeat' (first
    | assumption | apply State.blockWrite_keeps | apply State.insClear_keeps
    | fail_if_no_progress apply Keeps.upd | split | intro _)

theorem execInsertionProceed_keeps {σ : State} (ringB : Bool) (s : State) {t : State} (h : Keeps σ s)
    (e : (execInsertionProceed ringB s) = .next t) : Keeps σ t := by
  unfold execInsertionProceed at e
  refine Keeps.next ?_ e
  with_reducible repeat' (first
    | assumption | apply State.raise_keeps | apply State.setRingState_keeps | apply State.setBypass_keeps
    | fail_if_no_progress apply Keeps.upd | split)

theorem execInsDone_keeps {σ : State} (ringB : Bool) (s : State) {t : State} (h : Keeps σ s)
    (e : (execInsDone ringB s) = .next t) : Keeps σ t := by
  unfold execInsDone at e
  refine Keeps.next ?_ e
  with_reducible repeat' (first
    | assumption | apply State.raise_keeps | apply State.setRingState_keeps
    | fail_if_no_progress apply Keeps.upd | split)

theorem execInsFail_keeps {σ : State} (ringB : Bool) (s : State) {t : State} (h : Keeps σ s)
    (e : (execInsFail ringB s) = .next t) : Keeps σ t := by
  unfold execInsFail at e
  refine Keeps.next ?_ e
  with_reducible repeat' (first
    | assumption | apply State.raise_keeps | apply State.setRingState_keeps | apply State.setBypass_keeps
    | fail_if_no_progress apply Keeps.upd | split)

theorem State.svcSend_keeps {σ : State} (s : State) (p : Nat) (h : Keeps σ s) :
    Keeps σ (State.svcSend s p) := by
  unfold State.svcSend
  with_reducible repeat' (first
    | assumption | apply State.log_keeps | apply State.putB_keeps | apply State.setPort_keeps
    | fail_if_no_progress apply Keeps.upd | split | intro _ | dsimp only)

theorem execSvcSend_keeps {σ : State} (port : Nat) (s : State) {t : State} (h : Keeps σ s)
    (e : (execSvcSend port s) = .next t) : Keeps σ t := by
  unfold execSvcSend at e
  refine Keeps.next ?_ e
  with_reducible repeat' (first
    | assumption | apply State.blockWrite_keeps | apply State.svcSend_keeps
    | fail_if_no_progress apply Keeps.upd | split | intro _)

theorem State.setFifo_keeps {σ : State} (s : State) (p : Nat) (l : List (List Word)) (h : Keeps σ s) :
    Keeps σ (State.setFifo s p l) := by
  unfold State.setFifo
  with_reducible repeat' (first
    | assumption | apply State.put_keeps | apply State.setPort_keeps
    | (refine Keeps.foldl ?_ (fun _ _ _ => ?_)))

theorem State.svcPop_keeps {σ : State} (s : State) (p : Nat) (h : Keeps σ s) :
    Keeps σ (State.svcPop s p) := by
  unfold State.svcPop
  with_reducible repeat' (first | assumption | apply State.putB_keeps | apply State.setFifo_keeps)

theorem execSvcPop_keeps {σ : State} (port : Nat) (s : State) {t : State} (h : Keeps σ s)
    (e : (execSvcPop port s) = .next t) : Keeps σ t := by
  unfold execSvcPop at e
  refine Keeps.next ?_ e
  with_reducible repeat' (first
    | assumption | apply State.blockWrite_keeps | apply State.svcPop_keeps
    | fail_if_no_progress apply Keeps.upd | split | intro _)

theorem State.svcArrive_keeps {σ : State} (s : State) (p : Nat) (b : Body) (h : Keeps σ s) :
    Keeps σ (State.svcArrive s p b) := by
  unfold State.svcArrive
  with_reducible repeat' (first
    | assumption | apply State.raise_keeps | apply State.putB_keeps | apply State.setFifo_keeps
    | fail_if_no_progress apply Keeps.upd | split | intro _ | dsimp only)

theorem execServiceReceive_keeps {σ : State} (lane : Nat) (body : Body) (arrive : Nat) (s : State) {t : State} (h : Keeps σ s)
    (e : (execServiceReceive lane body arrive s) = .next t) : Keeps σ t := by
  unfold execServiceReceive at e
  refine Keeps.next ?_ e
  with_reducible repeat' (first
    | assumption | apply State.rxControl_keeps | apply State.trafficSeen_keeps
    | apply State.timeExchange_keeps | apply State.svcArrive_keeps | fail_if_no_progress apply Keeps.upd
    | split | intro _ | dsimp only)

end Sys2Proof.Machine
end

