-- ==== Sys2Proof/Laws/KeepsAudio.lean ====
section
/-! SUPPORT. What no command undoes (`Keeps`), for audio ports, validation, the nominal start, boost and amplifiers: one lemma per function
that gives a state. -/

namespace Sys2Proof.Machine

theorem State.setAud_keeps {σ : State} (s : State) (p : Nat) (a : Audio) (h : Keeps σ s) :
    Keeps σ (State.setAud s p a) := by
  unfold State.setAud
  with_reducible repeat' (first | assumption | fail_if_no_progress apply Keeps.upd)

theorem State.setPdir_keeps {σ : State} (s : State) (p : Nat) (tx : Bool) (d : PortDir) (h : Keeps σ s) :
    Keeps σ (State.setPdir s p tx d) := by
  unfold State.setPdir
  with_reducible repeat' (first | assumption | apply State.setAud_keeps)

theorem State.portLostNote_keeps {σ : State} (s : State) (p : Nat) (h : Keeps σ s) :
    Keeps σ (State.portLostNote s p) := by
  unfold State.portLostNote
  with_reducible repeat' (first | assumption | apply State.put_keeps)

theorem State.portArm_keeps {σ : State} (s : State) (p : Nat) (h : Keeps σ s) :
    Keeps σ (State.portArm s p) := by
  unfold State.portArm
  with_reducible repeat' (first
    | assumption | apply State.put_keeps | fail_if_no_progress apply Keeps.upd | split)

theorem State.portHalt_keeps {σ : State} (s : State) (p : Nat) (h : Keeps σ s) :
    Keeps σ (State.portHalt s p) := by
  unfold State.portHalt
  with_reducible repeat' (first
    | assumption | apply State.setAud_keeps | apply State.put_keeps | apply State.portArm_keeps
    | apply State.raise_keeps)

theorem State.portEnable_keeps {σ : State} (s : State) (p : Nat) (en : Bool) (h : Keeps σ s) :
    Keeps σ (State.portEnable s p en) := by
  unfold State.portEnable
  with_reducible repeat' (first
    | assumption | apply State.putB_keeps | apply State.portArm_keeps | apply State.setAud_keeps
    | apply State.portHalt_keeps | fail_if_no_progress apply Keeps.upd | split | intro _ | dsimp only)

theorem State.portStart1_keeps {σ : State} (s : State) (p : Nat) (h : Keeps σ s) :
    Keeps σ (State.portStart1 s p) := by
  unfold State.portStart1
  with_reducible repeat' (first
    | assumption | apply State.raise_keeps | apply State.log_keeps | apply State.setAud_keeps
    | apply State.put_keeps | fail_if_no_progress apply Keeps.upd | split)

theorem State.portStartGroups_keeps {σ : State} (s : State) (groups : Nat) (h : Keeps σ s) :
    Keeps σ (State.portStartGroups s groups) := by
  unfold State.portStartGroups
  with_reducible repeat' (first
    | assumption | apply State.portStart1_keeps | (refine Keeps.foldl ?_ (fun _ _ _ => ?_))
    | (refine Keeps.foldl_snd ?_ (fun _ _ _ => ?_)) | (refine Keeps.foldl_fst ?_ (fun _ _ _ => ?_))
    | fail_if_no_progress apply Keeps.upd | split)

theorem State.pendNote_keeps {σ : State} (s : State) (p : Nat) (tx : Bool) (h : Keeps σ s) :
    Keeps σ (State.pendNote s p tx) := by
  unfold State.pendNote
  with_reducible repeat' (first | assumption | apply State.putB_keeps)

theorem State.fillNote_keeps {σ : State} (s : State) (p : Nat) (tx : Bool) (f : Nat) (h : Keeps σ s) :
    Keeps σ (State.fillNote s p tx f) := by
  unfold State.fillNote
  with_reducible repeat' (first
    | assumption | apply State.put_keeps | apply State.pendNote_keeps | apply State.setPdir_keeps
    | fail_if_no_progress apply Keeps.upd | split | intro _ | dsimp only)

theorem State.pendAge_keeps {σ : State} (s : State) (p : Nat) (tx : Bool) (h : Keeps σ s) :
    Keeps σ (State.pendAge s p tx) := by
  unfold State.pendAge
  with_reducible repeat' (first | assumption | apply State.setPdir_keeps)

theorem State.slipCount_keeps {σ : State} (s : State) (p : Nat) (tx : Bool) (ahead : Bool) (forced : Bool) (h : Keeps σ s) :
    Keeps σ (State.slipCount s p tx ahead forced) := by
  unfold State.slipCount
  with_reducible repeat' (first
    | assumption | apply State.setPdir_keeps | apply State.raise_keeps | apply State.bump_keeps
    | apply State.pendNote_keeps | fail_if_no_progress apply Keeps.upd | split)

theorem State.portSubstitute_keeps {σ : State} (s : State) (p : Nat) (mask : Word) (h : Keeps σ s) :
    Keeps σ (State.portSubstitute s p mask) := by
  unfold State.portSubstitute
  with_reducible repeat' (first
    | assumption | apply State.setAud_keeps | apply State.raise_keeps | apply State.bump_keeps)

theorem State.rxEnter_keeps {σ : State} (s : State) (p : Nat) (keep : Bool) (h : Keeps σ s) :
    Keeps σ (State.rxEnter s p keep) := by
  unfold State.rxEnter
  with_reducible repeat' (first
    | assumption | apply State.portSubstitute_keeps | apply State.setAud_keeps
    | fail_if_no_progress apply Keeps.upd | split | intro _ | dsimp only)

theorem State.rxTake_keeps {σ : State} (s : State) (p : Nat) (keep : Bool) (moved : Nat) (h : Keeps σ s) :
    Keeps σ (State.rxTake s p keep moved) := by
  unfold State.rxTake
  with_reducible repeat' (first
    | assumption | apply State.rxEnter_keeps | apply State.fillNote_keeps
    | fail_if_no_progress apply Keeps.upd | split)

theorem State.rxWait_keeps {σ : State} (s : State) (p : Nat) (h : Keeps σ s) :
    Keeps σ (State.rxWait s p) := by
  unfold State.rxWait
  with_reducible repeat' (first | assumption | apply State.setAud_keeps)

theorem State.rxTick_keeps {σ : State} (s : State) (p : Nat) (act : Option (Bool × Bool)) (h : Keeps σ s) :
    Keeps σ (State.rxTick s p act) := by
  unfold State.rxTick
  with_reducible repeat' (first
    | assumption | apply State.portSubstitute_keeps | apply State.setAud_keeps | apply State.rxWait_keeps
    | apply State.rxTake_keeps | apply State.pendAge_keeps | apply State.slipCount_keeps
    | fail_if_no_progress apply Keeps.upd | split)

theorem State.txTick_keeps {σ : State} (s : State) (p : Nat) (act : Option (Bool × Bool)) (new : TxEntry) (h : Keeps σ s) :
    Keeps σ (State.txTick s p act new) := by
  unfold State.txTick
  with_reducible repeat' (first
    | assumption | apply State.setAud_keeps | apply State.pendAge_keeps | apply State.slipCount_keeps
    | fail_if_no_progress apply Keeps.upd | split | intro _ | dsimp only)

theorem State.txMaskAt_keeps {σ : State} (s : State) (p : Nat) (j : Word) (h : Keeps σ s) :
    Keeps σ (State.txMaskAt s p j) := by
  unfold State.txMaskAt
  with_reducible repeat' (first | assumption | apply State.setAud_keeps)

theorem State.portTick1_keeps {σ : State} (s : State) (p : Nat) (actRx : Option (Bool × Bool)) (actTx : Option (Bool × Bool)) (new : TxEntry) (h : Keeps σ s) :
    Keeps σ (State.portTick1 s p actRx actTx new) := by
  unfold State.portTick1
  with_reducible repeat' (first
    | assumption | apply State.setAud_keeps | apply State.rxEnter_keeps | apply State.rxTick_keeps
    | apply State.txTick_keeps | fail_if_no_progress apply Keeps.upd | split | intro _ | dsimp only)

theorem State.portsTick_keeps {σ : State} (s : State) (t : Word) (read : Nat → Word) (fast : List Nat) (h : Keeps σ s) :
    Keeps σ (State.portsTick s t read fast) := by
  unfold State.portsTick
  with_reducible repeat' (first
    | assumption | apply State.txMaskAt_keeps | apply State.portTick1_keeps
    | (refine Keeps.foldl ?_ (fun _ _ _ => ?_)))

theorem State.portsMute_keeps {σ : State} (s : State) (h : Keeps σ s) :
    Keeps σ (State.portsMute s) := by
  unfold State.portsMute
  with_reducible repeat' (first
    | assumption | apply State.setAud_keeps | (refine Keeps.foldl ?_ (fun _ _ _ => ?_))
    | (refine Keeps.foldl_snd ?_ (fun _ _ _ => ?_)) | (refine Keeps.foldl_fst ?_ (fun _ _ _ => ?_))
    | fail_if_no_progress apply Keeps.upd | split | intro _ | dsimp only)

theorem State.portCommit_keeps {σ : State} (s : State) (p : Nat) (b : Word) (h : Keeps σ s) :
    Keeps σ (State.portCommit s p b) := by
  unfold State.portCommit
  with_reducible repeat' (first
    | assumption | apply State.setAud_keeps | fail_if_no_progress apply Keeps.upd | split)

theorem State.rateNote_keeps {σ : State} (s : State) (p : Nat) (tx : Bool) (rate : Int) (h : Keeps σ s) :
    Keeps σ (State.rateNote s p tx rate) := by
  unfold State.rateNote
  with_reducible repeat' (first
    | assumption | apply State.putI_keeps | apply State.raise_keeps | fail_if_no_progress apply Keeps.upd
    | split)

theorem State.lostFrame_keeps {σ : State} (s : State) (p : Nat) (tx : Bool) (valid : Bool) (len : Nat) (h : Keeps σ s) :
    Keeps σ (State.lostFrame s p tx valid len) := by
  unfold State.lostFrame
  with_reducible repeat' (first | assumption | apply State.setPdir_keeps)

theorem State.clkBack_keeps {σ : State} (s : State) (p : Nat) (tx : Bool) (h : Keeps σ s) :
    Keeps σ (State.clkBack s p tx) := by
  unfold State.clkBack
  with_reducible repeat' (first
    | assumption | apply State.raise_keeps | apply State.pendNote_keeps | apply State.portLostNote_keeps
    | apply State.setPdir_keeps)

theorem State.lenNote_keeps {σ : State} (s : State) (p : Nat) (tx : Bool) (len : Nat) (h : Keeps σ s) :
    Keeps σ (State.lenNote s p tx len) := by
  unfold State.lenNote
  with_reducible repeat' (first
    | assumption | apply State.put_keeps | fail_if_no_progress apply Keeps.upd | split)

theorem State.rxEdgeMask_keeps {σ : State} (s : State) (p : Nat) (since : Nat) (h : Keeps σ s) :
    Keeps σ (State.rxEdgeMask s p since).2 := by
  unfold State.rxEdgeMask
  with_reducible repeat' (first | assumption | apply State.setAud_keeps)

theorem State.rxQueue_keeps {σ : State} (s : State) (p : Nat) (fr : RxFrame) (valid : Bool) (h : Keeps σ s) :
    Keeps σ (State.rxQueue s p fr valid) := by
  unfold State.rxQueue
  with_reducible repeat' (first
    | assumption | apply State.rxEdgeMask_keeps | apply State.setAud_keeps | apply State.pendNote_keeps
    | apply State.put_keeps | fail_if_no_progress apply Keeps.upd | split | intro _ | dsimp only)

theorem State.rxMaster_keeps {σ : State} (s : State) (p : Nat) (fr : RxFrame) (h : Keeps σ s) :
    Keeps σ (State.rxMaster s p fr) := by
  unfold State.rxMaster
  with_reducible repeat' (first
    | assumption | apply State.rxEdgeMask_keeps | apply State.lenNote_keeps | apply State.setAud_keeps)

theorem State.rxSlave_keeps {σ : State} (s : State) (p : Nat) (fr : RxFrame) (h : Keeps σ s) :
    Keeps σ (State.rxSlave s p fr) := by
  unfold State.rxSlave
  with_reducible repeat' (first
    | assumption | apply State.rateNote_keeps | apply State.lenNote_keeps | apply State.raise_keeps
    | apply State.bump_keeps | apply State.lostFrame_keeps | apply State.rxQueue_keeps
    | apply State.clkBack_keeps | apply State.setPdir_keeps | fail_if_no_progress apply Keeps.upd | split
    | intro _ | dsimp only)

theorem execPortRxFrame_keeps {σ : State} (port : Nat) (frame : RxFrame) (s : State) {t : State} (h : Keeps σ s)
    (e : (execPortRxFrame port frame s) = .next t) : Keeps σ t := by
  unfold execPortRxFrame at e
  try dsimp only at e
  repeat' (first | with_reducible refine Keeps.next ?_ e | split at e)
  all_goals
  with_reducible repeat' (first
    | assumption | apply State.rxMaster_keeps | apply State.rxSlave_keeps
    | fail_if_no_progress apply Keeps.upd | split)

theorem State.txSend_keeps {σ : State} (s : State) (p : Nat) (e : TxEntry) (h : Keeps σ s) :
    Keeps σ (State.txSend s p e) := by
  unfold State.txSend
  with_reducible repeat' (first | assumption | apply State.setAud_keeps)

theorem State.txAlign_keeps {σ : State} (s : State) (p : Nat) (frac : Nat) (h : Keeps σ s) :
    Keeps σ (State.txAlign s p frac) := by
  unfold State.txAlign
  with_reducible repeat' (first | assumption | apply State.pendNote_keeps | apply State.setAud_keeps)

theorem State.txSlave_keeps {σ : State} (s : State) (p : Nat) (frac : Nat) (h : Keeps σ s) :
    Keeps σ (State.txSlave s p frac) := by
  unfold State.txSlave
  with_reducible repeat' (first
    | assumption | apply State.txAlign_keeps | apply State.setAud_keeps | apply State.fillNote_keeps
    | apply State.txSend_keeps | fail_if_no_progress apply Keeps.upd | split | intro _ | dsimp only)

theorem execPortTxFrame_keeps {σ : State} (port : Nat) (len : Nat) (frac : Nat) (rate : Int) (s : State) {t : State} (h : Keeps σ s)
    (e : (execPortTxFrame port len frac rate s) = .next t) : Keeps σ t := by
  unfold execPortTxFrame at e
  try dsimp only at e
  repeat' (first | with_reducible refine Keeps.next ?_ e | split at e)
  all_goals
  with_reducible repeat' (first
    | assumption | apply State.lenNote_keeps | apply State.txSend_keeps | apply State.rateNote_keeps
    | apply State.lostFrame_keeps | apply State.txSlave_keeps | apply State.clkBack_keeps
    | apply State.setPdir_keeps)

theorem execClkLoss_keeps {σ : State} (port : Nat) (tx : Bool) (s : State) {t : State} (h : Keeps σ s)
    (e : (execClkLoss port tx s) = .next t) : Keeps σ t := by
  unfold execClkLoss at e
  try dsimp only at e
  repeat' (first | with_reducible refine Keeps.next ?_ e | split at e)
  all_goals
  with_reducible repeat' (first
    | assumption | apply State.setAud_keeps | apply State.setPdir_keeps | apply State.raise_keeps
    | apply State.pendNote_keeps | apply State.portLostNote_keeps)

theorem State.maskImm_keeps {σ : State} (s : State) (p : Nat) (tx : Bool) (mask : Word) (h : Keeps σ s) :
    Keeps σ (State.maskImm s p tx mask) := by
  unfold State.maskImm
  with_reducible repeat' (first
    | assumption | apply State.putSh_keeps | apply State.put_keeps | apply State.setAud_keeps
    | fail_if_no_progress apply Keeps.upd | split)

theorem State.maskWrite_keeps {σ : State} (s : State) (p : Nat) (tx : Bool) (mask : Word) (h : Keeps σ s) :
    Keeps σ (State.maskWrite s p tx mask) := by
  unfold State.maskWrite
  with_reducible repeat' (first
    | assumption | apply State.log_keeps | apply State.maskImm_keeps | apply State.shadowWrite_keeps
    | fail_if_no_progress apply Keeps.upd | split | intro _ | dsimp only)

theorem execMaskImmWrite_keeps {σ : State} (port : Nat) (tx : Bool) (mask : Word) (s : State) {t : State} (h : Keeps σ s)
    (e : (execMaskImmWrite port tx mask s) = .next t) : Keeps σ t := by
  unfold execMaskImmWrite at e
  try dsimp only at e
  repeat' (first | with_reducible refine Keeps.next ?_ e | split at e)
  all_goals
  with_reducible repeat' (first
    | assumption | apply State.blockWrite_keeps | apply State.maskWrite_keeps
    | fail_if_no_progress apply Keeps.upd | split | intro _)

theorem execPortStop_keeps {σ : State} (port : Nat) (s : State) {t : State} (h : Keeps σ s)
    (e : (execPortStop port s) = .next t) : Keeps σ t := by
  unfold execPortStop at e
  try dsimp only at e
  repeat' (first | with_reducible refine Keeps.next ?_ e | split at e)
  all_goals
  with_reducible repeat' (first | assumption | apply State.portHalt_keeps)

theorem State.portStartWrite_keeps {σ : State} (s : State) (groups : Word) (h : Keeps σ s) :
    Keeps σ (State.portStartWrite s groups) := by
  unfold State.portStartWrite
  with_reducible repeat' (first | assumption | fail_if_no_progress apply Keeps.upd)

theorem execPortStartWrite_keeps {σ : State} (groups : Word) (s : State) {t : State} (h : Keeps σ s)
    (e : (execPortStartWrite groups s) = .next t) : Keeps σ t := by
  unfold execPortStartWrite at e
  refine Keeps.next ?_ e
  with_reducible repeat' (first
    | assumption | apply State.blockWrite_keeps | apply State.portStartWrite_keeps
    | fail_if_no_progress apply Keeps.upd | split | intro _)

theorem execPortStartTick_keeps {σ : State} (s : State) {t : State} (h : Keeps σ s)
    (e : (execPortStartTick s) = .next t) : Keeps σ t := by
  unfold execPortStartTick at e
  try dsimp only at e
  repeat' (first | with_reducible refine Keeps.next ?_ e | split at e)
  all_goals
  with_reducible repeat' (first
    | assumption | apply State.portStartGroups_keeps | fail_if_no_progress apply Keeps.upd)

theorem State.reportSchedule_keeps {σ : State} (s : State) (h : Keeps σ s) :
    Keeps σ (State.reportSchedule s) := by
  unfold State.reportSchedule
  with_reducible repeat' (first
    | assumption | apply State.put_keeps | (refine Keeps.foldl ?_ (fun _ _ _ => ?_))
    | (refine Keeps.foldl_snd ?_ (fun _ _ _ => ?_)) | (refine Keeps.foldl_fst ?_ (fun _ _ _ => ?_))
    | fail_if_no_progress apply Keeps.upd | split)

theorem State.putOld_keeps {σ : State} (s : State) (l : List OldFld) (h : Keeps σ s) :
    Keeps σ (State.putOld s l) := by
  unfold State.putOld
  with_reducible repeat' (first
    | assumption | (refine Keeps.foldl ?_ (fun _ _ _ => ?_)) | (refine Keeps.foldl_snd ?_ (fun _ _ _ => ?_))
    | (refine Keeps.foldl_fst ?_ (fun _ _ _ => ?_)) | fail_if_no_progress apply Keeps.upd)

theorem Tab.wf_tabs (l : List OldTab) (m : List Host.Cell) (hm : Tab.wf 0 m = true) :
    Tab.wf 0 (l.foldl (fun (m : List Host.Cell) (t : OldTab) => Tab.puts 0 (Tab.clear m t.lo t.hi) t.cells) m)
      = true := by
  induction l generalizing m with
  | nil => exact hm
  | cons t l ih => exact ih _ (Tab.wf_puts _ (Tab.wf_clear _ _ hm))

theorem State.putTabs_keeps {σ : State} (s : State) (l : List OldTab) (h : Keeps σ s) :
    Keeps σ (State.putTabs s l) :=
  h.withMem _ (Tab.wf_tabs l _)

theorem State.windowView_keeps {σ : State} (s : State) (h : Keeps σ s) :
    Keeps σ (State.windowView s) := by
  unfold State.windowView
  with_reducible repeat' (first | assumption | apply State.putTabs_keeps | apply State.putOld_keeps)

theorem State.inWindow_keeps {σ : State} (s : State) (f : State → State) (hf : ∀ x, Keeps σ x → Keeps σ (f x)) (h : Keeps σ s) :
    Keeps σ (State.inWindow s f) := by
  unfold State.inWindow
  with_reducible repeat' (first
    | assumption | apply hf | apply State.putTabs_keeps | apply State.putOld_keeps
    | apply State.windowView_keeps | fail_if_no_progress apply Keeps.upd | split)

theorem State.tailsEnd_keeps {σ : State} (s : State) (h : Keeps σ s) :
    Keeps σ (State.tailsEnd s) := by
  unfold State.tailsEnd
  with_reducible repeat' (first
    | assumption | apply State.setCl_keeps | (refine Keeps.foldl ?_ (fun _ _ _ => ?_))
    | (refine Keeps.foldl_snd ?_ (fun _ _ _ => ?_)) | (refine Keeps.foldl_fst ?_ (fun _ _ _ => ?_))
    | fail_if_no_progress apply Keeps.upd | split)

theorem State.takeUp_keeps {σ : State} (s : State) (h : Keeps σ s) :
    Keeps σ (State.takeUp s) := by
  unfold State.takeUp
  with_reducible repeat' (first
    | assumption | apply State.windowView_keeps | apply State.tailsEnd_keeps | apply State.oryxCompare_keeps
    | apply State.noteRetire_keeps | apply State.fadeNote_keeps | apply State.fadesGone_keeps
    | apply State.eqCompare_keeps | apply State.delayCompare_keeps | fail_if_no_progress apply Keeps.upd
    | split)

theorem State.enginePass_keeps {σ : State} (s : State) (i : Nat) (h : Keeps σ s) :
    Keeps σ (State.enginePass s i) := by
  unfold State.enginePass
  with_reducible repeat' (first
    | assumption | apply State.oryxPass_keeps | apply State.eqPass_keeps | apply State.delayPass_keeps
    | fail_if_no_progress apply Keeps.upd | split)

theorem State.clearPass_keeps {σ : State} (s : State) (b : Nat) (h : Keeps σ s) :
    Keeps σ (State.clearPass s b) := by
  unfold State.clearPass
  with_reducible repeat' (first | assumption | fail_if_no_progress apply Keeps.upd)

theorem State.windowEnd_keeps {σ : State} (s : State) (h : Keeps σ s) :
    Keeps σ (State.windowEnd s) := by
  unfold State.windowEnd
  with_reducible repeat' (first
    | assumption | apply State.put_keeps | fail_if_no_progress apply Keeps.upd | split)

theorem State.windowStart__keeps {σ : State} (s : State) (t : BitVec 32) (h : Keeps σ s) :
    Keeps σ (State.windowStart_ s t) := by
  unfold State.windowStart_
  with_reducible repeat' (first
    | assumption | apply State.windowEnd_keeps | apply State.takeUp_keeps | apply State.clearPass_keeps
    | apply State.setCore1_keeps | (refine Keeps.foldl ?_ (fun _ _ _ => ?_))
    | (refine Keeps.foldl_snd ?_ (fun _ _ _ => ?_)) | (refine Keeps.foldl_fst ?_ (fun _ _ _ => ?_))
    | fail_if_no_progress apply Keeps.upd | split)

theorem State.restOfWindow_keeps {σ : State} (s : State) (h : Keeps σ s) :
    Keeps σ (State.restOfWindow s) := by
  unfold State.restOfWindow
  with_reducible repeat' (first
    | assumption | apply State.inWindow_keeps | apply State.enginePass_keeps | apply State.windowView_keeps
    | (refine Keeps.foldl ?_ (fun _ _ _ => ?_)) | (refine Keeps.foldl_snd ?_ (fun _ _ _ => ?_))
    | (refine Keeps.foldl_fst ?_ (fun _ _ _ => ?_)) | fail_if_no_progress apply Keeps.upd | split | intro _)

theorem State.throughG2_keeps {σ : State} (s : State) (b : BitVec 32) (h : Keeps σ s) :
    Keeps σ (State.throughG2 s b) := by
  unfold State.throughG2
  with_reducible repeat' (first
    | assumption | apply State.restOfWindow_keeps | apply State.windowStart__keeps
    | fail_if_no_progress apply Keeps.upd | split | intro _ | dsimp only)

theorem State.idle_keeps {σ : State} (s : State) (h : Keeps σ s) :
    Keeps σ (State.idle s) := by
  unfold State.idle
  with_reducible repeat' (first | assumption | apply State.atPhase_keeps)

theorem State.cycleLoaded_keeps {σ : State} (s : State) (was : BitVec 32) (h : Keeps σ s) :
    Keeps σ (State.cycleLoaded s was) := by
  unfold State.cycleLoaded
  with_reducible repeat' (first
    | assumption | apply State.restartStreams_keeps | apply State.cancelArmed_keeps
    | fail_if_no_progress apply Keeps.upd | split)

theorem State.setNow_keeps {σ : State} (s : State) (was : BitVec 32) (h : Keeps σ s) :
    Keeps σ (State.setNow s was) := by
  unfold State.setNow
  with_reducible repeat' (first
    | assumption | apply State.loadTime_keeps | apply State.put_keeps | apply State.putB_keeps
    | apply State.raise_keeps | apply State.cycleLoaded_keeps | fail_if_no_progress apply Keeps.upd)

theorem State.alignNow_keeps {σ : State} (s : State) (was : BitVec 32) (v : Int × Int) (h : Keeps σ s) :
    Keeps σ (State.alignNow s was v) := by
  unfold State.alignNow
  with_reducible repeat' (first
    | assumption | apply State.loadTime_keeps | apply State.putB_keeps | apply State.raise_keeps
    | apply State.cycleLoaded_keeps | fail_if_no_progress apply Keeps.upd)

theorem Time.nextCQ_lt (t : Time) (h : t.q < 3 * 2 ^ 32) : t.nextCQ.2 < 3 * 2 ^ 32 := by
  unfold Time.nextCQ
  split
  · decide
  · exact Nat.mod_lt _ (by decide)

theorem State.advanceTime_keeps {σ : State} (s : State) (h : Keeps σ s) :
    Keeps σ (State.advanceTime s) := by
  unfold State.advanceTime
  with_reducible repeat' (first
    | assumption | apply State.setNow_keeps | apply State.alignNow_keeps | apply State.raise_keeps
    | apply State.bit31Follow_keeps
    | (with_unfolding_all exact Keeps.step h id (fun _ => Nat.zero_lt_succ _) (Time.nextCQ_lt _) (Nat.le_refl _) (fun _ e => e) (Nat.le_refl _))
    | fail_if_no_progress apply Keeps.upd | split | intro _ | dsimp only)

theorem State.ppsCycle_keeps {σ : State} (s : State) (h : Keeps σ s) :
    Keeps σ (State.ppsCycle s) := by
  unfold State.ppsCycle
  with_reducible repeat' (first
    | assumption | apply State.ppsEdge_keeps | fail_if_no_progress apply Keeps.upd)

theorem State.fsApply_keeps {σ : State} (s : State) (h : Keeps σ s) :
    Keeps σ (State.fsApply s) := by
  unfold State.fsApply
  with_reducible repeat' (first | assumption | apply State.put_keeps)

theorem State.linkCycle_keeps {σ : State} (s : State) (h : Keeps σ s) :
    Keeps σ (State.linkCycle s) := by
  unfold State.linkCycle
  with_reducible repeat' (first
    | assumption | apply State.ringCycle_keeps | apply State.laneCycle_keeps | apply State.ringSettle_keeps
    | (refine Keeps.foldl ?_ (fun _ _ _ => ?_)) | (refine Keeps.foldl_snd ?_ (fun _ _ _ => ?_))
    | (refine Keeps.foldl_fst ?_ (fun _ _ _ => ?_)) | fail_if_no_progress apply Keeps.upd | split)

theorem State.presentHeld_keeps {σ : State} (s : State) (h : Keeps σ s) :
    Keeps σ (State.presentHeld s) := by
  unfold State.presentHeld
  with_reducible repeat' (first
    | assumption | apply State.presentAll_keeps | fail_if_no_progress apply Keeps.upd | split)

theorem State.presentStart_keeps {σ : State} (s : State) (h : Keeps σ s) :
    Keeps σ (State.presentStart s) := by
  unfold State.presentStart
  with_reducible repeat' (first
    | assumption | apply State.presentAll_keeps | fail_if_no_progress apply Keeps.upd | split)

theorem State.cycleStart_keeps {σ : State} (s : State) (h : Keeps σ s) :
    Keeps σ (State.cycleStart s) := by
  unfold State.cycleStart
  with_reducible repeat' (first
    | assumption | apply State.linkCycle_keeps | apply State.ppsCycle_keeps | apply State.fsApply_keeps
    | apply State.dpllCycle_keeps | apply State.advanceTime_keeps | apply State.presentStart_keeps
    | fail_if_no_progress apply Keeps.upd | split)

theorem execNominalCycleStart_keeps {σ : State} (s : State) {t : State} (h : Keeps σ s)
    (e : (execNominalCycleStart s) = .next t) : Keeps σ t := by
  unfold execNominalCycleStart at e
  refine Keeps.next ?_ e
  with_reducible repeat' (first
    | assumption | apply State.cycleStart_keeps | fail_if_no_progress apply Keeps.upd | split)

theorem execAlign_keeps {σ : State} (s : State) {t : State} (h : Keeps σ s)
    (e : (execAlign s) = .next t) : Keeps σ t := by
  unfold execAlign at e
  refine Keeps.next ?_ e
  with_reducible repeat' (first | assumption | apply State.blockWrite_keeps | apply State.alignReq_keeps)

theorem execSet_keeps {σ : State} (s : State) {t : State} (h : Keeps σ s)
    (e : (execSet s) = .next t) : Keeps σ t := by
  unfold execSet at e
  refine Keeps.next ?_ e
  with_reducible repeat' (first | assumption | apply State.blockWrite_keeps | apply State.setReq_keeps)

theorem execAlignDone_keeps {σ : State} (s : State) {t : State} (h : Keeps σ s)
    (e : (execAlignDone s) = .next t) : Keeps σ t := by
  unfold execAlignDone at e
  refine Keeps.next ?_ e
  with_reducible repeat' (first
    | assumption | apply State.cycleStart_keeps | fail_if_no_progress apply Keeps.upd | split)

theorem execSetDone_keeps {σ : State} (s : State) {t : State} (h : Keeps σ s)
    (e : (execSetDone s) = .next t) : Keeps σ t := by
  unfold execSetDone at e
  refine Keeps.next ?_ e
  with_reducible repeat' (first
    | assumption | apply State.cycleStart_keeps | fail_if_no_progress apply Keeps.upd | split)

theorem execNumFreqWrite_keeps {σ : State} (value : Word) (s : State) {t : State} (h : Keeps σ s)
    (e : (execNumFreqWrite value s) = .next t) : Keeps σ t := by
  unfold execNumFreqWrite at e
  refine Keeps.next ?_ e
  with_reducible repeat' (first
    | assumption | apply State.blockWrite_keeps | apply State.numFreqWrite_keeps
    | fail_if_no_progress apply Keeps.upd | split | intro _)

theorem execNumPhaseWrite_keeps {σ : State} (value : Word) (s : State) {t : State} (h : Keeps σ s)
    (e : (execNumPhaseWrite value s) = .next t) : Keeps σ t := by
  unfold execNumPhaseWrite at e
  refine Keeps.next ?_ e
  with_reducible repeat' (first
    | assumption | apply State.blockWrite_keeps | apply State.numPhaseWrite_keeps
    | fail_if_no_progress apply Keeps.upd | split | intro _)

theorem execPstepGo_keeps {σ : State} (ctrl : Word) (s : State) {t : State} (h : Keeps σ s)
    (e : (execPstepGo ctrl s) = .next t) : Keeps σ t := by
  unfold execPstepGo at e
  refine Keeps.next ?_ e
  with_reducible repeat' (first
    | assumption | apply State.blockWrite_keeps | apply State.pstepCtrl_keeps
    | fail_if_no_progress apply Keeps.upd | split | intro _)

theorem State.setAmp_keeps {σ : State} (s : State) (n : Nat) (a : Amp) (h : Keeps σ s) :
    Keeps σ (State.setAmp s n a) := by
  unfold State.setAmp
  with_reducible repeat' (first | assumption | fail_if_no_progress apply Keeps.upd)

theorem State.setBoost_keeps {σ : State} (s : State) (k : Nat) (b : Boost) (h : Keeps σ s) :
    Keeps σ (State.setBoost s k b) := by
  unfold State.setBoost
  with_reducible repeat' (first | assumption | fail_if_no_progress apply Keeps.upd)

theorem State.setTarget_keeps {σ : State} (s : State) (k : Nat) (t : Int) (h : Keeps σ s) :
    Keeps σ (State.setTarget s k t) := by
  unfold State.setTarget
  with_reducible repeat' (first | assumption | apply State.setBoost_keeps | apply State.put_keeps)

theorem State.boostEnter_keeps {σ : State} (s : State) (k : Nat) (st : Nat) (h : Keeps σ s) :
    Keeps σ (State.boostEnter s k st) := by
  unfold State.boostEnter
  with_reducible repeat' (first | assumption | apply State.put_keeps)

theorem State.boostSuspend_keeps {σ : State} (s : State) (k : Nat) (h : Keeps σ s) :
    Keeps σ (State.boostSuspend s k) := by
  unfold State.boostSuspend
  with_reducible repeat' (first
    | assumption | apply State.setTarget_keeps | apply State.boostEnter_keeps
    | fail_if_no_progress apply Keeps.upd | split | intro _ | dsimp only)

theorem State.boostOff_keeps {σ : State} (s : State) (k : Nat) (h : Keeps σ s) :
    Keeps σ (State.boostOff s k) := by
  unfold State.boostOff
  with_reducible repeat' (first
    | assumption | apply State.release_keeps | apply State.put_keeps | apply State.boostEnter_keeps
    | apply State.setBoost_keeps)

theorem State.boostRequest_keeps {σ : State} (s : State) (k : Nat) (h : Keeps σ s) :
    Keeps σ (State.boostRequest s k) := by
  unfold State.boostRequest
  with_reducible repeat' (first | assumption | apply State.request_keeps | apply State.boostEnter_keeps)

theorem State.boostEnable_keeps {σ : State} (s : State) (k : Nat) (en : Bool) (h : Keeps σ s) :
    Keeps σ (State.boostEnable s k en) := by
  unfold State.boostEnable
  with_reducible repeat' (first
    | assumption | apply State.putB_keeps | apply State.boostRequest_keeps | apply State.boostOff_keeps
    | fail_if_no_progress apply Keeps.upd | split | intro _ | dsimp only)

theorem execBoostEnable_keeps {σ : State} (k : Nat) (en : Bool) (s : State) {t : State} (h : Keeps σ s)
    (e : (execBoostEnable k en s) = .next t) : Keeps σ t := by
  unfold execBoostEnable at e
  try dsimp only at e
  repeat' (first | with_reducible refine Keeps.next ?_ e | split at e)
  all_goals
  with_reducible repeat' (first
    | assumption | apply State.ctrlWrite_keeps | apply State.boostEnable_keeps | apply State.putB_keeps
    | fail_if_no_progress apply Keeps.upd | split | intro _)

theorem execBoostRiseGranted_keeps {σ : State} (k : Nat) (s : State) {t : State} (h : Keeps σ s)
    (e : (execBoostRiseGranted k s) = .next t) : Keeps σ t := by
  unfold execBoostRiseGranted at e
  try dsimp only at e
  repeat' (first | with_reducible refine Keeps.next ?_ e | split at e)
  all_goals
  with_reducible repeat' (first
    | assumption | apply State.setBoost_keeps | apply State.setTarget_keeps | apply State.boostEnter_keeps)

theorem State.riseEnd_keeps {σ : State} (s : State) (k : Nat) (h : Keeps σ s) :
    Keeps σ (State.riseEnd s k) := by
  unfold State.riseEnd
  with_reducible repeat' (first
    | assumption | apply State.setBoost_keeps | apply State.release_keeps | apply State.setTarget_keeps
    | apply State.raise_keeps | apply State.boostSuspend_keeps | apply State.boostEnter_keeps)

theorem execRailReady_keeps {σ : State} (k : Nat) (s : State) {t : State} (h : Keeps σ s)
    (e : (execRailReady k s) = .next t) : Keeps σ t := by
  unfold execRailReady at e
  split at e
  · exact Keeps.next h e
  · exact Keeps.next (State.riseEnd_keeps _ _ h) e

theorem State.boostTimeout_keeps {σ : State} (s : State) (k : Nat) (h : Keeps σ s) :
    Keeps σ (State.boostTimeout s k) := by
  unfold State.boostTimeout
  with_reducible repeat' (first
    | assumption | apply State.raise_keeps | apply State.boostOff_keeps
    | fail_if_no_progress apply Keeps.upd | split)

theorem State.railCfg_keeps {σ : State} (s : State) (k : Nat) (v : Word) (h : Keeps σ s) :
    Keeps σ (State.railCfg s k v) := by
  unfold State.railCfg
  with_reducible repeat' (first
    | assumption | apply State.log_keeps | apply State.put_keeps | apply State.boostRequest_keeps
    | apply State.setBoost_keeps | apply State.release_keeps | fail_if_no_progress apply Keeps.upd | split
    | intro _ | dsimp only)

theorem execRailCfgWrite_keeps {σ : State} (k : Nat) (value : Word) (s : State) {t : State} (h : Keeps σ s)
    (e : (execRailCfgWrite k value s) = .next t) : Keeps σ t := by
  unfold execRailCfgWrite at e
  try dsimp only at e
  repeat' (first | with_reducible refine Keeps.next ?_ e | split at e)
  all_goals
  with_reducible repeat' (first
    | assumption | apply State.blockWrite_keeps | apply State.railCfg_keeps
    | fail_if_no_progress apply Keeps.upd | split | intro _)

theorem State.boostTick_keeps {σ : State} (s : State) (k : Nat) (h : Keeps σ s) :
    Keeps σ (State.boostTick s k) := by
  unfold State.boostTick
  with_reducible repeat' (first
    | assumption | apply State.setTarget_keeps | apply State.riseEnd_keeps
    | fail_if_no_progress apply Keeps.upd | split | intro _ | dsimp only)

theorem State.railOver_keeps {σ : State} (s : State) (k : Nat) (h : Keeps σ s) :
    Keeps σ (State.railOver s k) := by
  unfold State.railOver
  with_reducible repeat' (first
    | assumption | apply State.setBoost_keeps | apply State.raise_keeps | apply State.bump_keeps
    | fail_if_no_progress apply Keeps.upd | split)

theorem execBoostSwitchPeriod_keeps {σ : State} (k : Nat) (peak : Nat) (vsn : Nat) (s : State) {t : State} (h : Keeps σ s)
    (e : (execBoostSwitchPeriod k peak vsn s) = .next t) : Keeps σ t := by
  unfold execBoostSwitchPeriod at e
  try dsimp only at e
  repeat' (first | with_reducible refine Keeps.next ?_ e | split at e)
  all_goals
  with_reducible repeat' (first
    | assumption | apply State.put_keeps | apply State.railOver_keeps | apply State.setBoost_keeps
    | fail_if_no_progress apply Keeps.upd | split)

theorem execRailOv_keeps {σ : State} (k : Nat) (s : State) {t : State} (h : Keeps σ s)
    (e : (execRailOv k s) = .next t) : Keeps σ t := by
  unfold execRailOv at e
  try dsimp only at e
  repeat' (first | with_reducible refine Keeps.next ?_ e | split at e)
  all_goals
  with_reducible repeat' (first | assumption | apply State.railOver_keeps)

theorem execRailUv_keeps {σ : State} (k : Nat) (s : State) {t : State} (h : Keeps σ s)
    (e : (execRailUv k s) = .next t) : Keeps σ t := by
  unfold execRailUv at e
  try dsimp only at e
  repeat' (first | with_reducible refine Keeps.next ?_ e | split at e)
  all_goals
  with_reducible repeat' (first | assumption | apply State.raise_keeps | apply State.bump_keeps)

theorem State.drvEn_keeps {σ : State} (s : State) (h : Keeps σ s) :
    Keeps σ (State.drvEn s) := by
  unfold State.drvEn
  with_reducible repeat' (first | assumption | apply State.put_keeps)

theorem State.probeStart_keeps {σ : State} (s : State) (n : Nat) (h : Keeps σ s) :
    Keeps σ (State.probeStart s n) := by
  unfold State.probeStart
  with_reducible repeat' (first | assumption | apply State.draw_keeps | apply State.setAmp_keeps)

theorem State.ampEnter_keeps {σ : State} (s : State) (n : Nat) (st : Nat) (h : Keeps σ s) :
    Keeps σ (State.ampEnter s n st) := by
  unfold State.ampEnter
  with_reducible repeat' (first
    | assumption | apply State.put_keeps | apply State.setAmp_keeps | apply State.raise_keeps
    | apply State.probeStart_keeps | apply State.boostSuspend_keeps | apply State.drvEn_keeps
    | fail_if_no_progress apply Keeps.upd | split)

theorem State.ampOff_keeps {σ : State} (s : State) (n : Nat) (h : Keeps σ s) :
    Keeps σ (State.ampOff s n) := by
  unfold State.ampOff
  with_reducible repeat' (first
    | assumption | apply State.setAmp_keeps | apply State.ampEnter_keeps
    | fail_if_no_progress apply Keeps.upd | split | intro _ | dsimp only)

theorem State.ampStop_keeps {σ : State} (s : State) (n : Nat) (h : Keeps σ s) :
    Keeps σ (State.ampStop s n) := by
  unfold State.ampStop
  with_reducible repeat' (first
    | assumption | apply State.setAmp_keeps | fail_if_no_progress apply Keeps.upd | split)

theorem State.ampEnable_keeps {σ : State} (s : State) (n : Nat) (en : Bool) (h : Keeps σ s) :
    Keeps σ (State.ampEnable s n en) := by
  unfold State.ampEnable
  with_reducible repeat' (first
    | assumption | apply State.log_keeps | apply State.putB_keeps | apply State.ampEnter_keeps
    | apply State.setAmp_keeps | apply State.ampStop_keeps | fail_if_no_progress apply Keeps.upd | split
    | intro _ | dsimp only)

theorem execAmpEnable_keeps {σ : State} (chan : Nat) (en : Bool) (s : State) {t : State} (h : Keeps σ s)
    (e : (execAmpEnable chan en s) = .next t) : Keeps σ t := by
  unfold execAmpEnable at e
  try dsimp only at e
  repeat' (first | with_reducible refine Keeps.next ?_ e | split at e)
  all_goals
  with_reducible repeat' (first
    | assumption | apply State.ctrlWrite_keeps | apply State.ampEnable_keeps | apply State.putB_keeps
    | fail_if_no_progress apply Keeps.upd | split | intro _)

theorem execProbeStart_keeps {σ : State} (chan : Nat) (s : State) {t : State} (h : Keeps σ s)
    (e : (execProbeStart chan s) = .next t) : Keeps σ t := by
  unfold execProbeStart at e
  try dsimp only at e
  repeat' (first | with_reducible refine Keeps.next ?_ e | split at e)
  all_goals
  with_reducible repeat' (first | assumption | apply State.ampEnter_keeps)

theorem State.ampTick_keeps {σ : State} (s : State) (n : Nat) (x : Word) (h : Keeps σ s) :
    Keeps σ (State.ampTick s n x) := by
  unfold State.ampTick
  with_reducible repeat' (first
    | assumption | apply State.setAmp_keeps | apply State.putB_keeps | apply State.ampEnter_keeps
    | fail_if_no_progress apply Keeps.upd | split | intro _ | dsimp only)

theorem State.ampsTick_keeps {σ : State} (s : State) (read : Nat → Word) (h : Keeps σ s) :
    Keeps σ (State.ampsTick s read) := by
  unfold State.ampsTick
  with_reducible repeat' (first
    | assumption | apply State.ampTick_keeps | apply State.boostTick_keeps
    | (refine Keeps.foldl ?_ (fun _ _ _ => ?_)) | (refine Keeps.foldl_snd ?_ (fun _ _ _ => ?_))
    | (refine Keeps.foldl_fst ?_ (fun _ _ _ => ?_)) | fail_if_no_progress apply Keeps.upd | split)

theorem State.ampCommit_keeps {σ : State} (s : State) (n : Nat) (old : Int) (h : Keeps σ s) :
    Keeps σ (State.ampCommit s n old) := by
  unfold State.ampCommit
  with_reducible repeat' (first
    | assumption | apply State.setAmp_keeps | fail_if_no_progress apply Keeps.upd | split | intro _
    | dsimp only)

theorem State.muteSet_keeps {σ : State} (s : State) (n : Nat) (on : Bool) (h : Keeps σ s) :
    Keeps σ (State.muteSet s n on) := by
  unfold State.muteSet
  with_reducible repeat' (first
    | assumption | apply State.putB_keeps | apply State.setAmp_keeps | fail_if_no_progress apply Keeps.upd
    | split | intro _ | dsimp only)

theorem execMute_keeps {σ : State} (chan : Nat) (on : Bool) (s : State) {t : State} (h : Keeps σ s)
    (e : (execMute chan on s) = .next t) : Keeps σ t := by
  unfold execMute at e
  try dsimp only at e
  repeat' (first | with_reducible refine Keeps.next ?_ e | split at e)
  all_goals
  with_reducible repeat' (first
    | assumption | apply State.blockWrite_keeps | apply State.muteSet_keeps
    | fail_if_no_progress apply Keeps.upd | split | intro _)

theorem State.clipNote_keeps {σ : State} (s : State) (n : Nat) (h : Keeps σ s) :
    Keeps σ (State.clipNote s n) := by
  unfold State.clipNote
  with_reducible repeat' (first
    | assumption | apply State.bump_keeps | apply State.raise_keeps | apply State.setAmp_keeps
    | fail_if_no_progress apply Keeps.upd | split | intro _ | dsimp only)

theorem State.loopSample_keeps {σ : State} (s : State) (n : Nat) (v : Int) (i : Int) (h : Keeps σ s) :
    Keeps σ (State.loopSample s n v i) := by
  unfold State.loopSample
  with_reducible repeat' (first
    | assumption | apply State.setAmp_keeps | apply State.clipNote_keeps
    | fail_if_no_progress apply Keeps.upd | split | intro _ | dsimp only)

theorem State.probeSample_keeps {σ : State} (s : State) (n : Nat) (h : Keeps σ s) :
    Keeps σ (State.probeSample s n) := by
  unfold State.probeSample
  with_reducible repeat' (first | assumption | apply State.setAmp_keeps)

theorem State.senseNext_keeps {σ : State} (s : State) (n : Nat) (h : Keeps σ s) :
    Keeps σ (State.senseNext s n) := by
  unfold State.senseNext
  with_reducible repeat' (first | assumption | apply State.setAmp_keeps)

theorem State.senseJoin_keeps {σ : State} (s : State) (n : Nat) (h : Keeps σ s) :
    Keeps σ (State.senseJoin s n) := by
  unfold State.senseJoin
  with_reducible repeat' (first | assumption | apply State.setAmp_keeps)

theorem execSenseSample_keeps {σ : State} (chan : Nat) (v : Word) (i : Word) (s : State) {t : State} (h : Keeps σ s)
    (e : (execSenseSample chan v i s) = .next t) : Keeps σ t := by
  unfold execSenseSample at e
  try dsimp only at e
  repeat' (first | with_reducible refine Keeps.next ?_ e | split at e)
  all_goals
  with_reducible repeat' (first
    | assumption | apply State.senseNext_keeps | apply State.loopSample_keeps
    | apply State.probeSample_keeps | fail_if_no_progress apply Keeps.upd | split)

theorem State.gatePeriod_keeps {σ : State} (s : State) (n : Nat) (h : Keeps σ s) :
    Keeps σ (State.gatePeriod s n) := by
  unfold State.gatePeriod
  with_reducible repeat' (first
    | assumption | apply State.setAmp_keeps | fail_if_no_progress apply Keeps.upd | split)

theorem State.calAbort_keeps {σ : State} (s : State) (n : Nat) (h : Keeps σ s) :
    Keeps σ (State.calAbort s n) := by
  unfold State.calAbort
  with_reducible repeat' (first
    | assumption | apply State.setAmp_keeps | apply State.put_keeps | apply State.raise_keeps
    | apply State.putB_keeps | fail_if_no_progress apply Keeps.upd | split | intro _ | dsimp only)

theorem State.trip_keeps {σ : State} (s : State) (n : Nat) (h : Keeps σ s) :
    Keeps σ (State.trip s n) := by
  unfold State.trip
  with_reducible repeat' (first
    | assumption | apply State.bump_keeps | apply State.raise_keeps | apply State.ampEnter_keeps
    | apply State.calAbort_keeps | fail_if_no_progress apply Keeps.upd | split)

theorem State.limitPeriod_keeps {σ : State} (s : State) (n : Nat) (h : Keeps σ s) :
    Keeps σ (State.limitPeriod s n) := by
  unfold State.limitPeriod
  with_reducible repeat' (first
    | assumption | apply State.setAmp_keeps | apply State.putB_keeps | apply State.bump_keeps
    | apply State.raise_keeps | fail_if_no_progress apply Keeps.upd | split | intro _ | dsimp only)

theorem execCarrierPeriod_keeps {σ : State} (chan : Nat) (s : State) {t : State} (h : Keeps σ s)
    (e : (execCarrierPeriod chan s) = .next t) : Keeps σ t := by
  unfold execCarrierPeriod at e
  have g := State.gatePeriod_keeps _ chan (State.limitPeriod_keeps _ chan h)
  split at e
  · exact Keeps.next h e
  · dsimp only at e
    split at e
    · exact Keeps.next (State.ampOff_keeps _ _ g) e
    · split at e
      · exact Keeps.next (State.trip_keeps _ _ g) e
      · exact Keeps.next g e

theorem State.probeEnd_keeps {σ : State} (s : State) (n : Nat) (mohm : Nat) (short : Bool) (healthy : Bool) (h : Keeps σ s) :
    Keeps σ (State.probeEnd s n mohm short healthy) := by
  unfold State.probeEnd
  with_reducible repeat' (first
    | assumption | apply State.raise_keeps | apply State.putB_keeps | apply State.put_keeps
    | apply State.setAmp_keeps | apply State.ampOff_keeps | apply State.ampEnter_keeps
    | apply State.bump_keeps | fail_if_no_progress apply Keeps.upd | split | intro _ | dsimp only)

theorem execProbeDone_keeps {σ : State} (chan : Nat) (meanV : Word) (meanI : Word) (s : State) {t : State} (h : Keeps σ s)
    (e : (execProbeDone chan meanV meanI s) = .next t) : Keeps σ t := by
  unfold execProbeDone at e
  try dsimp only at e
  repeat' (first | with_reducible refine Keeps.next ?_ e | split at e)
  all_goals
  with_reducible repeat' (first | assumption | apply State.draw_keeps | apply State.probeEnd_keeps)

theorem State.ocpFirst_keeps {σ : State} (s : State) (n : Nat) (h : Keeps σ s) :
    Keeps σ (State.ocpFirst s n).2 := by
  unfold State.ocpFirst
  with_reducible repeat' (first
    | assumption | apply State.draw_keeps | fail_if_no_progress apply Keeps.upd | split | intro _
    | dsimp only)

theorem execOcpComparator_keeps {σ : State} (chan : Nat) (s : State) {t : State} (h : Keeps σ s)
    (e : (execOcpComparator chan s) = .next t) : Keeps σ t := by
  unfold execOcpComparator at e
  try dsimp only at e
  repeat' (first | with_reducible refine Keeps.next ?_ e | split at e)
  all_goals
  with_reducible repeat' (first
    | assumption | apply State.ocpFirst_keeps | apply State.setAmp_keeps | apply State.probeEnd_keeps
    | fail_if_no_progress apply Keeps.upd | split)

theorem execHoldExpiry_keeps {σ : State} (chan : Nat) (s : State) {t : State} (h : Keeps σ s)
    (e : (execHoldExpiry chan s) = .next t) : Keeps σ t := by
  unfold execHoldExpiry at e
  try dsimp only at e
  repeat' (first | with_reducible refine Keeps.next ?_ e | split at e)
  all_goals
  with_reducible repeat' (first | assumption | apply State.ampEnter_keeps)

theorem execAttemptsClear_keeps {σ : State} (chan : Nat) (s : State) {t : State} (h : Keeps σ s)
    (e : (execAttemptsClear chan s) = .next t) : Keeps σ t := by
  unfold execAttemptsClear at e
  try dsimp only at e
  repeat' (first | with_reducible refine Keeps.next ?_ e | split at e)
  all_goals
  with_reducible repeat' (first | assumption | apply State.put_keeps)

theorem State.latchClr_keeps {σ : State} (s : State) (n : Nat) (h : Keeps σ s) :
    Keeps σ (State.latchClr s n) := by
  unfold State.latchClr
  with_reducible repeat' (first
    | assumption | apply State.ampEnter_keeps | apply State.put_keeps | fail_if_no_progress apply Keeps.upd
    | split)

theorem execLatchClr_keeps {σ : State} (chan : Nat) (s : State) {t : State} (h : Keeps σ s)
    (e : (execLatchClr chan s) = .next t) : Keeps σ t := by
  unfold execLatchClr at e
  try dsimp only at e
  repeat' (first | with_reducible refine Keeps.next ?_ e | split at e)
  all_goals
  with_reducible repeat' (first
    | assumption | apply State.blockWrite_keeps | apply State.latchClr_keeps
    | fail_if_no_progress apply Keeps.upd | split | intro _)

theorem State.probeReq_keeps {σ : State} (s : State) (n : Nat) (h : Keeps σ s) :
    Keeps σ (State.probeReq s n) := by
  unfold State.probeReq
  with_reducible repeat' (first
    | assumption | apply State.ampEnter_keeps | apply State.setAmp_keeps | apply State.log_keeps
    | fail_if_no_progress apply Keeps.upd | split)

theorem execProbeReq_keeps {σ : State} (chan : Nat) (s : State) {t : State} (h : Keeps σ s)
    (e : (execProbeReq chan s) = .next t) : Keeps σ t := by
  unfold execProbeReq at e
  try dsimp only at e
  repeat' (first | with_reducible refine Keeps.next ?_ e | split at e)
  all_goals
  with_reducible repeat' (first
    | assumption | apply State.blockWrite_keeps | apply State.probeReq_keeps
    | fail_if_no_progress apply Keeps.upd | split | intro _)

theorem State.zAlarm_keeps {σ : State} (s : State) (n : Nat) (outside : Bool) (h : Keeps σ s) :
    Keeps σ (State.zAlarm s n outside) := by
  unfold State.zAlarm
  with_reducible repeat' (first
    | assumption | apply State.setAmp_keeps | apply State.raise_keeps | apply State.putB_keeps
    | fail_if_no_progress apply Keeps.upd | split | intro _ | dsimp only)

theorem State.zReport_keeps {σ : State} (s : State) (n : Nat) (h : Keeps σ s) :
    Keeps σ (State.zReport s n) := by
  unfold State.zReport
  with_reducible repeat' (first
    | assumption | apply State.putI_keeps | apply State.put_keeps | apply State.raise_keeps
    | apply State.putB_keeps | apply State.zAlarm_keeps)

theorem State.windowStart_keeps {σ : State} (s : State) (n : Nat) (h : Keeps σ s) :
    Keeps σ (State.windowStart s n) := by
  unfold State.windowStart
  with_reducible repeat' (first | assumption | apply State.setAmp_keeps)

theorem execPilotWindowEnd_keeps {σ : State} (chan : Nat) (s : State) {t : State} (h : Keeps σ s)
    (e : (execPilotWindowEnd chan s) = .next t) : Keeps σ t := by
  unfold execPilotWindowEnd at e
  try dsimp only at e
  repeat' (first | with_reducible refine Keeps.next ?_ e | split at e)
  all_goals
  with_reducible repeat' (first
    | assumption | apply State.zReport_keeps | apply State.putB_keeps | apply State.windowStart_keeps
    | fail_if_no_progress apply Keeps.upd | split)

theorem State.windowSpoil_keeps {σ : State} (s : State) (n : Nat) (h : Keeps σ s) :
    Keeps σ (State.windowSpoil s n) := by
  unfold State.windowSpoil
  with_reducible repeat' (first | assumption | apply State.setAmp_keeps)

theorem State.pilotEn_keeps {σ : State} (s : State) (n : Nat) (on : Bool) (h : Keeps σ s) :
    Keeps σ (State.pilotEn s n on) := by
  unfold State.pilotEn
  with_reducible repeat' (first
    | assumption | apply State.putB_keeps | apply State.windowSpoil_keeps
    | fail_if_no_progress apply Keeps.upd | split)

theorem State.calStart_keeps {σ : State} (s : State) (c : Nat) (h : Keeps σ s) :
    Keeps σ (State.calStart s c) := by
  unfold State.calStart
  with_reducible repeat' (first
    | assumption | apply State.log_keeps | apply State.put_keeps | apply State.putB_keeps
    | fail_if_no_progress apply Keeps.upd | split | intro _ | dsimp only)

theorem State.calCtrl_keeps {σ : State} (s : State) (v : Word) (h : Keeps σ s) :
    Keeps σ (State.calCtrl s v) := by
  unfold State.calCtrl
  with_reducible repeat' (first
    | assumption | apply State.put_keeps | apply State.calStart_keeps | fail_if_no_progress apply Keeps.upd
    | split)

theorem execCalGo_keeps {σ : State} (ctrl : Word) (s : State) {t : State} (h : Keeps σ s)
    (e : (execCalGo ctrl s) = .next t) : Keeps σ t := by
  unfold execCalGo at e
  refine Keeps.next ?_ e
  with_reducible repeat' (first
    | assumption | apply State.blockWrite_keeps | apply State.calCtrl_keeps
    | fail_if_no_progress apply Keeps.upd | split | intro _)

theorem State.newTrims_keeps {σ : State} (s : State) (c : Nat) (h : Keeps σ s) :
    Keeps σ (State.newTrims s c) := by
  unfold State.newTrims
  with_reducible repeat' (first | assumption | apply State.draw_keeps | apply State.put_keeps)

theorem execCalStepEnd_keeps {σ : State} (s : State) {t : State} (h : Keeps σ s)
    (e : (execCalStepEnd s) = .next t) : Keeps σ t := by
  unfold execCalStepEnd at e
  try dsimp only at e
  repeat' (first | with_reducible refine Keeps.next ?_ e | split at e)
  all_goals
  with_reducible repeat' (first
    | assumption | apply State.newTrims_keeps | apply State.windowSpoil_keeps | apply State.raise_keeps
    | apply State.put_keeps | apply State.putB_keeps | fail_if_no_progress apply Keeps.upd | split)

end Sys2Proof.Machine
end

