-- ==== Sys2Proof/Laws/KeepsFrame.lean ====
section
/-! SUPPORT. What no command undoes (`Keeps`), for commits, frames and the Store: one lemma per function
that gives a state. -/

namespace Sys2Proof.Machine

theorem State.applyPage_keeps {σ : State} (s : State) (p : Nat) (h : Keeps σ s) :
    Keeps σ (State.applyPage s p) := by
  unfold State.applyPage
  with_reducible repeat' (first
    | assumption | apply State.setCore1_keeps | apply State.put_keeps
    | (refine Keeps.foldl ?_ (fun _ _ _ => ?_)) | (refine Keeps.foldl_snd ?_ (fun _ _ _ => ?_))
    | (refine Keeps.foldl_fst ?_ (fun _ _ _ => ?_)) | fail_if_no_progress apply Keeps.upd | split)

theorem State.fastReport_keeps {σ : State} (s : State) (h : Keeps σ s) :
    Keeps σ (State.fastReport s) := by
  unfold State.fastReport
  with_reducible repeat' (first | assumption | apply State.put_keeps)

theorem State.commitCompared_keeps {σ : State} (s : State) (h : Keeps σ s) :
    Keeps σ (State.commitCompared s) := by
  unfold State.commitCompared
  with_reducible repeat' (first
    | assumption | apply State.applyPage_keeps | apply State.oryxCompare_keeps
    | (refine Keeps.foldl ?_ (fun _ _ _ => ?_)) | (refine Keeps.foldl_snd ?_ (fun _ _ _ => ?_))
    | (refine Keeps.foldl_fst ?_ (fun _ _ _ => ?_)) | fail_if_no_progress apply Keeps.upd | split | intro _
    | dsimp only)

theorem State.commitConfig_keeps {σ : State} (s : State) (h : Keeps σ s) :
    Keeps σ (State.commitConfig s) := by
  unfold State.commitConfig
  with_reducible repeat' (first
    | assumption | apply State.commitCompared_keeps | apply State.oryxStart_keeps
    | apply State.fadeDiscard_keeps | apply State.fadeNote_keeps | apply State.fastReport_keeps
    | fail_if_no_progress apply Keeps.upd | split)

theorem State.commitTake_keeps {σ : State} (s : State) (h : Keeps σ s) :
    Keeps σ (State.commitTake s) := by
  unfold State.commitTake
  with_reducible repeat' (first
    | assumption | apply State.applyPage_keeps | apply State.commitConfig_keeps | apply State.fadeNote_keeps
    | apply State.fastReport_keeps | apply State.oryxCompare_keeps
    | (refine Keeps.foldl ?_ (fun _ _ _ => ?_)) | (refine Keeps.foldl_snd ?_ (fun _ _ _ => ?_))
    | (refine Keeps.foldl_fst ?_ (fun _ _ _ => ?_)) | fail_if_no_progress apply Keeps.upd | split | intro _
    | dsimp only)

theorem State.commitStat_keeps {σ : State} (s : State) (f : Fld) (b : Bool) (h : Keeps σ s) :
    Keeps σ (State.commitStat s f b) := by
  unfold State.commitStat
  with_reducible repeat' (first | assumption | apply State.putB_keeps)

theorem State.commitEnd_keeps {σ : State} (s : State) (h : Keeps σ s) :
    Keeps σ (State.commitEnd s) := by
  unfold State.commitEnd
  with_reducible repeat' (first
    | assumption | apply State.commitStat_keeps | fail_if_no_progress apply Keeps.upd)

theorem State.commitRefuse_keeps {σ : State} (s : State) (code : Nat) (h : Keeps σ s) :
    Keeps σ (State.commitRefuse s code) := by
  unfold State.commitRefuse
  with_reducible repeat' (first
    | assumption | apply State.put_keeps | apply State.commitStat_keeps | apply State.commitEnd_keeps
    | apply State.raise_keeps | apply State.log_keeps)

theorem State.commitDetail_keeps {σ : State} (s : State) (f : Fail) (h : Keeps σ s) :
    Keeps σ (State.commitDetail s f) := by
  unfold State.commitDetail
  with_reducible repeat' (first | assumption | apply State.put_keeps)

theorem State.commitLate_keeps {σ : State} (s : State) (h : Keeps σ s) :
    Keeps σ (State.commitLate s) := by
  unfold State.commitLate
  with_reducible repeat' (first
    | assumption | apply State.raise_keeps | apply State.commitStat_keeps | apply State.commitRefuse_keeps
    | apply State.log_keeps | fail_if_no_progress apply Keeps.upd | split | intro _ | dsimp only)

theorem State.commitDefer_keeps {σ : State} (s : State) (f : Fail) (h : Keeps σ s) :
    Keeps σ (State.commitDefer s f) := by
  unfold State.commitDefer
  with_reducible repeat' (first
    | assumption | apply State.commitDetail_keeps | apply State.commitRefuse_keeps
    | apply State.commitStat_keeps | apply State.put_keeps | apply State.bump_keeps
    | apply State.raise_keeps | apply State.log_keeps | fail_if_no_progress apply Keeps.upd | split
    | intro _ | dsimp only)

theorem State.commitStart_keeps {σ : State} (s : State) (mask : Nat) (timing : Nat) (strict : Bool) (target : Nat) (h : Keeps σ s) :
    Keeps σ (State.commitStart s mask timing strict target) := by
  unfold State.commitStart
  with_reducible repeat' (first
    | assumption | apply State.commitStat_keeps | apply State.put_keeps | apply State.commitLate_keeps
    | (refine Keeps.foldl ?_ (fun _ _ _ => ?_)) | (refine Keeps.foldl_snd ?_ (fun _ _ _ => ?_))
    | (refine Keeps.foldl_fst ?_ (fun _ _ _ => ?_)) | fail_if_no_progress apply Keeps.upd | split | intro _
    | dsimp only)

theorem State.commitAbort_keeps {σ : State} (s : State) (h : Keeps σ s) :
    Keeps σ (State.commitAbort s) := by
  unfold State.commitAbort
  with_reducible repeat' (first
    | assumption | apply State.commitStat_keeps | apply State.commitEnd_keeps
    | fail_if_no_progress apply Keeps.upd | split)

theorem State.commitGo_keeps {σ : State} (s : State) (h : Keeps σ s) :
    Keeps σ (State.commitGo s) := by
  unfold State.commitGo
  with_reducible repeat' (first
    | assumption | apply State.log_keeps | apply State.commitStart_keeps
    | fail_if_no_progress apply Keeps.upd | split | intro _ | dsimp only)

theorem State.commitCtrl_keeps {σ : State} (s : State) (v : Nat) (h : Keeps σ s) :
    Keeps σ (State.commitCtrl s v) := by
  unfold State.commitCtrl
  with_reducible repeat' (first
    | assumption | apply State.put_keeps | apply State.putB_keeps | apply State.commitAbort_keeps
    | apply State.commitGo_keeps | fail_if_no_progress apply Keeps.upd | split)

theorem execCommitGo_keeps {σ : State} (ctrl : Word) (s : State) {t : State} (h : Keeps σ s)
    (e : (execCommitGo ctrl s) = .next t) : Keeps σ t := by
  unfold execCommitGo at e
  refine Keeps.next ?_ e
  with_reducible repeat' (first
    | assumption | apply State.blockWrite_keeps | apply State.commitCtrl_keeps
    | fail_if_no_progress apply Keeps.upd | split | intro _)

theorem execCommitAbort_keeps {σ : State} (ctrl : Word) (s : State) {t : State} (h : Keeps σ s)
    (e : (execCommitAbort ctrl s) = .next t) : Keeps σ t := by
  unfold execCommitAbort at e
  refine Keeps.next ?_ e
  with_reducible repeat' (first
    | assumption | apply State.blockWrite_keeps | apply State.commitCtrl_keeps
    | fail_if_no_progress apply Keeps.upd | split | intro _)

theorem State.validated_keeps {σ : State} (s : State) (h : Keeps σ s) :
    Keeps σ (State.validated s) := by
  unfold State.validated
  with_reducible repeat' (first
    | assumption | apply State.commitLate_keeps | apply State.commitConfig_keeps
    | apply State.commitRefuse_keeps | apply State.commitDetail_keeps | fail_if_no_progress apply Keeps.upd
    | split | intro _ | dsimp only)

theorem execCommitValidationDone_keeps {σ : State} (s : State) {t : State} (h : Keeps σ s)
    (e : (execCommitValidationDone s) = .next t) : Keeps σ t := by
  unfold execCommitValidationDone at e
  refine Keeps.next ?_ e
  with_reducible repeat' (first
    | assumption | apply State.validated_keeps | fail_if_no_progress apply Keeps.upd | split)

theorem State.ringCommit_keeps {σ : State} (s : State) (old : State) (h : Keeps σ s) :
    Keeps σ (State.ringCommit s old) := by
  unfold State.ringCommit
  with_reducible repeat' (first
    | assumption | apply State.streamRestart_keeps | apply State.ringLoads_keeps
    | (refine Keeps.foldl ?_ (fun _ _ _ => ?_)) | (refine Keeps.foldl_snd ?_ (fun _ _ _ => ?_))
    | (refine Keeps.foldl_fst ?_ (fun _ _ _ => ?_)) | fail_if_no_progress apply Keeps.upd | split)

theorem State.migCommit_keeps {σ : State} (s : State) (pages : List Nat) (c : Nat) (h : Keeps σ s) :
    Keeps σ (State.migCommit s pages c) := by
  unfold State.migCommit
  with_reducible repeat' (first
    | assumption | apply State.put_keeps | apply State.putB_keeps | apply State.setCl_keeps
    | apply State.raise_keeps | apply State.release_keeps | apply State.migCancel_keeps
    | fail_if_no_progress apply Keeps.upd | split | intro _ | dsimp only)

theorem State.ringMute_keeps {σ : State} (s : State) (old : State) (fast : List Nat) (b : BitVec 32) (h : Keeps σ s) :
    Keeps σ (State.ringMute s old fast b) := by
  unfold State.ringMute
  with_reducible repeat' (first
    | assumption | apply State.setPort_keeps | (refine Keeps.foldl ?_ (fun _ _ _ => ?_))
    | (refine Keeps.foldl_snd ?_ (fun _ _ _ => ?_)) | (refine Keeps.foldl_fst ?_ (fun _ _ _ => ?_))
    | fail_if_no_progress apply Keeps.upd)

theorem State.ampsMute_keeps {σ : State} (s : State) (old : State) (fast : List Nat) (h : Keeps σ s) :
    Keeps σ (State.ampsMute s old fast) := by
  unfold State.ampsMute
  with_reducible repeat' (first
    | assumption | apply State.setAmp_keeps | (refine Keeps.foldl ?_ (fun _ _ _ => ?_))
    | (refine Keeps.foldl_snd ?_ (fun _ _ _ => ?_)) | (refine Keeps.foldl_fst ?_ (fun _ _ _ => ?_))
    | fail_if_no_progress apply Keeps.upd | split | intro _ | dsimp only)

theorem State.runStart_keeps {σ : State} (s : State) (b : BitVec 32) (h : Keeps σ s) :
    Keeps σ (State.runStart s b) := by
  unfold State.runStart
  with_reducible repeat' (first
    | assumption | apply State.delayStart_keeps | apply State.raise_keeps
    | fail_if_no_progress apply Keeps.upd)

theorem State.runStop_keeps {σ : State} (s : State) (old : State) (b : BitVec 32) (h : Keeps σ s) :
    Keeps σ (State.runStop s old b) := by
  unfold State.runStop
  with_reducible repeat' (first
    | assumption | apply State.raise_keeps | apply State.ampsMute_keeps | apply State.ringMute_keeps
    | apply State.portsMute_keeps | fail_if_no_progress apply Keeps.upd)

theorem State.keepOld_keeps {σ : State} (s : State) (old : State) (pages : List Nat) (h : Keeps σ s) :
    Keeps σ (State.keepOld s old pages) := by
  unfold State.keepOld
  with_reducible repeat' (first | assumption | fail_if_no_progress apply Keeps.upd)

theorem State.engineHooks_keeps {σ : State} (s : State) (old : State) (pages : List Nat) (b : BitVec 32) (h : Keeps σ s) :
    Keeps σ (State.engineHooks s old pages b) := by
  unfold State.engineHooks
  with_reducible repeat' (first
    | assumption | apply State.delayCounts_keeps | apply State.commitFetch_keeps | apply State.keepOld_keeps
    | apply State.eqCompare_keeps | apply State.delayCompare_keeps | apply State.meterRestart_keeps
    | apply State.ringCommit_keeps | fail_if_no_progress apply Keeps.upd | split | intro _ | dsimp only)

theorem State.audioHooks_keeps {σ : State} (s : State) (old : State) (pages : List Nat) (b : BitVec 32) (h : Keeps σ s) :
    Keeps σ (State.audioHooks s old pages b) := by
  unfold State.audioHooks
  with_reducible repeat' (first
    | assumption | apply State.ampCommit_keeps | apply State.portCommit_keeps
    | (refine Keeps.foldl ?_ (fun _ _ _ => ?_)) | (refine Keeps.foldl_snd ?_ (fun _ _ _ => ?_))
    | (refine Keeps.foldl_fst ?_ (fun _ _ _ => ?_)) | fail_if_no_progress apply Keeps.upd | split | intro _
    | dsimp only)

theorem State.hooks_keeps {σ : State} (s : State) (old : State) (pages : List Nat) (b : BitVec 32) (h : Keeps σ s) :
    Keeps σ (State.hooks s old pages b) := by
  unfold State.hooks
  with_reducible repeat' (first
    | assumption | apply State.audioHooks_keeps | apply State.engineHooks_keeps | apply State.runStart_keeps
    | apply State.runStop_keeps | apply State.migCommit_keeps | apply State.noteRetire_keeps
    | (refine Keeps.foldl ?_ (fun _ _ _ => ?_)) | (refine Keeps.foldl_snd ?_ (fun _ _ _ => ?_))
    | (refine Keeps.foldl_fst ?_ (fun _ _ _ => ?_)) | fail_if_no_progress apply Keeps.upd | split)

theorem State.freezeIngress_keeps {σ : State} (s : State) (h : Keeps σ s) :
    Keeps σ (State.freezeIngress s) := by
  unfold State.freezeIngress
  with_reducible repeat' (first
    | assumption | apply State.setAud_keeps | (refine Keeps.foldl ?_ (fun _ _ _ => ?_))
    | (refine Keeps.foldl_snd ?_ (fun _ _ _ => ?_)) | (refine Keeps.foldl_fst ?_ (fun _ _ _ => ?_))
    | fail_if_no_progress apply Keeps.upd | split)

theorem State.reportCommit_keeps {σ : State} (s : State) (full : State) (h : Keeps σ s) :
    Keeps σ (State.reportCommit s full) := by
  unfold State.reportCommit
  with_reducible repeat' (first
    | assumption | apply State.put_keeps | (refine Keeps.foldl ?_ (fun _ _ _ => ?_))
    | (refine Keeps.foldl_snd ?_ (fun _ _ _ => ?_)) | (refine Keeps.foldl_fst ?_ (fun _ _ _ => ?_))
    | fail_if_no_progress apply Keeps.upd | split)

theorem State.commitDropNote_keeps {σ : State} (s : State) (past : State) (h : Keeps σ s) :
    Keeps σ (State.commitDropNote s past) := by
  unfold State.commitDropNote
  with_reducible repeat' (first
    | assumption | apply State.fadeDropNote_keeps | apply State.commitCompared_keeps
    | fail_if_no_progress apply Keeps.upd | split)

theorem State.commitApplied_keeps {σ : State} (s : State) (b : BitVec 32) (h : Keeps σ s) :
    Keeps σ (State.commitApplied s b) := by
  unfold State.commitApplied
  with_reducible repeat' (first
    | assumption | apply State.throughG2_keeps | apply State.freezeIngress_keeps | apply State.takeUp_keeps
    | apply State.commitDropNote_keeps | apply State.reportCommit_keeps | apply State.hooks_keeps
    | apply State.commitTake_keeps | apply State.reportSchedule_keeps | apply State.commitConfig_keeps
    | apply State.put_keeps | apply State.presentHeld_keeps | apply State.commitEnd_keeps
    | apply State.raise_keeps | apply State.commitStat_keeps | fail_if_no_progress apply Keeps.upd)

theorem State.commitBoundary_keeps {σ : State} (s : State) (b : BitVec 32) (h : Keeps σ s) :
    Keeps σ (State.commitBoundary s b) := by
  unfold State.commitBoundary
  with_reducible repeat' (first
    | assumption | apply State.throughG2_keeps | apply State.commitConfig_keeps
    | apply State.commitRefuse_keeps | apply State.commitDetail_keeps | apply State.presentHeld_keeps
    | apply State.commitDefer_keeps | apply State.commitApplied_keeps | fail_if_no_progress apply Keeps.upd
    | split | intro _ | dsimp only)

theorem execCommitApply_keeps {σ : State} (s : State) {t : State} (h : Keeps σ s)
    (e : (execCommitApply s) = .next t) : Keeps σ t := by
  unfold execCommitApply at e
  refine Keeps.next ?_ e
  with_reducible repeat' (first
    | assumption | apply State.commitLate_keeps | apply State.presentHeld_keeps
    | apply State.commitBoundary_keeps | fail_if_no_progress apply Keeps.upd | split)

theorem State.clearIngress_keeps {σ : State} (s : State) (b : Nat) (k : Nat) (h : Keeps σ s) :
    Keeps σ (State.clearIngress s b k) := by
  unfold State.clearIngress
  with_reducible repeat' (first
    | assumption | (refine Keeps.foldl ?_ (fun _ _ _ => ?_)) | (refine Keeps.foldl_snd ?_ (fun _ _ _ => ?_))
    | (refine Keeps.foldl_fst ?_ (fun _ _ _ => ?_)) | fail_if_no_progress apply Keeps.upd)

theorem State.land_keeps {σ : State} (s : State) (b : Nat) (k : Nat) (h : Keeps σ s) :
    Keeps σ (State.land s b k) := by
  unfold State.land
  with_reducible repeat' (first
    | assumption | apply State.planeWrite_keeps | (refine Keeps.foldl ?_ (fun _ _ _ => ?_)))

theorem State.enter_keeps {σ : State} (s : State) (t : BitVec 32) (sense : List SensePair) (h : Keeps σ s) :
    Keeps σ (State.enter s t sense) := by
  unfold State.enter
  with_reducible repeat' (first | assumption | fail_if_no_progress apply Keeps.upd)

theorem State.fastTick_keeps {σ : State} (s : State) (t : BitVec 32) (h : Keeps σ s) :
    Keeps σ (State.fastTick s t).2 := by
  unfold State.fastTick
  with_reducible repeat' (first
    | assumption | apply State.fastEval_keeps | apply State.planeWrite_keeps
    | (refine Keeps.foldl ?_ (fun _ _ _ => ?_)))

theorem State.mixTick_keeps {σ : State} (s : State) (t : BitVec 32) (h : Keeps σ s) :
    Keeps σ (State.mixTick s t).2 := by
  unfold State.mixTick
  with_reducible repeat' (first
    | assumption | apply State.meterTick_keeps | apply State.land_keeps | apply State.clearIngress_keeps
    | apply State.fastTick_keeps | apply State.inWindow_keeps | apply State.fastFrameEnd_keeps
    | apply State.restartRefilled_keeps | apply State.notelinesLost_keeps | apply State.noteRetire_keeps
    | apply State.dropEnded_keeps | apply State.windowStart__keeps | fail_if_no_progress apply Keeps.upd
    | split | intro _ | dsimp only)

theorem State.planeAbsent_keeps {σ : State} (s : State) (sense : List SensePair) (h : Keeps σ s) :
    Keeps σ (State.planeAbsent s sense) := by
  unfold State.planeAbsent
  with_reducible repeat' (first
    | assumption | apply State.log_keeps | (refine Keeps.foldl ?_ (fun _ _ _ => ?_)))

theorem State.fsTick_keeps {σ : State} (s : State) (t : BitVec 32) (sense : List SensePair) (h : Keeps σ s) :
    Keeps σ (State.fsTick s t sense) := by
  unfold State.fsTick
  with_reducible repeat' (first
    | assumption | apply State.presentHeld_keeps | apply State.atPhase_keeps | apply State.presentAll_keeps
    | apply State.mixTick_keeps | apply State.planeAbsent_keeps | apply State.enter_keeps
    | apply State.injectFormed_keeps | apply State.formCells_keeps | apply State.ampsTick_keeps
    | apply State.portsTick_keeps | (refine Keeps.foldl ?_ (fun _ _ _ => ?_))
    | (refine Keeps.foldl_snd ?_ (fun _ _ _ => ?_)) | (refine Keeps.foldl_fst ?_ (fun _ _ _ => ?_))
    | fail_if_no_progress apply Keeps.upd | split | intro _ | dsimp only)

theorem execFsTick_keeps {σ : State} (sense : List SensePair) (s : State) {t : State} (h : Keeps σ s)
    (e : (execFsTick sense s) = .next t) : Keeps σ t := by
  unfold execFsTick at e
  refine Keeps.next ?_ e
  with_reducible repeat' (first
    | assumption | apply State.fsTick_keeps | fail_if_no_progress apply Keeps.upd | split)

theorem State.noteFinish_keeps {σ : State} (s : State) (i : Nat) (overrun : Nat) (h : Keeps σ s) :
    Keeps σ (State.noteFinish s i overrun) := by
  unfold State.noteFinish
  with_reducible repeat' (first | assumption | fail_if_no_progress apply Keeps.upd)

theorem State.waitAll_keeps {σ : State} (s : State) (c : Nat) (t : Nat) (h : Keeps σ s) :
    Keeps σ (State.waitAll s c t) := by
  unfold State.waitAll
  with_reducible repeat' (first
    | assumption | apply State.setCore_keeps | (refine Keeps.foldl ?_ (fun _ _ _ => ?_)))

theorem State.clusterPass_keeps {σ : State} (s : State) (i : Nat) (h : Keeps σ s) :
    Keeps σ (State.clusterPass s i) := by
  unfold State.clusterPass
  with_reducible repeat' (first
    | assumption | apply State.setCore_keeps | apply State.setCl_keeps
    | (refine Keeps.foldl ?_ (fun _ _ _ => ?_)) | (refine Keeps.foldl_snd ?_ (fun _ _ _ => ?_))
    | (refine Keeps.foldl_fst ?_ (fun _ _ _ => ?_)) | fail_if_no_progress apply Keeps.upd | split)

theorem State.passStart_keeps {σ : State} (s : State) (pass : Nat) (h : Keeps σ s) :
    Keeps σ (State.passStart s pass) := by
  unfold State.passStart
  with_reducible repeat' (first
    | assumption | apply State.clusterPass_keeps | apply State.enginePass_keeps
    | apply State.noteFinish_keeps | fail_if_no_progress apply Keeps.upd | split | intro _ | dsimp only)

theorem execPassStart_keeps {σ : State} (pass : Nat) (s : State) {t : State} (h : Keeps σ s)
    (e : (execPassStart pass s) = .next t) : Keeps σ t := by
  unfold execPassStart at e
  refine Keeps.next ?_ e
  with_reducible repeat' (first
    | assumption | apply State.inWindow_keeps | apply State.passStart_keeps
    | fail_if_no_progress apply Keeps.upd | split | intro _)

theorem State.clearOutputs_keeps {σ : State} (s : State) (c : Nat) (h : Keeps σ s) :
    Keeps σ (State.clearOutputs s c) := by
  unfold State.clearOutputs
  with_reducible repeat' (first | assumption | fail_if_no_progress apply Keeps.upd)

theorem State.setFadePos_keeps {σ : State} (s : State) (c : Nat) (m : Nat) (h : Keeps σ s) :
    Keeps σ (State.setFadePos s c m) := by
  unfold State.setFadePos
  with_reducible repeat' (first
    | assumption | apply State.put_keeps | fail_if_no_progress apply Keeps.upd | split)

theorem State.passOverrun_keeps {σ : State} (s : State) (pass : Nat) (h : Keeps σ s) :
    Keeps σ (State.passOverrun s pass) := by
  unfold State.passOverrun
  with_reducible repeat' (first
    | assumption | apply State.bump_keeps | apply State.noteFinish_keeps | apply State.raise_keeps
    | apply State.clearOutputs_keeps | apply State.setFadePos_keeps | apply State.waitAll_keeps
    | apply State.setCl_keeps | fail_if_no_progress apply Keeps.upd | split | intro _ | dsimp only)

theorem execClusterPassOverrun_keeps {σ : State} (pass : Nat) (s : State) {t : State} (h : Keeps σ s)
    (e : (execClusterPassOverrun pass s) = .next t) : Keeps σ t := by
  unfold execClusterPassOverrun at e
  refine Keeps.next ?_ e
  with_reducible repeat' (first
    | assumption | apply State.inWindow_keeps | apply State.passOverrun_keeps
    | fail_if_no_progress apply Keeps.upd | split | intro _)

theorem State.dropMarks_keeps {σ : State} (s : State) (n : Nat) (h : Keeps σ s) :
    Keeps σ (State.dropMarks s n) := by
  unfold State.dropMarks
  with_reducible repeat' (first | assumption | fail_if_no_progress apply Keeps.upd)

theorem State.frameCfg_keeps {σ : State} (s : State) (v : Nat) (h : Keeps σ s) :
    Keeps σ (State.frameCfg s v) := by
  unfold State.frameCfg
  with_reducible repeat' (first
    | assumption | apply State.log_keeps | apply State.dropMarks_keeps | apply State.put_keeps
    | fail_if_no_progress apply Keeps.upd | split)

theorem execFrameCfgWrite_keeps {σ : State} (value : Word) (s : State) {t : State} (h : Keeps σ s)
    (e : (execFrameCfgWrite value s) = .next t) : Keeps σ t := by
  unfold execFrameCfgWrite at e
  refine Keeps.next ?_ e
  with_reducible repeat' (first
    | assumption | apply State.blockWrite_keeps | apply State.frameCfg_keeps
    | fail_if_no_progress apply Keeps.upd | split | intro _)

theorem State.clipDataRead_keeps {σ : State} (s : State) (h : Keeps σ s) :
    Keeps σ (State.clipDataRead s) := by
  unfold State.clipDataRead
  with_reducible repeat' (first | assumption | fail_if_no_progress apply Keeps.upd)

theorem execClipDataRead_keeps {σ : State} (s : State) {t : State} (h : Keeps σ s)
    (e : (execClipDataRead s) = .next t) : Keeps σ t := by
  unfold execClipDataRead at e
  refine Keeps.next ?_ e
  with_reducible repeat' (first | assumption | apply State.blockRead_keeps | apply State.clipDataRead_keeps)

theorem State.planeRefuse_keeps {σ : State} (s : State) (h : Keeps σ s) :
    Keeps σ (State.planeRefuse s) := by
  unfold State.planeRefuse
  with_reducible repeat' (first | assumption | apply State.raise_keeps | apply State.log_keeps)

theorem State.planeBusWrite_keeps {σ : State} (s : State) (core : Option Nat) (l : List (Nat × Byte)) (h : Keeps σ s) :
    Keeps σ (State.planeBusWrite s core l) := by
  unfold State.planeBusWrite
  with_reducible repeat' (first
    | assumption | apply State.log_keeps | apply State.planeRefuse_keeps | apply State.setBytes_keeps
    | fail_if_no_progress apply Keeps.upd | split | intro _ | dsimp only)

theorem execSignalPlaneWrite_keeps {σ : State} (acc : Access) (core : Nat) (s : State) {t : State} (h : Keeps σ s)
    (e : (execSignalPlaneWrite acc core s) = .next t) : Keeps σ t := by
  unfold execSignalPlaneWrite at e
  refine Keeps.next ?_ e
  with_reducible repeat' (first
    | assumption | apply State.planeBusWrite_keeps | fail_if_no_progress apply Keeps.upd | split)

theorem execStoreEccWriteback_keeps {σ : State} (addr : Nat) (s : State) {t : State} (h : Keeps σ s)
    (e : (execStoreEccWriteback addr s) = .next t) : Keeps σ t := by
  unfold execStoreEccWriteback at e
  refine Keeps.next ?_ e
  with_reducible repeat' (first
    | assumption | apply State.setStoreEcc_keeps | fail_if_no_progress apply Keeps.upd | split)

theorem State.storeSweep_keeps {σ : State} (s : State) (b : Nat) (h : Keeps σ s) :
    Keeps σ (State.storeSweep s b) := by
  unfold State.storeSweep
  with_reducible repeat' (first
    | assumption | apply State.setStoreEcc_keeps | apply State.storeEccEvent_keeps
    | (refine Keeps.foldl ?_ (fun _ _ _ => ?_)) | (refine Keeps.foldl_snd ?_ (fun _ _ _ => ?_))
    | (refine Keeps.foldl_fst ?_ (fun _ _ _ => ?_)) | fail_if_no_progress apply Keeps.upd | split)

theorem State.bankClear_keeps {σ : State} (s : State) (b : Nat) (h : Keeps σ s) :
    Keeps σ (State.bankClear s b) := by
  unfold State.bankClear
  with_reducible repeat' (first
    | assumption
    | (refine Keeps.step ?h0 ?_ ?_ ?_ ?_ ?_ ?_ <;> [skip; (with_unfolding_all (first | exact id | exact Nat.le_refl _ | exact fun _ e => e | exact Nat.le_add_right _ _ | exact Tab.wf_clear _ _ | exact Tab.wf_copy _ _ _ | exact fun _ => Nat.zero_lt_succ _ | exact Time.nextCQ_lt _ | exact Nat.le_of_not_lt (by assumption) | exact fun k e => absurd (by rw [e]; rfl) (by assumption))); (with_unfolding_all (first | exact id | exact Nat.le_refl _ | exact fun _ e => e | exact Nat.le_add_right _ _ | exact Tab.wf_clear _ _ | exact Tab.wf_copy _ _ _ | exact fun _ => Nat.zero_lt_succ _ | exact Time.nextCQ_lt _ | exact Nat.le_of_not_lt (by assumption) | exact fun k e => absurd (by rw [e]; rfl) (by assumption))); (with_unfolding_all (first | exact id | exact Nat.le_refl _ | exact fun _ e => e | exact Nat.le_add_right _ _ | exact Tab.wf_clear _ _ | exact Tab.wf_copy _ _ _ | exact fun _ => Nat.zero_lt_succ _ | exact Time.nextCQ_lt _ | exact Nat.le_of_not_lt (by assumption) | exact fun k e => absurd (by rw [e]; rfl) (by assumption))); (with_unfolding_all (first | exact id | exact Nat.le_refl _ | exact fun _ e => e | exact Nat.le_add_right _ _ | exact Tab.wf_clear _ _ | exact Tab.wf_copy _ _ _ | exact fun _ => Nat.zero_lt_succ _ | exact Time.nextCQ_lt _ | exact Nat.le_of_not_lt (by assumption) | exact fun k e => absurd (by rw [e]; rfl) (by assumption))); (with_unfolding_all (first | exact id | exact Nat.le_refl _ | exact fun _ e => e | exact Nat.le_add_right _ _ | exact Tab.wf_clear _ _ | exact Tab.wf_copy _ _ _ | exact fun _ => Nat.zero_lt_succ _ | exact Time.nextCQ_lt _ | exact Nat.le_of_not_lt (by assumption) | exact fun k e => absurd (by rw [e]; rfl) (by assumption))); (with_unfolding_all (first | exact id | exact Nat.le_refl _ | exact fun _ e => e | exact Nat.le_add_right _ _ | exact Tab.wf_clear _ _ | exact Tab.wf_copy _ _ _ | exact fun _ => Nat.zero_lt_succ _ | exact Time.nextCQ_lt _ | exact Nat.le_of_not_lt (by assumption) | exact fun k e => absurd (by rw [e]; rfl) (by assumption)))]))

theorem State.putBit_keeps {σ : State} (s : State) (p : Nat) (f : Fld) (b : Nat) (v : Bool) (h : Keeps σ s) :
    Keeps σ (State.putBit s p f b v) := by
  unfold State.putBit
  with_reducible repeat' (first | assumption | apply State.put_keeps)

theorem State.setLost_keeps {σ : State} (s : State) (b : Nat) (cause : Nat) (h : Keeps σ s) :
    Keeps σ (State.setLost s b cause) := by
  unfold State.setLost
  with_reducible repeat' (first | assumption | apply State.put_keeps | apply State.putBit_keeps)

theorem State.zfill_keeps {σ : State} (s : State) (bits_ : Nat) (h : Keeps σ s) :
    Keeps σ (State.zfill s bits_) := by
  unfold State.zfill
  with_reducible repeat' (first
    | assumption | apply State.log_keeps | apply State.putBit_keeps
    | (refine Keeps.foldl ?_ (fun _ _ _ => ?_)) | (refine Keeps.foldl_snd ?_ (fun _ _ _ => ?_))
    | (refine Keeps.foldl_fst ?_ (fun _ _ _ => ?_)) | fail_if_no_progress apply Keeps.upd | split)

theorem execZfill_keeps {σ : State} (bits : Word) (s : State) {t : State} (h : Keeps σ s)
    (e : (execZfill bits s) = .next t) : Keeps σ t := by
  unfold execZfill at e
  refine Keeps.next ?_ e
  with_reducible repeat' (first
    | assumption | apply State.blockWrite_keeps | apply State.zfill_keeps
    | fail_if_no_progress apply Keeps.upd | split | intro _)

theorem execZfillDone_keeps {σ : State} (bank : Nat) (s : State) {t : State} (h : Keeps σ s)
    (e : (execZfillDone bank s) = .next t) : Keeps σ t := by
  unfold execZfillDone at e
  refine Keeps.next ?_ e
  with_reducible repeat' (first
    | assumption | apply State.inWindow_keeps | apply State.notelinesLost_keeps | apply State.raise_keeps
    | apply State.putBit_keeps | apply State.setLost_keeps | apply State.bankClear_keeps
    | fail_if_no_progress apply Keeps.upd | split)

theorem State.scrubStop_keeps {σ : State} (s : State) (h : Keeps σ s) :
    Keeps σ (State.scrubStop s) := by
  unfold State.scrubStop
  with_reducible repeat' (first | assumption | apply State.putB_keeps | apply State.release_keeps)

theorem execScrubPassStart_keeps {σ : State} (s : State) {t : State} (h : Keeps σ s)
    (e : (execScrubPassStart s) = .next t) : Keeps σ t := by
  unfold execScrubPassStart at e
  refine Keeps.next ?_ e
  with_reducible repeat' (first
    | assumption | apply State.request_keeps | fail_if_no_progress apply Keeps.upd | split)

theorem execScrubPassEnd_keeps {σ : State} (s : State) {t : State} (h : Keeps σ s)
    (e : (execScrubPassEnd s) = .next t) : Keeps σ t := by
  unfold execScrubPassEnd at e
  refine Keeps.next ?_ e
  with_reducible repeat' (first
    | assumption | apply State.storeSweep_keeps | apply State.put_keeps | apply State.scrubStop_keeps
    | (refine Keeps.foldl ?_ (fun _ _ _ => ?_)) | (refine Keeps.foldl_snd ?_ (fun _ _ _ => ?_))
    | (refine Keeps.foldl_fst ?_ (fun _ _ _ => ?_)) | fail_if_no_progress apply Keeps.upd | split)

theorem State.scrubLate_keeps {σ : State} (s : State) (h : Keeps σ s) :
    Keeps σ (State.scrubLate s) := by
  unfold State.scrubLate
  with_reducible repeat' (first
    | assumption | apply State.raise_keeps | apply State.bump_keeps | apply State.request_keeps
    | apply State.scrubStop_keeps)

theorem execScrubLate_keeps {σ : State} (s : State) {t : State} (h : Keeps σ s)
    (e : (execScrubLate s) = .next t) : Keeps σ t := by
  unfold execScrubLate at e
  refine Keeps.next ?_ e
  with_reducible repeat' (first
    | assumption | apply State.scrubLate_keeps | fail_if_no_progress apply Keeps.upd | split)

theorem State.scrubGranted_keeps {σ : State} (s : State) (h : Keeps σ s) :
    Keeps σ (State.scrubGranted s) := by
  unfold State.scrubGranted
  with_reducible repeat' (first
    | assumption | apply State.putB_keeps | fail_if_no_progress apply Keeps.upd | split)

theorem State.scrubCtrl_keeps {σ : State} (s : State) (v : Nat) (h : Keeps σ s) :
    Keeps σ (State.scrubCtrl s v) := by
  unfold State.scrubCtrl
  with_reducible repeat' (first
    | assumption | apply State.log_keeps | apply State.put_keeps | apply State.putB_keeps
    | apply State.scrubStop_keeps | fail_if_no_progress apply Keeps.upd | split)

theorem State.sign_keeps {σ : State} (s : State) (b : Nat) (h : Keeps σ s) :
    Keeps σ (State.sign s b) := by
  unfold State.sign
  with_reducible repeat' (first
    | assumption | apply State.storeSweep_keeps | apply State.put_keeps
    | fail_if_no_progress apply Keeps.upd)

theorem State.signAll_keeps {σ : State} (s : State) (h : Keeps σ s) :
    Keeps σ (State.signAll s) := by
  unfold State.signAll
  with_reducible repeat' (first
    | assumption | apply State.sign_keeps | (refine Keeps.foldl ?_ (fun _ _ _ => ?_)))

theorem State.storeRetain_keeps {σ : State} (s : State) (h : Keeps σ s) :
    Keeps σ (State.storeRetain s) := by
  unfold State.storeRetain
  with_reducible repeat' (first
    | assumption | apply State.bankClear_keeps | (refine Keeps.foldl ?_ (fun _ _ _ => ?_)))

theorem State.bankReturn_keeps {σ : State} (s : State) (b : Nat) (h : Keeps σ s) :
    Keeps σ (State.bankReturn s b) := by
  unfold State.bankReturn
  with_reducible repeat' (first
    | assumption | apply State.setLost_keeps | apply State.raise_keeps | fail_if_no_progress apply Keeps.upd
    | split)

theorem State.outstView_keeps {σ : State} (s : State) (h : Keeps σ s) :
    Keeps σ (State.outstView s) := by
  unfold State.outstView
  with_reducible repeat' (first | assumption | apply State.maxUp_keeps | apply State.put_keeps)

theorem State.timersStop_keeps {σ : State} (s : State) (h : Keeps σ s) :
    Keeps σ (State.timersStop s) := by
  unfold State.timersStop
  with_reducible repeat' (first
    | assumption | (refine Keeps.foldl ?_ (fun _ _ _ => ?_)) | (refine Keeps.foldl_snd ?_ (fun _ _ _ => ?_))
    | (refine Keeps.foldl_fst ?_ (fun _ _ _ => ?_)) | fail_if_no_progress apply Keeps.upd)

theorem State.retriesEnd_keeps {σ : State} (s : State) (h : Keeps σ s) :
    Keeps σ (State.retriesEnd s) := by
  unfold State.retriesEnd
  with_reducible repeat' (first
    | assumption | apply State.respond_keeps | apply State.outstView_keeps | apply State.timersStop_keeps
    | fail_if_no_progress apply Keeps.upd | split)

theorem State.masterReset_keeps {σ : State} (s : State) (m : Master) (more : Bool) (h : Keeps σ s) :
    Keeps σ (State.masterReset s m more) := by
  unfold State.masterReset
  with_reducible repeat' (first
    | assumption | apply State.outstView_keeps | apply State.bump_keeps | apply State.raise_keeps
    | apply State.put_keeps | fail_if_no_progress apply Keeps.upd | split | intro _ | dsimp only)

theorem State.memRead_keeps {σ : State} (s : State) (a : Nat) (n : Nat) (h : Keeps σ s) :
    Keeps σ (State.memRead s a n).2 := by
  unfold State.memRead
  with_reducible repeat' (first
    | assumption | apply State.storeRead_keeps | apply State.localRead_keeps
    | fail_if_no_progress apply Keeps.upd | split)

theorem State.memWrite_keeps {σ : State} (s : State) (a : Nat) (l : List Byte) (h : Keeps σ s) :
    Keeps σ (State.memWrite s a l) := by
  unfold State.memWrite
  with_reducible repeat' (first
    | assumption | apply State.storeWrite_keeps | apply State.localWrite_keeps
    | fail_if_no_progress apply Keeps.upd | split)

theorem State.dmaCut_keeps {σ : State} (s : State) (e : Nat) (h : Keeps σ s) :
    Keeps σ (State.dmaCut s e) := by
  unfold State.dmaCut
  with_reducible repeat' (first
    | assumption | apply State.draw_keeps | apply State.memRead_keeps | apply State.memWrite_keeps
    | (refine Keeps.foldl ?_ (fun _ _ _ => ?_)) | (refine Keeps.foldl_snd ?_ (fun _ _ _ => ?_))
    | (refine Keeps.foldl_fst ?_ (fun _ _ _ => ?_)) | fail_if_no_progress apply Keeps.upd | split | intro _
    | dsimp only)

theorem State.dmaCancel_keeps {σ : State} (s : State) (e : Nat) (h : Keeps σ s) :
    Keeps σ (State.dmaCancel s e) := by
  unfold State.dmaCancel
  with_reducible repeat' (first
    | assumption | apply State.masterReset_keeps | apply State.dmaCut_keeps | apply State.put_keeps
    | apply State.putB_keeps | fail_if_no_progress apply Keeps.upd)

end Sys2Proof.Machine
end

