-- ==== Sys2Proof/Laws/KeepsIbex.lean ====
section
/-! SUPPORT. What no command undoes (`Keeps`), for the Ibex cores and clusters: one lemma per function
that gives a state. -/

namespace Sys2Proof.Machine

theorem execNop_keeps {σ : State} (at_ : Issue) (s : State) {t : State} (h : Keeps σ s)
    (e : (execNop at_ s) = .next t) : Keeps σ t := by
  unfold execNop at e
  refine Keeps.next ?_ e
  with_reducible repeat' (first | assumption | apply State.issueCore_keeps)

theorem execMac_keeps {σ : State} (at_ : Issue) (a : MacArgs) (s : State) {t : State} (h : Keeps σ s)
    (e : (execMac at_ a s) = .next t) : Keeps σ t := by
  unfold execMac at e
  refine Keeps.next ?_ e
  with_reducible repeat' (first | assumption | apply State.issueAcc_keeps)

theorem execMsu_keeps {σ : State} (at_ : Issue) (a : MacArgs) (s : State) {t : State} (h : Keeps σ s)
    (e : (execMsu at_ a s) = .next t) : Keeps σ t := by
  unfold execMsu at e
  refine Keeps.next ?_ e
  with_reducible repeat' (first | assumption | apply State.issueAcc_keeps)

theorem execMova_keeps {σ : State} (at_ : Issue) (acc : BitVec 3) (dx : BitVec 6) (sh : BitVec 6) (s : State) {t : State} (h : Keeps σ s)
    (e : (execMova at_ acc dx sh s) = .next t) : Keeps σ t := by
  unfold execMova at e
  refine Keeps.next ?_ e
  with_reducible repeat' (first | assumption | apply State.issueAcc_keeps)

theorem execExt_keeps {σ : State} (at_ : Issue) (dd : BitVec 6) (acc : BitVec 3) (sh : BitVec 5) (s : State) {t : State} (h : Keeps σ s)
    (e : (execExt at_ dd acc sh s) = .next t) : Keeps σ t := by
  unfold execExt at e
  refine Keeps.next ?_ e
  with_reducible repeat' (first | assumption | apply State.issueMac_keeps)

theorem execExtd_keeps {σ : State} (at_ : Issue) (dd : BitVec 6) (acc : BitVec 3) (sh : BitVec 5) (s : State) {t : State} (h : Keeps σ s)
    (e : (execExtd at_ dd acc sh s) = .next t) : Keeps σ t := by
  unfold execExtd at e
  refine Keeps.next ?_ e
  with_reducible repeat' (first | assumption | apply State.issueMac_keeps)

theorem execMul_keeps {σ : State} (at_ : Issue) (dd : BitVec 6) (da : BitVec 6) (db : BitVec 6) (s : State) {t : State} (h : Keeps σ s)
    (e : (execMul at_ dd da db s) = .next t) : Keeps σ t := by
  unfold execMul at e
  refine Keeps.next ?_ e
  with_reducible repeat' (first | assumption | apply State.issueMac_keeps)

theorem execDivs_keeps {σ : State} (at_ : Issue) (acc : BitVec 3) (dq : BitVec 6) (dy : BitVec 6) (s : State) {t : State} (h : Keeps σ s)
    (e : (execDivs at_ acc dq dy s) = .next t) : Keeps σ t := by
  unfold execDivs at e
  refine Keeps.next ?_ e
  with_reducible repeat' (first | assumption | apply State.issueAcc_keeps)

theorem execDivq_keeps {σ : State} (at_ : Issue) (acc : BitVec 3) (dq : BitVec 6) (dx : BitVec 6) (dy : BitVec 6) (s : State) {t : State} (h : Keeps σ s)
    (e : (execDivq at_ acc dq dx dy s) = .next t) : Keeps σ t := by
  unfold execDivq at e
  refine Keeps.next ?_ e
  with_reducible repeat' (first | assumption | apply State.issueAcc_keeps)

theorem execAdd_keeps {σ : State} (at_ : Issue) (dd : BitVec 6) (da : BitVec 6) (db : BitVec 6) (s : State) {t : State} (h : Keeps σ s)
    (e : (execAdd at_ dd da db s) = .next t) : Keeps σ t := by
  unfold execAdd at e
  refine Keeps.next ?_ e
  with_reducible repeat' (first | assumption | apply State.issueMac_keeps)

theorem execSub_keeps {σ : State} (at_ : Issue) (dd : BitVec 6) (da : BitVec 6) (db : BitVec 6) (s : State) {t : State} (h : Keeps σ s)
    (e : (execSub at_ dd da db s) = .next t) : Keeps σ t := by
  unfold execSub at e
  refine Keeps.next ?_ e
  with_reducible repeat' (first | assumption | apply State.issueMac_keeps)

theorem execAdds_keeps {σ : State} (at_ : Issue) (dd : BitVec 6) (da : BitVec 6) (db : BitVec 6) (s : State) {t : State} (h : Keeps σ s)
    (e : (execAdds at_ dd da db s) = .next t) : Keeps σ t := by
  unfold execAdds at e
  refine Keeps.next ?_ e
  with_reducible repeat' (first | assumption | apply State.issueMac_keeps)

theorem execSubs_keeps {σ : State} (at_ : Issue) (dd : BitVec 6) (da : BitVec 6) (db : BitVec 6) (s : State) {t : State} (h : Keeps σ s)
    (e : (execSubs at_ dd da db s) = .next t) : Keeps σ t := by
  unfold execSubs at e
  refine Keeps.next ?_ e
  with_reducible repeat' (first | assumption | apply State.issueMac_keeps)

theorem execAnd_keeps {σ : State} (at_ : Issue) (dd : BitVec 6) (da : BitVec 6) (db : BitVec 6) (s : State) {t : State} (h : Keeps σ s)
    (e : (execAnd at_ dd da db s) = .next t) : Keeps σ t := by
  unfold execAnd at e
  refine Keeps.next ?_ e
  with_reducible repeat' (first | assumption | apply State.issueMac_keeps)

theorem execOr_keeps {σ : State} (at_ : Issue) (dd : BitVec 6) (da : BitVec 6) (db : BitVec 6) (s : State) {t : State} (h : Keeps σ s)
    (e : (execOr at_ dd da db s) = .next t) : Keeps σ t := by
  unfold execOr at e
  refine Keeps.next ?_ e
  with_reducible repeat' (first | assumption | apply State.issueMac_keeps)

theorem execXor_keeps {σ : State} (at_ : Issue) (dd : BitVec 6) (da : BitVec 6) (db : BitVec 6) (s : State) {t : State} (h : Keeps σ s)
    (e : (execXor at_ dd da db s) = .next t) : Keeps σ t := by
  unfold execXor at e
  refine Keeps.next ?_ e
  with_reducible repeat' (first | assumption | apply State.issueMac_keeps)

theorem execShli_keeps {σ : State} (at_ : Issue) (dd : BitVec 6) (da : BitVec 6) (n : BitVec 5) (s : State) {t : State} (h : Keeps σ s)
    (e : (execShli at_ dd da n s) = .next t) : Keeps σ t := by
  unfold execShli at e
  refine Keeps.next ?_ e
  with_reducible repeat' (first | assumption | apply State.issueMac_keeps)

theorem execShri_keeps {σ : State} (at_ : Issue) (dd : BitVec 6) (da : BitVec 6) (n : BitVec 5) (s : State) {t : State} (h : Keeps σ s)
    (e : (execShri at_ dd da n s) = .next t) : Keeps σ t := by
  unfold execShri at e
  refine Keeps.next ?_ e
  with_reducible repeat' (first | assumption | apply State.issueMac_keeps)

theorem execSrai_keeps {σ : State} (at_ : Issue) (dd : BitVec 6) (da : BitVec 6) (n : BitVec 5) (s : State) {t : State} (h : Keeps σ s)
    (e : (execSrai at_ dd da n s) = .next t) : Keeps σ t := by
  unfold execSrai at e
  refine Keeps.next ?_ e
  with_reducible repeat' (first | assumption | apply State.issueMac_keeps)

theorem execAddi_keeps {σ : State} (at_ : Issue) (dd : BitVec 6) (da : BitVec 6) (imm : BitVec 12) (s : State) {t : State} (h : Keeps σ s)
    (e : (execAddi at_ dd da imm s) = .next t) : Keeps σ t := by
  unfold execAddi at e
  refine Keeps.next ?_ e
  with_reducible repeat' (first | assumption | apply State.issueMac_keeps)

theorem execMov_keeps {σ : State} (at_ : Issue) (dd : BitVec 6) (da : BitVec 6) (s : State) {t : State} (h : Keeps σ s)
    (e : (execMov at_ dd da s) = .next t) : Keeps σ t := by
  unfold execMov at e
  refine Keeps.next ?_ e
  with_reducible repeat' (first | assumption | apply State.issueMac_keeps)

theorem execMovi_keeps {σ : State} (at_ : Issue) (dd : BitVec 6) (imm : BitVec 18) (s : State) {t : State} (h : Keeps σ s)
    (e : (execMovi at_ dd imm s) = .next t) : Keeps σ t := by
  unfold execMovi at e
  refine Keeps.next ?_ e
  with_reducible repeat' (first | assumption | apply State.issueMac_keeps)

theorem execMovhi_keeps {σ : State} (at_ : Issue) (dd : BitVec 6) (imm : BitVec 16) (s : State) {t : State} (h : Keeps σ s)
    (e : (execMovhi at_ dd imm s) = .next t) : Keeps σ t := by
  unfold execMovhi at e
  refine Keeps.next ?_ e
  with_reducible repeat' (first | assumption | apply State.issueMac_keeps)

theorem execAbs_keeps {σ : State} (at_ : Issue) (dd : BitVec 6) (da : BitVec 6) (s : State) {t : State} (h : Keeps σ s)
    (e : (execAbs at_ dd da s) = .next t) : Keeps σ t := by
  unfold execAbs at e
  refine Keeps.next ?_ e
  with_reducible repeat' (first | assumption | apply State.issueMac_keeps)

theorem execNeg_keeps {σ : State} (at_ : Issue) (dd : BitVec 6) (da : BitVec 6) (s : State) {t : State} (h : Keeps σ s)
    (e : (execNeg at_ dd da s) = .next t) : Keeps σ t := by
  unfold execNeg at e
  refine Keeps.next ?_ e
  with_reducible repeat' (first | assumption | apply State.issueMac_keeps)

theorem execMin_keeps {σ : State} (at_ : Issue) (dd : BitVec 6) (da : BitVec 6) (db : BitVec 6) (s : State) {t : State} (h : Keeps σ s)
    (e : (execMin at_ dd da db s) = .next t) : Keeps σ t := by
  unfold execMin at e
  refine Keeps.next ?_ e
  with_reducible repeat' (first | assumption | apply State.issueMac_keeps)

theorem execMax_keeps {σ : State} (at_ : Issue) (dd : BitVec 6) (da : BitVec 6) (db : BitVec 6) (s : State) {t : State} (h : Keeps σ s)
    (e : (execMax at_ dd da db s) = .next t) : Keeps σ t := by
  unfold execMax at e
  refine Keeps.next ?_ e
  with_reducible repeat' (first | assumption | apply State.issueMac_keeps)

theorem execCmp_keeps {σ : State} (at_ : Issue) (pd : BitVec 3) (k : Cond) (da : BitVec 6) (db : BitVec 6) (s : State) {t : State} (h : Keeps σ s)
    (e : (execCmp at_ pd k da db s) = .next t) : Keeps σ t := by
  unfold execCmp at e
  refine Keeps.next ?_ e
  with_reducible repeat' (first | assumption | apply State.issueMac_keeps)

theorem execCmpi_keeps {σ : State} (at_ : Issue) (pd : BitVec 3) (k : Cond) (da : BitVec 6) (imm : BitVec 12) (s : State) {t : State} (h : Keeps σ s)
    (e : (execCmpi at_ pd k da imm s) = .next t) : Keeps σ t := by
  unfold execCmpi at e
  refine Keeps.next ?_ e
  with_reducible repeat' (first | assumption | apply State.issueMac_keeps)

theorem State.issueMem_keeps {σ : State} (s : State) (at_ : Issue) (bad : Bool) (l : List MemAcc) (h : Keeps σ s) :
    Keeps σ (State.issueMem s at_ bad l) := by
  unfold State.issueMem
  with_reducible repeat' (first | assumption | apply State.issueOr_keeps)

theorem execLd_keeps {σ : State} (at_ : Issue) (w : AWidth) (dr : BitVec 6) (an : BitVec 4) (mode : AMode) (s : State) {t : State} (h : Keeps σ s)
    (e : (execLd at_ w dr an mode s) = .next t) : Keeps σ t := by
  unfold execLd at e
  refine Keeps.next ?_ e
  with_reducible repeat' (first | assumption | apply State.issueMem_keeps)

theorem execSt_keeps {σ : State} (at_ : Issue) (w : AWidth) (dr : BitVec 6) (an : BitVec 4) (mode : AMode) (s : State) {t : State} (h : Keeps σ s)
    (e : (execSt at_ w dr an mode s) = .next t) : Keeps σ t := by
  unfold execSt at e
  refine Keeps.next ?_ e
  with_reducible repeat' (first | assumption | apply State.issueMem_keeps)

theorem execLda_keeps {σ : State} (at_ : Issue) (ar : BitVec 4) (an : BitVec 4) (mode : AMode) (s : State) {t : State} (h : Keeps σ s)
    (e : (execLda at_ ar an mode s) = .next t) : Keeps σ t := by
  unfold execLda at e
  refine Keeps.next ?_ e
  with_reducible repeat' (first | assumption | apply State.issueMem_keeps)

theorem execSta_keeps {σ : State} (at_ : Issue) (ar : BitVec 4) (an : BitVec 4) (mode : AMode) (s : State) {t : State} (h : Keeps σ s)
    (e : (execSta at_ ar an mode s) = .next t) : Keeps σ t := by
  unfold execSta at e
  refine Keeps.next ?_ e
  with_reducible repeat' (first | assumption | apply State.issueMem_keeps)

theorem execPairedAccess_keeps {σ : State} (at_ : Issue) (a0 : Option PairAcc) (a1 : Option PairAcc) (s : State) {t : State} (h : Keeps σ s)
    (e : (execPairedAccess at_ a0 a1 s) = .next t) : Keeps σ t := by
  unfold execPairedAccess at e
  refine Keeps.next ?_ e
  with_reducible repeat' (first | assumption | apply State.issueMem_keeps)

theorem execAaddi_keeps {σ : State} (at_ : Issue) (an : BitVec 4) (imm : BitVec 17) (s : State) {t : State} (h : Keeps σ s)
    (e : (execAaddi at_ an imm s) = .next t) : Keeps σ t := by
  unfold execAaddi at e
  refine Keeps.next ?_ e
  with_reducible repeat' (first | assumption | apply State.issueAddr_keeps)

theorem execAadd_keeps {σ : State} (at_ : Issue) (an : BitVec 4) (am : BitVec 4) (s : State) {t : State} (h : Keeps σ s)
    (e : (execAadd at_ an am s) = .next t) : Keeps σ t := by
  unfold execAadd at e
  refine Keeps.next ?_ e
  with_reducible repeat' (first | assumption | apply State.issueAddr_keeps)

theorem execAmovi_keeps {σ : State} (at_ : Issue) (an : BitVec 4) (imm : BitVec 17) (s : State) {t : State} (h : Keeps σ s)
    (e : (execAmovi at_ an imm s) = .next t) : Keeps σ t := by
  unfold execAmovi at e
  refine Keeps.next ?_ e
  with_reducible repeat' (first | assumption | apply State.issueAddr_keeps)

theorem execAmovhi_keeps {σ : State} (at_ : Issue) (an : BitVec 4) (imm : BitVec 16) (s : State) {t : State} (h : Keeps σ s)
    (e : (execAmovhi at_ an imm s) = .next t) : Keeps σ t := by
  unfold execAmovhi at e
  refine Keeps.next ?_ e
  with_reducible repeat' (first | assumption | apply State.issueAddr_keeps)

theorem execAmov_keeps {σ : State} (at_ : Issue) (an : BitVec 4) (dm : BitVec 6) (s : State) {t : State} (h : Keeps σ s)
    (e : (execAmov at_ an dm s) = .next t) : Keeps σ t := by
  unfold execAmov at e
  refine Keeps.next ?_ e
  with_reducible repeat' (first | assumption | apply State.issueAddr_keeps)

theorem execRda_keeps {σ : State} (at_ : Issue) (dd : BitVec 6) (an : BitVec 4) (s : State) {t : State} (h : Keeps σ s)
    (e : (execRda at_ dd an s) = .next t) : Keeps σ t := by
  unfold execRda at e
  refine Keeps.next ?_ e
  with_reducible repeat' (first | assumption | apply State.issueAddr_keeps)

theorem execBr_keeps {σ : State} (at_ : Issue) (target : BitVec 12) (s : State) {t : State} (h : Keeps σ s)
    (e : (execBr at_ target s) = .next t) : Keeps σ t := by
  unfold execBr at e
  refine Keeps.next ?_ e
  with_reducible repeat' (first | assumption | apply State.issueFlow_keeps)

theorem execBrl_keeps {σ : State} (at_ : Issue) (an : BitVec 4) (target : BitVec 12) (s : State) {t : State} (h : Keeps σ s)
    (e : (execBrl at_ an target s) = .next t) : Keeps σ t := by
  unfold execBrl at e
  refine Keeps.next ?_ e
  with_reducible repeat' (first | assumption | apply State.issueFlow_keeps)

theorem execBrr_keeps {σ : State} (at_ : Issue) (an : BitVec 4) (s : State) {t : State} (h : Keeps σ s)
    (e : (execBrr at_ an s) = .next t) : Keeps σ t := by
  unfold execBrr at e
  refine Keeps.next ?_ e
  with_reducible repeat' (first | assumption | apply State.issueFlow_keeps)

theorem execReti_keeps {σ : State} (at_ : Issue) (s : State) {t : State} (h : Keeps σ s)
    (e : (execReti at_ s) = .next t) : Keeps σ t := by
  unfold execReti at e
  refine Keeps.next ?_ e
  with_reducible repeat' (first | assumption | apply State.issueFlow_keeps)

theorem execSwi_keeps {σ : State} (at_ : Issue) (s : State) {t : State} (h : Keeps σ s)
    (e : (execSwi at_ s) = .next t) : Keeps σ t := by
  unfold execSwi at e
  refine Keeps.next ?_ e
  with_reducible repeat' (first | assumption | apply State.issueFlow_keeps)

theorem execRep_keeps {σ : State} (at_ : Issue) (len : BitVec 4) (count : BitVec 6) (s : State) {t : State} (h : Keeps σ s)
    (e : (execRep at_ len count s) = .next t) : Keeps σ t := by
  unfold execRep at e
  refine Keeps.next ?_ e
  with_reducible repeat' (first
    | assumption | apply State.issueFlow_keeps | apply State.setCore_keeps | apply State.fetchFor_keeps
    | fail_if_no_progress apply Keeps.upd | split)

theorem execLoop_keeps {σ : State} (at_ : Issue) (len : BitVec 6) (s : State) {t : State} (h : Keeps σ s)
    (e : (execLoop at_ len s) = .next t) : Keeps σ t := by
  unfold execLoop at e
  refine Keeps.next ?_ e
  with_reducible repeat' (first | assumption | apply State.issueFlow_keeps)

theorem execFbar_keeps {σ : State} (at_ : Issue) (s : State) {t : State} (h : Keeps σ s)
    (e : (execFbar at_ s) = .next t) : Keeps σ t := by
  unfold execFbar at e
  refine Keeps.next ?_ e
  with_reducible repeat' (first | assumption | apply State.issueFlow_keeps)

theorem execCsync_keeps {σ : State} (at_ : Issue) (s : State) {t : State} (h : Keeps σ s)
    (e : (execCsync at_ s) = .next t) : Keeps σ t := by
  unfold execCsync at e
  refine Keeps.next ?_ e
  with_reducible repeat' (first | assumption | apply State.issueFlow_keeps)

theorem State.csignal_keeps {σ : State} (s : State) (n : Nat) (mask : Word) (h : Keeps σ s) :
    Keeps σ (State.csignal s n mask) := by
  unfold State.csignal
  with_reducible repeat' (first
    | assumption | apply State.setCore_keeps | (refine Keeps.foldl ?_ (fun _ _ _ => ?_))
    | (refine Keeps.foldl_snd ?_ (fun _ _ _ => ?_)) | (refine Keeps.foldl_fst ?_ (fun _ _ _ => ?_))
    | fail_if_no_progress apply Keeps.upd | split)

theorem execMfsr_keeps {σ : State} (at_ : Issue) (dd : BitVec 6) (srn : BitVec 6) (s : State) {t : State} (h : Keeps σ s)
    (e : (execMfsr at_ dd srn s) = .next t) : Keeps σ t := by
  unfold execMfsr at e
  refine Keeps.next ?_ e
  with_reducible repeat' (first | assumption | apply State.issueOr_keeps)

theorem State.moveToSr_keeps {σ : State} (s : State) (at_ : Issue) (srn : Nat) (v : Core → Word) (h : Keeps σ s) :
    Keeps σ (State.moveToSr s at_ srn v) := by
  unfold State.moveToSr
  with_reducible repeat' (first
    | assumption | apply State.issueOr_keeps | apply State.csignal_keeps
    | fail_if_no_progress apply Keeps.upd | split)

theorem execMtsr_keeps {σ : State} (at_ : Issue) (dm : BitVec 6) (srn : BitVec 6) (s : State) {t : State} (h : Keeps σ s)
    (e : (execMtsr at_ dm srn s) = .next t) : Keeps σ t := by
  unfold execMtsr at e
  refine Keeps.next ?_ e
  with_reducible repeat' (first | assumption | apply State.moveToSr_keeps)

theorem execMtsri_keeps {σ : State} (at_ : Issue) (imm : BitVec 16) (srn : BitVec 6) (s : State) {t : State} (h : Keeps σ s)
    (e : (execMtsri at_ imm srn s) = .next t) : Keeps σ t := by
  unfold execMtsri at e
  refine Keeps.next ?_ e
  with_reducible repeat' (first | assumption | apply State.moveToSr_keeps)

theorem execPlog_keeps {σ : State} (at_ : Issue) (pd : BitVec 3) (pa : BitVec 3) (pb : BitVec 3) (tt : BitVec 4) (s : State) {t : State} (h : Keeps σ s)
    (e : (execPlog at_ pd pa pb tt s) = .next t) : Keeps σ t := by
  unfold execPlog at e
  refine Keeps.next ?_ e
  with_reducible repeat' (first | assumption | apply State.issueCore_keeps)

theorem execReservedEncodingIssue_keeps {σ : State} (at_ : Issue) (s : State) {t : State} (h : Keeps σ s)
    (e : (execReservedEncodingIssue at_ s) = .next t) : Keeps σ t := by
  unfold execReservedEncodingIssue at e
  refine Keeps.next ?_ e
  with_reducible repeat' (first | assumption | apply State.issueFlow_keeps)

theorem State.settleCores_keeps {σ : State} (s : State) (c : Nat) (h : Keeps σ s) :
    Keeps σ (State.settleCores s c) := by
  unfold State.settleCores
  with_reducible repeat' (first
    | assumption | apply State.setCore_keeps | (refine Keeps.foldl ?_ (fun _ _ _ => ?_)))

theorem State.stageIn_keeps {σ : State} (s : State) (q : Nat) (n : Nat) (h : Keeps σ s) :
    Keeps σ (State.stageIn s q n) := by
  unfold State.stageIn
  with_reducible repeat' (first | assumption | apply State.windowView_keeps | apply State.writeLocal_keeps)

theorem execStageInStart_keeps {σ : State} (c : Nat) (s : State) {t : State} (h : Keeps σ s)
    (e : (execStageInStart c s) = .next t) : Keeps σ t := by
  unfold execStageInStart at e
  refine Keeps.next ?_ e
  with_reducible repeat' (first
    | assumption | apply State.settleCores_keeps | apply State.setCl_keeps | apply State.waitAll_keeps
    | apply State.stageIn_keeps | (refine Keeps.foldl ?_ (fun _ _ _ => ?_))
    | (refine Keeps.foldl_snd ?_ (fun _ _ _ => ?_)) | (refine Keeps.foldl_fst ?_ (fun _ _ _ => ?_))
    | fail_if_no_progress apply Keeps.upd | split | intro _ | dsimp only)

theorem State.swapSet_keeps {σ : State} (s : State) (n : Nat) (h : Keeps σ s) :
    Keeps σ (State.swapSet s n) := by
  unfold State.swapSet
  with_reducible repeat' (first
    | assumption | apply State.onCorePage_keeps | apply State.put_keeps | apply State.setCore_keeps
    | apply State.raise_keeps | (refine Keeps.foldl ?_ (fun _ _ _ => ?_))
    | (refine Keeps.foldl_snd ?_ (fun _ _ _ => ?_)) | (refine Keeps.foldl_fst ?_ (fun _ _ _ => ?_))
    | fail_if_no_progress apply Keeps.upd | split | intro _ | dsimp only)

theorem State.coreStart_keeps {σ : State} (s : State) (n : Nat) (h : Keeps σ s) :
    Keeps σ (State.coreStart s n) := by
  unfold State.coreStart
  with_reducible repeat' (first
    | assumption | apply State.setCore_keeps | apply State.swapSet_keeps
    | fail_if_no_progress apply Keeps.upd | split | intro _ | dsimp only)

theorem execCoreFrameStart_keeps {σ : State} (c : Nat) (s : State) {t : State} (h : Keeps σ s)
    (e : (execCoreFrameStart c s) = .next t) : Keeps σ t := by
  unfold execCoreFrameStart at e
  refine Keeps.next ?_ e
  with_reducible repeat' (first
    | assumption | apply State.coreStart_keeps | apply State.waitAll_keeps | apply State.setCl_keeps
    | (refine Keeps.foldl ?_ (fun _ _ _ => ?_)) | (refine Keeps.foldl_snd ?_ (fun _ _ _ => ?_))
    | (refine Keeps.foldl_fst ?_ (fun _ _ _ => ?_)) | fail_if_no_progress apply Keeps.upd | split)

theorem State.stageWord_keeps {σ : State} (s : State) (a : Nat) (h : Keeps σ s) :
    Keeps σ (State.stageWord s a).2 := by
  unfold State.stageWord
  with_reducible repeat' (first | assumption | apply State.checkWords_keeps)

theorem State.stageOut_keeps {σ : State} (s : State) (n : Nat) (h : Keeps σ s) :
    Keeps σ (State.stageOut s n) := by
  unfold State.stageOut
  with_reducible repeat' (first
    | assumption | apply State.stageWord_keeps | apply State.planeWrite_keeps
    | (refine Keeps.foldl ?_ (fun _ _ _ => ?_)))

theorem execStageOutStart_keeps {σ : State} (c : Nat) (s : State) {t : State} (h : Keeps σ s)
    (e : (execStageOutStart c s) = .next t) : Keeps σ t := by
  unfold execStageOutStart at e
  refine Keeps.next ?_ e
  with_reducible repeat' (first
    | assumption | apply State.waitAll_keeps | apply State.stageOut_keeps | apply State.setFadePos_keeps
    | apply State.setCl_keeps | (refine Keeps.foldl ?_ (fun _ _ _ => ?_))
    | (refine Keeps.foldl_snd ?_ (fun _ _ _ => ?_)) | (refine Keeps.foldl_fst ?_ (fun _ _ _ => ?_))
    | fail_if_no_progress apply Keeps.upd | split)

theorem State.migMove_keeps {σ : State} (s : State) (base : Nat) (dst : Nat) (h : Keeps σ s) :
    Keeps σ (State.migMove s base dst) := by
  unfold State.migMove
  with_reducible repeat' (first
    | assumption
    | (with_unfolding_all exact Keeps.step h (Tab.wf_copy _ _ _) id id (Nat.le_refl _) (fun _ e => e) (Nat.le_refl _)))

theorem State.migCopy_keeps {σ : State} (s : State) (c : Nat) (h : Keeps σ s) :
    Keeps σ (State.migCopy s c) := by
  unfold State.migCopy
  with_reducible repeat' (first
    | assumption | apply State.ibexEccEvent_keeps | apply State.migMove_keeps | apply State.put_keeps
    | apply State.setCl_keeps | (refine Keeps.foldl ?_ (fun _ _ _ => ?_))
    | (refine Keeps.foldl_snd ?_ (fun _ _ _ => ?_)) | (refine Keeps.foldl_fst ?_ (fun _ _ _ => ?_))
    | fail_if_no_progress apply Keeps.upd | split | intro _ | dsimp only)

theorem execStageOutDone_keeps {σ : State} (c : Nat) (s : State) {t : State} (h : Keeps σ s)
    (e : (execStageOutDone c s) = .next t) : Keeps σ t := by
  unfold execStageOutDone at e
  refine Keeps.next ?_ e
  with_reducible repeat' (first
    | assumption | apply State.setCl_keeps | apply State.waitAll_keeps | apply State.migCopy_keeps
    | (refine Keeps.foldl ?_ (fun _ _ _ => ?_)) | (refine Keeps.foldl_snd ?_ (fun _ _ _ => ?_))
    | (refine Keeps.foldl_fst ?_ (fun _ _ _ => ?_)) | fail_if_no_progress apply Keeps.upd | split)

theorem State.migCtrl_keeps {σ : State} (s : State) (c : Nat) (v : Nat) (h : Keeps σ s) :
    Keeps σ (State.migCtrl s c v) := by
  unfold State.migCtrl
  with_reducible repeat' (first
    | assumption | apply State.put_keeps | apply State.migCancel_keeps | apply State.log_keeps
    | apply State.setCl_keeps | apply State.request_keeps | fail_if_no_progress apply Keeps.upd | split
    | intro _ | dsimp only)

theorem execMigStart_keeps {σ : State} (c : Nat) (source : BitVec 2) (s : State) {t : State} (h : Keeps σ s)
    (e : (execMigStart c source s) = .next t) : Keeps σ t := by
  unfold execMigStart at e
  refine Keeps.next ?_ e
  with_reducible repeat' (first
    | assumption | apply State.blockWrite_keeps | apply State.migCtrl_keeps
    | fail_if_no_progress apply Keeps.upd | split | intro _)

theorem execMigrationCopyStart_keeps {σ : State} (c : Nat) (s : State) {t : State} (h : Keeps σ s)
    (e : (execMigrationCopyStart c s) = .next t) : Keeps σ t := by
  unfold execMigrationCopyStart at e
  refine Keeps.next ?_ e
  with_reducible repeat' (first
    | assumption | apply State.put_keeps | apply State.setCl_keeps | fail_if_no_progress apply Keeps.upd
    | split)

theorem State.migCore_keeps {σ : State} (s : State) (src : Nat) (dst : Nat) (h : Keeps σ s) :
    Keeps σ (State.migCore s src dst) := by
  unfold State.migCore
  with_reducible repeat' (first
    | assumption | apply State.setCore1_keeps | apply State.put_keeps | apply State.putSh_keeps
    | (refine Keeps.foldl ?_ (fun _ _ _ => ?_)) | (refine Keeps.foldl_snd ?_ (fun _ _ _ => ?_))
    | (refine Keeps.foldl_fst ?_ (fun _ _ _ => ?_)) | fail_if_no_progress apply Keeps.upd | split)

theorem execMigFollowing_keeps {σ : State} (c : Nat) (s : State) {t : State} (h : Keeps σ s)
    (e : (execMigFollowing c s) = .next t) : Keeps σ t := by
  unfold execMigFollowing at e
  refine Keeps.next ?_ e
  with_reducible repeat' (first
    | assumption | apply State.settleCores_keeps | apply State.migCore_keeps | apply State.put_keeps
    | apply State.raise_keeps | (refine Keeps.foldl ?_ (fun _ _ _ => ?_))
    | (refine Keeps.foldl_snd ?_ (fun _ _ _ => ?_)) | (refine Keeps.foldl_fst ?_ (fun _ _ _ => ?_))
    | fail_if_no_progress apply Keeps.upd | split | intro _ | dsimp only)

theorem execMigCancel_keeps {σ : State} (c : Nat) (cause : Byte) (s : State) {t : State} (h : Keeps σ s)
    (e : (execMigCancel c cause s) = .next t) : Keeps σ t := by
  unfold execMigCancel at e
  refine Keeps.next ?_ e
  with_reducible repeat' (first
    | assumption | apply State.blockWrite_keeps | apply State.migCancel_keeps
    | fail_if_no_progress apply Keeps.upd | split | intro _)

theorem State.frameCycles_keeps {σ : State} (s : State) (n : Nat) (h : Keeps σ s) :
    Keeps σ (State.frameCycles s n) := by
  unfold State.frameCycles
  with_reducible repeat' (first
    | assumption | apply State.onCorePage_keeps | apply State.maxUp_keeps | apply State.put_keeps
    | fail_if_no_progress apply Keeps.upd | split | intro _)

theorem State.coreRest_keeps {σ : State} (s : State) (n : Nat) (r : Core × Bool) (h : Keeps σ s) :
    Keeps σ (State.coreRest s n r) := by
  unfold State.coreRest
  with_reducible repeat' (first
    | assumption | apply State.setCore_keeps | apply State.onCorePage_keeps | apply State.raise_keeps
    | fail_if_no_progress apply Keeps.upd | split | intro _)

theorem execFrameBarrierReached_keeps {σ : State} (n : Nat) (s : State) {t : State} (h : Keeps σ s)
    (e : (execFrameBarrierReached n s) = .next t) : Keeps σ t := by
  unfold execFrameBarrierReached at e
  refine Keeps.next ?_ e
  with_reducible repeat' (first
    | assumption | apply State.frameCycles_keeps | apply State.coreRest_keeps
    | fail_if_no_progress apply Keeps.upd | split)

theorem execCoreOverrun_keeps {σ : State} (n : Nat) (s : State) {t : State} (h : Keeps σ s)
    (e : (execCoreOverrun n s) = .next t) : Keeps σ t := by
  unfold execCoreOverrun at e
  refine Keeps.next ?_ e
  with_reducible repeat' (first
    | assumption | apply State.coreRest_keeps | apply State.onCorePage_keeps | apply State.raise_keeps
    | apply State.bump_keeps | apply State.setFadePos_keeps | apply State.setCl_keeps
    | fail_if_no_progress apply Keeps.upd | split | intro _)

theorem execInterruptEntry_keeps {σ : State} (n : Nat) (s : State) {t : State} (h : Keeps σ s)
    (e : (execInterruptEntry n s) = .next t) : Keeps σ t := by
  unfold execInterruptEntry at e
  refine Keeps.next ?_ e
  with_reducible repeat' (first
    | assumption | apply State.setCore_keeps | apply State.draw_keeps | apply State.onCorePage_keeps
    | apply State.maxUp_keeps | apply State.bump_keeps | fail_if_no_progress apply Keeps.upd | split
    | intro _ | dsimp only)

theorem State.ibexGate_keeps {σ : State} (s : State) (n : Nat) (f : State → State) (hf : ∀ x, Keeps σ x → Keeps σ (f x)) (h : Keeps σ s) :
    Keeps σ (State.ibexGate s n f) := by
  unfold State.ibexGate
  with_reducible repeat' (first
    | assumption | apply hf | apply State.log_keeps | fail_if_no_progress apply Keeps.upd | split | intro _
    | dsimp only)

theorem execDoorbell_keeps {σ : State} (n : Nat) (value : Word) (s : State) {t : State} (h : Keeps σ s)
    (e : (execDoorbell n value s) = .next t) : Keeps σ t := by
  unfold execDoorbell at e
  refine Keeps.next ?_ e
  with_reducible repeat' (first
    | assumption | apply State.blockWrite_keeps | apply State.ibexGate_keeps | apply State.setCore_keeps
    | fail_if_no_progress apply Keeps.upd | split | intro _)

theorem execCsyncRelease_keeps {σ : State} (c : Nat) (s : State) {t : State} (h : Keeps σ s)
    (e : (execCsyncRelease c s) = .next t) : Keeps σ t := by
  unfold execCsyncRelease at e
  refine Keeps.next ?_ e
  with_reducible repeat' (first
    | assumption | apply State.settleCores_keeps | apply State.waitAll_keeps | apply State.setCore_keeps
    | (refine Keeps.foldl ?_ (fun _ _ _ => ?_)) | (refine Keeps.foldl_snd ?_ (fun _ _ _ => ?_))
    | (refine Keeps.foldl_fst ?_ (fun _ _ _ => ?_)) | fail_if_no_progress apply Keeps.upd | split | intro _
    | dsimp only)

theorem execIbexEccWriteback_keeps {σ : State} (addr : Nat) (s : State) {t : State} (h : Keeps σ s)
    (e : (execIbexEccWriteback addr s) = .next t) : Keeps σ t := by
  unfold execIbexEccWriteback at e
  refine Keeps.next ?_ e
  with_reducible repeat' (first | assumption | fail_if_no_progress apply Keeps.upd | split)

theorem State.dbgWrite_keeps {σ : State} (s : State) (n : Nat) (f : State → State) (hf : ∀ x, Keeps σ x → Keeps σ (f x)) (h : Keeps σ s) :
    Keeps σ (State.dbgWrite s n f) := by
  unfold State.dbgWrite
  with_reducible repeat' (first
    | assumption | apply hf | apply State.blockWrite_keeps | apply State.ibexGate_keeps
    | apply State.log_keeps | fail_if_no_progress apply Keeps.upd | split | intro _)

theorem State.haltReq_keeps {σ : State} (s : State) (n : Nat) (h : Keeps σ s) :
    Keeps σ (State.haltReq s n) := by
  unfold State.haltReq
  with_reducible repeat' (first | assumption | apply State.setCore_keeps)

theorem State.resumeCore_keeps {σ : State} (s : State) (n : Nat) (h : Keeps σ s) :
    Keeps σ (State.resumeCore s n) := by
  unfold State.resumeCore
  with_reducible repeat' (first
    | assumption | apply State.putB_keeps | apply State.setCore_keeps | fail_if_no_progress apply Keeps.upd
    | split)

theorem State.stepCore_keeps {σ : State} (s : State) (n : Nat) (h : Keeps σ s) :
    Keeps σ (State.stepCore s n) := by
  unfold State.stepCore
  with_reducible repeat' (first
    | assumption | apply State.resumeCore_keeps | apply State.setCore_keeps
    | fail_if_no_progress apply Keeps.upd | split)

theorem execHaltReq_keeps {σ : State} (n : Nat) (s : State) {t : State} (h : Keeps σ s)
    (e : (execHaltReq n s) = .next t) : Keeps σ t := by
  unfold execHaltReq at e
  refine Keeps.next ?_ e
  with_reducible repeat' (first
    | assumption | apply State.dbgWrite_keeps | apply State.haltReq_keeps
    | fail_if_no_progress apply Keeps.upd | split | intro _)

theorem execResume_keeps {σ : State} (n : Nat) (s : State) {t : State} (h : Keeps σ s)
    (e : (execResume n s) = .next t) : Keeps σ t := by
  unfold execResume at e
  refine Keeps.next ?_ e
  with_reducible repeat' (first
    | assumption | apply State.dbgWrite_keeps | apply State.resumeCore_keeps
    | fail_if_no_progress apply Keeps.upd | split | intro _)

theorem execStep_keeps {σ : State} (n : Nat) (s : State) {t : State} (h : Keeps σ s)
    (e : (execStep n s) = .next t) : Keeps σ t := by
  unfold execStep at e
  refine Keeps.next ?_ e
  with_reducible repeat' (first
    | assumption | apply State.dbgWrite_keeps | apply State.stepCore_keeps
    | fail_if_no_progress apply Keeps.upd | split | intro _)

theorem execCoreHalted_keeps {σ : State} (n : Nat) (cause : HaltCause) (s : State) {t : State} (h : Keeps σ s)
    (e : (execCoreHalted n cause s) = .next t) : Keeps σ t := by
  unfold execCoreHalted at e
  refine Keeps.next ?_ e
  with_reducible repeat' (first
    | assumption | apply State.setCore_keeps | apply State.put_keeps | apply State.putB_keeps
    | apply State.raise_keeps | fail_if_no_progress apply Keeps.upd | split)

end Sys2Proof.Machine
end

