-- ==== Sys2Proof/Laws/KeepsControl.lean ====
section
/-! SUPPORT. What no command undoes (`Keeps`), for pins, power, the mailbox, reset, interrupts, scheduling and soft reset: one lemma per function
that gives a state. -/

namespace Sys2Proof.Machine

theorem State.gpioSet_keeps {σ : State} (s : State) (v : Nat) (h : Keeps σ s) :
    Keeps σ (State.gpioSet s v) := by
  unfold State.gpioSet
  with_reducible repeat' (first | assumption | apply State.put_keeps)

theorem State.gpioClr_keeps {σ : State} (s : State) (v : Nat) (h : Keeps σ s) :
    Keeps σ (State.gpioClr s v) := by
  unfold State.gpioClr
  with_reducible repeat' (first | assumption | apply State.put_keeps)

theorem execGpioSet_keeps {σ : State} (bits : Word) (s : State) {t : State} (h : Keeps σ s)
    (e : (execGpioSet bits s) = .next t) : Keeps σ t := by
  unfold execGpioSet at e
  refine Keeps.next ?_ e
  with_reducible repeat' (first
    | assumption | apply State.blockWrite_keeps | apply State.gpioSet_keeps
    | fail_if_no_progress apply Keeps.upd | split | intro _)

theorem execGpioClr_keeps {σ : State} (bits : Word) (s : State) {t : State} (h : Keeps σ s)
    (e : (execGpioClr bits s) = .next t) : Keeps σ t := by
  unfold execGpioClr at e
  refine Keeps.next ?_ e
  with_reducible repeat' (first
    | assumption | apply State.blockWrite_keeps | apply State.gpioClr_keeps
    | fail_if_no_progress apply Keeps.upd | split | intro _)

theorem execGpioEdge_keeps {σ : State} (pin : Nat) (level : Bool) (s : State) {t : State} (h : Keeps σ s)
    (e : (execGpioEdge pin level s) = .next t) : Keeps σ t := by
  unfold execGpioEdge at e
  refine Keeps.next ?_ e
  with_reducible repeat' (first
    | assumption | apply State.put_keeps | apply State.raise_keeps | fail_if_no_progress apply Keeps.upd
    | split | intro _ | dsimp only)

theorem State.i2cEnd_keeps {σ : State} (s : State) (m : Nat) (code : Nat) (wr : Nat) (rd : Nat) (h : Keeps σ s) :
    Keeps σ (State.i2cEnd s m code wr rd) := by
  unfold State.i2cEnd
  with_reducible repeat' (first
    | assumption | apply State.put_keeps | apply State.putB_keeps | apply State.raise_keeps)

theorem State.i2cRx_keeps {σ : State} (s : State) (m : Nat) (l : List Byte) (h : Keeps σ s) :
    Keeps σ (State.i2cRx s m l) := by
  unfold State.i2cRx
  with_reducible repeat' (first
    | assumption | apply State.put_keeps | (refine Keeps.foldl ?_ (fun _ _ _ => ?_)))

theorem State.i2cCmd_keeps {σ : State} (s : State) (m : Nat) (v : Nat) (h : Keeps σ s) :
    Keeps σ (State.i2cCmd s m v) := by
  unfold State.i2cCmd
  with_reducible repeat' (first
    | assumption | apply State.log_keeps | apply State.put_keeps | apply State.i2cEnd_keeps
    | apply State.putB_keeps | fail_if_no_progress apply Keeps.upd | split)

theorem State.i2cGate_keeps {σ : State} (s : State) (m : Nat) (f : State → State) (hf : ∀ x, Keeps σ x → Keeps σ (f x)) (h : Keeps σ s) :
    Keeps σ (State.i2cGate s m f) := by
  unfold State.i2cGate
  with_reducible repeat' (first
    | assumption | apply hf | apply State.log_keeps | fail_if_no_progress apply Keeps.upd | split)

theorem execI2cGo_keeps {σ : State} (m : Nat) (cmd : Word) (s : State) {t : State} (h : Keeps σ s)
    (e : (execI2cGo m cmd s) = .next t) : Keeps σ t := by
  unfold execI2cGo at e
  refine Keeps.next ?_ e
  with_reducible repeat' (first
    | assumption | apply State.blockWrite_keeps | apply State.i2cGate_keeps | apply State.i2cCmd_keeps
    | fail_if_no_progress apply Keeps.upd | split | intro _)

theorem State.i2cFinish_keeps {σ : State} (s : State) (m : Nat) (code : Nat) (wrDone : Nat) (rdata : List Byte) (h : Keeps σ s) :
    Keeps σ (State.i2cFinish s m code wrDone rdata) := by
  unfold State.i2cFinish
  with_reducible repeat' (first
    | assumption | apply State.drawBytes_keeps | apply State.i2cEnd_keeps | apply State.i2cRx_keeps
    | fail_if_no_progress apply Keeps.upd)

theorem execI2cTransactionEnd_keeps {σ : State} (m : Nat) (result : I2cResult) (wrDone : Nat) (rdata : List Byte) (s : State) {t : State} (h : Keeps σ s)
    (e : (execI2cTransactionEnd m result wrDone rdata s) = .next t) : Keeps σ t := by
  unfold execI2cTransactionEnd at e
  refine Keeps.next ?_ e
  with_reducible repeat' (first
    | assumption | apply State.i2cFinish_keeps | fail_if_no_progress apply Keeps.upd | split)

theorem execStretchTmo_keeps {σ : State} (m : Nat) (wrDone : Nat) (rdata : List Byte) (s : State) {t : State} (h : Keeps σ s)
    (e : (execStretchTmo m wrDone rdata s) = .next t) : Keeps σ t := by
  unfold execStretchTmo at e
  refine Keeps.next ?_ e
  with_reducible repeat' (first
    | assumption | apply State.i2cFinish_keeps | fail_if_no_progress apply Keeps.upd | split)

theorem State.pmbus_keeps {σ : State} (s : State) (tx : List Byte) (rl : Nat) (code : Nat) (wrDone : Nat) (rd : List Byte) (h : Keeps σ s) :
    Keeps σ (State.pmbus s tx rl code wrDone rd) := by
  unfold State.pmbus
  with_reducible repeat' (first
    | assumption | apply State.put_keeps | apply State.i2cFinish_keeps
    | (refine Keeps.foldl ?_ (fun _ _ _ => ?_)))

theorem State.voutCommand_keeps {σ : State} (s : State) (ack : Bool) (mv : Nat) (h : Keeps σ s) :
    Keeps σ (State.voutCommand s ack mv) := by
  unfold State.voutCommand
  with_reducible repeat' (first
    | assumption | apply State.draw_keeps | apply State.pmbus_keeps | fail_if_no_progress apply Keeps.upd
    | split)

theorem State.voutMode_keeps {σ : State} (s : State) (h : Keeps σ s) :
    Keeps σ (State.voutMode s) := by
  unfold State.voutMode
  with_reducible repeat' (first
    | assumption | apply State.draw_keeps | apply State.pmbus_keeps | fail_if_no_progress apply Keeps.upd)

theorem execExtest_keeps {σ : State} (on : Bool) (drive : List PinLevel) (s : State) {t : State} (h : Keeps σ s)
    (e : (execExtest on drive s) = .next t) : Keeps σ t := by
  unfold execExtest at e
  refine Keeps.next ?_ e
  with_reducible repeat' (first | assumption | fail_if_no_progress apply Keeps.upd)

theorem State.wipePage_keeps {σ : State} (s : State) (p : Nat) (h : Keeps σ s) :
    Keeps σ (State.wipePage s p) := by
  unfold State.wipePage
  with_reducible repeat' (first | assumption | fail_if_no_progress apply Keeps.upd)

theorem State.wipeBlocks_keeps {σ : State} (s : State) (d : Nat) (h : Keeps σ s) :
    Keeps σ (State.wipeBlocks s d) := by
  unfold State.wipeBlocks
  with_reducible repeat' (first | assumption | fail_if_no_progress apply Keeps.upd | split)

theorem State.wipe_keeps {σ : State} (s : State) (d : Nat) (h : Keeps σ s) :
    Keeps σ (State.wipe s d) := by
  unfold State.wipe
  with_reducible repeat' (first
    | assumption | apply State.wipePage_keeps | apply State.put_keeps | apply State.wipeBlocks_keeps
    | (refine Keeps.foldl ?_ (fun _ _ _ => ?_)) | (refine Keeps.foldl_snd ?_ (fun _ _ _ => ?_))
    | (refine Keeps.foldl_fst ?_ (fun _ _ _ => ?_))
    | (with_unfolding_all exact Keeps.step (by assumption) (Tab.wf_clear _ _) id id (Nat.le_refl _) (fun _ e => e) (Nat.le_refl _))
    | fail_if_no_progress apply Keeps.upd)

theorem State.leaveOn_keeps {σ : State} (s : State) (d : Nat) (h : Keeps σ s) :
    Keeps σ (State.leaveOn s d) := by
  unfold State.leaveOn
  with_reducible repeat' (first
    | assumption | apply State.masterReset_keeps | apply State.migCancelOf_keeps
    | apply State.dmaCancel_keeps | apply State.scrubStop_keeps | apply State.release_keeps
    | apply State.setActive_keeps | apply State.setBypass_keeps | (refine Keeps.foldl ?_ (fun _ _ _ => ?_))
    | (refine Keeps.foldl_snd ?_ (fun _ _ _ => ?_)) | (refine Keeps.foldl_fst ?_ (fun _ _ _ => ?_))
    | fail_if_no_progress apply Keeps.upd | split)

theorem State.domainTo_keeps {σ : State} (s : State) (d : Nat) (t : DomState) (h : Keeps σ s) :
    Keeps σ (State.domainTo s d t) := by
  unfold State.domainTo
  with_reducible repeat' (first
    | assumption | apply State.wipe_keeps | apply State.release_keeps | apply State.storeRetain_keeps
    | (refine Keeps.foldl ?_ (fun _ _ _ => ?_)) | (refine Keeps.foldl_snd ?_ (fun _ _ _ => ?_))
    | (refine Keeps.foldl_fst ?_ (fun _ _ _ => ?_)) | fail_if_no_progress apply Keeps.upd | split)

theorem State.laneReturn_keeps {σ : State} (s : State) (l : Nat) (h : Keeps σ s) :
    Keeps σ (State.laneReturn s l) := by
  unfold State.laneReturn
  with_reducible repeat' (first
    | assumption | apply State.newSequence_keeps | apply State.startAttempt_keeps
    | apply State.laneDisable_keeps | fail_if_no_progress apply Keeps.upd | split)

theorem State.ampReturn_keeps {σ : State} (s : State) (n : Nat) (h : Keeps σ s) :
    Keeps σ (State.ampReturn s n) := by
  unfold State.ampReturn
  with_reducible repeat' (first
    | assumption | apply State.ampEnter_keeps | fail_if_no_progress apply Keeps.upd | split)

theorem State.comeOn_keeps {σ : State} (s : State) (d : Nat) (h : Keeps σ s) :
    Keeps σ (State.comeOn s d) := by
  unfold State.comeOn
  with_reducible repeat' (first
    | assumption | apply State.domainTo_keeps | apply State.bankReturn_keeps | apply State.laneReturn_keeps
    | apply State.portArm_keeps | apply State.ampReturn_keeps | apply State.senseJoin_keeps
    | apply State.boostRequest_keeps | (refine Keeps.foldl ?_ (fun _ _ _ => ?_))
    | (refine Keeps.foldl_snd ?_ (fun _ _ _ => ?_)) | (refine Keeps.foldl_fst ?_ (fun _ _ _ => ?_))
    | fail_if_no_progress apply Keeps.upd | split | intro _ | dsimp only)

theorem State.pwrView_keeps {σ : State} (s : State) (h : Keeps σ s) :
    Keeps σ (State.pwrView s) := by
  unfold State.pwrView
  with_reducible repeat' (first | assumption | apply State.putB_keeps | apply State.put_keeps)

theorem State.withPwr_keeps {σ : State} (s : State) (p : Pwr) (h : Keeps σ s) :
    Keeps σ (State.withPwr s p) := by
  unfold State.withPwr
  with_reducible repeat' (first
    | assumption | apply State.pwrView_keeps | fail_if_no_progress apply Keeps.upd)

theorem State.pwrEnd_keeps {σ : State} (s : State) (result : Nat) (irq : Nat) (h : Keeps σ s) :
    Keeps σ (State.pwrEnd s result irq) := by
  unfold State.pwrEnd
  with_reducible repeat' (first
    | assumption | apply State.withPwr_keeps | apply State.raise_keeps | apply State.put_keeps
    | fail_if_no_progress apply Keeps.upd)

theorem State.lastRefuser_keeps {σ : State} (s : State) (p : Nat) (d : Nat) (cause : Nat) (h : Keeps σ s) :
    Keeps σ (State.lastRefuser s p d cause) := by
  unfold State.lastRefuser
  with_reducible repeat' (first | assumption | apply State.put_keeps)

theorem State.rollNext_keeps {σ : State} (s : State) (l : List Nat) (h : Keeps σ s) :
    Keeps σ (State.rollNext s l) := by
  unfold State.rollNext
  with_reducible repeat' (first
    | assumption | apply State.pwrEnd_keeps | apply State.chargeNow_keeps | apply State.withPwr_keeps
    | fail_if_no_progress apply Keeps.upd | split)

theorem State.pwrRefuse_keeps {σ : State} (s : State) (d : Nat) (p : Nat) (cause : Nat) (h : Keeps σ s) :
    Keeps σ (State.pwrRefuse s d p cause) := by
  unfold State.pwrRefuse
  with_reducible repeat' (first
    | assumption | apply State.lastRefuser_keeps | apply State.bump_keeps | apply State.rollNext_keeps
    | apply State.pwrEnd_keeps | fail_if_no_progress apply Keeps.upd | split | intro _ | dsimp only)

theorem State.stopNext_keeps {σ : State} (s : State) (l : List Nat) (h : Keeps σ s) :
    Keeps σ (State.stopNext s l) := by
  induction l generalizing s with
  | nil => unfold State.stopNext; exact State.pwrEnd_keeps _ _ _ h
  | cons d rest ih =>
    unfold State.stopNext
    with_reducible repeat' (first
    | assumption | apply ih | apply State.withPwr_keeps | apply State.domainTo_keeps
    | apply State.leaveOn_keeps | apply State.request_keeps | apply State.pwrRefuse_keeps | split | intro _
    | dsimp only)

theorem State.wakeNext_keeps {σ : State} (s : State) (l : List Nat) (h : Keeps σ s) :
    Keeps σ (State.wakeNext s l) := by
  unfold State.wakeNext
  with_reducible repeat' (first
    | assumption | apply State.pwrEnd_keeps | apply State.request_keeps | apply State.withPwr_keeps
    | fail_if_no_progress apply Keeps.upd | split)

theorem State.wakeStart_keeps {σ : State} (s : State) (l : List Nat) (h : Keeps σ s) :
    Keeps σ (State.wakeStart s l) := by
  unfold State.wakeStart
  with_reducible repeat' (first
    | assumption | apply State.withPwr_keeps | apply State.wakeNext_keeps
    | fail_if_no_progress apply Keeps.upd | split | intro _ | dsimp only)

theorem State.pwrGo_keeps {σ : State} (s : State) (mask : Nat) (t : Nat) (h : Keeps σ s) :
    Keeps σ (State.pwrGo s mask t) := by
  unfold State.pwrGo
  with_reducible repeat' (first
    | assumption | apply State.raise_keeps | apply State.put_keeps | apply State.log_keeps
    | apply State.withPwr_keeps | apply State.pwrEnd_keeps | apply State.wakeStart_keeps
    | apply State.stopNext_keeps | fail_if_no_progress apply Keeps.upd | split | intro _ | dsimp only)

theorem State.pwrReq_keeps {σ : State} (s : State) (v : Nat) (h : Keeps σ s) :
    Keeps σ (State.pwrReq s v) := by
  unfold State.pwrReq
  with_reducible repeat' (first
    | assumption | apply State.log_keeps | apply State.put_keeps | apply State.pwrGo_keeps
    | fail_if_no_progress apply Keeps.upd | split)

theorem execPwrReqGo_keeps {σ : State} (req : Word) (s : State) {t : State} (h : Keeps σ s)
    (e : (execPwrReqGo req s) = .next t) : Keeps σ t := by
  unfold execPwrReqGo at e
  refine Keeps.next ?_ e
  with_reducible repeat' (first
    | assumption | apply State.blockWrite_keeps | apply State.pwrReq_keeps
    | fail_if_no_progress apply Keeps.upd | split | intro _)

theorem execRetSigDone_keeps {σ : State} (s : State) {t : State} (h : Keeps σ s)
    (e : (execRetSigDone s) = .next t) : Keeps σ t := by
  unfold execRetSigDone at e
  refine Keeps.next ?_ e
  with_reducible repeat' (first
    | assumption | apply State.release_keeps | apply State.signAll_keeps | apply State.domainTo_keeps
    | apply State.leaveOn_keeps | apply State.withPwr_keeps | fail_if_no_progress apply Keeps.upd | split)

theorem execDomainStopped_keeps {σ : State} (s : State) {t : State} (h : Keeps σ s)
    (e : (execDomainStopped s) = .next t) : Keeps σ t := by
  unfold execDomainStopped at e
  refine Keeps.next ?_ e
  with_reducible repeat' (first
    | assumption | apply State.stopNext_keeps | apply State.withPwr_keeps
    | fail_if_no_progress apply Keeps.upd | split)

theorem execDomainWakeGranted_keeps {σ : State} (s : State) {t : State} (h : Keeps σ s)
    (e : (execDomainWakeGranted s) = .next t) : Keeps σ t := by
  unfold execDomainWakeGranted at e
  refine Keeps.next ?_ e
  with_reducible repeat' (first
    | assumption | apply State.withPwr_keeps | fail_if_no_progress apply Keeps.upd | split)

theorem execDomainWakeDone_keeps {σ : State} (s : State) {t : State} (h : Keeps σ s)
    (e : (execDomainWakeDone s) = .next t) : Keeps σ t := by
  unfold execDomainWakeDone at e
  refine Keeps.next ?_ e
  with_reducible repeat' (first
    | assumption | apply State.wakeNext_keeps | apply State.release_keeps | apply State.comeOn_keeps
    | apply State.rollNext_keeps | apply State.unchargeNow_keeps | fail_if_no_progress apply Keeps.upd
    | split)

theorem execLedgerGrant_keeps {σ : State} (s : State) {t : State} (h : Keeps σ s)
    (e : (execLedgerGrant s) = .next t) : Keeps σ t := by
  unfold execLedgerGrant at e
  refine Keeps.next ?_ e
  with_reducible repeat' (first
    | assumption | apply State.scrubGranted_keeps | apply State.ledgerCycle_keeps
    | fail_if_no_progress apply Keeps.upd | split)

theorem State.grantTimeout_keeps {σ : State} (s : State) (kind : Nat) (inst : Nat) (h : Keeps σ s) :
    Keeps σ (State.grantTimeout s kind inst) := by
  unfold State.grantTimeout
  with_reducible repeat' (first
    | assumption | apply State.pwrEnd_keeps | apply State.lastRefuser_keeps | apply State.trainFail_keeps
    | apply State.scrubLate_keeps | apply State.pwrRefuse_keeps | apply State.boostTimeout_keeps
    | apply State.migCancel_keeps | fail_if_no_progress apply Keeps.upd | split)

theorem execLedgerTimeout_keeps {σ : State} (kind : Nat) (inst : Nat) (s : State) {t : State} (h : Keeps σ s)
    (e : (execLedgerTimeout kind inst s) = .next t) : Keeps σ t := by
  unfold execLedgerTimeout at e
  refine Keeps.next ?_ e
  with_reducible repeat' (first
    | assumption | apply State.scrubGranted_keeps | apply State.ledgerCycle_keeps
    | apply State.grantTimeout_keeps | apply State.ledgerExpire_keeps | fail_if_no_progress apply Keeps.upd
    | split | intro _ | dsimp only)

theorem State.alarm_keeps {σ : State} (s : State) (n : Nat) (hi : Int) (h : Keeps σ s) :
    Keeps σ (State.alarm s n hi) := by
  unfold State.alarm
  with_reducible repeat' (first
    | assumption | apply State.raise_keeps | apply State.putB_keeps | fail_if_no_progress apply Keeps.upd
    | split | intro _ | dsimp only)

theorem execThermalSample_keeps {σ : State} (temps : List Int) (s : State) {t : State} (h : Keeps σ s)
    (e : (execThermalSample temps s) = .next t) : Keeps σ t := by
  unfold execThermalSample at e
  refine Keeps.next ?_ e
  with_reducible repeat' (first
    | assumption | apply State.put_keeps | apply State.putI_keeps | apply State.alarm_keeps
    | apply State.loseDevice_keeps | fail_if_no_progress apply Keeps.upd | split)

theorem execVcoreEvaluate_keeps {σ : State} (wantMv : Nat) (s : State) {t : State} (h : Keeps σ s)
    (e : (execVcoreEvaluate wantMv s) = .next t) : Keeps σ t := by
  unfold execVcoreEvaluate at e
  refine Keeps.next ?_ e
  with_reducible repeat' (first | assumption | fail_if_no_progress apply Keeps.upd | split)

theorem execVcoreMove_keeps {σ : State} (acks : List Bool) (s : State) {t : State} (h : Keeps σ s)
    (e : (execVcoreMove acks s) = .next t) : Keeps σ t := by
  unfold execVcoreMove at e
  refine Keeps.next ?_ e
  with_reducible repeat' (first
    | assumption | apply State.voutCommand_keeps | apply State.put_keeps | apply State.wakeNext_keeps
    | (refine Keeps.foldl ?_ (fun _ _ _ => ?_)) | (refine Keeps.foldl_snd ?_ (fun _ _ _ => ?_))
    | (refine Keeps.foldl_fst ?_ (fun _ _ _ => ?_)) | fail_if_no_progress apply Keeps.upd | split | intro _
    | dsimp only)

theorem State.mbxPut1_keeps {σ : State} (s : State) (i : Nat) (v : Nat) (h : Keeps σ s) :
    Keeps σ (State.mbxPut1 s i v) := by
  unfold State.mbxPut1
  with_reducible repeat' (first | assumption | apply State.put_keeps)

theorem State.mbxPut_keeps {σ : State} (s : State) (l : List Nat) (h : Keeps σ s) :
    Keeps σ (State.mbxPut s l) := by
  unfold State.mbxPut
  with_reducible repeat' (first
    | assumption | apply State.mbxPut1_keeps | (refine Keeps.foldl ?_ (fun _ _ _ => ?_)))

theorem State.flashPut_keeps {σ : State} (s : State) (l : List (Nat × Byte)) (h : Keeps σ s) :
    Keeps σ (State.flashPut s l) := by
  unfold State.flashPut
  with_reducible repeat' (first
    | assumption
    | (with_unfolding_all exact Keeps.step h id id id (Nat.le_refl _) (fun _ e => e) (Nat.le_refl _)))

theorem State.flashPart_keeps {σ : State} (s : State) (l : List (Nat × Byte)) (h : Keeps σ s) :
    Keeps σ (State.flashPart s l) := by
  unfold State.flashPart
  with_reducible repeat' (first
    | assumption | apply State.flashPut_keeps
    | (with_unfolding_all exact Keeps.step (State.flashPut_keeps _ _ h) id id id (Nat.le_refl _) (fun _ e => e) (Nat.le_trans (Nat.le_add_right _ _) (Nat.le_add_right _ _))))

theorem State.mbxEnd_keeps {σ : State} (s : State) (status : Nat) (result : List Nat) (h : Keeps σ s) :
    Keeps σ (State.mbxEnd s status result) := by
  unfold State.mbxEnd
  with_reducible repeat' (first
    | assumption | apply State.mbxPut_keeps | apply State.put_keeps | apply State.putB_keeps
    | apply State.raise_keeps
    | (refine Keeps.step ?h0 ?_ ?_ ?_ ?_ ?_ ?_ <;> [skip; (with_unfolding_all (first | exact id | exact Nat.le_refl _ | exact fun _ e => e | exact Nat.le_add_right _ _ | exact Tab.wf_clear _ _ | exact Tab.wf_copy _ _ _ | exact fun _ => Nat.zero_lt_succ _ | exact Time.nextCQ_lt _ | exact Nat.le_of_not_lt (by assumption) | exact fun k e => absurd (by rw [e]; rfl) (by assumption))); (with_unfolding_all (first | exact id | exact Nat.le_refl _ | exact fun _ e => e | exact Nat.le_add_right _ _ | exact Tab.wf_clear _ _ | exact Tab.wf_copy _ _ _ | exact fun _ => Nat.zero_lt_succ _ | exact Time.nextCQ_lt _ | exact Nat.le_of_not_lt (by assumption) | exact fun k e => absurd (by rw [e]; rfl) (by assumption))); (with_unfolding_all (first | exact id | exact Nat.le_refl _ | exact fun _ e => e | exact Nat.le_add_right _ _ | exact Tab.wf_clear _ _ | exact Tab.wf_copy _ _ _ | exact fun _ => Nat.zero_lt_succ _ | exact Time.nextCQ_lt _ | exact Nat.le_of_not_lt (by assumption) | exact fun k e => absurd (by rw [e]; rfl) (by assumption))); (with_unfolding_all (first | exact id | exact Nat.le_refl _ | exact fun _ e => e | exact Nat.le_add_right _ _ | exact Tab.wf_clear _ _ | exact Tab.wf_copy _ _ _ | exact fun _ => Nat.zero_lt_succ _ | exact Time.nextCQ_lt _ | exact Nat.le_of_not_lt (by assumption) | exact fun k e => absurd (by rw [e]; rfl) (by assumption))); (with_unfolding_all (first | exact id | exact Nat.le_refl _ | exact fun _ e => e | exact Nat.le_add_right _ _ | exact Tab.wf_clear _ _ | exact Tab.wf_copy _ _ _ | exact fun _ => Nat.zero_lt_succ _ | exact Time.nextCQ_lt _ | exact Nat.le_of_not_lt (by assumption) | exact fun k e => absurd (by rw [e]; rfl) (by assumption))); (with_unfolding_all (first | exact id | exact Nat.le_refl _ | exact fun _ e => e | exact Nat.le_add_right _ _ | exact Tab.wf_clear _ _ | exact Tab.wf_copy _ _ _ | exact fun _ => Nat.zero_lt_succ _ | exact Time.nextCQ_lt _ | exact Nat.le_of_not_lt (by assumption) | exact fun k e => absurd (by rw [e]; rfl) (by assumption)))]))

theorem State.freeBytes_keeps {σ : State} (s : State) (n : Nat) (h : Keeps σ s) :
    Keeps σ (State.freeBytes s n).2 := by
  unfold State.freeBytes
  with_reducible repeat' (first
    | assumption
    | (with_unfolding_all exact Keeps.step h id id id (Nat.le_refl _) (fun _ e => e) (Nat.le_trans (Nat.le_add_right _ _) (Nat.le_add_right _ _))))

theorem State.mbxVersion_keeps {σ : State} (s : State) (h : Keeps σ s) :
    Keeps σ (State.mbxVersion s) := by
  unfold State.mbxVersion
  with_reducible repeat' (first | assumption | apply State.mbxEnd_keeps)

theorem State.mbxThermal_keeps {σ : State} (s : State) (h : Keeps σ s) :
    Keeps σ (State.mbxThermal s) := by
  unfold State.mbxThermal
  with_reducible repeat' (first | assumption | apply State.mbxEnd_keeps)

theorem State.mbxAlarm_keeps {σ : State} (s : State) (h : Keeps σ s) :
    Keeps σ (State.mbxAlarm s) := by
  unfold State.mbxAlarm
  with_reducible repeat' (first | assumption | apply State.put_keeps | apply State.mbxEnd_keeps)

theorem State.slotSeen_keeps {σ : State} (s : State) (b : Bool) (valid : Bool) (h : Keeps σ s) :
    Keeps σ (State.slotSeen s b valid) := by
  unfold State.slotSeen
  with_reducible repeat' (first | assumption | apply State.putB_keeps)

theorem State.mbxChallenge_keeps {σ : State} (s : State) (h : Keeps σ s) :
    Keeps σ (State.mbxChallenge s) := by
  unfold State.mbxChallenge
  with_reducible repeat' (first
    | assumption | apply State.freeBytes_keeps | apply State.mbxEnd_keeps
    | (with_unfolding_all exact Keeps.step h id id id (Nat.le_refl _) (fun _ e => e) (Nat.le_refl _))
    | (refine Keeps.step ?h0 ?_ ?_ ?_ ?_ ?_ ?_ <;> [skip; (with_unfolding_all (first | exact id | exact Nat.le_refl _ | exact fun _ e => e | exact Nat.le_add_right _ _ )); (with_unfolding_all (first | exact id | exact Nat.le_refl _ | exact fun _ e => e | exact Nat.le_add_right _ _ )); (with_unfolding_all (first | exact id | exact Nat.le_refl _ | exact fun _ e => e | exact Nat.le_add_right _ _ )); (with_unfolding_all (first | exact id | exact Nat.le_refl _ | exact fun _ e => e | exact Nat.le_add_right _ _ )); (with_unfolding_all (first | exact id | exact Nat.le_refl _ | exact fun _ e => e | exact Nat.le_add_right _ _ )); (with_unfolding_all (first | exact id | exact Nat.le_refl _ | exact fun _ e => e | exact Nat.le_add_right _ _ ))]))

theorem State.mbxResponse_keeps {σ : State} (s : State) (h : Keeps σ s) :
    Keeps σ (State.mbxResponse s) := by
  unfold State.mbxResponse
  with_reducible repeat' (first
    | assumption | apply State.mbxEnd_keeps | apply State.raise_keeps | apply State.maxUp_keeps
    | (with_unfolding_all exact Keeps.step h id id id (Nat.le_refl _) (fun _ e => e) (Nat.le_refl _))
    | fail_if_no_progress apply Keeps.upd | split | intro _ | dsimp only)

theorem State.mbxKey_keeps {σ : State} (s : State) (h : Keeps σ s) : Keeps σ (State.mbxKey s) := by
  unfold State.mbxKey
  split
  · exact State.mbxEnd_keeps _ _ _ h
  · rename_i hk
    exact State.mbxEnd_keeps _ _ _ (State.putB_keeps _ _ _ _ (h.withMgmt _ (Nat.le_refl _)
      (fun k e => absurd (by rw [e]; rfl) hk)))

theorem State.mbxRollback_keeps {σ : State} (s : State) (h : Keeps σ s) :
    Keeps σ (State.mbxRollback s) := by
  unfold State.mbxRollback
  with_reducible repeat' (first
    | assumption | apply State.mbxEnd_keeps
    | (with_unfolding_all exact Keeps.step h id id id (Nat.le_of_not_lt (by assumption)) (fun _ e => e) (Nat.le_refl _))
    | fail_if_no_progress apply Keeps.upd | split)

theorem State.mbxFlash_keeps {σ : State} (s : State) (op : Nat) (len : Nat) (good : Bool) (h : Keeps σ s) :
    Keeps σ (State.mbxFlash s op len good) := by
  unfold State.mbxFlash
  with_reducible repeat' (first
    | assumption | apply State.mbxEnd_keeps | apply State.flashPut_keeps | apply State.flashPart_keeps
    | fail_if_no_progress apply Keeps.upd | split | intro _ | dsimp only)

theorem State.mgmtRestart_keeps {σ : State} (s : State) (slot : Option Bool) (h : Keeps σ s) :
    Keeps σ (State.mgmtRestart s slot) := by
  unfold State.mgmtRestart
  with_reducible repeat' (first
    | assumption | apply State.masterReset_keeps | apply State.putB_keeps
    | (with_unfolding_all exact Keeps.step h id id id (Nat.le_refl _) (fun _ e => e) (Nat.le_refl _))
    | (refine Keeps.step ?h0 ?_ ?_ ?_ ?_ ?_ ?_ <;> [skip; (with_unfolding_all (first | exact id | exact Nat.le_refl _ | exact fun _ e => e | exact Nat.le_add_right _ _ )); (with_unfolding_all (first | exact id | exact Nat.le_refl _ | exact fun _ e => e | exact Nat.le_add_right _ _ )); (with_unfolding_all (first | exact id | exact Nat.le_refl _ | exact fun _ e => e | exact Nat.le_add_right _ _ )); (with_unfolding_all (first | exact id | exact Nat.le_refl _ | exact fun _ e => e | exact Nat.le_add_right _ _ )); (with_unfolding_all (first | exact id | exact Nat.le_refl _ | exact fun _ e => e | exact Nat.le_add_right _ _ )); (with_unfolding_all (first | exact id | exact Nat.le_refl _ | exact fun _ e => e | exact Nat.le_add_right _ _ ))]))

theorem Keeps.ite {σ : State} {c : Prop} [Decidable c] {a b : State} (ha : Keeps σ a) (hb : Keeps σ b) :
    Keeps σ (if c then a else b) := by
  split
  · exact ha
  · exact hb

theorem Keeps.withPref {σ s : State} (b : Bool) (h : Keeps σ s) :
    Keeps σ { s with mgmt := { s.mgmt with prefB := b } } := h.withMgmt _ (Nat.le_refl _) (fun _ e => e)

theorem State.mbxRun_keeps {σ : State} (s : State) (op : Nat) (len : Nat) (verdict : Bool) (h : Keeps σ s) :
    Keeps σ (State.mbxRun s op len verdict) := by
  have e {t : State} (c : Nat) (l : List Nat) (ht : Keeps σ t) := State.mbxEnd_keeps t c l ht
  unfold State.mbxRun
  with_reducible
  repeat' refine Keeps.ite ?_ ?_
  · exact e _ _ h
  · exact e _ _ h
  · exact State.mbxVersion_keeps _ h
  · exact e _ _ h
  · exact e _ _ h
  · exact e _ _ h
  · exact State.mbxFlash_keeps _ _ _ _ h
  · exact e _ _ (State.slotSeen_keeps _ _ _ h)
  · exact e _ _ (h.withPref _)
  · exact e _ _ h
  · exact State.mgmtRestart_keeps _ _ (State.slotSeen_keeps _ _ _ h)
  · exact e _ _ (State.slotSeen_keeps _ _ _ h)
  · exact State.mbxThermal_keeps _ h
  · exact State.mbxAlarm_keeps _ h
  · exact State.mbxChallenge_keeps _ h
  · exact State.mbxResponse_keeps _ h
  · exact State.mbxKey_keeps _ h
  · exact State.mbxRollback_keeps _ h

theorem Keeps.withRunning {σ s : State} (r : Option (Nat × Nat)) (h : Keeps σ s) :
    Keeps σ { s with mgmt := { s.mgmt with running := r } } := h.withMgmt _ (Nat.le_refl _) (fun _ e => e)

theorem State.mbxCmd_keeps {σ : State} (s : State) (v : Nat) (h : Keeps σ s) :
    Keeps σ (State.mbxCmd s v) := by
  unfold State.mbxCmd
  with_reducible repeat' (first
    | assumption | apply State.log_keeps | apply State.put_keeps | apply State.putB_keeps
    | apply State.mbxEnd_keeps | split | dsimp only | apply Keeps.withRunning)

theorem State.mbxData_keeps {σ : State} (s : State) (k : Nat) (v : Nat) (h : Keeps σ s) :
    Keeps σ (State.mbxData s k v) := by
  unfold State.mbxData
  with_reducible repeat' (first
    | assumption | apply State.log_keeps | apply State.put_keeps | fail_if_no_progress apply Keeps.upd
    | split)

theorem State.mbxGo_keeps {σ : State} (s : State) (op : Nat) (len : Byte) (tag : Byte) (h : Keeps σ s) :
    Keeps σ (State.mbxGo s op len tag) := by
  unfold State.mbxGo
  with_reducible repeat' (first
    | assumption | apply State.blockWrite_keeps | apply State.mbxCmd_keeps
    | fail_if_no_progress apply Keeps.upd | split | intro _)

theorem execGetVersion_keeps {σ : State} (len : Byte) (tag : Byte) (s : State) {t : State} (h : Keeps σ s)
    (e : (execGetVersion len tag s) = .next t) : Keeps σ t := by
  unfold execGetVersion at e
  refine Keeps.next ?_ e
  with_reducible repeat' (first | assumption | apply State.mbxGo_keeps)

theorem execGetUid_keeps {σ : State} (len : Byte) (tag : Byte) (s : State) {t : State} (h : Keeps σ s)
    (e : (execGetUid len tag s) = .next t) : Keeps σ t := by
  unfold execGetUid at e
  refine Keeps.next ?_ e
  with_reducible repeat' (first | assumption | apply State.mbxGo_keeps)

theorem execFlashRead_keeps {σ : State} (len : Byte) (tag : Byte) (s : State) {t : State} (h : Keeps σ s)
    (e : (execFlashRead len tag s) = .next t) : Keeps σ t := by
  unfold execFlashRead at e
  refine Keeps.next ?_ e
  with_reducible repeat' (first | assumption | apply State.mbxGo_keeps)

theorem execFlashWrite_keeps {σ : State} (len : Byte) (tag : Byte) (s : State) {t : State} (h : Keeps σ s)
    (e : (execFlashWrite len tag s) = .next t) : Keeps σ t := by
  unfold execFlashWrite at e
  refine Keeps.next ?_ e
  with_reducible repeat' (first | assumption | apply State.mbxGo_keeps)

theorem execFlashErase_keeps {σ : State} (len : Byte) (tag : Byte) (s : State) {t : State} (h : Keeps σ s)
    (e : (execFlashErase len tag s) = .next t) : Keeps σ t := by
  unfold execFlashErase at e
  refine Keeps.next ?_ e
  with_reducible repeat' (first | assumption | apply State.mbxGo_keeps)

theorem execImageVerify_keeps {σ : State} (len : Byte) (tag : Byte) (s : State) {t : State} (h : Keeps σ s)
    (e : (execImageVerify len tag s) = .next t) : Keeps σ t := by
  unfold execImageVerify at e
  refine Keeps.next ?_ e
  with_reducible repeat' (first | assumption | apply State.mbxGo_keeps)

theorem execImageSetPref_keeps {σ : State} (len : Byte) (tag : Byte) (s : State) {t : State} (h : Keeps σ s)
    (e : (execImageSetPref len tag s) = .next t) : Keeps σ t := by
  unfold execImageSetPref at e
  refine Keeps.next ?_ e
  with_reducible repeat' (first | assumption | apply State.mbxGo_keeps)

theorem execImageSwitch_keeps {σ : State} (len : Byte) (tag : Byte) (s : State) {t : State} (h : Keeps σ s)
    (e : (execImageSwitch len tag s) = .next t) : Keeps σ t := by
  unfold execImageSwitch at e
  refine Keeps.next ?_ e
  with_reducible repeat' (first | assumption | apply State.mbxGo_keeps)

theorem execThermalRead_keeps {σ : State} (len : Byte) (tag : Byte) (s : State) {t : State} (h : Keeps σ s)
    (e : (execThermalRead len tag s) = .next t) : Keeps σ t := by
  unfold execThermalRead at e
  refine Keeps.next ?_ e
  with_reducible repeat' (first | assumption | apply State.mbxGo_keeps)

theorem execThermalSetAlarm_keeps {σ : State} (len : Byte) (tag : Byte) (s : State) {t : State} (h : Keeps σ s)
    (e : (execThermalSetAlarm len tag s) = .next t) : Keeps σ t := by
  unfold execThermalSetAlarm at e
  refine Keeps.next ?_ e
  with_reducible repeat' (first | assumption | apply State.mbxGo_keeps)

theorem execDebugChallenge_keeps {σ : State} (len : Byte) (tag : Byte) (s : State) {t : State} (h : Keeps σ s)
    (e : (execDebugChallenge len tag s) = .next t) : Keeps σ t := by
  unfold execDebugChallenge at e
  refine Keeps.next ?_ e
  with_reducible repeat' (first | assumption | apply State.mbxGo_keeps)

theorem execDebugResponse_keeps {σ : State} (len : Byte) (tag : Byte) (s : State) {t : State} (h : Keeps σ s)
    (e : (execDebugResponse len tag s) = .next t) : Keeps σ t := by
  unfold execDebugResponse at e
  refine Keeps.next ?_ e
  with_reducible repeat' (first | assumption | apply State.mbxGo_keeps)

theorem execDebugKeyProgram_keeps {σ : State} (len : Byte) (tag : Byte) (s : State) {t : State} (h : Keeps σ s)
    (e : (execDebugKeyProgram len tag s) = .next t) : Keeps σ t := by
  unfold execDebugKeyProgram at e
  refine Keeps.next ?_ e
  with_reducible repeat' (first | assumption | apply State.mbxGo_keeps)

theorem execRollbackAdvance_keeps {σ : State} (len : Byte) (tag : Byte) (s : State) {t : State} (h : Keeps σ s)
    (e : (execRollbackAdvance len tag s) = .next t) : Keeps σ t := by
  unfold execRollbackAdvance at e
  refine Keeps.next ?_ e
  with_reducible repeat' (first | assumption | apply State.mbxGo_keeps)

theorem execMbxCommandEnd_keeps {σ : State} (verdict : Bool) (s : State) {t : State} (h : Keeps σ s)
    (e : (execMbxCommandEnd verdict s) = .next t) : Keeps σ t := by
  unfold execMbxCommandEnd at e
  refine Keeps.next ?_ e
  with_reducible repeat' (first
    | assumption | apply State.mbxRun_keeps | fail_if_no_progress apply Keeps.upd | split)

theorem execWatchdogRestart_keeps {σ : State} (s : State) {t : State} (h : Keeps σ s)
    (e : (execWatchdogRestart s) = .next t) : Keeps σ t := by
  unfold execWatchdogRestart at e
  refine Keeps.next ?_ e
  with_reducible repeat' (first
    | assumption | apply State.mgmtRestart_keeps | apply State.raise_keeps | apply State.bump_keeps
    | fail_if_no_progress apply Keeps.upd | split)

theorem execControllerRestartDone_keeps {σ : State} (s : State) {t : State} (h : Keeps σ s)
    (e : (execControllerRestartDone s) = .next t) : Keeps σ t := by
  unfold execControllerRestartDone at e
  refine Keeps.next ?_ e
  with_reducible repeat' (first
    | assumption | apply State.raise_keeps | apply State.mbxEnd_keeps | apply State.putB_keeps
    | apply State.flashPart_keeps
    | (with_unfolding_all exact Keeps.step h id id id (Nat.le_refl _) (fun _ e => e) (Nat.le_refl _))
    | fail_if_no_progress apply Keeps.upd | split | intro _ | dsimp only)

theorem State.afterReset_keeps {σ : State} (s : State) (h : Keeps σ s) : Keeps σ (State.afterReset s) := by
  unfold State.afterReset
  apply State.put_keeps
  apply State.putB_keeps
  exact h.trans ⟨rfl, fun _ => ⟨rfl, Nat.zero_lt_succ _, Nat.zero_lt_succ _⟩, Nat.le_refl _, fun _ e => e, Nat.le_refl _⟩

theorem State.enterReset_keeps {σ : State} (s : State) (h : Keeps σ s) :
    Keeps σ (State.enterReset s) := by
  unfold State.enterReset
  with_reducible repeat' (first
    | assumption | apply State.afterReset_keeps | fail_if_no_progress apply Keeps.upd)

theorem State.leaveReset_keeps {σ : State} (s : State) (h : Keeps σ s) :
    Keeps σ (State.leaveReset s) := by
  unfold State.leaveReset
  with_reducible repeat' (first
    | assumption | apply State.afterReset_keeps | fail_if_no_progress apply Keeps.upd | split)

theorem execResetNLow_keeps {σ : State} (ns : Nat) (s : State) {t : State} (h : Keeps σ s)
    (e : (execResetNLow ns s) = .next t) : Keeps σ t := by
  unfold execResetNLow at e
  refine Keeps.next ?_ e
  with_reducible repeat' (first
    | assumption | apply State.enterReset_keeps | apply State.draw_keeps
    | fail_if_no_progress apply Keeps.upd | split | intro _ | dsimp only)

theorem execResetNRise_keeps {σ : State} (s : State) {t : State} (h : Keeps σ s)
    (e : (execResetNRise s) = .next t) : Keeps σ t := by
  unfold execResetNRise at e
  refine Keeps.next ?_ e
  with_reducible repeat' (first
    | assumption | apply State.leaveReset_keeps | fail_if_no_progress apply Keeps.upd | split)

theorem State.devRst_keeps {σ : State} (s : State) (key : Nat) (h : Keeps σ s) :
    Keeps σ (State.devRst s key) := by
  unfold State.devRst
  with_reducible repeat' (first
    | assumption | apply State.enterReset_keeps | apply State.log_keeps
    | fail_if_no_progress apply Keeps.upd | split)

theorem execDevRst_keeps {σ : State} (key : Word) (s : State) {t : State} (h : Keeps σ s)
    (e : (execDevRst key s) = .next t) : Keeps σ t := by
  unfold execDevRst at e
  refine Keeps.next ?_ e
  with_reducible repeat' (first
    | assumption | apply State.blockWrite_keeps | apply State.devRst_keeps
    | fail_if_no_progress apply Keeps.upd | split | intro _)

theorem execDevRstRelease_keeps {σ : State} (s : State) {t : State} (h : Keeps σ s)
    (e : (execDevRstRelease s) = .next t) : Keeps σ t := by
  unfold execDevRstRelease at e
  refine Keeps.next ?_ e
  with_reducible repeat' (first
    | assumption | apply State.leaveReset_keeps | fail_if_no_progress apply Keeps.upd | split)

theorem execRootPllLock_keeps {σ : State} (s : State) {t : State} (h : Keeps σ s)
    (e : (execRootPllLock s) = .next t) : Keeps σ t := by
  unfold execRootPllLock at e
  refine Keeps.next ?_ e
  with_reducible repeat' (first
    | assumption | apply State.putB_keeps | apply State.wakeNext_keeps | apply State.rollNext_keeps
    | fail_if_no_progress apply Keeps.upd | split | intro _ | dsimp only)

theorem State.loseDomains_keeps {σ : State} (s : State) (h : Keeps σ s) :
    Keeps σ (State.loseDomains s) := by
  unfold State.loseDomains
  with_reducible repeat' (first | assumption | fail_if_no_progress apply Keeps.upd)

theorem execRootUnlock_keeps {σ : State} (s : State) {t : State} (h : Keeps σ s)
    (e : (execRootUnlock s) = .next t) : Keeps σ t := by
  unfold execRootUnlock at e
  refine Keeps.next ?_ e
  with_reducible repeat' (first
    | assumption | apply State.loseDomains_keeps | apply State.raise_keeps | apply State.putB_keeps
    | fail_if_no_progress apply Keeps.upd | split)

theorem execXoLoss_keeps {σ : State} (s : State) {t : State} (h : Keeps σ s)
    (e : (execXoLoss s) = .next t) : Keeps σ t := by
  unfold execXoLoss at e
  refine Keeps.next ?_ e
  with_reducible repeat' (first
    | assumption | apply State.loseDomains_keeps | apply State.raise_keeps | apply State.putB_keeps
    | fail_if_no_progress apply Keeps.upd | split)

theorem State.bootFrom_keeps {σ : State} (s : State) (b : Bool) (mv : Nat) (h : Keeps σ s) :
    Keeps σ (State.bootFrom s b mv) := by
  unfold State.bootFrom
  with_reducible repeat' (first
    | assumption | apply State.put_keeps | apply State.voutCommand_keeps | apply State.voutMode_keeps
    | apply State.putB_keeps | fail_if_no_progress apply Keeps.upd)

theorem execBootReady_keeps {σ : State} (vcoreMv : Nat) (s : State) {t : State} (h : Keeps σ s)
    (e : (execBootReady vcoreMv s) = .next t) : Keeps σ t := by
  unfold execBootReady at e
  refine Keeps.next ?_ e
  with_reducible repeat' (first
    | assumption | apply State.slotSeen_keeps | apply State.bootFrom_keeps | apply State.put_keeps
    | fail_if_no_progress apply Keeps.upd | split | intro _ | dsimp only)

theorem State.setBit_keeps {σ : State} (s : State) (p : Nat) (f : Fld) (b : Nat) (v : Bool) (h : Keeps σ s) :
    Keeps σ (State.setBit s p f b v) := by
  unfold State.setBit
  with_reducible repeat' (first
    | assumption | apply State.put_keeps | fail_if_no_progress apply Keeps.upd | split | intro _
    | dsimp only)

theorem State.sendMessage_keeps {σ : State} (s : State) (v : Nat) (h : Keeps σ s) :
    Keeps σ (State.sendMessage s v) := by
  unfold State.sendMessage
  with_reducible repeat' (first
    | assumption | apply State.setBit_keeps | fail_if_no_progress apply Keeps.upd | split)

theorem State.pbaSettle_keeps {σ : State} (s : State) (h : Keeps σ s) :
    Keeps σ (State.pbaSettle s) := by
  unfold State.pbaSettle
  with_reducible repeat' (first
    | assumption | apply State.setBit_keeps | (refine Keeps.foldl ?_ (fun _ _ _ => ?_))
    | (refine Keeps.foldl_snd ?_ (fun _ _ _ => ?_)) | (refine Keeps.foldl_fst ?_ (fun _ _ _ => ?_))
    | fail_if_no_progress apply Keeps.upd | split)

theorem State.vecAssert_keeps {σ : State} (s : State) (v : Nat) (h : Keeps σ s) :
    Keeps σ (State.vecAssert s v) := by
  unfold State.vecAssert
  with_reducible repeat' (first
    | assumption | apply State.put_keeps | apply State.sendMessage_keeps | apply State.setBit_keeps)

theorem State.sendWaiting_keeps {σ : State} (s : State) (h : Keeps σ s) :
    Keeps σ (State.sendWaiting s) := by
  unfold State.sendWaiting
  with_reducible repeat' (first
    | assumption | apply State.sendMessage_keeps | (refine Keeps.foldl ?_ (fun _ _ _ => ?_))
    | (refine Keeps.foldl_snd ?_ (fun _ _ _ => ?_)) | (refine Keeps.foldl_fst ?_ (fun _ _ _ => ?_))
    | fail_if_no_progress apply Keeps.upd | split)

theorem State.endService_keeps {σ : State} (s : State) (reg : Nat) (bits_ : Nat) (h : Keeps σ s) :
    Keeps σ (State.endService s reg bits_) := by
  unfold State.endService
  with_reducible repeat' (first
    | assumption | apply State.setBit_keeps | apply State.vecAssert_keeps
    | (refine Keeps.foldl ?_ (fun _ _ _ => ?_)) | (refine Keeps.foldl_snd ?_ (fun _ _ _ => ?_))
    | (refine Keeps.foldl_fst ?_ (fun _ _ _ => ?_)) | fail_if_no_progress apply Keeps.upd | split | intro _
    | dsimp only)

theorem execVectorAssert_keeps {σ : State} (v : Nat) (s : State) {t : State} (h : Keeps σ s)
    (e : (execVectorAssert v s) = .next t) : Keeps σ t := by
  unfold execVectorAssert at e
  refine Keeps.next ?_ e
  with_reducible repeat' (first
    | assumption | apply State.vecAssert_keeps | fail_if_no_progress apply Keeps.upd | split)

theorem execVecEoi_keeps {σ : State} (reg : Nat) (bits : Word) (s : State) {t : State} (h : Keeps σ s)
    (e : (execVecEoi reg bits s) = .next t) : Keeps σ t := by
  unfold execVecEoi at e
  refine Keeps.next ?_ e
  with_reducible repeat' (first
    | assumption | apply State.blockWrite_keeps | apply State.endService_keeps
    | fail_if_no_progress apply Keeps.upd | split | intro _)

theorem State.actArm_keeps {σ : State} (s : State) (k : Nat) (h : Keeps σ s) :
    Keeps σ (State.actArm s k) := by
  unfold State.actArm
  with_reducible repeat' (first
    | assumption | apply State.putB_keeps | apply State.log_keeps | apply State.bump_keeps
    | apply State.raise_keeps | (refine Keeps.foldl ?_ (fun _ _ _ => ?_))
    | (refine Keeps.foldl_snd ?_ (fun _ _ _ => ?_)) | (refine Keeps.foldl_fst ?_ (fun _ _ _ => ?_))
    | fail_if_no_progress apply Keeps.upd | split | intro _ | dsimp only)

theorem State.actCtrl_keeps {σ : State} (s : State) (k : Nat) (v : Nat) (h : Keeps σ s) :
    Keeps σ (State.actCtrl s k v) := by
  unfold State.actCtrl
  with_reducible repeat' (first
    | assumption | apply State.putB_keeps | apply State.log_keeps | apply State.put_keeps
    | apply State.actArm_keeps | fail_if_no_progress apply Keeps.upd | split | intro _ | dsimp only)

theorem execArm_keeps {σ : State} (k : Nat) (ctrl : Word) (s : State) {t : State} (h : Keeps σ s)
    (e : (execArm k ctrl s) = .next t) : Keeps σ t := by
  unfold execArm at e
  refine Keeps.next ?_ e
  with_reducible repeat' (first
    | assumption | apply State.blockWrite_keeps | apply State.actCtrl_keeps
    | fail_if_no_progress apply Keeps.upd | split | intro _)

theorem execDisarm_keeps {σ : State} (k : Nat) (ctrl : Word) (s : State) {t : State} (h : Keeps σ s)
    (e : (execDisarm k ctrl s) = .next t) : Keeps σ t := by
  unfold execDisarm at e
  refine Keeps.next ?_ e
  with_reducible repeat' (first
    | assumption | apply State.blockWrite_keeps | apply State.actCtrl_keeps
    | fail_if_no_progress apply Keeps.upd | split | intro _)

theorem State.actDone_keeps {σ : State} (s : State) (k : Nat) (h : Keeps σ s) :
    Keeps σ (State.actDone s k) := by
  unfold State.actDone
  with_reducible repeat' (first
    | assumption | apply State.putB_keeps | apply State.put_keeps | apply State.raise_keeps
    | fail_if_no_progress apply Keeps.upd | split | intro _ | dsimp only)

theorem State.actRefused_keeps {σ : State} (s : State) (k : Nat) (h : Keeps σ s) :
    Keeps σ (State.actRefused s k) := by
  unfold State.actRefused
  with_reducible repeat' (first
    | assumption | apply State.putB_keeps | apply State.raise_keeps | apply State.bump_keeps)

theorem State.actCommit_keeps {σ : State} (s : State) (k : Nat) (h : Keeps σ s) :
    Keeps σ (State.actCommit s k) := by
  unfold State.actCommit
  with_reducible repeat' (first
    | assumption | apply State.actRefused_keeps | apply State.log_keeps | apply State.put_keeps
    | apply State.actDone_keeps | apply State.commitCtrl_keeps | fail_if_no_progress apply Keeps.upd
    | split)

theorem execSchedCommit_keeps {σ : State} (k : Nat) (s : State) {t : State} (h : Keeps σ s)
    (e : (execSchedCommit k s) = .next t) : Keeps σ t := by
  unfold execSchedCommit at e
  refine Keeps.next ?_ e
  with_reducible repeat' (first
    | assumption | apply State.actCommit_keeps | fail_if_no_progress apply Keeps.upd | split)

theorem execSchedPortStart_keeps {σ : State} (k : Nat) (s : State) {t : State} (h : Keeps σ s)
    (e : (execSchedPortStart k s) = .next t) : Keeps σ t := by
  unfold execSchedPortStart at e
  refine Keeps.next ?_ e
  with_reducible repeat' (first
    | assumption | apply State.actDone_keeps | apply State.portStartGroups_keeps
    | fail_if_no_progress apply Keeps.upd | split)

theorem execSchedPhaseStep_keeps {σ : State} (k : Nat) (s : State) {t : State} (h : Keeps σ s)
    (e : (execSchedPhaseStep k s) = .next t) : Keeps σ t := by
  unfold execSchedPhaseStep at e
  refine Keeps.next ?_ e
  with_reducible repeat' (first
    | assumption | apply State.put_keeps | apply State.actDone_keeps | apply State.pstepCtrl_keeps
    | fail_if_no_progress apply Keeps.upd | split)

theorem State.actMute_keeps {σ : State} (s : State) (k : Nat) (on : Bool) (h : Keeps σ s) :
    Keeps σ (State.actMute s k on) := by
  unfold State.actMute
  with_reducible repeat' (first
    | assumption | apply State.actDone_keeps | apply State.muteSet_keeps
    | (refine Keeps.foldl ?_ (fun _ _ _ => ?_)))

theorem execSchedMute_keeps {σ : State} (k : Nat) (s : State) {t : State} (h : Keeps σ s)
    (e : (execSchedMute k s) = .next t) : Keeps σ t := by
  unfold execSchedMute at e
  refine Keeps.next ?_ e
  with_reducible repeat' (first
    | assumption | apply State.actMute_keeps | fail_if_no_progress apply Keeps.upd | split)

theorem execSchedUnmute_keeps {σ : State} (k : Nat) (s : State) {t : State} (h : Keeps σ s)
    (e : (execSchedUnmute k s) = .next t) : Keeps σ t := by
  unfold execSchedUnmute at e
  refine Keeps.next ?_ e
  with_reducible repeat' (first
    | assumption | apply State.actMute_keeps | fail_if_no_progress apply Keeps.upd | split)

theorem execSchedTrunkInsert_keeps {σ : State} (k : Nat) (s : State) {t : State} (h : Keeps σ s)
    (e : (execSchedTrunkInsert k s) = .next t) : Keeps σ t := by
  unfold execSchedTrunkInsert at e
  refine Keeps.next ?_ e
  with_reducible repeat' (first
    | assumption | apply State.insSet_keeps | apply State.actDone_keeps | apply State.blockWrite_keeps
    | fail_if_no_progress apply Keeps.upd | split | intro _ | dsimp only)

theorem execSchedUserEvent_keeps {σ : State} (k : Nat) (s : State) {t : State} (h : Keeps σ s)
    (e : (execSchedUserEvent k s) = .next t) : Keeps σ t := by
  unfold execSchedUserEvent at e
  refine Keeps.next ?_ e
  with_reducible repeat' (first
    | assumption | apply State.actDone_keeps | apply State.raise_keeps | apply State.put_keeps
    | fail_if_no_progress apply Keeps.upd | split)

theorem State.resetRegs_keeps {σ : State} (s : State) (p : Nat) (keep : List Fld) (h : Keeps σ s) :
    Keeps σ (State.resetRegs s p keep) := by
  unfold State.resetRegs
  with_reducible repeat' (first
    | assumption | apply State.put_keeps | (refine Keeps.foldl ?_ (fun _ _ _ => ?_))
    | (refine Keeps.foldl_snd ?_ (fun _ _ _ => ?_)) | (refine Keeps.foldl_fst ?_ (fun _ _ _ => ?_))
    | fail_if_no_progress apply Keeps.upd)

theorem State.fsSel_keeps {σ : State} (s : State) (v : Nat) (h : Keeps σ s) :
    Keeps σ (State.fsSel s v) := by
  unfold State.fsSel
  with_reducible repeat' (first
    | assumption | apply State.log_keeps | apply State.put_keeps | fail_if_no_progress apply Keeps.upd
    | split)

theorem execFsSelWrite_keeps {σ : State} (value : Word) (s : State) {t : State} (h : Keeps σ s)
    (e : (execFsSelWrite value s) = .next t) : Keeps σ t := by
  unfold execFsSelWrite at e
  refine Keeps.next ?_ e
  with_reducible repeat' (first
    | assumption | apply State.blockWrite_keeps | apply State.fsSel_keeps
    | fail_if_no_progress apply Keeps.upd | split | intro _)

theorem execFsChangeApply_keeps {σ : State} (s : State) {t : State} (h : Keeps σ s)
    (e : (execFsChangeApply s) = .next t) : Keeps σ t := by
  unfold execFsChangeApply at e
  refine Keeps.next ?_ e
  with_reducible repeat' (first
    | assumption | apply State.fsApply_keeps | fail_if_no_progress apply Keeps.upd | split)

theorem execMclkSelApply_keeps {σ : State} (s : State) {t : State} (h : Keeps σ s)
    (e : (execMclkSelApply s) = .next t) : Keeps σ t := by
  unfold execMclkSelApply at e
  refine Keeps.next ?_ e
  with_reducible repeat' (first | assumption | fail_if_no_progress apply Keeps.upd | split)

theorem State.refsAgain_keeps {σ : State} (s : State) (h : Keeps σ s) :
    Keeps σ (State.refsAgain s) := by
  unfold State.refsAgain
  with_reducible repeat' (first
    | assumption | apply State.timeSrcView_keeps | apply State.reselect_keeps
    | apply State.portQuality_keeps | apply State.judge_keeps | apply State.setActive_keeps
    | (refine Keeps.foldl ?_ (fun _ _ _ => ?_)) | (refine Keeps.foldl_snd ?_ (fun _ _ _ => ?_))
    | (refine Keeps.foldl_fst ?_ (fun _ _ _ => ?_)) | fail_if_no_progress apply Keeps.upd | split)

theorem State.softRef_keeps {σ : State} (s : State) (h : Keeps σ s) :
    Keeps σ (State.softRef s) := by
  unfold State.softRef
  with_reducible repeat' (first
    | assumption | apply State.resetRegs_keeps | apply State.timeSrcView_keeps
    | fail_if_no_progress apply Keeps.upd)

theorem State.softNtime_keeps {σ : State} (s : State) (h : Keeps σ s) :
    Keeps σ (State.softNtime s) := by
  unfold State.softNtime
  with_reducible repeat' (first
    | assumption | apply State.resetRegs_keeps | apply State.refsAgain_keeps
    | fail_if_no_progress apply Keeps.upd)

theorem State.softStore_keeps {σ : State} (s : State) (h : Keeps σ s) :
    Keeps σ (State.softStore s) := by
  unfold State.softStore
  with_reducible repeat' (first
    | assumption | apply State.scrubStop_keeps | apply State.resetRegs_keeps
    | fail_if_no_progress apply Keeps.upd | split)

theorem State.pwrCancel_keeps {σ : State} (s : State) (h : Keeps σ s) :
    Keeps σ (State.pwrCancel s) := by
  unfold State.pwrCancel
  with_reducible repeat' (first
    | assumption | apply State.release_keeps | apply State.unchargeNow_keeps | apply State.withPwr_keeps
    | fail_if_no_progress apply Keeps.upd | split)

theorem State.softPwr_keeps {σ : State} (s : State) (h : Keeps σ s) :
    Keeps σ (State.softPwr s) := by
  unfold State.softPwr
  with_reducible repeat' (first
    | assumption | apply State.pwrCancel_keeps | apply State.pwrView_keeps | apply State.ledgerView_keeps
    | apply State.resetRegs_keeps | fail_if_no_progress apply Keeps.upd)

theorem State.softLane_keeps {σ : State} (s : State) (l : Nat) (h : Keeps σ s) :
    Keeps σ (State.softLane s l) := by
  unfold State.softLane
  with_reducible repeat' (first
    | assumption | apply State.laneDisable_keeps | apply State.setLane_keeps | apply State.resetRegs_keeps
    | apply State.newSequence_keeps | fail_if_no_progress apply Keeps.upd | split | intro _ | dsimp only)

theorem State.softPort_keeps {σ : State} (s : State) (p : Nat) (h : Keeps σ s) :
    Keeps σ (State.softPort s p) := by
  unfold State.softPort
  with_reducible repeat' (first | assumption | apply State.resetRegs_keeps | apply State.setPort_keeps)

theorem State.softRing_keeps {σ : State} (s : State) (h : Keeps σ s) :
    Keeps σ (State.softRing s) := by
  unfold State.softRing
  with_reducible repeat' (first
    | assumption | apply State.insClear_keeps | apply State.masterReset_keeps | apply State.resetRegs_keeps
    | fail_if_no_progress apply Keeps.upd)

theorem State.softAudio_keeps {σ : State} (s : State) (p : Nat) (h : Keeps σ s) :
    Keeps σ (State.softAudio s p) := by
  unfold State.softAudio
  with_reducible repeat' (first
    | assumption | apply State.portHalt_keeps | apply State.setAud_keeps | apply State.resetRegs_keeps
    | fail_if_no_progress apply Keeps.upd | split)

theorem State.softAmp_keeps {σ : State} (s : State) (n : Nat) (h : Keeps σ s) :
    Keeps σ (State.softAmp s n) := by
  unfold State.softAmp
  with_reducible repeat' (first
    | assumption | apply State.ampStop_keeps | apply State.windowSpoil_keeps | apply State.muteSet_keeps
    | apply State.resetRegs_keeps)

theorem State.softClus_keeps {σ : State} (s : State) (c : Nat) (h : Keeps σ s) :
    Keeps σ (State.softClus s c) := by
  unfold State.softClus
  with_reducible repeat' (first
    | assumption | apply State.masterReset_keeps | apply State.migCancel_keeps
    | apply State.resetRegs_keeps)

theorem State.softIbex_keeps {σ : State} (s : State) (n : Nat) (h : Keeps σ s) :
    Keeps σ (State.softIbex s n) := by
  unfold State.softIbex
  with_reducible repeat' (first
    | assumption | apply State.setCore_keeps | apply State.onCorePage_keeps | apply State.resetRegs_keeps
    | fail_if_no_progress apply Keeps.upd | split | intro _)

theorem State.softFrame_keeps {σ : State} (s : State) (h : Keeps σ s) :
    Keeps σ (State.softFrame s) := by
  unfold State.softFrame
  with_reducible repeat' (first
    | assumption | apply State.resetRegs_keeps | fail_if_no_progress apply Keeps.upd)

theorem State.softDev_keeps {σ : State} (s : State) (h : Keeps σ s) :
    Keeps σ (State.softDev s) := by
  unfold State.softDev
  with_reducible repeat' (first
    | assumption | apply State.resetRegs_keeps | fail_if_no_progress apply Keeps.upd)

theorem State.softRst_keeps {σ : State} (s : State) (p : Nat) (h : Keeps σ s) :
    Keeps σ (State.softRst s p) := by
  unfold State.softRst
  with_reducible repeat' (first
    | assumption | apply State.takeUp_keeps | apply State.softDev_keeps | apply State.resetRegs_keeps
    | apply State.masterReset_keeps | apply State.softPwr_keeps | apply State.fsSel_keeps
    | apply State.softRef_keeps | apply State.softNtime_keeps | apply State.outstView_keeps
    | apply State.retriesEnd_keeps | apply State.softStore_keeps | apply State.dmaCancel_keeps
    | apply State.softFrame_keeps | apply State.softClus_keeps | apply State.softIbex_keeps
    | apply State.softRing_keeps | apply State.softPort_keeps | apply State.softLane_keeps
    | apply State.softAudio_keeps | apply State.calAbort_keeps | apply State.softAmp_keeps
    | apply State.boostOff_keeps | fail_if_no_progress apply Keeps.upd | split)

theorem State.softReq_keeps {σ : State} (s : State) (p : Nat) (h : Keeps σ s) :
    Keeps σ (State.softReq s p) := by
  unfold State.softReq
  with_reducible repeat' (first
    | assumption | apply State.log_keeps | apply State.softRst_keeps | fail_if_no_progress apply Keeps.upd
    | split)

theorem State.syncReq_keeps {σ : State} (s : State) (p : Nat) (h : Keeps σ s) :
    Keeps σ (State.syncReq s p) := by
  unfold State.syncReq
  with_reducible repeat' (first
    | assumption | apply State.log_keeps | apply State.putB_keeps | fail_if_no_progress apply Keeps.upd
    | split | intro _ | dsimp only)

theorem State.syncCopy_keeps {σ : State} (s : State) (p : Nat) (h : Keeps σ s) :
    Keeps σ (State.syncCopy s p) := by
  have one (s : State) (src dst n : Nat) (h : Keeps σ s) : Keeps σ { s with
      mem := Tab.copy s.mem src dst n, ecc := Tab.clear s.ecc (dst / 4) ((dst + n) / 4) } :=
    Keeps.upd (h.withMem _ (Tab.wf_copy _ _ _))
  unfold State.syncCopy
  split
  · exact h
  · dsimp only
    split
    · exact one _ _ _ _ h
    · split
      · exact one _ _ _ _ (one _ _ _ _ h)
      · exact one _ _ _ _ h

theorem execSyncDone_keeps {σ : State} (page : Nat) (s : State) {t : State} (h : Keeps σ s)
    (e : (execSyncDone page s) = .next t) : Keeps σ t := by
  unfold execSyncDone at e
  refine Keeps.next ?_ e
  with_reducible repeat' (first
    | assumption | apply State.syncCopy_keeps | apply State.putB_keeps | fail_if_no_progress apply Keeps.upd
    | split)

theorem execSoftRst_keeps {σ : State} (page : Nat) (s : State) {t : State} (h : Keeps σ s)
    (e : (execSoftRst page s) = .next t) : Keeps σ t := by
  unfold execSoftRst at e
  refine Keeps.next ?_ e
  with_reducible repeat' (first
    | assumption | apply State.ctrlWrite_keeps | apply State.softReq_keeps
    | fail_if_no_progress apply Keeps.upd | split | intro _)

theorem execSync_keeps {σ : State} (page : Nat) (s : State) {t : State} (h : Keeps σ s)
    (e : (execSync page s) = .next t) : Keeps σ t := by
  unfold execSync at e
  refine Keeps.next ?_ e
  with_reducible repeat' (first
    | assumption | apply State.ctrlWrite_keeps | apply State.syncReq_keeps
    | fail_if_no_progress apply Keeps.upd | split | intro _)

end Sys2Proof.Machine
end

