-- ==== Sys2Proof/Laws/KeepsAccess.lean ====
section
/-! SUPPORT. What no command undoes (`Keeps`), for register accesses, the host interface and DMA: one lemma per function
that gives a state. -/

namespace Sys2Proof.Machine

theorem State.plainWrite_keeps {σ : State} (s : State) (p : Nat) (flds : List Fld) (v : Nat) (h : Keeps σ s) :
    Keeps σ (State.plainWrite s p flds v) := by
  unfold State.plainWrite
  with_reducible repeat' (first
    | assumption | apply State.put_keeps | (refine Keeps.foldl ?_ (fun _ _ _ => ?_))
    | (refine Keeps.foldl_snd ?_ (fun _ _ _ => ?_)) | (refine Keeps.foldl_fst ?_ (fun _ _ _ => ?_))
    | fail_if_no_progress apply Keeps.upd | split)

theorem State.fieldWrite_keeps {σ : State} (s : State) (p : Nat) (flds : List Fld) (v : Nat) (h : Keeps σ s) :
    Keeps σ (State.fieldWrite s p flds v) := by
  unfold State.fieldWrite
  with_reducible repeat' (first
    | assumption | apply State.plainWrite_keeps | apply State.shadowWrite_keeps
    | fail_if_no_progress apply Keeps.upd | split | intro _ | dsimp only)

theorem State.onlyIf_keeps {σ : State} (s : State) (p : Nat) (ok : Bool) (f : State → State) (hf : ∀ x, Keeps σ x → Keeps σ (f x)) (h : Keeps σ s) :
    Keeps σ (State.onlyIf s p ok f) := by
  unfold State.onlyIf
  with_reducible repeat' (first
    | assumption | apply hf | apply State.log_keeps | fail_if_no_progress apply Keeps.upd | split)

theorem State.ntCtrl_keeps {σ : State} (s : State) (v : Nat) (h : Keeps σ s) :
    Keeps σ (State.ntCtrl s v) := by
  unfold State.ntCtrl
  with_reducible repeat' (first
    | assumption | apply State.plainWrite_keeps | apply State.refsAgain_keeps | apply State.alignReq_keeps
    | apply State.setReq_keeps | fail_if_no_progress apply Keeps.upd | split | intro _ | dsimp only)

theorem State.refCfg_keeps {σ : State} (s : State) (k : Nat) (v : Nat) (h : Keeps σ s) :
    Keeps σ (State.refCfg s k v) := by
  unfold State.refCfg
  with_reducible repeat' (first
    | assumption | apply State.plainWrite_keeps | apply State.portActivity_keeps
    | apply State.refsAgain_keeps | fail_if_no_progress apply Keeps.upd | split)

theorem State.writeClock_keeps {σ : State} (s : State) (b : Block) (off : Nat) (v : Nat) (flds : List Fld) (h : Keeps σ s) :
    Keeps σ (State.writeClock s b off v flds) := by
  unfold State.writeClock
  with_reducible repeat' (first
    | assumption | apply State.fsSel_keeps | apply State.plainWrite_keeps | apply State.pstepCtrl_keeps
    | apply State.numFreqWrite_keeps | apply State.numPhaseWrite_keeps | apply State.refCfg_keeps
    | apply State.refsAgain_keeps | apply State.ntCtrl_keeps | apply State.actCtrl_keeps
    | apply State.onlyIf_keeps | fail_if_no_progress apply Keeps.upd | split | intro _)

theorem State.sliceCtrl_keeps {σ : State} (s : State) (v : Nat) (h : Keeps σ s) :
    Keeps σ (State.sliceCtrl s v) := by
  unfold State.sliceCtrl
  with_reducible repeat' (first
    | assumption | apply State.log_keeps | apply State.put_keeps | fail_if_no_progress apply Keeps.upd
    | split)

theorem execSliceCtrlWrite_keeps {σ : State} (value : Word) (s : State) {t : State} (h : Keeps σ s)
    (e : (execSliceCtrlWrite value s) = .next t) : Keeps σ t := by
  unfold execSliceCtrlWrite at e
  refine Keeps.next ?_ e
  with_reducible repeat' (first
    | assumption | apply State.blockWrite_keeps | apply State.sliceCtrl_keeps
    | fail_if_no_progress apply Keeps.upd | split | intro _)

theorem State.msixCtrl_keeps {σ : State} (s : State) (flds : List Fld) (v : Nat) (h : Keeps σ s) :
    Keeps σ (State.msixCtrl s flds v) := by
  unfold State.msixCtrl
  with_reducible repeat' (first
    | assumption | apply State.plainWrite_keeps | apply State.sendWaiting_keeps
    | fail_if_no_progress apply Keeps.upd | split)

theorem State.i2cWrite_keeps {σ : State} (s : State) (by_ : Master) (m : Nat) (off : Nat) (v : Nat) (flds : List Fld) (h : Keeps σ s) :
    Keeps σ (State.i2cWrite s by_ m off v flds) := by
  unfold State.i2cWrite
  with_reducible repeat' (first
    | assumption | apply State.log_keeps | apply State.i2cCmd_keeps | apply State.onlyIf_keeps
    | apply State.plainWrite_keeps | fail_if_no_progress apply Keeps.upd | split | intro _)

theorem State.writeDevice_keeps {σ : State} (s : State) (by_ : Master) (b : Block) (inst : Nat) (off : Nat) (v : Nat) (flds : List Fld) (h : Keeps σ s) :
    Keeps σ (State.writeDevice s by_ b inst off v flds) := by
  unfold State.writeDevice
  with_reducible repeat' (first
    | assumption | apply State.commitCtrl_keeps | apply State.devRst_keeps | apply State.plainWrite_keeps
    | apply State.msixCtrl_keeps | apply State.mbxCmd_keeps | apply State.mbxData_keeps
    | apply State.endService_keeps | apply State.pbaSettle_keeps | apply State.pwrReq_keeps
    | apply State.ledgerView_keeps | apply State.gpioSet_keeps | apply State.gpioClr_keeps
    | apply State.i2cWrite_keeps | fail_if_no_progress apply Keeps.upd | split)

theorem State.dmaWrite_keeps {σ : State} (s : State) (e : Nat) (off : Nat) (v : Nat) (flds : List Fld) (h : Keeps σ s) :
    Keeps σ (State.dmaWrite s e off v flds) := by
  unfold State.dmaWrite
  with_reducible repeat' (first
    | assumption | apply State.log_keeps | apply State.plainWrite_keeps | apply State.raise_keeps
    | fail_if_no_progress apply Keeps.upd | split | intro _ | dsimp only)

theorem State.spareWrite_keeps {σ : State} (s : State) (c : Nat) (v : Nat) (h : Keeps σ s) :
    Keeps σ (State.spareWrite s c v) := by
  unfold State.spareWrite
  with_reducible repeat' (first
    | assumption | apply State.onlyIf_keeps | apply State.putB_keeps | fail_if_no_progress apply Keeps.upd
    | split | intro _)

theorem State.writeBus_keeps {σ : State} (s : State) (b : Block) (inst : Nat) (off : Nat) (v : Nat) (flds : List Fld) (h : Keeps σ s) :
    Keeps σ (State.writeBus s b inst off v flds) := by
  unfold State.writeBus
  with_reducible repeat' (first
    | assumption | apply State.sliceCtrl_keeps | apply State.plainWrite_keeps | apply State.zfill_keeps
    | apply State.scrubCtrl_keeps | apply State.dmaWrite_keeps | apply State.spareWrite_keeps
    | apply State.migCtrl_keeps | fail_if_no_progress apply Keeps.upd | split)

theorem State.dbgReg_keeps {σ : State} (s : State) (n : Nat) (off : Nat) (v : Nat) (flds : List Fld) (h : Keeps σ s) :
    Keeps σ (State.dbgReg s n off v flds) := by
  unfold State.dbgReg
  with_reducible repeat' (first
    | assumption | apply State.log_keeps | apply State.plainWrite_keeps | apply State.haltReq_keeps
    | apply State.resumeCore_keeps | apply State.stepCore_keeps | apply State.loseDomain_keeps
    | apply State.putB_keeps | apply State.setCore_keeps | fail_if_no_progress apply Keeps.upd | split)

theorem State.ibexWrite_keeps {σ : State} (s : State) (n : Nat) (off : Nat) (v : Nat) (flds : List Fld) (h : Keeps σ s) :
    Keeps σ (State.ibexWrite s n off v flds) := by
  unfold State.ibexWrite
  with_reducible repeat' (first
    | assumption | apply State.ibexGate_keeps | apply State.setCore_keeps | apply State.dbgReg_keeps
    | apply State.fieldWrite_keeps | fail_if_no_progress apply Keeps.upd | split | intro _)

theorem State.laneCtrl_keeps {σ : State} (s : State) (l : Nat) (v : Nat) (flds : List Fld) (h : Keeps σ s) :
    Keeps σ (State.laneCtrl s l v flds) := by
  unfold State.laneCtrl
  with_reducible repeat' (first
    | assumption | apply State.onlyIf_keeps | apply State.plainWrite_keeps | apply State.put_keeps
    | apply State.laneRetrain_keeps | fail_if_no_progress apply Keeps.upd | split | intro _ | dsimp only)

theorem State.lanePwr_keeps {σ : State} (s : State) (l : Nat) (v : Nat) (h : Keeps σ s) :
    Keeps σ (State.lanePwr s l v) := by
  unfold State.lanePwr
  with_reducible repeat' (first
    | assumption | apply State.onlyIf_keeps | apply State.put_keeps | fail_if_no_progress apply Keeps.upd
    | split | intro _)

theorem State.laneWrite_keeps {σ : State} (s : State) (l : Nat) (off : Nat) (v : Nat) (flds : List Fld) (h : Keeps σ s) :
    Keeps σ (State.laneWrite s l off v flds) := by
  unfold State.laneWrite
  with_reducible repeat' (first
    | assumption | apply State.laneCtrl_keeps | apply State.lanePwr_keeps | apply State.ffeFixed_keeps
    | apply State.plainWrite_keeps | apply State.testCtrl_keeps | apply State.injCtrl_keeps
    | apply State.ltSend_keeps | fail_if_no_progress apply Keeps.upd | split)

theorem State.wrapEnWrite_keeps {σ : State} (s : State) (ringB : Bool) (on : Bool) (h : Keeps σ s) :
    Keeps σ (State.wrapEnWrite s ringB on) := by
  unfold State.wrapEnWrite
  with_reducible repeat' (first
    | assumption | apply State.putB_keeps | apply State.wrapSoon_keeps | apply State.setPort_keeps
    | apply State.raise_keeps | (refine Keeps.foldl ?_ (fun _ _ _ => ?_))
    | (refine Keeps.foldl_snd ?_ (fun _ _ _ => ?_)) | (refine Keeps.foldl_fst ?_ (fun _ _ _ => ?_))
    | fail_if_no_progress apply Keeps.upd | split | intro _ | dsimp only)

theorem State.bypCtrl_keeps {σ : State} (s : State) (v : Nat) (h : Keeps σ s) :
    Keeps σ (State.bypCtrl s v) := by
  unfold State.bypCtrl
  with_reducible repeat' (first
    | assumption | apply State.put_keeps | apply State.putB_keeps | apply State.insSet_keeps
    | apply State.insClear_keeps | fail_if_no_progress apply Keeps.upd | split | intro _ | dsimp only)

theorem State.writeLink_keeps {σ : State} (s : State) (b : Block) (inst : Nat) (off : Nat) (v : Nat) (flds : List Fld) (h : Keeps σ s) :
    Keeps σ (State.writeLink s b inst off v flds) := by
  unfold State.writeLink
  with_reducible repeat' (first
    | assumption | apply State.svcSend_keeps | apply State.svcPop_keeps | apply State.plainWrite_keeps
    | apply State.put_keeps | apply State.wrapEnWrite_keeps | apply State.bypCtrl_keeps
    | apply State.fieldWrite_keeps | apply State.laneWrite_keeps | fail_if_no_progress apply Keeps.upd
    | split)

theorem State.audioWrite_keeps {σ : State} (s : State) (p : Nat) (off : Nat) (v : Nat) (flds : List Fld) (h : Keeps σ s) :
    Keeps σ (State.audioWrite s p off v flds) := by
  unfold State.audioWrite
  with_reducible repeat' (first
    | assumption | apply State.onlyIf_keeps | apply State.portArm_keeps | apply State.plainWrite_keeps
    | apply State.maskWrite_keeps | apply State.portStartWrite_keeps | apply State.fieldWrite_keeps
    | fail_if_no_progress apply Keeps.upd | split | intro _)

theorem State.ampCtrl_keeps {σ : State} (s : State) (n : Nat) (v : Nat) (h : Keeps σ s) :
    Keeps σ (State.ampCtrl s n v) := by
  unfold State.ampCtrl
  with_reducible repeat' (first
    | assumption | apply State.muteSet_keeps | apply State.shadowWrite_keeps | apply State.pilotEn_keeps
    | apply State.latchClr_keeps | apply State.probeReq_keeps | fail_if_no_progress apply Keeps.upd | split)

theorem State.ampWrite_keeps {σ : State} (s : State) (n : Nat) (off : Nat) (v : Nat) (flds : List Fld) (h : Keeps σ s) :
    Keeps σ (State.ampWrite s n off v flds) := by
  unfold State.ampWrite
  with_reducible repeat' (first
    | assumption | apply State.ampCtrl_keeps | apply State.log_keeps | apply State.onlyIf_keeps
    | apply State.plainWrite_keeps | apply State.windowSpoil_keeps | apply State.fieldWrite_keeps
    | fail_if_no_progress apply Keeps.upd | split | intro _ | dsimp only)

theorem State.boostWrite_keeps {σ : State} (s : State) (k : Nat) (off : Nat) (v : Nat) (flds : List Fld) (h : Keeps σ s) :
    Keeps σ (State.boostWrite s k off v flds) := by
  unfold State.boostWrite
  with_reducible repeat' (first
    | assumption | apply State.railCfg_keeps | apply State.plainWrite_keeps | apply State.boostEnter_keeps
    | fail_if_no_progress apply Keeps.upd | split | intro _ | dsimp only)

theorem State.writeAudio_keeps {σ : State} (s : State) (b : Block) (inst : Nat) (off : Nat) (v : Nat) (flds : List Fld) (h : Keeps σ s) :
    Keeps σ (State.writeAudio s b inst off v flds) := by
  unfold State.writeAudio
  with_reducible repeat' (first
    | assumption | apply State.audioWrite_keeps | apply State.onlyIf_keeps | apply State.plainWrite_keeps
    | apply State.calCtrl_keeps | apply State.ampWrite_keeps | apply State.boostWrite_keeps
    | fail_if_no_progress apply Keeps.upd | split | intro _)

theorem State.regEffect_keeps {σ : State} (s : State) (by_ : Master) (p : Nat) (off : Nat) (v : Nat) (flds : List Fld) (h : Keeps σ s) :
    Keeps σ (State.regEffect s by_ p off v flds) := by
  unfold State.regEffect
  with_reducible repeat' (first
    | assumption | apply State.log_keeps | apply State.writeClock_keeps | apply State.writeDevice_keeps
    | apply State.writeBus_keeps | apply State.ibexWrite_keeps | apply State.writeLink_keeps
    | apply State.writeAudio_keeps | apply State.frameCfg_keeps | apply State.fieldWrite_keeps
    | fail_if_no_progress apply Keeps.upd | split)

theorem State.pageEnable_keeps {σ : State} (s : State) (p : Nat) (en : Bool) (h : Keeps σ s) :
    Keeps σ (State.pageEnable s p en) := by
  unfold State.pageEnable
  with_reducible repeat' (first
    | assumption | apply State.laneEnable_keeps | apply State.portEnable_keeps | apply State.putB_keeps
    | apply State.ampEnable_keeps | apply State.boostEnable_keeps | fail_if_no_progress apply Keeps.upd
    | split)

theorem State.groupWrite_keeps {σ : State} (s : State) (p : Nat) (g : Nat) (h : Keeps σ s) :
    Keeps σ (State.groupWrite s p g) := by
  unfold State.groupWrite
  with_reducible repeat' (first
    | assumption | apply State.log_keeps | apply State.put_keeps | fail_if_no_progress apply Keeps.upd
    | split)

theorem State.pageCtrl_keeps {σ : State} (s : State) (p : Nat) (v : Nat) (h : Keeps σ s) :
    Keeps σ (State.pageCtrl s p v) := by
  unfold State.pageCtrl
  with_reducible repeat' (first
    | assumption | apply State.putB_keeps | apply State.groupWrite_keeps | apply State.pageEnable_keeps
    | apply State.softReq_keeps | apply State.syncReq_keeps | fail_if_no_progress apply Keeps.upd | split
    | intro _ | dsimp only)

theorem State.irqForce_keeps {σ : State} (s : State) (p : Nat) (v : Nat) (h : Keeps σ s) :
    Keeps σ (State.irqForce s p v) := by
  unfold State.irqForce
  with_reducible repeat' (first | assumption | apply State.put_keeps)

theorem State.headerWrite_keeps {σ : State} (s : State) (p : Nat) (off : Nat) (v : Nat) (h : Keeps σ s) :
    Keeps σ (State.headerWrite s p off v) := by
  unfold State.headerWrite
  with_reducible repeat' (first
    | assumption | apply State.pbaSettle_keeps | apply State.plainWrite_keeps | apply State.put_keeps
    | apply State.irqForce_keeps | apply State.putB_keeps | fail_if_no_progress apply Keeps.upd | split)

theorem State.headerGate_keeps {σ : State} (s : State) (p : Nat) (f : State → State) (hf : ∀ x, Keeps σ x → Keeps σ (f x)) (h : Keeps σ s) :
    Keeps σ (State.headerGate s p f) := by
  unfold State.headerGate
  with_reducible repeat' (first
    | assumption | apply hf | apply State.log_keeps | fail_if_no_progress apply Keeps.upd | split)

theorem execIrqForce_keeps {σ : State} (page : Nat) (bits : Word) (s : State) {t : State} (h : Keeps σ s)
    (e : (execIrqForce page bits s) = .next t) : Keeps σ t := by
  unfold execIrqForce at e
  refine Keeps.next ?_ e
  with_reducible repeat' (first
    | assumption | apply State.headerGate_keeps | apply State.irqForce_keeps
    | fail_if_no_progress apply Keeps.upd | split | intro _)

theorem execPageLock_keeps {σ : State} (page : Nat) (s : State) {t : State} (h : Keeps σ s)
    (e : (execPageLock page s) = .next t) : Keeps σ t := by
  unfold execPageLock at e
  refine Keeps.next ?_ e
  with_reducible repeat' (first
    | assumption | apply State.headerGate_keeps | apply State.headerWrite_keeps
    | fail_if_no_progress apply Keeps.upd | split | intro _)

theorem State.rcClear_keeps {σ : State} (s : State) (p : Nat) (flds : List Fld) (h : Keeps σ s) :
    Keeps σ (State.rcClear s p flds) := by
  unfold State.rcClear
  with_reducible repeat' (first
    | assumption | apply State.put_keeps | (refine Keeps.foldl ?_ (fun _ _ _ => ?_)))

theorem State.dbgView_keeps {σ : State} (s : State) (n : Nat) (k : Nat) (h : Keeps σ s) :
    Keeps σ (State.dbgView s n k).2 := by
  unfold State.dbgView
  with_reducible repeat' (first
    | assumption | apply State.draw_keeps | fail_if_no_progress apply Keeps.upd | split)

theorem State.regRead_keeps {σ : State} (s : State) (p : Nat) (off : Nat) (flds : List Fld) (h : Keeps σ s) :
    Keeps σ (State.regRead s p off flds).2 := by
  unfold State.regRead
  with_reducible repeat' (first
    | assumption | apply State.ntNowLatch_keeps | apply State.rcClear_keeps | apply State.clipDataRead_keeps
    | apply State.streamStatRead_keeps | apply State.chkLatch_keeps | apply State.dbgView_keeps
    | fail_if_no_progress apply Keeps.upd | split)

theorem State.unmapped_keeps {σ : State} (s : State) (h : Keeps σ s) :
    Keeps σ (State.unmapped s) := by
  unfold State.unmapped
  with_reducible repeat' (first | assumption | apply State.bump_keeps)

theorem State.busReg32_keeps {σ : State} (s : State) (by_ : Master) (p : Nat) (off : Nat) (v : Nat) (h : Keeps σ s) :
    Keeps σ (State.busReg32 s by_ p off v) := by
  unfold State.busReg32
  with_reducible repeat' (first
    | assumption | apply State.unmapped_keeps | apply State.log_keeps | apply State.pageCtrl_keeps
    | apply State.headerWrite_keeps | apply State.regEffect_keeps | fail_if_no_progress apply Keeps.upd
    | split)

theorem State.overridden_keeps {σ : State} (s : State) (p : Nat) (h : Keeps σ s) :
    Keeps σ (State.overridden s p) := by
  unfold State.overridden
  with_reducible repeat' (first | assumption | apply State.loseDomain_keeps | apply State.putB_keeps)

theorem State.overrideEffect_keeps {σ : State} (s : State) (p : Nat) (off : Nat) (v : Nat) (flds : List Fld) (h : Keeps σ s) :
    Keeps σ (State.overrideEffect s p off v flds) := by
  unfold State.overrideEffect
  with_reducible repeat' (first
    | assumption | apply State.pageCtrl_keeps | apply State.headerWrite_keeps | apply State.put_keeps
    | apply State.plainWrite_keeps | apply State.regEffect_keeps | (refine Keeps.foldl ?_ (fun _ _ _ => ?_))
    | (refine Keeps.foldl_snd ?_ (fun _ _ _ => ?_)) | (refine Keeps.foldl_fst ?_ (fun _ _ _ => ?_))
    | fail_if_no_progress apply Keeps.upd | split)

theorem State.jtagEffect_keeps {σ : State} (s : State) (p : Nat) (off : Nat) (v : Nat) (flds : List Fld) (h : Keeps σ s) :
    Keeps σ (State.jtagEffect s p off v flds) := by
  unfold State.jtagEffect
  with_reducible repeat' (first
    | assumption | apply State.regEffect_keeps | apply State.putB_keeps | apply State.log_keeps
    | apply State.fieldWrite_keeps | fail_if_no_progress apply Keeps.upd | split)

theorem State.jtagReg32_keeps {σ : State} (s : State) (p : Nat) (off : Nat) (v : Nat) (h : Keeps σ s) :
    Keeps σ (State.jtagReg32 s p off v) := by
  unfold State.jtagReg32
  with_reducible repeat' (first
    | assumption | apply State.unmapped_keeps | apply State.log_keeps | apply State.jtagEffect_keeps
    | apply State.overridden_keeps | apply State.overrideEffect_keeps | fail_if_no_progress apply Keeps.upd
    | split)

theorem State.reg32_keeps {σ : State} (s : State) (by_ : Master) (p : Nat) (off : Nat) (v : Nat) (h : Keeps σ s) :
    Keeps σ (State.reg32 s by_ p off v) := by
  unfold State.reg32
  with_reducible repeat' (first
    | assumption | apply State.jtagReg32_keeps | apply State.busReg32_keeps
    | fail_if_no_progress apply Keeps.upd | split)

theorem State.regPageWrite_keeps {σ : State} (s : State) (by_ : Master) (p : Nat) (off : Nat) (n : Nat) (full : Bool) (v : Nat) (h : Keeps σ s) :
    Keeps σ (State.regPageWrite s by_ p off n full v) := by
  unfold State.regPageWrite
  with_reducible repeat' (first
    | assumption | apply State.unmapped_keeps | apply State.log_keeps | apply State.reg32_keeps
    | fail_if_no_progress apply Keeps.upd | split)

theorem State.copyWrite_keeps {σ : State} (s : State) (by_ : Master) (p : Nat) (active : Bool) (held : Bool) (f : State → State) (hf : ∀ x, Keeps σ x → Keeps σ (f x)) (h : Keeps σ s) :
    Keeps σ (State.copyWrite s by_ p active held f) := by
  unfold State.copyWrite
  with_reducible repeat' (first
    | assumption | apply hf | apply State.log_keeps | apply State.overridden_keeps
    | fail_if_no_progress apply Keeps.upd | split | intro _ | dsimp only)

theorem State.tableWrite_keeps {σ : State} (s : State) (by_ : Master) (p : Nat) (set : Nat) (a : Nat) (n : Nat) (l : List (Nat × Byte)) (h : Keeps σ s) :
    Keeps σ (State.tableWrite s by_ p set a n l) := by
  unfold State.tableWrite
  with_reducible repeat' (first
    | assumption | apply State.log_keeps | apply State.copyWrite_keeps | apply State.setBytes_keeps
    | fail_if_no_progress apply Keeps.upd | split | intro _)

theorem State.progWrite_keeps {σ : State} (s : State) (by_ : Master) (n : Nat) (set : Nat) (a : Nat) (len : Nat) (l : List (Nat × Byte)) (h : Keeps σ s) :
    Keeps σ (State.progWrite s by_ n set a len l) := by
  unfold State.progWrite
  with_reducible repeat' (first
    | assumption | apply State.log_keeps | apply State.copyWrite_keeps | apply State.localWrite_keeps
    | fail_if_no_progress apply Keeps.upd | split | intro _ | dsimp only)

theorem State.dataWrite_keeps {σ : State} (s : State) (by_ : Master) (c : Nat) (a : Nat) (n : Nat) (l : List (Nat × Byte)) (h : Keeps σ s) :
    Keeps σ (State.dataWrite s by_ c a n l) := by
  unfold State.dataWrite
  with_reducible repeat' (first
    | assumption | apply State.log_keeps | apply State.overridden_keeps | apply State.localWrite_keeps
    | fail_if_no_progress apply Keeps.upd | split)

theorem State.busWrite1_keeps {σ : State} (s : State) (by_ : Master) (core : Option Nat) (a : Nat) (n : Nat) (l : List (Nat × Byte)) (h : Keeps σ s) :
    Keeps σ (State.busWrite1 s by_ core a n l) := by
  unfold State.busWrite1
  with_reducible repeat' (first
    | assumption | apply State.regPageWrite_keeps | apply State.tableWrite_keeps | apply State.log_keeps
    | apply State.overridden_keeps | apply State.storeWrite_keeps | apply State.progWrite_keeps
    | apply State.dataWrite_keeps | apply State.planeBusWrite_keeps | apply State.respond_keeps
    | apply State.unmapped_keeps | fail_if_no_progress apply Keeps.upd | split | intro _ | dsimp only)

theorem State.regPageRead_keeps {σ : State} (s : State) (p : Nat) (off : Nat) (n : Nat) (full : Bool) (h : Keeps σ s) :
    Keeps σ (State.regPageRead s p off n full).2 := by
  unfold State.regPageRead
  with_reducible repeat' (first
    | assumption | apply State.unmapped_keeps | apply State.log_keeps | apply State.drawBytes_keeps
    | apply State.regRead_keeps | (refine Keeps.foldl ?_ (fun _ _ _ => ?_))
    | (refine Keeps.foldl_snd ?_ (fun _ _ _ => ?_)) | (refine Keeps.foldl_fst ?_ (fun _ _ _ => ?_))
    | fail_if_no_progress apply Keeps.upd | split | intro _ | dsimp only)

theorem State.openBytes_keeps {σ : State} (s : State) (pl : Place) (a : Nat) (n : Nat) (h : Keeps σ s) :
    Keeps σ (State.openBytes s pl a n).2 := by
  unfold State.openBytes
  with_reducible repeat' (first | assumption | apply State.drawBytes_keeps)

theorem State.windowRead_keeps {σ : State} (s : State) (pl : Place) (a : Nat) (n : Nat) (h : Keeps σ s) :
    Keeps σ (State.windowRead s pl a n).2 := by
  unfold State.windowRead
  with_reducible repeat' (first
    | assumption | apply State.storeRead_keeps | apply State.respond_keeps | apply State.localRead_keeps
    | fail_if_no_progress apply Keeps.upd | split)

theorem State.aerTimeout_keeps {σ : State} (s : State) (h : Keeps σ s) :
    Keeps σ (State.aerTimeout s) := by
  unfold State.aerTimeout
  with_reducible repeat' (first | assumption | fail_if_no_progress apply Keeps.upd)

theorem State.busRead1_keeps {σ : State} (s : State) (by_ : Master) (a : Nat) (n : Nat) (full : Bool) (h : Keeps σ s) :
    Keeps σ (State.busRead1 s by_ a n full).2 := by
  unfold State.busRead1
  with_reducible repeat' (first
    | assumption | apply State.regPageRead_keeps | apply State.unmapped_keeps | apply State.respond_keeps
    | apply State.draw_keeps | apply State.drawBytes_keeps | apply State.aerTimeout_keeps
    | apply State.log_keeps | apply State.openBytes_keeps | apply State.windowRead_keeps
    | fail_if_no_progress apply Keeps.upd | split | intro _ | dsimp only)

theorem State.busWrite_keeps {σ : State} (s : State) (by_ : Master) (core : Option Nat) (wide : Bool) (a : Nat) (n : Nat) (l : List (Nat × Byte)) (h : Keeps σ s) :
    Keeps σ (State.busWrite s by_ core wide a n l) := by
  unfold State.busWrite
  with_reducible repeat' (first
    | assumption | apply State.busWrite1_keeps | (refine Keeps.foldl ?_ (fun _ _ _ => ?_))
    | (refine Keeps.foldl_snd ?_ (fun _ _ _ => ?_)) | (refine Keeps.foldl_fst ?_ (fun _ _ _ => ?_))
    | fail_if_no_progress apply Keeps.upd | split | intro _ | dsimp only)

theorem State.busRead_keeps {σ : State} (s : State) (by_ : Master) (wide : Bool) (a : Nat) (n : Nat) (on : Nat → Bool) (h : Keeps σ s) :
    Keeps σ (State.busRead s by_ wide a n on).2 := by
  unfold State.busRead
  with_reducible repeat' (first
    | assumption | apply State.busRead1_keeps | (refine Keeps.foldl ?_ (fun _ _ _ => ?_))
    | (refine Keeps.foldl_snd ?_ (fun _ _ _ => ?_)))

theorem State.accessWrite_keeps {σ : State} (s : State) (acc : Access) (h : Keeps σ s) :
    Keeps σ (State.accessWrite s acc) := by
  unfold State.accessWrite
  with_reducible repeat' (first
    | assumption | apply State.busWrite1_keeps | fail_if_no_progress apply Keeps.upd)

theorem execRegisterWrite_keeps {σ : State} (acc : Access) (s : State) {t : State} (h : Keeps σ s)
    (e : (execRegisterWrite acc s) = .next t) : Keeps σ t := by
  unfold execRegisterWrite at e
  refine Keeps.next ?_ e
  with_reducible repeat' (first
    | assumption | apply State.accessWrite_keeps | fail_if_no_progress apply Keeps.upd | split)

theorem execTableWrite_keeps {σ : State} (acc : Access) (s : State) {t : State} (h : Keeps σ s)
    (e : (execTableWrite acc s) = .next t) : Keeps σ t := by
  unfold execTableWrite at e
  refine Keeps.next ?_ e
  with_reducible repeat' (first
    | assumption | apply State.accessWrite_keeps | fail_if_no_progress apply Keeps.upd | split)

theorem State.hostReset_keeps {σ : State} (s : State) (hot : Bool) (h : Keeps σ s) :
    Keeps σ (State.hostReset s hot) := by
  unfold State.hostReset
  with_reducible repeat' (first
    | assumption | apply State.resetRegs_keeps | apply State.raise_keeps
    | fail_if_no_progress apply Keeps.upd | split | intro _ | dsimp only)

theorem execPcieReset_keeps {σ : State} (kind : PcieReset) (s : State) {t : State} (h : Keeps σ s)
    (e : (execPcieReset kind s) = .next t) : Keeps σ t := by
  unfold execPcieReset at e
  refine Keeps.next ?_ e
  with_reducible repeat' (first
    | assumption | apply State.hostReset_keeps | apply State.retriesEnd_keeps
    | apply State.masterReset_keeps | fail_if_no_progress apply Keeps.upd | split)

theorem execDstateChange_keeps {σ : State} (d3 : Bool) (s : State) {t : State} (h : Keeps σ s)
    (e : (execDstateChange d3 s) = .next t) : Keeps σ t := by
  unfold execDstateChange at e
  refine Keeps.next ?_ e
  with_reducible repeat' (first
    | assumption | apply State.raise_keeps | apply State.put_keeps | apply State.sendWaiting_keeps
    | fail_if_no_progress apply Keeps.upd | split)

theorem execPcieLinkUp_keeps {σ : State} (speed : Nat) (x2 : Bool) (cfg : PcieCfg) (s : State) {t : State} (h : Keeps σ s)
    (e : (execPcieLinkUp speed x2 cfg s) = .next t) : Keeps σ t := by
  unfold execPcieLinkUp at e
  refine Keeps.next ?_ e
  with_reducible repeat' (first
    | assumption | apply State.put_keeps | apply State.putB_keeps | apply State.sendWaiting_keeps
    | fail_if_no_progress apply Keeps.upd | split)

theorem State.noErrors_keeps {σ : State} (s : State) (h : Keeps σ s) :
    Keeps σ (State.noErrors s) := by
  unfold State.noErrors
  with_reducible repeat' (first
    | assumption | apply State.put_keeps | (refine Keeps.foldl ?_ (fun _ _ _ => ?_)))

theorem State.qspiSet_keeps {σ : State} (s : State) (done : Bool) (err : Bool) (aborted : Bool) (h : Keeps σ s) :
    Keeps σ (State.qspiSet s done err aborted) := by
  unfold State.qspiSet
  with_reducible repeat' (first | assumption | fail_if_no_progress apply Keeps.upd)

theorem State.qspiWrites_keeps {σ : State} (s : State) (addr : Nat) (words : List Word) (h : Keeps σ s) :
    Keeps σ (State.qspiWrites s addr words) := by
  unfold State.qspiWrites
  with_reducible repeat' (first
    | assumption | apply State.busWrite1_keeps | (refine Keeps.foldl ?_ (fun _ _ _ => ?_)))

theorem execQspiWrite_keeps {σ : State} (addr : Word) (cnt : Byte) (words : List Word) (s : State) {t : State} (h : Keeps σ s)
    (e : (execQspiWrite addr cnt words s) = .next t) : Keeps σ t := by
  unfold execQspiWrite at e
  refine Keeps.next ?_ e
  with_reducible repeat' (first
    | assumption | apply State.qspiSet_keeps | apply State.qspiWrites_keeps
    | fail_if_no_progress apply Keeps.upd | split)

theorem State.qspiReads_keeps {σ : State} (s : State) (addr : Nat) (n : Nat) (h : Keeps σ s) :
    Keeps σ (State.qspiReads s addr n).2 := by
  unfold State.qspiReads
  with_reducible repeat' (first
    | assumption | apply State.busRead1_keeps | (refine Keeps.foldl ?_ (fun _ _ _ => ?_))
    | (refine Keeps.foldl_snd ?_ (fun _ _ _ => ?_)))

theorem execQspiRead_keeps {σ : State} (addr : Word) (cnt : Byte) (frame : QspiFrame) (s : State) {t : State} (h : Keeps σ s)
    (e : (execQspiRead addr cnt frame s) = .next t) : Keeps σ t := by
  unfold execQspiRead at e
  refine Keeps.next ?_ e
  with_reducible repeat' (first
    | assumption | apply State.qspiSet_keeps | apply State.qspiReads_keeps
    | fail_if_no_progress apply Keeps.upd | split)

theorem execQspiStatus_keeps {σ : State} (s : State) {t : State} (h : Keeps σ s)
    (e : (execQspiStatus s) = .next t) : Keeps σ t := by
  unfold execQspiStatus at e
  refine Keeps.next ?_ e
  with_reducible repeat' (first | assumption | fail_if_no_progress apply Keeps.upd | split)

theorem State.retryFail_keeps {σ : State} (s : State) (h : Keeps σ s) :
    Keeps σ (State.retryFail s) := by
  unfold State.retryFail
  with_reducible repeat' (first
    | assumption | apply State.respond_keeps | apply State.raise_keeps | apply State.bump_keeps)

theorem State.timerStart_keeps {σ : State} (s : State) (m : Master) (h : Keeps σ s) :
    Keeps σ (State.timerStart s m) := by
  unfold State.timerStart
  with_reducible repeat' (first
    | assumption | fail_if_no_progress apply Keeps.upd | split | intro _ | dsimp only)

theorem State.timerStop_keeps {σ : State} (s : State) (m : Master) (h : Keeps σ s) :
    Keeps σ (State.timerStop s m) := by
  unfold State.timerStop
  with_reducible repeat' (first | assumption | fail_if_no_progress apply Keeps.upd | split)

theorem State.retryQueue_keeps {σ : State} (s : State) (r : Retry) (h : Keeps σ s) :
    Keeps σ (State.retryQueue s r) := by
  unfold State.retryQueue
  with_reducible repeat' (first
    | assumption | apply State.retryFail_keeps | apply State.timerStart_keeps | apply State.outstView_keeps
    | fail_if_no_progress apply Keeps.upd | split)

theorem State.busServe_keeps {σ : State} (s : State) (by_ : Master) (write : Bool) (addr : Nat) (bytes : List Byte) (strobes : List Bool) (core : Option Nat) (h : Keeps σ s) :
    Keeps σ (State.busServe s by_ write addr bytes strobes core) := by
  unfold State.busServe
  with_reducible repeat' (first
    | assumption | apply State.busWrite_keeps | apply State.busRead_keeps
    | fail_if_no_progress apply Keeps.upd | split)

theorem State.busIssue_keeps {σ : State} (s : State) (r : Retry) (inL0 : Bool) (h : Keeps σ s) :
    Keeps σ (State.busIssue s r inL0) := by
  unfold State.busIssue
  with_reducible repeat' (first
    | assumption | apply State.retryQueue_keeps | apply State.busServe_keeps
    | fail_if_no_progress apply Keeps.upd | split)

theorem execBusTransaction_keeps {σ : State} (by_ : Master) (write : Bool) (addr : Nat) (bytes : List Byte) (strobes : List Bool) (qos : BitVec 4) (core : Nat) (inL0 : Bool) (s : State) {t : State} (h : Keeps σ s)
    (e : (execBusTransaction by_ write addr bytes strobes qos core inL0 s) = .next t) : Keeps σ t := by
  unfold execBusTransaction at e
  refine Keeps.next ?_ e
  with_reducible repeat' (first
    | assumption | apply State.busIssue_keeps | fail_if_no_progress apply Keeps.upd | split | intro _
    | dsimp only)

theorem State.busReissue_keeps {σ : State} (s : State) (r : Retry) (inL0 : Bool) (h : Keeps σ s) :
    Keeps σ (State.busReissue s r inL0) := by
  unfold State.busReissue
  with_reducible repeat' (first
    | assumption | apply State.outstView_keeps | apply State.timerStop_keeps | apply State.respond_keeps
    | apply State.busServe_keeps | apply State.retryFail_keeps | fail_if_no_progress apply Keeps.upd
    | split)

theorem execBusRetry_keeps {σ : State} (by_ : Master) (inL0 : Bool) (s : State) {t : State} (h : Keeps σ s)
    (e : (execBusRetry by_ inL0 s) = .next t) : Keeps σ t := by
  unfold execBusRetry at e
  refine Keeps.next ?_ e
  with_reducible repeat' (first
    | assumption | apply State.busIssue_keeps | apply State.busReissue_keeps
    | fail_if_no_progress apply Keeps.upd | split)

theorem State.setDma_keeps {σ : State} (s : State) (e : Nat) (d : Dma) (h : Keeps σ s) :
    Keeps σ (State.setDma s e d) := by
  unfold State.setDma
  with_reducible repeat' (first | assumption | fail_if_no_progress apply Keeps.upd)

theorem execDmaDescriptorStart_keeps {σ : State} (e : Nat) (s : State) {t : State} (h : Keeps σ s)
    (e : (execDmaDescriptorStart e s) = .next t) : Keeps σ t := by
  unfold execDmaDescriptorStart at e
  refine Keeps.next ?_ e
  with_reducible repeat' (first
    | assumption | apply State.busRead_keeps | apply State.setDma_keeps | apply State.putB_keeps
    | fail_if_no_progress apply Keeps.upd | split)

theorem State.dmaRead_keeps {σ : State} (s : State) (e : Nat) (a : Nat) (n : Nat) (h : Keeps σ s) :
    Keeps σ (State.dmaRead s e a n).2 := by
  unfold State.dmaRead
  with_reducible repeat' (first
    | assumption | apply State.busRead1_keeps | (refine Keeps.foldl ?_ (fun _ _ _ => ?_))
    | (refine Keeps.foldl_snd ?_ (fun _ _ _ => ?_)) | (refine Keeps.foldl_fst ?_ (fun _ _ _ => ?_))
    | fail_if_no_progress apply Keeps.upd | split | intro _ | dsimp only)

theorem State.dmaWriteRow_keeps {σ : State} (s : State) (e : Nat) (a : Nat) (l : List Byte) (h : Keeps σ s) :
    Keeps σ (State.dmaWriteRow s e a l) := by
  unfold State.dmaWriteRow
  with_reducible repeat' (first
    | assumption | apply State.busWrite1_keeps | (refine Keeps.foldl ?_ (fun _ _ _ => ?_))
    | (refine Keeps.foldl_snd ?_ (fun _ _ _ => ?_)) | (refine Keeps.foldl_fst ?_ (fun _ _ _ => ?_))
    | fail_if_no_progress apply Keeps.upd | split)

theorem State.dmaRow_keeps {σ : State} (s : State) (e : Nat) (d : Nat) (r : Nat) (n : Nat) (h : Keeps σ s) :
    Keeps σ (State.dmaRow s e d r n) := by
  unfold State.dmaRow
  with_reducible repeat' (first
    | assumption | apply State.dmaRead_keeps | apply State.dmaWriteRow_keeps | apply State.respond_keeps
    | fail_if_no_progress apply Keeps.upd | split)

theorem State.dmaMove_keeps {σ : State} (s : State) (e : Nat) (d : Nat) (limit : Nat) (h : Keeps σ s) :
    Keeps σ (State.dmaMove s e d limit) := by
  unfold State.dmaMove
  with_reducible repeat' (first
    | assumption | apply State.dmaRow_keeps | (refine Keeps.foldl ?_ (fun _ _ _ => ?_))
    | (refine Keeps.foldl_snd ?_ (fun _ _ _ => ?_)) | (refine Keeps.foldl_fst ?_ (fun _ _ _ => ?_))
    | fail_if_no_progress apply Keeps.upd)

theorem State.dmaHalt_keeps {σ : State} (s : State) (e : Nat) (h : Keeps σ s) :
    Keeps σ (State.dmaHalt s e) := by
  unfold State.dmaHalt
  with_reducible repeat' (first
    | assumption | apply State.raise_keeps | apply State.putB_keeps | fail_if_no_progress apply Keeps.upd
    | split | intro _ | dsimp only)

theorem State.dmaSignal_keeps {σ : State} (s : State) (d : Nat) (h : Keeps σ s) :
    Keeps σ (State.dmaSignal s d) := by
  unfold State.dmaSignal
  with_reducible repeat' (first
    | assumption | apply State.setCore_keeps | fail_if_no_progress apply Keeps.upd | split | intro _
    | dsimp only)

theorem State.dmaEnd_keeps {σ : State} (s : State) (e : Nat) (code : Nat) (h : Keeps σ s) :
    Keeps σ (State.dmaEnd s e code) := by
  unfold State.dmaEnd
  with_reducible repeat' (first
    | assumption | apply State.busWrite_keeps | apply State.put_keeps | apply State.bump_keeps
    | apply State.setDma_keeps | apply State.putB_keeps | apply State.raise_keeps
    | apply State.dmaSignal_keeps | apply State.log_keeps | apply State.dmaHalt_keeps
    | fail_if_no_progress apply Keeps.upd | split)

theorem execDmaDescriptorDone_keeps {σ : State} (e : Nat) (busErr : Bool) (moved : Nat) (s : State) {t : State} (h : Keeps σ s)
    (e : (execDmaDescriptorDone e busErr moved s) = .next t) : Keeps σ t := by
  unfold execDmaDescriptorDone at e
  refine Keeps.next ?_ e
  with_reducible repeat' (first
    | assumption | apply State.dmaEnd_keeps | apply State.dmaMove_keeps
    | fail_if_no_progress apply Keeps.upd | split)

theorem execDmaTimeout_keeps {σ : State} (e : Nat) (moved : Nat) (s : State) {t : State} (h : Keeps σ s)
    (e : (execDmaTimeout e moved s) = .next t) : Keeps σ t := by
  unfold execDmaTimeout at e
  refine Keeps.next ?_ e
  with_reducible repeat' (first
    | assumption | apply State.dmaMove_keeps | apply State.dmaEnd_keeps | apply State.masterReset_keeps
    | fail_if_no_progress apply Keeps.upd | split)

end Sys2Proof.Machine
end

