-- ==== Sys2Proof/Laws/Only.lean ====
section
/-! SUPPORT. The relation `Only` between two states: reflexive, transitive, monotone; a record update of
named parts has it, and folds have it where their step has. The sets of parts that the functions of the
machine change. -/

namespace Sys2Proof.Machine

theorem Only.refl (ps : List Part) (s : State) : Only ps s s :=
  ⟨rfl, fun p _ => by cases p <;> rfl⟩

theorem Only.trans {ps : List Part} {a b c : State} (h : Only ps a b) (g : Only ps b c) : Only ps a c :=
  ⟨g.pending.trans h.pending, fun p hp => by
    have h1 := h.same p hp
    have h2 := g.same p hp
    cases p <;> exact Eq.trans h2 h1⟩

theorem Only.mono {ps qs : List Part} {a b : State} (h : Only ps a b) (hq : ∀ x ∈ ps, x ∈ qs) : Only qs a b :=
  ⟨h.pending, fun p hp => h.same p (fun m => hp (hq p m))⟩

/-- A fold whose step has it. -/
theorem Only.foldl {ps : List Part} {β : Type} {a : State} {f : State → β → State} {l : List β} {s : State}
    (h : Only ps a s) (hf : ∀ t x, Only ps a t → Only ps a (f t x)) : Only ps a (l.foldl f s) := by
  induction l generalizing s with
  | nil => exact h
  | cons x l ih => exact ih (hf s x h)

/-- The same for a fold that carries a state beside other data. -/
theorem Only.foldl_snd {ps : List Part} {β γ : Type} {a : State} {f : γ × State → β → γ × State} {l : List β}
    {p : γ × State} (h : Only ps a p.2) (hf : ∀ t x, Only ps a t.2 → Only ps a (f t x).2) :
    Only ps a (l.foldl f p).2 := by
  induction l generalizing p with
  | nil => exact h
  | cons x l ih => exact ih (hf p x h)

theorem Only.foldl_fst {ps : List Part} {β γ : Type} {a : State} {f : State × γ → β → State × γ} {l : List β}
    {p : State × γ} (h : Only ps a p.1) (hf : ∀ t x, Only ps a t.1 → Only ps a (f t x).1) :
    Only ps a (l.foldl f p).1 := by
  induction l generalizing p with
  | nil => exact h
  | cons x l ih => exact ih (hf p x h)

/-- The answer of a command that is a next state. -/
theorem Only.next {ps : List Part} {a b c : State} (h : Only ps a b)
    (e : (Host.Outcome.next b : Host.Outcome State Fault Refusal) = .next c) : Only ps a c := by
  cases e; exact h

/-! ### The sets -/

def parts0 : List Part := [.respErr]
def parts1 : List Part := [.fld]
def parts2 : List Part := [.shadow]
def parts3 : List Part := [.shadow, .dirtyReg]
def parts4 : List Part := [.dirtyReg]
def parts5 : List Part := [.time]
def parts6 : List Part := [.freeCtr]
def parts7 : List Part := [.undef]
def parts8 : List Part := [.fld, .freeCtr, .readData]
def parts9 : List Part := [.readData]
def parts10 : List Part := [.mem]
def parts11 : List Part := [.fld, .shadow, .dirtyReg]
def parts12 : List Part := [.fld, .ledger]
def parts13 : List Part := [.ledger]
def parts14 : List Part := [.ecc]
def parts15 : List Part := [.fld, .undef]
def parts16 : List Part := [.fld, .mem, .ecc, .undef]
def parts17 : List Part := [.clus]
def parts18 : List Part := [.cores]
def parts19 : List Part := [.fld, .cores, .clus, .ledger]
def parts20 : List Part := []
def parts21 : List Part := [.fld, .undef, .cores, .clus, .ledger]
def parts22 : List Part := [.mem, .ecc]
def parts23 : List Part := [.fld, .undef, .cores, .clus, .ledger, .respErr]
def parts24 : List Part := [.fld, .mem, .ecc, .undef, .cores, .clus, .ledger]
def parts25 : List Part := [.mem, .ecc, .clus]
def parts26 : List Part := [.fld, .cores]
def parts27 : List Part := [.mem, .marks]
def parts28 : List Part := [.marks]
def parts29 : List Part := [.oryx]
def parts30 : List Part := [.fld, .oryx]
def parts31 : List Part := [.fld, .mem, .marks, .oryx]
def parts32 : List Part := [.meters]
def parts33 : List Part := [.fld, .mem, .meters]
def parts34 : List Part := [.eqSecs]
def parts35 : List Part := [.fld, .eqSecs]
def parts36 : List Part := [.fld, .mem, .marks, .eqSecs]
def parts37 : List Part := [.delay]
def parts38 : List Part := [.fld, .mem, .ecc, .undef, .delay]
def parts39 : List Part := [.fld, .delay]
def parts40 : List Part := [.fld, .undef, .delay]
def parts41 : List Part := [.fld, .mem, .marks, .ecc, .undef, .delay]
def parts42 : List Part := [.lanes]
def parts43 : List Part := [.ring]
def parts44 : List Part := [.fld, .dpll]
def parts45 : List Part := [.dpll]
def parts46 : List Part := [.fld, .time]
def parts47 : List Part := [.fld, .time, .readData]
def parts48 : List Part := [.fld, .lanes]
def parts49 : List Part := [.fld, .time, .dpll]
def parts50 : List Part := [.lanes, .freeCtr]
def parts51 : List Part := [.fld, .lanes, .ring]
def parts52 : List Part := [.fld, .ring, .freeCtr]
def parts53 : List Part := [.fld, .ring, .dpll, .freeCtr]
def parts54 : List Part := [.fld, .ledger, .lanes, .ring, .dpll, .freeCtr]
def parts55 : List Part := [.fld, .ledger, .lanes]
def parts56 : List Part := [.fld, .ledger, .lanes, .dpll]
def parts57 : List Part := [.fld, .lanes, .freeCtr]
def parts58 : List Part := [.fld, .freeCtr]
def parts59 : List Part := [.fld, .ring]
def parts60 : List Part := [.fld, .lanes, .ring, .dpll, .freeCtr]
def parts61 : List Part := [.fld, .ledger, .lanes, .freeCtr]
def parts62 : List Part := [.fld, .ledger, .lanes, .dpll, .freeCtr]
def parts63 : List Part := [.fld, .lanes, .ring, .freeCtr]
def parts64 : List Part := [.ring, .readData]
def parts65 : List Part := [.fld, .ring, .freeCtr, .readData]
def parts66 : List Part := [.fld, .mem, .ecc, .undef, .ring]
def parts67 : List Part := [.fseq, .ring]
def parts68 : List Part := [.fld, .undef, .fseq, .ring]
def parts69 : List Part := [.fld, .mem, .ecc, .undef, .ledger, .lanes, .ring, .dpll]
def parts70 : List Part := [.fld, .ledger, .lanes, .ring, .dpll]
def parts71 : List Part := [.audio]
def parts72 : List Part := [.fld, .audio]
def parts73 : List Part := [.fld, .shadow, .audio]
def parts74 : List Part := [.fld, .shadow, .dirtyReg, .audio]
def parts75 : List Part := [.startTrig]
def parts76 : List Part := [.fld, .startTrig]
def parts77 : List Part := [.fld, .audio, .startTrig]
def parts78 : List Part := [.fld, .mem]
def parts79 : List Part := [.fld, .mem, .ecc, .undef, .clus, .fseq, .oryx, .eqSecs, .delay]
def parts80 : List Part := [.fseq]
def parts81 : List Part := [.fld, .mem, .marks, .ecc, .undef, .oryx, .eqSecs, .delay]
def parts82 : List Part := [.fld, .mem, .marks, .ecc, .undef, .cores, .clus, .fseq, .oryx, .eqSecs, .delay]
def parts83 : List Part := [.fld, .time, .ring, .dpll]
def parts84 : List Part := [.fld, .undef, .time, .fseq, .lanes, .ring, .dpll, .freeCtr]
def parts85 : List Part := [.fseq, .dpll]
def parts86 : List Part := [.amps]
def parts87 : List Part := [.boosts]
def parts88 : List Part := [.fld, .boosts]
def parts89 : List Part := [.fld, .ledger, .boosts]
def parts90 : List Part := [.amps, .freeCtr]
def parts91 : List Part := [.fld, .amps, .boosts, .freeCtr]
def parts92 : List Part := [.fld, .ledger, .amps, .boosts, .freeCtr]
def parts93 : List Part := [.fld, .amps]
def parts94 : List Part := [.fld, .cal]
def parts95 : List Part := [.cal]
def parts96 : List Part := [.fld, .amps, .freeCtr]
def parts97 : List Part := [.fld, .staged, .dirtyTab, .dirtyReg, .cores]
def parts98 : List Part := [.staged, .dirtyTab, .dirtyReg]
def parts99 : List Part := [.fld, .staged, .dirtyTab, .dirtyReg, .cores, .oryx]
def parts100 : List Part := [.fld, .commit]
def parts101 : List Part := [.commit]
def parts102 : List Part := [.fld, .staged, .dirtyTab, .dirtyReg, .cores, .oryx, .commit]
def parts103 : List Part := [.fld, .undef, .fseq, .eqSecs, .delay]
def parts104 : List Part := [.fseq, .eqSecs]
def parts105 : List Part := [.fld, .fseq, .ring, .audio, .amps]
def parts106 : List Part := [.fld, .mem, .ecc, .undef, .fseq, .meters, .eqSecs, .delay, .ring]
def parts107 : List Part := [.audio, .amps]
def parts108 : List Part := [.fld, .mem, .ecc, .undef, .cores, .clus, .fseq, .meters, .eqSecs, .delay,
  .ledger, .ring, .audio, .amps]
def parts109 : List Part := [.fseq, .audio]
def parts110 : List Part := [.fld, .staged, .dirtyTab, .dirtyReg, .mem, .marks, .ecc, .undef, .cores, .clus,
  .fseq, .oryx, .meters, .eqSecs, .delay, .ledger, .ring, .audio, .amps, .commit]
def parts111 : List Part := [.fseq, .oryx]
def parts112 : List Part := [.fld, .mem, .marks, .ecc, .undef, .cores, .clus, .fseq, .oryx, .meters,
  .eqSecs, .delay]
def parts113 : List Part := [.fld, .mem, .marks, .ecc, .undef, .time, .cores, .clus, .fseq, .oryx, .meters,
  .eqSecs, .delay, .ledger, .ring, .audio, .amps, .boosts, .freeCtr]
def parts114 : List Part := [.cores, .clus]
def parts115 : List Part := [.fld, .marks, .cores, .clus, .fseq]
def parts116 : List Part := [.fld, .mem, .marks, .cores, .clus, .fseq]
def parts117 : List Part := [.fld, .marks]
def parts118 : List Part := [.oryx, .readData]
def parts119 : List Part := [.fld, .oryx, .freeCtr, .readData]
def parts120 : List Part := [.fld, .mem, .marks]
def parts121 : List Part := [.fld, .ecc, .undef]
def parts122 : List Part := [.fld, .mem, .ecc, .delay]
def parts123 : List Part := [.fld, .ecc, .undef, .ledger]
def parts124 : List Part := [.fld, .ecc, .undef, .vcore]
def parts125 : List Part := [.vcore]
def parts126 : List Part := [.dmas]
def parts127 : List Part := [.fld, .dmas, .retries, .respErr]
def parts128 : List Part := [.retries]
def parts129 : List Part := [.fld, .retries]
def parts130 : List Part := [.fld, .mem, .ecc, .undef, .cores, .clus, .ledger, .freeCtr, .respErr]
def parts131 : List Part := [.fld, .mem, .ecc, .undef, .cores, .clus, .ledger, .dmas, .retries, .freeCtr,
  .respErr]
def parts132 : List Part := [.fld, .mem, .ecc]
def parts133 : List Part := [.fld, .mem, .ecc, .cores, .clus]
def parts134 : List Part := [.fld, .cores, .clus]
def parts135 : List Part := [.fld, .mem, .marks, .undef, .cores, .clus, .ledger]
def parts136 : List Part := [.fld, .clus]
def parts137 : List Part := [.fld, .shadow, .staged, .dirtyTab, .dirtyReg, .cores]
def parts138 : List Part := [.fld, .cores, .freeCtr]
def parts139 : List Part := [.fld, .pins, .freeCtr]
def parts140 : List Part := [.pins]
def parts141 : List Part := [.fld, .pins, .vcore, .freeCtr]
def parts142 : List Part := [.fld, .shadow, .staged, .dirtyTab, .dirtyReg]
def parts143 : List Part := [.marks, .cores, .clus, .fseq, .oryx, .meters, .eqSecs, .delay, .lanes, .ring,
  .audio, .startTrig, .amps, .boosts, .cal, .dmas, .vcore]
def parts144 : List Part := [.fld, .shadow, .staged, .dirtyTab, .dirtyReg, .mem, .marks, .ecc, .undef,
  .cores, .clus, .fseq, .oryx, .meters, .eqSecs, .delay, .lanes, .ring, .audio, .startTrig, .amps, .boosts,
  .cal, .dmas, .vcore]
def parts145 : List Part := [.mem, .ecc, .undef]
def parts146 : List Part := [.fld, .mem, .ecc, .undef, .cores, .clus, .ledger, .dpll, .dmas, .retries,
  .freeCtr, .respErr]
def parts147 : List Part := [.fld, .shadow, .staged, .dirtyTab, .dirtyReg, .mem, .marks, .ecc, .dom, .undef,
  .cores, .clus, .fseq, .oryx, .meters, .eqSecs, .delay, .ledger, .lanes, .ring, .audio, .startTrig, .amps,
  .boosts, .cal, .dmas, .vcore]
def parts148 : List Part := [.dom]
def parts149 : List Part := [.fld, .shadow, .staged, .dirtyTab, .dirtyReg, .mem, .marks, .ecc, .dom, .undef,
  .cores, .clus, .fseq, .oryx, .meters, .eqSecs, .delay, .ledger, .lanes, .ring, .dpll, .audio, .startTrig,
  .amps, .boosts, .cal, .dmas, .vcore, .freeCtr]
def parts150 : List Part := [.fld, .pwr]
def parts151 : List Part := [.pwr]
def parts152 : List Part := [.fld, .pwr, .vcore]
def parts153 : List Part := [.fld, .ledger, .pwr, .vcore]
def parts154 : List Part := [.fld, .shadow, .staged, .dirtyTab, .dirtyReg, .mem, .marks, .ecc, .dom, .undef,
  .cores, .clus, .fseq, .oryx, .meters, .eqSecs, .delay, .ledger, .pwr, .lanes, .ring, .dpll, .audio,
  .startTrig, .amps, .boosts, .cal, .dmas, .retries, .vcore, .freeCtr, .respErr]
def parts155 : List Part := [.fld, .shadow, .staged, .dirtyTab, .dirtyReg, .mem, .marks, .ecc, .dom, .undef,
  .cores, .clus, .fseq, .oryx, .meters, .eqSecs, .delay, .ledger, .pwr, .lanes, .ring, .dpll, .audio,
  .startTrig, .amps, .boosts, .cal, .dmas, .vcore, .freeCtr]
def parts156 : List Part := [.fld, .cores, .clus, .ledger, .pwr, .lanes, .boosts, .vcore]
def parts157 : List Part := [.fld, .undef, .dpll]
def parts158 : List Part := [.fld, .ledger, .pwr, .pins, .vcore, .freeCtr]
def parts159 : List Part := [.mgmt]
def parts160 : List Part := [.mgmt, .freeCtr]
def parts161 : List Part := [.fld, .mgmt]
def parts162 : List Part := [.fld, .mgmt, .freeCtr]
def parts163 : List Part := [.fld, .mgmt, .retries]
def parts164 : List Part := [.fld, .mgmt, .retries, .freeCtr]
def parts165 : List Part := [.inReset, .fld, .shadow, .staged, .dirtyTab, .dirtyReg, .mem, .marks, .ecc,
  .dom, .undef, .time, .cores, .clus, .fseq, .oryx, .meters, .eqSecs, .delay, .ledger, .pwr, .lanes, .ring,
  .dpll, .audio, .startTrig, .amps, .boosts, .cal, .commit, .mgmt, .pins, .dmas, .retries, .vcore, .freeCtr,
  .readData, .respErr]
def parts166 : List Part := [.mgmt, .pins]
def parts167 : List Part := [.inReset]
def parts168 : List Part := [.fld, .pins]
def parts169 : List Part := [.fld, .shadow, .staged]
def parts170 : List Part := [.fld, .shadow, .staged, .dpll]
def parts171 : List Part := [.fld, .shadow, .staged, .ledger]
def parts172 : List Part := [.fld, .shadow, .staged, .ledger, .pwr, .vcore]
def parts173 : List Part := [.fld, .shadow, .staged, .ledger, .lanes, .ring, .dpll, .freeCtr]
def parts174 : List Part := [.fld, .shadow, .staged, .ring]
def parts175 : List Part := [.fld, .shadow, .staged, .ring, .retries]
def parts176 : List Part := [.fld, .shadow, .staged, .audio]
def parts177 : List Part := [.fld, .shadow, .staged, .amps]
def parts178 : List Part := [.fld, .shadow, .staged, .cores, .clus, .ledger, .retries]
def parts179 : List Part := [.fld, .shadow, .staged, .cores]
def parts180 : List Part := [.fld, .shadow, .staged, .fseq]
def parts181 : List Part := [.fld, .shadow, .staged, .commit]
def parts182 : List Part := [.fld, .shadow, .staged, .mem, .ecc, .undef, .cores, .clus, .fseq, .oryx,
  .meters, .eqSecs, .delay, .ledger, .pwr, .lanes, .ring, .dpll, .audio, .amps, .boosts, .commit, .dmas,
  .retries, .vcore, .freeCtr, .respErr]
def parts183 : List Part := [.oryx, .meters, .eqSecs, .delay]
def parts184 : List Part := [.fld, .dirtyTab, .mem, .ecc]
def parts185 : List Part := [.dirtyTab]
def parts186 : List Part := [.fld, .undef, .cores]
def parts187 : List Part := [.fld, .shadow, .dirtyReg, .undef, .cores]
def parts188 : List Part := [.fld, .shadow, .dirtyReg, .ledger, .lanes, .ring, .dpll, .freeCtr]
def parts189 : List Part := [.fld, .shadow, .dirtyReg, .audio, .startTrig]
def parts190 : List Part := [.fld, .shadow, .dirtyReg, .amps, .boosts, .freeCtr]
def parts191 : List Part := [.fld, .shadow, .dirtyReg, .ledger, .audio, .startTrig, .amps, .boosts, .cal,
  .freeCtr]
def parts192 : List Part := [.fld, .ledger, .lanes, .ring, .dpll, .audio, .amps, .boosts, .freeCtr]
def parts193 : List Part := [.fld, .oryx, .ring, .freeCtr, .readData]
def parts194 : List Part := [.fld, .dirtyTab, .undef]
def parts195 : List Part := [.fld, .dirtyTab, .mem, .undef]
def parts196 : List Part := [.fld, .dirtyTab, .mem, .ecc, .undef, .cores, .clus, .ledger]
def parts197 : List Part := [.fld, .undef, .cores, .clus, .oryx, .ledger, .ring, .pins, .freeCtr, .readData,
  .respErr]
def parts198 : List Part := [.fld, .shadow, .staged, .pins]
def parts199 : List Part := [.fld, .shadow, .staged, .pins, .dmas, .retries, .respErr]
def parts200 : List Part := [.readData, .respErr]
def parts201 : List Part := [.fld, .respErr]
def parts202 : List Part := [.retries, .readData, .respErr]
def parts203 : List Part := [.fld, .undef, .cores, .clus, .oryx, .ledger, .ring, .pins, .dmas, .freeCtr,
  .readData, .respErr]

/-! ### Their inclusions -/

theorem parts2_3 : ∀ x ∈ parts2, x ∈ parts3 := by decide
theorem parts4_3 : ∀ x ∈ parts4, x ∈ parts3 := by decide
theorem parts1_8 : ∀ x ∈ parts1, x ∈ parts8 := by decide
theorem parts6_8 : ∀ x ∈ parts6, x ∈ parts8 := by decide
theorem parts9_8 : ∀ x ∈ parts9, x ∈ parts8 := by decide
theorem parts1_11 : ∀ x ∈ parts1, x ∈ parts11 := by decide
theorem parts3_11 : ∀ x ∈ parts3, x ∈ parts11 := by decide
theorem parts1_12 : ∀ x ∈ parts1, x ∈ parts12 := by decide
theorem parts13_12 : ∀ x ∈ parts13, x ∈ parts12 := by decide
theorem parts7_15 : ∀ x ∈ parts7, x ∈ parts15 := by decide
theorem parts1_15 : ∀ x ∈ parts1, x ∈ parts15 := by decide
theorem parts14_16 : ∀ x ∈ parts14, x ∈ parts16 := by decide
theorem parts10_16 : ∀ x ∈ parts10, x ∈ parts16 := by decide
theorem parts15_16 : ∀ x ∈ parts15, x ∈ parts16 := by decide
theorem parts1_16 : ∀ x ∈ parts1, x ∈ parts16 := by decide
theorem parts1_19 : ∀ x ∈ parts1, x ∈ parts19 := by decide
theorem parts12_19 : ∀ x ∈ parts12, x ∈ parts19 := by decide
theorem parts17_19 : ∀ x ∈ parts17, x ∈ parts19 := by decide
theorem parts18_19 : ∀ x ∈ parts18, x ∈ parts19 := by decide
theorem parts20_1 : ∀ x ∈ parts20, x ∈ parts1 := by decide
theorem parts7_21 : ∀ x ∈ parts7, x ∈ parts21 := by decide
theorem parts19_21 : ∀ x ∈ parts19, x ∈ parts21 := by decide
theorem parts1_21 : ∀ x ∈ parts1, x ∈ parts21 := by decide
theorem parts14_22 : ∀ x ∈ parts14, x ∈ parts22 := by decide
theorem parts10_22 : ∀ x ∈ parts10, x ∈ parts22 := by decide
theorem parts21_23 : ∀ x ∈ parts21, x ∈ parts23 := by decide
theorem parts0_23 : ∀ x ∈ parts0, x ∈ parts23 := by decide
theorem parts22_24 : ∀ x ∈ parts22, x ∈ parts24 := by decide
theorem parts21_24 : ∀ x ∈ parts21, x ∈ parts24 := by decide
theorem parts22_25 : ∀ x ∈ parts22, x ∈ parts25 := by decide
theorem parts17_25 : ∀ x ∈ parts17, x ∈ parts25 := by decide
theorem parts18_24 : ∀ x ∈ parts18, x ∈ parts24 := by decide
theorem parts1_24 : ∀ x ∈ parts1, x ∈ parts24 := by decide
theorem parts25_24 : ∀ x ∈ parts25, x ∈ parts24 := by decide
theorem parts18_26 : ∀ x ∈ parts18, x ∈ parts26 := by decide
theorem parts20_26 : ∀ x ∈ parts20, x ∈ parts26 := by decide
theorem parts1_26 : ∀ x ∈ parts1, x ∈ parts26 := by decide
theorem parts26_24 : ∀ x ∈ parts26, x ∈ parts24 := by decide
theorem parts18_21 : ∀ x ∈ parts18, x ∈ parts21 := by decide
theorem parts26_21 : ∀ x ∈ parts26, x ∈ parts21 := by decide
theorem parts10_27 : ∀ x ∈ parts10, x ∈ parts27 := by decide
theorem parts28_27 : ∀ x ∈ parts28, x ∈ parts27 := by decide
theorem parts1_30 : ∀ x ∈ parts1, x ∈ parts30 := by decide
theorem parts29_30 : ∀ x ∈ parts29, x ∈ parts30 := by decide
theorem parts30_31 : ∀ x ∈ parts30, x ∈ parts31 := by decide
theorem parts27_31 : ∀ x ∈ parts27, x ∈ parts31 := by decide
theorem parts1_31 : ∀ x ∈ parts1, x ∈ parts31 := by decide
theorem parts29_31 : ∀ x ∈ parts29, x ∈ parts31 := by decide
theorem parts32_33 : ∀ x ∈ parts32, x ∈ parts33 := by decide
theorem parts1_33 : ∀ x ∈ parts1, x ∈ parts33 := by decide
theorem parts10_33 : ∀ x ∈ parts10, x ∈ parts33 := by decide
theorem parts1_35 : ∀ x ∈ parts1, x ∈ parts35 := by decide
theorem parts34_35 : ∀ x ∈ parts34, x ∈ parts35 := by decide
theorem parts35_36 : ∀ x ∈ parts35, x ∈ parts36 := by decide
theorem parts27_36 : ∀ x ∈ parts27, x ∈ parts36 := by decide
theorem parts1_36 : ∀ x ∈ parts1, x ∈ parts36 := by decide
theorem parts37_38 : ∀ x ∈ parts37, x ∈ parts38 := by decide
theorem parts16_38 : ∀ x ∈ parts16, x ∈ parts38 := by decide
theorem parts1_39 : ∀ x ∈ parts1, x ∈ parts39 := by decide
theorem parts37_39 : ∀ x ∈ parts37, x ∈ parts39 := by decide
theorem parts15_40 : ∀ x ∈ parts15, x ∈ parts40 := by decide
theorem parts37_40 : ∀ x ∈ parts37, x ∈ parts40 := by decide
theorem parts39_41 : ∀ x ∈ parts39, x ∈ parts41 := by decide
theorem parts38_41 : ∀ x ∈ parts38, x ∈ parts41 := by decide
theorem parts40_41 : ∀ x ∈ parts40, x ∈ parts41 := by decide
theorem parts27_41 : ∀ x ∈ parts27, x ∈ parts41 := by decide
theorem parts37_41 : ∀ x ∈ parts37, x ∈ parts41 := by decide
theorem parts1_41 : ∀ x ∈ parts1, x ∈ parts41 := by decide
theorem parts1_38 : ∀ x ∈ parts1, x ∈ parts38 := by decide
theorem parts39_40 : ∀ x ∈ parts39, x ∈ parts40 := by decide
theorem parts1_44 : ∀ x ∈ parts1, x ∈ parts44 := by decide
theorem parts45_44 : ∀ x ∈ parts45, x ∈ parts44 := by decide
theorem parts1_46 : ∀ x ∈ parts1, x ∈ parts46 := by decide
theorem parts5_46 : ∀ x ∈ parts5, x ∈ parts46 := by decide
theorem parts5_47 : ∀ x ∈ parts5, x ∈ parts47 := by decide
theorem parts1_47 : ∀ x ∈ parts1, x ∈ parts47 := by decide
theorem parts9_47 : ∀ x ∈ parts9, x ∈ parts47 := by decide
theorem parts42_48 : ∀ x ∈ parts42, x ∈ parts48 := by decide
theorem parts1_48 : ∀ x ∈ parts1, x ∈ parts48 := by decide
theorem parts5_49 : ∀ x ∈ parts5, x ∈ parts49 := by decide
theorem parts1_49 : ∀ x ∈ parts1, x ∈ parts49 := by decide
theorem parts45_49 : ∀ x ∈ parts45, x ∈ parts49 := by decide
theorem parts6_50 : ∀ x ∈ parts6, x ∈ parts50 := by decide
theorem parts42_50 : ∀ x ∈ parts42, x ∈ parts50 := by decide
theorem parts1_51 : ∀ x ∈ parts1, x ∈ parts51 := by decide
theorem parts42_51 : ∀ x ∈ parts42, x ∈ parts51 := by decide
theorem parts43_51 : ∀ x ∈ parts43, x ∈ parts51 := by decide
theorem parts6_52 : ∀ x ∈ parts6, x ∈ parts52 := by decide
theorem parts1_52 : ∀ x ∈ parts1, x ∈ parts52 := by decide
theorem parts43_52 : ∀ x ∈ parts43, x ∈ parts52 := by decide
theorem parts44_53 : ∀ x ∈ parts44, x ∈ parts53 := by decide
theorem parts52_53 : ∀ x ∈ parts52, x ∈ parts53 := by decide
theorem parts1_53 : ∀ x ∈ parts1, x ∈ parts53 := by decide
theorem parts48_54 : ∀ x ∈ parts48, x ∈ parts54 := by decide
theorem parts12_54 : ∀ x ∈ parts12, x ∈ parts54 := by decide
theorem parts42_54 : ∀ x ∈ parts42, x ∈ parts54 := by decide
theorem parts1_54 : ∀ x ∈ parts1, x ∈ parts54 := by decide
theorem parts53_54 : ∀ x ∈ parts53, x ∈ parts54 := by decide
theorem parts1_55 : ∀ x ∈ parts1, x ∈ parts55 := by decide
theorem parts12_55 : ∀ x ∈ parts12, x ∈ parts55 := by decide
theorem parts48_55 : ∀ x ∈ parts48, x ∈ parts55 := by decide
theorem parts1_56 : ∀ x ∈ parts1, x ∈ parts56 := by decide
theorem parts12_56 : ∀ x ∈ parts12, x ∈ parts56 := by decide
theorem parts42_56 : ∀ x ∈ parts42, x ∈ parts56 := by decide
theorem parts44_56 : ∀ x ∈ parts44, x ∈ parts56 := by decide
theorem parts6_57 : ∀ x ∈ parts6, x ∈ parts57 := by decide
theorem parts1_57 : ∀ x ∈ parts1, x ∈ parts57 := by decide
theorem parts42_57 : ∀ x ∈ parts42, x ∈ parts57 := by decide
theorem parts6_58 : ∀ x ∈ parts6, x ∈ parts58 := by decide
theorem parts1_58 : ∀ x ∈ parts1, x ∈ parts58 := by decide
theorem parts48_57 : ∀ x ∈ parts48, x ∈ parts57 := by decide
theorem parts58_57 : ∀ x ∈ parts58, x ∈ parts57 := by decide
theorem parts58_54 : ∀ x ∈ parts58, x ∈ parts54 := by decide
theorem parts43_59 : ∀ x ∈ parts43, x ∈ parts59 := by decide
theorem parts1_59 : ∀ x ∈ parts1, x ∈ parts59 := by decide
theorem parts44_54 : ∀ x ∈ parts44, x ∈ parts54 := by decide
theorem parts52_54 : ∀ x ∈ parts52, x ∈ parts54 := by decide
theorem parts59_52 : ∀ x ∈ parts59, x ∈ parts52 := by decide
theorem parts58_52 : ∀ x ∈ parts58, x ∈ parts52 := by decide
theorem parts1_60 : ∀ x ∈ parts1, x ∈ parts60 := by decide
theorem parts42_60 : ∀ x ∈ parts42, x ∈ parts60 := by decide
theorem parts44_60 : ∀ x ∈ parts44, x ∈ parts60 := by decide
theorem parts52_60 : ∀ x ∈ parts52, x ∈ parts60 := by decide
theorem parts60_54 : ∀ x ∈ parts60, x ∈ parts54 := by decide
theorem parts48_56 : ∀ x ∈ parts48, x ∈ parts56 := by decide
theorem parts55_61 : ∀ x ∈ parts55, x ∈ parts61 := by decide
theorem parts50_61 : ∀ x ∈ parts50, x ∈ parts61 := by decide
theorem parts48_61 : ∀ x ∈ parts48, x ∈ parts61 := by decide
theorem parts61_54 : ∀ x ∈ parts61, x ∈ parts54 := by decide
theorem parts48_62 : ∀ x ∈ parts48, x ∈ parts62 := by decide
theorem parts42_62 : ∀ x ∈ parts42, x ∈ parts62 := by decide
theorem parts61_62 : ∀ x ∈ parts61, x ∈ parts62 := by decide
theorem parts1_62 : ∀ x ∈ parts1, x ∈ parts62 := by decide
theorem parts56_62 : ∀ x ∈ parts56, x ∈ parts62 := by decide
theorem parts48_60 : ∀ x ∈ parts48, x ∈ parts60 := by decide
theorem parts42_63 : ∀ x ∈ parts42, x ∈ parts63 := by decide
theorem parts51_63 : ∀ x ∈ parts51, x ∈ parts63 := by decide
theorem parts50_63 : ∀ x ∈ parts50, x ∈ parts63 := by decide
theorem parts57_63 : ∀ x ∈ parts57, x ∈ parts63 := by decide
theorem parts48_63 : ∀ x ∈ parts48, x ∈ parts63 := by decide
theorem parts43_64 : ∀ x ∈ parts43, x ∈ parts64 := by decide
theorem parts9_64 : ∀ x ∈ parts9, x ∈ parts64 := by decide
theorem parts8_65 : ∀ x ∈ parts8, x ∈ parts65 := by decide
theorem parts64_65 : ∀ x ∈ parts64, x ∈ parts65 := by decide
theorem parts1_66 : ∀ x ∈ parts1, x ∈ parts66 := by decide
theorem parts59_66 : ∀ x ∈ parts59, x ∈ parts66 := by decide
theorem parts16_66 : ∀ x ∈ parts16, x ∈ parts66 := by decide
theorem parts43_66 : ∀ x ∈ parts43, x ∈ parts66 := by decide
theorem parts15_68 : ∀ x ∈ parts15, x ∈ parts68 := by decide
theorem parts59_68 : ∀ x ∈ parts59, x ∈ parts68 := by decide
theorem parts67_68 : ∀ x ∈ parts67, x ∈ parts68 := by decide
theorem parts56_69 : ∀ x ∈ parts56, x ∈ parts69 := by decide
theorem parts1_69 : ∀ x ∈ parts1, x ∈ parts69 := by decide
theorem parts66_69 : ∀ x ∈ parts66, x ∈ parts69 := by decide
theorem parts59_51 : ∀ x ∈ parts59, x ∈ parts51 := by decide
theorem parts48_51 : ∀ x ∈ parts48, x ∈ parts51 := by decide
theorem parts48_70 : ∀ x ∈ parts48, x ∈ parts70 := by decide
theorem parts56_70 : ∀ x ∈ parts56, x ∈ parts70 := by decide
theorem parts59_70 : ∀ x ∈ parts59, x ∈ parts70 := by decide
theorem parts71_72 : ∀ x ∈ parts71, x ∈ parts72 := by decide
theorem parts1_72 : ∀ x ∈ parts1, x ∈ parts72 := by decide
theorem parts2_73 : ∀ x ∈ parts2, x ∈ parts73 := by decide
theorem parts1_73 : ∀ x ∈ parts1, x ∈ parts73 := by decide
theorem parts71_73 : ∀ x ∈ parts71, x ∈ parts73 := by decide
theorem parts1_74 : ∀ x ∈ parts1, x ∈ parts74 := by decide
theorem parts73_74 : ∀ x ∈ parts73, x ∈ parts74 := by decide
theorem parts11_74 : ∀ x ∈ parts11, x ∈ parts74 := by decide
theorem parts1_76 : ∀ x ∈ parts1, x ∈ parts76 := by decide
theorem parts75_76 : ∀ x ∈ parts75, x ∈ parts76 := by decide
theorem parts72_77 : ∀ x ∈ parts72, x ∈ parts77 := by decide
theorem parts75_77 : ∀ x ∈ parts75, x ∈ parts77 := by decide
theorem parts10_78 : ∀ x ∈ parts10, x ∈ parts78 := by decide
theorem parts1_78 : ∀ x ∈ parts1, x ∈ parts78 := by decide
theorem parts78_79 : ∀ x ∈ parts78, x ∈ parts79 := by decide
theorem parts17_79 : ∀ x ∈ parts17, x ∈ parts79 := by decide
theorem parts29_79 : ∀ x ∈ parts29, x ∈ parts79 := by decide
theorem parts1_79 : ∀ x ∈ parts1, x ∈ parts79 := by decide
theorem parts35_79 : ∀ x ∈ parts35, x ∈ parts79 := by decide
theorem parts38_79 : ∀ x ∈ parts38, x ∈ parts79 := by decide
theorem parts80_79 : ∀ x ∈ parts80, x ∈ parts79 := by decide
theorem parts31_81 : ∀ x ∈ parts31, x ∈ parts81 := by decide
theorem parts36_81 : ∀ x ∈ parts36, x ∈ parts81 := by decide
theorem parts41_81 : ∀ x ∈ parts41, x ∈ parts81 := by decide
theorem parts1_82 : ∀ x ∈ parts1, x ∈ parts82 := by decide
theorem parts79_82 : ∀ x ∈ parts79, x ∈ parts82 := by decide
theorem parts28_82 : ∀ x ∈ parts28, x ∈ parts82 := by decide
theorem parts18_82 : ∀ x ∈ parts18, x ∈ parts82 := by decide
theorem parts80_82 : ∀ x ∈ parts80, x ∈ parts82 := by decide
theorem parts78_81 : ∀ x ∈ parts78, x ∈ parts81 := by decide
theorem parts81_82 : ∀ x ∈ parts81, x ∈ parts82 := by decide
theorem parts5_83 : ∀ x ∈ parts5, x ∈ parts83 := by decide
theorem parts1_83 : ∀ x ∈ parts1, x ∈ parts83 := by decide
theorem parts59_83 : ∀ x ∈ parts59, x ∈ parts83 := by decide
theorem parts45_83 : ∀ x ∈ parts45, x ∈ parts83 := by decide
theorem parts46_83 : ∀ x ∈ parts46, x ∈ parts83 := by decide
theorem parts59_63 : ∀ x ∈ parts59, x ∈ parts63 := by decide
theorem parts80_68 : ∀ x ∈ parts80, x ∈ parts68 := by decide
theorem parts63_84 : ∀ x ∈ parts63, x ∈ parts84 := by decide
theorem parts44_84 : ∀ x ∈ parts44, x ∈ parts84 := by decide
theorem parts1_84 : ∀ x ∈ parts1, x ∈ parts84 := by decide
theorem parts83_84 : ∀ x ∈ parts83, x ∈ parts84 := by decide
theorem parts68_84 : ∀ x ∈ parts68, x ∈ parts84 := by decide
theorem parts85_84 : ∀ x ∈ parts85, x ∈ parts84 := by decide
theorem parts87_88 : ∀ x ∈ parts87, x ∈ parts88 := by decide
theorem parts1_88 : ∀ x ∈ parts1, x ∈ parts88 := by decide
theorem parts12_89 : ∀ x ∈ parts12, x ∈ parts89 := by decide
theorem parts1_89 : ∀ x ∈ parts1, x ∈ parts89 := by decide
theorem parts87_89 : ∀ x ∈ parts87, x ∈ parts89 := by decide
theorem parts88_89 : ∀ x ∈ parts88, x ∈ parts89 := by decide
theorem parts6_90 : ∀ x ∈ parts6, x ∈ parts90 := by decide
theorem parts86_90 : ∀ x ∈ parts86, x ∈ parts90 := by decide
theorem parts1_91 : ∀ x ∈ parts1, x ∈ parts91 := by decide
theorem parts86_91 : ∀ x ∈ parts86, x ∈ parts91 := by decide
theorem parts90_91 : ∀ x ∈ parts90, x ∈ parts91 := by decide
theorem parts88_91 : ∀ x ∈ parts88, x ∈ parts91 := by decide
theorem parts91_92 : ∀ x ∈ parts91, x ∈ parts92 := by decide
theorem parts89_92 : ∀ x ∈ parts89, x ∈ parts92 := by decide
theorem parts1_93 : ∀ x ∈ parts1, x ∈ parts93 := by decide
theorem parts86_93 : ∀ x ∈ parts86, x ∈ parts93 := by decide
theorem parts93_91 : ∀ x ∈ parts93, x ∈ parts91 := by decide
theorem parts6_91 : ∀ x ∈ parts6, x ∈ parts91 := by decide
theorem parts1_94 : ∀ x ∈ parts1, x ∈ parts94 := by decide
theorem parts95_94 : ∀ x ∈ parts95, x ∈ parts94 := by decide
theorem parts58_96 : ∀ x ∈ parts58, x ∈ parts96 := by decide
theorem parts86_96 : ∀ x ∈ parts86, x ∈ parts96 := by decide
theorem parts1_96 : ∀ x ∈ parts1, x ∈ parts96 := by decide
theorem parts18_97 : ∀ x ∈ parts18, x ∈ parts97 := by decide
theorem parts1_97 : ∀ x ∈ parts1, x ∈ parts97 := by decide
theorem parts98_97 : ∀ x ∈ parts98, x ∈ parts97 := by decide
theorem parts97_99 : ∀ x ∈ parts97, x ∈ parts99 := by decide
theorem parts29_99 : ∀ x ∈ parts29, x ∈ parts99 := by decide
theorem parts30_99 : ∀ x ∈ parts30, x ∈ parts99 := by decide
theorem parts1_99 : ∀ x ∈ parts1, x ∈ parts99 := by decide
theorem parts1_100 : ∀ x ∈ parts1, x ∈ parts100 := by decide
theorem parts101_100 : ∀ x ∈ parts101, x ∈ parts100 := by decide
theorem parts100_102 : ∀ x ∈ parts100, x ∈ parts102 := by decide
theorem parts99_102 : ∀ x ∈ parts99, x ∈ parts102 := by decide
theorem parts1_102 : ∀ x ∈ parts1, x ∈ parts102 := by decide
theorem parts101_102 : ∀ x ∈ parts101, x ∈ parts102 := by decide
theorem parts40_103 : ∀ x ∈ parts40, x ∈ parts103 := by decide
theorem parts1_103 : ∀ x ∈ parts1, x ∈ parts103 := by decide
theorem parts104_103 : ∀ x ∈ parts104, x ∈ parts103 := by decide
theorem parts1_105 : ∀ x ∈ parts1, x ∈ parts105 := by decide
theorem parts86_105 : ∀ x ∈ parts86, x ∈ parts105 := by decide
theorem parts43_105 : ∀ x ∈ parts43, x ∈ parts105 := by decide
theorem parts71_105 : ∀ x ∈ parts71, x ∈ parts105 := by decide
theorem parts80_105 : ∀ x ∈ parts80, x ∈ parts105 := by decide
theorem parts1_106 : ∀ x ∈ parts1, x ∈ parts106 := by decide
theorem parts40_106 : ∀ x ∈ parts40, x ∈ parts106 := by decide
theorem parts80_106 : ∀ x ∈ parts80, x ∈ parts106 := by decide
theorem parts35_106 : ∀ x ∈ parts35, x ∈ parts106 := by decide
theorem parts38_106 : ∀ x ∈ parts38, x ∈ parts106 := by decide
theorem parts32_106 : ∀ x ∈ parts32, x ∈ parts106 := by decide
theorem parts59_106 : ∀ x ∈ parts59, x ∈ parts106 := by decide
theorem parts86_107 : ∀ x ∈ parts86, x ∈ parts107 := by decide
theorem parts71_107 : ∀ x ∈ parts71, x ∈ parts107 := by decide
theorem parts107_108 : ∀ x ∈ parts107, x ∈ parts108 := by decide
theorem parts106_108 : ∀ x ∈ parts106, x ∈ parts108 := by decide
theorem parts103_108 : ∀ x ∈ parts103, x ∈ parts108 := by decide
theorem parts105_108 : ∀ x ∈ parts105, x ∈ parts108 := by decide
theorem parts19_108 : ∀ x ∈ parts19, x ∈ parts108 := by decide
theorem parts1_108 : ∀ x ∈ parts1, x ∈ parts108 := by decide
theorem parts71_109 : ∀ x ∈ parts71, x ∈ parts109 := by decide
theorem parts80_109 : ∀ x ∈ parts80, x ∈ parts109 := by decide
theorem parts82_110 : ∀ x ∈ parts82, x ∈ parts110 := by decide
theorem parts109_110 : ∀ x ∈ parts109, x ∈ parts110 := by decide
theorem parts79_110 : ∀ x ∈ parts79, x ∈ parts110 := by decide
theorem parts99_110 : ∀ x ∈ parts99, x ∈ parts110 := by decide
theorem parts1_110 : ∀ x ∈ parts1, x ∈ parts110 := by decide
theorem parts108_110 : ∀ x ∈ parts108, x ∈ parts110 := by decide
theorem parts68_110 : ∀ x ∈ parts68, x ∈ parts110 := by decide
theorem parts100_110 : ∀ x ∈ parts100, x ∈ parts110 := by decide
theorem parts111_110 : ∀ x ∈ parts111, x ∈ parts110 := by decide
theorem parts33_112 : ∀ x ∈ parts33, x ∈ parts112 := by decide
theorem parts27_112 : ∀ x ∈ parts27, x ∈ parts112 := by decide
theorem parts28_112 : ∀ x ∈ parts28, x ∈ parts112 := by decide
theorem parts31_112 : ∀ x ∈ parts31, x ∈ parts112 := by decide
theorem parts78_112 : ∀ x ∈ parts78, x ∈ parts112 := by decide
theorem parts30_112 : ∀ x ∈ parts30, x ∈ parts112 := by decide
theorem parts39_112 : ∀ x ∈ parts39, x ∈ parts112 := by decide
theorem parts1_112 : ∀ x ∈ parts1, x ∈ parts112 := by decide
theorem parts29_112 : ∀ x ∈ parts29, x ∈ parts112 := by decide
theorem parts82_112 : ∀ x ∈ parts82, x ∈ parts112 := by decide
theorem parts68_113 : ∀ x ∈ parts68, x ∈ parts113 := by decide
theorem parts5_113 : ∀ x ∈ parts5, x ∈ parts113 := by decide
theorem parts112_113 : ∀ x ∈ parts112, x ∈ parts113 := by decide
theorem parts1_113 : ∀ x ∈ parts1, x ∈ parts113 := by decide
theorem parts80_113 : ∀ x ∈ parts80, x ∈ parts113 := by decide
theorem parts59_113 : ∀ x ∈ parts59, x ∈ parts113 := by decide
theorem parts43_113 : ∀ x ∈ parts43, x ∈ parts113 := by decide
theorem parts92_113 : ∀ x ∈ parts92, x ∈ parts113 := by decide
theorem parts72_113 : ∀ x ∈ parts72, x ∈ parts113 := by decide
theorem parts18_114 : ∀ x ∈ parts18, x ∈ parts114 := by decide
theorem parts17_114 : ∀ x ∈ parts17, x ∈ parts114 := by decide
theorem parts114_82 : ∀ x ∈ parts114, x ∈ parts82 := by decide
theorem parts78_82 : ∀ x ∈ parts78, x ∈ parts82 := by decide
theorem parts1_115 : ∀ x ∈ parts1, x ∈ parts115 := by decide
theorem parts80_115 : ∀ x ∈ parts80, x ∈ parts115 := by decide
theorem parts28_115 : ∀ x ∈ parts28, x ∈ parts115 := by decide
theorem parts18_115 : ∀ x ∈ parts18, x ∈ parts115 := by decide
theorem parts17_115 : ∀ x ∈ parts17, x ∈ parts115 := by decide
theorem parts78_116 : ∀ x ∈ parts78, x ∈ parts116 := by decide
theorem parts115_116 : ∀ x ∈ parts115, x ∈ parts116 := by decide
theorem parts1_117 : ∀ x ∈ parts1, x ∈ parts117 := by decide
theorem parts28_117 : ∀ x ∈ parts28, x ∈ parts117 := by decide
theorem parts8_119 : ∀ x ∈ parts8, x ∈ parts119 := by decide
theorem parts118_119 : ∀ x ∈ parts118, x ∈ parts119 := by decide
theorem parts1_120 : ∀ x ∈ parts1, x ∈ parts120 := by decide
theorem parts10_120 : ∀ x ∈ parts10, x ∈ parts120 := by decide
theorem parts28_120 : ∀ x ∈ parts28, x ∈ parts120 := by decide
theorem parts14_121 : ∀ x ∈ parts14, x ∈ parts121 := by decide
theorem parts15_121 : ∀ x ∈ parts15, x ∈ parts121 := by decide
theorem parts78_122 : ∀ x ∈ parts78, x ∈ parts122 := by decide
theorem parts39_122 : ∀ x ∈ parts39, x ∈ parts122 := by decide
theorem parts1_122 : ∀ x ∈ parts1, x ∈ parts122 := by decide
theorem parts22_122 : ∀ x ∈ parts22, x ∈ parts122 := by decide
theorem parts121_123 : ∀ x ∈ parts121, x ∈ parts123 := by decide
theorem parts1_123 : ∀ x ∈ parts1, x ∈ parts123 := by decide
theorem parts12_123 : ∀ x ∈ parts12, x ∈ parts123 := by decide
theorem parts121_124 : ∀ x ∈ parts121, x ∈ parts124 := by decide
theorem parts1_124 : ∀ x ∈ parts1, x ∈ parts124 := by decide
theorem parts125_124 : ∀ x ∈ parts125, x ∈ parts124 := by decide
theorem parts0_127 : ∀ x ∈ parts0, x ∈ parts127 := by decide
theorem parts1_127 : ∀ x ∈ parts1, x ∈ parts127 := by decide
theorem parts126_127 : ∀ x ∈ parts126, x ∈ parts127 := by decide
theorem parts128_127 : ∀ x ∈ parts128, x ∈ parts127 := by decide
theorem parts1_129 : ∀ x ∈ parts1, x ∈ parts129 := by decide
theorem parts128_129 : ∀ x ∈ parts128, x ∈ parts129 := by decide
theorem parts15_23 : ∀ x ∈ parts15, x ∈ parts23 := by decide
theorem parts16_24 : ∀ x ∈ parts16, x ∈ parts24 := by decide
theorem parts6_130 : ∀ x ∈ parts6, x ∈ parts130 := by decide
theorem parts23_130 : ∀ x ∈ parts23, x ∈ parts130 := by decide
theorem parts24_130 : ∀ x ∈ parts24, x ∈ parts130 := by decide
theorem parts129_131 : ∀ x ∈ parts129, x ∈ parts131 := by decide
theorem parts130_131 : ∀ x ∈ parts130, x ∈ parts131 := by decide
theorem parts1_131 : ∀ x ∈ parts1, x ∈ parts131 := by decide
theorem parts126_131 : ∀ x ∈ parts126, x ∈ parts131 := by decide
theorem parts78_132 : ∀ x ∈ parts78, x ∈ parts132 := by decide
theorem parts22_132 : ∀ x ∈ parts22, x ∈ parts132 := by decide
theorem parts18_133 : ∀ x ∈ parts18, x ∈ parts133 := by decide
theorem parts17_133 : ∀ x ∈ parts17, x ∈ parts133 := by decide
theorem parts132_133 : ∀ x ∈ parts132, x ∈ parts133 := by decide
theorem parts26_134 : ∀ x ∈ parts26, x ∈ parts134 := by decide
theorem parts18_134 : ∀ x ∈ parts18, x ∈ parts134 := by decide
theorem parts17_134 : ∀ x ∈ parts17, x ∈ parts134 := by decide
theorem parts21_135 : ∀ x ∈ parts21, x ∈ parts135 := by decide
theorem parts27_135 : ∀ x ∈ parts27, x ∈ parts135 := by decide
theorem parts18_135 : ∀ x ∈ parts18, x ∈ parts135 := by decide
theorem parts1_135 : ∀ x ∈ parts1, x ∈ parts135 := by decide
theorem parts17_135 : ∀ x ∈ parts17, x ∈ parts135 := by decide
theorem parts17_24 : ∀ x ∈ parts17, x ∈ parts24 := by decide
theorem parts1_136 : ∀ x ∈ parts1, x ∈ parts136 := by decide
theorem parts17_136 : ∀ x ∈ parts17, x ∈ parts136 := by decide
theorem parts18_137 : ∀ x ∈ parts18, x ∈ parts137 := by decide
theorem parts1_137 : ∀ x ∈ parts1, x ∈ parts137 := by decide
theorem parts2_137 : ∀ x ∈ parts2, x ∈ parts137 := by decide
theorem parts98_137 : ∀ x ∈ parts98, x ∈ parts137 := by decide
theorem parts20_134 : ∀ x ∈ parts20, x ∈ parts134 := by decide
theorem parts1_134 : ∀ x ∈ parts1, x ∈ parts134 := by decide
theorem parts18_138 : ∀ x ∈ parts18, x ∈ parts138 := by decide
theorem parts6_138 : ∀ x ∈ parts6, x ∈ parts138 := by decide
theorem parts20_138 : ∀ x ∈ parts20, x ∈ parts138 := by decide
theorem parts1_138 : ∀ x ∈ parts1, x ∈ parts138 := by decide
theorem parts6_139 : ∀ x ∈ parts6, x ∈ parts139 := by decide
theorem parts1_139 : ∀ x ∈ parts1, x ∈ parts139 := by decide
theorem parts140_139 : ∀ x ∈ parts140, x ∈ parts139 := by decide
theorem parts6_141 : ∀ x ∈ parts6, x ∈ parts141 := by decide
theorem parts139_141 : ∀ x ∈ parts139, x ∈ parts141 := by decide
theorem parts125_141 : ∀ x ∈ parts125, x ∈ parts141 := by decide
theorem parts142_144 : ∀ x ∈ parts142, x ∈ parts144 := by decide
theorem parts1_144 : ∀ x ∈ parts1, x ∈ parts144 := by decide
theorem parts143_144 : ∀ x ∈ parts143, x ∈ parts144 := by decide
theorem parts145_144 : ∀ x ∈ parts145, x ∈ parts144 := by decide
theorem parts129_146 : ∀ x ∈ parts129, x ∈ parts146 := by decide
theorem parts19_146 : ∀ x ∈ parts19, x ∈ parts146 := by decide
theorem parts131_146 : ∀ x ∈ parts131, x ∈ parts146 := by decide
theorem parts12_146 : ∀ x ∈ parts12, x ∈ parts146 := by decide
theorem parts44_146 : ∀ x ∈ parts44, x ∈ parts146 := by decide
theorem parts1_146 : ∀ x ∈ parts1, x ∈ parts146 := by decide
theorem parts144_147 : ∀ x ∈ parts144, x ∈ parts147 := by decide
theorem parts12_147 : ∀ x ∈ parts12, x ∈ parts147 := by decide
theorem parts22_147 : ∀ x ∈ parts22, x ∈ parts147 := by decide
theorem parts148_147 : ∀ x ∈ parts148, x ∈ parts147 := by decide
theorem parts147_149 : ∀ x ∈ parts147, x ∈ parts149 := by decide
theorem parts1_149 : ∀ x ∈ parts1, x ∈ parts149 := by decide
theorem parts54_149 : ∀ x ∈ parts54, x ∈ parts149 := by decide
theorem parts91_149 : ∀ x ∈ parts91, x ∈ parts149 := by decide
theorem parts86_149 : ∀ x ∈ parts86, x ∈ parts149 := by decide
theorem parts12_149 : ∀ x ∈ parts12, x ∈ parts149 := by decide
theorem parts1_150 : ∀ x ∈ parts1, x ∈ parts150 := by decide
theorem parts151_150 : ∀ x ∈ parts151, x ∈ parts150 := by decide
theorem parts150_152 : ∀ x ∈ parts150, x ∈ parts152 := by decide
theorem parts1_152 : ∀ x ∈ parts1, x ∈ parts152 := by decide
theorem parts125_152 : ∀ x ∈ parts125, x ∈ parts152 := by decide
theorem parts152_153 : ∀ x ∈ parts152, x ∈ parts153 := by decide
theorem parts12_153 : ∀ x ∈ parts12, x ∈ parts153 := by decide
theorem parts150_153 : ∀ x ∈ parts150, x ∈ parts153 := by decide
theorem parts1_153 : ∀ x ∈ parts1, x ∈ parts153 := by decide
theorem parts152_154 : ∀ x ∈ parts152, x ∈ parts154 := by decide
theorem parts150_154 : ∀ x ∈ parts150, x ∈ parts154 := by decide
theorem parts147_154 : ∀ x ∈ parts147, x ∈ parts154 := by decide
theorem parts146_154 : ∀ x ∈ parts146, x ∈ parts154 := by decide
theorem parts12_154 : ∀ x ∈ parts12, x ∈ parts154 := by decide
theorem parts153_154 : ∀ x ∈ parts153, x ∈ parts154 := by decide
theorem parts125_153 : ∀ x ∈ parts125, x ∈ parts153 := by decide
theorem parts1_154 : ∀ x ∈ parts1, x ∈ parts154 := by decide
theorem parts124_154 : ∀ x ∈ parts124, x ∈ parts154 := by decide
theorem parts153_155 : ∀ x ∈ parts153, x ∈ parts155 := by decide
theorem parts12_155 : ∀ x ∈ parts12, x ∈ parts155 := by decide
theorem parts149_155 : ∀ x ∈ parts149, x ∈ parts155 := by decide
theorem parts152_156 : ∀ x ∈ parts152, x ∈ parts156 := by decide
theorem parts1_156 : ∀ x ∈ parts1, x ∈ parts156 := by decide
theorem parts55_156 : ∀ x ∈ parts55, x ∈ parts156 := by decide
theorem parts12_156 : ∀ x ∈ parts12, x ∈ parts156 := by decide
theorem parts153_156 : ∀ x ∈ parts153, x ∈ parts156 := by decide
theorem parts89_156 : ∀ x ∈ parts89, x ∈ parts156 := by decide
theorem parts19_156 : ∀ x ∈ parts19, x ∈ parts156 := by decide
theorem parts13_156 : ∀ x ∈ parts13, x ∈ parts156 := by decide
theorem parts1_157 : ∀ x ∈ parts1, x ∈ parts157 := by decide
theorem parts7_157 : ∀ x ∈ parts7, x ∈ parts157 := by decide
theorem parts45_157 : ∀ x ∈ parts45, x ∈ parts157 := by decide
theorem parts139_158 : ∀ x ∈ parts139, x ∈ parts158 := by decide
theorem parts1_158 : ∀ x ∈ parts1, x ∈ parts158 := by decide
theorem parts153_158 : ∀ x ∈ parts153, x ∈ parts158 := by decide
theorem parts125_158 : ∀ x ∈ parts125, x ∈ parts158 := by decide
theorem parts159_160 : ∀ x ∈ parts159, x ∈ parts160 := by decide
theorem parts6_160 : ∀ x ∈ parts6, x ∈ parts160 := by decide
theorem parts1_161 : ∀ x ∈ parts1, x ∈ parts161 := by decide
theorem parts159_161 : ∀ x ∈ parts159, x ∈ parts161 := by decide
theorem parts6_162 : ∀ x ∈ parts6, x ∈ parts162 := by decide
theorem parts161_162 : ∀ x ∈ parts161, x ∈ parts162 := by decide
theorem parts159_162 : ∀ x ∈ parts159, x ∈ parts162 := by decide
theorem parts160_162 : ∀ x ∈ parts160, x ∈ parts162 := by decide
theorem parts129_163 : ∀ x ∈ parts129, x ∈ parts163 := by decide
theorem parts1_163 : ∀ x ∈ parts1, x ∈ parts163 := by decide
theorem parts159_163 : ∀ x ∈ parts159, x ∈ parts163 := by decide
theorem parts161_164 : ∀ x ∈ parts161, x ∈ parts164 := by decide
theorem parts162_164 : ∀ x ∈ parts162, x ∈ parts164 := by decide
theorem parts1_164 : ∀ x ∈ parts1, x ∈ parts164 := by decide
theorem parts163_164 : ∀ x ∈ parts163, x ∈ parts164 := by decide
theorem parts159_164 : ∀ x ∈ parts159, x ∈ parts164 := by decide
theorem parts1_162 : ∀ x ∈ parts1, x ∈ parts162 := by decide
theorem parts1_165 : ∀ x ∈ parts1, x ∈ parts165 := by decide
theorem parts166_165 : ∀ x ∈ parts166, x ∈ parts165 := by decide
theorem parts167_165 : ∀ x ∈ parts167, x ∈ parts165 := by decide
theorem parts6_165 : ∀ x ∈ parts6, x ∈ parts165 := by decide
theorem parts140_165 : ∀ x ∈ parts140, x ∈ parts165 := by decide
theorem parts1_141 : ∀ x ∈ parts1, x ∈ parts141 := by decide
theorem parts1_168 : ∀ x ∈ parts1, x ∈ parts168 := by decide
theorem parts140_168 : ∀ x ∈ parts140, x ∈ parts168 := by decide
theorem parts1_169 : ∀ x ∈ parts1, x ∈ parts169 := by decide
theorem parts169_170 : ∀ x ∈ parts169, x ∈ parts170 := by decide
theorem parts1_170 : ∀ x ∈ parts1, x ∈ parts170 := by decide
theorem parts45_170 : ∀ x ∈ parts45, x ∈ parts170 := by decide
theorem parts44_170 : ∀ x ∈ parts44, x ∈ parts170 := by decide
theorem parts12_171 : ∀ x ∈ parts12, x ∈ parts171 := by decide
theorem parts169_171 : ∀ x ∈ parts169, x ∈ parts171 := by decide
theorem parts153_172 : ∀ x ∈ parts153, x ∈ parts172 := by decide
theorem parts1_172 : ∀ x ∈ parts1, x ∈ parts172 := by decide
theorem parts169_172 : ∀ x ∈ parts169, x ∈ parts172 := by decide
theorem parts13_172 : ∀ x ∈ parts13, x ∈ parts172 := by decide
theorem parts54_173 : ∀ x ∈ parts54, x ∈ parts173 := by decide
theorem parts42_173 : ∀ x ∈ parts42, x ∈ parts173 := by decide
theorem parts169_173 : ∀ x ∈ parts169, x ∈ parts173 := by decide
theorem parts169_174 : ∀ x ∈ parts169, x ∈ parts174 := by decide
theorem parts43_174 : ∀ x ∈ parts43, x ∈ parts174 := by decide
theorem parts1_175 : ∀ x ∈ parts1, x ∈ parts175 := by decide
theorem parts129_175 : ∀ x ∈ parts129, x ∈ parts175 := by decide
theorem parts169_175 : ∀ x ∈ parts169, x ∈ parts175 := by decide
theorem parts43_175 : ∀ x ∈ parts43, x ∈ parts175 := by decide
theorem parts72_176 : ∀ x ∈ parts72, x ∈ parts176 := by decide
theorem parts71_176 : ∀ x ∈ parts71, x ∈ parts176 := by decide
theorem parts169_176 : ∀ x ∈ parts169, x ∈ parts176 := by decide
theorem parts86_177 : ∀ x ∈ parts86, x ∈ parts177 := by decide
theorem parts93_177 : ∀ x ∈ parts93, x ∈ parts177 := by decide
theorem parts169_177 : ∀ x ∈ parts169, x ∈ parts177 := by decide
theorem parts129_178 : ∀ x ∈ parts129, x ∈ parts178 := by decide
theorem parts19_178 : ∀ x ∈ parts19, x ∈ parts178 := by decide
theorem parts169_178 : ∀ x ∈ parts169, x ∈ parts178 := by decide
theorem parts18_179 : ∀ x ∈ parts18, x ∈ parts179 := by decide
theorem parts20_179 : ∀ x ∈ parts20, x ∈ parts179 := by decide
theorem parts169_179 : ∀ x ∈ parts169, x ∈ parts179 := by decide
theorem parts169_180 : ∀ x ∈ parts169, x ∈ parts180 := by decide
theorem parts80_180 : ∀ x ∈ parts80, x ∈ parts180 := by decide
theorem parts169_181 : ∀ x ∈ parts169, x ∈ parts181 := by decide
theorem parts101_181 : ∀ x ∈ parts101, x ∈ parts181 := by decide
theorem parts79_182 : ∀ x ∈ parts79, x ∈ parts182 := by decide
theorem parts181_182 : ∀ x ∈ parts181, x ∈ parts182 := by decide
theorem parts169_182 : ∀ x ∈ parts169, x ∈ parts182 := by decide
theorem parts129_182 : ∀ x ∈ parts129, x ∈ parts182 := by decide
theorem parts172_182 : ∀ x ∈ parts172, x ∈ parts182 := by decide
theorem parts1_182 : ∀ x ∈ parts1, x ∈ parts182 := by decide
theorem parts170_182 : ∀ x ∈ parts170, x ∈ parts182 := by decide
theorem parts127_182 : ∀ x ∈ parts127, x ∈ parts182 := by decide
theorem parts171_182 : ∀ x ∈ parts171, x ∈ parts182 := by decide
theorem parts131_182 : ∀ x ∈ parts131, x ∈ parts182 := by decide
theorem parts180_182 : ∀ x ∈ parts180, x ∈ parts182 := by decide
theorem parts178_182 : ∀ x ∈ parts178, x ∈ parts182 := by decide
theorem parts179_182 : ∀ x ∈ parts179, x ∈ parts182 := by decide
theorem parts175_182 : ∀ x ∈ parts175, x ∈ parts182 := by decide
theorem parts174_182 : ∀ x ∈ parts174, x ∈ parts182 := by decide
theorem parts173_182 : ∀ x ∈ parts173, x ∈ parts182 := by decide
theorem parts176_182 : ∀ x ∈ parts176, x ∈ parts182 := by decide
theorem parts93_182 : ∀ x ∈ parts93, x ∈ parts182 := by decide
theorem parts177_182 : ∀ x ∈ parts177, x ∈ parts182 := by decide
theorem parts89_182 : ∀ x ∈ parts89, x ∈ parts182 := by decide
theorem parts183_182 : ∀ x ∈ parts183, x ∈ parts182 := by decide
theorem parts22_184 : ∀ x ∈ parts22, x ∈ parts184 := by decide
theorem parts1_184 : ∀ x ∈ parts1, x ∈ parts184 := by decide
theorem parts185_184 : ∀ x ∈ parts185, x ∈ parts184 := by decide
theorem parts100_165 : ∀ x ∈ parts100, x ∈ parts165 := by decide
theorem parts168_165 : ∀ x ∈ parts168, x ∈ parts165 := by decide
theorem parts161_165 : ∀ x ∈ parts161, x ∈ parts165 := by decide
theorem parts154_165 : ∀ x ∈ parts154, x ∈ parts165 := by decide
theorem parts1_186 : ∀ x ∈ parts1, x ∈ parts186 := by decide
theorem parts18_186 : ∀ x ∈ parts18, x ∈ parts186 := by decide
theorem parts26_186 : ∀ x ∈ parts26, x ∈ parts186 := by decide
theorem parts7_186 : ∀ x ∈ parts7, x ∈ parts186 := by decide
theorem parts1_187 : ∀ x ∈ parts1, x ∈ parts187 := by decide
theorem parts18_187 : ∀ x ∈ parts18, x ∈ parts187 := by decide
theorem parts186_187 : ∀ x ∈ parts186, x ∈ parts187 := by decide
theorem parts11_187 : ∀ x ∈ parts11, x ∈ parts187 := by decide
theorem parts57_54 : ∀ x ∈ parts57, x ∈ parts54 := by decide
theorem parts59_188 : ∀ x ∈ parts59, x ∈ parts188 := by decide
theorem parts1_188 : ∀ x ∈ parts1, x ∈ parts188 := by decide
theorem parts52_188 : ∀ x ∈ parts52, x ∈ parts188 := by decide
theorem parts11_188 : ∀ x ∈ parts11, x ∈ parts188 := by decide
theorem parts54_188 : ∀ x ∈ parts54, x ∈ parts188 := by decide
theorem parts1_189 : ∀ x ∈ parts1, x ∈ parts189 := by decide
theorem parts74_189 : ∀ x ∈ parts74, x ∈ parts189 := by decide
theorem parts75_189 : ∀ x ∈ parts75, x ∈ parts189 := by decide
theorem parts11_189 : ∀ x ∈ parts11, x ∈ parts189 := by decide
theorem parts93_190 : ∀ x ∈ parts93, x ∈ parts190 := by decide
theorem parts11_190 : ∀ x ∈ parts11, x ∈ parts190 := by decide
theorem parts91_190 : ∀ x ∈ parts91, x ∈ parts190 := by decide
theorem parts1_190 : ∀ x ∈ parts1, x ∈ parts190 := by decide
theorem parts86_190 : ∀ x ∈ parts86, x ∈ parts190 := by decide
theorem parts189_191 : ∀ x ∈ parts189, x ∈ parts191 := by decide
theorem parts1_191 : ∀ x ∈ parts1, x ∈ parts191 := by decide
theorem parts94_191 : ∀ x ∈ parts94, x ∈ parts191 := by decide
theorem parts190_191 : ∀ x ∈ parts190, x ∈ parts191 := by decide
theorem parts89_191 : ∀ x ∈ parts89, x ∈ parts191 := by decide
theorem parts44_165 : ∀ x ∈ parts44, x ∈ parts165 := by decide
theorem parts19_165 : ∀ x ∈ parts19, x ∈ parts165 := by decide
theorem parts187_165 : ∀ x ∈ parts187, x ∈ parts165 := by decide
theorem parts188_165 : ∀ x ∈ parts188, x ∈ parts165 := by decide
theorem parts191_165 : ∀ x ∈ parts191, x ∈ parts165 := by decide
theorem parts117_165 : ∀ x ∈ parts117, x ∈ parts165 := by decide
theorem parts11_165 : ∀ x ∈ parts11, x ∈ parts165 := by decide
theorem parts54_192 : ∀ x ∈ parts54, x ∈ parts192 := by decide
theorem parts72_192 : ∀ x ∈ parts72, x ∈ parts192 := by decide
theorem parts1_192 : ∀ x ∈ parts1, x ∈ parts192 := by decide
theorem parts91_192 : ∀ x ∈ parts91, x ∈ parts192 := by decide
theorem parts89_192 : ∀ x ∈ parts89, x ∈ parts192 := by decide
theorem parts192_182 : ∀ x ∈ parts192, x ∈ parts182 := by decide
theorem parts1_193 : ∀ x ∈ parts1, x ∈ parts193 := by decide
theorem parts118_193 : ∀ x ∈ parts118, x ∈ parts193 := by decide
theorem parts64_193 : ∀ x ∈ parts64, x ∈ parts193 := by decide
theorem parts6_193 : ∀ x ∈ parts6, x ∈ parts193 := by decide
theorem parts182_165 : ∀ x ∈ parts182, x ∈ parts165 := by decide
theorem parts15_165 : ∀ x ∈ parts15, x ∈ parts165 := by decide
theorem parts1_194 : ∀ x ∈ parts1, x ∈ parts194 := by decide
theorem parts15_194 : ∀ x ∈ parts15, x ∈ parts194 := by decide
theorem parts185_194 : ∀ x ∈ parts185, x ∈ parts194 := by decide
theorem parts1_195 : ∀ x ∈ parts1, x ∈ parts195 := by decide
theorem parts194_195 : ∀ x ∈ parts194, x ∈ parts195 := by decide
theorem parts10_195 : ∀ x ∈ parts10, x ∈ parts195 := by decide
theorem parts1_196 : ∀ x ∈ parts1, x ∈ parts196 := by decide
theorem parts194_196 : ∀ x ∈ parts194, x ∈ parts196 := by decide
theorem parts24_196 : ∀ x ∈ parts24, x ∈ parts196 := by decide
theorem parts15_24 : ∀ x ∈ parts15, x ∈ parts24 := by decide
theorem parts195_165 : ∀ x ∈ parts195, x ∈ parts165 := by decide
theorem parts16_165 : ∀ x ∈ parts16, x ∈ parts165 := by decide
theorem parts196_165 : ∀ x ∈ parts196, x ∈ parts165 := by decide
theorem parts24_165 : ∀ x ∈ parts24, x ∈ parts165 := by decide
theorem parts120_165 : ∀ x ∈ parts120, x ∈ parts165 := by decide
theorem parts0_165 : ∀ x ∈ parts0, x ∈ parts165 := by decide
theorem parts193_197 : ∀ x ∈ parts193, x ∈ parts197 := by decide
theorem parts1_197 : ∀ x ∈ parts1, x ∈ parts197 := by decide
theorem parts0_197 : ∀ x ∈ parts0, x ∈ parts197 := by decide
theorem parts6_197 : ∀ x ∈ parts6, x ∈ parts197 := by decide
theorem parts140_197 : ∀ x ∈ parts140, x ∈ parts197 := by decide
theorem parts23_197 : ∀ x ∈ parts23, x ∈ parts197 := by decide
theorem parts169_198 : ∀ x ∈ parts169, x ∈ parts198 := by decide
theorem parts1_198 : ∀ x ∈ parts1, x ∈ parts198 := by decide
theorem parts140_198 : ∀ x ∈ parts140, x ∈ parts198 := by decide
theorem parts198_199 : ∀ x ∈ parts198, x ∈ parts199 := by decide
theorem parts127_199 : ∀ x ∈ parts127, x ∈ parts199 := by decide
theorem parts129_199 : ∀ x ∈ parts129, x ∈ parts199 := by decide
theorem parts0_199 : ∀ x ∈ parts0, x ∈ parts199 := by decide
theorem parts200_197 : ∀ x ∈ parts200, x ∈ parts197 := by decide
theorem parts0_201 : ∀ x ∈ parts0, x ∈ parts201 := by decide
theorem parts1_201 : ∀ x ∈ parts1, x ∈ parts201 := by decide
theorem parts201_127 : ∀ x ∈ parts201, x ∈ parts127 := by decide
theorem parts197_165 : ∀ x ∈ parts197, x ∈ parts165 := by decide
theorem parts9_165 : ∀ x ∈ parts9, x ∈ parts165 := by decide
theorem parts127_165 : ∀ x ∈ parts127, x ∈ parts165 := by decide
theorem parts202_165 : ∀ x ∈ parts202, x ∈ parts165 := by decide
theorem parts126_165 : ∀ x ∈ parts126, x ∈ parts165 := by decide
theorem parts201_165 : ∀ x ∈ parts201, x ∈ parts165 := by decide
theorem parts128_165 : ∀ x ∈ parts128, x ∈ parts165 := by decide
theorem parts197_203 : ∀ x ∈ parts197, x ∈ parts203 := by decide
theorem parts126_203 : ∀ x ∈ parts126, x ∈ parts203 := by decide
theorem parts1_203 : ∀ x ∈ parts1, x ∈ parts203 := by decide
theorem parts0_203 : ∀ x ∈ parts0, x ∈ parts203 := by decide
theorem parts18_165 : ∀ x ∈ parts18, x ∈ parts165 := by decide
theorem parts129_165 : ∀ x ∈ parts129, x ∈ parts165 := by decide

/-! ### Updates -/

theorem Only.upd_respErr {ps : List Part} {a b : State} {x0 : Bool}
    (hp : ∀ x ∈ parts0, x ∈ ps) (h : Only ps a b) : Only ps a { b with respErr := x0 } :=
  h.trans ⟨rfl, fun p hn => by cases p <;> first | rfl | exact absurd (hp _ (by decide)) hn⟩

theorem Only.upd_fld {ps : List Part} {a b : State} {x0 : Tab Nat}
    (hp : ∀ x ∈ parts1, x ∈ ps) (h : Only ps a b) : Only ps a { b with fld := x0 } :=
  h.trans ⟨rfl, fun p hn => by cases p <;> first | rfl | exact absurd (hp _ (by decide)) hn⟩

theorem Only.upd_shadow {ps : List Part} {a b : State} {x0 : Tab Nat}
    (hp : ∀ x ∈ parts2, x ∈ ps) (h : Only ps a b) : Only ps a { b with shadow := x0 } :=
  h.trans ⟨rfl, fun p hn => by cases p <;> first | rfl | exact absurd (hp _ (by decide)) hn⟩

theorem Only.upd_dirtyReg {ps : List Part} {a b : State} {x0 : Tab Bool}
    (hp : ∀ x ∈ parts4, x ∈ ps) (h : Only ps a b) : Only ps a { b with dirtyReg := x0 } :=
  h.trans ⟨rfl, fun p hn => by cases p <;> first | rfl | exact absurd (hp _ (by decide)) hn⟩

theorem Only.upd_time {ps : List Part} {a b : State} {x0 : Time}
    (hp : ∀ x ∈ parts5, x ∈ ps) (h : Only ps a b) : Only ps a { b with time := x0 } :=
  h.trans ⟨rfl, fun p hn => by cases p <;> first | rfl | exact absurd (hp _ (by decide)) hn⟩

theorem Only.upd_freeCtr {ps : List Part} {a b : State} {x0 : Nat}
    (hp : ∀ x ∈ parts6, x ∈ ps) (h : Only ps a b) : Only ps a { b with freeCtr := x0 } :=
  h.trans ⟨rfl, fun p hn => by cases p <;> first | rfl | exact absurd (hp _ (by decide)) hn⟩

theorem Only.upd_undef {ps : List Part} {a b : State} {x0 : Tab Bool}
    (hp : ∀ x ∈ parts7, x ∈ ps) (h : Only ps a b) : Only ps a { b with undef := x0 } :=
  h.trans ⟨rfl, fun p hn => by cases p <;> first | rfl | exact absurd (hp _ (by decide)) hn⟩

theorem Only.upd_readData {ps : List Part} {a b : State} {x0 : List Word}
    (hp : ∀ x ∈ parts9, x ∈ ps) (h : Only ps a b) : Only ps a { b with readData := x0 } :=
  h.trans ⟨rfl, fun p hn => by cases p <;> first | rfl | exact absurd (hp _ (by decide)) hn⟩

theorem Only.upd_mem {ps : List Part} {a b : State} {x0 : List Host.Cell}
    (hp : ∀ x ∈ parts10, x ∈ ps) (h : Only ps a b) : Only ps a { b with mem := x0 } :=
  h.trans ⟨rfl, fun p hn => by cases p <;> first | rfl | exact absurd (hp _ (by decide)) hn⟩

theorem Only.upd_ledger {ps : List Part} {a b : State} {x0 : Ledger}
    (hp : ∀ x ∈ parts13, x ∈ ps) (h : Only ps a b) : Only ps a { b with ledger := x0 } :=
  h.trans ⟨rfl, fun p hn => by cases p <;> first | rfl | exact absurd (hp _ (by decide)) hn⟩

theorem Only.upd_ecc {ps : List Part} {a b : State} {x0 : Tab (Option Ecc)}
    (hp : ∀ x ∈ parts14, x ∈ ps) (h : Only ps a b) : Only ps a { b with ecc := x0 } :=
  h.trans ⟨rfl, fun p hn => by cases p <;> first | rfl | exact absurd (hp _ (by decide)) hn⟩

theorem Only.upd_clus {ps : List Part} {a b : State} {x0 : Tab Clus}
    (hp : ∀ x ∈ parts17, x ∈ ps) (h : Only ps a b) : Only ps a { b with clus := x0 } :=
  h.trans ⟨rfl, fun p hn => by cases p <;> first | rfl | exact absurd (hp _ (by decide)) hn⟩

theorem Only.upd_cores {ps : List Part} {a b : State} {x0 : Tab Core}
    (hp : ∀ x ∈ parts18, x ∈ ps) (h : Only ps a b) : Only ps a { b with cores := x0 } :=
  h.trans ⟨rfl, fun p hn => by cases p <;> first | rfl | exact absurd (hp _ (by decide)) hn⟩

theorem Only.upd_marks {ps : List Part} {a b : State} {x0 : Tab Bool}
    (hp : ∀ x ∈ parts28, x ∈ ps) (h : Only ps a b) : Only ps a { b with marks := x0 } :=
  h.trans ⟨rfl, fun p hn => by cases p <;> first | rfl | exact absurd (hp _ (by decide)) hn⟩

theorem Only.upd_oryx {ps : List Part} {a b : State} {x0 : Oryx}
    (hp : ∀ x ∈ parts29, x ∈ ps) (h : Only ps a b) : Only ps a { b with oryx := x0 } :=
  h.trans ⟨rfl, fun p hn => by cases p <;> first | rfl | exact absurd (hp _ (by decide)) hn⟩

theorem Only.upd_meters {ps : List Part} {a b : State} {x0 : Tab Meter}
    (hp : ∀ x ∈ parts32, x ∈ ps) (h : Only ps a b) : Only ps a { b with meters := x0 } :=
  h.trans ⟨rfl, fun p hn => by cases p <;> first | rfl | exact absurd (hp _ (by decide)) hn⟩

theorem Only.upd_eqSecs {ps : List Part} {a b : State} {x0 : Tab EqSec}
    (hp : ∀ x ∈ parts34, x ∈ ps) (h : Only ps a b) : Only ps a { b with eqSecs := x0 } :=
  h.trans ⟨rfl, fun p hn => by cases p <;> first | rfl | exact absurd (hp _ (by decide)) hn⟩

theorem Only.upd_delay {ps : List Part} {a b : State} {x0 : Delay}
    (hp : ∀ x ∈ parts37, x ∈ ps) (h : Only ps a b) : Only ps a { b with delay := x0 } :=
  h.trans ⟨rfl, fun p hn => by cases p <;> first | rfl | exact absurd (hp _ (by decide)) hn⟩

theorem Only.upd_lanes {ps : List Part} {a b : State} {x0 : Tab Lane}
    (hp : ∀ x ∈ parts42, x ∈ ps) (h : Only ps a b) : Only ps a { b with lanes := x0 } :=
  h.trans ⟨rfl, fun p hn => by cases p <;> first | rfl | exact absurd (hp _ (by decide)) hn⟩

theorem Only.upd_ring {ps : List Part} {a b : State} {x0 : Ring}
    (hp : ∀ x ∈ parts43, x ∈ ps) (h : Only ps a b) : Only ps a { b with ring := x0 } :=
  h.trans ⟨rfl, fun p hn => by cases p <;> first | rfl | exact absurd (hp _ (by decide)) hn⟩

theorem Only.upd_dpll {ps : List Part} {a b : State} {x0 : Dpll}
    (hp : ∀ x ∈ parts45, x ∈ ps) (h : Only ps a b) : Only ps a { b with dpll := x0 } :=
  h.trans ⟨rfl, fun p hn => by cases p <;> first | rfl | exact absurd (hp _ (by decide)) hn⟩

theorem Only.upd_fseq_ring {ps : List Part} {a b : State} {x0 : FrameSeq} {x1 : Ring}
    (hp : ∀ x ∈ parts67, x ∈ ps) (h : Only ps a b) : Only ps a { b with fseq := x0, ring := x1 } :=
  h.trans ⟨rfl, fun p hn => by cases p <;> first | rfl | exact absurd (hp _ (by decide)) hn⟩

theorem Only.upd_audio {ps : List Part} {a b : State} {x0 : Tab Audio}
    (hp : ∀ x ∈ parts71, x ∈ ps) (h : Only ps a b) : Only ps a { b with audio := x0 } :=
  h.trans ⟨rfl, fun p hn => by cases p <;> first | rfl | exact absurd (hp _ (by decide)) hn⟩

theorem Only.upd_startTrig {ps : List Part} {a b : State} {x0 : Nat}
    (hp : ∀ x ∈ parts75, x ∈ ps) (h : Only ps a b) : Only ps a { b with startTrig := x0 } :=
  h.trans ⟨rfl, fun p hn => by cases p <;> first | rfl | exact absurd (hp _ (by decide)) hn⟩

theorem Only.upd_fseq {ps : List Part} {a b : State} {x0 : FrameSeq}
    (hp : ∀ x ∈ parts80, x ∈ ps) (h : Only ps a b) : Only ps a { b with fseq := x0 } :=
  h.trans ⟨rfl, fun p hn => by cases p <;> first | rfl | exact absurd (hp _ (by decide)) hn⟩

theorem Only.upd_fseq_dpll {ps : List Part} {a b : State} {x0 : FrameSeq} {x1 : Dpll}
    (hp : ∀ x ∈ parts85, x ∈ ps) (h : Only ps a b) : Only ps a { b with fseq := x0, dpll := x1 } :=
  h.trans ⟨rfl, fun p hn => by cases p <;> first | rfl | exact absurd (hp _ (by decide)) hn⟩

theorem Only.upd_amps {ps : List Part} {a b : State} {x0 : Tab Amp}
    (hp : ∀ x ∈ parts86, x ∈ ps) (h : Only ps a b) : Only ps a { b with amps := x0 } :=
  h.trans ⟨rfl, fun p hn => by cases p <;> first | rfl | exact absurd (hp _ (by decide)) hn⟩

theorem Only.upd_boosts {ps : List Part} {a b : State} {x0 : Tab Boost}
    (hp : ∀ x ∈ parts87, x ∈ ps) (h : Only ps a b) : Only ps a { b with boosts := x0 } :=
  h.trans ⟨rfl, fun p hn => by cases p <;> first | rfl | exact absurd (hp _ (by decide)) hn⟩

theorem Only.upd_cal {ps : List Part} {a b : State} {x0 : Cal}
    (hp : ∀ x ∈ parts95, x ∈ ps) (h : Only ps a b) : Only ps a { b with cal := x0 } :=
  h.trans ⟨rfl, fun p hn => by cases p <;> first | rfl | exact absurd (hp _ (by decide)) hn⟩

theorem Only.upd_staged_dirtyTab_dirtyReg {ps : List Part} {a b : State} {x0 : Tab Nat} {x1 : Tab Bool} {x2 : Tab Bool}
    (hp : ∀ x ∈ parts98, x ∈ ps) (h : Only ps a b) : Only ps a { b with staged := x0, dirtyTab := x1, dirtyReg := x2 } :=
  h.trans ⟨rfl, fun p hn => by cases p <;> first | rfl | exact absurd (hp _ (by decide)) hn⟩

theorem Only.upd_commit {ps : List Part} {a b : State} {x0 : CommitReq}
    (hp : ∀ x ∈ parts101, x ∈ ps) (h : Only ps a b) : Only ps a { b with commit := x0 } :=
  h.trans ⟨rfl, fun p hn => by cases p <;> first | rfl | exact absurd (hp _ (by decide)) hn⟩

theorem Only.upd_fseq_eqSecs {ps : List Part} {a b : State} {x0 : FrameSeq} {x1 : Tab EqSec}
    (hp : ∀ x ∈ parts104, x ∈ ps) (h : Only ps a b) : Only ps a { b with fseq := x0, eqSecs := x1 } :=
  h.trans ⟨rfl, fun p hn => by cases p <;> first | rfl | exact absurd (hp _ (by decide)) hn⟩

theorem Only.upd_fseq_oryx {ps : List Part} {a b : State} {x0 : FrameSeq} {x1 : Oryx}
    (hp : ∀ x ∈ parts111, x ∈ ps) (h : Only ps a b) : Only ps a { b with fseq := x0, oryx := x1 } :=
  h.trans ⟨rfl, fun p hn => by cases p <;> first | rfl | exact absurd (hp _ (by decide)) hn⟩

theorem Only.upd_oryx_readData {ps : List Part} {a b : State} {x0 : Oryx} {x1 : List Word}
    (hp : ∀ x ∈ parts118, x ∈ ps) (h : Only ps a b) : Only ps a { b with oryx := x0, readData := x1 } :=
  h.trans ⟨rfl, fun p hn => by cases p <;> first | rfl | exact absurd (hp _ (by decide)) hn⟩

theorem Only.upd_mem_ecc {ps : List Part} {a b : State} {x0 : List Host.Cell} {x1 : Tab (Option Ecc)}
    (hp : ∀ x ∈ parts22, x ∈ ps) (h : Only ps a b) : Only ps a { b with mem := x0, ecc := x1 } :=
  h.trans ⟨rfl, fun p hn => by cases p <;> first | rfl | exact absurd (hp _ (by decide)) hn⟩

theorem Only.upd_vcore {ps : List Part} {a b : State} {x0 : Vcore}
    (hp : ∀ x ∈ parts125, x ∈ ps) (h : Only ps a b) : Only ps a { b with vcore := x0 } :=
  h.trans ⟨rfl, fun p hn => by cases p <;> first | rfl | exact absurd (hp _ (by decide)) hn⟩

theorem Only.upd_dmas {ps : List Part} {a b : State} {x0 : Tab Dma}
    (hp : ∀ x ∈ parts126, x ∈ ps) (h : Only ps a b) : Only ps a { b with dmas := x0 } :=
  h.trans ⟨rfl, fun p hn => by cases p <;> first | rfl | exact absurd (hp _ (by decide)) hn⟩

theorem Only.upd_retries {ps : List Part} {a b : State} {x0 : List Retry}
    (hp : ∀ x ∈ parts128, x ∈ ps) (h : Only ps a b) : Only ps a { b with retries := x0 } :=
  h.trans ⟨rfl, fun p hn => by cases p <;> first | rfl | exact absurd (hp _ (by decide)) hn⟩

theorem Only.upd_pins {ps : List Part} {a b : State} {x0 : Pins}
    (hp : ∀ x ∈ parts140, x ∈ ps) (h : Only ps a b) : Only ps a { b with pins := x0 } :=
  h.trans ⟨rfl, fun p hn => by cases p <;> first | rfl | exact absurd (hp _ (by decide)) hn⟩

theorem Only.upd_fld_shadow_staged_dirtyTab_dirtyReg {ps : List Part} {a b : State} {x0 : Tab Nat} {x1 : Tab Nat} {x2 : Tab Nat} {x3 : Tab Bool} {x4 : Tab Bool}
    (hp : ∀ x ∈ parts142, x ∈ ps) (h : Only ps a b) : Only ps a { b with fld := x0, shadow := x1, staged := x2, dirtyTab := x3, dirtyReg := x4 } :=
  h.trans ⟨rfl, fun p hn => by cases p <;> first | rfl | exact absurd (hp _ (by decide)) hn⟩

theorem Only.upd_marks_cores_clus_fseq_oryx_meters_eqSecs_delay_lanes_ring_audio_startTrig_amps_boosts_cal_dmas_vcore {ps : List Part} {a b : State} {x0 : Tab Bool} {x1 : Tab Core} {x2 : Tab Clus} {x3 : FrameSeq} {x4 : Oryx} {x5 : Tab Meter} {x6 : Tab EqSec} {x7 : Delay} {x8 : Tab Lane} {x9 : Ring} {x10 : Tab Audio} {x11 : Nat} {x12 : Tab Amp} {x13 : Tab Boost} {x14 : Cal} {x15 : Tab Dma} {x16 : Vcore}
    (hp : ∀ x ∈ parts143, x ∈ ps) (h : Only ps a b) : Only ps a { b with marks := x0, cores := x1, clus := x2, fseq := x3, oryx := x4, meters := x5, eqSecs := x6, delay := x7, lanes := x8, ring := x9, audio := x10, startTrig := x11, amps := x12, boosts := x13, cal := x14, dmas := x15, vcore := x16 } :=
  h.trans ⟨rfl, fun p hn => by cases p <;> first | rfl | exact absurd (hp _ (by decide)) hn⟩

theorem Only.upd_mem_ecc_undef {ps : List Part} {a b : State} {x0 : List Host.Cell} {x1 : Tab (Option Ecc)} {x2 : Tab Bool}
    (hp : ∀ x ∈ parts145, x ∈ ps) (h : Only ps a b) : Only ps a { b with mem := x0, ecc := x1, undef := x2 } :=
  h.trans ⟨rfl, fun p hn => by cases p <;> first | rfl | exact absurd (hp _ (by decide)) hn⟩

theorem Only.upd_dom {ps : List Part} {a b : State} {x0 : Tab DomState}
    (hp : ∀ x ∈ parts148, x ∈ ps) (h : Only ps a b) : Only ps a { b with dom := x0 } :=
  h.trans ⟨rfl, fun p hn => by cases p <;> first | rfl | exact absurd (hp _ (by decide)) hn⟩

theorem Only.upd_pwr {ps : List Part} {a b : State} {x0 : Pwr}
    (hp : ∀ x ∈ parts151, x ∈ ps) (h : Only ps a b) : Only ps a { b with pwr := x0 } :=
  h.trans ⟨rfl, fun p hn => by cases p <;> first | rfl | exact absurd (hp _ (by decide)) hn⟩

theorem Only.upd_mgmt {ps : List Part} {a b : State} {x0 : Mgmt}
    (hp : ∀ x ∈ parts159, x ∈ ps) (h : Only ps a b) : Only ps a { b with mgmt := x0 } :=
  h.trans ⟨rfl, fun p hn => by cases p <;> first | rfl | exact absurd (hp _ (by decide)) hn⟩

theorem Only.upd_mgmt_pins {ps : List Part} {a b : State} {x0 : Mgmt} {x1 : Pins}
    (hp : ∀ x ∈ parts166, x ∈ ps) (h : Only ps a b) : Only ps a { b with mgmt := x0, pins := x1 } :=
  h.trans ⟨rfl, fun p hn => by cases p <;> first | rfl | exact absurd (hp _ (by decide)) hn⟩

theorem Only.upd_inReset {ps : List Part} {a b : State} {x0 : Bool}
    (hp : ∀ x ∈ parts167, x ∈ ps) (h : Only ps a b) : Only ps a { b with inReset := x0 } :=
  h.trans ⟨rfl, fun p hn => by cases p <;> first | rfl | exact absurd (hp _ (by decide)) hn⟩

theorem Only.upd_fld_shadow_staged {ps : List Part} {a b : State} {x0 : Tab Nat} {x1 : Tab Nat} {x2 : Tab Nat}
    (hp : ∀ x ∈ parts169, x ∈ ps) (h : Only ps a b) : Only ps a { b with fld := x0, shadow := x1, staged := x2 } :=
  h.trans ⟨rfl, fun p hn => by cases p <;> first | rfl | exact absurd (hp _ (by decide)) hn⟩

theorem Only.upd_oryx_meters_eqSecs_delay {ps : List Part} {a b : State} {x0 : Oryx} {x1 : Tab Meter} {x2 : Tab EqSec} {x3 : Delay}
    (hp : ∀ x ∈ parts183, x ∈ ps) (h : Only ps a b) : Only ps a { b with oryx := x0, meters := x1, eqSecs := x2, delay := x3 } :=
  h.trans ⟨rfl, fun p hn => by cases p <;> first | rfl | exact absurd (hp _ (by decide)) hn⟩

theorem Only.upd_dirtyTab {ps : List Part} {a b : State} {x0 : Tab Bool}
    (hp : ∀ x ∈ parts185, x ∈ ps) (h : Only ps a b) : Only ps a { b with dirtyTab := x0 } :=
  h.trans ⟨rfl, fun p hn => by cases p <;> first | rfl | exact absurd (hp _ (by decide)) hn⟩

theorem Only.upd_readData_respErr {ps : List Part} {a b : State} {x0 : List Word} {x1 : Bool}
    (hp : ∀ x ∈ parts200, x ∈ ps) (h : Only ps a b) : Only ps a { b with readData := x0, respErr := x1 } :=
  h.trans ⟨rfl, fun p hn => by cases p <;> first | rfl | exact absurd (hp _ (by decide)) hn⟩

theorem Only.upd_retries_readData_respErr {ps : List Part} {a b : State} {x0 : List Retry} {x1 : List Word} {x2 : Bool}
    (hp : ∀ x ∈ parts202, x ∈ ps) (h : Only ps a b) : Only ps a { b with retries := x0, readData := x1, respErr := x2 } :=
  h.trans ⟨rfl, fun p hn => by cases p <;> first | rfl | exact absurd (hp _ (by decide)) hn⟩

end Sys2Proof.Machine
end

