-- ==== Sys2Proof/Laws/OnlyOps.lean ====
section
/-! SUPPORT. Which parts of the state change (`Only`), for the shared operations over registers, engines and links: one lemma per function
that gives a state. -/

namespace Sys2Proof.Machine

theorem State.respond_only {σ : State} {ps : List Part} (s : State) (err : Bool) (hp : ∀ x ∈ parts0, x ∈ ps) (h : Only ps σ s) :
    Only ps σ (State.respond s err) := by
  unfold State.respond
  with_reducible repeat' (first | assumption | fail_if_no_progress apply Only.upd_respErr (hp := hp))

theorem State.put_only {σ : State} {ps : List Part} (s : State) (p : Nat) (f : Fld) (v : Nat) (hp : ∀ x ∈ parts1, x ∈ ps) (h : Only ps σ s) :
    Only ps σ (State.put s p f v) := by
  unfold State.put
  with_reducible repeat' (first | assumption | fail_if_no_progress apply Only.upd_fld (hp := hp))

theorem State.putB_only {σ : State} {ps : List Part} (s : State) (p : Nat) (f : Fld) (b : Bool) (hp : ∀ x ∈ parts1, x ∈ ps) (h : Only ps σ s) :
    Only ps σ (State.putB s p f b) := by
  unfold State.putB
  with_reducible repeat' (first | assumption | apply State.put_only (hp := hp))

theorem State.putSh_only {σ : State} {ps : List Part} (s : State) (p : Nat) (f : Fld) (v : Nat) (hp : ∀ x ∈ parts2, x ∈ ps) (h : Only ps σ s) :
    Only ps σ (State.putSh s p f v) := by
  unfold State.putSh
  with_reducible repeat' (first | assumption | fail_if_no_progress apply Only.upd_shadow (hp := hp))

theorem State.putDirty_only {σ : State} {ps : List Part} (s : State) (p : Nat) (f : Fld) (v : Nat) (hp : ∀ x ∈ parts3, x ∈ ps) (h : Only ps σ s) :
    Only ps σ (State.putDirty s p f v) := by
  unfold State.putDirty
  with_reducible repeat' (first
    | assumption | apply State.putSh_only (hp := (fun x m => hp x (parts2_3 x m)))
    | fail_if_no_progress apply Only.upd_dirtyReg (hp := (fun x m => hp x (parts4_3 x m))))

theorem State.bump_only {σ : State} {ps : List Part} (s : State) (p : Nat) (f : Fld) (n : Nat) (hp : ∀ x ∈ parts1, x ∈ ps) (h : Only ps σ s) :
    Only ps σ (State.bump s p f n) := by
  unfold State.bump
  with_reducible repeat' (first | assumption | apply State.put_only (hp := hp))

theorem State.maxUp_only {σ : State} {ps : List Part} (s : State) (p : Nat) (f : Fld) (v : Nat) (hp : ∀ x ∈ parts1, x ∈ ps) (h : Only ps σ s) :
    Only ps σ (State.maxUp s p f v) := by
  unfold State.maxUp
  with_reducible repeat' (first | assumption | apply State.put_only (hp := hp))

theorem State.putI_only {σ : State} {ps : List Part} (s : State) (p : Nat) (f : Fld) (z : Int) (hp : ∀ x ∈ parts1, x ∈ ps) (h : Only ps σ s) :
    Only ps σ (State.putI s p f z) := by
  unfold State.putI
  with_reducible repeat' (first | assumption | apply State.put_only (hp := hp))

theorem State.raise_only {σ : State} {ps : List Part} (s : State) (p : Nat) (b : Nat) (hp : ∀ x ∈ parts1, x ∈ ps) (h : Only ps σ s) :
    Only ps σ (State.raise s p b) := by
  unfold State.raise
  with_reducible repeat' (first | assumption | apply State.put_only (hp := hp))

theorem State.atPhase_only {σ : State} {ps : List Part} (s : State) (at_ : Nat) (hp : ∀ x ∈ parts5, x ∈ ps) (h : Only ps σ s) :
    Only ps σ (State.atPhase s at_) := by
  unfold State.atPhase
  with_reducible repeat' (first | assumption | fail_if_no_progress apply Only.upd_time (hp := hp))

theorem State.log_only {σ : State} {ps : List Part} (s : State) (p : Nat) (code : Nat) (hp : ∀ x ∈ parts1, x ∈ ps) (h : Only ps σ s) :
    Only ps σ (State.log s p code) := by
  unfold State.log
  with_reducible repeat' (first
    | assumption | apply State.bump_only (hp := hp) | apply State.put_only (hp := hp))

theorem State.draw_only {σ : State} {ps : List Part} (s : State) (hp : ∀ x ∈ parts6, x ∈ ps) (h : Only ps σ s) :
    Only ps σ (State.draw s).2 := by
  unfold State.draw
  with_reducible repeat' (first | assumption | fail_if_no_progress apply Only.upd_freeCtr (hp := hp))

theorem State.drawBytes_only {σ : State} {ps : List Part} (s : State) (n : Nat) (hp : ∀ x ∈ parts6, x ∈ ps) (h : Only ps σ s) :
    Only ps σ (State.drawBytes s n).2 := by
  induction n generalizing s with
  | zero => exact h
  | succ n ih => exact ih _ (State.draw_only _ hp h)

theorem State.loseDomain_only {σ : State} {ps : List Part} (s : State) (d : Nat) (hp : ∀ x ∈ parts7, x ∈ ps) (h : Only ps σ s) :
    Only ps σ (State.loseDomain s d) := by
  unfold State.loseDomain
  with_reducible repeat' (first | assumption | fail_if_no_progress apply Only.upd_undef (hp := hp))

theorem State.loseDevice_only {σ : State} {ps : List Part} (s : State) (hp : ∀ x ∈ parts7, x ∈ ps) (h : Only ps σ s) :
    Only ps σ (State.loseDevice s) := by
  unfold State.loseDevice
  with_reducible repeat' (first
    | assumption | apply State.loseDomain_only (hp := hp) | (refine Only.foldl ?_ (fun _ _ _ => ?_)))

theorem State.blockWrite_only {σ : State} {ps : List Part} (s : State) (p : Nat) (f : State → State) (hp : ∀ x ∈ parts1, x ∈ ps) (hf : ∀ x, Only ps σ x → Only ps σ (f x)) (h : Only ps σ s) :
    Only ps σ (State.blockWrite s p f) := by
  unfold State.blockWrite
  with_reducible repeat' (first | assumption | apply hf | apply State.log_only (hp := hp) | split)

theorem State.ctrlWrite_only {σ : State} {ps : List Part} (s : State) (p : Nat) (f : State → State) (hp : ∀ x ∈ parts1, x ∈ ps) (hf : ∀ x, Only ps σ x → Only ps σ (f x)) (h : Only ps σ s) :
    Only ps σ (State.ctrlWrite s p f) := by
  unfold State.ctrlWrite
  with_reducible repeat' (first | assumption | apply hf | apply State.log_only (hp := hp) | split)

theorem State.blockRead_only {σ : State} {ps : List Part} (s : State) (p : Nat) (f : State → State) (hp : ∀ x ∈ parts8, x ∈ ps) (hf : ∀ x, Only ps σ x → Only ps σ (f x)) (h : Only ps σ s) :
    Only ps σ (State.blockRead s p f) := by
  unfold State.blockRead
  with_reducible repeat' (first
    | assumption | apply hf | apply State.log_only (hp := (fun x m => hp x (parts1_8 x m)))
    | apply State.draw_only (hp := (fun x m => hp x (parts6_8 x m)))
    | fail_if_no_progress apply Only.upd_readData (hp := (fun x m => hp x (parts9_8 x m))) | split)

theorem State.setByte_only {σ : State} {ps : List Part} (s : State) (a : Nat) (v : Byte) (hp : ∀ x ∈ parts10, x ∈ ps) (h : Only ps σ s) :
    Only ps σ (State.setByte s a v) := by
  unfold State.setByte
  with_reducible repeat' (first | assumption | fail_if_no_progress apply Only.upd_mem (hp := hp))

theorem State.setBytes_only {σ : State} {ps : List Part} (s : State) (l : List (Nat × Byte)) (hp : ∀ x ∈ parts10, x ∈ ps) (h : Only ps σ s) :
    Only ps σ (State.setBytes s l) := by
  unfold State.setBytes
  with_reducible repeat' (first | assumption | fail_if_no_progress apply Only.upd_mem (hp := hp))

theorem State.setWord_only {σ : State} {ps : List Part} (s : State) (a : Nat) (v : Word) (hp : ∀ x ∈ parts10, x ∈ ps) (h : Only ps σ s) :
    Only ps σ (State.setWord s a v) := by
  unfold State.setWord
  with_reducible repeat' (first | assumption | apply State.setBytes_only (hp := hp))

theorem State.shadowWrite_only {σ : State} {ps : List Part} (s : State) (p : Nat) (l : List (Fld × Nat)) (hp : ∀ x ∈ parts11, x ∈ ps) (h : Only ps σ s) :
    Only ps σ (State.shadowWrite s p l) := by
  unfold State.shadowWrite
  with_reducible repeat' (first
    | assumption | apply State.log_only (hp := (fun x m => hp x (parts1_11 x m)))
    | apply State.putDirty_only (hp := (fun x m => hp x (parts3_11 x m)))
    | (refine Only.foldl ?_ (fun _ _ _ => ?_)) | (refine Only.foldl_snd ?_ (fun _ _ _ => ?_))
    | (refine Only.foldl_fst ?_ (fun _ _ _ => ?_)) | split)

theorem State.ledgerView_only {σ : State} {ps : List Part} (s : State) (hp : ∀ x ∈ parts1, x ∈ ps) (h : Only ps σ s) :
    Only ps σ (State.ledgerView s) := by
  unfold State.ledgerView
  with_reducible repeat' (first
    | assumption | apply State.put_only (hp := hp) | apply State.putB_only (hp := hp)
    | (refine Only.foldl ?_ (fun _ _ _ => ?_)))

theorem State.withLedger_only {σ : State} {ps : List Part} (s : State) (l : Ledger) (hp : ∀ x ∈ parts12, x ∈ ps) (h : Only ps σ s) :
    Only ps σ (State.withLedger s l) := by
  unfold State.withLedger
  with_reducible repeat' (first
    | assumption | apply State.ledgerView_only (hp := (fun x m => hp x (parts1_12 x m)))
    | fail_if_no_progress apply Only.upd_ledger (hp := (fun x m => hp x (parts13_12 x m))))

theorem State.request_only {σ : State} {ps : List Part} (s : State) (kind : Nat) (inst : Nat) (hp : ∀ x ∈ parts12, x ∈ ps) (h : Only ps σ s) :
    Only ps σ (State.request s kind inst) := by
  unfold State.request
  with_reducible repeat' (first | assumption | apply State.withLedger_only (hp := hp))

theorem State.release_only {σ : State} {ps : List Part} (s : State) (kind : Nat) (inst : Nat) (hp : ∀ x ∈ parts12, x ∈ ps) (h : Only ps σ s) :
    Only ps σ (State.release s kind inst) := by
  unfold State.release
  with_reducible repeat' (first | assumption | apply State.withLedger_only (hp := hp))

theorem State.chargeNow_only {σ : State} {ps : List Part} (s : State) (kind : Nat) (inst : Nat) (hp : ∀ x ∈ parts12, x ∈ ps) (h : Only ps σ s) :
    Only ps σ (State.chargeNow s kind inst) := by
  unfold State.chargeNow
  with_reducible repeat' (first | assumption | apply State.withLedger_only (hp := hp))

theorem State.unchargeNow_only {σ : State} {ps : List Part} (s : State) (kind : Nat) (inst : Nat) (hp : ∀ x ∈ parts12, x ∈ ps) (h : Only ps σ s) :
    Only ps σ (State.unchargeNow s kind inst) := by
  unfold State.unchargeNow
  with_reducible repeat' (first | assumption | apply State.withLedger_only (hp := hp))

theorem State.ledgerCycle_only {σ : State} {ps : List Part} (s : State) (hp : ∀ x ∈ parts12, x ∈ ps) (h : Only ps σ s) :
    Only ps σ (State.ledgerCycle s) := by
  unfold State.ledgerCycle
  with_reducible repeat' (first | assumption | apply State.withLedger_only (hp := hp))

theorem State.ledgerExpire_only {σ : State} {ps : List Part} (s : State) (kind : Nat) (inst : Nat) (hp : ∀ x ∈ parts12, x ∈ ps) (h : Only ps σ s) :
    Only ps σ (State.ledgerExpire s kind inst) := by
  unfold State.ledgerExpire
  with_reducible repeat' (first
    | assumption | apply State.withLedger_only (hp := hp)
    | apply State.bump_only (hp := (fun x m => hp x (parts1_12 x m)))
    | apply State.put_only (hp := (fun x m => hp x (parts1_12 x m)))
    | apply State.raise_only (hp := (fun x m => hp x (parts1_12 x m))))

theorem State.setStoreEcc_only {σ : State} {ps : List Part} (s : State) (a : Nat) (e : Option Ecc) (hp : ∀ x ∈ parts14, x ∈ ps) (h : Only ps σ s) :
    Only ps σ (State.setStoreEcc s a e) := by
  unfold State.setStoreEcc
  with_reducible repeat' (first | assumption | fail_if_no_progress apply Only.upd_ecc (hp := hp))

theorem State.storeEccEvent_only {σ : State} {ps : List Part} (s : State) (a : Nat) (uncorr : Bool) (hp : ∀ x ∈ parts15, x ∈ ps) (h : Only ps σ s) :
    Only ps σ (State.storeEccEvent s a uncorr) := by
  unfold State.storeEccEvent
  with_reducible repeat' (first
    | assumption | apply State.loseDomain_only (hp := (fun x m => hp x (parts7_15 x m)))
    | apply State.bump_only (hp := (fun x m => hp x (parts1_15 x m)))
    | apply State.put_only (hp := (fun x m => hp x (parts1_15 x m)))
    | apply State.raise_only (hp := (fun x m => hp x (parts1_15 x m)))
    | apply State.putB_only (hp := (fun x m => hp x (parts1_15 x m))) | split)

theorem State.lostCount_only {σ : State} {ps : List Part} (s : State) (a : Nat) (n : Nat) (hp : ∀ x ∈ parts1, x ∈ ps) (h : Only ps σ s) :
    Only ps σ (State.lostCount s a n) := by
  unfold State.lostCount
  with_reducible repeat' (first
    | assumption | apply State.bump_only (hp := hp) | (refine Only.foldl ?_ (fun _ _ _ => ?_))
    | (refine Only.foldl_snd ?_ (fun _ _ _ => ?_)) | (refine Only.foldl_fst ?_ (fun _ _ _ => ?_)) | split)

theorem State.storeCheck_only {σ : State} {ps : List Part} (s : State) (a : Nat) (hp : ∀ x ∈ parts15, x ∈ ps) (h : Only ps σ s) :
    Only ps σ (State.storeCheck s a).2 := by
  unfold State.storeCheck
  with_reducible repeat' (first | assumption | apply State.storeEccEvent_only (hp := hp) | split)

theorem State.storeRead_only {σ : State} {ps : List Part} (s : State) (a : Nat) (n : Nat) (hp : ∀ x ∈ parts15, x ∈ ps) (h : Only ps σ s) :
    Only ps σ (State.storeRead s a n).2.2 := by
  unfold State.storeRead
  with_reducible repeat' (first
    | assumption | apply State.log_only (hp := (fun x m => hp x (parts1_15 x m)))
    | apply State.storeCheck_only (hp := hp)
    | apply State.lostCount_only (hp := (fun x m => hp x (parts1_15 x m)))
    | (refine Only.foldl ?_ (fun _ _ _ => ?_)) | (refine Only.foldl_snd ?_ (fun _ _ _ => ?_))
    | (refine Only.foldl_fst ?_ (fun _ _ _ => ?_)) | split)

theorem State.storeWord_only {σ : State} {ps : List Part} (s : State) (w : Nat) (l : List (Nat × Byte)) (hp : ∀ x ∈ parts16, x ∈ ps) (h : Only ps σ s) :
    Only ps σ (State.storeWord s w l) := by
  unfold State.storeWord
  with_reducible repeat' (first
    | assumption | apply State.setStoreEcc_only (hp := (fun x m => hp x (parts14_16 x m)))
    | apply State.setBytes_only (hp := (fun x m => hp x (parts10_16 x m)))
    | apply State.storeEccEvent_only (hp := (fun x m => hp x (parts15_16 x m))) | split | intro _
    | dsimp only)

theorem State.storePut_only {σ : State} {ps : List Part} (s : State) (a : Nat) (n : Nat) (l : List (Nat × Byte)) (hp : ∀ x ∈ parts16, x ∈ ps) (h : Only ps σ s) :
    Only ps σ (State.storePut s a n l) := by
  unfold State.storePut
  with_reducible repeat' (first
    | assumption | apply State.storeWord_only (hp := hp)
    | apply State.lostCount_only (hp := (fun x m => hp x (parts1_16 x m)))
    | (refine Only.foldl ?_ (fun _ _ _ => ?_)))

theorem State.storeWrite_only {σ : State} {ps : List Part} (s : State) (a : Nat) (n : Nat) (l : List (Nat × Byte)) (hp : ∀ x ∈ parts16, x ∈ ps) (h : Only ps σ s) :
    Only ps σ (State.storeWrite s a n l) := by
  unfold State.storeWrite
  with_reducible repeat' (first
    | assumption | apply State.log_only (hp := (fun x m => hp x (parts1_16 x m)))
    | apply State.storePut_only (hp := hp) | split)

theorem State.storeLine_only {σ : State} {ps : List Part} (s : State) (a : Nat) (hp : ∀ x ∈ parts15, x ∈ ps) (h : Only ps σ s) :
    Only ps σ (State.storeLine s a) := by
  unfold State.storeLine
  with_reducible repeat' (first
    | assumption | apply State.bump_only (hp := (fun x m => hp x (parts1_15 x m)))
    | apply State.storeCheck_only (hp := hp) | (refine Only.foldl ?_ (fun _ _ _ => ?_))
    | (refine Only.foldl_snd ?_ (fun _ _ _ => ?_)) | (refine Only.foldl_fst ?_ (fun _ _ _ => ?_)) | split)

theorem State.setCl_only {σ : State} {ps : List Part} (s : State) (c : Nat) (v : Clus) (hp : ∀ x ∈ parts17, x ∈ ps) (h : Only ps σ s) :
    Only ps σ (State.setCl s c v) := by
  unfold State.setCl
  with_reducible repeat' (first | assumption | fail_if_no_progress apply Only.upd_clus (hp := hp))

theorem State.setCore1_only {σ : State} {ps : List Part} (s : State) (n : Nat) (c : Core) (hp : ∀ x ∈ parts18, x ∈ ps) (h : Only ps σ s) :
    Only ps σ (State.setCore1 s n c) := by
  unfold State.setCore1
  with_reducible repeat' (first | assumption | fail_if_no_progress apply Only.upd_cores (hp := hp))

theorem State.migCancel_only {σ : State} {ps : List Part} (s : State) (c : Nat) (cause : Nat) (hp : ∀ x ∈ parts19, x ∈ ps) (h : Only ps σ s) :
    Only ps σ (State.migCancel s c cause) := by
  unfold State.migCancel
  with_reducible repeat' (first
    | assumption | apply State.put_only (hp := (fun x m => hp x (parts1_19 x m)))
    | apply State.raise_only (hp := (fun x m => hp x (parts1_19 x m)))
    | apply State.release_only (hp := (fun x m => hp x (parts12_19 x m)))
    | apply State.setCl_only (hp := (fun x m => hp x (parts17_19 x m)))
    | apply State.setCore1_only (hp := (fun x m => hp x (parts18_19 x m)))
    | (refine Only.foldl ?_ (fun _ _ _ => ?_)) | (refine Only.foldl_snd ?_ (fun _ _ _ => ?_))
    | (refine Only.foldl_fst ?_ (fun _ _ _ => ?_)) | split | intro _ | dsimp only)

theorem State.migCancelOf_only {σ : State} {ps : List Part} (s : State) (c : Nat) (cause : Nat) (hp : ∀ x ∈ parts19, x ∈ ps) (h : Only ps σ s) :
    Only ps σ (State.migCancelOf s c cause) := by
  unfold State.migCancelOf
  with_reducible repeat' (first
    | assumption | apply State.migCancel_only (hp := hp) | (refine Only.foldl ?_ (fun _ _ _ => ?_))
    | (refine Only.foldl_snd ?_ (fun _ _ _ => ?_)) | (refine Only.foldl_fst ?_ (fun _ _ _ => ?_)) | split)

theorem State.setCore_only {σ : State} {ps : List Part} (s : State) (n : Nat) (c : Core) (hp : ∀ x ∈ parts18, x ∈ ps) (h : Only ps σ s) :
    Only ps σ (State.setCore s n c) := by
  unfold State.setCore
  with_reducible repeat' (first | assumption | apply State.setCore1_only (hp := hp) | split)

theorem State.onCorePage_only {σ : State} {ps : List Part} (s : State) (n : Nat) (g : State → Nat → State) (hp : ∀ x ∈ parts20, x ∈ ps) (hg : ∀ x y0, Only ps σ x → Only ps σ (g x y0)) (h : Only ps σ s) :
    Only ps σ (State.onCorePage s n g) := by
  unfold State.onCorePage
  with_reducible repeat' (first | assumption | apply hg | split)

theorem State.coreEv_only {σ : State} {ps : List Part} (s : State) (n : Nat) (e : Ev) (hp : ∀ x ∈ parts1, x ∈ ps) (h : Only ps σ s) :
    Only ps σ (State.coreEv s n e) := by
  unfold State.coreEv
  with_reducible repeat' (first
    | assumption | apply State.onCorePage_only (hp := (fun x m => hp x (parts20_1 x m)))
    | apply State.raise_only (hp := hp) | apply State.bump_only (hp := hp)
    | apply State.maxUp_only (hp := hp) | split | intro _)

theorem State.ibexEccEvent_only {σ : State} {ps : List Part} (s : State) (a : Nat) (uncorr : Bool) (hp : ∀ x ∈ parts21, x ∈ ps) (h : Only ps σ s) :
    Only ps σ (State.ibexEccEvent s a uncorr) := by
  unfold State.ibexEccEvent
  with_reducible repeat' (first
    | assumption | apply State.loseDomain_only (hp := (fun x m => hp x (parts7_21 x m)))
    | apply State.migCancelOf_only (hp := (fun x m => hp x (parts19_21 x m)))
    | apply State.bump_only (hp := (fun x m => hp x (parts1_21 x m)))
    | apply State.put_only (hp := (fun x m => hp x (parts1_21 x m)))
    | apply State.raise_only (hp := (fun x m => hp x (parts1_21 x m))) | split)

theorem State.checkWords_only {σ : State} {ps : List Part} (s : State) (a n : Nat) (hp : ∀ x ∈ parts21, x ∈ ps) (h : Only ps σ s) :
    Only ps σ (State.checkWords s a n) := by
  induction n generalizing s a with
  | zero => exact h
  | succ n ih =>
    unfold State.checkWords
    apply ih
    split
    · exact State.ibexEccEvent_only _ _ _ hp h
    · exact State.ibexEccEvent_only _ _ _ hp h
    · exact h

theorem State.clearEcc_only {σ : State} {ps : List Part} (s : State) (l : List (Nat × Byte)) (hp : ∀ x ∈ parts14, x ∈ ps) (h : Only ps σ s) :
    Only ps σ (State.clearEcc s l) := by
  unfold State.clearEcc
  with_reducible repeat' (first | assumption | fail_if_no_progress apply Only.upd_ecc (hp := hp))

theorem State.writeLocal_only {σ : State} {ps : List Part} (s : State) (l : List (Nat × Byte)) (hp : ∀ x ∈ parts22, x ∈ ps) (h : Only ps σ s) :
    Only ps σ (State.writeLocal s l) := by
  unfold State.writeLocal
  with_reducible repeat' (first
    | assumption | apply State.clearEcc_only (hp := (fun x m => hp x (parts14_22 x m)))
    | apply State.setBytes_only (hp := (fun x m => hp x (parts10_22 x m))))

theorem State.localRead_only {σ : State} {ps : List Part} (s : State) (a : Nat) (n : Nat) (hp : ∀ x ∈ parts23, x ∈ ps) (h : Only ps σ s) :
    Only ps σ (State.localRead s a n).2 := by
  unfold State.localRead
  with_reducible repeat' (first
    | assumption | apply State.ibexEccEvent_only (hp := (fun x m => hp x (parts21_23 x m)))
    | apply State.respond_only (hp := (fun x m => hp x (parts0_23 x m)))
    | (refine Only.foldl ?_ (fun _ _ _ => ?_)) | (refine Only.foldl_snd ?_ (fun _ _ _ => ?_))
    | (refine Only.foldl_fst ?_ (fun _ _ _ => ?_)) | split)

theorem State.localWord_only {σ : State} {ps : List Part} (s : State) (w : Nat) (l : List (Nat × Byte)) (hp : ∀ x ∈ parts24, x ∈ ps) (h : Only ps σ s) :
    Only ps σ (State.localWord s w l) := by
  unfold State.localWord
  with_reducible repeat' (first
    | assumption | apply State.writeLocal_only (hp := (fun x m => hp x (parts22_24 x m)))
    | apply State.ibexEccEvent_only (hp := (fun x m => hp x (parts21_24 x m))) | split)

theorem State.localWrite_only {σ : State} {ps : List Part} (s : State) (a : Nat) (n : Nat) (l : List (Nat × Byte)) (hp : ∀ x ∈ parts24, x ∈ ps) (h : Only ps σ s) :
    Only ps σ (State.localWrite s a n l) := by
  unfold State.localWrite
  with_reducible repeat' (first
    | assumption | apply State.localWord_only (hp := hp) | (refine Only.foldl ?_ (fun _ _ _ => ?_)))

theorem State.xmStore_only {σ : State} {ps : List Part} (s : State) (n : Nat) (clk : Nat) (e : Nat × Byte) (hp : ∀ x ∈ parts25, x ∈ ps) (h : Only ps σ s) :
    Only ps σ (State.xmStore s n clk e) := by
  unfold State.xmStore
  with_reducible repeat' (first
    | assumption | apply State.writeLocal_only (hp := (fun x m => hp x (parts22_25 x m)))
    | apply State.setCl_only (hp := (fun x m => hp x (parts17_25 x m))) | split | intro _ | dsimp only)

theorem State.coreStore_only {σ : State} {ps : List Part} (s : State) (n : Nat) (clk : Nat) (l : List (Nat × Byte)) (hp : ∀ x ∈ parts25, x ∈ ps) (h : Only ps σ s) :
    Only ps σ (State.coreStore s n clk l) := by
  unfold State.coreStore
  with_reducible repeat' (first
    | assumption | apply State.xmStore_only (hp := hp)
    | apply State.writeLocal_only (hp := (fun x m => hp x (parts22_25 x m)))
    | (refine Only.foldl ?_ (fun _ _ _ => ?_)))

theorem State.finishOp_only {σ : State} {ps : List Part} (s : State) (n : Nat) (slot : Nat) (o : OpOut) (hp : ∀ x ∈ parts24, x ∈ ps) (h : Only ps σ s) :
    Only ps σ (State.finishOp s n slot o) := by
  unfold State.finishOp
  with_reducible repeat' (first
    | assumption | apply State.setCore_only (hp := (fun x m => hp x (parts18_24 x m)))
    | apply State.coreEv_only (hp := (fun x m => hp x (parts1_24 x m)))
    | apply State.checkWords_only (hp := (fun x m => hp x (parts21_24 x m)))
    | apply State.coreStore_only (hp := (fun x m => hp x (parts25_24 x m)))
    | (refine Only.foldl ?_ (fun _ _ _ => ?_)))

theorem State.fetchCheck_only {σ : State} {ps : List Part} (s : State) (base : Nat) (pc : BitVec 12) (hp : ∀ x ∈ parts21, x ∈ ps) (h : Only ps σ s) :
    Only ps σ (State.fetchCheck s base pc) := by
  unfold State.fetchCheck
  with_reducible repeat' (first
    | assumption | apply State.ibexEccEvent_only (hp := hp) | (refine Only.foldl ?_ (fun _ _ _ => ?_))
    | (refine Only.foldl_snd ?_ (fun _ _ _ => ?_)) | (refine Only.foldl_fst ?_ (fun _ _ _ => ?_)) | split
    | intro _ | dsimp only)

theorem State.fetchFor_only {σ : State} {ps : List Part} (s : State) (at_ : Issue) (hp : ∀ x ∈ parts21, x ∈ ps) (h : Only ps σ s) :
    Only ps σ (State.fetchFor s at_) := by
  unfold State.fetchFor
  with_reducible repeat' (first
    | assumption | apply State.fetchCheck_only (hp := hp) | (refine Only.foldl ?_ (fun _ _ _ => ?_)))

theorem State.illegal_only {σ : State} {ps : List Part} (s : State) (n : Nat) (slot : Nat) (c : Core) (hp : ∀ x ∈ parts26, x ∈ ps) (h : Only ps σ s) :
    Only ps σ (State.illegal s n slot c) := by
  unfold State.illegal
  with_reducible repeat' (first
    | assumption | apply State.setCore_only (hp := (fun x m => hp x (parts18_26 x m)))
    | apply State.onCorePage_only (hp := (fun x m => hp x (parts20_26 x m)))
    | apply State.put_only (hp := (fun x m => hp x (parts1_26 x m)))
    | apply State.raise_only (hp := (fun x m => hp x (parts1_26 x m)))
    | apply State.bump_only (hp := (fun x m => hp x (parts1_26 x m))) | split | intro _)

theorem State.issueOr_only {σ : State} {ps : List Part} (s : State) (at_ : Issue) (bad : Core → Bool) (f : State → Core → OpOut) (hp : ∀ x ∈ parts24, x ∈ ps) (h : Only ps σ s) :
    Only ps σ (State.issueOr s at_ bad f) := by
  unfold State.issueOr
  with_reducible repeat' (first
    | assumption | apply State.fetchFor_only (hp := (fun x m => hp x (parts21_24 x m)))
    | apply State.setCore_only (hp := (fun x m => hp x (parts18_24 x m)))
    | apply State.illegal_only (hp := (fun x m => hp x (parts26_24 x m)))
    | apply State.finishOp_only (hp := hp) | split | intro _ | dsimp only)

theorem State.issue_only {σ : State} {ps : List Part} (s : State) (at_ : Issue) (f : State → Core → OpOut) (hp : ∀ x ∈ parts24, x ∈ ps) (h : Only ps σ s) :
    Only ps σ (State.issue s at_ f) := by
  unfold State.issue
  with_reducible repeat' (first | assumption | apply State.issueOr_only (hp := hp))

theorem State.issueCore_only {σ : State} {ps : List Part} (s : State) (at_ : Issue) (f : Core → OpOut) (hp : ∀ x ∈ parts24, x ∈ ps) (h : Only ps σ s) :
    Only ps σ (State.issueCore s at_ f) := by
  unfold State.issueCore
  with_reducible repeat' (first | assumption | apply State.issue_only (hp := hp))

theorem State.issueFlow_only {σ : State} {ps : List Part} (s : State) (at_ : Issue) (bad : Core → Bool) (f : Core → Core) (hp : ∀ x ∈ parts21, x ∈ ps) (h : Only ps σ s) :
    Only ps σ (State.issueFlow s at_ bad f) := by
  unfold State.issueFlow
  with_reducible repeat' (first
    | assumption | apply State.fetchFor_only (hp := hp)
    | apply State.setCore_only (hp := (fun x m => hp x (parts18_21 x m)))
    | apply State.illegal_only (hp := (fun x m => hp x (parts26_21 x m))) | split | intro _ | dsimp only)

theorem State.issueMac_only {σ : State} {ps : List Part} (s : State) (at_ : Issue) (bad : Bool) (f : Core → OpOut) (hp : ∀ x ∈ parts24, x ∈ ps) (h : Only ps σ s) :
    Only ps σ (State.issueMac s at_ bad f) := by
  unfold State.issueMac
  with_reducible repeat' (first | assumption | apply State.issueOr_only (hp := hp) | split)

theorem State.issueAcc_only {σ : State} {ps : List Part} (s : State) (at_ : Issue) (bad : Bool) (f : Core → OpOut) (hp : ∀ x ∈ parts24, x ∈ ps) (h : Only ps σ s) :
    Only ps σ (State.issueAcc s at_ bad f) := by
  unfold State.issueAcc
  with_reducible repeat' (first | assumption | apply State.issueOr_only (hp := hp) | split)

theorem State.issueAddr_only {σ : State} {ps : List Part} (s : State) (at_ : Issue) (f : Core → OpOut) (hp : ∀ x ∈ parts24, x ∈ ps) (h : Only ps σ s) :
    Only ps σ (State.issueAddr s at_ f) := by
  unfold State.issueAddr
  with_reducible repeat' (first | assumption | apply State.issueOr_only (hp := hp) | split)

theorem State.planeWrite_only {σ : State} {ps : List Part} (s : State) (b : Nat) (sig : Nat) (k : Nat) (v : Word) (hp : ∀ x ∈ parts27, x ∈ ps) (h : Only ps σ s) :
    Only ps σ (State.planeWrite s b sig k v) := by
  unfold State.planeWrite
  with_reducible repeat' (first
    | assumption | apply State.setWord_only (hp := (fun x m => hp x (parts10_27 x m)))
    | fail_if_no_progress apply Only.upd_marks (hp := (fun x m => hp x (parts28_27 x m))))

theorem State.setRamp_only {σ : State} {ps : List Part} (s : State) (k : Nat) (r : Ramp) (hp : ∀ x ∈ parts29, x ∈ ps) (h : Only ps σ s) :
    Only ps σ (State.setRamp s k r) := by
  unfold State.setRamp
  with_reducible repeat' (first | assumption | fail_if_no_progress apply Only.upd_oryx (hp := hp))

theorem State.setFade_only {σ : State} {ps : List Part} (s : State) (k : Nat) (f : Option Fade) (hp : ∀ x ∈ parts29, x ∈ ps) (h : Only ps σ s) :
    Only ps σ (State.setFade s k f) := by
  unfold State.setFade
  with_reducible repeat' (first | assumption | fail_if_no_progress apply Only.upd_oryx (hp := hp))

theorem State.fadeNote_only {σ : State} {ps : List Part} (s : State) (before : Nat) (hp : ∀ x ∈ parts1, x ∈ ps) (h : Only ps σ s) :
    Only ps σ (State.fadeNote s before) := by
  unfold State.fadeNote
  with_reducible repeat' (first
    | assumption | apply State.maxUp_only (hp := hp) | apply State.raise_only (hp := hp) | split | intro _
    | dsimp only)

theorem State.oryxEvents_only {σ : State} {ps : List Part} (s : State) (dst : Nat) (evs : List Ev) (hp : ∀ x ∈ parts30, x ∈ ps) (h : Only ps σ s) :
    Only ps σ (State.oryxEvents s dst evs) := by
  unfold State.oryxEvents
  with_reducible repeat' (first
    | assumption | apply State.raise_only (hp := (fun x m => hp x (parts1_30 x m)))
    | apply State.bump_only (hp := (fun x m => hp x (parts1_30 x m)))
    | fail_if_no_progress apply Only.upd_oryx (hp := (fun x m => hp x (parts29_30 x m))) | split)

theorem State.sumDst_only {σ : State} {ps : List Part} (s : State) (keys : List Nat) (dst : Nat) (read : Nat → Word) (hp : ∀ x ∈ parts30, x ∈ ps) (h : Only ps σ s) :
    Only ps σ (State.sumDst s keys dst read).2 := by
  unfold State.sumDst
  with_reducible repeat' (first
    | assumption | apply State.setRamp_only (hp := (fun x m => hp x (parts29_30 x m)))
    | apply State.oryxEvents_only (hp := hp) | (refine Only.foldl ?_ (fun _ _ _ => ?_))
    | (refine Only.foldl_snd ?_ (fun _ _ _ => ?_)))

theorem State.endFades_only {σ : State} {ps : List Part} (s : State) (keys : List Nat) (hp : ∀ x ∈ parts29, x ∈ ps) (h : Only ps σ s) :
    Only ps σ (State.endFades s keys) := by
  unfold State.endFades
  with_reducible repeat' (first
    | assumption | apply State.setFade_only (hp := hp) | (refine Only.foldl ?_ (fun _ _ _ => ?_))
    | (refine Only.foldl_snd ?_ (fun _ _ _ => ?_)) | (refine Only.foldl_fst ?_ (fun _ _ _ => ?_)) | split)

theorem State.dropEnded_only {σ : State} {ps : List Part} (s : State) (keys : List Nat) (hp : ∀ x ∈ parts29, x ∈ ps) (h : Only ps σ s) :
    Only ps σ (State.dropEnded s keys) := by
  unfold State.dropEnded
  with_reducible repeat' (first
    | assumption | apply State.setRamp_only (hp := hp) | apply State.setFade_only (hp := hp)
    | (refine Only.foldl ?_ (fun _ _ _ => ?_)) | (refine Only.foldl_snd ?_ (fun _ _ _ => ?_))
    | (refine Only.foldl_fst ?_ (fun _ _ _ => ?_)) | split)

theorem State.noteRetire_only {σ : State} {ps : List Part} (s : State) (hp : ∀ x ∈ parts1, x ∈ ps) (h : Only ps σ s) :
    Only ps σ (State.noteRetire s) := by
  unfold State.noteRetire
  with_reducible repeat' (first | assumption | apply State.put_only (hp := hp))

theorem State.oryxPass_only {σ : State} {ps : List Part} (s : State) (i : Nat) (b : Nat) (read : Nat → Nat → Word) (hp : ∀ x ∈ parts31, x ∈ ps) (h : Only ps σ s) :
    Only ps σ (State.oryxPass s i b read) := by
  unfold State.oryxPass
  with_reducible repeat' (first
    | assumption | apply State.sumDst_only (hp := (fun x m => hp x (parts30_31 x m)))
    | apply State.planeWrite_only (hp := (fun x m => hp x (parts27_31 x m)))
    | apply State.noteRetire_only (hp := (fun x m => hp x (parts1_31 x m)))
    | apply State.dropEnded_only (hp := (fun x m => hp x (parts29_31 x m)))
    | apply State.fadeNote_only (hp := (fun x m => hp x (parts1_31 x m)))
    | apply State.endFades_only (hp := (fun x m => hp x (parts29_31 x m)))
    | (refine Only.foldl ?_ (fun _ _ _ => ?_)))

theorem State.fastEval_only {σ : State} {ps : List Part} (s : State) (read : Nat → Word) (hp : ∀ x ∈ parts30, x ∈ ps) (h : Only ps σ s) :
    Only ps σ (State.fastEval s read).2 := by
  unfold State.fastEval
  with_reducible repeat' (first
    | assumption | apply State.sumDst_only (hp := hp)
    | apply State.fadeNote_only (hp := (fun x m => hp x (parts1_30 x m)))
    | apply State.endFades_only (hp := (fun x m => hp x (parts29_30 x m)))
    | (refine Only.foldl ?_ (fun _ _ _ => ?_)) | (refine Only.foldl_snd ?_ (fun _ _ _ => ?_)))

theorem State.fastFrameEnd_only {σ : State} {ps : List Part} (s : State) (hp : ∀ x ∈ parts30, x ∈ ps) (h : Only ps σ s) :
    Only ps σ (State.fastFrameEnd s) := by
  unfold State.fastFrameEnd
  with_reducible repeat' (first
    | assumption | apply State.noteRetire_only (hp := (fun x m => hp x (parts1_30 x m)))
    | apply State.dropEnded_only (hp := (fun x m => hp x (parts29_30 x m))))

theorem State.oryxCompare_only {σ : State} {ps : List Part} (s : State) (old : List Xpt) (which : Xpt → Bool) (hp : ∀ x ∈ parts29, x ∈ ps) (h : Only ps σ s) :
    Only ps σ (State.oryxCompare s old which) := by
  unfold State.oryxCompare
  with_reducible repeat' (first
    | assumption | apply State.setRamp_only (hp := hp) | apply State.setFade_only (hp := hp)
    | (refine Only.foldl ?_ (fun _ _ _ => ?_)) | (refine Only.foldl_snd ?_ (fun _ _ _ => ?_))
    | (refine Only.foldl_fst ?_ (fun _ _ _ => ?_)) | split | intro _ | dsimp only)

theorem State.fadesGone_only {σ : State} {ps : List Part} (s : State) (hp : ∀ x ∈ parts29, x ∈ ps) (h : Only ps σ s) :
    Only ps σ (State.fadesGone s) := by
  unfold State.fadesGone
  with_reducible repeat' (first
    | assumption | apply State.setRamp_only (hp := hp) | apply State.setFade_only (hp := hp)
    | (refine Only.foldl ?_ (fun _ _ _ => ?_)))

theorem State.fadeDropNote_only {σ : State} {ps : List Part} (s : State) (n : Nat) (hp : ∀ x ∈ parts1, x ∈ ps) (h : Only ps σ s) :
    Only ps σ (State.fadeDropNote s n) := by
  unfold State.fadeDropNote
  with_reducible repeat' (first
    | assumption | apply State.raise_only (hp := hp) | apply State.bump_only (hp := hp) | split)

theorem State.fadeDiscard_only {σ : State} {ps : List Part} (s : State) (hp : ∀ x ∈ parts30, x ∈ ps) (h : Only ps σ s) :
    Only ps σ (State.fadeDiscard s) := by
  unfold State.fadeDiscard
  with_reducible repeat' (first
    | assumption | apply State.fadeDropNote_only (hp := (fun x m => hp x (parts1_30 x m)))
    | apply State.fadesGone_only (hp := (fun x m => hp x (parts29_30 x m))))

theorem State.oryxStart_only {σ : State} {ps : List Part} (s : State) (hp : ∀ x ∈ parts29, x ∈ ps) (h : Only ps σ s) :
    Only ps σ (State.oryxStart s) := by
  unfold State.oryxStart
  with_reducible repeat' (first
    | assumption | (refine Only.foldl ?_ (fun _ _ _ => ?_)) | (refine Only.foldl_snd ?_ (fun _ _ _ => ?_))
    | (refine Only.foldl_fst ?_ (fun _ _ _ => ?_)) | fail_if_no_progress apply Only.upd_oryx (hp := hp))

theorem State.setMeter_only {σ : State} {ps : List Part} (s : State) (c : Nat) (m : Meter) (hp : ∀ x ∈ parts32, x ∈ ps) (h : Only ps σ s) :
    Only ps σ (State.setMeter s c m) := by
  unfold State.setMeter
  with_reducible repeat' (first | assumption | fail_if_no_progress apply Only.upd_meters (hp := hp))

theorem State.meterReadout_only {σ : State} {ps : List Part} (s : State) (c : Nat) (last : BitVec 32) (hp : ∀ x ∈ parts10, x ∈ ps) (h : Only ps σ s) :
    Only ps σ (State.meterReadout s c last) := by
  unfold State.meterReadout
  with_reducible repeat' (first | assumption | apply State.setBytes_only (hp := hp))

theorem State.meterTick_only {σ : State} {ps : List Part} (s : State) (j : BitVec 32) (hp : ∀ x ∈ parts33, x ∈ ps) (h : Only ps σ s) :
    Only ps σ (State.meterTick s j) := by
  unfold State.meterTick
  with_reducible repeat' (first
    | assumption | apply State.setMeter_only (hp := (fun x m => hp x (parts32_33 x m)))
    | apply State.raise_only (hp := (fun x m => hp x (parts1_33 x m)))
    | apply State.meterReadout_only (hp := (fun x m => hp x (parts10_33 x m)))
    | (refine Only.foldl ?_ (fun _ _ _ => ?_)) | (refine Only.foldl_snd ?_ (fun _ _ _ => ?_))
    | (refine Only.foldl_fst ?_ (fun _ _ _ => ?_)) | split | intro _ | dsimp only)

theorem State.meterRestart_only {σ : State} {ps : List Part} (s : State) (old : Nat → Nat × Nat) (hp : ∀ x ∈ parts32, x ∈ ps) (h : Only ps σ s) :
    Only ps σ (State.meterRestart s old) := by
  unfold State.meterRestart
  with_reducible repeat' (first
    | assumption | apply State.setMeter_only (hp := hp) | (refine Only.foldl ?_ (fun _ _ _ => ?_))
    | (refine Only.foldl_snd ?_ (fun _ _ _ => ?_)) | (refine Only.foldl_fst ?_ (fun _ _ _ => ?_)) | split)

theorem State.setEqSec_only {σ : State} {ps : List Part} (s : State) (c : Nat) (k : Nat) (e : EqSec) (hp : ∀ x ∈ parts34, x ∈ ps) (h : Only ps σ s) :
    Only ps σ (State.setEqSec s c k e) := by
  unfold State.setEqSec
  with_reducible repeat' (first | assumption | fail_if_no_progress apply Only.upd_eqSecs (hp := hp))

theorem State.eqEvents_only {σ : State} {ps : List Part} (s : State) (evs : List Ev) (hp : ∀ x ∈ parts1, x ∈ ps) (h : Only ps σ s) :
    Only ps σ (State.eqEvents s evs) := by
  unfold State.eqEvents
  with_reducible repeat' (first
    | assumption | apply State.raise_only (hp := hp) | apply State.bump_only (hp := hp)
    | (refine Only.foldl ?_ (fun _ _ _ => ?_)) | (refine Only.foldl_snd ?_ (fun _ _ _ => ?_))
    | (refine Only.foldl_fst ?_ (fun _ _ _ => ?_)) | split)

theorem State.eqNote_only {σ : State} {ps : List Part} (s : State) (before : Nat) (hp : ∀ x ∈ parts1, x ∈ ps) (h : Only ps σ s) :
    Only ps σ (State.eqNote s before) := by
  unfold State.eqNote
  with_reducible repeat' (first
    | assumption | apply State.maxUp_only (hp := hp) | apply State.raise_only (hp := hp) | split | intro _
    | dsimp only)

theorem State.eqLeave_only {σ : State} {ps : List Part} (s : State) (c : Nat) (len : Nat) (hp : ∀ x ∈ parts34, x ∈ ps) (h : Only ps σ s) :
    Only ps σ (State.eqLeave s c len) := by
  unfold State.eqLeave
  with_reducible repeat' (first
    | assumption | apply State.setEqSec_only (hp := hp) | (refine Only.foldl ?_ (fun _ _ _ => ?_))
    | (refine Only.foldl_snd ?_ (fun _ _ _ => ?_)) | (refine Only.foldl_fst ?_ (fun _ _ _ => ?_)) | split
    | intro _ | dsimp only)

theorem State.chainSample_only {σ : State} {ps : List Part} (s : State) (c : Nat) (ch : Chain) (x : Word) (hp : ∀ x ∈ parts35, x ∈ ps) (h : Only ps σ s) :
    Only ps σ (State.chainSample s c ch x).2 := by
  unfold State.chainSample
  with_reducible repeat' (first
    | assumption | apply State.eqEvents_only (hp := (fun x m => hp x (parts1_35 x m)))
    | apply State.setEqSec_only (hp := (fun x m => hp x (parts34_35 x m)))
    | apply State.eqLeave_only (hp := (fun x m => hp x (parts34_35 x m)))
    | (refine Only.foldl ?_ (fun _ _ _ => ?_)) | (refine Only.foldl_snd ?_ (fun _ _ _ => ?_)))

theorem State.eqPass_only {σ : State} {ps : List Part} (s : State) (i : Nat) (b : Nat) (read : Nat → Nat → Word) (hp : ∀ x ∈ parts36, x ∈ ps) (h : Only ps σ s) :
    Only ps σ (State.eqPass s i b read) := by
  unfold State.eqPass
  with_reducible repeat' (first
    | assumption | apply State.chainSample_only (hp := (fun x m => hp x (parts35_36 x m)))
    | apply State.planeWrite_only (hp := (fun x m => hp x (parts27_36 x m)))
    | apply State.eqNote_only (hp := (fun x m => hp x (parts1_36 x m)))
    | (refine Only.foldl ?_ (fun _ _ _ => ?_)))

theorem State.eqCompare_only {σ : State} {ps : List Part} (s : State) (sOld : State) (hp : ∀ x ∈ parts35, x ∈ ps) (h : Only ps σ s) :
    Only ps σ (State.eqCompare s sOld) := by
  unfold State.eqCompare
  with_reducible repeat' (first
    | assumption | apply State.eqNote_only (hp := (fun x m => hp x (parts1_35 x m)))
    | (refine Only.foldl ?_ (fun _ _ _ => ?_)) | (refine Only.foldl_snd ?_ (fun _ _ _ => ?_))
    | (refine Only.foldl_fst ?_ (fun _ _ _ => ?_))
    | fail_if_no_progress apply Only.upd_eqSecs (hp := (fun x m => hp x (parts34_35 x m))))

theorem State.setTap_only {σ : State} {ps : List Part} (s : State) (i : Nat) (t : Tap) (hp : ∀ x ∈ parts37, x ∈ ps) (h : Only ps σ s) :
    Only ps σ (State.setTap s i t) := by
  unfold State.setTap
  with_reducible repeat' (first | assumption | fail_if_no_progress apply Only.upd_delay (hp := hp))

theorem State.delayNote_only {σ : State} {ps : List Part} (s : State) (before : Nat) (hp : ∀ x ∈ parts1, x ∈ ps) (h : Only ps σ s) :
    Only ps σ (State.delayNote s before) := by
  unfold State.delayNote
  with_reducible repeat' (first | assumption | apply State.raise_only (hp := hp) | split)

theorem State.setGather_only {σ : State} {ps : List Part} (s : State) (base : Nat) (g : Option Gather) (hp : ∀ x ∈ parts37, x ∈ ps) (h : Only ps σ s) :
    Only ps σ (State.setGather s base g) := by
  unfold State.setGather
  with_reducible repeat' (first | assumption | fail_if_no_progress apply Only.upd_delay (hp := hp))

theorem State.gatherStore_only {σ : State} {ps : List Part} (s : State) (base : Nat) (hp : ∀ x ∈ parts38, x ∈ ps) (h : Only ps σ s) :
    Only ps σ (State.gatherStore s base) := by
  unfold State.gatherStore
  with_reducible repeat' (first
    | assumption | apply State.setGather_only (hp := (fun x m => hp x (parts37_38 x m)))
    | apply State.storePut_only (hp := (fun x m => hp x (parts16_38 x m))) | split)

theorem State.lineWrite_only {σ : State} {ps : List Part} (s : State) (l : Line) (j : BitVec 32) (v : Word) (hp : ∀ x ∈ parts38, x ∈ ps) (h : Only ps σ s) :
    Only ps σ (State.lineWrite s l j v) := by
  unfold State.lineWrite
  with_reducible repeat' (first
    | assumption | apply State.gatherStore_only (hp := hp)
    | apply State.setGather_only (hp := (fun x m => hp x (parts37_38 x m)))
    | fail_if_no_progress apply Only.upd_delay (hp := (fun x m => hp x (parts37_38 x m))) | split | intro _
    | dsimp only)

theorem State.lineClear_only {σ : State} {ps : List Part} (s : State) (l : Line) (hp : ∀ x ∈ parts37, x ∈ ps) (h : Only ps σ s) :
    Only ps σ (State.lineClear s l) := by
  unfold State.lineClear
  with_reducible repeat' (first | assumption | fail_if_no_progress apply Only.upd_delay (hp := hp))

theorem State.lineRestart_only {σ : State} {ps : List Part} (s : State) (l : Line) (hp : ∀ x ∈ parts39, x ∈ ps) (h : Only ps σ s) :
    Only ps σ (State.lineRestart s l) := by
  unfold State.lineRestart
  with_reducible repeat' (first
    | assumption | apply State.bump_only (hp := (fun x m => hp x (parts1_39 x m)))
    | apply State.lineClear_only (hp := (fun x m => hp x (parts37_39 x m))))

theorem State.notelinesLost_only {σ : State} {ps : List Part} (s : State) (hp : ∀ x ∈ parts39, x ∈ ps) (h : Only ps σ s) :
    Only ps σ (State.notelinesLost s) := by
  unfold State.notelinesLost
  with_reducible repeat' (first
    | assumption | apply State.raise_only (hp := (fun x m => hp x (parts1_39 x m)))
    | (refine Only.foldl ?_ (fun _ _ _ => ?_)) | (refine Only.foldl_snd ?_ (fun _ _ _ => ?_))
    | (refine Only.foldl_fst ?_ (fun _ _ _ => ?_))
    | fail_if_no_progress apply Only.upd_delay (hp := (fun x m => hp x (parts37_39 x m))) | split)

theorem State.restartRefilled_only {σ : State} {ps : List Part} (s : State) (hp : ∀ x ∈ parts39, x ∈ ps) (h : Only ps σ s) :
    Only ps σ (State.restartRefilled s) := by
  unfold State.restartRefilled
  with_reducible repeat' (first
    | assumption | apply State.lineRestart_only (hp := hp) | (refine Only.foldl ?_ (fun _ _ _ => ?_))
    | (refine Only.foldl_snd ?_ (fun _ _ _ => ?_)) | (refine Only.foldl_fst ?_ (fun _ _ _ => ?_))
    | fail_if_no_progress apply Only.upd_delay (hp := (fun x m => hp x (parts37_39 x m))) | split)

theorem State.bufFetch_only {σ : State} {ps : List Part} (s : State) (l : Line) (held : Option Nat) (x : Nat) (hp : ∀ x ∈ parts15, x ∈ ps) (h : Only ps σ s) :
    Only ps σ (State.bufFetch s l held x) := by
  unfold State.bufFetch
  with_reducible repeat' (first | assumption | apply State.storeLine_only (hp := hp) | split)

theorem State.fetchAhead_only {σ : State} {ps : List Part} (s : State) (l : Line) (d : Nat) (j : BitVec 32) (hp : ∀ x ∈ parts15, x ∈ ps) (h : Only ps σ s) :
    Only ps σ (State.fetchAhead s l d j).2 := by
  unfold State.fetchAhead
  with_reducible repeat' (first | assumption | apply State.bufFetch_only (hp := hp))

theorem State.setReady_only {σ : State} {ps : List Part} (s : State) (i : Nat) (x : Option Nat) (hp : ∀ x ∈ parts37, x ∈ ps) (h : Only ps σ s) :
    Only ps σ (State.setReady s i x) := by
  unfold State.setReady
  with_reducible repeat' (first | assumption | fail_if_no_progress apply Only.upd_delay (hp := hp))

theorem State.waitFetch_only {σ : State} {ps : List Part} (s : State) (l : Line) (i : Nat) (t : Tap) (j : BitVec 32) (hp : ∀ x ∈ parts40, x ∈ ps) (h : Only ps σ s) :
    Only ps σ (State.waitFetch s l i t j) := by
  unfold State.waitFetch
  with_reducible repeat' (first
    | assumption | apply State.fetchAhead_only (hp := (fun x m => hp x (parts15_40 x m)))
    | apply State.setReady_only (hp := (fun x m => hp x (parts37_40 x m))) | split)

theorem State.tapFetch_only {σ : State} {ps : List Part} (s : State) (l : Line) (i : Nat) (t : Tap) (j : BitVec 32) (hp : ∀ x ∈ parts40, x ∈ ps) (h : Only ps σ s) :
    Only ps σ (State.tapFetch s l i t j).2 := by
  unfold State.tapFetch
  with_reducible repeat' (first
    | assumption | apply State.bufFetch_only (hp := (fun x m => hp x (parts15_40 x m)))
    | apply State.setReady_only (hp := (fun x m => hp x (parts37_40 x m)))
    | apply State.waitFetch_only (hp := hp) | split)

theorem State.delayPass_only {σ : State} {ps : List Part} (s : State) (i : Nat) (b : Nat) (first : BitVec 32) (read : Nat → Nat → Word) (hp : ∀ x ∈ parts41, x ∈ ps) (h : Only ps σ s) :
    Only ps σ (State.delayPass s i b first read) := by
  unfold State.delayPass
  with_reducible repeat' (first
    | assumption | apply State.notelinesLost_only (hp := (fun x m => hp x (parts39_41 x m)))
    | apply State.lineWrite_only (hp := (fun x m => hp x (parts38_41 x m)))
    | apply State.tapFetch_only (hp := (fun x m => hp x (parts40_41 x m)))
    | apply State.planeWrite_only (hp := (fun x m => hp x (parts27_41 x m)))
    | apply State.setTap_only (hp := (fun x m => hp x (parts37_41 x m)))
    | apply State.delayNote_only (hp := (fun x m => hp x (parts1_41 x m)))
    | (refine Only.foldl ?_ (fun _ _ _ => ?_)) | (refine Only.foldl_snd ?_ (fun _ _ _ => ?_))
    | (refine Only.foldl_fst ?_ (fun _ _ _ => ?_)) | split)

theorem State.delayCounts_only {σ : State} {ps : List Part} (s : State) (sOld : State) (starts : Bool) (hp : ∀ x ∈ parts1, x ∈ ps) (h : Only ps σ s) :
    Only ps σ (State.delayCounts s sOld starts) := by
  unfold State.delayCounts
  with_reducible repeat' (first
    | assumption | apply State.raise_only (hp := hp) | apply State.put_only (hp := hp)
    | apply State.bump_only (hp := hp) | (refine Only.foldl ?_ (fun _ _ _ => ?_)))

theorem State.prefetch_only {σ : State} {ps : List Part} (s : State) (taps : List (TapAt × Tap)) (first : BitVec 32) (hp : ∀ x ∈ parts15, x ∈ ps) (h : Only ps σ s) :
    Only ps σ (State.prefetch s taps first).2 := by
  unfold State.prefetch
  with_reducible repeat' (first
    | assumption | apply State.fetchAhead_only (hp := hp) | (refine Only.foldl ?_ (fun _ _ _ => ?_))
    | (refine Only.foldl_snd ?_ (fun _ _ _ => ?_)) | (refine Only.foldl_fst ?_ (fun _ _ _ => ?_)) | split)

theorem State.commitFetch_only {σ : State} {ps : List Part} (s : State) (sOld : State) (b : BitVec 32) (hp : ∀ x ∈ parts40, x ∈ ps) (h : Only ps σ s) :
    Only ps σ (State.commitFetch s sOld b) := by
  unfold State.commitFetch
  with_reducible repeat' (first
    | assumption | apply State.prefetch_only (hp := (fun x m => hp x (parts15_40 x m)))
    | fail_if_no_progress apply Only.upd_delay (hp := (fun x m => hp x (parts37_40 x m))))

theorem State.delayCompare_only {σ : State} {ps : List Part} (s : State) (sOld : State) (hp : ∀ x ∈ parts38, x ∈ ps) (h : Only ps σ s) :
    Only ps σ (State.delayCompare s sOld) := by
  unfold State.delayCompare
  with_reducible repeat' (first
    | assumption | apply State.gatherStore_only (hp := hp)
    | apply State.lineClear_only (hp := (fun x m => hp x (parts37_38 x m)))
    | apply State.delayNote_only (hp := (fun x m => hp x (parts1_38 x m)))
    | (refine Only.foldl ?_ (fun _ _ _ => ?_)) | (refine Only.foldl_snd ?_ (fun _ _ _ => ?_))
    | (refine Only.foldl_fst ?_ (fun _ _ _ => ?_))
    | fail_if_no_progress apply Only.upd_delay (hp := (fun x m => hp x (parts37_38 x m))) | split)

theorem State.delayStart_only {σ : State} {ps : List Part} (s : State) (b : BitVec 32) (hp : ∀ x ∈ parts40, x ∈ ps) (h : Only ps σ s) :
    Only ps σ (State.delayStart s b) := by
  unfold State.delayStart
  with_reducible repeat' (first
    | assumption | apply State.lineRestart_only (hp := (fun x m => hp x (parts39_40 x m)))
    | apply State.prefetch_only (hp := (fun x m => hp x (parts15_40 x m)))
    | (refine Only.foldl ?_ (fun _ _ _ => ?_)) | (refine Only.foldl_snd ?_ (fun _ _ _ => ?_))
    | (refine Only.foldl_fst ?_ (fun _ _ _ => ?_))
    | fail_if_no_progress apply Only.upd_delay (hp := (fun x m => hp x (parts37_40 x m))))

theorem State.setLane_only {σ : State} {ps : List Part} (s : State) (l : Nat) (v : Lane) (hp : ∀ x ∈ parts42, x ∈ ps) (h : Only ps σ s) :
    Only ps σ (State.setLane s l v) := by
  unfold State.setLane
  with_reducible repeat' (first | assumption | fail_if_no_progress apply Only.upd_lanes (hp := hp))

theorem State.setPort_only {σ : State} {ps : List Part} (s : State) (p : Nat) (v : Port) (hp : ∀ x ∈ parts43, x ∈ ps) (h : Only ps σ s) :
    Only ps σ (State.setPort s p v) := by
  unfold State.setPort
  with_reducible repeat' (first | assumption | fail_if_no_progress apply Only.upd_ring (hp := hp))

theorem State.setDpll_only {σ : State} {ps : List Part} (s : State) (st : Nat) (hp : ∀ x ∈ parts1, x ∈ ps) (h : Only ps σ s) :
    Only ps σ (State.setDpll s st) := by
  unfold State.setDpll
  with_reducible repeat' (first
    | assumption | apply State.raise_only (hp := hp) | apply State.put_only (hp := hp) | split)

theorem State.restartSoaks_only {σ : State} {ps : List Part} (s : State) (hp : ∀ x ∈ parts1, x ∈ ps) (h : Only ps σ s) :
    Only ps σ (State.restartSoaks s) := by
  unfold State.restartSoaks
  with_reducible repeat' (first
    | assumption | apply State.put_only (hp := hp) | (refine Only.foldl ?_ (fun _ _ _ => ?_))
    | (refine Only.foldl_snd ?_ (fun _ _ _ => ?_)) | (refine Only.foldl_fst ?_ (fun _ _ _ => ?_)) | split)

theorem State.enterLost_only {σ : State} {ps : List Part} (s : State) (hp : ∀ x ∈ parts1, x ∈ ps) (h : Only ps σ s) :
    Only ps σ (State.enterLost s) := by
  unfold State.enterLost
  with_reducible repeat' (first
    | assumption | apply State.restartSoaks_only (hp := hp) | apply State.setDpll_only (hp := hp))

theorem State.showFreq_only {σ : State} {ps : List Part} (s : State) (hp : ∀ x ∈ parts1, x ∈ ps) (h : Only ps σ s) :
    Only ps σ (State.showFreq s) := by
  unfold State.showFreq
  with_reducible repeat' (first | assumption | apply State.put_only (hp := hp))

theorem State.steerTo_only {σ : State} {ps : List Part} (s : State) (f : Int) (hp : ∀ x ∈ parts44, x ∈ ps) (h : Only ps σ s) :
    Only ps σ (State.steerTo s f) := by
  unfold State.steerTo
  with_reducible repeat' (first
    | assumption | apply State.showFreq_only (hp := (fun x m => hp x (parts1_44 x m)))
    | fail_if_no_progress apply Only.upd_dpll (hp := (fun x m => hp x (parts45_44 x m))))

theorem State.enterHoldover_only {σ : State} {ps : List Part} (s : State) (hp : ∀ x ∈ parts44, x ∈ ps) (h : Only ps σ s) :
    Only ps σ (State.enterHoldover s) := by
  unfold State.enterHoldover
  with_reducible repeat' (first
    | assumption | apply State.put_only (hp := (fun x m => hp x (parts1_44 x m)))
    | apply State.putB_only (hp := (fun x m => hp x (parts1_44 x m)))
    | apply State.setDpll_only (hp := (fun x m => hp x (parts1_44 x m)))
    | apply State.steerTo_only (hp := hp)
    | apply State.enterLost_only (hp := (fun x m => hp x (parts1_44 x m)))
    | fail_if_no_progress apply Only.upd_dpll (hp := (fun x m => hp x (parts45_44 x m))) | split | intro _
    | dsimp only)

theorem State.timeSrcView_only {σ : State} {ps : List Part} (s : State) (hp : ∀ x ∈ parts1, x ∈ ps) (h : Only ps σ s) :
    Only ps σ (State.timeSrcView s) := by
  unfold State.timeSrcView
  with_reducible repeat' (first
    | assumption | apply State.put_only (hp := hp) | apply State.putB_only (hp := hp) | split)

theorem State.selectRef_only {σ : State} {ps : List Part} (s : State) (n : Option Nat) (hp : ∀ x ∈ parts44, x ∈ ps) (h : Only ps σ s) :
    Only ps σ (State.selectRef s n) := by
  unfold State.selectRef
  with_reducible repeat' (first
    | assumption | apply State.putB_only (hp := (fun x m => hp x (parts1_44 x m)))
    | apply State.put_only (hp := (fun x m => hp x (parts1_44 x m)))
    | apply State.timeSrcView_only (hp := (fun x m => hp x (parts1_44 x m)))
    | apply State.raise_only (hp := (fun x m => hp x (parts1_44 x m)))
    | fail_if_no_progress apply Only.upd_dpll (hp := (fun x m => hp x (parts45_44 x m))) | split)

theorem State.reselect_only {σ : State} {ps : List Part} (s : State) (hp : ∀ x ∈ parts44, x ∈ ps) (h : Only ps σ s) :
    Only ps σ (State.reselect s) := by
  unfold State.reselect
  with_reducible repeat' (first
    | assumption | apply State.putB_only (hp := (fun x m => hp x (parts1_44 x m)))
    | apply State.raise_only (hp := (fun x m => hp x (parts1_44 x m)))
    | apply State.selectRef_only (hp := hp)
    | apply State.setDpll_only (hp := (fun x m => hp x (parts1_44 x m)))
    | apply State.steerTo_only (hp := hp) | apply State.enterHoldover_only (hp := hp)
    | (refine Only.foldl ?_ (fun _ _ _ => ?_)) | (refine Only.foldl_snd ?_ (fun _ _ _ => ?_))
    | (refine Only.foldl_fst ?_ (fun _ _ _ => ?_)) | split | intro _ | dsimp only)

theorem State.disqualify_only {σ : State} {ps : List Part} (s : State) (k : Nat) (hp : ∀ x ∈ parts1, x ∈ ps) (h : Only ps σ s) :
    Only ps σ (State.disqualify s k) := by
  unfold State.disqualify
  with_reducible repeat' (first
    | assumption | apply State.putB_only (hp := hp) | apply State.raise_only (hp := hp))

theorem State.judge_only {σ : State} {ps : List Part} (s : State) (k : Nat) (fresh : Bool) (hp : ∀ x ∈ parts1, x ∈ ps) (h : Only ps σ s) :
    Only ps σ (State.judge s k fresh) := by
  unfold State.judge
  with_reducible repeat' (first
    | assumption | apply State.disqualify_only (hp := hp) | apply State.raise_only (hp := hp)
    | apply State.putB_only (hp := hp) | apply State.put_only (hp := hp) | split | intro _ | dsimp only)

theorem State.portQuality_only {σ : State} {ps : List Part} (s : State) (k : Nat) (hp : ∀ x ∈ parts1, x ∈ ps) (h : Only ps σ s) :
    Only ps σ (State.portQuality s k) := by
  unfold State.portQuality
  with_reducible repeat' (first
    | assumption | apply State.put_only (hp := hp) | apply State.putB_only (hp := hp) | split)

theorem State.portJudge_only {σ : State} {ps : List Part} (s : State) (k : Nat) (hp : ∀ x ∈ parts44, x ∈ ps) (h : Only ps σ s) :
    Only ps σ (State.portJudge s k) := by
  unfold State.portJudge
  with_reducible repeat' (first
    | assumption | apply State.reselect_only (hp := hp)
    | apply State.judge_only (hp := (fun x m => hp x (parts1_44 x m)))
    | apply State.portQuality_only (hp := (fun x m => hp x (parts1_44 x m))))

theorem State.setActive_only {σ : State} {ps : List Part} (s : State) (k : Nat) (b : Bool) (hp : ∀ x ∈ parts44, x ∈ ps) (h : Only ps σ s) :
    Only ps σ (State.setActive s k b) := by
  unfold State.setActive
  with_reducible repeat' (first
    | assumption | apply State.putB_only (hp := (fun x m => hp x (parts1_44 x m)))
    | apply State.reselect_only (hp := hp)
    | apply State.judge_only (hp := (fun x m => hp x (parts1_44 x m)))
    | fail_if_no_progress apply Only.upd_dpll (hp := (fun x m => hp x (parts45_44 x m))) | split | intro _
    | dsimp only)

theorem State.portActivity_only {σ : State} {ps : List Part} (s : State) (p : Nat) (hp : ∀ x ∈ parts44, x ∈ ps) (h : Only ps σ s) :
    Only ps σ (State.portActivity s p) := by
  unfold State.portActivity
  with_reducible repeat' (first
    | assumption | apply State.portJudge_only (hp := hp) | apply State.setActive_only (hp := hp))

theorem State.freqMeasure_only {σ : State} {ps : List Part} (s : State) (k : Nat) (raw : Int) (hp : ∀ x ∈ parts44, x ∈ ps) (h : Only ps σ s) :
    Only ps σ (State.freqMeasure s k raw) := by
  unfold State.freqMeasure
  with_reducible repeat' (first
    | assumption | apply State.put_only (hp := (fun x m => hp x (parts1_44 x m)))
    | apply State.reselect_only (hp := hp)
    | apply State.judge_only (hp := (fun x m => hp x (parts1_44 x m)))
    | fail_if_no_progress apply Only.upd_dpll (hp := (fun x m => hp x (parts45_44 x m))) | split)

theorem execFreqMeasurement_only {σ : State} {ps : List Part} (k : Nat) (raw : Word) (s : State) {t : State} (hp : ∀ x ∈ parts44, x ∈ ps) (h : Only ps σ s)
    (e : (execFreqMeasurement k raw s) = .next t) : Only ps σ t := by
  unfold execFreqMeasurement at e
  refine Only.next ?_ e
  with_reducible repeat' (first | assumption | apply State.freqMeasure_only (hp := hp) | split)

theorem execRefActivityLoss_only {σ : State} {ps : List Part} (k : Nat) (s : State) {t : State} (hp : ∀ x ∈ parts44, x ∈ ps) (h : Only ps σ s)
    (e : (execRefActivityLoss k s) = .next t) : Only ps σ t := by
  unfold execRefActivityLoss at e
  refine Only.next ?_ e
  with_reducible repeat' (first
    | assumption | apply State.setActive_only (hp := hp)
    | fail_if_no_progress apply Only.upd_dpll (hp := (fun x m => hp x (parts45_44 x m))) | split)

theorem execRefActivityReturn_only {σ : State} {ps : List Part} (k : Nat) (s : State) {t : State} (hp : ∀ x ∈ parts44, x ∈ ps) (h : Only ps σ s)
    (e : (execRefActivityReturn k s) = .next t) : Only ps σ t := by
  unfold execRefActivityReturn at e
  refine Only.next ?_ e
  with_reducible repeat' (first
    | assumption | apply State.portActivity_only (hp := hp) | apply State.setActive_only (hp := hp) | split)

theorem execSoakComplete_only {σ : State} {ps : List Part} (k : Nat) (s : State) {t : State} (hp : ∀ x ∈ parts44, x ∈ ps) (h : Only ps σ s)
    (e : (execSoakComplete k s) = .next t) : Only ps σ t := by
  unfold execSoakComplete at e
  refine Only.next ?_ e
  with_reducible repeat' (first
    | assumption | apply State.putB_only (hp := (fun x m => hp x (parts1_44 x m)))
    | apply State.put_only (hp := (fun x m => hp x (parts1_44 x m))) | apply State.reselect_only (hp := hp)
    | apply State.judge_only (hp := (fun x m => hp x (parts1_44 x m)))
    | apply State.raise_only (hp := (fun x m => hp x (parts1_44 x m))) | split)

theorem State.numFreqWrite_only {σ : State} {ps : List Part} (s : State) (v : Word) (hp : ∀ x ∈ parts44, x ∈ ps) (h : Only ps σ s) :
    Only ps σ (State.numFreqWrite s v) := by
  unfold State.numFreqWrite
  with_reducible repeat' (first
    | assumption | apply State.freqMeasure_only (hp := hp) | apply State.setActive_only (hp := hp)
    | apply State.put_only (hp := (fun x m => hp x (parts1_44 x m)))
    | fail_if_no_progress apply Only.upd_dpll (hp := (fun x m => hp x (parts45_44 x m))))

theorem State.steer_only {σ : State} {ps : List Part} (s : State) (k : Nat) (e : Int) (held : Bool) (hp : ∀ x ∈ parts44, x ∈ ps) (h : Only ps σ s) :
    Only ps σ (State.steer s k e held) := by
  unfold State.steer
  with_reducible repeat' (first
    | assumption | apply State.putB_only (hp := (fun x m => hp x (parts1_44 x m)))
    | apply State.showFreq_only (hp := (fun x m => hp x (parts1_44 x m)))
    | fail_if_no_progress apply Only.upd_dpll (hp := (fun x m => hp x (parts45_44 x m))))

theorem State.freeRunMove_only {σ : State} {ps : List Part} (s : State) (hp : ∀ x ∈ parts45, x ∈ ps) (h : Only ps σ s) :
    Only ps σ (State.freeRunMove s) := by
  unfold State.freeRunMove
  with_reducible repeat' (first | assumption | fail_if_no_progress apply Only.upd_dpll (hp := hp) | split)

theorem State.stepMove_only {σ : State} {ps : List Part} (s : State) (hp : ∀ x ∈ parts45, x ∈ ps) (h : Only ps σ s) :
    Only ps σ (State.stepMove s) := by
  unfold State.stepMove
  with_reducible repeat' (first | assumption | fail_if_no_progress apply Only.upd_dpll (hp := hp))

theorem State.dpllCycle_only {σ : State} {ps : List Part} (s : State) (hp : ∀ x ∈ parts44, x ∈ ps) (h : Only ps σ s) :
    Only ps σ (State.dpllCycle s) := by
  unfold State.dpllCycle
  with_reducible repeat' (first
    | assumption | apply State.showFreq_only (hp := (fun x m => hp x (parts1_44 x m)))
    | apply State.stepMove_only (hp := (fun x m => hp x (parts45_44 x m)))
    | apply State.freeRunMove_only (hp := (fun x m => hp x (parts45_44 x m)))
    | fail_if_no_progress apply Only.upd_dpll (hp := (fun x m => hp x (parts45_44 x m))))

theorem State.sampleError_only {σ : State} {ps : List Part} (s : State) (k : Nat) (raw : Int) (hp : ∀ x ∈ parts45, x ∈ ps) (h : Only ps σ s) :
    Only ps σ (State.sampleError s k raw).2 := by
  unfold State.sampleError
  with_reducible repeat' (first | assumption | fail_if_no_progress apply Only.upd_dpll (hp := hp) | split)

theorem State.takeSample_only {σ : State} {ps : List Part} (s : State) (raw : Int) (hp : ∀ x ∈ parts44, x ∈ ps) (h : Only ps σ s) :
    Only ps σ (State.takeSample s raw) := by
  unfold State.takeSample
  with_reducible repeat' (first
    | assumption | apply State.sampleError_only (hp := (fun x m => hp x (parts45_44 x m)))
    | apply State.put_only (hp := (fun x m => hp x (parts1_44 x m)))
    | apply State.raise_only (hp := (fun x m => hp x (parts1_44 x m)))
    | apply State.putB_only (hp := (fun x m => hp x (parts1_44 x m))) | apply State.steer_only (hp := hp)
    | apply State.setDpll_only (hp := (fun x m => hp x (parts1_44 x m)))
    | fail_if_no_progress apply Only.upd_dpll (hp := (fun x m => hp x (parts45_44 x m))) | split | intro _
    | dsimp only)

theorem execDpllPhaseSample_only {σ : State} {ps : List Part} (err : Word) (s : State) {t : State} (hp : ∀ x ∈ parts44, x ∈ ps) (h : Only ps σ s)
    (e : (execDpllPhaseSample err s) = .next t) : Only ps σ t := by
  unfold execDpllPhaseSample at e
  refine Only.next ?_ e
  with_reducible repeat' (first
    | assumption | apply State.takeSample_only (hp := hp)
    | fail_if_no_progress apply Only.upd_dpll (hp := (fun x m => hp x (parts45_44 x m))) | split)

theorem State.numPhaseWrite_only {σ : State} {ps : List Part} (s : State) (v : Word) (hp : ∀ x ∈ parts44, x ∈ ps) (h : Only ps σ s) :
    Only ps σ (State.numPhaseWrite s v) := by
  unfold State.numPhaseWrite
  with_reducible repeat' (first
    | assumption | apply State.put_only (hp := (fun x m => hp x (parts1_44 x m)))
    | apply State.takeSample_only (hp := hp) | split | intro _ | dsimp only)

theorem execDpllLocked_only {σ : State} {ps : List Part} (s : State) {t : State} (hp : ∀ x ∈ parts44, x ∈ ps) (h : Only ps σ s)
    (e : (execDpllLocked s) = .next t) : Only ps σ t := by
  unfold execDpllLocked at e
  refine Only.next ?_ e
  with_reducible repeat' (first
    | assumption | apply State.setDpll_only (hp := (fun x m => hp x (parts1_44 x m)))
    | fail_if_no_progress apply Only.upd_dpll (hp := (fun x m => hp x (parts45_44 x m))) | split)

theorem execHoldoverEstimatorMean_only {σ : State} {ps : List Part} (s : State) {t : State} (hp : ∀ x ∈ parts45, x ∈ ps) (h : Only ps σ s)
    (e : (execHoldoverEstimatorMean s) = .next t) : Only ps σ t := by
  unfold execHoldoverEstimatorMean at e
  refine Only.next ?_ e
  with_reducible repeat' (first | assumption | fail_if_no_progress apply Only.upd_dpll (hp := hp) | split)

theorem execHoldoverEvaluate_only {σ : State} {ps : List Part} (s : State) {t : State} (hp : ∀ x ∈ parts44, x ∈ ps) (h : Only ps σ s)
    (e : (execHoldoverEvaluate s) = .next t) : Only ps σ t := by
  unfold execHoldoverEvaluate at e
  refine Only.next ?_ e
  with_reducible repeat' (first
    | assumption | apply State.put_only (hp := (fun x m => hp x (parts1_44 x m)))
    | apply State.steerTo_only (hp := hp)
    | apply State.enterLost_only (hp := (fun x m => hp x (parts1_44 x m)))
    | fail_if_no_progress apply Only.upd_dpll (hp := (fun x m => hp x (parts45_44 x m))) | split | intro _
    | dsimp only)

theorem State.pstepCtrl_only {σ : State} {ps : List Part} (s : State) (v : Nat) (hp : ∀ x ∈ parts44, x ∈ ps) (h : Only ps σ s) :
    Only ps σ (State.pstepCtrl s v) := by
  unfold State.pstepCtrl
  with_reducible repeat' (first
    | assumption | apply State.log_only (hp := (fun x m => hp x (parts1_44 x m)))
    | apply State.put_only (hp := (fun x m => hp x (parts1_44 x m)))
    | apply State.putB_only (hp := (fun x m => hp x (parts1_44 x m)))
    | fail_if_no_progress apply Only.upd_dpll (hp := (fun x m => hp x (parts45_44 x m))) | split)

theorem execPstepDone_only {σ : State} {ps : List Part} (s : State) {t : State} (hp : ∀ x ∈ parts1, x ∈ ps) (h : Only ps σ s)
    (e : (execPstepDone s) = .next t) : Only ps σ t := by
  unfold execPstepDone at e
  refine Only.next ?_ e
  with_reducible repeat' (first
    | assumption | apply State.raise_only (hp := hp) | apply State.putB_only (hp := hp) | split)

theorem State.bit31Follow_only {σ : State} {ps : List Part} (s : State) (hp : ∀ x ∈ parts46, x ∈ ps) (h : Only ps σ s) :
    Only ps σ (State.bit31Follow s) := by
  unfold State.bit31Follow
  with_reducible repeat' (first
    | assumption | apply State.raise_only (hp := (fun x m => hp x (parts1_46 x m)))
    | fail_if_no_progress apply Only.upd_time (hp := (fun x m => hp x (parts5_46 x m))) | split | intro _
    | dsimp only)

theorem State.loadTime_only {σ : State} {ps : List Part} (s : State) (c : Nat) (q : Nat) (hp : ∀ x ∈ parts5, x ∈ ps) (h : Only ps σ s) :
    Only ps σ (State.loadTime s c q) := by
  unfold State.loadTime
  with_reducible repeat' (first | assumption | fail_if_no_progress apply Only.upd_time (hp := hp))

theorem State.cancelArmed_only {σ : State} {ps : List Part} (s : State) (hp : ∀ x ∈ parts1, x ∈ ps) (h : Only ps σ s) :
    Only ps σ (State.cancelArmed s) := by
  unfold State.cancelArmed
  with_reducible repeat' (first
    | assumption | apply State.putB_only (hp := hp) | apply State.raise_only (hp := hp)
    | (refine Only.foldl ?_ (fun _ _ _ => ?_)) | (refine Only.foldl_snd ?_ (fun _ _ _ => ?_))
    | (refine Only.foldl_fst ?_ (fun _ _ _ => ?_)) | split | intro _ | dsimp only)

theorem State.ntNowLatch_only {σ : State} {ps : List Part} (s : State) (hp : ∀ x ∈ parts1, x ∈ ps) (h : Only ps σ s) :
    Only ps σ (State.ntNowLatch s) := by
  unfold State.ntNowLatch
  with_reducible repeat' (first | assumption | apply State.put_only (hp := hp))

theorem execNtNowRead_only {σ : State} {ps : List Part} (at_ : Nat) (s : State) {t : State} (hp : ∀ x ∈ parts47, x ∈ ps) (h : Only ps σ s)
    (e : (execNtNowRead at_ s) = .next t) : Only ps σ t := by
  unfold execNtNowRead at e
  refine Only.next ?_ e
  with_reducible repeat' (first
    | assumption | apply State.atPhase_only (hp := (fun x m => hp x (parts5_47 x m)))
    | apply State.ntNowLatch_only (hp := (fun x m => hp x (parts1_47 x m)))
    | fail_if_no_progress apply Only.upd_readData (hp := (fun x m => hp x (parts9_47 x m))) | split)

theorem execNtBit31Change_only {σ : State} {ps : List Part} (at_ : Nat) (s : State) {t : State} (hp : ∀ x ∈ parts46, x ∈ ps) (h : Only ps σ s)
    (e : (execNtBit31Change at_ s) = .next t) : Only ps σ t := by
  unfold execNtBit31Change at e
  refine Only.next ?_ e
  with_reducible repeat' (first
    | assumption | apply State.bit31Follow_only (hp := hp)
    | apply State.atPhase_only (hp := (fun x m => hp x (parts5_46 x m))) | split)

theorem State.makeMarker_only {σ : State} {ps : List Part} (s : State) (l : Nat) (hp : ∀ x ∈ parts6, x ∈ ps) (h : Only ps σ s) :
    Only ps σ (State.makeMarker s l).2 := by
  unfold State.makeMarker
  with_reducible repeat' (first
    | assumption | apply State.draw_only (hp := hp) | split | intro _ | dsimp only)

theorem State.masterChange_only {σ : State} {ps : List Part} (s : State) (m : RxMarker) (hp : ∀ x ∈ parts1, x ∈ ps) (h : Only ps σ s) :
    Only ps σ (State.masterChange s m) := by
  unfold State.masterChange
  with_reducible repeat' (first | assumption | apply State.raise_only (hp := hp) | split)

theorem State.masterFollow_only {σ : State} {ps : List Part} (s : State) (m : RxMarker) (hp : ∀ x ∈ parts44, x ∈ ps) (h : Only ps σ s) :
    Only ps σ (State.masterFollow s m) := by
  unfold State.masterFollow
  with_reducible repeat' (first
    | assumption | apply State.put_only (hp := (fun x m => hp x (parts1_44 x m)))
    | apply State.timeSrcView_only (hp := (fun x m => hp x (parts1_44 x m)))
    | fail_if_no_progress apply Only.upd_dpll (hp := (fun x m => hp x (parts45_44 x m))))

theorem State.alignTake_only {σ : State} {ps : List Part} (s : State) (l : Nat) (m : RxMarker) (hp : ∀ x ∈ parts45, x ∈ ps) (h : Only ps σ s) :
    Only ps σ (State.alignTake s l m) := by
  unfold State.alignTake
  with_reducible repeat' (first | assumption | fail_if_no_progress apply Only.upd_dpll (hp := hp) | split)

theorem State.markerTime_only {σ : State} {ps : List Part} (s : State) (l : Nat) (m : RxMarker) (hp : ∀ x ∈ parts44, x ∈ ps) (h : Only ps σ s) :
    Only ps σ (State.markerTime s l m) := by
  unfold State.markerTime
  with_reducible repeat' (first
    | assumption | apply State.portJudge_only (hp := hp)
    | apply State.alignTake_only (hp := (fun x m => hp x (parts45_44 x m)))
    | apply State.masterFollow_only (hp := hp)
    | apply State.masterChange_only (hp := (fun x m => hp x (parts1_44 x m))) | split | intro _
    | dsimp only)

theorem State.timeExchange_only {σ : State} {ps : List Part} (s : State) (l : Nat) (b : Body) (hp : ∀ x ∈ parts48, x ∈ ps) (h : Only ps σ s) :
    Only ps σ (State.timeExchange s l b) := by
  unfold State.timeExchange
  with_reducible repeat' (first
    | assumption | apply State.setLane_only (hp := (fun x m => hp x (parts42_48 x m)))
    | apply State.put_only (hp := (fun x m => hp x (parts1_48 x m)))
    | apply State.raise_only (hp := (fun x m => hp x (parts1_48 x m))) | split | intro _ | dsimp only)

theorem State.alignReq_only {σ : State} {ps : List Part} (s : State) (hp : ∀ x ∈ parts44, x ∈ ps) (h : Only ps σ s) :
    Only ps σ (State.alignReq s) := by
  unfold State.alignReq
  with_reducible repeat' (first
    | assumption | apply State.putB_only (hp := (fun x m => hp x (parts1_44 x m)))
    | apply State.log_only (hp := (fun x m => hp x (parts1_44 x m)))
    | fail_if_no_progress apply Only.upd_dpll (hp := (fun x m => hp x (parts45_44 x m))) | split | intro _
    | dsimp only)

theorem State.setReq_only {σ : State} {ps : List Part} (s : State) (hp : ∀ x ∈ parts1, x ∈ ps) (h : Only ps σ s) :
    Only ps σ (State.setReq s) := by
  unfold State.setReq
  with_reducible repeat' (first
    | assumption | apply State.putB_only (hp := hp) | apply State.log_only (hp := hp) | split)

theorem State.ppsEdge_only {σ : State} {ps : List Part} (s : State) (hp : ∀ x ∈ parts44, x ∈ ps) (h : Only ps σ s) :
    Only ps σ (State.ppsEdge s) := by
  unfold State.ppsEdge
  with_reducible repeat' (first
    | assumption | apply State.put_only (hp := (fun x m => hp x (parts1_44 x m)))
    | fail_if_no_progress apply Only.upd_dpll (hp := (fun x m => hp x (parts45_44 x m))) | split)

theorem execPpsInEdge_only {σ : State} {ps : List Part} (at_ : Nat) (s : State) {t : State} (hp : ∀ x ∈ parts49, x ∈ ps) (h : Only ps σ s)
    (e : (execPpsInEdge at_ s) = .next t) : Only ps σ t := by
  unfold execPpsInEdge at e
  refine Only.next ?_ e
  with_reducible repeat' (first
    | assumption | apply State.atPhase_only (hp := (fun x m => hp x (parts5_49 x m)))
    | apply State.put_only (hp := (fun x m => hp x (parts1_49 x m)))
    | apply State.raise_only (hp := (fun x m => hp x (parts1_49 x m)))
    | fail_if_no_progress apply Only.upd_dpll (hp := (fun x m => hp x (parts45_49 x m))) | split | intro _
    | dsimp only)

theorem execPpsOutCycWrite_only {σ : State} {ps : List Part} (value : Word) (s : State) {t : State} (hp : ∀ x ∈ parts1, x ∈ ps) (h : Only ps σ s)
    (e : (execPpsOutCycWrite value s) = .next t) : Only ps σ t := by
  unfold execPpsOutCycWrite at e
  refine Only.next ?_ e
  with_reducible repeat' (first
    | assumption | apply State.blockWrite_only (hp := hp) | apply State.put_only (hp := hp) | split
    | intro _)

end Sys2Proof.Machine
end

