-- ==== Sys2Proof/Laws/OnlyLinks.lean ====
section
/-! SUPPORT. Which parts of the state change (`Only`), for lanes and rings: one lemma per function
that gives a state. -/

namespace Sys2Proof.Machine

theorem State.farEndLine_only {σ : State} {ps : List Part} (s : State) (l : Nat) (hp : ∀ x ∈ parts6, x ∈ ps) (h : Only ps σ s) :
    Only ps σ (State.farEndLine s l).2 := by
  unfold State.farEndLine
  with_reducible repeat' (first | assumption | apply State.draw_only (hp := hp))

theorem State.testLine_only {σ : State} {ps : List Part} (s : State) (l : Nat) (hp : ∀ x ∈ parts50, x ∈ ps) (h : Only ps σ s) :
    Only ps σ (State.testLine s l) := by
  unfold State.testLine
  with_reducible repeat' (first
    | assumption | apply State.farEndLine_only (hp := (fun x m => hp x (parts6_50 x m)))
    | apply State.setLane_only (hp := (fun x m => hp x (parts42_50 x m))) | split | intro _ | dsimp only)

theorem State.settleLine_only {σ : State} {ps : List Part} (s : State) (l : Nat) (m : TxMarker) (hp : ∀ x ∈ parts51, x ∈ ps) (h : Only ps σ s) :
    Only ps σ (State.settleLine s l m) := by
  unfold State.settleLine
  with_reducible repeat' (first
    | assumption | apply State.put_only (hp := (fun x m => hp x (parts1_51 x m)))
    | apply State.bump_only (hp := (fun x m => hp x (parts1_51 x m)))
    | apply State.raise_only (hp := (fun x m => hp x (parts1_51 x m)))
    | apply State.setLane_only (hp := (fun x m => hp x (parts42_51 x m)))
    | apply State.setPort_only (hp := (fun x m => hp x (parts43_51 x m))) | split)

theorem State.setPhase_only {σ : State} {ps : List Part} (s : State) (l : Nat) (ph : Nat) (hp : ∀ x ∈ parts1, x ∈ ps) (h : Only ps σ s) :
    Only ps σ (State.setPhase s l ph) := by
  unfold State.setPhase
  with_reducible repeat' (first | assumption | apply State.put_only (hp := hp) | split)

theorem State.setPortState_only {σ : State} {ps : List Part} (s : State) (p : Nat) (v : Nat) (hp : ∀ x ∈ parts1, x ∈ ps) (h : Only ps σ s) :
    Only ps σ (State.setPortState s p v) := by
  unfold State.setPortState
  with_reducible repeat' (first
    | assumption | apply State.put_only (hp := hp) | (refine Only.foldl ?_ (fun _ _ _ => ?_)))

theorem State.raisePort_only {σ : State} {ps : List Part} (s : State) (p : Nat) (b : Nat) (hp : ∀ x ∈ parts1, x ∈ ps) (h : Only ps σ s) :
    Only ps σ (State.raisePort s p b) := by
  unfold State.raisePort
  with_reducible repeat' (first
    | assumption | apply State.raise_only (hp := hp) | (refine Only.foldl ?_ (fun _ _ _ => ?_)))

theorem State.wrapStart_only {σ : State} {ps : List Part} (s : State) (p : Nat) (hp : ∀ x ∈ parts1, x ∈ ps) (h : Only ps σ s) :
    Only ps σ (State.wrapStart s p) := by
  unfold State.wrapStart
  with_reducible repeat' (first
    | assumption | apply State.raise_only (hp := hp) | apply State.putB_only (hp := hp) | split)

theorem State.wrapSoon_only {σ : State} {ps : List Part} (s : State) (p : Nat) (hp : ∀ x ∈ parts52, x ∈ ps) (h : Only ps σ s) :
    Only ps σ (State.wrapSoon s p) := by
  unfold State.wrapSoon
  with_reducible repeat' (first
    | assumption | apply State.draw_only (hp := (fun x m => hp x (parts6_52 x m)))
    | apply State.wrapStart_only (hp := (fun x m => hp x (parts1_52 x m)))
    | apply State.setPort_only (hp := (fun x m => hp x (parts43_52 x m))) | split | intro _ | dsimp only)

theorem State.recall_only {σ : State} {ps : List Part} (s : State) (p : Nat) (hp : ∀ x ∈ parts52, x ∈ ps) (h : Only ps σ s) :
    Only ps σ (State.recall s p) := by
  unfold State.recall
  with_reducible repeat' (first
    | assumption | apply State.draw_only (hp := (fun x m => hp x (parts6_52 x m)))
    | apply State.put_only (hp := (fun x m => hp x (parts1_52 x m)))
    | apply State.setPort_only (hp := (fun x m => hp x (parts43_52 x m))) | split)

theorem State.portDown_only {σ : State} {ps : List Part} (s : State) (p : Nat) (hp : ∀ x ∈ parts52, x ∈ ps) (h : Only ps σ s) :
    Only ps σ (State.portDown s p) := by
  unfold State.portDown
  with_reducible repeat' (first
    | assumption | apply State.setPortState_only (hp := (fun x m => hp x (parts1_52 x m)))
    | apply State.raisePort_only (hp := (fun x m => hp x (parts1_52 x m)))
    | apply State.wrapSoon_only (hp := hp) | apply State.recall_only (hp := hp) | split | intro _
    | dsimp only)

theorem State.portWait_only {σ : State} {ps : List Part} (s : State) (p : Nat) (hp : ∀ x ∈ parts1, x ∈ ps) (h : Only ps σ s) :
    Only ps σ (State.portWait s p) := by
  unfold State.portWait
  with_reducible repeat' (first | assumption | apply State.setPortState_only (hp := hp) | split)

theorem State.leftUp_only {σ : State} {ps : List Part} (s : State) (l : Nat) (hp : ∀ x ∈ parts53, x ∈ ps) (h : Only ps σ s) :
    Only ps σ (State.leftUp s l) := by
  unfold State.leftUp
  with_reducible repeat' (first
    | assumption | apply State.portActivity_only (hp := (fun x m => hp x (parts44_53 x m)))
    | apply State.portDown_only (hp := (fun x m => hp x (parts52_53 x m)))
    | apply State.raise_only (hp := (fun x m => hp x (parts1_53 x m))))

theorem State.setFfe_only {σ : State} {ps : List Part} (s : State) (l : Nat) (pre : Nat) (post : Nat) (hp : ∀ x ∈ parts1, x ∈ ps) (h : Only ps σ s) :
    Only ps σ (State.setFfe s l pre post) := by
  unfold State.setFfe
  with_reducible repeat' (first | assumption | apply State.put_only (hp := hp))

theorem State.takePreset_only {σ : State} {ps : List Part} (s : State) (l : Nat) (i : Nat) (hp : ∀ x ∈ parts1, x ∈ ps) (h : Only ps σ s) :
    Only ps σ (State.takePreset s l i) := by
  unfold State.takePreset
  with_reducible repeat' (first | assumption | apply State.setFfe_only (hp := hp))

theorem State.ffeAnswer_only {σ : State} {ps : List Part} (s : State) (l : Nat) (a : Nat) (b : Nat) (hp : ∀ x ∈ parts42, x ∈ ps) (h : Only ps σ s) :
    Only ps σ (State.ffeAnswer s l a b) := by
  unfold State.ffeAnswer
  with_reducible repeat' (first | assumption | apply State.setLane_only (hp := hp))

theorem State.ffeTakes_only {σ : State} {ps : List Part} (s : State) (l : Nat) (preset : Nat) (hp : ∀ x ∈ parts48, x ∈ ps) (h : Only ps σ s) :
    Only ps σ (State.ffeTakes s l preset) := by
  unfold State.ffeTakes
  with_reducible repeat' (first
    | assumption | apply State.ffeAnswer_only (hp := (fun x m => hp x (parts42_48 x m)))
    | apply State.takePreset_only (hp := (fun x m => hp x (parts1_48 x m))))

theorem State.ffeAct_only {σ : State} {ps : List Part} (s : State) (l : Nat) (req : Nat) (hp : ∀ x ∈ parts48, x ∈ ps) (h : Only ps σ s) :
    Only ps σ (State.ffeAct s l req) := by
  unfold State.ffeAct
  with_reducible repeat' (first
    | assumption | apply State.ffeAnswer_only (hp := (fun x m => hp x (parts42_48 x m)))
    | apply State.setFfe_only (hp := (fun x m => hp x (parts1_48 x m)))
    | apply State.ffeTakes_only (hp := hp) | split | intro _ | dsimp only)

theorem State.ffeServe_only {σ : State} {ps : List Part} (s : State) (l : Nat) (req : Nat) (hp : ∀ x ∈ parts48, x ∈ ps) (h : Only ps σ s) :
    Only ps σ (State.ffeServe s l req) := by
  unfold State.ffeServe
  with_reducible repeat' (first
    | assumption | apply State.setLane_only (hp := (fun x m => hp x (parts42_48 x m)))
    | apply State.ffeAct_only (hp := hp) | split | intro _ | dsimp only)

theorem State.ffeNote_only {σ : State} {ps : List Part} (s : State) (l : Nat) (req : Nat) (hp : ∀ x ∈ parts48, x ∈ ps) (h : Only ps σ s) :
    Only ps σ (State.ffeNote s l req) := by
  unfold State.ffeNote
  with_reducible repeat' (first | assumption | apply State.ffeServe_only (hp := hp) | split)

theorem State.ffeAsk_only {σ : State} {ps : List Part} (s : State) (l : Nat) (stat : Nat) (hp : ∀ x ∈ parts50, x ∈ ps) (h : Only ps σ s) :
    Only ps σ (State.ffeAsk s l stat) := by
  unfold State.ffeAsk
  with_reducible repeat' (first
    | assumption | apply State.setLane_only (hp := (fun x m => hp x (parts42_50 x m)))
    | apply State.draw_only (hp := (fun x m => hp x (parts6_50 x m))) | split | intro _ | dsimp only)

theorem State.ffeFixed_only {σ : State} {ps : List Part} (s : State) (l : Nat) (hp : ∀ x ∈ parts48, x ∈ ps) (h : Only ps σ s) :
    Only ps σ (State.ffeFixed s l) := by
  unfold State.ffeFixed
  with_reducible repeat' (first
    | assumption | apply State.setLane_only (hp := (fun x m => hp x (parts42_48 x m)))
    | apply State.takePreset_only (hp := (fun x m => hp x (parts1_48 x m))) | split | intro _ | dsimp only)

theorem State.endBurst_only {σ : State} {ps : List Part} (s : State) (l : Nat) (hp : ∀ x ∈ parts48, x ∈ ps) (h : Only ps σ s) :
    Only ps σ (State.endBurst s l) := by
  unfold State.endBurst
  with_reducible repeat' (first
    | assumption | apply State.put_only (hp := (fun x m => hp x (parts1_48 x m)))
    | apply State.setLane_only (hp := (fun x m => hp x (parts42_48 x m))) | split)

theorem State.startAttempt_only {σ : State} {ps : List Part} (s : State) (l : Nat) (first : Nat) (hp : ∀ x ∈ parts54, x ∈ ps) (h : Only ps σ s) :
    Only ps σ (State.startAttempt s l first) := by
  unfold State.startAttempt
  with_reducible repeat' (first
    | assumption | apply State.endBurst_only (hp := (fun x m => hp x (parts48_54 x m)))
    | apply State.request_only (hp := (fun x m => hp x (parts12_54 x m)))
    | apply State.release_only (hp := (fun x m => hp x (parts12_54 x m)))
    | apply State.setLane_only (hp := (fun x m => hp x (parts42_54 x m)))
    | apply State.put_only (hp := (fun x m => hp x (parts1_54 x m)))
    | apply State.setPhase_only (hp := (fun x m => hp x (parts1_54 x m)))
    | apply State.leftUp_only (hp := (fun x m => hp x (parts53_54 x m)))
    | apply State.bump_only (hp := (fun x m => hp x (parts1_54 x m))) | split | intro _ | dsimp only)

theorem State.newSequence_only {σ : State} {ps : List Part} (s : State) (l : Nat) (first : Nat) (hp : ∀ x ∈ parts54, x ∈ ps) (h : Only ps σ s) :
    Only ps σ (State.newSequence s l first) := by
  unfold State.newSequence
  with_reducible repeat' (first
    | assumption | apply State.startAttempt_only (hp := hp)
    | apply State.put_only (hp := (fun x m => hp x (parts1_54 x m))))

theorem State.loseAlign_only {σ : State} {ps : List Part} (s : State) (l : Nat) (hp : ∀ x ∈ parts48, x ∈ ps) (h : Only ps σ s) :
    Only ps σ (State.loseAlign s l) := by
  unfold State.loseAlign
  with_reducible repeat' (first
    | assumption | apply State.setLane_only (hp := (fun x m => hp x (parts42_48 x m)))
    | apply State.putB_only (hp := (fun x m => hp x (parts1_48 x m))))

theorem State.enterTraining_only {σ : State} {ps : List Part} (s : State) (l : Nat) (hp : ∀ x ∈ parts48, x ∈ ps) (h : Only ps σ s) :
    Only ps σ (State.enterTraining s l) := by
  unfold State.enterTraining
  with_reducible repeat' (first
    | assumption | apply State.loseAlign_only (hp := hp)
    | apply State.putB_only (hp := (fun x m => hp x (parts1_48 x m)))
    | apply State.takePreset_only (hp := (fun x m => hp x (parts1_48 x m)))
    | apply State.setPhase_only (hp := (fun x m => hp x (parts1_48 x m)))
    | apply State.setLane_only (hp := (fun x m => hp x (parts42_48 x m))) | split | intro _ | dsimp only)

theorem State.trainFail_only {σ : State} {ps : List Part} (s : State) (l : Nat) (cause : Nat) (hp : ∀ x ∈ parts55, x ∈ ps) (h : Only ps σ s) :
    Only ps σ (State.trainFail s l cause) := by
  unfold State.trainFail
  with_reducible repeat' (first
    | assumption | apply State.put_only (hp := (fun x m => hp x (parts1_55 x m)))
    | apply State.release_only (hp := (fun x m => hp x (parts12_55 x m)))
    | apply State.raise_only (hp := (fun x m => hp x (parts1_55 x m)))
    | apply State.log_only (hp := (fun x m => hp x (parts1_55 x m)))
    | apply State.loseAlign_only (hp := (fun x m => hp x (parts48_55 x m)))
    | apply State.putB_only (hp := (fun x m => hp x (parts1_55 x m)))
    | apply State.setPhase_only (hp := (fun x m => hp x (parts1_55 x m))) | split | intro _ | dsimp only)

theorem State.goUp_only {σ : State} {ps : List Part} (s : State) (l : Nat) (hp : ∀ x ∈ parts56, x ∈ ps) (h : Only ps σ s) :
    Only ps σ (State.goUp s l) := by
  unfold State.goUp
  with_reducible repeat' (first
    | assumption | apply State.raise_only (hp := (fun x m => hp x (parts1_56 x m)))
    | apply State.setPhase_only (hp := (fun x m => hp x (parts1_56 x m)))
    | apply State.release_only (hp := (fun x m => hp x (parts12_56 x m)))
    | apply State.put_only (hp := (fun x m => hp x (parts1_56 x m)))
    | apply State.setLane_only (hp := (fun x m => hp x (parts42_56 x m)))
    | apply State.portActivity_only (hp := (fun x m => hp x (parts44_56 x m)))
    | apply State.portWait_only (hp := (fun x m => hp x (parts1_56 x m))))

theorem State.laneDisable_only {σ : State} {ps : List Part} (s : State) (l : Nat) (hp : ∀ x ∈ parts54, x ∈ ps) (h : Only ps σ s) :
    Only ps σ (State.laneDisable s l) := by
  unfold State.laneDisable
  with_reducible repeat' (first
    | assumption | apply State.setLane_only (hp := (fun x m => hp x (parts42_54 x m)))
    | apply State.release_only (hp := (fun x m => hp x (parts12_54 x m)))
    | apply State.loseAlign_only (hp := (fun x m => hp x (parts48_54 x m)))
    | apply State.putB_only (hp := (fun x m => hp x (parts1_54 x m)))
    | apply State.setPhase_only (hp := (fun x m => hp x (parts1_54 x m)))
    | apply State.leftUp_only (hp := (fun x m => hp x (parts53_54 x m)))
    | apply State.portWait_only (hp := (fun x m => hp x (parts1_54 x m))) | split | intro _ | dsimp only)

theorem State.laneEnable_only {σ : State} {ps : List Part} (s : State) (l : Nat) (en : Bool) (hp : ∀ x ∈ parts54, x ∈ ps) (h : Only ps σ s) :
    Only ps σ (State.laneEnable s l en) := by
  unfold State.laneEnable
  with_reducible repeat' (first
    | assumption | apply State.putB_only (hp := (fun x m => hp x (parts1_54 x m)))
    | apply State.newSequence_only (hp := hp) | apply State.laneDisable_only (hp := hp) | split | intro _
    | dsimp only)

theorem execLaneEnable_only {σ : State} {ps : List Part} (lane : Nat) (en : Bool) (s : State) {t : State} (hp : ∀ x ∈ parts54, x ∈ ps) (h : Only ps σ s)
    (e : (execLaneEnable lane en s) = .next t) : Only ps σ t := by
  unfold execLaneEnable at e
  refine Only.next ?_ e
  with_reducible repeat' (first
    | assumption | apply State.ctrlWrite_only (hp := (fun x m => hp x (parts1_54 x m)))
    | apply State.laneEnable_only (hp := hp) | split | intro _)

theorem State.laneRetrain_only {σ : State} {ps : List Part} (s : State) (l : Nat) (hp : ∀ x ∈ parts54, x ∈ ps) (h : Only ps σ s) :
    Only ps σ (State.laneRetrain s l) := by
  unfold State.laneRetrain
  with_reducible repeat' (first | assumption | apply State.newSequence_only (hp := hp) | split)

theorem execRetrain_only {σ : State} {ps : List Part} (lane : Nat) (s : State) {t : State} (hp : ∀ x ∈ parts54, x ∈ ps) (h : Only ps σ s)
    (e : (execRetrain lane s) = .next t) : Only ps σ t := by
  unfold execRetrain at e
  refine Only.next ?_ e
  with_reducible repeat' (first
    | assumption | apply State.blockWrite_only (hp := (fun x m => hp x (parts1_54 x m)))
    | apply State.laneRetrain_only (hp := hp) | split | intro _)

theorem execLaneTrainGranted_only {σ : State} {ps : List Part} (lane : Nat) (s : State) {t : State} (hp : ∀ x ∈ parts48, x ∈ ps) (h : Only ps σ s)
    (e : (execLaneTrainGranted lane s) = .next t) : Only ps σ t := by
  unfold execLaneTrainGranted at e
  refine Only.next ?_ e
  with_reducible repeat' (first | assumption | apply State.enterTraining_only (hp := hp) | split)

theorem State.equalise_only {σ : State} {ps : List Part} (s : State) (l : Nat) (eyeH : Nat) (eyeW : Nat) (hp : ∀ x ∈ parts57, x ∈ ps) (h : Only ps σ s) :
    Only ps σ (State.equalise s l eyeH eyeW) := by
  unfold State.equalise
  with_reducible repeat' (first
    | assumption | apply State.draw_only (hp := (fun x m => hp x (parts6_57 x m)))
    | apply State.put_only (hp := (fun x m => hp x (parts1_57 x m)))
    | apply State.setLane_only (hp := (fun x m => hp x (parts42_57 x m))))

theorem State.adaptDone_only {σ : State} {ps : List Part} (s : State) (l : Nat) (hp : ∀ x ∈ parts57, x ∈ ps) (h : Only ps σ s) :
    Only ps σ (State.adaptDone s l) := by
  unfold State.adaptDone
  with_reducible repeat' (first
    | assumption | apply State.equalise_only (hp := hp)
    | apply State.setPhase_only (hp := (fun x m => hp x (parts1_57 x m)))
    | apply State.setLane_only (hp := (fun x m => hp x (parts42_57 x m))))

theorem State.freqTrack_only {σ : State} {ps : List Part} (s : State) (l : Nat) (hp : ∀ x ∈ parts58, x ∈ ps) (h : Only ps σ s) :
    Only ps σ (State.freqTrack s l) := by
  unfold State.freqTrack
  with_reducible repeat' (first
    | assumption | apply State.draw_only (hp := (fun x m => hp x (parts6_58 x m)))
    | apply State.putI_only (hp := (fun x m => hp x (parts1_58 x m))))

theorem State.cdrLocks_only {σ : State} {ps : List Part} (s : State) (l : Nat) (hp : ∀ x ∈ parts57, x ∈ ps) (h : Only ps σ s) :
    Only ps σ (State.cdrLocks s l) := by
  unfold State.cdrLocks
  with_reducible repeat' (first
    | assumption | apply State.setPhase_only (hp := (fun x m => hp x (parts1_57 x m)))
    | apply State.loseAlign_only (hp := (fun x m => hp x (parts48_57 x m)))
    | apply State.freqTrack_only (hp := (fun x m => hp x (parts58_57 x m)))
    | apply State.putB_only (hp := (fun x m => hp x (parts1_57 x m))))

theorem execTrainPhaseAdvance_only {σ : State} {ps : List Part} (lane : Nat) (s : State) {t : State} (hp : ∀ x ∈ parts57, x ∈ ps) (h : Only ps σ s)
    (e : (execTrainPhaseAdvance lane s) = .next t) : Only ps σ t := by
  unfold execTrainPhaseAdvance at e
  refine Only.next ?_ e
  with_reducible repeat' (first
    | assumption | apply State.setPhase_only (hp := (fun x m => hp x (parts1_57 x m)))
    | apply State.putB_only (hp := (fun x m => hp x (parts1_57 x m))) | apply State.cdrLocks_only (hp := hp)
    | apply State.adaptDone_only (hp := hp) | split)

theorem execConfirmCountDone_only {σ : State} {ps : List Part} (lane : Nat) (s : State) {t : State} (hp : ∀ x ∈ parts42, x ∈ ps) (h : Only ps σ s)
    (e : (execConfirmCountDone lane s) = .next t) : Only ps σ t := by
  unfold execConfirmCountDone at e
  refine Only.next ?_ e
  with_reducible repeat' (first | assumption | apply State.setLane_only (hp := hp) | split)

theorem execTrainPhaseTimeout_only {σ : State} {ps : List Part} (lane : Nat) (s : State) {t : State} (hp : ∀ x ∈ parts55, x ∈ ps) (h : Only ps σ s)
    (e : (execTrainPhaseTimeout lane s) = .next t) : Only ps σ t := by
  unfold execTrainPhaseTimeout at e
  refine Only.next ?_ e
  with_reducible repeat' (first | assumption | apply State.trainFail_only (hp := hp) | split)

theorem execTrainTotalTimeout_only {σ : State} {ps : List Part} (lane : Nat) (s : State) {t : State} (hp : ∀ x ∈ parts55, x ∈ ps) (h : Only ps σ s)
    (e : (execTrainTotalTimeout lane s) = .next t) : Only ps σ t := by
  unfold execTrainTotalTimeout at e
  refine Only.next ?_ e
  with_reducible repeat' (first | assumption | apply State.trainFail_only (hp := hp) | split)

theorem State.nextAttempt_only {σ : State} {ps : List Part} (s : State) (l : Nat) (hp : ∀ x ∈ parts54, x ∈ ps) (h : Only ps σ s) :
    Only ps σ (State.nextAttempt s l) := by
  unfold State.nextAttempt
  with_reducible repeat' (first | assumption | apply State.startAttempt_only (hp := hp))

theorem execBackoffExpiry_only {σ : State} {ps : List Part} (lane : Nat) (s : State) {t : State} (hp : ∀ x ∈ parts54, x ∈ ps) (h : Only ps σ s)
    (e : (execBackoffExpiry lane s) = .next t) : Only ps σ t := by
  unfold execBackoffExpiry at e
  refine Only.next ?_ e
  with_reducible repeat' (first | assumption | apply State.nextAttempt_only (hp := hp) | split)

theorem execEnergyDetect_only {σ : State} {ps : List Part} (lane : Nat) (s : State) {t : State} (hp : ∀ x ∈ parts54, x ∈ ps) (h : Only ps σ s)
    (e : (execEnergyDetect lane s) = .next t) : Only ps σ t := by
  unfold execEnergyDetect at e
  refine Only.next ?_ e
  with_reducible repeat' (first
    | assumption | apply State.putB_only (hp := (fun x m => hp x (parts1_54 x m)))
    | apply State.nextAttempt_only (hp := hp) | apply State.newSequence_only (hp := hp)
    | apply State.raise_only (hp := (fun x m => hp x (parts1_54 x m))) | split | intro _ | dsimp only)

theorem execBeaconBurst_only {σ : State} {ps : List Part} (lane : Nat) (s : State) {t : State} (hp : ∀ x ∈ parts48, x ∈ ps) (h : Only ps σ s)
    (e : (execBeaconBurst lane s) = .next t) : Only ps σ t := by
  unfold execBeaconBurst at e
  refine Only.next ?_ e
  with_reducible repeat' (first
    | assumption | apply State.put_only (hp := (fun x m => hp x (parts1_48 x m)))
    | apply State.setLane_only (hp := (fun x m => hp x (parts42_48 x m))) | split)

theorem State.cdrStill_only {σ : State} {ps : List Part} (s : State) (l : Nat) (hp : ∀ x ∈ parts58, x ∈ ps) (h : Only ps σ s) :
    Only ps σ (State.cdrStill s l).2 := by
  unfold State.cdrStill
  with_reducible repeat' (first
    | assumption | apply State.draw_only (hp := (fun x m => hp x (parts6_58 x m)))
    | apply State.putB_only (hp := (fun x m => hp x (parts1_58 x m))))

theorem State.lostTraining_only {σ : State} {ps : List Part} (s : State) (l : Nat) (hp : ∀ x ∈ parts54, x ∈ ps) (h : Only ps σ s) :
    Only ps σ (State.lostTraining s l) := by
  unfold State.lostTraining
  with_reducible repeat' (first
    | assumption | apply State.cdrStill_only (hp := (fun x m => hp x (parts58_54 x m)))
    | apply State.newSequence_only (hp := hp))

theorem execSpurHuntTimeout_only {σ : State} {ps : List Part} (lane : Nat) (s : State) {t : State} (hp : ∀ x ∈ parts54, x ∈ ps) (h : Only ps σ s)
    (e : (execSpurHuntTimeout lane s) = .next t) : Only ps σ t := by
  unfold execSpurHuntTimeout at e
  refine Only.next ?_ e
  with_reducible repeat' (first | assumption | apply State.lostTraining_only (hp := hp) | split)

theorem State.putSkew_only {σ : State} {ps : List Part} (s : State) (l : Nat) (z : Int) (hp : ∀ x ∈ parts58, x ∈ ps) (h : Only ps σ s) :
    Only ps σ (State.putSkew s l z) := by
  unfold State.putSkew
  with_reducible repeat' (first
    | assumption | apply State.putI_only (hp := (fun x m => hp x (parts1_58 x m)))
    | apply State.put_only (hp := (fun x m => hp x (parts1_58 x m)))
    | apply State.draw_only (hp := (fun x m => hp x (parts6_58 x m))) | split)

theorem State.formStep_only {σ : State} {ps : List Part} (s : State) (p : Nat) (c : Nat) (ok : Bool) (hp : ∀ x ∈ parts59, x ∈ ps) (h : Only ps σ s) :
    Only ps σ (State.formStep s p c ok) := by
  unfold State.formStep
  with_reducible repeat' (first
    | assumption | apply State.setPort_only (hp := (fun x m => hp x (parts43_59 x m)))
    | apply State.raisePort_only (hp := (fun x m => hp x (parts1_59 x m)))
    | apply State.setPortState_only (hp := (fun x m => hp x (parts1_59 x m))) | split | intro _
    | dsimp only)

theorem State.formMiss_only {σ : State} {ps : List Part} (s : State) (p : Nat) (hp : ∀ x ∈ parts1, x ∈ ps) (h : Only ps σ s) :
    Only ps σ (State.formMiss s p) := by
  unfold State.formMiss
  with_reducible repeat' (first | assumption | apply State.setPortState_only (hp := hp) | split)

theorem State.markerMiss_only {σ : State} {ps : List Part} (s : State) (l : Nat) (hp : ∀ x ∈ parts54, x ∈ ps) (h : Only ps σ s) :
    Only ps σ (State.markerMiss s l) := by
  unfold State.markerMiss
  with_reducible repeat' (first
    | assumption | apply State.raise_only (hp := (fun x m => hp x (parts1_54 x m)))
    | apply State.bump_only (hp := (fun x m => hp x (parts1_54 x m)))
    | apply State.setLane_only (hp := (fun x m => hp x (parts42_54 x m)))
    | apply State.formMiss_only (hp := (fun x m => hp x (parts1_54 x m)))
    | apply State.portActivity_only (hp := (fun x m => hp x (parts44_54 x m)))
    | apply State.portDown_only (hp := (fun x m => hp x (parts52_54 x m)))
    | apply State.putB_only (hp := (fun x m => hp x (parts1_54 x m)))
    | apply State.lostTraining_only (hp := hp) | split | intro _ | dsimp only)

theorem execMarkerMissing_only {σ : State} {ps : List Part} (lane : Nat) (s : State) {t : State} (hp : ∀ x ∈ parts54, x ∈ ps) (h : Only ps σ s)
    (e : (execMarkerMissing lane s) = .next t) : Only ps σ t := by
  unfold execMarkerMissing at e
  refine Only.next ?_ e
  with_reducible repeat' (first | assumption | apply State.markerMiss_only (hp := hp) | split)

theorem State.goodHeader_only {σ : State} {ps : List Part} (s : State) (l : Nat) (hp : ∀ x ∈ parts42, x ∈ ps) (h : Only ps σ s) :
    Only ps σ (State.goodHeader s l) := by
  unfold State.goodHeader
  with_reducible repeat' (first | assumption | apply State.setLane_only (hp := hp))

theorem State.trafficSeen_only {σ : State} {ps : List Part} (s : State) (l : Nat) (hp : ∀ x ∈ parts56, x ∈ ps) (h : Only ps σ s) :
    Only ps σ (State.trafficSeen s l) := by
  unfold State.trafficSeen
  with_reducible repeat' (first
    | assumption | apply State.setLane_only (hp := (fun x m => hp x (parts42_56 x m)))
    | apply State.goUp_only (hp := hp) | split | intro _ | dsimp only)

theorem State.badControl_only {σ : State} {ps : List Part} (s : State) (l : Nat) (hp : ∀ x ∈ parts48, x ∈ ps) (h : Only ps σ s) :
    Only ps σ (State.badControl s l) := by
  unfold State.badControl
  with_reducible repeat' (first
    | assumption | apply State.setLane_only (hp := (fun x m => hp x (parts42_48 x m)))
    | apply State.bump_only (hp := (fun x m => hp x (parts1_48 x m))))

theorem State.rxControl_only {σ : State} {ps : List Part} (s : State) (l : Nat) (ok : Bool) (f : State → State) (hp : ∀ x ∈ parts48, x ∈ ps) (hf : ∀ x, Only ps σ x → Only ps σ (f x)) (h : Only ps σ s) :
    Only ps σ (State.rxControl s l ok f) := by
  unfold State.rxControl
  with_reducible repeat' (first
    | assumption | apply hf | apply State.goodHeader_only (hp := (fun x m => hp x (parts42_48 x m)))
    | apply State.badControl_only (hp := hp) | split | intro _ | dsimp only)

theorem State.cellHeader_only {σ : State} {ps : List Part} (s : State) (l : Nat) (hp : ∀ x ∈ parts56, x ∈ ps) (h : Only ps σ s) :
    Only ps σ (State.cellHeader s l) := by
  unfold State.cellHeader
  with_reducible repeat' (first
    | assumption | apply State.goodHeader_only (hp := (fun x m => hp x (parts42_56 x m)))
    | apply State.trafficSeen_only (hp := hp) | split | intro _ | dsimp only)

theorem State.markerPartner_only {σ : State} {ps : List Part} (s : State) (l : Nat) (m : RxMarker) (hp : ∀ x ∈ parts1, x ∈ ps) (h : Only ps σ s) :
    Only ps σ (State.markerPartner s l m) := by
  unfold State.markerPartner
  with_reducible repeat' (first
    | assumption | apply State.put_only (hp := hp) | apply State.putB_only (hp := hp))

theorem State.markerForm_only {σ : State} {ps : List Part} (s : State) (l : Nat) (m : RxMarker) (hp : ∀ x ∈ parts52, x ∈ ps) (h : Only ps σ s) :
    Only ps σ (State.markerForm s l m) := by
  unfold State.markerForm
  with_reducible repeat' (first
    | assumption | apply State.formStep_only (hp := (fun x m => hp x (parts59_52 x m)))
    | apply State.putSkew_only (hp := (fun x m => hp x (parts58_52 x m))) | split)

theorem State.markerTake_only {σ : State} {ps : List Part} (s : State) (l : Nat) (m : RxMarker) (hp : ∀ x ∈ parts60, x ∈ ps) (h : Only ps σ s) :
    Only ps σ (State.markerTake s l m) := by
  unfold State.markerTake
  with_reducible repeat' (first
    | assumption | apply State.bump_only (hp := (fun x m => hp x (parts1_60 x m)))
    | apply State.setLane_only (hp := (fun x m => hp x (parts42_60 x m)))
    | apply State.portActivity_only (hp := (fun x m => hp x (parts44_60 x m)))
    | apply State.markerPartner_only (hp := (fun x m => hp x (parts1_60 x m)))
    | apply State.markerTime_only (hp := (fun x m => hp x (parts44_60 x m)))
    | apply State.markerForm_only (hp := (fun x m => hp x (parts52_60 x m))) | split)

theorem State.markerSkewed_only {σ : State} {ps : List Part} (s : State) (l : Nat) (m : RxMarker) (z : Int) (hp : ∀ x ∈ parts54, x ∈ ps) (h : Only ps σ s) :
    Only ps σ (State.markerSkewed s l m z) := by
  unfold State.markerSkewed
  with_reducible repeat' (first
    | assumption | apply State.putSkew_only (hp := (fun x m => hp x (parts58_54 x m)))
    | apply State.raise_only (hp := (fun x m => hp x (parts1_54 x m)))
    | apply State.markerMiss_only (hp := hp)
    | apply State.setLane_only (hp := (fun x m => hp x (parts42_54 x m))))

theorem State.markerAligned_only {σ : State} {ps : List Part} (s : State) (l : Nat) (m : RxMarker) (hp : ∀ x ∈ parts54, x ∈ ps) (h : Only ps σ s) :
    Only ps σ (State.markerAligned s l m) := by
  unfold State.markerAligned
  with_reducible repeat' (first
    | assumption | apply State.markerMiss_only (hp := hp) | apply State.markerSkewed_only (hp := hp)
    | apply State.markerTake_only (hp := (fun x m => hp x (parts60_54 x m))) | split)

theorem State.markerHunt_only {σ : State} {ps : List Part} (s : State) (l : Nat) (m : RxMarker) (hp : ∀ x ∈ parts60, x ∈ ps) (h : Only ps σ s) :
    Only ps σ (State.markerHunt s l m) := by
  unfold State.markerHunt
  with_reducible repeat' (first
    | assumption | apply State.markerTake_only (hp := hp)
    | apply State.putB_only (hp := (fun x m => hp x (parts1_60 x m)))
    | apply State.setLane_only (hp := (fun x m => hp x (parts42_60 x m))) | split | intro _ | dsimp only)

theorem State.markerReceive_only {σ : State} {ps : List Part} (s : State) (l : Nat) (body : Body) (arrive : Nat) (hp : ∀ x ∈ parts54, x ∈ ps) (h : Only ps σ s) :
    Only ps σ (State.markerReceive s l body arrive) := by
  unfold State.markerReceive
  with_reducible repeat' (first
    | assumption | apply State.goodHeader_only (hp := (fun x m => hp x (parts42_54 x m)))
    | apply State.putB_only (hp := (fun x m => hp x (parts1_54 x m)))
    | apply State.markerAligned_only (hp := hp)
    | apply State.markerHunt_only (hp := (fun x m => hp x (parts60_54 x m)))
    | apply State.markerMiss_only (hp := hp)
    | apply State.badControl_only (hp := (fun x m => hp x (parts48_54 x m))) | split | intro _ | dsimp only)

theorem execMarkerReceive_only {σ : State} {ps : List Part} (lane : Nat) (body : Body) (arrive : Nat) (s : State) {t : State} (hp : ∀ x ∈ parts54, x ∈ ps) (h : Only ps σ s)
    (e : (execMarkerReceive lane body arrive s) = .next t) : Only ps σ t := by
  unfold execMarkerReceive at e
  refine Only.next ?_ e
  with_reducible repeat' (first | assumption | apply State.markerReceive_only (hp := hp))

theorem execIdleReceive_only {σ : State} {ps : List Part} (lane : Nat) (body : Body) (s : State) {t : State} (hp : ∀ x ∈ parts56, x ∈ ps) (h : Only ps σ s)
    (e : (execIdleReceive lane body s) = .next t) : Only ps σ t := by
  unfold execIdleReceive at e
  refine Only.next ?_ e
  with_reducible repeat' (first
    | assumption | apply State.rxControl_only (hp := (fun x m => hp x (parts48_56 x m)))
    | apply State.trafficSeen_only (hp := hp)
    | apply State.bump_only (hp := (fun x m => hp x (parts1_56 x m))) | split | intro _)

theorem State.tsPartner_only {σ : State} {ps : List Part} (s : State) (l : Nat) (b : Body) (hp : ∀ x ∈ parts1, x ∈ ps) (h : Only ps σ s) :
    Only ps σ (State.tsPartner s l b) := by
  unfold State.tsPartner
  with_reducible repeat' (first
    | assumption | apply State.put_only (hp := hp) | apply State.putB_only (hp := hp))

theorem State.tsServe_only {σ : State} {ps : List Part} (s : State) (l : Nat) (b : Body) (f : State → State) (hp : ∀ x ∈ parts61, x ∈ ps) (hf : ∀ x, Only ps σ x → Only ps σ (f x)) (h : Only ps σ s) :
    Only ps σ (State.tsServe s l b f) := by
  unfold State.tsServe
  with_reducible repeat' (first
    | assumption | apply hf | apply State.trainFail_only (hp := (fun x m => hp x (parts55_61 x m)))
    | apply State.ffeAsk_only (hp := (fun x m => hp x (parts50_61 x m)))
    | apply State.ffeServe_only (hp := (fun x m => hp x (parts48_61 x m)))
    | apply State.ffeNote_only (hp := (fun x m => hp x (parts48_61 x m))) | split)

theorem State.noTraffic_only {σ : State} {ps : List Part} (s : State) (l : Nat) (hp : ∀ x ∈ parts42, x ∈ ps) (h : Only ps σ s) :
    Only ps σ (State.noTraffic s l) := by
  unfold State.noTraffic
  with_reducible repeat' (first | assumption | apply State.setLane_only (hp := hp))

theorem execTs1Receive_only {σ : State} {ps : List Part} (lane : Nat) (body : Body) (s : State) {t : State} (hp : ∀ x ∈ parts54, x ∈ ps) (h : Only ps σ s)
    (e : (execTs1Receive lane body s) = .next t) : Only ps σ t := by
  unfold execTs1Receive at e
  refine Only.next ?_ e
  with_reducible repeat' (first
    | assumption | apply State.rxControl_only (hp := (fun x m => hp x (parts48_54 x m)))
    | apply State.tsPartner_only (hp := (fun x m => hp x (parts1_54 x m)))
    | apply State.noTraffic_only (hp := (fun x m => hp x (parts42_54 x m)))
    | apply State.newSequence_only (hp := hp)
    | apply State.tsServe_only (hp := (fun x m => hp x (parts61_54 x m))) | simp only [id] | split
    | intro _)

theorem execTs2Receive_only {σ : State} {ps : List Part} (lane : Nat) (body : Body) (s : State) {t : State} (hp : ∀ x ∈ parts62, x ∈ ps) (h : Only ps σ s)
    (e : (execTs2Receive lane body s) = .next t) : Only ps σ t := by
  unfold execTs2Receive at e
  refine Only.next ?_ e
  with_reducible repeat' (first
    | assumption | apply State.rxControl_only (hp := (fun x m => hp x (parts48_62 x m)))
    | apply State.noTraffic_only (hp := (fun x m => hp x (parts42_62 x m)))
    | apply State.tsServe_only (hp := (fun x m => hp x (parts61_62 x m)))
    | apply State.tsPartner_only (hp := (fun x m => hp x (parts1_62 x m)))
    | apply State.goUp_only (hp := (fun x m => hp x (parts56_62 x m))) | split | intro _ | dsimp only)

theorem State.loopReturned_only {σ : State} {ps : List Part} (s : State) (l : Nat) (token : Word) (hp : ∀ x ∈ parts1, x ∈ ps) (h : Only ps σ s) :
    Only ps σ (State.loopReturned s l token) := by
  unfold State.loopReturned
  with_reducible repeat' (first
    | assumption | apply State.putB_only (hp := hp) | apply State.put_only (hp := hp)
    | apply State.raise_only (hp := hp))

theorem execLoopTestReceive_only {σ : State} {ps : List Part} (lane : Nat) (body : Body) (s : State) {t : State} (hp : ∀ x ∈ parts56, x ∈ ps) (h : Only ps σ s)
    (e : (execLoopTestReceive lane body s) = .next t) : Only ps σ t := by
  unfold execLoopTestReceive at e
  refine Only.next ?_ e
  with_reducible repeat' (first
    | assumption | apply State.rxControl_only (hp := (fun x m => hp x (parts48_56 x m)))
    | apply State.trafficSeen_only (hp := hp)
    | apply State.setLane_only (hp := (fun x m => hp x (parts42_56 x m)))
    | apply State.loopReturned_only (hp := (fun x m => hp x (parts1_56 x m))) | split | intro _
    | dsimp only)

theorem State.headerLoss_only {σ : State} {ps : List Part} (s : State) (l : Nat) (hp : ∀ x ∈ parts60, x ∈ ps) (h : Only ps σ s) :
    Only ps σ (State.headerLoss s l) := by
  unfold State.headerLoss
  with_reducible repeat' (first
    | assumption | apply State.loseAlign_only (hp := (fun x m => hp x (parts48_60 x m)))
    | apply State.raise_only (hp := (fun x m => hp x (parts1_60 x m)))
    | apply State.portActivity_only (hp := (fun x m => hp x (parts44_60 x m)))
    | apply State.setLane_only (hp := (fun x m => hp x (parts42_60 x m)))
    | apply State.portDown_only (hp := (fun x m => hp x (parts52_60 x m))) | split | intro _ | dsimp only)

theorem execInvalidHeader_only {σ : State} {ps : List Part} (lane : Nat) (s : State) {t : State} (hp : ∀ x ∈ parts60, x ∈ ps) (h : Only ps σ s)
    (e : (execInvalidHeader lane s) = .next t) : Only ps σ t := by
  unfold execInvalidHeader at e
  refine Only.next ?_ e
  with_reducible repeat' (first
    | assumption | apply State.bump_only (hp := (fun x m => hp x (parts1_60 x m)))
    | apply State.setLane_only (hp := (fun x m => hp x (parts42_60 x m)))
    | apply State.headerLoss_only (hp := hp) | split | intro _ | dsimp only)

theorem State.setChkLock_only {σ : State} {ps : List Part} (s : State) (l : Nat) (b : Bool) (hp : ∀ x ∈ parts48, x ∈ ps) (h : Only ps σ s) :
    Only ps σ (State.setChkLock s l b) := by
  unfold State.setChkLock
  with_reducible repeat' (first
    | assumption | apply State.putB_only (hp := (fun x m => hp x (parts1_48 x m)))
    | apply State.setLane_only (hp := (fun x m => hp x (parts42_48 x m))))

theorem State.chkRestart_only {σ : State} {ps : List Part} (s : State) (l : Nat) (hp : ∀ x ∈ parts48, x ∈ ps) (h : Only ps σ s) :
    Only ps σ (State.chkRestart s l) := by
  unfold State.chkRestart
  with_reducible repeat' (first
    | assumption | apply State.setChkLock_only (hp := hp)
    | apply State.setLane_only (hp := (fun x m => hp x (parts42_48 x m))))

theorem execChkRestart_only {σ : State} {ps : List Part} (lane : Nat) (s : State) {t : State} (hp : ∀ x ∈ parts48, x ∈ ps) (h : Only ps σ s)
    (e : (execChkRestart lane s) = .next t) : Only ps σ t := by
  unfold execChkRestart at e
  refine Only.next ?_ e
  with_reducible repeat' (first
    | assumption | apply State.blockWrite_only (hp := (fun x m => hp x (parts1_48 x m)))
    | apply State.chkRestart_only (hp := hp) | split | intro _)

theorem State.testFields_only {σ : State} {ps : List Part} (s : State) (l : Nat) (v : Nat) (hp : ∀ x ∈ parts48, x ∈ ps) (h : Only ps σ s) :
    Only ps σ (State.testFields s l v) := by
  unfold State.testFields
  with_reducible repeat' (first
    | assumption | apply State.setChkLock_only (hp := hp)
    | apply State.setLane_only (hp := (fun x m => hp x (parts42_48 x m)))
    | apply State.put_only (hp := (fun x m => hp x (parts1_48 x m)))
    | apply State.chkRestart_only (hp := hp) | split)

theorem State.testLeave_only {σ : State} {ps : List Part} (s : State) (l : Nat) (hp : ∀ x ∈ parts54, x ∈ ps) (h : Only ps σ s) :
    Only ps σ (State.testLeave s l) := by
  unfold State.testLeave
  with_reducible repeat' (first
    | assumption | apply State.setChkLock_only (hp := (fun x m => hp x (parts48_54 x m)))
    | apply State.newSequence_only (hp := hp)
    | apply State.setPhase_only (hp := (fun x m => hp x (parts1_54 x m)))
    | apply State.endBurst_only (hp := (fun x m => hp x (parts48_54 x m)))
    | apply State.release_only (hp := (fun x m => hp x (parts12_54 x m))) | split | intro _ | dsimp only)

theorem State.testCtrl_only {σ : State} {ps : List Part} (s : State) (l : Nat) (v : Nat) (hp : ∀ x ∈ parts54, x ∈ ps) (h : Only ps σ s) :
    Only ps σ (State.testCtrl s l v) := by
  unfold State.testCtrl
  with_reducible repeat' (first
    | assumption | apply State.log_only (hp := (fun x m => hp x (parts1_54 x m)))
    | apply State.testFields_only (hp := (fun x m => hp x (parts48_54 x m)))
    | apply State.testLeave_only (hp := hp) | apply State.startAttempt_only (hp := hp) | split | intro _
    | dsimp only)

theorem execTestCtrlWrite_only {σ : State} {ps : List Part} (lane : Nat) (value : Word) (s : State) {t : State} (hp : ∀ x ∈ parts54, x ∈ ps) (h : Only ps σ s)
    (e : (execTestCtrlWrite lane value s) = .next t) : Only ps σ t := by
  unfold execTestCtrlWrite at e
  refine Only.next ?_ e
  with_reducible repeat' (first
    | assumption | apply State.blockWrite_only (hp := (fun x m => hp x (parts1_54 x m)))
    | apply State.testCtrl_only (hp := hp) | split | intro _)

theorem execChkLocked_only {σ : State} {ps : List Part} (lane : Nat) (s : State) {t : State} (hp : ∀ x ∈ parts48, x ∈ ps) (h : Only ps σ s)
    (e : (execChkLocked lane s) = .next t) : Only ps σ t := by
  unfold execChkLocked at e
  refine Only.next ?_ e
  with_reducible repeat' (first | assumption | apply State.setChkLock_only (hp := hp) | split)

theorem State.chkLost_only {σ : State} {ps : List Part} (s : State) (l : Nat) (hp : ∀ x ∈ parts48, x ∈ ps) (h : Only ps σ s) :
    Only ps σ (State.chkLost s l) := by
  unfold State.chkLost
  with_reducible repeat' (first
    | assumption | apply State.raise_only (hp := (fun x m => hp x (parts1_48 x m)))
    | apply State.setChkLock_only (hp := hp))

theorem execChkLockLost_only {σ : State} {ps : List Part} (lane : Nat) (s : State) {t : State} (hp : ∀ x ∈ parts57, x ∈ ps) (h : Only ps σ s)
    (e : (execChkLockLost lane s) = .next t) : Only ps σ t := by
  unfold execChkLockLost at e
  refine Only.next ?_ e
  with_reducible repeat' (first
    | assumption | apply State.draw_only (hp := (fun x m => hp x (parts6_57 x m)))
    | apply State.chkLost_only (hp := (fun x m => hp x (parts48_57 x m)))
    | apply State.bump_only (hp := (fun x m => hp x (parts1_57 x m))) | split)

theorem State.chkLatch_only {σ : State} {ps : List Part} (s : State) (l : Nat) (hp : ∀ x ∈ parts1, x ∈ ps) (h : Only ps σ s) :
    Only ps σ (State.chkLatch s l) := by
  unfold State.chkLatch
  with_reducible repeat' (first | assumption | apply State.put_only (hp := hp))

theorem execChkBitsLoRead_only {σ : State} {ps : List Part} (lane : Nat) (s : State) {t : State} (hp : ∀ x ∈ parts8, x ∈ ps) (h : Only ps σ s)
    (e : (execChkBitsLoRead lane s) = .next t) : Only ps σ t := by
  unfold execChkBitsLoRead at e
  refine Only.next ?_ e
  with_reducible repeat' (first
    | assumption | apply State.blockRead_only (hp := hp)
    | apply State.chkLatch_only (hp := (fun x m => hp x (parts1_8 x m)))
    | fail_if_no_progress apply Only.upd_readData (hp := (fun x m => hp x (parts9_8 x m))) | split
    | intro _)

theorem State.injectWrong_only {σ : State} {ps : List Part} (s : State) (l : Nat) (n : Nat) (hp : ∀ x ∈ parts48, x ∈ ps) (h : Only ps σ s) :
    Only ps σ (State.injectWrong s l n) := by
  unfold State.injectWrong
  with_reducible repeat' (first
    | assumption | apply State.bump_only (hp := (fun x m => hp x (parts1_48 x m)))
    | apply State.chkLost_only (hp := hp) | split | intro _ | dsimp only)

theorem State.inject_only {σ : State} {ps : List Part} (s : State) (l : Nat) (hp : ∀ x ∈ parts57, x ∈ ps) (h : Only ps σ s) :
    Only ps σ (State.inject s l) := by
  unfold State.inject
  with_reducible repeat' (first
    | assumption | apply State.draw_only (hp := (fun x m => hp x (parts6_57 x m)))
    | apply State.injectWrong_only (hp := (fun x m => hp x (parts48_57 x m)))
    | apply State.setLane_only (hp := (fun x m => hp x (parts42_57 x m))))

theorem State.injCtrl_only {σ : State} {ps : List Part} (s : State) (l : Nat) (v : Nat) (hp : ∀ x ∈ parts57, x ∈ ps) (h : Only ps σ s) :
    Only ps σ (State.injCtrl s l v) := by
  unfold State.injCtrl
  with_reducible repeat' (first
    | assumption | apply State.log_only (hp := (fun x m => hp x (parts1_57 x m)))
    | apply State.put_only (hp := (fun x m => hp x (parts1_57 x m)))
    | apply State.setLane_only (hp := (fun x m => hp x (parts42_57 x m)))
    | apply State.inject_only (hp := hp) | split | intro _ | dsimp only)

theorem execInjGo_only {σ : State} {ps : List Part} (lane : Nat) (value : Word) (s : State) {t : State} (hp : ∀ x ∈ parts57, x ∈ ps) (h : Only ps σ s)
    (e : (execInjGo lane value s) = .next t) : Only ps σ t := by
  unfold execInjGo at e
  refine Only.next ?_ e
  with_reducible repeat' (first
    | assumption | apply State.blockWrite_only (hp := (fun x m => hp x (parts1_57 x m)))
    | apply State.injCtrl_only (hp := hp) | split | intro _)

theorem execInjPeriod_only {σ : State} {ps : List Part} (lane : Nat) (s : State) {t : State} (hp : ∀ x ∈ parts57, x ∈ ps) (h : Only ps σ s)
    (e : (execInjPeriod lane s) = .next t) : Only ps σ t := by
  unfold execInjPeriod at e
  refine Only.next ?_ e
  with_reducible repeat' (first
    | assumption | apply State.log_only (hp := (fun x m => hp x (parts1_57 x m)))
    | apply State.inject_only (hp := hp) | split)

theorem State.ltSend_only {σ : State} {ps : List Part} (s : State) (l : Nat) (hp : ∀ x ∈ parts48, x ∈ ps) (h : Only ps σ s) :
    Only ps σ (State.ltSend s l) := by
  unfold State.ltSend
  with_reducible repeat' (first
    | assumption | apply State.log_only (hp := (fun x m => hp x (parts1_48 x m)))
    | apply State.setLane_only (hp := (fun x m => hp x (parts42_48 x m)))
    | apply State.putB_only (hp := (fun x m => hp x (parts1_48 x m))) | split | intro _ | dsimp only)

theorem execLtSend_only {σ : State} {ps : List Part} (lane : Nat) (s : State) {t : State} (hp : ∀ x ∈ parts48, x ∈ ps) (h : Only ps σ s)
    (e : (execLtSend lane s) = .next t) : Only ps σ t := by
  unfold execLtSend at e
  refine Only.next ?_ e
  with_reducible repeat' (first
    | assumption | apply State.blockWrite_only (hp := (fun x m => hp x (parts1_48 x m)))
    | apply State.ltSend_only (hp := hp) | split | intro _)

theorem execLtTimeout_only {σ : State} {ps : List Part} (lane : Nat) (s : State) {t : State} (hp : ∀ x ∈ parts1, x ∈ ps) (h : Only ps σ s)
    (e : (execLtTimeout lane s) = .next t) : Only ps σ t := by
  unfold execLtTimeout at e
  refine Only.next ?_ e
  with_reducible repeat' (first
    | assumption | apply State.raise_only (hp := hp) | apply State.putB_only (hp := hp) | split)

theorem State.sendMarker_only {σ : State} {ps : List Part} (s : State) (l : Nat) (hp : ∀ x ∈ parts50, x ∈ ps) (h : Only ps σ s) :
    Only ps σ (State.sendMarker s l) := by
  unfold State.sendMarker
  with_reducible repeat' (first
    | assumption | apply State.makeMarker_only (hp := (fun x m => hp x (parts6_50 x m)))
    | apply State.setLane_only (hp := (fun x m => hp x (parts42_50 x m))))

theorem State.chkCycle_only {σ : State} {ps : List Part} (s : State) (l : Nat) (hp : ∀ x ∈ parts57, x ∈ ps) (h : Only ps σ s) :
    Only ps σ (State.chkCycle s l) := by
  unfold State.chkCycle
  with_reducible repeat' (first
    | assumption | apply State.setLane_only (hp := (fun x m => hp x (parts42_57 x m)))
    | apply State.draw_only (hp := (fun x m => hp x (parts6_57 x m)))
    | apply State.bump_only (hp := (fun x m => hp x (parts1_57 x m))) | split | intro _ | dsimp only)

theorem State.rxCycle_only {σ : State} {ps : List Part} (s : State) (l : Nat) (hp : ∀ x ∈ parts57, x ∈ ps) (h : Only ps σ s) :
    Only ps σ (State.rxCycle s l) := by
  unfold State.rxCycle
  with_reducible repeat' (first
    | assumption | apply State.equalise_only (hp := hp)
    | apply State.freqTrack_only (hp := (fun x m => hp x (parts58_57 x m)))
    | apply State.draw_only (hp := (fun x m => hp x (parts6_57 x m)))
    | apply State.setLane_only (hp := (fun x m => hp x (parts42_57 x m)))
    | apply State.bump_only (hp := (fun x m => hp x (parts1_57 x m))) | split | intro _ | dsimp only)

theorem State.txCycle_only {σ : State} {ps : List Part} (s : State) (l : Nat) (hp : ∀ x ∈ parts63, x ∈ ps) (h : Only ps σ s) :
    Only ps σ (State.txCycle s l) := by
  unfold State.txCycle
  with_reducible repeat' (first
    | assumption | apply State.setLane_only (hp := (fun x m => hp x (parts42_63 x m)))
    | apply State.settleLine_only (hp := (fun x m => hp x (parts51_63 x m)))
    | apply State.testLine_only (hp := (fun x m => hp x (parts50_63 x m)))
    | apply State.sendMarker_only (hp := (fun x m => hp x (parts50_63 x m))) | split | intro _ | dsimp only)

theorem State.laneCycle_only {σ : State} {ps : List Part} (s : State) (l : Nat) (hp : ∀ x ∈ parts63, x ∈ ps) (h : Only ps σ s) :
    Only ps σ (State.laneCycle s l) := by
  unfold State.laneCycle
  with_reducible repeat' (first
    | assumption | apply State.txCycle_only (hp := hp)
    | apply State.rxCycle_only (hp := (fun x m => hp x (parts57_63 x m)))
    | apply State.chkCycle_only (hp := (fun x m => hp x (parts57_63 x m)))
    | apply State.endBurst_only (hp := (fun x m => hp x (parts48_63 x m)))
    | apply State.setLane_only (hp := (fun x m => hp x (parts42_63 x m))) | split | intro _ | dsimp only)

theorem State.setStat_only {σ : State} {ps : List Part} (s : State) (id : Nat) (v : StreamStat) (hp : ∀ x ∈ parts43, x ∈ ps) (h : Only ps σ s) :
    Only ps σ (State.setStat s id v) := by
  unfold State.setStat
  with_reducible repeat' (first | assumption | fail_if_no_progress apply Only.upd_ring (hp := hp))

theorem State.countUnderrun_only {σ : State} {ps : List Part} (s : State) (id : Nat) (hp : ∀ x ∈ parts59, x ∈ ps) (h : Only ps σ s) :
    Only ps σ (State.countUnderrun s id) := by
  unfold State.countUnderrun
  with_reducible repeat' (first
    | assumption | apply State.raise_only (hp := (fun x m => hp x (parts1_59 x m)))
    | apply State.bump_only (hp := (fun x m => hp x (parts1_59 x m)))
    | apply State.setStat_only (hp := (fun x m => hp x (parts43_59 x m))))

theorem State.countLate_only {σ : State} {ps : List Part} (s : State) (id : Nat) (hp : ∀ x ∈ parts59, x ∈ ps) (h : Only ps σ s) :
    Only ps σ (State.countLate s id) := by
  unfold State.countLate
  with_reducible repeat' (first
    | assumption | apply State.raise_only (hp := (fun x m => hp x (parts1_59 x m)))
    | apply State.bump_only (hp := (fun x m => hp x (parts1_59 x m)))
    | apply State.setStat_only (hp := (fun x m => hp x (parts43_59 x m))))

theorem State.countMismatch_only {σ : State} {ps : List Part} (s : State) (id : Nat) (hp : ∀ x ∈ parts59, x ∈ ps) (h : Only ps σ s) :
    Only ps σ (State.countMismatch s id) := by
  unfold State.countMismatch
  with_reducible repeat' (first
    | assumption | apply State.raise_only (hp := (fun x m => hp x (parts1_59 x m)))
    | apply State.put_only (hp := (fun x m => hp x (parts1_59 x m)))
    | apply State.bump_only (hp := (fun x m => hp x (parts1_59 x m)))
    | apply State.setStat_only (hp := (fun x m => hp x (parts43_59 x m))))

theorem State.countFallback_only {σ : State} {ps : List Part} (s : State) (id : Nat) (hp : ∀ x ∈ parts59, x ∈ ps) (h : Only ps σ s) :
    Only ps σ (State.countFallback s id) := by
  unfold State.countFallback
  with_reducible repeat' (first
    | assumption | apply State.raise_only (hp := (fun x m => hp x (parts1_59 x m)))
    | apply State.bump_only (hp := (fun x m => hp x (parts1_59 x m)))
    | apply State.setStat_only (hp := (fun x m => hp x (parts43_59 x m))))

theorem State.streamStatRead_only {σ : State} {ps : List Part} (s : State) (hp : ∀ x ∈ parts64, x ∈ ps) (h : Only ps σ s) :
    Only ps σ (State.streamStatRead s) := by
  unfold State.streamStatRead
  with_reducible repeat' (first
    | assumption | apply State.setStat_only (hp := (fun x m => hp x (parts43_64 x m)))
    | fail_if_no_progress apply Only.upd_readData (hp := (fun x m => hp x (parts9_64 x m))))

theorem execStreamStatRead_only {σ : State} {ps : List Part} (s : State) {t : State} (hp : ∀ x ∈ parts65, x ∈ ps) (h : Only ps σ s)
    (e : (execStreamStatRead s) = .next t) : Only ps σ t := by
  unfold execStreamStatRead at e
  refine Only.next ?_ e
  with_reducible repeat' (first
    | assumption | apply State.blockRead_only (hp := (fun x m => hp x (parts8_65 x m)))
    | apply State.streamStatRead_only (hp := (fun x m => hp x (parts64_65 x m))))

theorem State.cellExtract_only {σ : State} {ps : List Part} (s : State) (c : Cell) (o : Nat) (arrive : Nat) (hp : ∀ x ∈ parts66, x ∈ ps) (h : Only ps σ s) :
    Only ps σ (State.cellExtract s c o arrive) := by
  unfold State.cellExtract
  with_reducible repeat' (first
    | assumption | apply State.raise_only (hp := (fun x m => hp x (parts1_66 x m)))
    | apply State.bump_only (hp := (fun x m => hp x (parts1_66 x m)))
    | apply State.countLate_only (hp := (fun x m => hp x (parts59_66 x m)))
    | apply State.storeWrite_only (hp := (fun x m => hp x (parts16_66 x m)))
    | fail_if_no_progress apply Only.upd_ring (hp := (fun x m => hp x (parts43_66 x m))) | split | intro _
    | dsimp only)

theorem State.entryNote_only {σ : State} {ps : List Part} (s : State) (id : Nat) (j : Nat) (hp : ∀ x ∈ parts15, x ∈ ps) (h : Only ps σ s) :
    Only ps σ (State.entryNote s id j) := by
  unfold State.entryNote
  with_reducible repeat' (first | assumption | apply State.storeRead_only (hp := hp))

theorem State.presentTo_only {σ : State} {ps : List Part} (s : State) (id : Nat) (smp : List Word) (hp : ∀ x ∈ parts67, x ∈ ps) (h : Only ps σ s) :
    Only ps σ (State.presentTo s id smp) := by
  unfold State.presentTo
  with_reducible repeat' (first | assumption | fail_if_no_progress apply Only.upd_fseq_ring (hp := hp))

theorem State.presentOne_only {σ : State} {ps : List Part} (s : State) (id : Nat) (j : Nat) (o : Nat) (hp : ∀ x ∈ parts68, x ∈ ps) (h : Only ps σ s) :
    Only ps σ (State.presentOne s id j o) := by
  unfold State.presentOne
  with_reducible repeat' (first
    | assumption | apply State.entryNote_only (hp := (fun x m => hp x (parts15_68 x m)))
    | apply State.countMismatch_only (hp := (fun x m => hp x (parts59_68 x m)))
    | apply State.presentTo_only (hp := (fun x m => hp x (parts67_68 x m)))
    | apply State.countFallback_only (hp := (fun x m => hp x (parts59_68 x m)))
    | apply State.countUnderrun_only (hp := (fun x m => hp x (parts59_68 x m))) | split | intro _
    | dsimp only)

theorem State.presentAll_only {σ : State} {ps : List Part} (s : State) (second : Bool) (hp : ∀ x ∈ parts68, x ∈ ps) (h : Only ps σ s) :
    Only ps σ (State.presentAll s second) := by
  unfold State.presentAll
  with_reducible repeat' (first
    | assumption | apply State.presentOne_only (hp := hp) | (refine Only.foldl ?_ (fun _ _ _ => ?_))
    | (refine Only.foldl_snd ?_ (fun _ _ _ => ?_)) | (refine Only.foldl_fst ?_ (fun _ _ _ => ?_)) | split)

theorem State.streamRestart_only {σ : State} {ps : List Part} (s : State) (id : Nat) (b : Word) (hp : ∀ x ∈ parts43, x ∈ ps) (h : Only ps σ s) :
    Only ps σ (State.streamRestart s id b) := by
  unfold State.streamRestart
  with_reducible repeat' (first | assumption | fail_if_no_progress apply Only.upd_ring (hp := hp))

theorem State.restartStreams_only {σ : State} {ps : List Part} (s : State) (hp : ∀ x ∈ parts43, x ∈ ps) (h : Only ps σ s) :
    Only ps σ (State.restartStreams s) := by
  unfold State.restartStreams
  with_reducible repeat' (first
    | assumption | apply State.streamRestart_only (hp := hp) | (refine Only.foldl ?_ (fun _ _ _ => ?_)))

theorem State.placeCell_only {σ : State} {ps : List Part} (s : State) (p : Nat) (lidx : Nat) (c : TxCell) (hp : ∀ x ∈ parts59, x ∈ ps) (h : Only ps σ s) :
    Only ps σ (State.placeCell s p lidx c) := by
  unfold State.placeCell
  with_reducible repeat' (first
    | assumption | apply State.bump_only (hp := (fun x m => hp x (parts1_59 x m)))
    | apply State.setPort_only (hp := (fun x m => hp x (parts43_59 x m))))

theorem State.waitCell_only {σ : State} {ps : List Part} (s : State) (p : Nat) (c : TxCell) (hp : ∀ x ∈ parts43, x ∈ ps) (h : Only ps σ s) :
    Only ps σ (State.waitCell s p c) := by
  unfold State.waitCell
  with_reducible repeat' (first | assumption | apply State.setPort_only (hp := hp))

theorem State.spillCell_only {σ : State} {ps : List Part} (s : State) (p : Nat) (c : TxCell) (hp : ∀ x ∈ parts43, x ∈ ps) (h : Only ps σ s) :
    Only ps σ (State.spillCell s p c) := by
  unfold State.spillCell
  with_reducible repeat' (first | assumption | apply State.setPort_only (hp := hp))

theorem State.spillNote_only {σ : State} {ps : List Part} (s : State) (hp : ∀ x ∈ parts1, x ∈ ps) (h : Only ps σ s) :
    Only ps σ (State.spillNote s) := by
  unfold State.spillNote
  with_reducible repeat' (first
    | assumption | apply State.raise_only (hp := hp) | apply State.bump_only (hp := hp))

theorem State.forwardTo_only {σ : State} {ps : List Part} (s : State) (t : Nat) (c : TxCell) (hp : ∀ x ∈ parts59, x ∈ ps) (h : Only ps σ s) :
    Only ps σ (State.forwardTo s t c) := by
  unfold State.forwardTo
  with_reducible repeat' (first
    | assumption | apply State.waitCell_only (hp := (fun x m => hp x (parts43_59 x m)))
    | apply State.placeCell_only (hp := hp)
    | apply State.spillCell_only (hp := (fun x m => hp x (parts43_59 x m))) | split | intro _ | dsimp only)

theorem State.spurSend_only {σ : State} {ps : List Part} (s : State) (fresh : Bool) (k : Nat) (c : TxCell) (hp : ∀ x ∈ parts59, x ∈ ps) (h : Only ps σ s) :
    Only ps σ (State.spurSend s fresh k c) := by
  unfold State.spurSend
  with_reducible repeat' (first
    | assumption | apply State.placeCell_only (hp := hp)
    | apply State.spillCell_only (hp := (fun x m => hp x (parts43_59 x m)))
    | apply State.spillNote_only (hp := (fun x m => hp x (parts1_59 x m))) | split | intro _ | dsimp only)

theorem State.relaySpurs_only {σ : State} {ps : List Part} (s : State) (c : TxCell) (o : Nat) (origin_ : Option Nat) (hp : ∀ x ∈ parts59, x ∈ ps) (h : Only ps σ s) :
    Only ps σ (State.relaySpurs s c o origin_) := by
  unfold State.relaySpurs
  with_reducible repeat' (first
    | assumption | apply State.spurSend_only (hp := hp) | (refine Only.foldl ?_ (fun _ _ _ => ?_))
    | (refine Only.foldl_snd ?_ (fun _ _ _ => ?_)) | (refine Only.foldl_fst ?_ (fun _ _ _ => ?_))
    | fail_if_no_progress apply Only.upd_ring (hp := (fun x m => hp x (parts43_59 x m))) | split | intro _
    | dsimp only)

theorem State.cellBad_only {σ : State} {ps : List Part} (s : State) (p : Nat) (hp : ∀ x ∈ parts1, x ∈ ps) (h : Only ps σ s) :
    Only ps σ (State.cellBad s p) := by
  unfold State.cellBad
  with_reducible repeat' (first
    | assumption | apply State.raise_only (hp := hp) | apply State.bump_only (hp := hp))

theorem State.cellValid_only {σ : State} {ps : List Part} (s : State) (t : Nat) (c : Cell) (o : Nat) (arrive : Nat) (hp : ∀ x ∈ parts66, x ∈ ps) (h : Only ps σ s) :
    Only ps σ (State.cellValid s t c o arrive) := by
  unfold State.cellValid
  with_reducible repeat' (first
    | assumption | apply State.bump_only (hp := (fun x m => hp x (parts1_66 x m)))
    | apply State.forwardTo_only (hp := (fun x m => hp x (parts59_66 x m)))
    | apply State.relaySpurs_only (hp := (fun x m => hp x (parts59_66 x m)))
    | apply State.cellExtract_only (hp := hp) | split | intro _ | dsimp only)

theorem execCellReceive_only {σ : State} {ps : List Part} (trunk : Nat) (cell : Cell) (arrive : Nat) (s : State) {t : State} (hp : ∀ x ∈ parts69, x ∈ ps) (h : Only ps σ s)
    (e : (execCellReceive trunk cell arrive s) = .next t) : Only ps σ t := by
  unfold execCellReceive at e
  refine Only.next ?_ e
  with_reducible repeat' (first
    | assumption | apply State.cellHeader_only (hp := (fun x m => hp x (parts56_69 x m)))
    | apply State.cellBad_only (hp := (fun x m => hp x (parts1_69 x m)))
    | apply State.cellValid_only (hp := (fun x m => hp x (parts66_69 x m))) | split | intro _ | dsimp only)

theorem State.injectFrom_only {σ : State} {ps : List Part} (s : State) (e : StreamEnt) (c : TxCell) (hp : ∀ x ∈ parts43, x ∈ ps) (h : Only ps σ s) :
    Only ps σ (State.injectFrom s e c) := by
  unfold State.injectFrom
  with_reducible repeat' (first | assumption | apply State.setPort_only (hp := hp) | split)

theorem State.spurValid_only {σ : State} {ps : List Part} (s : State) (k : Nat) (c : Cell) (o : Nat) (arrive : Nat) (hp : ∀ x ∈ parts66, x ∈ ps) (h : Only ps σ s) :
    Only ps σ (State.spurValid s k c o arrive) := by
  unfold State.spurValid
  with_reducible repeat' (first
    | assumption | apply State.bump_only (hp := (fun x m => hp x (parts1_66 x m)))
    | apply State.relaySpurs_only (hp := (fun x m => hp x (parts59_66 x m)))
    | apply State.cellExtract_only (hp := hp)
    | apply State.injectFrom_only (hp := (fun x m => hp x (parts43_66 x m))) | split | intro _ | dsimp only)

theorem execSpurCellReceive_only {σ : State} {ps : List Part} (spur : Nat) (cell : Cell) (arrive : Nat) (s : State) {t : State} (hp : ∀ x ∈ parts69, x ∈ ps) (h : Only ps σ s)
    (e : (execSpurCellReceive spur cell arrive s) = .next t) : Only ps σ t := by
  unfold execSpurCellReceive at e
  refine Only.next ?_ e
  with_reducible repeat' (first
    | assumption | apply State.cellHeader_only (hp := (fun x m => hp x (parts56_69 x m)))
    | apply State.cellBad_only (hp := (fun x m => hp x (parts1_69 x m)))
    | apply State.spurValid_only (hp := (fun x m => hp x (parts66_69 x m))) | split | intro _ | dsimp only)

theorem State.wrapDrop_only {σ : State} {ps : List Part} (s : State) (t : Nat) (c : TxCell) (hp : ∀ x ∈ parts1, x ∈ ps) (h : Only ps σ s) :
    Only ps σ (State.wrapDrop s t c) := by
  unfold State.wrapDrop
  with_reducible repeat' (first
    | assumption | apply State.raise_only (hp := hp) | apply State.bump_only (hp := hp) | split)

theorem execWrappedCellExpiry_only {σ : State} {ps : List Part} (trunk : Nat) (s : State) {t : State} (hp : ∀ x ∈ parts59, x ∈ ps) (h : Only ps σ s)
    (e : (execWrappedCellExpiry trunk s) = .next t) : Only ps σ t := by
  unfold execWrappedCellExpiry at e
  refine Only.next ?_ e
  with_reducible repeat' (first
    | assumption | apply State.wrapDrop_only (hp := (fun x m => hp x (parts1_59 x m)))
    | apply State.setPort_only (hp := (fun x m => hp x (parts43_59 x m))) | split)

theorem State.formCells_only {σ : State} {ps : List Part} (s : State) (read : Nat → Word × Bool) (j : Nat) (hp : ∀ x ∈ parts43, x ∈ ps) (h : Only ps σ s) :
    Only ps σ (State.formCells s read j) := by
  unfold State.formCells
  with_reducible repeat' (first | assumption | fail_if_no_progress apply Only.upd_ring (hp := hp) | split)

theorem State.injectCell_only {σ : State} {ps : List Part} (s : State) (o : Nat) (c : Cell) (hp : ∀ x ∈ parts59, x ∈ ps) (h : Only ps σ s) :
    Only ps σ (State.injectCell s o c) := by
  unfold State.injectCell
  with_reducible repeat' (first
    | assumption | apply State.relaySpurs_only (hp := hp)
    | apply State.injectFrom_only (hp := (fun x m => hp x (parts43_59 x m))))

theorem State.injectFormed_only {σ : State} {ps : List Part} (s : State) (hp : ∀ x ∈ parts59, x ∈ ps) (h : Only ps σ s) :
    Only ps σ (State.injectFormed s) := by
  unfold State.injectFormed
  with_reducible repeat' (first
    | assumption | apply State.injectCell_only (hp := hp) | (refine Only.foldl ?_ (fun _ _ _ => ?_))
    | (refine Only.foldl_snd ?_ (fun _ _ _ => ?_)) | (refine Only.foldl_fst ?_ (fun _ _ _ => ?_))
    | fail_if_no_progress apply Only.upd_ring (hp := (fun x m => hp x (parts43_59 x m))))

theorem State.settleOne_only {σ : State} {ps : List Part} (s : State) (t : Nat) (c : TxCell) (hp : ∀ x ∈ parts59, x ∈ ps) (h : Only ps σ s) :
    Only ps σ (State.settleOne s t c) := by
  unfold State.settleOne
  with_reducible repeat' (first
    | assumption | apply State.waitCell_only (hp := (fun x m => hp x (parts43_59 x m)))
    | apply State.placeCell_only (hp := hp)
    | apply State.spillNote_only (hp := (fun x m => hp x (parts1_59 x m)))
    | apply State.spillCell_only (hp := (fun x m => hp x (parts43_59 x m))) | split | intro _ | dsimp only)

theorem State.settleSpilled_only {σ : State} {ps : List Part} (s : State) (t : Nat) (c : TxCell) (hp : ∀ x ∈ parts43, x ∈ ps) (h : Only ps σ s) :
    Only ps σ (State.settleSpilled s t c) := by
  unfold State.settleSpilled
  with_reducible repeat' (first
    | assumption | apply State.waitCell_only (hp := hp) | apply State.spillCell_only (hp := hp) | split
    | intro _ | dsimp only)

theorem State.placeSpilled_only {σ : State} {ps : List Part} (s : State) (t : Nat) (c : TxCell) (hp : ∀ x ∈ parts59, x ∈ ps) (h : Only ps σ s) :
    Only ps σ (State.placeSpilled s t c) := by
  unfold State.placeSpilled
  with_reducible repeat' (first
    | assumption | apply State.waitCell_only (hp := (fun x m => hp x (parts43_59 x m)))
    | apply State.placeCell_only (hp := hp)
    | apply State.spillCell_only (hp := (fun x m => hp x (parts43_59 x m))) | split | intro _ | dsimp only)

theorem State.settleWrapped_only {σ : State} {ps : List Part} (s : State) (t : Nat) (c : TxCell) (hp : ∀ x ∈ parts59, x ∈ ps) (h : Only ps σ s) :
    Only ps σ (State.settleWrapped s t c) := by
  unfold State.settleWrapped
  with_reducible repeat' (first
    | assumption | apply State.placeCell_only (hp := hp)
    | apply State.wrapDrop_only (hp := (fun x m => hp x (parts1_59 x m)))
    | apply State.waitCell_only (hp := (fun x m => hp x (parts43_59 x m))) | split | intro _ | dsimp only)

theorem State.settleTrunks_only {σ : State} {ps : List Part} (s : State) (hp : ∀ x ∈ parts59, x ∈ ps) (h : Only ps σ s) :
    Only ps σ (State.settleTrunks s) := by
  unfold State.settleTrunks
  with_reducible repeat' (first
    | assumption | apply State.setPort_only (hp := (fun x m => hp x (parts43_59 x m)))
    | apply State.settleSpilled_only (hp := (fun x m => hp x (parts43_59 x m)))
    | apply State.settleOne_only (hp := hp) | apply State.settleWrapped_only (hp := hp)
    | (refine Only.foldl ?_ (fun _ _ _ => ?_)))

theorem State.settleSpur_only {σ : State} {ps : List Part} (s : State) (k : Nat) (hp : ∀ x ∈ parts59, x ∈ ps) (h : Only ps σ s) :
    Only ps σ (State.settleSpur s k) := by
  unfold State.settleSpur
  with_reducible repeat' (first
    | assumption | apply State.spurSend_only (hp := hp)
    | apply State.setPort_only (hp := (fun x m => hp x (parts43_59 x m)))
    | (refine Only.foldl ?_ (fun _ _ _ => ?_)))

theorem State.spillsFirst_only {σ : State} {ps : List Part} (s : State) (hp : ∀ x ∈ parts59, x ∈ ps) (h : Only ps σ s) :
    Only ps σ (State.spillsFirst s) := by
  unfold State.spillsFirst
  with_reducible repeat' (first
    | assumption | apply State.setPort_only (hp := (fun x m => hp x (parts43_59 x m)))
    | apply State.placeSpilled_only (hp := hp) | (refine Only.foldl ?_ (fun _ _ _ => ?_)))

theorem State.wrapCycle_only {σ : State} {ps : List Part} (s : State) (t : Nat) (hp : ∀ x ∈ parts59, x ∈ ps) (h : Only ps σ s) :
    Only ps σ (State.wrapCycle s t) := by
  unfold State.wrapCycle
  with_reducible repeat' (first
    | assumption | apply State.raise_only (hp := (fun x m => hp x (parts1_59 x m)))
    | apply State.putB_only (hp := (fun x m => hp x (parts1_59 x m)))
    | apply State.setPort_only (hp := (fun x m => hp x (parts43_59 x m)))
    | apply State.wrapStart_only (hp := (fun x m => hp x (parts1_59 x m))) | split | intro _ | dsimp only)

theorem State.svcCycle_only {σ : State} {ps : List Part} (s : State) (p : Nat) (hp : ∀ x ∈ parts48, x ∈ ps) (h : Only ps σ s) :
    Only ps σ (State.svcCycle s p) := by
  unfold State.svcCycle
  with_reducible repeat' (first
    | assumption | apply State.putB_only (hp := (fun x m => hp x (parts1_48 x m)))
    | apply State.setLane_only (hp := (fun x m => hp x (parts42_48 x m))) | split | intro _ | dsimp only)

theorem State.restartsOver_only {σ : State} {ps : List Part} (s : State) (hp : ∀ x ∈ parts43, x ∈ ps) (h : Only ps σ s) :
    Only ps σ (State.restartsOver s) := by
  unfold State.restartsOver
  with_reducible repeat' (first | assumption | fail_if_no_progress apply Only.upd_ring (hp := hp))

theorem State.ringSettle_only {σ : State} {ps : List Part} (s : State) (hp : ∀ x ∈ parts59, x ∈ ps) (h : Only ps σ s) :
    Only ps σ (State.ringSettle s) := by
  unfold State.ringSettle
  with_reducible repeat' (first
    | assumption | apply State.setPort_only (hp := (fun x m => hp x (parts43_59 x m)))
    | apply State.settleTrunks_only (hp := hp) | apply State.wrapCycle_only (hp := hp)
    | (refine Only.foldl ?_ (fun _ _ _ => ?_)))

theorem State.ringCycle_only {σ : State} {ps : List Part} (s : State) (hp : ∀ x ∈ parts51, x ∈ ps) (h : Only ps σ s) :
    Only ps σ (State.ringCycle s) := by
  unfold State.ringCycle
  with_reducible repeat' (first
    | assumption | apply State.setPort_only (hp := (fun x m => hp x (parts43_51 x m)))
    | apply State.spillsFirst_only (hp := (fun x m => hp x (parts59_51 x m)))
    | apply State.settleSpur_only (hp := (fun x m => hp x (parts59_51 x m)))
    | apply State.svcCycle_only (hp := (fun x m => hp x (parts48_51 x m)))
    | apply State.injectFormed_only (hp := (fun x m => hp x (parts59_51 x m)))
    | apply State.restartsOver_only (hp := (fun x m => hp x (parts43_51 x m)))
    | (refine Only.foldl ?_ (fun _ _ _ => ?_)))

theorem State.ringLoads_only {σ : State} {ps : List Part} (s : State) (hp : ∀ x ∈ parts1, x ∈ ps) (h : Only ps σ s) :
    Only ps σ (State.ringLoads s) := by
  unfold State.ringLoads
  with_reducible repeat' (first
    | assumption | apply State.put_only (hp := hp) | (refine Only.foldl ?_ (fun _ _ _ => ?_))
    | (refine Only.foldl_snd ?_ (fun _ _ _ => ?_)) | (refine Only.foldl_fst ?_ (fun _ _ _ => ?_)) | split)

theorem State.setRingState_only {σ : State} {ps : List Part} (s : State) (ringB : Bool) (v : Nat) (hp : ∀ x ∈ parts1, x ∈ ps) (h : Only ps σ s) :
    Only ps σ (State.setRingState s ringB v) := by
  unfold State.setRingState
  with_reducible repeat' (first | assumption | apply State.put_only (hp := hp))

theorem State.setBypass_only {σ : State} {ps : List Part} (s : State) (ringB : Bool) (b : Bool) (hp : ∀ x ∈ parts1, x ∈ ps) (h : Only ps σ s) :
    Only ps σ (State.setBypass s ringB b) := by
  unfold State.setBypass
  with_reducible repeat' (first | assumption | apply State.putB_only (hp := hp))

theorem State.insSet_only {σ : State} {ps : List Part} (s : State) (ringB : Bool) (hp : ∀ x ∈ parts1, x ∈ ps) (h : Only ps σ s) :
    Only ps σ (State.insSet s ringB) := by
  unfold State.insSet
  with_reducible repeat' (first
    | assumption | apply State.setRingState_only (hp := hp) | apply State.putB_only (hp := hp) | split)

theorem State.wrapsEnd_only {σ : State} {ps : List Part} (s : State) (ringB : Bool) (hp : ∀ x ∈ parts1, x ∈ ps) (h : Only ps σ s) :
    Only ps σ (State.wrapsEnd s ringB) := by
  unfold State.wrapsEnd
  with_reducible repeat' (first
    | assumption | apply State.raise_only (hp := hp) | apply State.putB_only (hp := hp)
    | (refine Only.foldl ?_ (fun _ _ _ => ?_)) | (refine Only.foldl_snd ?_ (fun _ _ _ => ?_))
    | (refine Only.foldl_fst ?_ (fun _ _ _ => ?_)) | split)

theorem State.insClear_only {σ : State} {ps : List Part} (s : State) (ringB : Bool) (hp : ∀ x ∈ parts1, x ∈ ps) (h : Only ps σ s) :
    Only ps σ (State.insClear s ringB) := by
  unfold State.insClear
  with_reducible repeat' (first
    | assumption | apply State.wrapsEnd_only (hp := hp) | apply State.setRingState_only (hp := hp)
    | apply State.setBypass_only (hp := hp) | apply State.putB_only (hp := hp))

theorem execInsSet_only {σ : State} {ps : List Part} (ringB : Bool) (s : State) {t : State} (hp : ∀ x ∈ parts1, x ∈ ps) (h : Only ps σ s)
    (e : (execInsSet ringB s) = .next t) : Only ps σ t := by
  unfold execInsSet at e
  refine Only.next ?_ e
  with_reducible repeat' (first
    | assumption | apply State.blockWrite_only (hp := hp) | apply State.insSet_only (hp := hp) | split
    | intro _)

theorem execInsClear_only {σ : State} {ps : List Part} (ringB : Bool) (s : State) {t : State} (hp : ∀ x ∈ parts1, x ∈ ps) (h : Only ps σ s)
    (e : (execInsClear ringB s) = .next t) : Only ps σ t := by
  unfold execInsClear at e
  refine Only.next ?_ e
  with_reducible repeat' (first
    | assumption | apply State.blockWrite_only (hp := hp) | apply State.insClear_only (hp := hp) | split
    | intro _)

theorem execInsertionProceed_only {σ : State} {ps : List Part} (ringB : Bool) (s : State) {t : State} (hp : ∀ x ∈ parts1, x ∈ ps) (h : Only ps σ s)
    (e : (execInsertionProceed ringB s) = .next t) : Only ps σ t := by
  unfold execInsertionProceed at e
  refine Only.next ?_ e
  with_reducible repeat' (first
    | assumption | apply State.raise_only (hp := hp) | apply State.setRingState_only (hp := hp)
    | apply State.setBypass_only (hp := hp) | split)

theorem execInsDone_only {σ : State} {ps : List Part} (ringB : Bool) (s : State) {t : State} (hp : ∀ x ∈ parts1, x ∈ ps) (h : Only ps σ s)
    (e : (execInsDone ringB s) = .next t) : Only ps σ t := by
  unfold execInsDone at e
  refine Only.next ?_ e
  with_reducible repeat' (first
    | assumption | apply State.raise_only (hp := hp) | apply State.setRingState_only (hp := hp) | split)

theorem execInsFail_only {σ : State} {ps : List Part} (ringB : Bool) (s : State) {t : State} (hp : ∀ x ∈ parts1, x ∈ ps) (h : Only ps σ s)
    (e : (execInsFail ringB s) = .next t) : Only ps σ t := by
  unfold execInsFail at e
  refine Only.next ?_ e
  with_reducible repeat' (first
    | assumption | apply State.raise_only (hp := hp) | apply State.setRingState_only (hp := hp)
    | apply State.setBypass_only (hp := hp) | split)

theorem State.svcSend_only {σ : State} {ps : List Part} (s : State) (p : Nat) (hp : ∀ x ∈ parts59, x ∈ ps) (h : Only ps σ s) :
    Only ps σ (State.svcSend s p) := by
  unfold State.svcSend
  with_reducible repeat' (first
    | assumption | apply State.log_only (hp := (fun x m => hp x (parts1_59 x m)))
    | apply State.putB_only (hp := (fun x m => hp x (parts1_59 x m)))
    | apply State.setPort_only (hp := (fun x m => hp x (parts43_59 x m))) | split | intro _ | dsimp only)

theorem execSvcSend_only {σ : State} {ps : List Part} (port : Nat) (s : State) {t : State} (hp : ∀ x ∈ parts59, x ∈ ps) (h : Only ps σ s)
    (e : (execSvcSend port s) = .next t) : Only ps σ t := by
  unfold execSvcSend at e
  refine Only.next ?_ e
  with_reducible repeat' (first
    | assumption | apply State.blockWrite_only (hp := (fun x m => hp x (parts1_59 x m)))
    | apply State.svcSend_only (hp := hp) | split | intro _)

theorem State.setFifo_only {σ : State} {ps : List Part} (s : State) (p : Nat) (l : List (List Word)) (hp : ∀ x ∈ parts59, x ∈ ps) (h : Only ps σ s) :
    Only ps σ (State.setFifo s p l) := by
  unfold State.setFifo
  with_reducible repeat' (first
    | assumption | apply State.put_only (hp := (fun x m => hp x (parts1_59 x m)))
    | apply State.setPort_only (hp := (fun x m => hp x (parts43_59 x m)))
    | (refine Only.foldl ?_ (fun _ _ _ => ?_)))

theorem State.svcPop_only {σ : State} {ps : List Part} (s : State) (p : Nat) (hp : ∀ x ∈ parts59, x ∈ ps) (h : Only ps σ s) :
    Only ps σ (State.svcPop s p) := by
  unfold State.svcPop
  with_reducible repeat' (first
    | assumption | apply State.putB_only (hp := (fun x m => hp x (parts1_59 x m)))
    | apply State.setFifo_only (hp := hp))

theorem execSvcPop_only {σ : State} {ps : List Part} (port : Nat) (s : State) {t : State} (hp : ∀ x ∈ parts59, x ∈ ps) (h : Only ps σ s)
    (e : (execSvcPop port s) = .next t) : Only ps σ t := by
  unfold execSvcPop at e
  refine Only.next ?_ e
  with_reducible repeat' (first
    | assumption | apply State.blockWrite_only (hp := (fun x m => hp x (parts1_59 x m)))
    | apply State.svcPop_only (hp := hp) | split | intro _)

theorem State.svcArrive_only {σ : State} {ps : List Part} (s : State) (p : Nat) (b : Body) (hp : ∀ x ∈ parts59, x ∈ ps) (h : Only ps σ s) :
    Only ps σ (State.svcArrive s p b) := by
  unfold State.svcArrive
  with_reducible repeat' (first
    | assumption | apply State.raise_only (hp := (fun x m => hp x (parts1_59 x m)))
    | apply State.putB_only (hp := (fun x m => hp x (parts1_59 x m))) | apply State.setFifo_only (hp := hp)
    | split | intro _ | dsimp only)

theorem execServiceReceive_only {σ : State} {ps : List Part} (lane : Nat) (body : Body) (arrive : Nat) (s : State) {t : State} (hp : ∀ x ∈ parts70, x ∈ ps) (h : Only ps σ s)
    (e : (execServiceReceive lane body arrive s) = .next t) : Only ps σ t := by
  unfold execServiceReceive at e
  refine Only.next ?_ e
  with_reducible repeat' (first
    | assumption | apply State.rxControl_only (hp := (fun x m => hp x (parts48_70 x m)))
    | apply State.trafficSeen_only (hp := (fun x m => hp x (parts56_70 x m)))
    | apply State.timeExchange_only (hp := (fun x m => hp x (parts48_70 x m)))
    | apply State.svcArrive_only (hp := (fun x m => hp x (parts59_70 x m))) | split | intro _ | dsimp only)

end Sys2Proof.Machine
end

