-- ==== Sys2Proof/Laws/OnlyAudio.lean ====
section
/-! SUPPORT. Which parts of the state change (`Only`), for audio ports, validation, the nominal start, boost and amplifiers: one lemma per function
that gives a state. -/

namespace Sys2Proof.Machine

theorem State.setAud_only {σ : State} {ps : List Part} (s : State) (p : Nat) (a : Audio) (hp : ∀ x ∈ parts71, x ∈ ps) (h : Only ps σ s) :
    Only ps σ (State.setAud s p a) := by
  unfold State.setAud
  with_reducible repeat' (first | assumption | fail_if_no_progress apply Only.upd_audio (hp := hp))

theorem State.setPdir_only {σ : State} {ps : List Part} (s : State) (p : Nat) (tx : Bool) (d : PortDir) (hp : ∀ x ∈ parts71, x ∈ ps) (h : Only ps σ s) :
    Only ps σ (State.setPdir s p tx d) := by
  unfold State.setPdir
  with_reducible repeat' (first | assumption | apply State.setAud_only (hp := hp))

theorem State.portLostNote_only {σ : State} {ps : List Part} (s : State) (p : Nat) (hp : ∀ x ∈ parts1, x ∈ ps) (h : Only ps σ s) :
    Only ps σ (State.portLostNote s p) := by
  unfold State.portLostNote
  with_reducible repeat' (first | assumption | apply State.put_only (hp := hp))

theorem State.portArm_only {σ : State} {ps : List Part} (s : State) (p : Nat) (hp : ∀ x ∈ parts1, x ∈ ps) (h : Only ps σ s) :
    Only ps σ (State.portArm s p) := by
  unfold State.portArm
  with_reducible repeat' (first | assumption | apply State.put_only (hp := hp) | split)

theorem State.portHalt_only {σ : State} {ps : List Part} (s : State) (p : Nat) (hp : ∀ x ∈ parts72, x ∈ ps) (h : Only ps σ s) :
    Only ps σ (State.portHalt s p) := by
  unfold State.portHalt
  with_reducible repeat' (first
    | assumption | apply State.setAud_only (hp := (fun x m => hp x (parts71_72 x m)))
    | apply State.put_only (hp := (fun x m => hp x (parts1_72 x m)))
    | apply State.portArm_only (hp := (fun x m => hp x (parts1_72 x m)))
    | apply State.raise_only (hp := (fun x m => hp x (parts1_72 x m))))

theorem State.portEnable_only {σ : State} {ps : List Part} (s : State) (p : Nat) (en : Bool) (hp : ∀ x ∈ parts72, x ∈ ps) (h : Only ps σ s) :
    Only ps σ (State.portEnable s p en) := by
  unfold State.portEnable
  with_reducible repeat' (first
    | assumption | apply State.putB_only (hp := (fun x m => hp x (parts1_72 x m)))
    | apply State.portArm_only (hp := (fun x m => hp x (parts1_72 x m)))
    | apply State.setAud_only (hp := (fun x m => hp x (parts71_72 x m)))
    | apply State.portHalt_only (hp := hp) | split | intro _ | dsimp only)

theorem State.portStart1_only {σ : State} {ps : List Part} (s : State) (p : Nat) (hp : ∀ x ∈ parts72, x ∈ ps) (h : Only ps σ s) :
    Only ps σ (State.portStart1 s p) := by
  unfold State.portStart1
  with_reducible repeat' (first
    | assumption | apply State.raise_only (hp := (fun x m => hp x (parts1_72 x m)))
    | apply State.log_only (hp := (fun x m => hp x (parts1_72 x m)))
    | apply State.setAud_only (hp := (fun x m => hp x (parts71_72 x m)))
    | apply State.put_only (hp := (fun x m => hp x (parts1_72 x m))) | split)

theorem State.portStartGroups_only {σ : State} {ps : List Part} (s : State) (groups : Nat) (hp : ∀ x ∈ parts72, x ∈ ps) (h : Only ps σ s) :
    Only ps σ (State.portStartGroups s groups) := by
  unfold State.portStartGroups
  with_reducible repeat' (first
    | assumption | apply State.portStart1_only (hp := hp) | (refine Only.foldl ?_ (fun _ _ _ => ?_))
    | (refine Only.foldl_snd ?_ (fun _ _ _ => ?_)) | (refine Only.foldl_fst ?_ (fun _ _ _ => ?_)) | split)

theorem State.pendNote_only {σ : State} {ps : List Part} (s : State) (p : Nat) (tx : Bool) (hp : ∀ x ∈ parts1, x ∈ ps) (h : Only ps σ s) :
    Only ps σ (State.pendNote s p tx) := by
  unfold State.pendNote
  with_reducible repeat' (first | assumption | apply State.putB_only (hp := hp))

theorem State.fillNote_only {σ : State} {ps : List Part} (s : State) (p : Nat) (tx : Bool) (f : Nat) (hp : ∀ x ∈ parts72, x ∈ ps) (h : Only ps σ s) :
    Only ps σ (State.fillNote s p tx f) := by
  unfold State.fillNote
  with_reducible repeat' (first
    | assumption | apply State.put_only (hp := (fun x m => hp x (parts1_72 x m)))
    | apply State.pendNote_only (hp := (fun x m => hp x (parts1_72 x m)))
    | apply State.setPdir_only (hp := (fun x m => hp x (parts71_72 x m))) | split | intro _ | dsimp only)

theorem State.pendAge_only {σ : State} {ps : List Part} (s : State) (p : Nat) (tx : Bool) (hp : ∀ x ∈ parts71, x ∈ ps) (h : Only ps σ s) :
    Only ps σ (State.pendAge s p tx) := by
  unfold State.pendAge
  with_reducible repeat' (first | assumption | apply State.setPdir_only (hp := hp))

theorem State.slipCount_only {σ : State} {ps : List Part} (s : State) (p : Nat) (tx : Bool) (ahead : Bool) (forced : Bool) (hp : ∀ x ∈ parts72, x ∈ ps) (h : Only ps σ s) :
    Only ps σ (State.slipCount s p tx ahead forced) := by
  unfold State.slipCount
  with_reducible repeat' (first
    | assumption | apply State.setPdir_only (hp := (fun x m => hp x (parts71_72 x m)))
    | apply State.raise_only (hp := (fun x m => hp x (parts1_72 x m)))
    | apply State.bump_only (hp := (fun x m => hp x (parts1_72 x m)))
    | apply State.pendNote_only (hp := (fun x m => hp x (parts1_72 x m))) | split)

theorem State.portSubstitute_only {σ : State} {ps : List Part} (s : State) (p : Nat) (mask : Word) (hp : ∀ x ∈ parts72, x ∈ ps) (h : Only ps σ s) :
    Only ps σ (State.portSubstitute s p mask) := by
  unfold State.portSubstitute
  with_reducible repeat' (first
    | assumption | apply State.setAud_only (hp := (fun x m => hp x (parts71_72 x m)))
    | apply State.raise_only (hp := (fun x m => hp x (parts1_72 x m)))
    | apply State.bump_only (hp := (fun x m => hp x (parts1_72 x m))))

theorem State.rxEnter_only {σ : State} {ps : List Part} (s : State) (p : Nat) (keep : Bool) (hp : ∀ x ∈ parts72, x ∈ ps) (h : Only ps σ s) :
    Only ps σ (State.rxEnter s p keep) := by
  unfold State.rxEnter
  with_reducible repeat' (first
    | assumption | apply State.portSubstitute_only (hp := hp)
    | apply State.setAud_only (hp := (fun x m => hp x (parts71_72 x m))) | split | intro _ | dsimp only)

theorem State.rxTake_only {σ : State} {ps : List Part} (s : State) (p : Nat) (keep : Bool) (moved : Nat) (hp : ∀ x ∈ parts72, x ∈ ps) (h : Only ps σ s) :
    Only ps σ (State.rxTake s p keep moved) := by
  unfold State.rxTake
  with_reducible repeat' (first
    | assumption | apply State.rxEnter_only (hp := hp) | apply State.fillNote_only (hp := hp) | split)

theorem State.rxWait_only {σ : State} {ps : List Part} (s : State) (p : Nat) (hp : ∀ x ∈ parts71, x ∈ ps) (h : Only ps σ s) :
    Only ps σ (State.rxWait s p) := by
  unfold State.rxWait
  with_reducible repeat' (first | assumption | apply State.setAud_only (hp := hp))

theorem State.rxTick_only {σ : State} {ps : List Part} (s : State) (p : Nat) (act : Option (Bool × Bool)) (hp : ∀ x ∈ parts72, x ∈ ps) (h : Only ps σ s) :
    Only ps σ (State.rxTick s p act) := by
  unfold State.rxTick
  with_reducible repeat' (first
    | assumption | apply State.portSubstitute_only (hp := hp)
    | apply State.setAud_only (hp := (fun x m => hp x (parts71_72 x m)))
    | apply State.rxWait_only (hp := (fun x m => hp x (parts71_72 x m)))
    | apply State.rxTake_only (hp := hp)
    | apply State.pendAge_only (hp := (fun x m => hp x (parts71_72 x m)))
    | apply State.slipCount_only (hp := hp) | split)

theorem State.txTick_only {σ : State} {ps : List Part} (s : State) (p : Nat) (act : Option (Bool × Bool)) (new : TxEntry) (hp : ∀ x ∈ parts72, x ∈ ps) (h : Only ps σ s) :
    Only ps σ (State.txTick s p act new) := by
  unfold State.txTick
  with_reducible repeat' (first
    | assumption | apply State.setAud_only (hp := (fun x m => hp x (parts71_72 x m)))
    | apply State.pendAge_only (hp := (fun x m => hp x (parts71_72 x m)))
    | apply State.slipCount_only (hp := hp) | split | intro _ | dsimp only)

theorem State.txMaskAt_only {σ : State} {ps : List Part} (s : State) (p : Nat) (j : Word) (hp : ∀ x ∈ parts71, x ∈ ps) (h : Only ps σ s) :
    Only ps σ (State.txMaskAt s p j) := by
  unfold State.txMaskAt
  with_reducible repeat' (first | assumption | apply State.setAud_only (hp := hp))

theorem State.portTick1_only {σ : State} {ps : List Part} (s : State) (p : Nat) (actRx : Option (Bool × Bool)) (actTx : Option (Bool × Bool)) (new : TxEntry) (hp : ∀ x ∈ parts72, x ∈ ps) (h : Only ps σ s) :
    Only ps σ (State.portTick1 s p actRx actTx new) := by
  unfold State.portTick1
  with_reducible repeat' (first
    | assumption | apply State.setAud_only (hp := (fun x m => hp x (parts71_72 x m)))
    | apply State.rxEnter_only (hp := hp) | apply State.rxTick_only (hp := hp)
    | apply State.txTick_only (hp := hp) | split | intro _ | dsimp only)

theorem State.portsTick_only {σ : State} {ps : List Part} (s : State) (t : Word) (read : Nat → Word) (fast : List Nat) (hp : ∀ x ∈ parts72, x ∈ ps) (h : Only ps σ s) :
    Only ps σ (State.portsTick s t read fast) := by
  unfold State.portsTick
  with_reducible repeat' (first
    | assumption | apply State.txMaskAt_only (hp := (fun x m => hp x (parts71_72 x m)))
    | apply State.portTick1_only (hp := hp) | (refine Only.foldl ?_ (fun _ _ _ => ?_)))

theorem State.portsMute_only {σ : State} {ps : List Part} (s : State) (hp : ∀ x ∈ parts71, x ∈ ps) (h : Only ps σ s) :
    Only ps σ (State.portsMute s) := by
  unfold State.portsMute
  with_reducible repeat' (first
    | assumption | apply State.setAud_only (hp := hp) | (refine Only.foldl ?_ (fun _ _ _ => ?_))
    | (refine Only.foldl_snd ?_ (fun _ _ _ => ?_)) | (refine Only.foldl_fst ?_ (fun _ _ _ => ?_)) | split
    | intro _ | dsimp only)

theorem State.portCommit_only {σ : State} {ps : List Part} (s : State) (p : Nat) (b : Word) (hp : ∀ x ∈ parts71, x ∈ ps) (h : Only ps σ s) :
    Only ps σ (State.portCommit s p b) := by
  unfold State.portCommit
  with_reducible repeat' (first | assumption | apply State.setAud_only (hp := hp) | split)

theorem State.rateNote_only {σ : State} {ps : List Part} (s : State) (p : Nat) (tx : Bool) (rate : Int) (hp : ∀ x ∈ parts1, x ∈ ps) (h : Only ps σ s) :
    Only ps σ (State.rateNote s p tx rate) := by
  unfold State.rateNote
  with_reducible repeat' (first
    | assumption | apply State.putI_only (hp := hp) | apply State.raise_only (hp := hp) | split)

theorem State.lostFrame_only {σ : State} {ps : List Part} (s : State) (p : Nat) (tx : Bool) (valid : Bool) (len : Nat) (hp : ∀ x ∈ parts71, x ∈ ps) (h : Only ps σ s) :
    Only ps σ (State.lostFrame s p tx valid len) := by
  unfold State.lostFrame
  with_reducible repeat' (first | assumption | apply State.setPdir_only (hp := hp))

theorem State.clkBack_only {σ : State} {ps : List Part} (s : State) (p : Nat) (tx : Bool) (hp : ∀ x ∈ parts72, x ∈ ps) (h : Only ps σ s) :
    Only ps σ (State.clkBack s p tx) := by
  unfold State.clkBack
  with_reducible repeat' (first
    | assumption | apply State.raise_only (hp := (fun x m => hp x (parts1_72 x m)))
    | apply State.pendNote_only (hp := (fun x m => hp x (parts1_72 x m)))
    | apply State.portLostNote_only (hp := (fun x m => hp x (parts1_72 x m)))
    | apply State.setPdir_only (hp := (fun x m => hp x (parts71_72 x m))))

theorem State.lenNote_only {σ : State} {ps : List Part} (s : State) (p : Nat) (tx : Bool) (len : Nat) (hp : ∀ x ∈ parts1, x ∈ ps) (h : Only ps σ s) :
    Only ps σ (State.lenNote s p tx len) := by
  unfold State.lenNote
  with_reducible repeat' (first | assumption | apply State.put_only (hp := hp) | split)

theorem State.rxEdgeMask_only {σ : State} {ps : List Part} (s : State) (p : Nat) (since : Nat) (hp : ∀ x ∈ parts71, x ∈ ps) (h : Only ps σ s) :
    Only ps σ (State.rxEdgeMask s p since).2 := by
  unfold State.rxEdgeMask
  with_reducible repeat' (first | assumption | apply State.setAud_only (hp := hp))

theorem State.rxQueue_only {σ : State} {ps : List Part} (s : State) (p : Nat) (fr : RxFrame) (valid : Bool) (hp : ∀ x ∈ parts72, x ∈ ps) (h : Only ps σ s) :
    Only ps σ (State.rxQueue s p fr valid) := by
  unfold State.rxQueue
  with_reducible repeat' (first
    | assumption | apply State.rxEdgeMask_only (hp := (fun x m => hp x (parts71_72 x m)))
    | apply State.setAud_only (hp := (fun x m => hp x (parts71_72 x m)))
    | apply State.pendNote_only (hp := (fun x m => hp x (parts1_72 x m)))
    | apply State.put_only (hp := (fun x m => hp x (parts1_72 x m))) | split | intro _ | dsimp only)

theorem State.rxMaster_only {σ : State} {ps : List Part} (s : State) (p : Nat) (fr : RxFrame) (hp : ∀ x ∈ parts72, x ∈ ps) (h : Only ps σ s) :
    Only ps σ (State.rxMaster s p fr) := by
  unfold State.rxMaster
  with_reducible repeat' (first
    | assumption | apply State.rxEdgeMask_only (hp := (fun x m => hp x (parts71_72 x m)))
    | apply State.lenNote_only (hp := (fun x m => hp x (parts1_72 x m)))
    | apply State.setAud_only (hp := (fun x m => hp x (parts71_72 x m))))

theorem State.rxSlave_only {σ : State} {ps : List Part} (s : State) (p : Nat) (fr : RxFrame) (hp : ∀ x ∈ parts72, x ∈ ps) (h : Only ps σ s) :
    Only ps σ (State.rxSlave s p fr) := by
  unfold State.rxSlave
  with_reducible repeat' (first
    | assumption | apply State.rateNote_only (hp := (fun x m => hp x (parts1_72 x m)))
    | apply State.lenNote_only (hp := (fun x m => hp x (parts1_72 x m)))
    | apply State.raise_only (hp := (fun x m => hp x (parts1_72 x m)))
    | apply State.bump_only (hp := (fun x m => hp x (parts1_72 x m)))
    | apply State.lostFrame_only (hp := (fun x m => hp x (parts71_72 x m)))
    | apply State.rxQueue_only (hp := hp) | apply State.clkBack_only (hp := hp)
    | apply State.setPdir_only (hp := (fun x m => hp x (parts71_72 x m))) | split | intro _ | dsimp only)

theorem execPortRxFrame_only {σ : State} {ps : List Part} (port : Nat) (frame : RxFrame) (s : State) {t : State} (hp : ∀ x ∈ parts72, x ∈ ps) (h : Only ps σ s)
    (e : (execPortRxFrame port frame s) = .next t) : Only ps σ t := by
  unfold execPortRxFrame at e
  try dsimp only at e
  repeat' (first | with_reducible refine Only.next ?_ e | split at e)
  all_goals
  with_reducible repeat' (first
    | assumption | apply State.rxMaster_only (hp := hp) | apply State.rxSlave_only (hp := hp) | split)

theorem State.txSend_only {σ : State} {ps : List Part} (s : State) (p : Nat) (e : TxEntry) (hp : ∀ x ∈ parts71, x ∈ ps) (h : Only ps σ s) :
    Only ps σ (State.txSend s p e) := by
  unfold State.txSend
  with_reducible repeat' (first | assumption | apply State.setAud_only (hp := hp))

theorem State.txAlign_only {σ : State} {ps : List Part} (s : State) (p : Nat) (frac : Nat) (hp : ∀ x ∈ parts72, x ∈ ps) (h : Only ps σ s) :
    Only ps σ (State.txAlign s p frac) := by
  unfold State.txAlign
  with_reducible repeat' (first
    | assumption | apply State.pendNote_only (hp := (fun x m => hp x (parts1_72 x m)))
    | apply State.setAud_only (hp := (fun x m => hp x (parts71_72 x m))))

theorem State.txSlave_only {σ : State} {ps : List Part} (s : State) (p : Nat) (frac : Nat) (hp : ∀ x ∈ parts72, x ∈ ps) (h : Only ps σ s) :
    Only ps σ (State.txSlave s p frac) := by
  unfold State.txSlave
  with_reducible repeat' (first
    | assumption | apply State.txAlign_only (hp := hp)
    | apply State.setAud_only (hp := (fun x m => hp x (parts71_72 x m)))
    | apply State.fillNote_only (hp := hp)
    | apply State.txSend_only (hp := (fun x m => hp x (parts71_72 x m))) | split | intro _ | dsimp only)

theorem execPortTxFrame_only {σ : State} {ps : List Part} (port : Nat) (len : Nat) (frac : Nat) (rate : Int) (s : State) {t : State} (hp : ∀ x ∈ parts72, x ∈ ps) (h : Only ps σ s)
    (e : (execPortTxFrame port len frac rate s) = .next t) : Only ps σ t := by
  unfold execPortTxFrame at e
  try dsimp only at e
  repeat' (first | with_reducible refine Only.next ?_ e | split at e)
  all_goals
  with_reducible repeat' (first
    | assumption | apply State.lenNote_only (hp := (fun x m => hp x (parts1_72 x m)))
    | apply State.txSend_only (hp := (fun x m => hp x (parts71_72 x m)))
    | apply State.rateNote_only (hp := (fun x m => hp x (parts1_72 x m)))
    | apply State.lostFrame_only (hp := (fun x m => hp x (parts71_72 x m)))
    | apply State.txSlave_only (hp := hp) | apply State.clkBack_only (hp := hp)
    | apply State.setPdir_only (hp := (fun x m => hp x (parts71_72 x m))))

theorem execClkLoss_only {σ : State} {ps : List Part} (port : Nat) (tx : Bool) (s : State) {t : State} (hp : ∀ x ∈ parts72, x ∈ ps) (h : Only ps σ s)
    (e : (execClkLoss port tx s) = .next t) : Only ps σ t := by
  unfold execClkLoss at e
  try dsimp only at e
  repeat' (first | with_reducible refine Only.next ?_ e | split at e)
  all_goals
  with_reducible repeat' (first
    | assumption | apply State.setAud_only (hp := (fun x m => hp x (parts71_72 x m)))
    | apply State.setPdir_only (hp := (fun x m => hp x (parts71_72 x m)))
    | apply State.raise_only (hp := (fun x m => hp x (parts1_72 x m)))
    | apply State.pendNote_only (hp := (fun x m => hp x (parts1_72 x m)))
    | apply State.portLostNote_only (hp := (fun x m => hp x (parts1_72 x m))))

theorem State.maskImm_only {σ : State} {ps : List Part} (s : State) (p : Nat) (tx : Bool) (mask : Word) (hp : ∀ x ∈ parts73, x ∈ ps) (h : Only ps σ s) :
    Only ps σ (State.maskImm s p tx mask) := by
  unfold State.maskImm
  with_reducible repeat' (first
    | assumption | apply State.putSh_only (hp := (fun x m => hp x (parts2_73 x m)))
    | apply State.put_only (hp := (fun x m => hp x (parts1_73 x m)))
    | apply State.setAud_only (hp := (fun x m => hp x (parts71_73 x m))) | split)

theorem State.maskWrite_only {σ : State} {ps : List Part} (s : State) (p : Nat) (tx : Bool) (mask : Word) (hp : ∀ x ∈ parts74, x ∈ ps) (h : Only ps σ s) :
    Only ps σ (State.maskWrite s p tx mask) := by
  unfold State.maskWrite
  with_reducible repeat' (first
    | assumption | apply State.log_only (hp := (fun x m => hp x (parts1_74 x m)))
    | apply State.maskImm_only (hp := (fun x m => hp x (parts73_74 x m)))
    | apply State.shadowWrite_only (hp := (fun x m => hp x (parts11_74 x m))) | split | intro _
    | dsimp only)

theorem execMaskImmWrite_only {σ : State} {ps : List Part} (port : Nat) (tx : Bool) (mask : Word) (s : State) {t : State} (hp : ∀ x ∈ parts74, x ∈ ps) (h : Only ps σ s)
    (e : (execMaskImmWrite port tx mask s) = .next t) : Only ps σ t := by
  unfold execMaskImmWrite at e
  try dsimp only at e
  repeat' (first | with_reducible refine Only.next ?_ e | split at e)
  all_goals
  with_reducible repeat' (first
    | assumption | apply State.blockWrite_only (hp := (fun x m => hp x (parts1_74 x m)))
    | apply State.maskWrite_only (hp := hp) | split | intro _)

theorem execPortStop_only {σ : State} {ps : List Part} (port : Nat) (s : State) {t : State} (hp : ∀ x ∈ parts72, x ∈ ps) (h : Only ps σ s)
    (e : (execPortStop port s) = .next t) : Only ps σ t := by
  unfold execPortStop at e
  try dsimp only at e
  repeat' (first | with_reducible refine Only.next ?_ e | split at e)
  all_goals
  with_reducible repeat' (first | assumption | apply State.portHalt_only (hp := hp))

theorem State.portStartWrite_only {σ : State} {ps : List Part} (s : State) (groups : Word) (hp : ∀ x ∈ parts75, x ∈ ps) (h : Only ps σ s) :
    Only ps σ (State.portStartWrite s groups) := by
  unfold State.portStartWrite
  with_reducible repeat' (first | assumption | fail_if_no_progress apply Only.upd_startTrig (hp := hp))

theorem execPortStartWrite_only {σ : State} {ps : List Part} (groups : Word) (s : State) {t : State} (hp : ∀ x ∈ parts76, x ∈ ps) (h : Only ps σ s)
    (e : (execPortStartWrite groups s) = .next t) : Only ps σ t := by
  unfold execPortStartWrite at e
  refine Only.next ?_ e
  with_reducible repeat' (first
    | assumption | apply State.blockWrite_only (hp := (fun x m => hp x (parts1_76 x m)))
    | apply State.portStartWrite_only (hp := (fun x m => hp x (parts75_76 x m))) | split | intro _)

theorem execPortStartTick_only {σ : State} {ps : List Part} (s : State) {t : State} (hp : ∀ x ∈ parts77, x ∈ ps) (h : Only ps σ s)
    (e : (execPortStartTick s) = .next t) : Only ps σ t := by
  unfold execPortStartTick at e
  try dsimp only at e
  repeat' (first | with_reducible refine Only.next ?_ e | split at e)
  all_goals
  with_reducible repeat' (first
    | assumption | apply State.portStartGroups_only (hp := (fun x m => hp x (parts72_77 x m)))
    | fail_if_no_progress apply Only.upd_startTrig (hp := (fun x m => hp x (parts75_77 x m))))

theorem State.reportSchedule_only {σ : State} {ps : List Part} (s : State) (hp : ∀ x ∈ parts1, x ∈ ps) (h : Only ps σ s) :
    Only ps σ (State.reportSchedule s) := by
  unfold State.reportSchedule
  with_reducible repeat' (first
    | assumption | apply State.put_only (hp := hp) | (refine Only.foldl ?_ (fun _ _ _ => ?_))
    | (refine Only.foldl_snd ?_ (fun _ _ _ => ?_)) | (refine Only.foldl_fst ?_ (fun _ _ _ => ?_)) | split)

theorem State.putOld_only {σ : State} {ps : List Part} (s : State) (l : List OldFld) (hp : ∀ x ∈ parts1, x ∈ ps) (h : Only ps σ s) :
    Only ps σ (State.putOld s l) := by
  unfold State.putOld
  with_reducible repeat' (first
    | assumption | (refine Only.foldl ?_ (fun _ _ _ => ?_)) | (refine Only.foldl_snd ?_ (fun _ _ _ => ?_))
    | (refine Only.foldl_fst ?_ (fun _ _ _ => ?_)) | fail_if_no_progress apply Only.upd_fld (hp := hp))

theorem State.putTabs_only {σ : State} {ps : List Part} (s : State) (l : List OldTab) (hp : ∀ x ∈ parts10, x ∈ ps) (h : Only ps σ s) :
    Only ps σ (State.putTabs s l) := by
  unfold State.putTabs
  with_reducible repeat' (first
    | assumption | (refine Only.foldl ?_ (fun _ _ _ => ?_)) | (refine Only.foldl_snd ?_ (fun _ _ _ => ?_))
    | (refine Only.foldl_fst ?_ (fun _ _ _ => ?_)) | fail_if_no_progress apply Only.upd_mem (hp := hp))

theorem State.windowView_only {σ : State} {ps : List Part} (s : State) (hp : ∀ x ∈ parts78, x ∈ ps) (h : Only ps σ s) :
    Only ps σ (State.windowView s) := by
  unfold State.windowView
  with_reducible repeat' (first
    | assumption | apply State.putTabs_only (hp := (fun x m => hp x (parts10_78 x m)))
    | apply State.putOld_only (hp := (fun x m => hp x (parts1_78 x m))))

theorem State.inWindow_only {σ : State} {ps : List Part} (s : State) (f : State → State) (hp : ∀ x ∈ parts78, x ∈ ps) (hf : ∀ x, Only ps σ x → Only ps σ (f x)) (h : Only ps σ s) :
    Only ps σ (State.inWindow s f) := by
  unfold State.inWindow
  with_reducible repeat' (first
    | assumption | apply hf | apply State.putTabs_only (hp := (fun x m => hp x (parts10_78 x m)))
    | apply State.putOld_only (hp := (fun x m => hp x (parts1_78 x m)))
    | apply State.windowView_only (hp := hp) | split)

theorem State.tailsEnd_only {σ : State} {ps : List Part} (s : State) (hp : ∀ x ∈ parts17, x ∈ ps) (h : Only ps σ s) :
    Only ps σ (State.tailsEnd s) := by
  unfold State.tailsEnd
  with_reducible repeat' (first
    | assumption | apply State.setCl_only (hp := hp) | (refine Only.foldl ?_ (fun _ _ _ => ?_))
    | (refine Only.foldl_snd ?_ (fun _ _ _ => ?_)) | (refine Only.foldl_fst ?_ (fun _ _ _ => ?_)) | split)

theorem State.takeUp_only {σ : State} {ps : List Part} (s : State) (hp : ∀ x ∈ parts79, x ∈ ps) (h : Only ps σ s) :
    Only ps σ (State.takeUp s) := by
  unfold State.takeUp
  with_reducible repeat' (first
    | assumption | apply State.windowView_only (hp := (fun x m => hp x (parts78_79 x m)))
    | apply State.tailsEnd_only (hp := (fun x m => hp x (parts17_79 x m)))
    | apply State.oryxCompare_only (hp := (fun x m => hp x (parts29_79 x m)))
    | apply State.noteRetire_only (hp := (fun x m => hp x (parts1_79 x m)))
    | apply State.fadeNote_only (hp := (fun x m => hp x (parts1_79 x m)))
    | apply State.fadesGone_only (hp := (fun x m => hp x (parts29_79 x m)))
    | apply State.eqCompare_only (hp := (fun x m => hp x (parts35_79 x m)))
    | apply State.delayCompare_only (hp := (fun x m => hp x (parts38_79 x m)))
    | fail_if_no_progress apply Only.upd_fseq (hp := (fun x m => hp x (parts80_79 x m))) | split)

theorem State.enginePass_only {σ : State} {ps : List Part} (s : State) (i : Nat) (hp : ∀ x ∈ parts81, x ∈ ps) (h : Only ps σ s) :
    Only ps σ (State.enginePass s i) := by
  unfold State.enginePass
  with_reducible repeat' (first
    | assumption | apply State.oryxPass_only (hp := (fun x m => hp x (parts31_81 x m)))
    | apply State.eqPass_only (hp := (fun x m => hp x (parts36_81 x m)))
    | apply State.delayPass_only (hp := (fun x m => hp x (parts41_81 x m))) | split)

theorem State.clearPass_only {σ : State} {ps : List Part} (s : State) (b : Nat) (hp : ∀ x ∈ parts28, x ∈ ps) (h : Only ps σ s) :
    Only ps σ (State.clearPass s b) := by
  unfold State.clearPass
  with_reducible repeat' (first | assumption | fail_if_no_progress apply Only.upd_marks (hp := hp))

theorem State.windowEnd_only {σ : State} {ps : List Part} (s : State) (hp : ∀ x ∈ parts1, x ∈ ps) (h : Only ps σ s) :
    Only ps σ (State.windowEnd s) := by
  unfold State.windowEnd
  with_reducible repeat' (first | assumption | apply State.put_only (hp := hp) | split)

theorem State.windowStart__only {σ : State} {ps : List Part} (s : State) (t : BitVec 32) (hp : ∀ x ∈ parts82, x ∈ ps) (h : Only ps σ s) :
    Only ps σ (State.windowStart_ s t) := by
  unfold State.windowStart_
  with_reducible repeat' (first
    | assumption | apply State.windowEnd_only (hp := (fun x m => hp x (parts1_82 x m)))
    | apply State.takeUp_only (hp := (fun x m => hp x (parts79_82 x m)))
    | apply State.clearPass_only (hp := (fun x m => hp x (parts28_82 x m)))
    | apply State.setCore1_only (hp := (fun x m => hp x (parts18_82 x m)))
    | (refine Only.foldl ?_ (fun _ _ _ => ?_)) | (refine Only.foldl_snd ?_ (fun _ _ _ => ?_))
    | (refine Only.foldl_fst ?_ (fun _ _ _ => ?_))
    | fail_if_no_progress apply Only.upd_fseq (hp := (fun x m => hp x (parts80_82 x m))) | split)

theorem State.restOfWindow_only {σ : State} {ps : List Part} (s : State) (hp : ∀ x ∈ parts81, x ∈ ps) (h : Only ps σ s) :
    Only ps σ (State.restOfWindow s) := by
  unfold State.restOfWindow
  with_reducible repeat' (first
    | assumption | apply State.inWindow_only (hp := (fun x m => hp x (parts78_81 x m)))
    | apply State.enginePass_only (hp := hp)
    | apply State.windowView_only (hp := (fun x m => hp x (parts78_81 x m)))
    | (refine Only.foldl ?_ (fun _ _ _ => ?_)) | (refine Only.foldl_snd ?_ (fun _ _ _ => ?_))
    | (refine Only.foldl_fst ?_ (fun _ _ _ => ?_)) | split | intro _)

theorem State.throughG2_only {σ : State} {ps : List Part} (s : State) (b : BitVec 32) (hp : ∀ x ∈ parts82, x ∈ ps) (h : Only ps σ s) :
    Only ps σ (State.throughG2 s b) := by
  unfold State.throughG2
  with_reducible repeat' (first
    | assumption | apply State.restOfWindow_only (hp := (fun x m => hp x (parts81_82 x m)))
    | apply State.windowStart__only (hp := hp) | split | intro _ | dsimp only)

theorem State.idle_only {σ : State} {ps : List Part} (s : State) (hp : ∀ x ∈ parts5, x ∈ ps) (h : Only ps σ s) :
    Only ps σ (State.idle s) := by
  unfold State.idle
  with_reducible repeat' (first | assumption | apply State.atPhase_only (hp := hp))

theorem State.cycleLoaded_only {σ : State} {ps : List Part} (s : State) (was : BitVec 32) (hp : ∀ x ∈ parts59, x ∈ ps) (h : Only ps σ s) :
    Only ps σ (State.cycleLoaded s was) := by
  unfold State.cycleLoaded
  with_reducible repeat' (first
    | assumption | apply State.restartStreams_only (hp := (fun x m => hp x (parts43_59 x m)))
    | apply State.cancelArmed_only (hp := (fun x m => hp x (parts1_59 x m))) | split)

theorem State.setNow_only {σ : State} {ps : List Part} (s : State) (was : BitVec 32) (hp : ∀ x ∈ parts83, x ∈ ps) (h : Only ps σ s) :
    Only ps σ (State.setNow s was) := by
  unfold State.setNow
  with_reducible repeat' (first
    | assumption | apply State.loadTime_only (hp := (fun x m => hp x (parts5_83 x m)))
    | apply State.put_only (hp := (fun x m => hp x (parts1_83 x m)))
    | apply State.putB_only (hp := (fun x m => hp x (parts1_83 x m)))
    | apply State.raise_only (hp := (fun x m => hp x (parts1_83 x m)))
    | apply State.cycleLoaded_only (hp := (fun x m => hp x (parts59_83 x m)))
    | fail_if_no_progress apply Only.upd_dpll (hp := (fun x m => hp x (parts45_83 x m))))

theorem State.alignNow_only {σ : State} {ps : List Part} (s : State) (was : BitVec 32) (v : Int × Int) (hp : ∀ x ∈ parts83, x ∈ ps) (h : Only ps σ s) :
    Only ps σ (State.alignNow s was v) := by
  unfold State.alignNow
  with_reducible repeat' (first
    | assumption | apply State.loadTime_only (hp := (fun x m => hp x (parts5_83 x m)))
    | apply State.putB_only (hp := (fun x m => hp x (parts1_83 x m)))
    | apply State.raise_only (hp := (fun x m => hp x (parts1_83 x m)))
    | apply State.cycleLoaded_only (hp := (fun x m => hp x (parts59_83 x m)))
    | fail_if_no_progress apply Only.upd_dpll (hp := (fun x m => hp x (parts45_83 x m))))

theorem State.advanceTime_only {σ : State} {ps : List Part} (s : State) (hp : ∀ x ∈ parts83, x ∈ ps) (h : Only ps σ s) :
    Only ps σ (State.advanceTime s) := by
  unfold State.advanceTime
  with_reducible repeat' (first
    | assumption | apply State.setNow_only (hp := hp) | apply State.alignNow_only (hp := hp)
    | apply State.raise_only (hp := (fun x m => hp x (parts1_83 x m)))
    | apply State.bit31Follow_only (hp := (fun x m => hp x (parts46_83 x m)))
    | fail_if_no_progress apply Only.upd_time (hp := (fun x m => hp x (parts5_83 x m))) | split | intro _
    | dsimp only)

theorem State.ppsCycle_only {σ : State} {ps : List Part} (s : State) (hp : ∀ x ∈ parts44, x ∈ ps) (h : Only ps σ s) :
    Only ps σ (State.ppsCycle s) := by
  unfold State.ppsCycle
  with_reducible repeat' (first
    | assumption | apply State.ppsEdge_only (hp := hp)
    | fail_if_no_progress apply Only.upd_dpll (hp := (fun x m => hp x (parts45_44 x m))))

theorem State.fsApply_only {σ : State} {ps : List Part} (s : State) (hp : ∀ x ∈ parts1, x ∈ ps) (h : Only ps σ s) :
    Only ps σ (State.fsApply s) := by
  unfold State.fsApply
  with_reducible repeat' (first | assumption | apply State.put_only (hp := hp))

theorem State.linkCycle_only {σ : State} {ps : List Part} (s : State) (hp : ∀ x ∈ parts63, x ∈ ps) (h : Only ps σ s) :
    Only ps σ (State.linkCycle s) := by
  unfold State.linkCycle
  with_reducible repeat' (first
    | assumption | apply State.ringCycle_only (hp := (fun x m => hp x (parts51_63 x m)))
    | apply State.laneCycle_only (hp := hp)
    | apply State.ringSettle_only (hp := (fun x m => hp x (parts59_63 x m)))
    | (refine Only.foldl ?_ (fun _ _ _ => ?_)) | (refine Only.foldl_snd ?_ (fun _ _ _ => ?_))
    | (refine Only.foldl_fst ?_ (fun _ _ _ => ?_)) | split)

theorem State.presentHeld_only {σ : State} {ps : List Part} (s : State) (hp : ∀ x ∈ parts68, x ∈ ps) (h : Only ps σ s) :
    Only ps σ (State.presentHeld s) := by
  unfold State.presentHeld
  with_reducible repeat' (first
    | assumption | apply State.presentAll_only (hp := hp)
    | fail_if_no_progress apply Only.upd_fseq (hp := (fun x m => hp x (parts80_68 x m))) | split)

theorem State.presentStart_only {σ : State} {ps : List Part} (s : State) (hp : ∀ x ∈ parts68, x ∈ ps) (h : Only ps σ s) :
    Only ps σ (State.presentStart s) := by
  unfold State.presentStart
  with_reducible repeat' (first
    | assumption | apply State.presentAll_only (hp := hp)
    | fail_if_no_progress apply Only.upd_fseq (hp := (fun x m => hp x (parts80_68 x m))) | split)

theorem State.cycleStart_only {σ : State} {ps : List Part} (s : State) (hp : ∀ x ∈ parts84, x ∈ ps) (h : Only ps σ s) :
    Only ps σ (State.cycleStart s) := by
  unfold State.cycleStart
  with_reducible repeat' (first
    | assumption | apply State.linkCycle_only (hp := (fun x m => hp x (parts63_84 x m)))
    | apply State.ppsCycle_only (hp := (fun x m => hp x (parts44_84 x m)))
    | apply State.fsApply_only (hp := (fun x m => hp x (parts1_84 x m)))
    | apply State.dpllCycle_only (hp := (fun x m => hp x (parts44_84 x m)))
    | apply State.advanceTime_only (hp := (fun x m => hp x (parts83_84 x m)))
    | apply State.presentStart_only (hp := (fun x m => hp x (parts68_84 x m)))
    | fail_if_no_progress apply Only.upd_fseq_dpll (hp := (fun x m => hp x (parts85_84 x m))) | split)

theorem execNominalCycleStart_only {σ : State} {ps : List Part} (s : State) {t : State} (hp : ∀ x ∈ parts84, x ∈ ps) (h : Only ps σ s)
    (e : (execNominalCycleStart s) = .next t) : Only ps σ t := by
  unfold execNominalCycleStart at e
  refine Only.next ?_ e
  with_reducible repeat' (first | assumption | apply State.cycleStart_only (hp := hp) | split)

theorem execAlign_only {σ : State} {ps : List Part} (s : State) {t : State} (hp : ∀ x ∈ parts44, x ∈ ps) (h : Only ps σ s)
    (e : (execAlign s) = .next t) : Only ps σ t := by
  unfold execAlign at e
  refine Only.next ?_ e
  with_reducible repeat' (first
    | assumption | apply State.blockWrite_only (hp := (fun x m => hp x (parts1_44 x m)))
    | apply State.alignReq_only (hp := hp))

theorem execSet_only {σ : State} {ps : List Part} (s : State) {t : State} (hp : ∀ x ∈ parts1, x ∈ ps) (h : Only ps σ s)
    (e : (execSet s) = .next t) : Only ps σ t := by
  unfold execSet at e
  refine Only.next ?_ e
  with_reducible repeat' (first
    | assumption | apply State.blockWrite_only (hp := hp) | apply State.setReq_only (hp := hp))

theorem execAlignDone_only {σ : State} {ps : List Part} (s : State) {t : State} (hp : ∀ x ∈ parts84, x ∈ ps) (h : Only ps σ s)
    (e : (execAlignDone s) = .next t) : Only ps σ t := by
  unfold execAlignDone at e
  refine Only.next ?_ e
  with_reducible repeat' (first | assumption | apply State.cycleStart_only (hp := hp) | split)

theorem execSetDone_only {σ : State} {ps : List Part} (s : State) {t : State} (hp : ∀ x ∈ parts84, x ∈ ps) (h : Only ps σ s)
    (e : (execSetDone s) = .next t) : Only ps σ t := by
  unfold execSetDone at e
  refine Only.next ?_ e
  with_reducible repeat' (first | assumption | apply State.cycleStart_only (hp := hp) | split)

theorem execNumFreqWrite_only {σ : State} {ps : List Part} (value : Word) (s : State) {t : State} (hp : ∀ x ∈ parts44, x ∈ ps) (h : Only ps σ s)
    (e : (execNumFreqWrite value s) = .next t) : Only ps σ t := by
  unfold execNumFreqWrite at e
  refine Only.next ?_ e
  with_reducible repeat' (first
    | assumption | apply State.blockWrite_only (hp := (fun x m => hp x (parts1_44 x m)))
    | apply State.numFreqWrite_only (hp := hp) | split | intro _)

theorem execNumPhaseWrite_only {σ : State} {ps : List Part} (value : Word) (s : State) {t : State} (hp : ∀ x ∈ parts44, x ∈ ps) (h : Only ps σ s)
    (e : (execNumPhaseWrite value s) = .next t) : Only ps σ t := by
  unfold execNumPhaseWrite at e
  refine Only.next ?_ e
  with_reducible repeat' (first
    | assumption | apply State.blockWrite_only (hp := (fun x m => hp x (parts1_44 x m)))
    | apply State.numPhaseWrite_only (hp := hp) | split | intro _)

theorem execPstepGo_only {σ : State} {ps : List Part} (ctrl : Word) (s : State) {t : State} (hp : ∀ x ∈ parts44, x ∈ ps) (h : Only ps σ s)
    (e : (execPstepGo ctrl s) = .next t) : Only ps σ t := by
  unfold execPstepGo at e
  refine Only.next ?_ e
  with_reducible repeat' (first
    | assumption | apply State.blockWrite_only (hp := (fun x m => hp x (parts1_44 x m)))
    | apply State.pstepCtrl_only (hp := hp) | split | intro _)

theorem State.setAmp_only {σ : State} {ps : List Part} (s : State) (n : Nat) (a : Amp) (hp : ∀ x ∈ parts86, x ∈ ps) (h : Only ps σ s) :
    Only ps σ (State.setAmp s n a) := by
  unfold State.setAmp
  with_reducible repeat' (first | assumption | fail_if_no_progress apply Only.upd_amps (hp := hp))

theorem State.setBoost_only {σ : State} {ps : List Part} (s : State) (k : Nat) (b : Boost) (hp : ∀ x ∈ parts87, x ∈ ps) (h : Only ps σ s) :
    Only ps σ (State.setBoost s k b) := by
  unfold State.setBoost
  with_reducible repeat' (first | assumption | fail_if_no_progress apply Only.upd_boosts (hp := hp))

theorem State.setTarget_only {σ : State} {ps : List Part} (s : State) (k : Nat) (t : Int) (hp : ∀ x ∈ parts88, x ∈ ps) (h : Only ps σ s) :
    Only ps σ (State.setTarget s k t) := by
  unfold State.setTarget
  with_reducible repeat' (first
    | assumption | apply State.setBoost_only (hp := (fun x m => hp x (parts87_88 x m)))
    | apply State.put_only (hp := (fun x m => hp x (parts1_88 x m))))

theorem State.boostEnter_only {σ : State} {ps : List Part} (s : State) (k : Nat) (st : Nat) (hp : ∀ x ∈ parts1, x ∈ ps) (h : Only ps σ s) :
    Only ps σ (State.boostEnter s k st) := by
  unfold State.boostEnter
  with_reducible repeat' (first | assumption | apply State.put_only (hp := hp))

theorem State.boostSuspend_only {σ : State} {ps : List Part} (s : State) (k : Nat) (hp : ∀ x ∈ parts88, x ∈ ps) (h : Only ps σ s) :
    Only ps σ (State.boostSuspend s k) := by
  unfold State.boostSuspend
  with_reducible repeat' (first
    | assumption | apply State.setTarget_only (hp := hp)
    | apply State.boostEnter_only (hp := (fun x m => hp x (parts1_88 x m))) | split | intro _ | dsimp only)

theorem State.boostOff_only {σ : State} {ps : List Part} (s : State) (k : Nat) (hp : ∀ x ∈ parts89, x ∈ ps) (h : Only ps σ s) :
    Only ps σ (State.boostOff s k) := by
  unfold State.boostOff
  with_reducible repeat' (first
    | assumption | apply State.release_only (hp := (fun x m => hp x (parts12_89 x m)))
    | apply State.put_only (hp := (fun x m => hp x (parts1_89 x m)))
    | apply State.boostEnter_only (hp := (fun x m => hp x (parts1_89 x m)))
    | apply State.setBoost_only (hp := (fun x m => hp x (parts87_89 x m))))

theorem State.boostRequest_only {σ : State} {ps : List Part} (s : State) (k : Nat) (hp : ∀ x ∈ parts12, x ∈ ps) (h : Only ps σ s) :
    Only ps σ (State.boostRequest s k) := by
  unfold State.boostRequest
  with_reducible repeat' (first
    | assumption | apply State.request_only (hp := hp)
    | apply State.boostEnter_only (hp := (fun x m => hp x (parts1_12 x m))))

theorem State.boostEnable_only {σ : State} {ps : List Part} (s : State) (k : Nat) (en : Bool) (hp : ∀ x ∈ parts89, x ∈ ps) (h : Only ps σ s) :
    Only ps σ (State.boostEnable s k en) := by
  unfold State.boostEnable
  with_reducible repeat' (first
    | assumption | apply State.putB_only (hp := (fun x m => hp x (parts1_89 x m)))
    | apply State.boostRequest_only (hp := (fun x m => hp x (parts12_89 x m)))
    | apply State.boostOff_only (hp := hp) | split | intro _ | dsimp only)

theorem execBoostEnable_only {σ : State} {ps : List Part} (k : Nat) (en : Bool) (s : State) {t : State} (hp : ∀ x ∈ parts89, x ∈ ps) (h : Only ps σ s)
    (e : (execBoostEnable k en s) = .next t) : Only ps σ t := by
  unfold execBoostEnable at e
  try dsimp only at e
  repeat' (first | with_reducible refine Only.next ?_ e | split at e)
  all_goals
  with_reducible repeat' (first
    | assumption | apply State.ctrlWrite_only (hp := (fun x m => hp x (parts1_89 x m)))
    | apply State.boostEnable_only (hp := hp)
    | apply State.putB_only (hp := (fun x m => hp x (parts1_89 x m))) | split | intro _)

theorem execBoostRiseGranted_only {σ : State} {ps : List Part} (k : Nat) (s : State) {t : State} (hp : ∀ x ∈ parts88, x ∈ ps) (h : Only ps σ s)
    (e : (execBoostRiseGranted k s) = .next t) : Only ps σ t := by
  unfold execBoostRiseGranted at e
  try dsimp only at e
  repeat' (first | with_reducible refine Only.next ?_ e | split at e)
  all_goals
  with_reducible repeat' (first
    | assumption | apply State.setBoost_only (hp := (fun x m => hp x (parts87_88 x m)))
    | apply State.setTarget_only (hp := hp)
    | apply State.boostEnter_only (hp := (fun x m => hp x (parts1_88 x m))))

theorem State.riseEnd_only {σ : State} {ps : List Part} (s : State) (k : Nat) (hp : ∀ x ∈ parts89, x ∈ ps) (h : Only ps σ s) :
    Only ps σ (State.riseEnd s k) := by
  unfold State.riseEnd
  with_reducible repeat' (first
    | assumption | apply State.setBoost_only (hp := (fun x m => hp x (parts87_89 x m)))
    | apply State.release_only (hp := (fun x m => hp x (parts12_89 x m)))
    | apply State.setTarget_only (hp := (fun x m => hp x (parts88_89 x m)))
    | apply State.raise_only (hp := (fun x m => hp x (parts1_89 x m)))
    | apply State.boostSuspend_only (hp := (fun x m => hp x (parts88_89 x m)))
    | apply State.boostEnter_only (hp := (fun x m => hp x (parts1_89 x m))))

theorem execRailReady_only {σ : State} {ps : List Part} (k : Nat) (s : State) {t : State} (hp : ∀ x ∈ parts89, x ∈ ps) (h : Only ps σ s)
    (e : (execRailReady k s) = .next t) : Only ps σ t := by
  unfold execRailReady at e
  split at e
  · exact Only.next h e
  · exact Only.next (State.riseEnd_only _ _ hp h) e

theorem State.boostTimeout_only {σ : State} {ps : List Part} (s : State) (k : Nat) (hp : ∀ x ∈ parts89, x ∈ ps) (h : Only ps σ s) :
    Only ps σ (State.boostTimeout s k) := by
  unfold State.boostTimeout
  with_reducible repeat' (first
    | assumption | apply State.raise_only (hp := (fun x m => hp x (parts1_89 x m)))
    | apply State.boostOff_only (hp := hp) | split)

theorem State.railCfg_only {σ : State} {ps : List Part} (s : State) (k : Nat) (v : Word) (hp : ∀ x ∈ parts89, x ∈ ps) (h : Only ps σ s) :
    Only ps σ (State.railCfg s k v) := by
  unfold State.railCfg
  with_reducible repeat' (first
    | assumption | apply State.log_only (hp := (fun x m => hp x (parts1_89 x m)))
    | apply State.put_only (hp := (fun x m => hp x (parts1_89 x m)))
    | apply State.boostRequest_only (hp := (fun x m => hp x (parts12_89 x m)))
    | apply State.setBoost_only (hp := (fun x m => hp x (parts87_89 x m)))
    | apply State.release_only (hp := (fun x m => hp x (parts12_89 x m))) | split | intro _ | dsimp only)

theorem execRailCfgWrite_only {σ : State} {ps : List Part} (k : Nat) (value : Word) (s : State) {t : State} (hp : ∀ x ∈ parts89, x ∈ ps) (h : Only ps σ s)
    (e : (execRailCfgWrite k value s) = .next t) : Only ps σ t := by
  unfold execRailCfgWrite at e
  try dsimp only at e
  repeat' (first | with_reducible refine Only.next ?_ e | split at e)
  all_goals
  with_reducible repeat' (first
    | assumption | apply State.blockWrite_only (hp := (fun x m => hp x (parts1_89 x m)))
    | apply State.railCfg_only (hp := hp) | split | intro _)

theorem State.boostTick_only {σ : State} {ps : List Part} (s : State) (k : Nat) (hp : ∀ x ∈ parts89, x ∈ ps) (h : Only ps σ s) :
    Only ps σ (State.boostTick s k) := by
  unfold State.boostTick
  with_reducible repeat' (first
    | assumption | apply State.setTarget_only (hp := (fun x m => hp x (parts88_89 x m)))
    | apply State.riseEnd_only (hp := hp) | split | intro _ | dsimp only)

theorem State.railOver_only {σ : State} {ps : List Part} (s : State) (k : Nat) (hp : ∀ x ∈ parts88, x ∈ ps) (h : Only ps σ s) :
    Only ps σ (State.railOver s k) := by
  unfold State.railOver
  with_reducible repeat' (first
    | assumption | apply State.setBoost_only (hp := (fun x m => hp x (parts87_88 x m)))
    | apply State.raise_only (hp := (fun x m => hp x (parts1_88 x m)))
    | apply State.bump_only (hp := (fun x m => hp x (parts1_88 x m))) | split)

theorem execBoostSwitchPeriod_only {σ : State} {ps : List Part} (k : Nat) (peak : Nat) (vsn : Nat) (s : State) {t : State} (hp : ∀ x ∈ parts88, x ∈ ps) (h : Only ps σ s)
    (e : (execBoostSwitchPeriod k peak vsn s) = .next t) : Only ps σ t := by
  unfold execBoostSwitchPeriod at e
  try dsimp only at e
  repeat' (first | with_reducible refine Only.next ?_ e | split at e)
  all_goals
  with_reducible repeat' (first
    | assumption | apply State.put_only (hp := (fun x m => hp x (parts1_88 x m)))
    | apply State.railOver_only (hp := hp)
    | apply State.setBoost_only (hp := (fun x m => hp x (parts87_88 x m))) | split)

theorem execRailOv_only {σ : State} {ps : List Part} (k : Nat) (s : State) {t : State} (hp : ∀ x ∈ parts88, x ∈ ps) (h : Only ps σ s)
    (e : (execRailOv k s) = .next t) : Only ps σ t := by
  unfold execRailOv at e
  try dsimp only at e
  repeat' (first | with_reducible refine Only.next ?_ e | split at e)
  all_goals
  with_reducible repeat' (first | assumption | apply State.railOver_only (hp := hp))

theorem execRailUv_only {σ : State} {ps : List Part} (k : Nat) (s : State) {t : State} (hp : ∀ x ∈ parts1, x ∈ ps) (h : Only ps σ s)
    (e : (execRailUv k s) = .next t) : Only ps σ t := by
  unfold execRailUv at e
  try dsimp only at e
  repeat' (first | with_reducible refine Only.next ?_ e | split at e)
  all_goals
  with_reducible repeat' (first
    | assumption | apply State.raise_only (hp := hp) | apply State.bump_only (hp := hp))

theorem State.drvEn_only {σ : State} {ps : List Part} (s : State) (hp : ∀ x ∈ parts1, x ∈ ps) (h : Only ps σ s) :
    Only ps σ (State.drvEn s) := by
  unfold State.drvEn
  with_reducible repeat' (first | assumption | apply State.put_only (hp := hp))

theorem State.probeStart_only {σ : State} {ps : List Part} (s : State) (n : Nat) (hp : ∀ x ∈ parts90, x ∈ ps) (h : Only ps σ s) :
    Only ps σ (State.probeStart s n) := by
  unfold State.probeStart
  with_reducible repeat' (first
    | assumption | apply State.draw_only (hp := (fun x m => hp x (parts6_90 x m)))
    | apply State.setAmp_only (hp := (fun x m => hp x (parts86_90 x m))))

theorem State.ampEnter_only {σ : State} {ps : List Part} (s : State) (n : Nat) (st : Nat) (hp : ∀ x ∈ parts91, x ∈ ps) (h : Only ps σ s) :
    Only ps σ (State.ampEnter s n st) := by
  unfold State.ampEnter
  with_reducible repeat' (first
    | assumption | apply State.put_only (hp := (fun x m => hp x (parts1_91 x m)))
    | apply State.setAmp_only (hp := (fun x m => hp x (parts86_91 x m)))
    | apply State.raise_only (hp := (fun x m => hp x (parts1_91 x m)))
    | apply State.probeStart_only (hp := (fun x m => hp x (parts90_91 x m)))
    | apply State.boostSuspend_only (hp := (fun x m => hp x (parts88_91 x m)))
    | apply State.drvEn_only (hp := (fun x m => hp x (parts1_91 x m))) | split)

theorem State.ampOff_only {σ : State} {ps : List Part} (s : State) (n : Nat) (hp : ∀ x ∈ parts91, x ∈ ps) (h : Only ps σ s) :
    Only ps σ (State.ampOff s n) := by
  unfold State.ampOff
  with_reducible repeat' (first
    | assumption | apply State.setAmp_only (hp := (fun x m => hp x (parts86_91 x m)))
    | apply State.ampEnter_only (hp := hp) | split | intro _ | dsimp only)

theorem State.ampStop_only {σ : State} {ps : List Part} (s : State) (n : Nat) (hp : ∀ x ∈ parts86, x ∈ ps) (h : Only ps σ s) :
    Only ps σ (State.ampStop s n) := by
  unfold State.ampStop
  with_reducible repeat' (first | assumption | apply State.setAmp_only (hp := hp) | split)

theorem State.ampEnable_only {σ : State} {ps : List Part} (s : State) (n : Nat) (en : Bool) (hp : ∀ x ∈ parts91, x ∈ ps) (h : Only ps σ s) :
    Only ps σ (State.ampEnable s n en) := by
  unfold State.ampEnable
  with_reducible repeat' (first
    | assumption | apply State.log_only (hp := (fun x m => hp x (parts1_91 x m)))
    | apply State.putB_only (hp := (fun x m => hp x (parts1_91 x m))) | apply State.ampEnter_only (hp := hp)
    | apply State.setAmp_only (hp := (fun x m => hp x (parts86_91 x m)))
    | apply State.ampStop_only (hp := (fun x m => hp x (parts86_91 x m))) | split | intro _ | dsimp only)

theorem execAmpEnable_only {σ : State} {ps : List Part} (chan : Nat) (en : Bool) (s : State) {t : State} (hp : ∀ x ∈ parts91, x ∈ ps) (h : Only ps σ s)
    (e : (execAmpEnable chan en s) = .next t) : Only ps σ t := by
  unfold execAmpEnable at e
  try dsimp only at e
  repeat' (first | with_reducible refine Only.next ?_ e | split at e)
  all_goals
  with_reducible repeat' (first
    | assumption | apply State.ctrlWrite_only (hp := (fun x m => hp x (parts1_91 x m)))
    | apply State.ampEnable_only (hp := hp)
    | apply State.putB_only (hp := (fun x m => hp x (parts1_91 x m))) | split | intro _)

theorem execProbeStart_only {σ : State} {ps : List Part} (chan : Nat) (s : State) {t : State} (hp : ∀ x ∈ parts91, x ∈ ps) (h : Only ps σ s)
    (e : (execProbeStart chan s) = .next t) : Only ps σ t := by
  unfold execProbeStart at e
  try dsimp only at e
  repeat' (first | with_reducible refine Only.next ?_ e | split at e)
  all_goals
  with_reducible repeat' (first | assumption | apply State.ampEnter_only (hp := hp))

theorem State.ampTick_only {σ : State} {ps : List Part} (s : State) (n : Nat) (x : Word) (hp : ∀ x ∈ parts91, x ∈ ps) (h : Only ps σ s) :
    Only ps σ (State.ampTick s n x) := by
  unfold State.ampTick
  with_reducible repeat' (first
    | assumption | apply State.setAmp_only (hp := (fun x m => hp x (parts86_91 x m)))
    | apply State.putB_only (hp := (fun x m => hp x (parts1_91 x m))) | apply State.ampEnter_only (hp := hp)
    | split | intro _ | dsimp only)

theorem State.ampsTick_only {σ : State} {ps : List Part} (s : State) (read : Nat → Word) (hp : ∀ x ∈ parts92, x ∈ ps) (h : Only ps σ s) :
    Only ps σ (State.ampsTick s read) := by
  unfold State.ampsTick
  with_reducible repeat' (first
    | assumption | apply State.ampTick_only (hp := (fun x m => hp x (parts91_92 x m)))
    | apply State.boostTick_only (hp := (fun x m => hp x (parts89_92 x m)))
    | (refine Only.foldl ?_ (fun _ _ _ => ?_)) | (refine Only.foldl_snd ?_ (fun _ _ _ => ?_))
    | (refine Only.foldl_fst ?_ (fun _ _ _ => ?_)) | split)

theorem State.ampCommit_only {σ : State} {ps : List Part} (s : State) (n : Nat) (old : Int) (hp : ∀ x ∈ parts86, x ∈ ps) (h : Only ps σ s) :
    Only ps σ (State.ampCommit s n old) := by
  unfold State.ampCommit
  with_reducible repeat' (first
    | assumption | apply State.setAmp_only (hp := hp) | split | intro _ | dsimp only)

theorem State.muteSet_only {σ : State} {ps : List Part} (s : State) (n : Nat) (on : Bool) (hp : ∀ x ∈ parts93, x ∈ ps) (h : Only ps σ s) :
    Only ps σ (State.muteSet s n on) := by
  unfold State.muteSet
  with_reducible repeat' (first
    | assumption | apply State.putB_only (hp := (fun x m => hp x (parts1_93 x m)))
    | apply State.setAmp_only (hp := (fun x m => hp x (parts86_93 x m))) | split | intro _ | dsimp only)

theorem execMute_only {σ : State} {ps : List Part} (chan : Nat) (on : Bool) (s : State) {t : State} (hp : ∀ x ∈ parts93, x ∈ ps) (h : Only ps σ s)
    (e : (execMute chan on s) = .next t) : Only ps σ t := by
  unfold execMute at e
  try dsimp only at e
  repeat' (first | with_reducible refine Only.next ?_ e | split at e)
  all_goals
  with_reducible repeat' (first
    | assumption | apply State.blockWrite_only (hp := (fun x m => hp x (parts1_93 x m)))
    | apply State.muteSet_only (hp := hp) | split | intro _)

theorem State.clipNote_only {σ : State} {ps : List Part} (s : State) (n : Nat) (hp : ∀ x ∈ parts93, x ∈ ps) (h : Only ps σ s) :
    Only ps σ (State.clipNote s n) := by
  unfold State.clipNote
  with_reducible repeat' (first
    | assumption | apply State.bump_only (hp := (fun x m => hp x (parts1_93 x m)))
    | apply State.raise_only (hp := (fun x m => hp x (parts1_93 x m)))
    | apply State.setAmp_only (hp := (fun x m => hp x (parts86_93 x m))) | split | intro _ | dsimp only)

theorem State.loopSample_only {σ : State} {ps : List Part} (s : State) (n : Nat) (v : Int) (i : Int) (hp : ∀ x ∈ parts93, x ∈ ps) (h : Only ps σ s) :
    Only ps σ (State.loopSample s n v i) := by
  unfold State.loopSample
  with_reducible repeat' (first
    | assumption | apply State.setAmp_only (hp := (fun x m => hp x (parts86_93 x m)))
    | apply State.clipNote_only (hp := hp) | split | intro _ | dsimp only)

theorem State.probeSample_only {σ : State} {ps : List Part} (s : State) (n : Nat) (hp : ∀ x ∈ parts86, x ∈ ps) (h : Only ps σ s) :
    Only ps σ (State.probeSample s n) := by
  unfold State.probeSample
  with_reducible repeat' (first | assumption | apply State.setAmp_only (hp := hp))

theorem State.senseNext_only {σ : State} {ps : List Part} (s : State) (n : Nat) (hp : ∀ x ∈ parts86, x ∈ ps) (h : Only ps σ s) :
    Only ps σ (State.senseNext s n) := by
  unfold State.senseNext
  with_reducible repeat' (first | assumption | apply State.setAmp_only (hp := hp))

theorem State.senseJoin_only {σ : State} {ps : List Part} (s : State) (n : Nat) (hp : ∀ x ∈ parts86, x ∈ ps) (h : Only ps σ s) :
    Only ps σ (State.senseJoin s n) := by
  unfold State.senseJoin
  with_reducible repeat' (first | assumption | apply State.setAmp_only (hp := hp))

theorem execSenseSample_only {σ : State} {ps : List Part} (chan : Nat) (v : Word) (i : Word) (s : State) {t : State} (hp : ∀ x ∈ parts93, x ∈ ps) (h : Only ps σ s)
    (e : (execSenseSample chan v i s) = .next t) : Only ps σ t := by
  unfold execSenseSample at e
  try dsimp only at e
  repeat' (first | with_reducible refine Only.next ?_ e | split at e)
  all_goals
  with_reducible repeat' (first
    | assumption | apply State.senseNext_only (hp := (fun x m => hp x (parts86_93 x m)))
    | apply State.loopSample_only (hp := hp)
    | apply State.probeSample_only (hp := (fun x m => hp x (parts86_93 x m))) | split)

theorem State.gatePeriod_only {σ : State} {ps : List Part} (s : State) (n : Nat) (hp : ∀ x ∈ parts86, x ∈ ps) (h : Only ps σ s) :
    Only ps σ (State.gatePeriod s n) := by
  unfold State.gatePeriod
  with_reducible repeat' (first | assumption | apply State.setAmp_only (hp := hp) | split)

theorem State.calAbort_only {σ : State} {ps : List Part} (s : State) (n : Nat) (hp : ∀ x ∈ parts93, x ∈ ps) (h : Only ps σ s) :
    Only ps σ (State.calAbort s n) := by
  unfold State.calAbort
  with_reducible repeat' (first
    | assumption | apply State.setAmp_only (hp := (fun x m => hp x (parts86_93 x m)))
    | apply State.put_only (hp := (fun x m => hp x (parts1_93 x m)))
    | apply State.raise_only (hp := (fun x m => hp x (parts1_93 x m)))
    | apply State.putB_only (hp := (fun x m => hp x (parts1_93 x m))) | split | intro _ | dsimp only)

theorem State.trip_only {σ : State} {ps : List Part} (s : State) (n : Nat) (hp : ∀ x ∈ parts91, x ∈ ps) (h : Only ps σ s) :
    Only ps σ (State.trip s n) := by
  unfold State.trip
  with_reducible repeat' (first
    | assumption | apply State.bump_only (hp := (fun x m => hp x (parts1_91 x m)))
    | apply State.raise_only (hp := (fun x m => hp x (parts1_91 x m)))
    | apply State.ampEnter_only (hp := hp)
    | apply State.calAbort_only (hp := (fun x m => hp x (parts93_91 x m))) | split)

theorem State.limitPeriod_only {σ : State} {ps : List Part} (s : State) (n : Nat) (hp : ∀ x ∈ parts93, x ∈ ps) (h : Only ps σ s) :
    Only ps σ (State.limitPeriod s n) := by
  unfold State.limitPeriod
  with_reducible repeat' (first
    | assumption | apply State.setAmp_only (hp := (fun x m => hp x (parts86_93 x m)))
    | apply State.putB_only (hp := (fun x m => hp x (parts1_93 x m)))
    | apply State.bump_only (hp := (fun x m => hp x (parts1_93 x m)))
    | apply State.raise_only (hp := (fun x m => hp x (parts1_93 x m))) | split | intro _ | dsimp only)

theorem execCarrierPeriod_only {σ : State} {ps : List Part} (chan : Nat) (s : State) {t : State} (hp : ∀ x ∈ parts91, x ∈ ps) (h : Only ps σ s)
    (e : (execCarrierPeriod chan s) = .next t) : Only ps σ t := by
  unfold execCarrierPeriod at e
  have g := State.gatePeriod_only _ chan (fun x m => hp x (parts86_91 x m)) (State.limitPeriod_only _ chan (fun x m => hp x (parts93_91 x m)) h)
  split at e
  · exact Only.next h e
  · dsimp only at e
    split at e
    · exact Only.next (State.ampOff_only _ _ hp g) e
    · split at e
      · exact Only.next (State.trip_only _ _ hp g) e
      · exact Only.next g e

theorem State.probeEnd_only {σ : State} {ps : List Part} (s : State) (n : Nat) (mohm : Nat) (short : Bool) (healthy : Bool) (hp : ∀ x ∈ parts91, x ∈ ps) (h : Only ps σ s) :
    Only ps σ (State.probeEnd s n mohm short healthy) := by
  unfold State.probeEnd
  with_reducible repeat' (first
    | assumption | apply State.raise_only (hp := (fun x m => hp x (parts1_91 x m)))
    | apply State.putB_only (hp := (fun x m => hp x (parts1_91 x m)))
    | apply State.put_only (hp := (fun x m => hp x (parts1_91 x m)))
    | apply State.setAmp_only (hp := (fun x m => hp x (parts86_91 x m)))
    | apply State.ampOff_only (hp := hp) | apply State.ampEnter_only (hp := hp)
    | apply State.bump_only (hp := (fun x m => hp x (parts1_91 x m))) | split | intro _ | dsimp only)

theorem execProbeDone_only {σ : State} {ps : List Part} (chan : Nat) (meanV : Word) (meanI : Word) (s : State) {t : State} (hp : ∀ x ∈ parts91, x ∈ ps) (h : Only ps σ s)
    (e : (execProbeDone chan meanV meanI s) = .next t) : Only ps σ t := by
  unfold execProbeDone at e
  try dsimp only at e
  repeat' (first | with_reducible refine Only.next ?_ e | split at e)
  all_goals
  with_reducible repeat' (first
    | assumption | apply State.draw_only (hp := (fun x m => hp x (parts6_91 x m)))
    | apply State.probeEnd_only (hp := hp))

theorem State.ocpFirst_only {σ : State} {ps : List Part} (s : State) (n : Nat) (hp : ∀ x ∈ parts6, x ∈ ps) (h : Only ps σ s) :
    Only ps σ (State.ocpFirst s n).2 := by
  unfold State.ocpFirst
  with_reducible repeat' (first
    | assumption | apply State.draw_only (hp := hp) | split | intro _ | dsimp only)

theorem execOcpComparator_only {σ : State} {ps : List Part} (chan : Nat) (s : State) {t : State} (hp : ∀ x ∈ parts91, x ∈ ps) (h : Only ps σ s)
    (e : (execOcpComparator chan s) = .next t) : Only ps σ t := by
  unfold execOcpComparator at e
  try dsimp only at e
  repeat' (first | with_reducible refine Only.next ?_ e | split at e)
  all_goals
  with_reducible repeat' (first
    | assumption | apply State.ocpFirst_only (hp := (fun x m => hp x (parts6_91 x m)))
    | apply State.setAmp_only (hp := (fun x m => hp x (parts86_91 x m)))
    | apply State.probeEnd_only (hp := hp) | split)

theorem execHoldExpiry_only {σ : State} {ps : List Part} (chan : Nat) (s : State) {t : State} (hp : ∀ x ∈ parts91, x ∈ ps) (h : Only ps σ s)
    (e : (execHoldExpiry chan s) = .next t) : Only ps σ t := by
  unfold execHoldExpiry at e
  try dsimp only at e
  repeat' (first | with_reducible refine Only.next ?_ e | split at e)
  all_goals
  with_reducible repeat' (first | assumption | apply State.ampEnter_only (hp := hp))

theorem execAttemptsClear_only {σ : State} {ps : List Part} (chan : Nat) (s : State) {t : State} (hp : ∀ x ∈ parts1, x ∈ ps) (h : Only ps σ s)
    (e : (execAttemptsClear chan s) = .next t) : Only ps σ t := by
  unfold execAttemptsClear at e
  try dsimp only at e
  repeat' (first | with_reducible refine Only.next ?_ e | split at e)
  all_goals
  with_reducible repeat' (first | assumption | apply State.put_only (hp := hp))

theorem State.latchClr_only {σ : State} {ps : List Part} (s : State) (n : Nat) (hp : ∀ x ∈ parts91, x ∈ ps) (h : Only ps σ s) :
    Only ps σ (State.latchClr s n) := by
  unfold State.latchClr
  with_reducible repeat' (first
    | assumption | apply State.ampEnter_only (hp := hp)
    | apply State.put_only (hp := (fun x m => hp x (parts1_91 x m))) | split)

theorem execLatchClr_only {σ : State} {ps : List Part} (chan : Nat) (s : State) {t : State} (hp : ∀ x ∈ parts91, x ∈ ps) (h : Only ps σ s)
    (e : (execLatchClr chan s) = .next t) : Only ps σ t := by
  unfold execLatchClr at e
  try dsimp only at e
  repeat' (first | with_reducible refine Only.next ?_ e | split at e)
  all_goals
  with_reducible repeat' (first
    | assumption | apply State.blockWrite_only (hp := (fun x m => hp x (parts1_91 x m)))
    | apply State.latchClr_only (hp := hp) | split | intro _)

theorem State.probeReq_only {σ : State} {ps : List Part} (s : State) (n : Nat) (hp : ∀ x ∈ parts91, x ∈ ps) (h : Only ps σ s) :
    Only ps σ (State.probeReq s n) := by
  unfold State.probeReq
  with_reducible repeat' (first
    | assumption | apply State.ampEnter_only (hp := hp)
    | apply State.setAmp_only (hp := (fun x m => hp x (parts86_91 x m)))
    | apply State.log_only (hp := (fun x m => hp x (parts1_91 x m))) | split)

theorem execProbeReq_only {σ : State} {ps : List Part} (chan : Nat) (s : State) {t : State} (hp : ∀ x ∈ parts91, x ∈ ps) (h : Only ps σ s)
    (e : (execProbeReq chan s) = .next t) : Only ps σ t := by
  unfold execProbeReq at e
  try dsimp only at e
  repeat' (first | with_reducible refine Only.next ?_ e | split at e)
  all_goals
  with_reducible repeat' (first
    | assumption | apply State.blockWrite_only (hp := (fun x m => hp x (parts1_91 x m)))
    | apply State.probeReq_only (hp := hp) | split | intro _)

theorem State.zAlarm_only {σ : State} {ps : List Part} (s : State) (n : Nat) (outside : Bool) (hp : ∀ x ∈ parts93, x ∈ ps) (h : Only ps σ s) :
    Only ps σ (State.zAlarm s n outside) := by
  unfold State.zAlarm
  with_reducible repeat' (first
    | assumption | apply State.setAmp_only (hp := (fun x m => hp x (parts86_93 x m)))
    | apply State.raise_only (hp := (fun x m => hp x (parts1_93 x m)))
    | apply State.putB_only (hp := (fun x m => hp x (parts1_93 x m))) | split | intro _ | dsimp only)

theorem State.zReport_only {σ : State} {ps : List Part} (s : State) (n : Nat) (hp : ∀ x ∈ parts93, x ∈ ps) (h : Only ps σ s) :
    Only ps σ (State.zReport s n) := by
  unfold State.zReport
  with_reducible repeat' (first
    | assumption | apply State.putI_only (hp := (fun x m => hp x (parts1_93 x m)))
    | apply State.put_only (hp := (fun x m => hp x (parts1_93 x m)))
    | apply State.raise_only (hp := (fun x m => hp x (parts1_93 x m)))
    | apply State.putB_only (hp := (fun x m => hp x (parts1_93 x m))) | apply State.zAlarm_only (hp := hp))

theorem State.windowStart_only {σ : State} {ps : List Part} (s : State) (n : Nat) (hp : ∀ x ∈ parts86, x ∈ ps) (h : Only ps σ s) :
    Only ps σ (State.windowStart s n) := by
  unfold State.windowStart
  with_reducible repeat' (first | assumption | apply State.setAmp_only (hp := hp))

theorem execPilotWindowEnd_only {σ : State} {ps : List Part} (chan : Nat) (s : State) {t : State} (hp : ∀ x ∈ parts93, x ∈ ps) (h : Only ps σ s)
    (e : (execPilotWindowEnd chan s) = .next t) : Only ps σ t := by
  unfold execPilotWindowEnd at e
  try dsimp only at e
  repeat' (first | with_reducible refine Only.next ?_ e | split at e)
  all_goals
  with_reducible repeat' (first
    | assumption | apply State.zReport_only (hp := hp)
    | apply State.putB_only (hp := (fun x m => hp x (parts1_93 x m)))
    | apply State.windowStart_only (hp := (fun x m => hp x (parts86_93 x m))) | split)

theorem State.windowSpoil_only {σ : State} {ps : List Part} (s : State) (n : Nat) (hp : ∀ x ∈ parts86, x ∈ ps) (h : Only ps σ s) :
    Only ps σ (State.windowSpoil s n) := by
  unfold State.windowSpoil
  with_reducible repeat' (first | assumption | apply State.setAmp_only (hp := hp))

theorem State.pilotEn_only {σ : State} {ps : List Part} (s : State) (n : Nat) (on : Bool) (hp : ∀ x ∈ parts93, x ∈ ps) (h : Only ps σ s) :
    Only ps σ (State.pilotEn s n on) := by
  unfold State.pilotEn
  with_reducible repeat' (first
    | assumption | apply State.putB_only (hp := (fun x m => hp x (parts1_93 x m)))
    | apply State.windowSpoil_only (hp := (fun x m => hp x (parts86_93 x m))) | split)

theorem State.calStart_only {σ : State} {ps : List Part} (s : State) (c : Nat) (hp : ∀ x ∈ parts94, x ∈ ps) (h : Only ps σ s) :
    Only ps σ (State.calStart s c) := by
  unfold State.calStart
  with_reducible repeat' (first
    | assumption | apply State.log_only (hp := (fun x m => hp x (parts1_94 x m)))
    | apply State.put_only (hp := (fun x m => hp x (parts1_94 x m)))
    | apply State.putB_only (hp := (fun x m => hp x (parts1_94 x m)))
    | fail_if_no_progress apply Only.upd_cal (hp := (fun x m => hp x (parts95_94 x m))) | split | intro _
    | dsimp only)

theorem State.calCtrl_only {σ : State} {ps : List Part} (s : State) (v : Word) (hp : ∀ x ∈ parts94, x ∈ ps) (h : Only ps σ s) :
    Only ps σ (State.calCtrl s v) := by
  unfold State.calCtrl
  with_reducible repeat' (first
    | assumption | apply State.put_only (hp := (fun x m => hp x (parts1_94 x m)))
    | apply State.calStart_only (hp := hp) | split)

theorem execCalGo_only {σ : State} {ps : List Part} (ctrl : Word) (s : State) {t : State} (hp : ∀ x ∈ parts94, x ∈ ps) (h : Only ps σ s)
    (e : (execCalGo ctrl s) = .next t) : Only ps σ t := by
  unfold execCalGo at e
  refine Only.next ?_ e
  with_reducible repeat' (first
    | assumption | apply State.blockWrite_only (hp := (fun x m => hp x (parts1_94 x m)))
    | apply State.calCtrl_only (hp := hp) | split | intro _)

theorem State.newTrims_only {σ : State} {ps : List Part} (s : State) (c : Nat) (hp : ∀ x ∈ parts58, x ∈ ps) (h : Only ps σ s) :
    Only ps σ (State.newTrims s c) := by
  unfold State.newTrims
  with_reducible repeat' (first
    | assumption | apply State.draw_only (hp := (fun x m => hp x (parts6_58 x m)))
    | apply State.put_only (hp := (fun x m => hp x (parts1_58 x m))))

theorem execCalStepEnd_only {σ : State} {ps : List Part} (s : State) {t : State} (hp : ∀ x ∈ parts96, x ∈ ps) (h : Only ps σ s)
    (e : (execCalStepEnd s) = .next t) : Only ps σ t := by
  unfold execCalStepEnd at e
  try dsimp only at e
  repeat' (first | with_reducible refine Only.next ?_ e | split at e)
  all_goals
  with_reducible repeat' (first
    | assumption | apply State.newTrims_only (hp := (fun x m => hp x (parts58_96 x m)))
    | apply State.windowSpoil_only (hp := (fun x m => hp x (parts86_96 x m)))
    | apply State.raise_only (hp := (fun x m => hp x (parts1_96 x m)))
    | apply State.put_only (hp := (fun x m => hp x (parts1_96 x m)))
    | apply State.putB_only (hp := (fun x m => hp x (parts1_96 x m))) | split)

end Sys2Proof.Machine
end

