-- ==== Sys2Proof/Laws/OnlyFrame.lean ====
section
/-! SUPPORT. Which parts of the state change (`Only`), for commits, frames and the Store: one lemma per function
that gives a state. -/

namespace Sys2Proof.Machine

theorem State.applyPage_only {σ : State} {ps : List Part} (s : State) (p : Nat) (hp : ∀ x ∈ parts97, x ∈ ps) (h : Only ps σ s) :
    Only ps σ (State.applyPage s p) := by
  unfold State.applyPage
  with_reducible repeat' (first
    | assumption | apply State.setCore1_only (hp := (fun x m => hp x (parts18_97 x m)))
    | apply State.put_only (hp := (fun x m => hp x (parts1_97 x m)))
    | (refine Only.foldl ?_ (fun _ _ _ => ?_)) | (refine Only.foldl_snd ?_ (fun _ _ _ => ?_))
    | (refine Only.foldl_fst ?_ (fun _ _ _ => ?_))
    | fail_if_no_progress apply Only.upd_staged_dirtyTab_dirtyReg (hp := (fun x m => hp x (parts98_97 x m)))
    | split)

theorem State.fastReport_only {σ : State} {ps : List Part} (s : State) (hp : ∀ x ∈ parts1, x ∈ ps) (h : Only ps σ s) :
    Only ps σ (State.fastReport s) := by
  unfold State.fastReport
  with_reducible repeat' (first | assumption | apply State.put_only (hp := hp))

theorem State.commitCompared_only {σ : State} {ps : List Part} (s : State) (hp : ∀ x ∈ parts99, x ∈ ps) (h : Only ps σ s) :
    Only ps σ (State.commitCompared s) := by
  unfold State.commitCompared
  with_reducible repeat' (first
    | assumption | apply State.applyPage_only (hp := (fun x m => hp x (parts97_99 x m)))
    | apply State.oryxCompare_only (hp := (fun x m => hp x (parts29_99 x m)))
    | (refine Only.foldl ?_ (fun _ _ _ => ?_)) | (refine Only.foldl_snd ?_ (fun _ _ _ => ?_))
    | (refine Only.foldl_fst ?_ (fun _ _ _ => ?_)) | split | intro _ | dsimp only)

theorem State.commitConfig_only {σ : State} {ps : List Part} (s : State) (hp : ∀ x ∈ parts99, x ∈ ps) (h : Only ps σ s) :
    Only ps σ (State.commitConfig s) := by
  unfold State.commitConfig
  with_reducible repeat' (first
    | assumption | apply State.commitCompared_only (hp := hp)
    | apply State.oryxStart_only (hp := (fun x m => hp x (parts29_99 x m)))
    | apply State.fadeDiscard_only (hp := (fun x m => hp x (parts30_99 x m)))
    | apply State.fadeNote_only (hp := (fun x m => hp x (parts1_99 x m)))
    | apply State.fastReport_only (hp := (fun x m => hp x (parts1_99 x m))) | split)

theorem State.commitTake_only {σ : State} {ps : List Part} (s : State) (hp : ∀ x ∈ parts99, x ∈ ps) (h : Only ps σ s) :
    Only ps σ (State.commitTake s) := by
  unfold State.commitTake
  with_reducible repeat' (first
    | assumption | apply State.applyPage_only (hp := (fun x m => hp x (parts97_99 x m)))
    | apply State.commitConfig_only (hp := hp)
    | apply State.fadeNote_only (hp := (fun x m => hp x (parts1_99 x m)))
    | apply State.fastReport_only (hp := (fun x m => hp x (parts1_99 x m)))
    | apply State.oryxCompare_only (hp := (fun x m => hp x (parts29_99 x m)))
    | (refine Only.foldl ?_ (fun _ _ _ => ?_)) | (refine Only.foldl_snd ?_ (fun _ _ _ => ?_))
    | (refine Only.foldl_fst ?_ (fun _ _ _ => ?_)) | split | intro _ | dsimp only)

theorem State.commitStat_only {σ : State} {ps : List Part} (s : State) (f : Fld) (b : Bool) (hp : ∀ x ∈ parts1, x ∈ ps) (h : Only ps σ s) :
    Only ps σ (State.commitStat s f b) := by
  unfold State.commitStat
  with_reducible repeat' (first | assumption | apply State.putB_only (hp := hp))

theorem State.commitEnd_only {σ : State} {ps : List Part} (s : State) (hp : ∀ x ∈ parts100, x ∈ ps) (h : Only ps σ s) :
    Only ps σ (State.commitEnd s) := by
  unfold State.commitEnd
  with_reducible repeat' (first
    | assumption | apply State.commitStat_only (hp := (fun x m => hp x (parts1_100 x m)))
    | fail_if_no_progress apply Only.upd_commit (hp := (fun x m => hp x (parts101_100 x m))))

theorem State.commitRefuse_only {σ : State} {ps : List Part} (s : State) (code : Nat) (hp : ∀ x ∈ parts100, x ∈ ps) (h : Only ps σ s) :
    Only ps σ (State.commitRefuse s code) := by
  unfold State.commitRefuse
  with_reducible repeat' (first
    | assumption | apply State.put_only (hp := (fun x m => hp x (parts1_100 x m)))
    | apply State.commitStat_only (hp := (fun x m => hp x (parts1_100 x m)))
    | apply State.commitEnd_only (hp := hp)
    | apply State.raise_only (hp := (fun x m => hp x (parts1_100 x m)))
    | apply State.log_only (hp := (fun x m => hp x (parts1_100 x m))))

theorem State.commitDetail_only {σ : State} {ps : List Part} (s : State) (f : Fail) (hp : ∀ x ∈ parts1, x ∈ ps) (h : Only ps σ s) :
    Only ps σ (State.commitDetail s f) := by
  unfold State.commitDetail
  with_reducible repeat' (first | assumption | apply State.put_only (hp := hp))

theorem State.commitLate_only {σ : State} {ps : List Part} (s : State) (hp : ∀ x ∈ parts100, x ∈ ps) (h : Only ps σ s) :
    Only ps σ (State.commitLate s) := by
  unfold State.commitLate
  with_reducible repeat' (first
    | assumption | apply State.raise_only (hp := (fun x m => hp x (parts1_100 x m)))
    | apply State.commitStat_only (hp := (fun x m => hp x (parts1_100 x m)))
    | apply State.commitRefuse_only (hp := hp)
    | apply State.log_only (hp := (fun x m => hp x (parts1_100 x m)))
    | fail_if_no_progress apply Only.upd_commit (hp := (fun x m => hp x (parts101_100 x m))) | split
    | intro _ | dsimp only)

theorem State.commitDefer_only {σ : State} {ps : List Part} (s : State) (f : Fail) (hp : ∀ x ∈ parts100, x ∈ ps) (h : Only ps σ s) :
    Only ps σ (State.commitDefer s f) := by
  unfold State.commitDefer
  with_reducible repeat' (first
    | assumption | apply State.commitDetail_only (hp := (fun x m => hp x (parts1_100 x m)))
    | apply State.commitRefuse_only (hp := hp)
    | apply State.commitStat_only (hp := (fun x m => hp x (parts1_100 x m)))
    | apply State.put_only (hp := (fun x m => hp x (parts1_100 x m)))
    | apply State.bump_only (hp := (fun x m => hp x (parts1_100 x m)))
    | apply State.raise_only (hp := (fun x m => hp x (parts1_100 x m)))
    | apply State.log_only (hp := (fun x m => hp x (parts1_100 x m))) | split | intro _ | dsimp only)

theorem State.commitStart_only {σ : State} {ps : List Part} (s : State) (mask : Nat) (timing : Nat) (strict : Bool) (target : Nat) (hp : ∀ x ∈ parts100, x ∈ ps) (h : Only ps σ s) :
    Only ps σ (State.commitStart s mask timing strict target) := by
  unfold State.commitStart
  with_reducible repeat' (first
    | assumption | apply State.commitStat_only (hp := (fun x m => hp x (parts1_100 x m)))
    | apply State.put_only (hp := (fun x m => hp x (parts1_100 x m)))
    | apply State.commitLate_only (hp := hp) | (refine Only.foldl ?_ (fun _ _ _ => ?_))
    | (refine Only.foldl_snd ?_ (fun _ _ _ => ?_)) | (refine Only.foldl_fst ?_ (fun _ _ _ => ?_))
    | fail_if_no_progress apply Only.upd_commit (hp := (fun x m => hp x (parts101_100 x m))) | split
    | intro _ | dsimp only)

theorem State.commitAbort_only {σ : State} {ps : List Part} (s : State) (hp : ∀ x ∈ parts100, x ∈ ps) (h : Only ps σ s) :
    Only ps σ (State.commitAbort s) := by
  unfold State.commitAbort
  with_reducible repeat' (first
    | assumption | apply State.commitStat_only (hp := (fun x m => hp x (parts1_100 x m)))
    | apply State.commitEnd_only (hp := hp) | split)

theorem State.commitGo_only {σ : State} {ps : List Part} (s : State) (hp : ∀ x ∈ parts100, x ∈ ps) (h : Only ps σ s) :
    Only ps σ (State.commitGo s) := by
  unfold State.commitGo
  with_reducible repeat' (first
    | assumption | apply State.log_only (hp := (fun x m => hp x (parts1_100 x m)))
    | apply State.commitStart_only (hp := hp) | split | intro _ | dsimp only)

theorem State.commitCtrl_only {σ : State} {ps : List Part} (s : State) (v : Nat) (hp : ∀ x ∈ parts100, x ∈ ps) (h : Only ps σ s) :
    Only ps σ (State.commitCtrl s v) := by
  unfold State.commitCtrl
  with_reducible repeat' (first
    | assumption | apply State.put_only (hp := (fun x m => hp x (parts1_100 x m)))
    | apply State.putB_only (hp := (fun x m => hp x (parts1_100 x m)))
    | apply State.commitAbort_only (hp := hp) | apply State.commitGo_only (hp := hp) | split)

theorem execCommitGo_only {σ : State} {ps : List Part} (ctrl : Word) (s : State) {t : State} (hp : ∀ x ∈ parts100, x ∈ ps) (h : Only ps σ s)
    (e : (execCommitGo ctrl s) = .next t) : Only ps σ t := by
  unfold execCommitGo at e
  refine Only.next ?_ e
  with_reducible repeat' (first
    | assumption | apply State.blockWrite_only (hp := (fun x m => hp x (parts1_100 x m)))
    | apply State.commitCtrl_only (hp := hp) | split | intro _)

theorem execCommitAbort_only {σ : State} {ps : List Part} (ctrl : Word) (s : State) {t : State} (hp : ∀ x ∈ parts100, x ∈ ps) (h : Only ps σ s)
    (e : (execCommitAbort ctrl s) = .next t) : Only ps σ t := by
  unfold execCommitAbort at e
  refine Only.next ?_ e
  with_reducible repeat' (first
    | assumption | apply State.blockWrite_only (hp := (fun x m => hp x (parts1_100 x m)))
    | apply State.commitCtrl_only (hp := hp) | split | intro _)

theorem State.validated_only {σ : State} {ps : List Part} (s : State) (hp : ∀ x ∈ parts102, x ∈ ps) (h : Only ps σ s) :
    Only ps σ (State.validated s) := by
  unfold State.validated
  with_reducible repeat' (first
    | assumption | apply State.commitLate_only (hp := (fun x m => hp x (parts100_102 x m)))
    | apply State.commitConfig_only (hp := (fun x m => hp x (parts99_102 x m)))
    | apply State.commitRefuse_only (hp := (fun x m => hp x (parts100_102 x m)))
    | apply State.commitDetail_only (hp := (fun x m => hp x (parts1_102 x m)))
    | fail_if_no_progress apply Only.upd_commit (hp := (fun x m => hp x (parts101_102 x m))) | split
    | intro _ | dsimp only)

theorem execCommitValidationDone_only {σ : State} {ps : List Part} (s : State) {t : State} (hp : ∀ x ∈ parts102, x ∈ ps) (h : Only ps σ s)
    (e : (execCommitValidationDone s) = .next t) : Only ps σ t := by
  unfold execCommitValidationDone at e
  refine Only.next ?_ e
  with_reducible repeat' (first | assumption | apply State.validated_only (hp := hp) | split)

theorem State.ringCommit_only {σ : State} {ps : List Part} (s : State) (old : State) (hp : ∀ x ∈ parts59, x ∈ ps) (h : Only ps σ s) :
    Only ps σ (State.ringCommit s old) := by
  unfold State.ringCommit
  with_reducible repeat' (first
    | assumption | apply State.streamRestart_only (hp := (fun x m => hp x (parts43_59 x m)))
    | apply State.ringLoads_only (hp := (fun x m => hp x (parts1_59 x m)))
    | (refine Only.foldl ?_ (fun _ _ _ => ?_)) | (refine Only.foldl_snd ?_ (fun _ _ _ => ?_))
    | (refine Only.foldl_fst ?_ (fun _ _ _ => ?_))
    | fail_if_no_progress apply Only.upd_ring (hp := (fun x m => hp x (parts43_59 x m))) | split)

theorem State.migCommit_only {σ : State} {ps : List Part} (s : State) (pages : List Nat) (c : Nat) (hp : ∀ x ∈ parts19, x ∈ ps) (h : Only ps σ s) :
    Only ps σ (State.migCommit s pages c) := by
  unfold State.migCommit
  with_reducible repeat' (first
    | assumption | apply State.put_only (hp := (fun x m => hp x (parts1_19 x m)))
    | apply State.putB_only (hp := (fun x m => hp x (parts1_19 x m)))
    | apply State.setCl_only (hp := (fun x m => hp x (parts17_19 x m)))
    | apply State.raise_only (hp := (fun x m => hp x (parts1_19 x m)))
    | apply State.release_only (hp := (fun x m => hp x (parts12_19 x m)))
    | apply State.migCancel_only (hp := hp) | split | intro _ | dsimp only)

theorem State.ringMute_only {σ : State} {ps : List Part} (s : State) (old : State) (fast : List Nat) (b : BitVec 32) (hp : ∀ x ∈ parts43, x ∈ ps) (h : Only ps σ s) :
    Only ps σ (State.ringMute s old fast b) := by
  unfold State.ringMute
  with_reducible repeat' (first
    | assumption | apply State.setPort_only (hp := hp) | (refine Only.foldl ?_ (fun _ _ _ => ?_))
    | (refine Only.foldl_snd ?_ (fun _ _ _ => ?_)) | (refine Only.foldl_fst ?_ (fun _ _ _ => ?_))
    | fail_if_no_progress apply Only.upd_ring (hp := hp))

theorem State.ampsMute_only {σ : State} {ps : List Part} (s : State) (old : State) (fast : List Nat) (hp : ∀ x ∈ parts86, x ∈ ps) (h : Only ps σ s) :
    Only ps σ (State.ampsMute s old fast) := by
  unfold State.ampsMute
  with_reducible repeat' (first
    | assumption | apply State.setAmp_only (hp := hp) | (refine Only.foldl ?_ (fun _ _ _ => ?_))
    | (refine Only.foldl_snd ?_ (fun _ _ _ => ?_)) | (refine Only.foldl_fst ?_ (fun _ _ _ => ?_)) | split
    | intro _ | dsimp only)

theorem State.runStart_only {σ : State} {ps : List Part} (s : State) (b : BitVec 32) (hp : ∀ x ∈ parts103, x ∈ ps) (h : Only ps σ s) :
    Only ps σ (State.runStart s b) := by
  unfold State.runStart
  with_reducible repeat' (first
    | assumption | apply State.delayStart_only (hp := (fun x m => hp x (parts40_103 x m)))
    | apply State.raise_only (hp := (fun x m => hp x (parts1_103 x m)))
    | fail_if_no_progress apply Only.upd_fseq_eqSecs (hp := (fun x m => hp x (parts104_103 x m))))

theorem State.runStop_only {σ : State} {ps : List Part} (s : State) (old : State) (b : BitVec 32) (hp : ∀ x ∈ parts105, x ∈ ps) (h : Only ps σ s) :
    Only ps σ (State.runStop s old b) := by
  unfold State.runStop
  with_reducible repeat' (first
    | assumption | apply State.raise_only (hp := (fun x m => hp x (parts1_105 x m)))
    | apply State.ampsMute_only (hp := (fun x m => hp x (parts86_105 x m)))
    | apply State.ringMute_only (hp := (fun x m => hp x (parts43_105 x m)))
    | apply State.portsMute_only (hp := (fun x m => hp x (parts71_105 x m)))
    | fail_if_no_progress apply Only.upd_fseq (hp := (fun x m => hp x (parts80_105 x m))))

theorem State.keepOld_only {σ : State} {ps : List Part} (s : State) (old : State) (pages : List Nat) (hp : ∀ x ∈ parts80, x ∈ ps) (h : Only ps σ s) :
    Only ps σ (State.keepOld s old pages) := by
  unfold State.keepOld
  with_reducible repeat' (first | assumption | fail_if_no_progress apply Only.upd_fseq (hp := hp))

theorem State.engineHooks_only {σ : State} {ps : List Part} (s : State) (old : State) (pages : List Nat) (b : BitVec 32) (hp : ∀ x ∈ parts106, x ∈ ps) (h : Only ps σ s) :
    Only ps σ (State.engineHooks s old pages b) := by
  unfold State.engineHooks
  with_reducible repeat' (first
    | assumption | apply State.delayCounts_only (hp := (fun x m => hp x (parts1_106 x m)))
    | apply State.commitFetch_only (hp := (fun x m => hp x (parts40_106 x m)))
    | apply State.keepOld_only (hp := (fun x m => hp x (parts80_106 x m)))
    | apply State.eqCompare_only (hp := (fun x m => hp x (parts35_106 x m)))
    | apply State.delayCompare_only (hp := (fun x m => hp x (parts38_106 x m)))
    | apply State.meterRestart_only (hp := (fun x m => hp x (parts32_106 x m)))
    | apply State.ringCommit_only (hp := (fun x m => hp x (parts59_106 x m))) | split | intro _
    | dsimp only)

theorem State.audioHooks_only {σ : State} {ps : List Part} (s : State) (old : State) (pages : List Nat) (b : BitVec 32) (hp : ∀ x ∈ parts107, x ∈ ps) (h : Only ps σ s) :
    Only ps σ (State.audioHooks s old pages b) := by
  unfold State.audioHooks
  with_reducible repeat' (first
    | assumption | apply State.ampCommit_only (hp := (fun x m => hp x (parts86_107 x m)))
    | apply State.portCommit_only (hp := (fun x m => hp x (parts71_107 x m)))
    | (refine Only.foldl ?_ (fun _ _ _ => ?_)) | (refine Only.foldl_snd ?_ (fun _ _ _ => ?_))
    | (refine Only.foldl_fst ?_ (fun _ _ _ => ?_)) | split | intro _ | dsimp only)

theorem State.hooks_only {σ : State} {ps : List Part} (s : State) (old : State) (pages : List Nat) (b : BitVec 32) (hp : ∀ x ∈ parts108, x ∈ ps) (h : Only ps σ s) :
    Only ps σ (State.hooks s old pages b) := by
  unfold State.hooks
  with_reducible repeat' (first
    | assumption | apply State.audioHooks_only (hp := (fun x m => hp x (parts107_108 x m)))
    | apply State.engineHooks_only (hp := (fun x m => hp x (parts106_108 x m)))
    | apply State.runStart_only (hp := (fun x m => hp x (parts103_108 x m)))
    | apply State.runStop_only (hp := (fun x m => hp x (parts105_108 x m)))
    | apply State.migCommit_only (hp := (fun x m => hp x (parts19_108 x m)))
    | apply State.noteRetire_only (hp := (fun x m => hp x (parts1_108 x m)))
    | (refine Only.foldl ?_ (fun _ _ _ => ?_)) | (refine Only.foldl_snd ?_ (fun _ _ _ => ?_))
    | (refine Only.foldl_fst ?_ (fun _ _ _ => ?_)) | split)

theorem State.freezeIngress_only {σ : State} {ps : List Part} (s : State) (hp : ∀ x ∈ parts109, x ∈ ps) (h : Only ps σ s) :
    Only ps σ (State.freezeIngress s) := by
  unfold State.freezeIngress
  with_reducible repeat' (first
    | assumption | apply State.setAud_only (hp := (fun x m => hp x (parts71_109 x m)))
    | (refine Only.foldl ?_ (fun _ _ _ => ?_)) | (refine Only.foldl_snd ?_ (fun _ _ _ => ?_))
    | (refine Only.foldl_fst ?_ (fun _ _ _ => ?_))
    | fail_if_no_progress apply Only.upd_fseq (hp := (fun x m => hp x (parts80_109 x m))) | split)

theorem State.reportCommit_only {σ : State} {ps : List Part} (s : State) (full : State) (hp : ∀ x ∈ parts1, x ∈ ps) (h : Only ps σ s) :
    Only ps σ (State.reportCommit s full) := by
  unfold State.reportCommit
  with_reducible repeat' (first
    | assumption | apply State.put_only (hp := hp) | (refine Only.foldl ?_ (fun _ _ _ => ?_))
    | (refine Only.foldl_snd ?_ (fun _ _ _ => ?_)) | (refine Only.foldl_fst ?_ (fun _ _ _ => ?_)) | split)

theorem State.commitDropNote_only {σ : State} {ps : List Part} (s : State) (past : State) (hp : ∀ x ∈ parts99, x ∈ ps) (h : Only ps σ s) :
    Only ps σ (State.commitDropNote s past) := by
  unfold State.commitDropNote
  with_reducible repeat' (first
    | assumption | apply State.fadeDropNote_only (hp := (fun x m => hp x (parts1_99 x m)))
    | apply State.commitCompared_only (hp := hp) | split)

theorem State.commitApplied_only {σ : State} {ps : List Part} (s : State) (b : BitVec 32) (hp : ∀ x ∈ parts110, x ∈ ps) (h : Only ps σ s) :
    Only ps σ (State.commitApplied s b) := by
  unfold State.commitApplied
  with_reducible repeat' (first
    | assumption | apply State.throughG2_only (hp := (fun x m => hp x (parts82_110 x m)))
    | apply State.freezeIngress_only (hp := (fun x m => hp x (parts109_110 x m)))
    | apply State.takeUp_only (hp := (fun x m => hp x (parts79_110 x m)))
    | apply State.commitDropNote_only (hp := (fun x m => hp x (parts99_110 x m)))
    | apply State.reportCommit_only (hp := (fun x m => hp x (parts1_110 x m)))
    | apply State.hooks_only (hp := (fun x m => hp x (parts108_110 x m)))
    | apply State.commitTake_only (hp := (fun x m => hp x (parts99_110 x m)))
    | apply State.reportSchedule_only (hp := (fun x m => hp x (parts1_110 x m)))
    | apply State.commitConfig_only (hp := (fun x m => hp x (parts99_110 x m)))
    | apply State.put_only (hp := (fun x m => hp x (parts1_110 x m)))
    | apply State.presentHeld_only (hp := (fun x m => hp x (parts68_110 x m)))
    | apply State.commitEnd_only (hp := (fun x m => hp x (parts100_110 x m)))
    | apply State.raise_only (hp := (fun x m => hp x (parts1_110 x m)))
    | apply State.commitStat_only (hp := (fun x m => hp x (parts1_110 x m)))
    | fail_if_no_progress apply Only.upd_fseq_oryx (hp := (fun x m => hp x (parts111_110 x m))))

theorem State.commitBoundary_only {σ : State} {ps : List Part} (s : State) (b : BitVec 32) (hp : ∀ x ∈ parts110, x ∈ ps) (h : Only ps σ s) :
    Only ps σ (State.commitBoundary s b) := by
  unfold State.commitBoundary
  with_reducible repeat' (first
    | assumption | apply State.throughG2_only (hp := (fun x m => hp x (parts82_110 x m)))
    | apply State.commitConfig_only (hp := (fun x m => hp x (parts99_110 x m)))
    | apply State.commitRefuse_only (hp := (fun x m => hp x (parts100_110 x m)))
    | apply State.commitDetail_only (hp := (fun x m => hp x (parts1_110 x m)))
    | apply State.presentHeld_only (hp := (fun x m => hp x (parts68_110 x m)))
    | apply State.commitDefer_only (hp := (fun x m => hp x (parts100_110 x m)))
    | apply State.commitApplied_only (hp := hp) | split | intro _ | dsimp only)

theorem execCommitApply_only {σ : State} {ps : List Part} (s : State) {t : State} (hp : ∀ x ∈ parts110, x ∈ ps) (h : Only ps σ s)
    (e : (execCommitApply s) = .next t) : Only ps σ t := by
  unfold execCommitApply at e
  refine Only.next ?_ e
  with_reducible repeat' (first
    | assumption | apply State.commitLate_only (hp := (fun x m => hp x (parts100_110 x m)))
    | apply State.presentHeld_only (hp := (fun x m => hp x (parts68_110 x m)))
    | apply State.commitBoundary_only (hp := hp) | split)

theorem State.clearIngress_only {σ : State} {ps : List Part} (s : State) (b : Nat) (k : Nat) (hp : ∀ x ∈ parts28, x ∈ ps) (h : Only ps σ s) :
    Only ps σ (State.clearIngress s b k) := by
  unfold State.clearIngress
  with_reducible repeat' (first
    | assumption | (refine Only.foldl ?_ (fun _ _ _ => ?_)) | (refine Only.foldl_snd ?_ (fun _ _ _ => ?_))
    | (refine Only.foldl_fst ?_ (fun _ _ _ => ?_)) | fail_if_no_progress apply Only.upd_marks (hp := hp))

theorem State.land_only {σ : State} {ps : List Part} (s : State) (b : Nat) (k : Nat) (hp : ∀ x ∈ parts27, x ∈ ps) (h : Only ps σ s) :
    Only ps σ (State.land s b k) := by
  unfold State.land
  with_reducible repeat' (first
    | assumption | apply State.planeWrite_only (hp := hp) | (refine Only.foldl ?_ (fun _ _ _ => ?_)))

theorem State.enter_only {σ : State} {ps : List Part} (s : State) (t : BitVec 32) (sense : List SensePair) (hp : ∀ x ∈ parts80, x ∈ ps) (h : Only ps σ s) :
    Only ps σ (State.enter s t sense) := by
  unfold State.enter
  with_reducible repeat' (first | assumption | fail_if_no_progress apply Only.upd_fseq (hp := hp))

theorem State.fastTick_only {σ : State} {ps : List Part} (s : State) (t : BitVec 32) (hp : ∀ x ∈ parts31, x ∈ ps) (h : Only ps σ s) :
    Only ps σ (State.fastTick s t).2 := by
  unfold State.fastTick
  with_reducible repeat' (first
    | assumption | apply State.fastEval_only (hp := (fun x m => hp x (parts30_31 x m)))
    | apply State.planeWrite_only (hp := (fun x m => hp x (parts27_31 x m)))
    | (refine Only.foldl ?_ (fun _ _ _ => ?_)))

theorem State.mixTick_only {σ : State} {ps : List Part} (s : State) (t : BitVec 32) (hp : ∀ x ∈ parts112, x ∈ ps) (h : Only ps σ s) :
    Only ps σ (State.mixTick s t).2 := by
  unfold State.mixTick
  with_reducible repeat' (first
    | assumption | apply State.meterTick_only (hp := (fun x m => hp x (parts33_112 x m)))
    | apply State.land_only (hp := (fun x m => hp x (parts27_112 x m)))
    | apply State.clearIngress_only (hp := (fun x m => hp x (parts28_112 x m)))
    | apply State.fastTick_only (hp := (fun x m => hp x (parts31_112 x m)))
    | apply State.inWindow_only (hp := (fun x m => hp x (parts78_112 x m)))
    | apply State.fastFrameEnd_only (hp := (fun x m => hp x (parts30_112 x m)))
    | apply State.restartRefilled_only (hp := (fun x m => hp x (parts39_112 x m)))
    | apply State.notelinesLost_only (hp := (fun x m => hp x (parts39_112 x m)))
    | apply State.noteRetire_only (hp := (fun x m => hp x (parts1_112 x m)))
    | apply State.dropEnded_only (hp := (fun x m => hp x (parts29_112 x m)))
    | apply State.windowStart__only (hp := (fun x m => hp x (parts82_112 x m))) | split | intro _
    | dsimp only)

theorem State.planeAbsent_only {σ : State} {ps : List Part} (s : State) (sense : List SensePair) (hp : ∀ x ∈ parts1, x ∈ ps) (h : Only ps σ s) :
    Only ps σ (State.planeAbsent s sense) := by
  unfold State.planeAbsent
  with_reducible repeat' (first
    | assumption | apply State.log_only (hp := hp) | (refine Only.foldl ?_ (fun _ _ _ => ?_)))

theorem State.fsTick_only {σ : State} {ps : List Part} (s : State) (t : BitVec 32) (sense : List SensePair) (hp : ∀ x ∈ parts113, x ∈ ps) (h : Only ps σ s) :
    Only ps σ (State.fsTick s t sense) := by
  unfold State.fsTick
  with_reducible repeat' (first
    | assumption | apply State.presentHeld_only (hp := (fun x m => hp x (parts68_113 x m)))
    | apply State.atPhase_only (hp := (fun x m => hp x (parts5_113 x m)))
    | apply State.presentAll_only (hp := (fun x m => hp x (parts68_113 x m)))
    | apply State.mixTick_only (hp := (fun x m => hp x (parts112_113 x m)))
    | apply State.planeAbsent_only (hp := (fun x m => hp x (parts1_113 x m)))
    | apply State.enter_only (hp := (fun x m => hp x (parts80_113 x m)))
    | apply State.injectFormed_only (hp := (fun x m => hp x (parts59_113 x m)))
    | apply State.formCells_only (hp := (fun x m => hp x (parts43_113 x m)))
    | apply State.ampsTick_only (hp := (fun x m => hp x (parts92_113 x m)))
    | apply State.portsTick_only (hp := (fun x m => hp x (parts72_113 x m)))
    | (refine Only.foldl ?_ (fun _ _ _ => ?_)) | (refine Only.foldl_snd ?_ (fun _ _ _ => ?_))
    | (refine Only.foldl_fst ?_ (fun _ _ _ => ?_))
    | fail_if_no_progress apply Only.upd_fseq (hp := (fun x m => hp x (parts80_113 x m))) | split | intro _
    | dsimp only)

theorem execFsTick_only {σ : State} {ps : List Part} (sense : List SensePair) (s : State) {t : State} (hp : ∀ x ∈ parts113, x ∈ ps) (h : Only ps σ s)
    (e : (execFsTick sense s) = .next t) : Only ps σ t := by
  unfold execFsTick at e
  refine Only.next ?_ e
  with_reducible repeat' (first | assumption | apply State.fsTick_only (hp := hp) | split)

theorem State.noteFinish_only {σ : State} {ps : List Part} (s : State) (i : Nat) (overrun : Nat) (hp : ∀ x ∈ parts80, x ∈ ps) (h : Only ps σ s) :
    Only ps σ (State.noteFinish s i overrun) := by
  unfold State.noteFinish
  with_reducible repeat' (first | assumption | fail_if_no_progress apply Only.upd_fseq (hp := hp))

theorem State.waitAll_only {σ : State} {ps : List Part} (s : State) (c : Nat) (t : Nat) (hp : ∀ x ∈ parts18, x ∈ ps) (h : Only ps σ s) :
    Only ps σ (State.waitAll s c t) := by
  unfold State.waitAll
  with_reducible repeat' (first
    | assumption | apply State.setCore_only (hp := hp) | (refine Only.foldl ?_ (fun _ _ _ => ?_)))

theorem State.clusterPass_only {σ : State} {ps : List Part} (s : State) (i : Nat) (hp : ∀ x ∈ parts114, x ∈ ps) (h : Only ps σ s) :
    Only ps σ (State.clusterPass s i) := by
  unfold State.clusterPass
  with_reducible repeat' (first
    | assumption | apply State.setCore_only (hp := (fun x m => hp x (parts18_114 x m)))
    | apply State.setCl_only (hp := (fun x m => hp x (parts17_114 x m)))
    | (refine Only.foldl ?_ (fun _ _ _ => ?_)) | (refine Only.foldl_snd ?_ (fun _ _ _ => ?_))
    | (refine Only.foldl_fst ?_ (fun _ _ _ => ?_)) | split)

theorem State.passStart_only {σ : State} {ps : List Part} (s : State) (pass : Nat) (hp : ∀ x ∈ parts82, x ∈ ps) (h : Only ps σ s) :
    Only ps σ (State.passStart s pass) := by
  unfold State.passStart
  with_reducible repeat' (first
    | assumption | apply State.clusterPass_only (hp := (fun x m => hp x (parts114_82 x m)))
    | apply State.enginePass_only (hp := (fun x m => hp x (parts81_82 x m)))
    | apply State.noteFinish_only (hp := (fun x m => hp x (parts80_82 x m)))
    | fail_if_no_progress apply Only.upd_fseq (hp := (fun x m => hp x (parts80_82 x m))) | split | intro _
    | dsimp only)

theorem execPassStart_only {σ : State} {ps : List Part} (pass : Nat) (s : State) {t : State} (hp : ∀ x ∈ parts82, x ∈ ps) (h : Only ps σ s)
    (e : (execPassStart pass s) = .next t) : Only ps σ t := by
  unfold execPassStart at e
  refine Only.next ?_ e
  with_reducible repeat' (first
    | assumption | apply State.inWindow_only (hp := (fun x m => hp x (parts78_82 x m)))
    | apply State.passStart_only (hp := hp) | split | intro _)

theorem State.clearOutputs_only {σ : State} {ps : List Part} (s : State) (c : Nat) (hp : ∀ x ∈ parts28, x ∈ ps) (h : Only ps σ s) :
    Only ps σ (State.clearOutputs s c) := by
  unfold State.clearOutputs
  with_reducible repeat' (first | assumption | fail_if_no_progress apply Only.upd_marks (hp := hp))

theorem State.setFadePos_only {σ : State} {ps : List Part} (s : State) (c : Nat) (m : Nat) (hp : ∀ x ∈ parts1, x ∈ ps) (h : Only ps σ s) :
    Only ps σ (State.setFadePos s c m) := by
  unfold State.setFadePos
  with_reducible repeat' (first | assumption | apply State.put_only (hp := hp) | split)

theorem State.passOverrun_only {σ : State} {ps : List Part} (s : State) (pass : Nat) (hp : ∀ x ∈ parts115, x ∈ ps) (h : Only ps σ s) :
    Only ps σ (State.passOverrun s pass) := by
  unfold State.passOverrun
  with_reducible repeat' (first
    | assumption | apply State.bump_only (hp := (fun x m => hp x (parts1_115 x m)))
    | apply State.noteFinish_only (hp := (fun x m => hp x (parts80_115 x m)))
    | apply State.raise_only (hp := (fun x m => hp x (parts1_115 x m)))
    | apply State.clearOutputs_only (hp := (fun x m => hp x (parts28_115 x m)))
    | apply State.setFadePos_only (hp := (fun x m => hp x (parts1_115 x m)))
    | apply State.waitAll_only (hp := (fun x m => hp x (parts18_115 x m)))
    | apply State.setCl_only (hp := (fun x m => hp x (parts17_115 x m))) | split | intro _ | dsimp only)

theorem execClusterPassOverrun_only {σ : State} {ps : List Part} (pass : Nat) (s : State) {t : State} (hp : ∀ x ∈ parts116, x ∈ ps) (h : Only ps σ s)
    (e : (execClusterPassOverrun pass s) = .next t) : Only ps σ t := by
  unfold execClusterPassOverrun at e
  refine Only.next ?_ e
  with_reducible repeat' (first
    | assumption | apply State.inWindow_only (hp := (fun x m => hp x (parts78_116 x m)))
    | apply State.passOverrun_only (hp := (fun x m => hp x (parts115_116 x m))) | split | intro _)

theorem State.dropMarks_only {σ : State} {ps : List Part} (s : State) (n : Nat) (hp : ∀ x ∈ parts28, x ∈ ps) (h : Only ps σ s) :
    Only ps σ (State.dropMarks s n) := by
  unfold State.dropMarks
  with_reducible repeat' (first | assumption | fail_if_no_progress apply Only.upd_marks (hp := hp))

theorem State.frameCfg_only {σ : State} {ps : List Part} (s : State) (v : Nat) (hp : ∀ x ∈ parts117, x ∈ ps) (h : Only ps σ s) :
    Only ps σ (State.frameCfg s v) := by
  unfold State.frameCfg
  with_reducible repeat' (first
    | assumption | apply State.log_only (hp := (fun x m => hp x (parts1_117 x m)))
    | apply State.dropMarks_only (hp := (fun x m => hp x (parts28_117 x m)))
    | apply State.put_only (hp := (fun x m => hp x (parts1_117 x m))) | split)

theorem execFrameCfgWrite_only {σ : State} {ps : List Part} (value : Word) (s : State) {t : State} (hp : ∀ x ∈ parts117, x ∈ ps) (h : Only ps σ s)
    (e : (execFrameCfgWrite value s) = .next t) : Only ps σ t := by
  unfold execFrameCfgWrite at e
  refine Only.next ?_ e
  with_reducible repeat' (first
    | assumption | apply State.blockWrite_only (hp := (fun x m => hp x (parts1_117 x m)))
    | apply State.frameCfg_only (hp := hp) | split | intro _)

theorem State.clipDataRead_only {σ : State} {ps : List Part} (s : State) (hp : ∀ x ∈ parts118, x ∈ ps) (h : Only ps σ s) :
    Only ps σ (State.clipDataRead s) := by
  unfold State.clipDataRead
  with_reducible repeat' (first | assumption | fail_if_no_progress apply Only.upd_oryx_readData (hp := hp))

theorem execClipDataRead_only {σ : State} {ps : List Part} (s : State) {t : State} (hp : ∀ x ∈ parts119, x ∈ ps) (h : Only ps σ s)
    (e : (execClipDataRead s) = .next t) : Only ps σ t := by
  unfold execClipDataRead at e
  refine Only.next ?_ e
  with_reducible repeat' (first
    | assumption | apply State.blockRead_only (hp := (fun x m => hp x (parts8_119 x m)))
    | apply State.clipDataRead_only (hp := (fun x m => hp x (parts118_119 x m))))

theorem State.planeRefuse_only {σ : State} {ps : List Part} (s : State) (hp : ∀ x ∈ parts1, x ∈ ps) (h : Only ps σ s) :
    Only ps σ (State.planeRefuse s) := by
  unfold State.planeRefuse
  with_reducible repeat' (first
    | assumption | apply State.raise_only (hp := hp) | apply State.log_only (hp := hp))

theorem State.planeBusWrite_only {σ : State} {ps : List Part} (s : State) (core : Option Nat) (l : List (Nat × Byte)) (hp : ∀ x ∈ parts120, x ∈ ps) (h : Only ps σ s) :
    Only ps σ (State.planeBusWrite s core l) := by
  unfold State.planeBusWrite
  with_reducible repeat' (first
    | assumption | apply State.log_only (hp := (fun x m => hp x (parts1_120 x m)))
    | apply State.planeRefuse_only (hp := (fun x m => hp x (parts1_120 x m)))
    | apply State.setBytes_only (hp := (fun x m => hp x (parts10_120 x m)))
    | fail_if_no_progress apply Only.upd_marks (hp := (fun x m => hp x (parts28_120 x m))) | split | intro _
    | dsimp only)

theorem execSignalPlaneWrite_only {σ : State} {ps : List Part} (acc : Access) (core : Nat) (s : State) {t : State} (hp : ∀ x ∈ parts120, x ∈ ps) (h : Only ps σ s)
    (e : (execSignalPlaneWrite acc core s) = .next t) : Only ps σ t := by
  unfold execSignalPlaneWrite at e
  refine Only.next ?_ e
  with_reducible repeat' (first | assumption | apply State.planeBusWrite_only (hp := hp) | split)

theorem execStoreEccWriteback_only {σ : State} {ps : List Part} (addr : Nat) (s : State) {t : State} (hp : ∀ x ∈ parts14, x ∈ ps) (h : Only ps σ s)
    (e : (execStoreEccWriteback addr s) = .next t) : Only ps σ t := by
  unfold execStoreEccWriteback at e
  refine Only.next ?_ e
  with_reducible repeat' (first | assumption | apply State.setStoreEcc_only (hp := hp) | split)

theorem State.storeSweep_only {σ : State} {ps : List Part} (s : State) (b : Nat) (hp : ∀ x ∈ parts121, x ∈ ps) (h : Only ps σ s) :
    Only ps σ (State.storeSweep s b) := by
  unfold State.storeSweep
  with_reducible repeat' (first
    | assumption | apply State.setStoreEcc_only (hp := (fun x m => hp x (parts14_121 x m)))
    | apply State.storeEccEvent_only (hp := (fun x m => hp x (parts15_121 x m)))
    | (refine Only.foldl ?_ (fun _ _ _ => ?_)) | (refine Only.foldl_snd ?_ (fun _ _ _ => ?_))
    | (refine Only.foldl_fst ?_ (fun _ _ _ => ?_)) | split)

theorem State.bankClear_only {σ : State} {ps : List Part} (s : State) (b : Nat) (hp : ∀ x ∈ parts22, x ∈ ps) (h : Only ps σ s) :
    Only ps σ (State.bankClear s b) := by
  unfold State.bankClear
  with_reducible repeat' (first | assumption | fail_if_no_progress apply Only.upd_mem_ecc (hp := hp))

theorem State.putBit_only {σ : State} {ps : List Part} (s : State) (p : Nat) (f : Fld) (b : Nat) (v : Bool) (hp : ∀ x ∈ parts1, x ∈ ps) (h : Only ps σ s) :
    Only ps σ (State.putBit s p f b v) := by
  unfold State.putBit
  with_reducible repeat' (first | assumption | apply State.put_only (hp := hp))

theorem State.setLost_only {σ : State} {ps : List Part} (s : State) (b : Nat) (cause : Nat) (hp : ∀ x ∈ parts1, x ∈ ps) (h : Only ps σ s) :
    Only ps σ (State.setLost s b cause) := by
  unfold State.setLost
  with_reducible repeat' (first
    | assumption | apply State.put_only (hp := hp) | apply State.putBit_only (hp := hp))

theorem State.zfill_only {σ : State} {ps : List Part} (s : State) (bits_ : Nat) (hp : ∀ x ∈ parts1, x ∈ ps) (h : Only ps σ s) :
    Only ps σ (State.zfill s bits_) := by
  unfold State.zfill
  with_reducible repeat' (first
    | assumption | apply State.log_only (hp := hp) | apply State.putBit_only (hp := hp)
    | (refine Only.foldl ?_ (fun _ _ _ => ?_)) | (refine Only.foldl_snd ?_ (fun _ _ _ => ?_))
    | (refine Only.foldl_fst ?_ (fun _ _ _ => ?_)) | split)

theorem execZfill_only {σ : State} {ps : List Part} (bits : Word) (s : State) {t : State} (hp : ∀ x ∈ parts1, x ∈ ps) (h : Only ps σ s)
    (e : (execZfill bits s) = .next t) : Only ps σ t := by
  unfold execZfill at e
  refine Only.next ?_ e
  with_reducible repeat' (first
    | assumption | apply State.blockWrite_only (hp := hp) | apply State.zfill_only (hp := hp) | split
    | intro _)

theorem execZfillDone_only {σ : State} {ps : List Part} (bank : Nat) (s : State) {t : State} (hp : ∀ x ∈ parts122, x ∈ ps) (h : Only ps σ s)
    (e : (execZfillDone bank s) = .next t) : Only ps σ t := by
  unfold execZfillDone at e
  refine Only.next ?_ e
  with_reducible repeat' (first
    | assumption | apply State.inWindow_only (hp := (fun x m => hp x (parts78_122 x m)))
    | apply State.notelinesLost_only (hp := (fun x m => hp x (parts39_122 x m)))
    | apply State.raise_only (hp := (fun x m => hp x (parts1_122 x m)))
    | apply State.putBit_only (hp := (fun x m => hp x (parts1_122 x m)))
    | apply State.setLost_only (hp := (fun x m => hp x (parts1_122 x m)))
    | apply State.bankClear_only (hp := (fun x m => hp x (parts22_122 x m))) | split)

theorem State.scrubStop_only {σ : State} {ps : List Part} (s : State) (hp : ∀ x ∈ parts12, x ∈ ps) (h : Only ps σ s) :
    Only ps σ (State.scrubStop s) := by
  unfold State.scrubStop
  with_reducible repeat' (first
    | assumption | apply State.putB_only (hp := (fun x m => hp x (parts1_12 x m)))
    | apply State.release_only (hp := hp))

theorem execScrubPassStart_only {σ : State} {ps : List Part} (s : State) {t : State} (hp : ∀ x ∈ parts12, x ∈ ps) (h : Only ps σ s)
    (e : (execScrubPassStart s) = .next t) : Only ps σ t := by
  unfold execScrubPassStart at e
  refine Only.next ?_ e
  with_reducible repeat' (first | assumption | apply State.request_only (hp := hp) | split)

theorem execScrubPassEnd_only {σ : State} {ps : List Part} (s : State) {t : State} (hp : ∀ x ∈ parts123, x ∈ ps) (h : Only ps σ s)
    (e : (execScrubPassEnd s) = .next t) : Only ps σ t := by
  unfold execScrubPassEnd at e
  refine Only.next ?_ e
  with_reducible repeat' (first
    | assumption | apply State.storeSweep_only (hp := (fun x m => hp x (parts121_123 x m)))
    | apply State.put_only (hp := (fun x m => hp x (parts1_123 x m)))
    | apply State.scrubStop_only (hp := (fun x m => hp x (parts12_123 x m)))
    | (refine Only.foldl ?_ (fun _ _ _ => ?_)) | (refine Only.foldl_snd ?_ (fun _ _ _ => ?_))
    | (refine Only.foldl_fst ?_ (fun _ _ _ => ?_)) | split)

theorem State.scrubLate_only {σ : State} {ps : List Part} (s : State) (hp : ∀ x ∈ parts12, x ∈ ps) (h : Only ps σ s) :
    Only ps σ (State.scrubLate s) := by
  unfold State.scrubLate
  with_reducible repeat' (first
    | assumption | apply State.raise_only (hp := (fun x m => hp x (parts1_12 x m)))
    | apply State.bump_only (hp := (fun x m => hp x (parts1_12 x m))) | apply State.request_only (hp := hp)
    | apply State.scrubStop_only (hp := hp))

theorem execScrubLate_only {σ : State} {ps : List Part} (s : State) {t : State} (hp : ∀ x ∈ parts12, x ∈ ps) (h : Only ps σ s)
    (e : (execScrubLate s) = .next t) : Only ps σ t := by
  unfold execScrubLate at e
  refine Only.next ?_ e
  with_reducible repeat' (first | assumption | apply State.scrubLate_only (hp := hp) | split)

theorem State.scrubGranted_only {σ : State} {ps : List Part} (s : State) (hp : ∀ x ∈ parts1, x ∈ ps) (h : Only ps σ s) :
    Only ps σ (State.scrubGranted s) := by
  unfold State.scrubGranted
  with_reducible repeat' (first | assumption | apply State.putB_only (hp := hp) | split)

theorem State.scrubCtrl_only {σ : State} {ps : List Part} (s : State) (v : Nat) (hp : ∀ x ∈ parts12, x ∈ ps) (h : Only ps σ s) :
    Only ps σ (State.scrubCtrl s v) := by
  unfold State.scrubCtrl
  with_reducible repeat' (first
    | assumption | apply State.log_only (hp := (fun x m => hp x (parts1_12 x m)))
    | apply State.put_only (hp := (fun x m => hp x (parts1_12 x m)))
    | apply State.putB_only (hp := (fun x m => hp x (parts1_12 x m)))
    | apply State.scrubStop_only (hp := hp) | split)

theorem State.sign_only {σ : State} {ps : List Part} (s : State) (b : Nat) (hp : ∀ x ∈ parts124, x ∈ ps) (h : Only ps σ s) :
    Only ps σ (State.sign s b) := by
  unfold State.sign
  with_reducible repeat' (first
    | assumption | apply State.storeSweep_only (hp := (fun x m => hp x (parts121_124 x m)))
    | apply State.put_only (hp := (fun x m => hp x (parts1_124 x m)))
    | fail_if_no_progress apply Only.upd_vcore (hp := (fun x m => hp x (parts125_124 x m))))

theorem State.signAll_only {σ : State} {ps : List Part} (s : State) (hp : ∀ x ∈ parts124, x ∈ ps) (h : Only ps σ s) :
    Only ps σ (State.signAll s) := by
  unfold State.signAll
  with_reducible repeat' (first
    | assumption | apply State.sign_only (hp := hp) | (refine Only.foldl ?_ (fun _ _ _ => ?_)))

theorem State.storeRetain_only {σ : State} {ps : List Part} (s : State) (hp : ∀ x ∈ parts22, x ∈ ps) (h : Only ps σ s) :
    Only ps σ (State.storeRetain s) := by
  unfold State.storeRetain
  with_reducible repeat' (first
    | assumption | apply State.bankClear_only (hp := hp) | (refine Only.foldl ?_ (fun _ _ _ => ?_)))

theorem State.bankReturn_only {σ : State} {ps : List Part} (s : State) (b : Nat) (hp : ∀ x ∈ parts1, x ∈ ps) (h : Only ps σ s) :
    Only ps σ (State.bankReturn s b) := by
  unfold State.bankReturn
  with_reducible repeat' (first
    | assumption | apply State.setLost_only (hp := hp) | apply State.raise_only (hp := hp) | split)

theorem State.outstView_only {σ : State} {ps : List Part} (s : State) (hp : ∀ x ∈ parts1, x ∈ ps) (h : Only ps σ s) :
    Only ps σ (State.outstView s) := by
  unfold State.outstView
  with_reducible repeat' (first
    | assumption | apply State.maxUp_only (hp := hp) | apply State.put_only (hp := hp))

theorem State.timersStop_only {σ : State} {ps : List Part} (s : State) (hp : ∀ x ∈ parts126, x ∈ ps) (h : Only ps σ s) :
    Only ps σ (State.timersStop s) := by
  unfold State.timersStop
  with_reducible repeat' (first
    | assumption | (refine Only.foldl ?_ (fun _ _ _ => ?_)) | (refine Only.foldl_snd ?_ (fun _ _ _ => ?_))
    | (refine Only.foldl_fst ?_ (fun _ _ _ => ?_)) | fail_if_no_progress apply Only.upd_dmas (hp := hp))

theorem State.retriesEnd_only {σ : State} {ps : List Part} (s : State) (hp : ∀ x ∈ parts127, x ∈ ps) (h : Only ps σ s) :
    Only ps σ (State.retriesEnd s) := by
  unfold State.retriesEnd
  with_reducible repeat' (first
    | assumption | apply State.respond_only (hp := (fun x m => hp x (parts0_127 x m)))
    | apply State.outstView_only (hp := (fun x m => hp x (parts1_127 x m)))
    | apply State.timersStop_only (hp := (fun x m => hp x (parts126_127 x m)))
    | fail_if_no_progress apply Only.upd_retries (hp := (fun x m => hp x (parts128_127 x m))) | split)

theorem State.masterReset_only {σ : State} {ps : List Part} (s : State) (m : Master) (more : Bool) (hp : ∀ x ∈ parts129, x ∈ ps) (h : Only ps σ s) :
    Only ps σ (State.masterReset s m more) := by
  unfold State.masterReset
  with_reducible repeat' (first
    | assumption | apply State.outstView_only (hp := (fun x m => hp x (parts1_129 x m)))
    | apply State.bump_only (hp := (fun x m => hp x (parts1_129 x m)))
    | apply State.raise_only (hp := (fun x m => hp x (parts1_129 x m)))
    | apply State.put_only (hp := (fun x m => hp x (parts1_129 x m)))
    | fail_if_no_progress apply Only.upd_retries (hp := (fun x m => hp x (parts128_129 x m))) | split
    | intro _ | dsimp only)

theorem State.memRead_only {σ : State} {ps : List Part} (s : State) (a : Nat) (n : Nat) (hp : ∀ x ∈ parts23, x ∈ ps) (h : Only ps σ s) :
    Only ps σ (State.memRead s a n).2 := by
  unfold State.memRead
  with_reducible repeat' (first
    | assumption | apply State.storeRead_only (hp := (fun x m => hp x (parts15_23 x m)))
    | apply State.localRead_only (hp := hp) | split)

theorem State.memWrite_only {σ : State} {ps : List Part} (s : State) (a : Nat) (l : List Byte) (hp : ∀ x ∈ parts24, x ∈ ps) (h : Only ps σ s) :
    Only ps σ (State.memWrite s a l) := by
  unfold State.memWrite
  with_reducible repeat' (first
    | assumption | apply State.storeWrite_only (hp := (fun x m => hp x (parts16_24 x m)))
    | apply State.localWrite_only (hp := hp) | split)

theorem State.dmaCut_only {σ : State} {ps : List Part} (s : State) (e : Nat) (hp : ∀ x ∈ parts130, x ∈ ps) (h : Only ps σ s) :
    Only ps σ (State.dmaCut s e) := by
  unfold State.dmaCut
  with_reducible repeat' (first
    | assumption | apply State.draw_only (hp := (fun x m => hp x (parts6_130 x m)))
    | apply State.memRead_only (hp := (fun x m => hp x (parts23_130 x m)))
    | apply State.memWrite_only (hp := (fun x m => hp x (parts24_130 x m)))
    | (refine Only.foldl ?_ (fun _ _ _ => ?_)) | (refine Only.foldl_snd ?_ (fun _ _ _ => ?_))
    | (refine Only.foldl_fst ?_ (fun _ _ _ => ?_)) | split | intro _ | dsimp only)

theorem State.dmaCancel_only {σ : State} {ps : List Part} (s : State) (e : Nat) (hp : ∀ x ∈ parts131, x ∈ ps) (h : Only ps σ s) :
    Only ps σ (State.dmaCancel s e) := by
  unfold State.dmaCancel
  with_reducible repeat' (first
    | assumption | apply State.masterReset_only (hp := (fun x m => hp x (parts129_131 x m)))
    | apply State.dmaCut_only (hp := (fun x m => hp x (parts130_131 x m)))
    | apply State.put_only (hp := (fun x m => hp x (parts1_131 x m)))
    | apply State.putB_only (hp := (fun x m => hp x (parts1_131 x m)))
    | fail_if_no_progress apply Only.upd_dmas (hp := (fun x m => hp x (parts126_131 x m))))

end Sys2Proof.Machine
end

