-- ==== Sys2Proof/Laws/OnlyIbex.lean ====
section
/-! SUPPORT. Which parts of the state change (`Only`), for the Ibex cores and clusters: one lemma per function
that gives a state. -/

namespace Sys2Proof.Machine

theorem execNop_only {σ : State} {ps : List Part} (at_ : Issue) (s : State) {t : State} (hp : ∀ x ∈ parts24, x ∈ ps) (h : Only ps σ s)
    (e : (execNop at_ s) = .next t) : Only ps σ t := by
  unfold execNop at e
  refine Only.next ?_ e
  with_reducible repeat' (first | assumption | apply State.issueCore_only (hp := hp))

theorem execMac_only {σ : State} {ps : List Part} (at_ : Issue) (a : MacArgs) (s : State) {t : State} (hp : ∀ x ∈ parts24, x ∈ ps) (h : Only ps σ s)
    (e : (execMac at_ a s) = .next t) : Only ps σ t := by
  unfold execMac at e
  refine Only.next ?_ e
  with_reducible repeat' (first | assumption | apply State.issueAcc_only (hp := hp))

theorem execMsu_only {σ : State} {ps : List Part} (at_ : Issue) (a : MacArgs) (s : State) {t : State} (hp : ∀ x ∈ parts24, x ∈ ps) (h : Only ps σ s)
    (e : (execMsu at_ a s) = .next t) : Only ps σ t := by
  unfold execMsu at e
  refine Only.next ?_ e
  with_reducible repeat' (first | assumption | apply State.issueAcc_only (hp := hp))

theorem execMova_only {σ : State} {ps : List Part} (at_ : Issue) (acc : BitVec 3) (dx : BitVec 6) (sh : BitVec 6) (s : State) {t : State} (hp : ∀ x ∈ parts24, x ∈ ps) (h : Only ps σ s)
    (e : (execMova at_ acc dx sh s) = .next t) : Only ps σ t := by
  unfold execMova at e
  refine Only.next ?_ e
  with_reducible repeat' (first | assumption | apply State.issueAcc_only (hp := hp))

theorem execExt_only {σ : State} {ps : List Part} (at_ : Issue) (dd : BitVec 6) (acc : BitVec 3) (sh : BitVec 5) (s : State) {t : State} (hp : ∀ x ∈ parts24, x ∈ ps) (h : Only ps σ s)
    (e : (execExt at_ dd acc sh s) = .next t) : Only ps σ t := by
  unfold execExt at e
  refine Only.next ?_ e
  with_reducible repeat' (first | assumption | apply State.issueMac_only (hp := hp))

theorem execExtd_only {σ : State} {ps : List Part} (at_ : Issue) (dd : BitVec 6) (acc : BitVec 3) (sh : BitVec 5) (s : State) {t : State} (hp : ∀ x ∈ parts24, x ∈ ps) (h : Only ps σ s)
    (e : (execExtd at_ dd acc sh s) = .next t) : Only ps σ t := by
  unfold execExtd at e
  refine Only.next ?_ e
  with_reducible repeat' (first | assumption | apply State.issueMac_only (hp := hp))

theorem execMul_only {σ : State} {ps : List Part} (at_ : Issue) (dd : BitVec 6) (da : BitVec 6) (db : BitVec 6) (s : State) {t : State} (hp : ∀ x ∈ parts24, x ∈ ps) (h : Only ps σ s)
    (e : (execMul at_ dd da db s) = .next t) : Only ps σ t := by
  unfold execMul at e
  refine Only.next ?_ e
  with_reducible repeat' (first | assumption | apply State.issueMac_only (hp := hp))

theorem execDivs_only {σ : State} {ps : List Part} (at_ : Issue) (acc : BitVec 3) (dq : BitVec 6) (dy : BitVec 6) (s : State) {t : State} (hp : ∀ x ∈ parts24, x ∈ ps) (h : Only ps σ s)
    (e : (execDivs at_ acc dq dy s) = .next t) : Only ps σ t := by
  unfold execDivs at e
  refine Only.next ?_ e
  with_reducible repeat' (first | assumption | apply State.issueAcc_only (hp := hp))

theorem execDivq_only {σ : State} {ps : List Part} (at_ : Issue) (acc : BitVec 3) (dq : BitVec 6) (dx : BitVec 6) (dy : BitVec 6) (s : State) {t : State} (hp : ∀ x ∈ parts24, x ∈ ps) (h : Only ps σ s)
    (e : (execDivq at_ acc dq dx dy s) = .next t) : Only ps σ t := by
  unfold execDivq at e
  refine Only.next ?_ e
  with_reducible repeat' (first | assumption | apply State.issueAcc_only (hp := hp))

theorem execAdd_only {σ : State} {ps : List Part} (at_ : Issue) (dd : BitVec 6) (da : BitVec 6) (db : BitVec 6) (s : State) {t : State} (hp : ∀ x ∈ parts24, x ∈ ps) (h : Only ps σ s)
    (e : (execAdd at_ dd da db s) = .next t) : Only ps σ t := by
  unfold execAdd at e
  refine Only.next ?_ e
  with_reducible repeat' (first | assumption | apply State.issueMac_only (hp := hp))

theorem execSub_only {σ : State} {ps : List Part} (at_ : Issue) (dd : BitVec 6) (da : BitVec 6) (db : BitVec 6) (s : State) {t : State} (hp : ∀ x ∈ parts24, x ∈ ps) (h : Only ps σ s)
    (e : (execSub at_ dd da db s) = .next t) : Only ps σ t := by
  unfold execSub at e
  refine Only.next ?_ e
  with_reducible repeat' (first | assumption | apply State.issueMac_only (hp := hp))

theorem execAdds_only {σ : State} {ps : List Part} (at_ : Issue) (dd : BitVec 6) (da : BitVec 6) (db : BitVec 6) (s : State) {t : State} (hp : ∀ x ∈ parts24, x ∈ ps) (h : Only ps σ s)
    (e : (execAdds at_ dd da db s) = .next t) : Only ps σ t := by
  unfold execAdds at e
  refine Only.next ?_ e
  with_reducible repeat' (first | assumption | apply State.issueMac_only (hp := hp))

theorem execSubs_only {σ : State} {ps : List Part} (at_ : Issue) (dd : BitVec 6) (da : BitVec 6) (db : BitVec 6) (s : State) {t : State} (hp : ∀ x ∈ parts24, x ∈ ps) (h : Only ps σ s)
    (e : (execSubs at_ dd da db s) = .next t) : Only ps σ t := by
  unfold execSubs at e
  refine Only.next ?_ e
  with_reducible repeat' (first | assumption | apply State.issueMac_only (hp := hp))

theorem execAnd_only {σ : State} {ps : List Part} (at_ : Issue) (dd : BitVec 6) (da : BitVec 6) (db : BitVec 6) (s : State) {t : State} (hp : ∀ x ∈ parts24, x ∈ ps) (h : Only ps σ s)
    (e : (execAnd at_ dd da db s) = .next t) : Only ps σ t := by
  unfold execAnd at e
  refine Only.next ?_ e
  with_reducible repeat' (first | assumption | apply State.issueMac_only (hp := hp))

theorem execOr_only {σ : State} {ps : List Part} (at_ : Issue) (dd : BitVec 6) (da : BitVec 6) (db : BitVec 6) (s : State) {t : State} (hp : ∀ x ∈ parts24, x ∈ ps) (h : Only ps σ s)
    (e : (execOr at_ dd da db s) = .next t) : Only ps σ t := by
  unfold execOr at e
  refine Only.next ?_ e
  with_reducible repeat' (first | assumption | apply State.issueMac_only (hp := hp))

theorem execXor_only {σ : State} {ps : List Part} (at_ : Issue) (dd : BitVec 6) (da : BitVec 6) (db : BitVec 6) (s : State) {t : State} (hp : ∀ x ∈ parts24, x ∈ ps) (h : Only ps σ s)
    (e : (execXor at_ dd da db s) = .next t) : Only ps σ t := by
  unfold execXor at e
  refine Only.next ?_ e
  with_reducible repeat' (first | assumption | apply State.issueMac_only (hp := hp))

theorem execShli_only {σ : State} {ps : List Part} (at_ : Issue) (dd : BitVec 6) (da : BitVec 6) (n : BitVec 5) (s : State) {t : State} (hp : ∀ x ∈ parts24, x ∈ ps) (h : Only ps σ s)
    (e : (execShli at_ dd da n s) = .next t) : Only ps σ t := by
  unfold execShli at e
  refine Only.next ?_ e
  with_reducible repeat' (first | assumption | apply State.issueMac_only (hp := hp))

theorem execShri_only {σ : State} {ps : List Part} (at_ : Issue) (dd : BitVec 6) (da : BitVec 6) (n : BitVec 5) (s : State) {t : State} (hp : ∀ x ∈ parts24, x ∈ ps) (h : Only ps σ s)
    (e : (execShri at_ dd da n s) = .next t) : Only ps σ t := by
  unfold execShri at e
  refine Only.next ?_ e
  with_reducible repeat' (first | assumption | apply State.issueMac_only (hp := hp))

theorem execSrai_only {σ : State} {ps : List Part} (at_ : Issue) (dd : BitVec 6) (da : BitVec 6) (n : BitVec 5) (s : State) {t : State} (hp : ∀ x ∈ parts24, x ∈ ps) (h : Only ps σ s)
    (e : (execSrai at_ dd da n s) = .next t) : Only ps σ t := by
  unfold execSrai at e
  refine Only.next ?_ e
  with_reducible repeat' (first | assumption | apply State.issueMac_only (hp := hp))

theorem execAddi_only {σ : State} {ps : List Part} (at_ : Issue) (dd : BitVec 6) (da : BitVec 6) (imm : BitVec 12) (s : State) {t : State} (hp : ∀ x ∈ parts24, x ∈ ps) (h : Only ps σ s)
    (e : (execAddi at_ dd da imm s) = .next t) : Only ps σ t := by
  unfold execAddi at e
  refine Only.next ?_ e
  with_reducible repeat' (first | assumption | apply State.issueMac_only (hp := hp))

theorem execMov_only {σ : State} {ps : List Part} (at_ : Issue) (dd : BitVec 6) (da : BitVec 6) (s : State) {t : State} (hp : ∀ x ∈ parts24, x ∈ ps) (h : Only ps σ s)
    (e : (execMov at_ dd da s) = .next t) : Only ps σ t := by
  unfold execMov at e
  refine Only.next ?_ e
  with_reducible repeat' (first | assumption | apply State.issueMac_only (hp := hp))

theorem execMovi_only {σ : State} {ps : List Part} (at_ : Issue) (dd : BitVec 6) (imm : BitVec 18) (s : State) {t : State} (hp : ∀ x ∈ parts24, x ∈ ps) (h : Only ps σ s)
    (e : (execMovi at_ dd imm s) = .next t) : Only ps σ t := by
  unfold execMovi at e
  refine Only.next ?_ e
  with_reducible repeat' (first | assumption | apply State.issueMac_only (hp := hp))

theorem execMovhi_only {σ : State} {ps : List Part} (at_ : Issue) (dd : BitVec 6) (imm : BitVec 16) (s : State) {t : State} (hp : ∀ x ∈ parts24, x ∈ ps) (h : Only ps σ s)
    (e : (execMovhi at_ dd imm s) = .next t) : Only ps σ t := by
  unfold execMovhi at e
  refine Only.next ?_ e
  with_reducible repeat' (first | assumption | apply State.issueMac_only (hp := hp))

theorem execAbs_only {σ : State} {ps : List Part} (at_ : Issue) (dd : BitVec 6) (da : BitVec 6) (s : State) {t : State} (hp : ∀ x ∈ parts24, x ∈ ps) (h : Only ps σ s)
    (e : (execAbs at_ dd da s) = .next t) : Only ps σ t := by
  unfold execAbs at e
  refine Only.next ?_ e
  with_reducible repeat' (first | assumption | apply State.issueMac_only (hp := hp))

theorem execNeg_only {σ : State} {ps : List Part} (at_ : Issue) (dd : BitVec 6) (da : BitVec 6) (s : State) {t : State} (hp : ∀ x ∈ parts24, x ∈ ps) (h : Only ps σ s)
    (e : (execNeg at_ dd da s) = .next t) : Only ps σ t := by
  unfold execNeg at e
  refine Only.next ?_ e
  with_reducible repeat' (first | assumption | apply State.issueMac_only (hp := hp))

theorem execMin_only {σ : State} {ps : List Part} (at_ : Issue) (dd : BitVec 6) (da : BitVec 6) (db : BitVec 6) (s : State) {t : State} (hp : ∀ x ∈ parts24, x ∈ ps) (h : Only ps σ s)
    (e : (execMin at_ dd da db s) = .next t) : Only ps σ t := by
  unfold execMin at e
  refine Only.next ?_ e
  with_reducible repeat' (first | assumption | apply State.issueMac_only (hp := hp))

theorem execMax_only {σ : State} {ps : List Part} (at_ : Issue) (dd : BitVec 6) (da : BitVec 6) (db : BitVec 6) (s : State) {t : State} (hp : ∀ x ∈ parts24, x ∈ ps) (h : Only ps σ s)
    (e : (execMax at_ dd da db s) = .next t) : Only ps σ t := by
  unfold execMax at e
  refine Only.next ?_ e
  with_reducible repeat' (first | assumption | apply State.issueMac_only (hp := hp))

theorem execCmp_only {σ : State} {ps : List Part} (at_ : Issue) (pd : BitVec 3) (k : Cond) (da : BitVec 6) (db : BitVec 6) (s : State) {t : State} (hp : ∀ x ∈ parts24, x ∈ ps) (h : Only ps σ s)
    (e : (execCmp at_ pd k da db s) = .next t) : Only ps σ t := by
  unfold execCmp at e
  refine Only.next ?_ e
  with_reducible repeat' (first | assumption | apply State.issueMac_only (hp := hp))

theorem execCmpi_only {σ : State} {ps : List Part} (at_ : Issue) (pd : BitVec 3) (k : Cond) (da : BitVec 6) (imm : BitVec 12) (s : State) {t : State} (hp : ∀ x ∈ parts24, x ∈ ps) (h : Only ps σ s)
    (e : (execCmpi at_ pd k da imm s) = .next t) : Only ps σ t := by
  unfold execCmpi at e
  refine Only.next ?_ e
  with_reducible repeat' (first | assumption | apply State.issueMac_only (hp := hp))

theorem State.issueMem_only {σ : State} {ps : List Part} (s : State) (at_ : Issue) (bad : Bool) (l : List MemAcc) (hp : ∀ x ∈ parts24, x ∈ ps) (h : Only ps σ s) :
    Only ps σ (State.issueMem s at_ bad l) := by
  unfold State.issueMem
  with_reducible repeat' (first | assumption | apply State.issueOr_only (hp := hp))

theorem execLd_only {σ : State} {ps : List Part} (at_ : Issue) (w : AWidth) (dr : BitVec 6) (an : BitVec 4) (mode : AMode) (s : State) {t : State} (hp : ∀ x ∈ parts24, x ∈ ps) (h : Only ps σ s)
    (e : (execLd at_ w dr an mode s) = .next t) : Only ps σ t := by
  unfold execLd at e
  refine Only.next ?_ e
  with_reducible repeat' (first | assumption | apply State.issueMem_only (hp := hp))

theorem execSt_only {σ : State} {ps : List Part} (at_ : Issue) (w : AWidth) (dr : BitVec 6) (an : BitVec 4) (mode : AMode) (s : State) {t : State} (hp : ∀ x ∈ parts24, x ∈ ps) (h : Only ps σ s)
    (e : (execSt at_ w dr an mode s) = .next t) : Only ps σ t := by
  unfold execSt at e
  refine Only.next ?_ e
  with_reducible repeat' (first | assumption | apply State.issueMem_only (hp := hp))

theorem execLda_only {σ : State} {ps : List Part} (at_ : Issue) (ar : BitVec 4) (an : BitVec 4) (mode : AMode) (s : State) {t : State} (hp : ∀ x ∈ parts24, x ∈ ps) (h : Only ps σ s)
    (e : (execLda at_ ar an mode s) = .next t) : Only ps σ t := by
  unfold execLda at e
  refine Only.next ?_ e
  with_reducible repeat' (first | assumption | apply State.issueMem_only (hp := hp))

theorem execSta_only {σ : State} {ps : List Part} (at_ : Issue) (ar : BitVec 4) (an : BitVec 4) (mode : AMode) (s : State) {t : State} (hp : ∀ x ∈ parts24, x ∈ ps) (h : Only ps σ s)
    (e : (execSta at_ ar an mode s) = .next t) : Only ps σ t := by
  unfold execSta at e
  refine Only.next ?_ e
  with_reducible repeat' (first | assumption | apply State.issueMem_only (hp := hp))

theorem execPairedAccess_only {σ : State} {ps : List Part} (at_ : Issue) (a0 : Option PairAcc) (a1 : Option PairAcc) (s : State) {t : State} (hp : ∀ x ∈ parts24, x ∈ ps) (h : Only ps σ s)
    (e : (execPairedAccess at_ a0 a1 s) = .next t) : Only ps σ t := by
  unfold execPairedAccess at e
  refine Only.next ?_ e
  with_reducible repeat' (first | assumption | apply State.issueMem_only (hp := hp))

theorem execAaddi_only {σ : State} {ps : List Part} (at_ : Issue) (an : BitVec 4) (imm : BitVec 17) (s : State) {t : State} (hp : ∀ x ∈ parts24, x ∈ ps) (h : Only ps σ s)
    (e : (execAaddi at_ an imm s) = .next t) : Only ps σ t := by
  unfold execAaddi at e
  refine Only.next ?_ e
  with_reducible repeat' (first | assumption | apply State.issueAddr_only (hp := hp))

theorem execAadd_only {σ : State} {ps : List Part} (at_ : Issue) (an : BitVec 4) (am : BitVec 4) (s : State) {t : State} (hp : ∀ x ∈ parts24, x ∈ ps) (h : Only ps σ s)
    (e : (execAadd at_ an am s) = .next t) : Only ps σ t := by
  unfold execAadd at e
  refine Only.next ?_ e
  with_reducible repeat' (first | assumption | apply State.issueAddr_only (hp := hp))

theorem execAmovi_only {σ : State} {ps : List Part} (at_ : Issue) (an : BitVec 4) (imm : BitVec 17) (s : State) {t : State} (hp : ∀ x ∈ parts24, x ∈ ps) (h : Only ps σ s)
    (e : (execAmovi at_ an imm s) = .next t) : Only ps σ t := by
  unfold execAmovi at e
  refine Only.next ?_ e
  with_reducible repeat' (first | assumption | apply State.issueAddr_only (hp := hp))

theorem execAmovhi_only {σ : State} {ps : List Part} (at_ : Issue) (an : BitVec 4) (imm : BitVec 16) (s : State) {t : State} (hp : ∀ x ∈ parts24, x ∈ ps) (h : Only ps σ s)
    (e : (execAmovhi at_ an imm s) = .next t) : Only ps σ t := by
  unfold execAmovhi at e
  refine Only.next ?_ e
  with_reducible repeat' (first | assumption | apply State.issueAddr_only (hp := hp))

theorem execAmov_only {σ : State} {ps : List Part} (at_ : Issue) (an : BitVec 4) (dm : BitVec 6) (s : State) {t : State} (hp : ∀ x ∈ parts24, x ∈ ps) (h : Only ps σ s)
    (e : (execAmov at_ an dm s) = .next t) : Only ps σ t := by
  unfold execAmov at e
  refine Only.next ?_ e
  with_reducible repeat' (first | assumption | apply State.issueAddr_only (hp := hp))

theorem execRda_only {σ : State} {ps : List Part} (at_ : Issue) (dd : BitVec 6) (an : BitVec 4) (s : State) {t : State} (hp : ∀ x ∈ parts24, x ∈ ps) (h : Only ps σ s)
    (e : (execRda at_ dd an s) = .next t) : Only ps σ t := by
  unfold execRda at e
  refine Only.next ?_ e
  with_reducible repeat' (first | assumption | apply State.issueAddr_only (hp := hp))

theorem execBr_only {σ : State} {ps : List Part} (at_ : Issue) (target : BitVec 12) (s : State) {t : State} (hp : ∀ x ∈ parts21, x ∈ ps) (h : Only ps σ s)
    (e : (execBr at_ target s) = .next t) : Only ps σ t := by
  unfold execBr at e
  refine Only.next ?_ e
  with_reducible repeat' (first | assumption | apply State.issueFlow_only (hp := hp))

theorem execBrl_only {σ : State} {ps : List Part} (at_ : Issue) (an : BitVec 4) (target : BitVec 12) (s : State) {t : State} (hp : ∀ x ∈ parts21, x ∈ ps) (h : Only ps σ s)
    (e : (execBrl at_ an target s) = .next t) : Only ps σ t := by
  unfold execBrl at e
  refine Only.next ?_ e
  with_reducible repeat' (first | assumption | apply State.issueFlow_only (hp := hp))

theorem execBrr_only {σ : State} {ps : List Part} (at_ : Issue) (an : BitVec 4) (s : State) {t : State} (hp : ∀ x ∈ parts21, x ∈ ps) (h : Only ps σ s)
    (e : (execBrr at_ an s) = .next t) : Only ps σ t := by
  unfold execBrr at e
  refine Only.next ?_ e
  with_reducible repeat' (first | assumption | apply State.issueFlow_only (hp := hp))

theorem execReti_only {σ : State} {ps : List Part} (at_ : Issue) (s : State) {t : State} (hp : ∀ x ∈ parts21, x ∈ ps) (h : Only ps σ s)
    (e : (execReti at_ s) = .next t) : Only ps σ t := by
  unfold execReti at e
  refine Only.next ?_ e
  with_reducible repeat' (first | assumption | apply State.issueFlow_only (hp := hp))

theorem execSwi_only {σ : State} {ps : List Part} (at_ : Issue) (s : State) {t : State} (hp : ∀ x ∈ parts21, x ∈ ps) (h : Only ps σ s)
    (e : (execSwi at_ s) = .next t) : Only ps σ t := by
  unfold execSwi at e
  refine Only.next ?_ e
  with_reducible repeat' (first | assumption | apply State.issueFlow_only (hp := hp))

theorem execRep_only {σ : State} {ps : List Part} (at_ : Issue) (len : BitVec 4) (count : BitVec 6) (s : State) {t : State} (hp : ∀ x ∈ parts21, x ∈ ps) (h : Only ps σ s)
    (e : (execRep at_ len count s) = .next t) : Only ps σ t := by
  unfold execRep at e
  refine Only.next ?_ e
  with_reducible repeat' (first
    | assumption | apply State.issueFlow_only (hp := hp)
    | apply State.setCore_only (hp := (fun x m => hp x (parts18_21 x m)))
    | apply State.fetchFor_only (hp := hp) | split)

theorem execLoop_only {σ : State} {ps : List Part} (at_ : Issue) (len : BitVec 6) (s : State) {t : State} (hp : ∀ x ∈ parts21, x ∈ ps) (h : Only ps σ s)
    (e : (execLoop at_ len s) = .next t) : Only ps σ t := by
  unfold execLoop at e
  refine Only.next ?_ e
  with_reducible repeat' (first | assumption | apply State.issueFlow_only (hp := hp))

theorem execFbar_only {σ : State} {ps : List Part} (at_ : Issue) (s : State) {t : State} (hp : ∀ x ∈ parts21, x ∈ ps) (h : Only ps σ s)
    (e : (execFbar at_ s) = .next t) : Only ps σ t := by
  unfold execFbar at e
  refine Only.next ?_ e
  with_reducible repeat' (first | assumption | apply State.issueFlow_only (hp := hp))

theorem execCsync_only {σ : State} {ps : List Part} (at_ : Issue) (s : State) {t : State} (hp : ∀ x ∈ parts21, x ∈ ps) (h : Only ps σ s)
    (e : (execCsync at_ s) = .next t) : Only ps σ t := by
  unfold execCsync at e
  refine Only.next ?_ e
  with_reducible repeat' (first | assumption | apply State.issueFlow_only (hp := hp))

theorem State.csignal_only {σ : State} {ps : List Part} (s : State) (n : Nat) (mask : Word) (hp : ∀ x ∈ parts18, x ∈ ps) (h : Only ps σ s) :
    Only ps σ (State.csignal s n mask) := by
  unfold State.csignal
  with_reducible repeat' (first
    | assumption | apply State.setCore_only (hp := hp) | (refine Only.foldl ?_ (fun _ _ _ => ?_))
    | (refine Only.foldl_snd ?_ (fun _ _ _ => ?_)) | (refine Only.foldl_fst ?_ (fun _ _ _ => ?_)) | split)

theorem execMfsr_only {σ : State} {ps : List Part} (at_ : Issue) (dd : BitVec 6) (srn : BitVec 6) (s : State) {t : State} (hp : ∀ x ∈ parts24, x ∈ ps) (h : Only ps σ s)
    (e : (execMfsr at_ dd srn s) = .next t) : Only ps σ t := by
  unfold execMfsr at e
  refine Only.next ?_ e
  with_reducible repeat' (first | assumption | apply State.issueOr_only (hp := hp))

theorem State.moveToSr_only {σ : State} {ps : List Part} (s : State) (at_ : Issue) (srn : Nat) (v : Core → Word) (hp : ∀ x ∈ parts24, x ∈ ps) (h : Only ps σ s) :
    Only ps σ (State.moveToSr s at_ srn v) := by
  unfold State.moveToSr
  with_reducible repeat' (first
    | assumption | apply State.issueOr_only (hp := hp)
    | apply State.csignal_only (hp := (fun x m => hp x (parts18_24 x m))) | split)

theorem execMtsr_only {σ : State} {ps : List Part} (at_ : Issue) (dm : BitVec 6) (srn : BitVec 6) (s : State) {t : State} (hp : ∀ x ∈ parts24, x ∈ ps) (h : Only ps σ s)
    (e : (execMtsr at_ dm srn s) = .next t) : Only ps σ t := by
  unfold execMtsr at e
  refine Only.next ?_ e
  with_reducible repeat' (first | assumption | apply State.moveToSr_only (hp := hp))

theorem execMtsri_only {σ : State} {ps : List Part} (at_ : Issue) (imm : BitVec 16) (srn : BitVec 6) (s : State) {t : State} (hp : ∀ x ∈ parts24, x ∈ ps) (h : Only ps σ s)
    (e : (execMtsri at_ imm srn s) = .next t) : Only ps σ t := by
  unfold execMtsri at e
  refine Only.next ?_ e
  with_reducible repeat' (first | assumption | apply State.moveToSr_only (hp := hp))

theorem execPlog_only {σ : State} {ps : List Part} (at_ : Issue) (pd : BitVec 3) (pa : BitVec 3) (pb : BitVec 3) (tt : BitVec 4) (s : State) {t : State} (hp : ∀ x ∈ parts24, x ∈ ps) (h : Only ps σ s)
    (e : (execPlog at_ pd pa pb tt s) = .next t) : Only ps σ t := by
  unfold execPlog at e
  refine Only.next ?_ e
  with_reducible repeat' (first | assumption | apply State.issueCore_only (hp := hp))

theorem execReservedEncodingIssue_only {σ : State} {ps : List Part} (at_ : Issue) (s : State) {t : State} (hp : ∀ x ∈ parts21, x ∈ ps) (h : Only ps σ s)
    (e : (execReservedEncodingIssue at_ s) = .next t) : Only ps σ t := by
  unfold execReservedEncodingIssue at e
  refine Only.next ?_ e
  with_reducible repeat' (first | assumption | apply State.issueFlow_only (hp := hp))

theorem State.settleCores_only {σ : State} {ps : List Part} (s : State) (c : Nat) (hp : ∀ x ∈ parts18, x ∈ ps) (h : Only ps σ s) :
    Only ps σ (State.settleCores s c) := by
  unfold State.settleCores
  with_reducible repeat' (first
    | assumption | apply State.setCore_only (hp := hp) | (refine Only.foldl ?_ (fun _ _ _ => ?_)))

theorem State.stageIn_only {σ : State} {ps : List Part} (s : State) (q : Nat) (n : Nat) (hp : ∀ x ∈ parts132, x ∈ ps) (h : Only ps σ s) :
    Only ps σ (State.stageIn s q n) := by
  unfold State.stageIn
  with_reducible repeat' (first
    | assumption | apply State.windowView_only (hp := (fun x m => hp x (parts78_132 x m)))
    | apply State.writeLocal_only (hp := (fun x m => hp x (parts22_132 x m))))

theorem execStageInStart_only {σ : State} {ps : List Part} (c : Nat) (s : State) {t : State} (hp : ∀ x ∈ parts133, x ∈ ps) (h : Only ps σ s)
    (e : (execStageInStart c s) = .next t) : Only ps σ t := by
  unfold execStageInStart at e
  refine Only.next ?_ e
  with_reducible repeat' (first
    | assumption | apply State.settleCores_only (hp := (fun x m => hp x (parts18_133 x m)))
    | apply State.setCl_only (hp := (fun x m => hp x (parts17_133 x m)))
    | apply State.waitAll_only (hp := (fun x m => hp x (parts18_133 x m)))
    | apply State.stageIn_only (hp := (fun x m => hp x (parts132_133 x m)))
    | (refine Only.foldl ?_ (fun _ _ _ => ?_)) | (refine Only.foldl_snd ?_ (fun _ _ _ => ?_))
    | (refine Only.foldl_fst ?_ (fun _ _ _ => ?_)) | split | intro _ | dsimp only)

theorem State.swapSet_only {σ : State} {ps : List Part} (s : State) (n : Nat) (hp : ∀ x ∈ parts26, x ∈ ps) (h : Only ps σ s) :
    Only ps σ (State.swapSet s n) := by
  unfold State.swapSet
  with_reducible repeat' (first
    | assumption | apply State.onCorePage_only (hp := (fun x m => hp x (parts20_26 x m)))
    | apply State.put_only (hp := (fun x m => hp x (parts1_26 x m)))
    | apply State.setCore_only (hp := (fun x m => hp x (parts18_26 x m)))
    | apply State.raise_only (hp := (fun x m => hp x (parts1_26 x m)))
    | (refine Only.foldl ?_ (fun _ _ _ => ?_)) | (refine Only.foldl_snd ?_ (fun _ _ _ => ?_))
    | (refine Only.foldl_fst ?_ (fun _ _ _ => ?_)) | split | intro _ | dsimp only)

theorem State.coreStart_only {σ : State} {ps : List Part} (s : State) (n : Nat) (hp : ∀ x ∈ parts26, x ∈ ps) (h : Only ps σ s) :
    Only ps σ (State.coreStart s n) := by
  unfold State.coreStart
  with_reducible repeat' (first
    | assumption | apply State.setCore_only (hp := (fun x m => hp x (parts18_26 x m)))
    | apply State.swapSet_only (hp := hp) | split | intro _ | dsimp only)

theorem execCoreFrameStart_only {σ : State} {ps : List Part} (c : Nat) (s : State) {t : State} (hp : ∀ x ∈ parts134, x ∈ ps) (h : Only ps σ s)
    (e : (execCoreFrameStart c s) = .next t) : Only ps σ t := by
  unfold execCoreFrameStart at e
  refine Only.next ?_ e
  with_reducible repeat' (first
    | assumption | apply State.coreStart_only (hp := (fun x m => hp x (parts26_134 x m)))
    | apply State.waitAll_only (hp := (fun x m => hp x (parts18_134 x m)))
    | apply State.setCl_only (hp := (fun x m => hp x (parts17_134 x m)))
    | (refine Only.foldl ?_ (fun _ _ _ => ?_)) | (refine Only.foldl_snd ?_ (fun _ _ _ => ?_))
    | (refine Only.foldl_fst ?_ (fun _ _ _ => ?_)) | split)

theorem State.stageWord_only {σ : State} {ps : List Part} (s : State) (a : Nat) (hp : ∀ x ∈ parts21, x ∈ ps) (h : Only ps σ s) :
    Only ps σ (State.stageWord s a).2 := by
  unfold State.stageWord
  with_reducible repeat' (first | assumption | apply State.checkWords_only (hp := hp))

theorem State.stageOut_only {σ : State} {ps : List Part} (s : State) (n : Nat) (hp : ∀ x ∈ parts135, x ∈ ps) (h : Only ps σ s) :
    Only ps σ (State.stageOut s n) := by
  unfold State.stageOut
  with_reducible repeat' (first
    | assumption | apply State.stageWord_only (hp := (fun x m => hp x (parts21_135 x m)))
    | apply State.planeWrite_only (hp := (fun x m => hp x (parts27_135 x m)))
    | (refine Only.foldl ?_ (fun _ _ _ => ?_)))

theorem execStageOutStart_only {σ : State} {ps : List Part} (c : Nat) (s : State) {t : State} (hp : ∀ x ∈ parts135, x ∈ ps) (h : Only ps σ s)
    (e : (execStageOutStart c s) = .next t) : Only ps σ t := by
  unfold execStageOutStart at e
  refine Only.next ?_ e
  with_reducible repeat' (first
    | assumption | apply State.waitAll_only (hp := (fun x m => hp x (parts18_135 x m)))
    | apply State.stageOut_only (hp := hp)
    | apply State.setFadePos_only (hp := (fun x m => hp x (parts1_135 x m)))
    | apply State.setCl_only (hp := (fun x m => hp x (parts17_135 x m)))
    | (refine Only.foldl ?_ (fun _ _ _ => ?_)) | (refine Only.foldl_snd ?_ (fun _ _ _ => ?_))
    | (refine Only.foldl_fst ?_ (fun _ _ _ => ?_)) | split)

theorem State.migMove_only {σ : State} {ps : List Part} (s : State) (base : Nat) (dst : Nat) (hp : ∀ x ∈ parts22, x ∈ ps) (h : Only ps σ s) :
    Only ps σ (State.migMove s base dst) := by
  unfold State.migMove
  with_reducible repeat' (first | assumption | fail_if_no_progress apply Only.upd_mem_ecc (hp := hp))

theorem State.migCopy_only {σ : State} {ps : List Part} (s : State) (c : Nat) (hp : ∀ x ∈ parts24, x ∈ ps) (h : Only ps σ s) :
    Only ps σ (State.migCopy s c) := by
  unfold State.migCopy
  with_reducible repeat' (first
    | assumption | apply State.ibexEccEvent_only (hp := (fun x m => hp x (parts21_24 x m)))
    | apply State.migMove_only (hp := (fun x m => hp x (parts22_24 x m)))
    | apply State.put_only (hp := (fun x m => hp x (parts1_24 x m)))
    | apply State.setCl_only (hp := (fun x m => hp x (parts17_24 x m)))
    | (refine Only.foldl ?_ (fun _ _ _ => ?_)) | (refine Only.foldl_snd ?_ (fun _ _ _ => ?_))
    | (refine Only.foldl_fst ?_ (fun _ _ _ => ?_)) | split | intro _ | dsimp only)

theorem execStageOutDone_only {σ : State} {ps : List Part} (c : Nat) (s : State) {t : State} (hp : ∀ x ∈ parts24, x ∈ ps) (h : Only ps σ s)
    (e : (execStageOutDone c s) = .next t) : Only ps σ t := by
  unfold execStageOutDone at e
  refine Only.next ?_ e
  with_reducible repeat' (first
    | assumption | apply State.setCl_only (hp := (fun x m => hp x (parts17_24 x m)))
    | apply State.waitAll_only (hp := (fun x m => hp x (parts18_24 x m)))
    | apply State.migCopy_only (hp := hp) | (refine Only.foldl ?_ (fun _ _ _ => ?_))
    | (refine Only.foldl_snd ?_ (fun _ _ _ => ?_)) | (refine Only.foldl_fst ?_ (fun _ _ _ => ?_)) | split)

theorem State.migCtrl_only {σ : State} {ps : List Part} (s : State) (c : Nat) (v : Nat) (hp : ∀ x ∈ parts19, x ∈ ps) (h : Only ps σ s) :
    Only ps σ (State.migCtrl s c v) := by
  unfold State.migCtrl
  with_reducible repeat' (first
    | assumption | apply State.put_only (hp := (fun x m => hp x (parts1_19 x m)))
    | apply State.migCancel_only (hp := hp) | apply State.log_only (hp := (fun x m => hp x (parts1_19 x m)))
    | apply State.setCl_only (hp := (fun x m => hp x (parts17_19 x m)))
    | apply State.request_only (hp := (fun x m => hp x (parts12_19 x m))) | split | intro _ | dsimp only)

theorem execMigStart_only {σ : State} {ps : List Part} (c : Nat) (source : BitVec 2) (s : State) {t : State} (hp : ∀ x ∈ parts19, x ∈ ps) (h : Only ps σ s)
    (e : (execMigStart c source s) = .next t) : Only ps σ t := by
  unfold execMigStart at e
  refine Only.next ?_ e
  with_reducible repeat' (first
    | assumption | apply State.blockWrite_only (hp := (fun x m => hp x (parts1_19 x m)))
    | apply State.migCtrl_only (hp := hp) | split | intro _)

theorem execMigrationCopyStart_only {σ : State} {ps : List Part} (c : Nat) (s : State) {t : State} (hp : ∀ x ∈ parts136, x ∈ ps) (h : Only ps σ s)
    (e : (execMigrationCopyStart c s) = .next t) : Only ps σ t := by
  unfold execMigrationCopyStart at e
  refine Only.next ?_ e
  with_reducible repeat' (first
    | assumption | apply State.put_only (hp := (fun x m => hp x (parts1_136 x m)))
    | apply State.setCl_only (hp := (fun x m => hp x (parts17_136 x m))) | split)

theorem State.migCore_only {σ : State} {ps : List Part} (s : State) (src : Nat) (dst : Nat) (hp : ∀ x ∈ parts137, x ∈ ps) (h : Only ps σ s) :
    Only ps σ (State.migCore s src dst) := by
  unfold State.migCore
  with_reducible repeat' (first
    | assumption | apply State.setCore1_only (hp := (fun x m => hp x (parts18_137 x m)))
    | apply State.put_only (hp := (fun x m => hp x (parts1_137 x m)))
    | apply State.putSh_only (hp := (fun x m => hp x (parts2_137 x m)))
    | (refine Only.foldl ?_ (fun _ _ _ => ?_)) | (refine Only.foldl_snd ?_ (fun _ _ _ => ?_))
    | (refine Only.foldl_fst ?_ (fun _ _ _ => ?_))
    | fail_if_no_progress apply Only.upd_staged_dirtyTab_dirtyReg (hp := (fun x m => hp x (parts98_137 x m)))
    | split)

theorem execMigFollowing_only {σ : State} {ps : List Part} (c : Nat) (s : State) {t : State} (hp : ∀ x ∈ parts137, x ∈ ps) (h : Only ps σ s)
    (e : (execMigFollowing c s) = .next t) : Only ps σ t := by
  unfold execMigFollowing at e
  refine Only.next ?_ e
  with_reducible repeat' (first
    | assumption | apply State.settleCores_only (hp := (fun x m => hp x (parts18_137 x m)))
    | apply State.migCore_only (hp := hp) | apply State.put_only (hp := (fun x m => hp x (parts1_137 x m)))
    | apply State.raise_only (hp := (fun x m => hp x (parts1_137 x m)))
    | (refine Only.foldl ?_ (fun _ _ _ => ?_)) | (refine Only.foldl_snd ?_ (fun _ _ _ => ?_))
    | (refine Only.foldl_fst ?_ (fun _ _ _ => ?_)) | split | intro _ | dsimp only)

theorem execMigCancel_only {σ : State} {ps : List Part} (c : Nat) (cause : Byte) (s : State) {t : State} (hp : ∀ x ∈ parts19, x ∈ ps) (h : Only ps σ s)
    (e : (execMigCancel c cause s) = .next t) : Only ps σ t := by
  unfold execMigCancel at e
  refine Only.next ?_ e
  with_reducible repeat' (first
    | assumption | apply State.blockWrite_only (hp := (fun x m => hp x (parts1_19 x m)))
    | apply State.migCancel_only (hp := hp) | split | intro _)

theorem State.frameCycles_only {σ : State} {ps : List Part} (s : State) (n : Nat) (hp : ∀ x ∈ parts1, x ∈ ps) (h : Only ps σ s) :
    Only ps σ (State.frameCycles s n) := by
  unfold State.frameCycles
  with_reducible repeat' (first
    | assumption | apply State.onCorePage_only (hp := (fun x m => hp x (parts20_1 x m)))
    | apply State.maxUp_only (hp := hp) | apply State.put_only (hp := hp) | split | intro _)

theorem State.coreRest_only {σ : State} {ps : List Part} (s : State) (n : Nat) (r : Core × Bool) (hp : ∀ x ∈ parts26, x ∈ ps) (h : Only ps σ s) :
    Only ps σ (State.coreRest s n r) := by
  unfold State.coreRest
  with_reducible repeat' (first
    | assumption | apply State.setCore_only (hp := (fun x m => hp x (parts18_26 x m)))
    | apply State.onCorePage_only (hp := (fun x m => hp x (parts20_26 x m)))
    | apply State.raise_only (hp := (fun x m => hp x (parts1_26 x m))) | split | intro _)

theorem execFrameBarrierReached_only {σ : State} {ps : List Part} (n : Nat) (s : State) {t : State} (hp : ∀ x ∈ parts26, x ∈ ps) (h : Only ps σ s)
    (e : (execFrameBarrierReached n s) = .next t) : Only ps σ t := by
  unfold execFrameBarrierReached at e
  refine Only.next ?_ e
  with_reducible repeat' (first
    | assumption | apply State.frameCycles_only (hp := (fun x m => hp x (parts1_26 x m)))
    | apply State.coreRest_only (hp := hp) | split)

theorem execCoreOverrun_only {σ : State} {ps : List Part} (n : Nat) (s : State) {t : State} (hp : ∀ x ∈ parts134, x ∈ ps) (h : Only ps σ s)
    (e : (execCoreOverrun n s) = .next t) : Only ps σ t := by
  unfold execCoreOverrun at e
  refine Only.next ?_ e
  with_reducible repeat' (first
    | assumption | apply State.coreRest_only (hp := (fun x m => hp x (parts26_134 x m)))
    | apply State.onCorePage_only (hp := (fun x m => hp x (parts20_134 x m)))
    | apply State.raise_only (hp := (fun x m => hp x (parts1_134 x m)))
    | apply State.bump_only (hp := (fun x m => hp x (parts1_134 x m)))
    | apply State.setFadePos_only (hp := (fun x m => hp x (parts1_134 x m)))
    | apply State.setCl_only (hp := (fun x m => hp x (parts17_134 x m))) | split | intro _)

theorem execInterruptEntry_only {σ : State} {ps : List Part} (n : Nat) (s : State) {t : State} (hp : ∀ x ∈ parts138, x ∈ ps) (h : Only ps σ s)
    (e : (execInterruptEntry n s) = .next t) : Only ps σ t := by
  unfold execInterruptEntry at e
  refine Only.next ?_ e
  with_reducible repeat' (first
    | assumption | apply State.setCore_only (hp := (fun x m => hp x (parts18_138 x m)))
    | apply State.draw_only (hp := (fun x m => hp x (parts6_138 x m)))
    | apply State.onCorePage_only (hp := (fun x m => hp x (parts20_138 x m)))
    | apply State.maxUp_only (hp := (fun x m => hp x (parts1_138 x m)))
    | apply State.bump_only (hp := (fun x m => hp x (parts1_138 x m))) | split | intro _ | dsimp only)

theorem State.ibexGate_only {σ : State} {ps : List Part} (s : State) (n : Nat) (f : State → State) (hp : ∀ x ∈ parts1, x ∈ ps) (hf : ∀ x, Only ps σ x → Only ps σ (f x)) (h : Only ps σ s) :
    Only ps σ (State.ibexGate s n f) := by
  unfold State.ibexGate
  with_reducible repeat' (first
    | assumption | apply hf | apply State.log_only (hp := hp) | split | intro _ | dsimp only)

theorem execDoorbell_only {σ : State} {ps : List Part} (n : Nat) (value : Word) (s : State) {t : State} (hp : ∀ x ∈ parts26, x ∈ ps) (h : Only ps σ s)
    (e : (execDoorbell n value s) = .next t) : Only ps σ t := by
  unfold execDoorbell at e
  refine Only.next ?_ e
  with_reducible repeat' (first
    | assumption | apply State.blockWrite_only (hp := (fun x m => hp x (parts1_26 x m)))
    | apply State.ibexGate_only (hp := (fun x m => hp x (parts1_26 x m)))
    | apply State.setCore_only (hp := (fun x m => hp x (parts18_26 x m))) | split | intro _)

theorem execCsyncRelease_only {σ : State} {ps : List Part} (c : Nat) (s : State) {t : State} (hp : ∀ x ∈ parts18, x ∈ ps) (h : Only ps σ s)
    (e : (execCsyncRelease c s) = .next t) : Only ps σ t := by
  unfold execCsyncRelease at e
  refine Only.next ?_ e
  with_reducible repeat' (first
    | assumption | apply State.settleCores_only (hp := hp) | apply State.waitAll_only (hp := hp)
    | apply State.setCore_only (hp := hp) | (refine Only.foldl ?_ (fun _ _ _ => ?_))
    | (refine Only.foldl_snd ?_ (fun _ _ _ => ?_)) | (refine Only.foldl_fst ?_ (fun _ _ _ => ?_)) | split
    | intro _ | dsimp only)

theorem execIbexEccWriteback_only {σ : State} {ps : List Part} (addr : Nat) (s : State) {t : State} (hp : ∀ x ∈ parts14, x ∈ ps) (h : Only ps σ s)
    (e : (execIbexEccWriteback addr s) = .next t) : Only ps σ t := by
  unfold execIbexEccWriteback at e
  refine Only.next ?_ e
  with_reducible repeat' (first | assumption | fail_if_no_progress apply Only.upd_ecc (hp := hp) | split)

theorem State.dbgWrite_only {σ : State} {ps : List Part} (s : State) (n : Nat) (f : State → State) (hp : ∀ x ∈ parts1, x ∈ ps) (hf : ∀ x, Only ps σ x → Only ps σ (f x)) (h : Only ps σ s) :
    Only ps σ (State.dbgWrite s n f) := by
  unfold State.dbgWrite
  with_reducible repeat' (first
    | assumption | apply hf | apply State.blockWrite_only (hp := hp) | apply State.ibexGate_only (hp := hp)
    | apply State.log_only (hp := hp) | split | intro _)

theorem State.haltReq_only {σ : State} {ps : List Part} (s : State) (n : Nat) (hp : ∀ x ∈ parts18, x ∈ ps) (h : Only ps σ s) :
    Only ps σ (State.haltReq s n) := by
  unfold State.haltReq
  with_reducible repeat' (first | assumption | apply State.setCore_only (hp := hp))

theorem State.resumeCore_only {σ : State} {ps : List Part} (s : State) (n : Nat) (hp : ∀ x ∈ parts26, x ∈ ps) (h : Only ps σ s) :
    Only ps σ (State.resumeCore s n) := by
  unfold State.resumeCore
  with_reducible repeat' (first
    | assumption | apply State.putB_only (hp := (fun x m => hp x (parts1_26 x m)))
    | apply State.setCore_only (hp := (fun x m => hp x (parts18_26 x m))) | split)

theorem State.stepCore_only {σ : State} {ps : List Part} (s : State) (n : Nat) (hp : ∀ x ∈ parts26, x ∈ ps) (h : Only ps σ s) :
    Only ps σ (State.stepCore s n) := by
  unfold State.stepCore
  with_reducible repeat' (first
    | assumption | apply State.resumeCore_only (hp := hp)
    | apply State.setCore_only (hp := (fun x m => hp x (parts18_26 x m))) | split)

theorem execHaltReq_only {σ : State} {ps : List Part} (n : Nat) (s : State) {t : State} (hp : ∀ x ∈ parts26, x ∈ ps) (h : Only ps σ s)
    (e : (execHaltReq n s) = .next t) : Only ps σ t := by
  unfold execHaltReq at e
  refine Only.next ?_ e
  with_reducible repeat' (first
    | assumption | apply State.dbgWrite_only (hp := (fun x m => hp x (parts1_26 x m)))
    | apply State.haltReq_only (hp := (fun x m => hp x (parts18_26 x m))) | split | intro _)

theorem execResume_only {σ : State} {ps : List Part} (n : Nat) (s : State) {t : State} (hp : ∀ x ∈ parts26, x ∈ ps) (h : Only ps σ s)
    (e : (execResume n s) = .next t) : Only ps σ t := by
  unfold execResume at e
  refine Only.next ?_ e
  with_reducible repeat' (first
    | assumption | apply State.dbgWrite_only (hp := (fun x m => hp x (parts1_26 x m)))
    | apply State.resumeCore_only (hp := hp) | split | intro _)

theorem execStep_only {σ : State} {ps : List Part} (n : Nat) (s : State) {t : State} (hp : ∀ x ∈ parts26, x ∈ ps) (h : Only ps σ s)
    (e : (execStep n s) = .next t) : Only ps σ t := by
  unfold execStep at e
  refine Only.next ?_ e
  with_reducible repeat' (first
    | assumption | apply State.dbgWrite_only (hp := (fun x m => hp x (parts1_26 x m)))
    | apply State.stepCore_only (hp := hp) | split | intro _)

theorem execCoreHalted_only {σ : State} {ps : List Part} (n : Nat) (cause : HaltCause) (s : State) {t : State} (hp : ∀ x ∈ parts26, x ∈ ps) (h : Only ps σ s)
    (e : (execCoreHalted n cause s) = .next t) : Only ps σ t := by
  unfold execCoreHalted at e
  refine Only.next ?_ e
  with_reducible repeat' (first
    | assumption | apply State.setCore_only (hp := (fun x m => hp x (parts18_26 x m)))
    | apply State.put_only (hp := (fun x m => hp x (parts1_26 x m)))
    | apply State.putB_only (hp := (fun x m => hp x (parts1_26 x m)))
    | apply State.raise_only (hp := (fun x m => hp x (parts1_26 x m))) | split)

end Sys2Proof.Machine
end

