-- ==== Sys2Proof/Laws/OnlyControl.lean ====
section
/-! SUPPORT. Which parts of the state change (`Only`), for pins, power, the mailbox, reset, interrupts, scheduling and soft reset: one lemma per function
that gives a state. -/

namespace Sys2Proof.Machine

theorem State.gpioSet_only {σ : State} {ps : List Part} (s : State) (v : Nat) (hp : ∀ x ∈ parts1, x ∈ ps) (h : Only ps σ s) :
    Only ps σ (State.gpioSet s v) := by
  unfold State.gpioSet
  with_reducible repeat' (first | assumption | apply State.put_only (hp := hp))

theorem State.gpioClr_only {σ : State} {ps : List Part} (s : State) (v : Nat) (hp : ∀ x ∈ parts1, x ∈ ps) (h : Only ps σ s) :
    Only ps σ (State.gpioClr s v) := by
  unfold State.gpioClr
  with_reducible repeat' (first | assumption | apply State.put_only (hp := hp))

theorem execGpioSet_only {σ : State} {ps : List Part} (bits : Word) (s : State) {t : State} (hp : ∀ x ∈ parts1, x ∈ ps) (h : Only ps σ s)
    (e : (execGpioSet bits s) = .next t) : Only ps σ t := by
  unfold execGpioSet at e
  refine Only.next ?_ e
  with_reducible repeat' (first
    | assumption | apply State.blockWrite_only (hp := hp) | apply State.gpioSet_only (hp := hp) | split
    | intro _)

theorem execGpioClr_only {σ : State} {ps : List Part} (bits : Word) (s : State) {t : State} (hp : ∀ x ∈ parts1, x ∈ ps) (h : Only ps σ s)
    (e : (execGpioClr bits s) = .next t) : Only ps σ t := by
  unfold execGpioClr at e
  refine Only.next ?_ e
  with_reducible repeat' (first
    | assumption | apply State.blockWrite_only (hp := hp) | apply State.gpioClr_only (hp := hp) | split
    | intro _)

theorem execGpioEdge_only {σ : State} {ps : List Part} (pin : Nat) (level : Bool) (s : State) {t : State} (hp : ∀ x ∈ parts1, x ∈ ps) (h : Only ps σ s)
    (e : (execGpioEdge pin level s) = .next t) : Only ps σ t := by
  unfold execGpioEdge at e
  refine Only.next ?_ e
  with_reducible repeat' (first
    | assumption | apply State.put_only (hp := hp) | apply State.raise_only (hp := hp) | split | intro _
    | dsimp only)

theorem State.i2cEnd_only {σ : State} {ps : List Part} (s : State) (m : Nat) (code : Nat) (wr : Nat) (rd : Nat) (hp : ∀ x ∈ parts1, x ∈ ps) (h : Only ps σ s) :
    Only ps σ (State.i2cEnd s m code wr rd) := by
  unfold State.i2cEnd
  with_reducible repeat' (first
    | assumption | apply State.put_only (hp := hp) | apply State.putB_only (hp := hp)
    | apply State.raise_only (hp := hp))

theorem State.i2cRx_only {σ : State} {ps : List Part} (s : State) (m : Nat) (l : List Byte) (hp : ∀ x ∈ parts1, x ∈ ps) (h : Only ps σ s) :
    Only ps σ (State.i2cRx s m l) := by
  unfold State.i2cRx
  with_reducible repeat' (first
    | assumption | apply State.put_only (hp := hp) | (refine Only.foldl ?_ (fun _ _ _ => ?_)))

theorem State.i2cCmd_only {σ : State} {ps : List Part} (s : State) (m : Nat) (v : Nat) (hp : ∀ x ∈ parts1, x ∈ ps) (h : Only ps σ s) :
    Only ps σ (State.i2cCmd s m v) := by
  unfold State.i2cCmd
  with_reducible repeat' (first
    | assumption | apply State.log_only (hp := hp) | apply State.put_only (hp := hp)
    | apply State.i2cEnd_only (hp := hp) | apply State.putB_only (hp := hp) | split)

theorem State.i2cGate_only {σ : State} {ps : List Part} (s : State) (m : Nat) (f : State → State) (hp : ∀ x ∈ parts1, x ∈ ps) (hf : ∀ x, Only ps σ x → Only ps σ (f x)) (h : Only ps σ s) :
    Only ps σ (State.i2cGate s m f) := by
  unfold State.i2cGate
  with_reducible repeat' (first | assumption | apply hf | apply State.log_only (hp := hp) | split)

theorem execI2cGo_only {σ : State} {ps : List Part} (m : Nat) (cmd : Word) (s : State) {t : State} (hp : ∀ x ∈ parts1, x ∈ ps) (h : Only ps σ s)
    (e : (execI2cGo m cmd s) = .next t) : Only ps σ t := by
  unfold execI2cGo at e
  refine Only.next ?_ e
  with_reducible repeat' (first
    | assumption | apply State.blockWrite_only (hp := hp) | apply State.i2cGate_only (hp := hp)
    | apply State.i2cCmd_only (hp := hp) | split | intro _)

theorem State.i2cFinish_only {σ : State} {ps : List Part} (s : State) (m : Nat) (code : Nat) (wrDone : Nat) (rdata : List Byte) (hp : ∀ x ∈ parts139, x ∈ ps) (h : Only ps σ s) :
    Only ps σ (State.i2cFinish s m code wrDone rdata) := by
  unfold State.i2cFinish
  with_reducible repeat' (first
    | assumption | apply State.drawBytes_only (hp := (fun x m => hp x (parts6_139 x m)))
    | apply State.i2cEnd_only (hp := (fun x m => hp x (parts1_139 x m)))
    | apply State.i2cRx_only (hp := (fun x m => hp x (parts1_139 x m)))
    | fail_if_no_progress apply Only.upd_pins (hp := (fun x m => hp x (parts140_139 x m))))

theorem execI2cTransactionEnd_only {σ : State} {ps : List Part} (m : Nat) (result : I2cResult) (wrDone : Nat) (rdata : List Byte) (s : State) {t : State} (hp : ∀ x ∈ parts139, x ∈ ps) (h : Only ps σ s)
    (e : (execI2cTransactionEnd m result wrDone rdata s) = .next t) : Only ps σ t := by
  unfold execI2cTransactionEnd at e
  refine Only.next ?_ e
  with_reducible repeat' (first | assumption | apply State.i2cFinish_only (hp := hp) | split)

theorem execStretchTmo_only {σ : State} {ps : List Part} (m : Nat) (wrDone : Nat) (rdata : List Byte) (s : State) {t : State} (hp : ∀ x ∈ parts139, x ∈ ps) (h : Only ps σ s)
    (e : (execStretchTmo m wrDone rdata s) = .next t) : Only ps σ t := by
  unfold execStretchTmo at e
  refine Only.next ?_ e
  with_reducible repeat' (first | assumption | apply State.i2cFinish_only (hp := hp) | split)

theorem State.pmbus_only {σ : State} {ps : List Part} (s : State) (tx : List Byte) (rl : Nat) (code : Nat) (wrDone : Nat) (rd : List Byte) (hp : ∀ x ∈ parts139, x ∈ ps) (h : Only ps σ s) :
    Only ps σ (State.pmbus s tx rl code wrDone rd) := by
  unfold State.pmbus
  with_reducible repeat' (first
    | assumption | apply State.put_only (hp := (fun x m => hp x (parts1_139 x m)))
    | apply State.i2cFinish_only (hp := hp) | (refine Only.foldl ?_ (fun _ _ _ => ?_)))

theorem State.voutCommand_only {σ : State} {ps : List Part} (s : State) (ack : Bool) (mv : Nat) (hp : ∀ x ∈ parts139, x ∈ ps) (h : Only ps σ s) :
    Only ps σ (State.voutCommand s ack mv) := by
  unfold State.voutCommand
  with_reducible repeat' (first
    | assumption | apply State.draw_only (hp := (fun x m => hp x (parts6_139 x m)))
    | apply State.pmbus_only (hp := hp) | split)

theorem State.voutMode_only {σ : State} {ps : List Part} (s : State) (hp : ∀ x ∈ parts141, x ∈ ps) (h : Only ps σ s) :
    Only ps σ (State.voutMode s) := by
  unfold State.voutMode
  with_reducible repeat' (first
    | assumption | apply State.draw_only (hp := (fun x m => hp x (parts6_141 x m)))
    | apply State.pmbus_only (hp := (fun x m => hp x (parts139_141 x m)))
    | fail_if_no_progress apply Only.upd_vcore (hp := (fun x m => hp x (parts125_141 x m))))

theorem execExtest_only {σ : State} {ps : List Part} (on : Bool) (drive : List PinLevel) (s : State) {t : State} (hp : ∀ x ∈ parts140, x ∈ ps) (h : Only ps σ s)
    (e : (execExtest on drive s) = .next t) : Only ps σ t := by
  unfold execExtest at e
  refine Only.next ?_ e
  with_reducible repeat' (first | assumption | fail_if_no_progress apply Only.upd_pins (hp := hp))

theorem State.wipePage_only {σ : State} {ps : List Part} (s : State) (p : Nat) (hp : ∀ x ∈ parts142, x ∈ ps) (h : Only ps σ s) :
    Only ps σ (State.wipePage s p) := by
  unfold State.wipePage
  with_reducible repeat' (first
    | assumption | fail_if_no_progress apply Only.upd_fld_shadow_staged_dirtyTab_dirtyReg (hp := hp))

theorem State.wipeBlocks_only {σ : State} {ps : List Part} (s : State) (d : Nat) (hp : ∀ x ∈ parts143, x ∈ ps) (h : Only ps σ s) :
    Only ps σ (State.wipeBlocks s d) := by
  unfold State.wipeBlocks
  with_reducible repeat' (first
    | assumption
    | fail_if_no_progress apply Only.upd_marks_cores_clus_fseq_oryx_meters_eqSecs_delay_lanes_ring_audio_startTrig_amps_boosts_cal_dmas_vcore (hp := hp)
    | split)

theorem State.wipe_only {σ : State} {ps : List Part} (s : State) (d : Nat) (hp : ∀ x ∈ parts144, x ∈ ps) (h : Only ps σ s) :
    Only ps σ (State.wipe s d) := by
  unfold State.wipe
  with_reducible repeat' (first
    | assumption | apply State.wipePage_only (hp := (fun x m => hp x (parts142_144 x m)))
    | apply State.put_only (hp := (fun x m => hp x (parts1_144 x m)))
    | apply State.wipeBlocks_only (hp := (fun x m => hp x (parts143_144 x m)))
    | (refine Only.foldl ?_ (fun _ _ _ => ?_)) | (refine Only.foldl_snd ?_ (fun _ _ _ => ?_))
    | (refine Only.foldl_fst ?_ (fun _ _ _ => ?_))
    | fail_if_no_progress apply Only.upd_mem_ecc_undef (hp := (fun x m => hp x (parts145_144 x m))))

theorem State.leaveOn_only {σ : State} {ps : List Part} (s : State) (d : Nat) (hp : ∀ x ∈ parts146, x ∈ ps) (h : Only ps σ s) :
    Only ps σ (State.leaveOn s d) := by
  unfold State.leaveOn
  with_reducible repeat' (first
    | assumption | apply State.masterReset_only (hp := (fun x m => hp x (parts129_146 x m)))
    | apply State.migCancelOf_only (hp := (fun x m => hp x (parts19_146 x m)))
    | apply State.dmaCancel_only (hp := (fun x m => hp x (parts131_146 x m)))
    | apply State.scrubStop_only (hp := (fun x m => hp x (parts12_146 x m)))
    | apply State.release_only (hp := (fun x m => hp x (parts12_146 x m)))
    | apply State.setActive_only (hp := (fun x m => hp x (parts44_146 x m)))
    | apply State.setBypass_only (hp := (fun x m => hp x (parts1_146 x m)))
    | (refine Only.foldl ?_ (fun _ _ _ => ?_)) | (refine Only.foldl_snd ?_ (fun _ _ _ => ?_))
    | (refine Only.foldl_fst ?_ (fun _ _ _ => ?_)) | split)

theorem State.domainTo_only {σ : State} {ps : List Part} (s : State) (d : Nat) (t : DomState) (hp : ∀ x ∈ parts147, x ∈ ps) (h : Only ps σ s) :
    Only ps σ (State.domainTo s d t) := by
  unfold State.domainTo
  with_reducible repeat' (first
    | assumption | apply State.wipe_only (hp := (fun x m => hp x (parts144_147 x m)))
    | apply State.release_only (hp := (fun x m => hp x (parts12_147 x m)))
    | apply State.storeRetain_only (hp := (fun x m => hp x (parts22_147 x m)))
    | (refine Only.foldl ?_ (fun _ _ _ => ?_)) | (refine Only.foldl_snd ?_ (fun _ _ _ => ?_))
    | (refine Only.foldl_fst ?_ (fun _ _ _ => ?_))
    | fail_if_no_progress apply Only.upd_dom (hp := (fun x m => hp x (parts148_147 x m))) | split)

theorem State.laneReturn_only {σ : State} {ps : List Part} (s : State) (l : Nat) (hp : ∀ x ∈ parts54, x ∈ ps) (h : Only ps σ s) :
    Only ps σ (State.laneReturn s l) := by
  unfold State.laneReturn
  with_reducible repeat' (first
    | assumption | apply State.newSequence_only (hp := hp) | apply State.startAttempt_only (hp := hp)
    | apply State.laneDisable_only (hp := hp) | split)

theorem State.ampReturn_only {σ : State} {ps : List Part} (s : State) (n : Nat) (hp : ∀ x ∈ parts91, x ∈ ps) (h : Only ps σ s) :
    Only ps σ (State.ampReturn s n) := by
  unfold State.ampReturn
  with_reducible repeat' (first | assumption | apply State.ampEnter_only (hp := hp) | split)

theorem State.comeOn_only {σ : State} {ps : List Part} (s : State) (d : Nat) (hp : ∀ x ∈ parts149, x ∈ ps) (h : Only ps σ s) :
    Only ps σ (State.comeOn s d) := by
  unfold State.comeOn
  with_reducible repeat' (first
    | assumption | apply State.domainTo_only (hp := (fun x m => hp x (parts147_149 x m)))
    | apply State.bankReturn_only (hp := (fun x m => hp x (parts1_149 x m)))
    | apply State.laneReturn_only (hp := (fun x m => hp x (parts54_149 x m)))
    | apply State.portArm_only (hp := (fun x m => hp x (parts1_149 x m)))
    | apply State.ampReturn_only (hp := (fun x m => hp x (parts91_149 x m)))
    | apply State.senseJoin_only (hp := (fun x m => hp x (parts86_149 x m)))
    | apply State.boostRequest_only (hp := (fun x m => hp x (parts12_149 x m)))
    | (refine Only.foldl ?_ (fun _ _ _ => ?_)) | (refine Only.foldl_snd ?_ (fun _ _ _ => ?_))
    | (refine Only.foldl_fst ?_ (fun _ _ _ => ?_)) | split | intro _ | dsimp only)

theorem State.pwrView_only {σ : State} {ps : List Part} (s : State) (hp : ∀ x ∈ parts1, x ∈ ps) (h : Only ps σ s) :
    Only ps σ (State.pwrView s) := by
  unfold State.pwrView
  with_reducible repeat' (first
    | assumption | apply State.putB_only (hp := hp) | apply State.put_only (hp := hp))

theorem State.withPwr_only {σ : State} {ps : List Part} (s : State) (p : Pwr) (hp : ∀ x ∈ parts150, x ∈ ps) (h : Only ps σ s) :
    Only ps σ (State.withPwr s p) := by
  unfold State.withPwr
  with_reducible repeat' (first
    | assumption | apply State.pwrView_only (hp := (fun x m => hp x (parts1_150 x m)))
    | fail_if_no_progress apply Only.upd_pwr (hp := (fun x m => hp x (parts151_150 x m))))

theorem State.pwrEnd_only {σ : State} {ps : List Part} (s : State) (result : Nat) (irq : Nat) (hp : ∀ x ∈ parts152, x ∈ ps) (h : Only ps σ s) :
    Only ps σ (State.pwrEnd s result irq) := by
  unfold State.pwrEnd
  with_reducible repeat' (first
    | assumption | apply State.withPwr_only (hp := (fun x m => hp x (parts150_152 x m)))
    | apply State.raise_only (hp := (fun x m => hp x (parts1_152 x m)))
    | apply State.put_only (hp := (fun x m => hp x (parts1_152 x m)))
    | fail_if_no_progress apply Only.upd_vcore (hp := (fun x m => hp x (parts125_152 x m))))

theorem State.lastRefuser_only {σ : State} {ps : List Part} (s : State) (p : Nat) (d : Nat) (cause : Nat) (hp : ∀ x ∈ parts1, x ∈ ps) (h : Only ps σ s) :
    Only ps σ (State.lastRefuser s p d cause) := by
  unfold State.lastRefuser
  with_reducible repeat' (first | assumption | apply State.put_only (hp := hp))

theorem State.rollNext_only {σ : State} {ps : List Part} (s : State) (l : List Nat) (hp : ∀ x ∈ parts153, x ∈ ps) (h : Only ps σ s) :
    Only ps σ (State.rollNext s l) := by
  unfold State.rollNext
  with_reducible repeat' (first
    | assumption | apply State.pwrEnd_only (hp := (fun x m => hp x (parts152_153 x m)))
    | apply State.chargeNow_only (hp := (fun x m => hp x (parts12_153 x m)))
    | apply State.withPwr_only (hp := (fun x m => hp x (parts150_153 x m))) | split)

theorem State.pwrRefuse_only {σ : State} {ps : List Part} (s : State) (d : Nat) (p : Nat) (cause : Nat) (hp : ∀ x ∈ parts153, x ∈ ps) (h : Only ps σ s) :
    Only ps σ (State.pwrRefuse s d p cause) := by
  unfold State.pwrRefuse
  with_reducible repeat' (first
    | assumption | apply State.lastRefuser_only (hp := (fun x m => hp x (parts1_153 x m)))
    | apply State.bump_only (hp := (fun x m => hp x (parts1_153 x m)))
    | apply State.rollNext_only (hp := hp)
    | apply State.pwrEnd_only (hp := (fun x m => hp x (parts152_153 x m))) | split | intro _ | dsimp only)

theorem State.stopNext_only {σ : State} {ps : List Part} (s : State) (l : List Nat) (hp : ∀ x ∈ parts154, x ∈ ps) (h : Only ps σ s) :
    Only ps σ (State.stopNext s l) := by
  induction l generalizing s with
  | nil => unfold State.stopNext; exact State.pwrEnd_only _ _ _ (fun x m => hp x (parts152_154 x m)) h
  | cons d rest ih =>
    unfold State.stopNext
    with_reducible repeat' (first
    | assumption | apply ih | apply State.withPwr_only (hp := (fun x m => hp x (parts150_154 x m)))
    | apply State.domainTo_only (hp := (fun x m => hp x (parts147_154 x m)))
    | apply State.leaveOn_only (hp := (fun x m => hp x (parts146_154 x m)))
    | apply State.request_only (hp := (fun x m => hp x (parts12_154 x m)))
    | apply State.pwrRefuse_only (hp := (fun x m => hp x (parts153_154 x m))) | split | intro _
    | dsimp only)

theorem State.wakeNext_only {σ : State} {ps : List Part} (s : State) (l : List Nat) (hp : ∀ x ∈ parts153, x ∈ ps) (h : Only ps σ s) :
    Only ps σ (State.wakeNext s l) := by
  unfold State.wakeNext
  with_reducible repeat' (first
    | assumption | apply State.pwrEnd_only (hp := (fun x m => hp x (parts152_153 x m)))
    | apply State.request_only (hp := (fun x m => hp x (parts12_153 x m)))
    | apply State.withPwr_only (hp := (fun x m => hp x (parts150_153 x m))) | split)

theorem State.wakeStart_only {σ : State} {ps : List Part} (s : State) (l : List Nat) (hp : ∀ x ∈ parts153, x ∈ ps) (h : Only ps σ s) :
    Only ps σ (State.wakeStart s l) := by
  unfold State.wakeStart
  with_reducible repeat' (first
    | assumption | apply State.withPwr_only (hp := (fun x m => hp x (parts150_153 x m)))
    | apply State.wakeNext_only (hp := hp)
    | fail_if_no_progress apply Only.upd_vcore (hp := (fun x m => hp x (parts125_153 x m))) | split
    | intro _ | dsimp only)

theorem State.pwrGo_only {σ : State} {ps : List Part} (s : State) (mask : Nat) (t : Nat) (hp : ∀ x ∈ parts154, x ∈ ps) (h : Only ps σ s) :
    Only ps σ (State.pwrGo s mask t) := by
  unfold State.pwrGo
  with_reducible repeat' (first
    | assumption | apply State.raise_only (hp := (fun x m => hp x (parts1_154 x m)))
    | apply State.put_only (hp := (fun x m => hp x (parts1_154 x m)))
    | apply State.log_only (hp := (fun x m => hp x (parts1_154 x m)))
    | apply State.withPwr_only (hp := (fun x m => hp x (parts150_154 x m)))
    | apply State.pwrEnd_only (hp := (fun x m => hp x (parts152_154 x m)))
    | apply State.wakeStart_only (hp := (fun x m => hp x (parts153_154 x m)))
    | apply State.stopNext_only (hp := hp) | split | intro _ | dsimp only)

theorem State.pwrReq_only {σ : State} {ps : List Part} (s : State) (v : Nat) (hp : ∀ x ∈ parts154, x ∈ ps) (h : Only ps σ s) :
    Only ps σ (State.pwrReq s v) := by
  unfold State.pwrReq
  with_reducible repeat' (first
    | assumption | apply State.log_only (hp := (fun x m => hp x (parts1_154 x m)))
    | apply State.put_only (hp := (fun x m => hp x (parts1_154 x m))) | apply State.pwrGo_only (hp := hp)
    | split)

theorem execPwrReqGo_only {σ : State} {ps : List Part} (req : Word) (s : State) {t : State} (hp : ∀ x ∈ parts154, x ∈ ps) (h : Only ps σ s)
    (e : (execPwrReqGo req s) = .next t) : Only ps σ t := by
  unfold execPwrReqGo at e
  refine Only.next ?_ e
  with_reducible repeat' (first
    | assumption | apply State.blockWrite_only (hp := (fun x m => hp x (parts1_154 x m)))
    | apply State.pwrReq_only (hp := hp) | split | intro _)

theorem execRetSigDone_only {σ : State} {ps : List Part} (s : State) {t : State} (hp : ∀ x ∈ parts154, x ∈ ps) (h : Only ps σ s)
    (e : (execRetSigDone s) = .next t) : Only ps σ t := by
  unfold execRetSigDone at e
  refine Only.next ?_ e
  with_reducible repeat' (first
    | assumption | apply State.release_only (hp := (fun x m => hp x (parts12_154 x m)))
    | apply State.signAll_only (hp := (fun x m => hp x (parts124_154 x m)))
    | apply State.domainTo_only (hp := (fun x m => hp x (parts147_154 x m)))
    | apply State.leaveOn_only (hp := (fun x m => hp x (parts146_154 x m)))
    | apply State.withPwr_only (hp := (fun x m => hp x (parts150_154 x m))) | split)

theorem execDomainStopped_only {σ : State} {ps : List Part} (s : State) {t : State} (hp : ∀ x ∈ parts154, x ∈ ps) (h : Only ps σ s)
    (e : (execDomainStopped s) = .next t) : Only ps σ t := by
  unfold execDomainStopped at e
  refine Only.next ?_ e
  with_reducible repeat' (first
    | assumption | apply State.stopNext_only (hp := hp)
    | apply State.withPwr_only (hp := (fun x m => hp x (parts150_154 x m))) | split)

theorem execDomainWakeGranted_only {σ : State} {ps : List Part} (s : State) {t : State} (hp : ∀ x ∈ parts150, x ∈ ps) (h : Only ps σ s)
    (e : (execDomainWakeGranted s) = .next t) : Only ps σ t := by
  unfold execDomainWakeGranted at e
  refine Only.next ?_ e
  with_reducible repeat' (first | assumption | apply State.withPwr_only (hp := hp) | split)

theorem execDomainWakeDone_only {σ : State} {ps : List Part} (s : State) {t : State} (hp : ∀ x ∈ parts155, x ∈ ps) (h : Only ps σ s)
    (e : (execDomainWakeDone s) = .next t) : Only ps σ t := by
  unfold execDomainWakeDone at e
  refine Only.next ?_ e
  with_reducible repeat' (first
    | assumption | apply State.wakeNext_only (hp := (fun x m => hp x (parts153_155 x m)))
    | apply State.release_only (hp := (fun x m => hp x (parts12_155 x m)))
    | apply State.comeOn_only (hp := (fun x m => hp x (parts149_155 x m)))
    | apply State.rollNext_only (hp := (fun x m => hp x (parts153_155 x m)))
    | apply State.unchargeNow_only (hp := (fun x m => hp x (parts12_155 x m))) | split)

theorem execLedgerGrant_only {σ : State} {ps : List Part} (s : State) {t : State} (hp : ∀ x ∈ parts12, x ∈ ps) (h : Only ps σ s)
    (e : (execLedgerGrant s) = .next t) : Only ps σ t := by
  unfold execLedgerGrant at e
  refine Only.next ?_ e
  with_reducible repeat' (first
    | assumption | apply State.scrubGranted_only (hp := (fun x m => hp x (parts1_12 x m)))
    | apply State.ledgerCycle_only (hp := hp) | split)

theorem State.grantTimeout_only {σ : State} {ps : List Part} (s : State) (kind : Nat) (inst : Nat) (hp : ∀ x ∈ parts156, x ∈ ps) (h : Only ps σ s) :
    Only ps σ (State.grantTimeout s kind inst) := by
  unfold State.grantTimeout
  with_reducible repeat' (first
    | assumption | apply State.pwrEnd_only (hp := (fun x m => hp x (parts152_156 x m)))
    | apply State.lastRefuser_only (hp := (fun x m => hp x (parts1_156 x m)))
    | apply State.trainFail_only (hp := (fun x m => hp x (parts55_156 x m)))
    | apply State.scrubLate_only (hp := (fun x m => hp x (parts12_156 x m)))
    | apply State.pwrRefuse_only (hp := (fun x m => hp x (parts153_156 x m)))
    | apply State.boostTimeout_only (hp := (fun x m => hp x (parts89_156 x m)))
    | apply State.migCancel_only (hp := (fun x m => hp x (parts19_156 x m))) | split)

theorem execLedgerTimeout_only {σ : State} {ps : List Part} (kind : Nat) (inst : Nat) (s : State) {t : State} (hp : ∀ x ∈ parts156, x ∈ ps) (h : Only ps σ s)
    (e : (execLedgerTimeout kind inst s) = .next t) : Only ps σ t := by
  unfold execLedgerTimeout at e
  refine Only.next ?_ e
  with_reducible repeat' (first
    | assumption | apply State.scrubGranted_only (hp := (fun x m => hp x (parts1_156 x m)))
    | apply State.ledgerCycle_only (hp := (fun x m => hp x (parts12_156 x m)))
    | apply State.grantTimeout_only (hp := hp)
    | apply State.ledgerExpire_only (hp := (fun x m => hp x (parts12_156 x m)))
    | fail_if_no_progress apply Only.upd_ledger (hp := (fun x m => hp x (parts13_156 x m))) | split
    | intro _ | dsimp only)

theorem State.alarm_only {σ : State} {ps : List Part} (s : State) (n : Nat) (hi : Int) (hp : ∀ x ∈ parts1, x ∈ ps) (h : Only ps σ s) :
    Only ps σ (State.alarm s n hi) := by
  unfold State.alarm
  with_reducible repeat' (first
    | assumption | apply State.raise_only (hp := hp) | apply State.putB_only (hp := hp) | split | intro _
    | dsimp only)

theorem execThermalSample_only {σ : State} {ps : List Part} (temps : List Int) (s : State) {t : State} (hp : ∀ x ∈ parts157, x ∈ ps) (h : Only ps σ s)
    (e : (execThermalSample temps s) = .next t) : Only ps σ t := by
  unfold execThermalSample at e
  refine Only.next ?_ e
  with_reducible repeat' (first
    | assumption | apply State.put_only (hp := (fun x m => hp x (parts1_157 x m)))
    | apply State.putI_only (hp := (fun x m => hp x (parts1_157 x m)))
    | apply State.alarm_only (hp := (fun x m => hp x (parts1_157 x m)))
    | apply State.loseDevice_only (hp := (fun x m => hp x (parts7_157 x m)))
    | fail_if_no_progress apply Only.upd_dpll (hp := (fun x m => hp x (parts45_157 x m))) | split)

theorem execVcoreEvaluate_only {σ : State} {ps : List Part} (wantMv : Nat) (s : State) {t : State} (hp : ∀ x ∈ parts125, x ∈ ps) (h : Only ps σ s)
    (e : (execVcoreEvaluate wantMv s) = .next t) : Only ps σ t := by
  unfold execVcoreEvaluate at e
  refine Only.next ?_ e
  with_reducible repeat' (first | assumption | fail_if_no_progress apply Only.upd_vcore (hp := hp) | split)

theorem execVcoreMove_only {σ : State} {ps : List Part} (acks : List Bool) (s : State) {t : State} (hp : ∀ x ∈ parts158, x ∈ ps) (h : Only ps σ s)
    (e : (execVcoreMove acks s) = .next t) : Only ps σ t := by
  unfold execVcoreMove at e
  refine Only.next ?_ e
  with_reducible repeat' (first
    | assumption | apply State.voutCommand_only (hp := (fun x m => hp x (parts139_158 x m)))
    | apply State.put_only (hp := (fun x m => hp x (parts1_158 x m)))
    | apply State.wakeNext_only (hp := (fun x m => hp x (parts153_158 x m)))
    | (refine Only.foldl ?_ (fun _ _ _ => ?_)) | (refine Only.foldl_snd ?_ (fun _ _ _ => ?_))
    | (refine Only.foldl_fst ?_ (fun _ _ _ => ?_))
    | fail_if_no_progress apply Only.upd_vcore (hp := (fun x m => hp x (parts125_158 x m))) | split
    | intro _ | dsimp only)

theorem State.mbxPut1_only {σ : State} {ps : List Part} (s : State) (i : Nat) (v : Nat) (hp : ∀ x ∈ parts1, x ∈ ps) (h : Only ps σ s) :
    Only ps σ (State.mbxPut1 s i v) := by
  unfold State.mbxPut1
  with_reducible repeat' (first | assumption | apply State.put_only (hp := hp))

theorem State.mbxPut_only {σ : State} {ps : List Part} (s : State) (l : List Nat) (hp : ∀ x ∈ parts1, x ∈ ps) (h : Only ps σ s) :
    Only ps σ (State.mbxPut s l) := by
  unfold State.mbxPut
  with_reducible repeat' (first
    | assumption | apply State.mbxPut1_only (hp := hp) | (refine Only.foldl ?_ (fun _ _ _ => ?_)))

theorem State.flashPut_only {σ : State} {ps : List Part} (s : State) (l : List (Nat × Byte)) (hp : ∀ x ∈ parts159, x ∈ ps) (h : Only ps σ s) :
    Only ps σ (State.flashPut s l) := by
  unfold State.flashPut
  with_reducible repeat' (first | assumption | fail_if_no_progress apply Only.upd_mgmt (hp := hp))

theorem State.flashPart_only {σ : State} {ps : List Part} (s : State) (l : List (Nat × Byte)) (hp : ∀ x ∈ parts160, x ∈ ps) (h : Only ps σ s) :
    Only ps σ (State.flashPart s l) := by
  unfold State.flashPart
  with_reducible repeat' (first
    | assumption | apply State.flashPut_only (hp := (fun x m => hp x (parts159_160 x m)))
    | fail_if_no_progress apply Only.upd_freeCtr (hp := (fun x m => hp x (parts6_160 x m))))

theorem State.mbxEnd_only {σ : State} {ps : List Part} (s : State) (status : Nat) (result : List Nat) (hp : ∀ x ∈ parts161, x ∈ ps) (h : Only ps σ s) :
    Only ps σ (State.mbxEnd s status result) := by
  unfold State.mbxEnd
  with_reducible repeat' (first
    | assumption | apply State.mbxPut_only (hp := (fun x m => hp x (parts1_161 x m)))
    | apply State.put_only (hp := (fun x m => hp x (parts1_161 x m)))
    | apply State.putB_only (hp := (fun x m => hp x (parts1_161 x m)))
    | apply State.raise_only (hp := (fun x m => hp x (parts1_161 x m)))
    | fail_if_no_progress apply Only.upd_mgmt (hp := (fun x m => hp x (parts159_161 x m))))

theorem State.freeBytes_only {σ : State} {ps : List Part} (s : State) (n : Nat) (hp : ∀ x ∈ parts6, x ∈ ps) (h : Only ps σ s) :
    Only ps σ (State.freeBytes s n).2 := by
  unfold State.freeBytes
  with_reducible repeat' (first | assumption | fail_if_no_progress apply Only.upd_freeCtr (hp := hp))

theorem State.mbxVersion_only {σ : State} {ps : List Part} (s : State) (hp : ∀ x ∈ parts161, x ∈ ps) (h : Only ps σ s) :
    Only ps σ (State.mbxVersion s) := by
  unfold State.mbxVersion
  with_reducible repeat' (first | assumption | apply State.mbxEnd_only (hp := hp))

theorem State.mbxThermal_only {σ : State} {ps : List Part} (s : State) (hp : ∀ x ∈ parts161, x ∈ ps) (h : Only ps σ s) :
    Only ps σ (State.mbxThermal s) := by
  unfold State.mbxThermal
  with_reducible repeat' (first | assumption | apply State.mbxEnd_only (hp := hp))

theorem State.mbxAlarm_only {σ : State} {ps : List Part} (s : State) (hp : ∀ x ∈ parts161, x ∈ ps) (h : Only ps σ s) :
    Only ps σ (State.mbxAlarm s) := by
  unfold State.mbxAlarm
  with_reducible repeat' (first
    | assumption | apply State.put_only (hp := (fun x m => hp x (parts1_161 x m)))
    | apply State.mbxEnd_only (hp := hp))

theorem State.slotSeen_only {σ : State} {ps : List Part} (s : State) (b : Bool) (valid : Bool) (hp : ∀ x ∈ parts1, x ∈ ps) (h : Only ps σ s) :
    Only ps σ (State.slotSeen s b valid) := by
  unfold State.slotSeen
  with_reducible repeat' (first | assumption | apply State.putB_only (hp := hp))

theorem State.mbxChallenge_only {σ : State} {ps : List Part} (s : State) (hp : ∀ x ∈ parts162, x ∈ ps) (h : Only ps σ s) :
    Only ps σ (State.mbxChallenge s) := by
  unfold State.mbxChallenge
  with_reducible repeat' (first
    | assumption | apply State.freeBytes_only (hp := (fun x m => hp x (parts6_162 x m)))
    | apply State.mbxEnd_only (hp := (fun x m => hp x (parts161_162 x m)))
    | fail_if_no_progress apply Only.upd_mgmt (hp := (fun x m => hp x (parts159_162 x m))))

theorem State.mbxResponse_only {σ : State} {ps : List Part} (s : State) (hp : ∀ x ∈ parts161, x ∈ ps) (h : Only ps σ s) :
    Only ps σ (State.mbxResponse s) := by
  unfold State.mbxResponse
  with_reducible repeat' (first
    | assumption | apply State.mbxEnd_only (hp := hp)
    | apply State.raise_only (hp := (fun x m => hp x (parts1_161 x m)))
    | apply State.maxUp_only (hp := (fun x m => hp x (parts1_161 x m)))
    | fail_if_no_progress apply Only.upd_mgmt (hp := (fun x m => hp x (parts159_161 x m))) | split | intro _
    | dsimp only)

theorem State.mbxKey_only {σ : State} {ps : List Part} (s : State) (hp : ∀ x ∈ parts161, x ∈ ps) (h : Only ps σ s) :
    Only ps σ (State.mbxKey s) := by
  unfold State.mbxKey
  with_reducible repeat' (first
    | assumption | apply State.mbxEnd_only (hp := hp)
    | apply State.putB_only (hp := (fun x m => hp x (parts1_161 x m)))
    | fail_if_no_progress apply Only.upd_mgmt (hp := (fun x m => hp x (parts159_161 x m))) | split)

theorem State.mbxRollback_only {σ : State} {ps : List Part} (s : State) (hp : ∀ x ∈ parts161, x ∈ ps) (h : Only ps σ s) :
    Only ps σ (State.mbxRollback s) := by
  unfold State.mbxRollback
  with_reducible repeat' (first
    | assumption | apply State.mbxEnd_only (hp := hp)
    | fail_if_no_progress apply Only.upd_mgmt (hp := (fun x m => hp x (parts159_161 x m))) | split)

theorem State.mbxFlash_only {σ : State} {ps : List Part} (s : State) (op : Nat) (len : Nat) (good : Bool) (hp : ∀ x ∈ parts162, x ∈ ps) (h : Only ps σ s) :
    Only ps σ (State.mbxFlash s op len good) := by
  unfold State.mbxFlash
  with_reducible repeat' (first
    | assumption | apply State.mbxEnd_only (hp := (fun x m => hp x (parts161_162 x m)))
    | apply State.flashPut_only (hp := (fun x m => hp x (parts159_162 x m)))
    | apply State.flashPart_only (hp := (fun x m => hp x (parts160_162 x m))) | split | intro _
    | dsimp only)

theorem State.mgmtRestart_only {σ : State} {ps : List Part} (s : State) (slot : Option Bool) (hp : ∀ x ∈ parts163, x ∈ ps) (h : Only ps σ s) :
    Only ps σ (State.mgmtRestart s slot) := by
  unfold State.mgmtRestart
  with_reducible repeat' (first
    | assumption | apply State.masterReset_only (hp := (fun x m => hp x (parts129_163 x m)))
    | apply State.putB_only (hp := (fun x m => hp x (parts1_163 x m)))
    | fail_if_no_progress apply Only.upd_mgmt (hp := (fun x m => hp x (parts159_163 x m))))

theorem Only.ite {σ : State} {ps : List Part} {c : Prop} [Decidable c] {a b : State} (ha : Only ps σ a) (hb : Only ps σ b) :
    Only ps σ (if c then a else b) := by
  split
  · exact ha
  · exact hb

theorem State.mbxRun_only {σ : State} {ps : List Part} (s : State) (op : Nat) (len : Nat) (verdict : Bool) (hp : ∀ x ∈ parts164, x ∈ ps) (h : Only ps σ s) :
    Only ps σ (State.mbxRun s op len verdict) := by
  have e {t : State} (c : Nat) (l : List Nat) (ht : Only ps σ t) := State.mbxEnd_only t c l (fun x m => hp x (parts161_164 x m)) ht
  unfold State.mbxRun
  with_reducible
  repeat' refine Only.ite ?_ ?_
  · exact e _ _ h
  · exact e _ _ h
  · exact State.mbxVersion_only _ (fun x m => hp x (parts161_164 x m)) h
  · exact e _ _ h
  · exact e _ _ h
  · exact e _ _ h
  · exact State.mbxFlash_only _ _ _ _ (fun x m => hp x (parts162_164 x m)) h
  · exact e _ _ (State.slotSeen_only _ _ _ (fun x m => hp x (parts1_164 x m)) h)
  · exact e _ _ (Only.upd_mgmt (hp := (fun x m => hp x (parts159_164 x m))) h)
  · exact e _ _ h
  · exact State.mgmtRestart_only _ _ (fun x m => hp x (parts163_164 x m)) (State.slotSeen_only _ _ _ (fun x m => hp x (parts1_164 x m)) h)
  · exact e _ _ (State.slotSeen_only _ _ _ (fun x m => hp x (parts1_164 x m)) h)
  · exact State.mbxThermal_only _ (fun x m => hp x (parts161_164 x m)) h
  · exact State.mbxAlarm_only _ (fun x m => hp x (parts161_164 x m)) h
  · exact State.mbxChallenge_only _ (fun x m => hp x (parts162_164 x m)) h
  · exact State.mbxResponse_only _ (fun x m => hp x (parts161_164 x m)) h
  · exact State.mbxKey_only _ (fun x m => hp x (parts161_164 x m)) h
  · exact State.mbxRollback_only _ (fun x m => hp x (parts161_164 x m)) h

theorem State.mbxCmd_only {σ : State} {ps : List Part} (s : State) (v : Nat) (hp : ∀ x ∈ parts161, x ∈ ps) (h : Only ps σ s) :
    Only ps σ (State.mbxCmd s v) := by
  unfold State.mbxCmd
  with_reducible repeat' (first
    | assumption | apply State.log_only (hp := (fun x m => hp x (parts1_161 x m)))
    | apply State.put_only (hp := (fun x m => hp x (parts1_161 x m)))
    | apply State.putB_only (hp := (fun x m => hp x (parts1_161 x m))) | apply State.mbxEnd_only (hp := hp)
    | fail_if_no_progress apply Only.upd_mgmt (hp := (fun x m => hp x (parts159_161 x m))) | split | intro _
    | dsimp only)

theorem State.mbxData_only {σ : State} {ps : List Part} (s : State) (k : Nat) (v : Nat) (hp : ∀ x ∈ parts1, x ∈ ps) (h : Only ps σ s) :
    Only ps σ (State.mbxData s k v) := by
  unfold State.mbxData
  with_reducible repeat' (first
    | assumption | apply State.log_only (hp := hp) | apply State.put_only (hp := hp) | split)

theorem State.mbxGo_only {σ : State} {ps : List Part} (s : State) (op : Nat) (len : Byte) (tag : Byte) (hp : ∀ x ∈ parts161, x ∈ ps) (h : Only ps σ s) :
    Only ps σ (State.mbxGo s op len tag) := by
  unfold State.mbxGo
  with_reducible repeat' (first
    | assumption | apply State.blockWrite_only (hp := (fun x m => hp x (parts1_161 x m)))
    | apply State.mbxCmd_only (hp := hp) | split | intro _)

theorem execGetVersion_only {σ : State} {ps : List Part} (len : Byte) (tag : Byte) (s : State) {t : State} (hp : ∀ x ∈ parts161, x ∈ ps) (h : Only ps σ s)
    (e : (execGetVersion len tag s) = .next t) : Only ps σ t := by
  unfold execGetVersion at e
  refine Only.next ?_ e
  with_reducible repeat' (first | assumption | apply State.mbxGo_only (hp := hp))

theorem execGetUid_only {σ : State} {ps : List Part} (len : Byte) (tag : Byte) (s : State) {t : State} (hp : ∀ x ∈ parts161, x ∈ ps) (h : Only ps σ s)
    (e : (execGetUid len tag s) = .next t) : Only ps σ t := by
  unfold execGetUid at e
  refine Only.next ?_ e
  with_reducible repeat' (first | assumption | apply State.mbxGo_only (hp := hp))

theorem execFlashRead_only {σ : State} {ps : List Part} (len : Byte) (tag : Byte) (s : State) {t : State} (hp : ∀ x ∈ parts161, x ∈ ps) (h : Only ps σ s)
    (e : (execFlashRead len tag s) = .next t) : Only ps σ t := by
  unfold execFlashRead at e
  refine Only.next ?_ e
  with_reducible repeat' (first | assumption | apply State.mbxGo_only (hp := hp))

theorem execFlashWrite_only {σ : State} {ps : List Part} (len : Byte) (tag : Byte) (s : State) {t : State} (hp : ∀ x ∈ parts161, x ∈ ps) (h : Only ps σ s)
    (e : (execFlashWrite len tag s) = .next t) : Only ps σ t := by
  unfold execFlashWrite at e
  refine Only.next ?_ e
  with_reducible repeat' (first | assumption | apply State.mbxGo_only (hp := hp))

theorem execFlashErase_only {σ : State} {ps : List Part} (len : Byte) (tag : Byte) (s : State) {t : State} (hp : ∀ x ∈ parts161, x ∈ ps) (h : Only ps σ s)
    (e : (execFlashErase len tag s) = .next t) : Only ps σ t := by
  unfold execFlashErase at e
  refine Only.next ?_ e
  with_reducible repeat' (first | assumption | apply State.mbxGo_only (hp := hp))

theorem execImageVerify_only {σ : State} {ps : List Part} (len : Byte) (tag : Byte) (s : State) {t : State} (hp : ∀ x ∈ parts161, x ∈ ps) (h : Only ps σ s)
    (e : (execImageVerify len tag s) = .next t) : Only ps σ t := by
  unfold execImageVerify at e
  refine Only.next ?_ e
  with_reducible repeat' (first | assumption | apply State.mbxGo_only (hp := hp))

theorem execImageSetPref_only {σ : State} {ps : List Part} (len : Byte) (tag : Byte) (s : State) {t : State} (hp : ∀ x ∈ parts161, x ∈ ps) (h : Only ps σ s)
    (e : (execImageSetPref len tag s) = .next t) : Only ps σ t := by
  unfold execImageSetPref at e
  refine Only.next ?_ e
  with_reducible repeat' (first | assumption | apply State.mbxGo_only (hp := hp))

theorem execImageSwitch_only {σ : State} {ps : List Part} (len : Byte) (tag : Byte) (s : State) {t : State} (hp : ∀ x ∈ parts161, x ∈ ps) (h : Only ps σ s)
    (e : (execImageSwitch len tag s) = .next t) : Only ps σ t := by
  unfold execImageSwitch at e
  refine Only.next ?_ e
  with_reducible repeat' (first | assumption | apply State.mbxGo_only (hp := hp))

theorem execThermalRead_only {σ : State} {ps : List Part} (len : Byte) (tag : Byte) (s : State) {t : State} (hp : ∀ x ∈ parts161, x ∈ ps) (h : Only ps σ s)
    (e : (execThermalRead len tag s) = .next t) : Only ps σ t := by
  unfold execThermalRead at e
  refine Only.next ?_ e
  with_reducible repeat' (first | assumption | apply State.mbxGo_only (hp := hp))

theorem execThermalSetAlarm_only {σ : State} {ps : List Part} (len : Byte) (tag : Byte) (s : State) {t : State} (hp : ∀ x ∈ parts161, x ∈ ps) (h : Only ps σ s)
    (e : (execThermalSetAlarm len tag s) = .next t) : Only ps σ t := by
  unfold execThermalSetAlarm at e
  refine Only.next ?_ e
  with_reducible repeat' (first | assumption | apply State.mbxGo_only (hp := hp))

theorem execDebugChallenge_only {σ : State} {ps : List Part} (len : Byte) (tag : Byte) (s : State) {t : State} (hp : ∀ x ∈ parts161, x ∈ ps) (h : Only ps σ s)
    (e : (execDebugChallenge len tag s) = .next t) : Only ps σ t := by
  unfold execDebugChallenge at e
  refine Only.next ?_ e
  with_reducible repeat' (first | assumption | apply State.mbxGo_only (hp := hp))

theorem execDebugResponse_only {σ : State} {ps : List Part} (len : Byte) (tag : Byte) (s : State) {t : State} (hp : ∀ x ∈ parts161, x ∈ ps) (h : Only ps σ s)
    (e : (execDebugResponse len tag s) = .next t) : Only ps σ t := by
  unfold execDebugResponse at e
  refine Only.next ?_ e
  with_reducible repeat' (first | assumption | apply State.mbxGo_only (hp := hp))

theorem execDebugKeyProgram_only {σ : State} {ps : List Part} (len : Byte) (tag : Byte) (s : State) {t : State} (hp : ∀ x ∈ parts161, x ∈ ps) (h : Only ps σ s)
    (e : (execDebugKeyProgram len tag s) = .next t) : Only ps σ t := by
  unfold execDebugKeyProgram at e
  refine Only.next ?_ e
  with_reducible repeat' (first | assumption | apply State.mbxGo_only (hp := hp))

theorem execRollbackAdvance_only {σ : State} {ps : List Part} (len : Byte) (tag : Byte) (s : State) {t : State} (hp : ∀ x ∈ parts161, x ∈ ps) (h : Only ps σ s)
    (e : (execRollbackAdvance len tag s) = .next t) : Only ps σ t := by
  unfold execRollbackAdvance at e
  refine Only.next ?_ e
  with_reducible repeat' (first | assumption | apply State.mbxGo_only (hp := hp))

theorem execMbxCommandEnd_only {σ : State} {ps : List Part} (verdict : Bool) (s : State) {t : State} (hp : ∀ x ∈ parts164, x ∈ ps) (h : Only ps σ s)
    (e : (execMbxCommandEnd verdict s) = .next t) : Only ps σ t := by
  unfold execMbxCommandEnd at e
  refine Only.next ?_ e
  with_reducible repeat' (first | assumption | apply State.mbxRun_only (hp := hp) | split)

theorem execWatchdogRestart_only {σ : State} {ps : List Part} (s : State) {t : State} (hp : ∀ x ∈ parts163, x ∈ ps) (h : Only ps σ s)
    (e : (execWatchdogRestart s) = .next t) : Only ps σ t := by
  unfold execWatchdogRestart at e
  refine Only.next ?_ e
  with_reducible repeat' (first
    | assumption | apply State.mgmtRestart_only (hp := hp)
    | apply State.raise_only (hp := (fun x m => hp x (parts1_163 x m)))
    | apply State.bump_only (hp := (fun x m => hp x (parts1_163 x m))) | split)

theorem execControllerRestartDone_only {σ : State} {ps : List Part} (s : State) {t : State} (hp : ∀ x ∈ parts162, x ∈ ps) (h : Only ps σ s)
    (e : (execControllerRestartDone s) = .next t) : Only ps σ t := by
  unfold execControllerRestartDone at e
  refine Only.next ?_ e
  with_reducible repeat' (first
    | assumption | apply State.raise_only (hp := (fun x m => hp x (parts1_162 x m)))
    | apply State.mbxEnd_only (hp := (fun x m => hp x (parts161_162 x m)))
    | apply State.putB_only (hp := (fun x m => hp x (parts1_162 x m)))
    | apply State.flashPart_only (hp := (fun x m => hp x (parts160_162 x m)))
    | fail_if_no_progress apply Only.upd_mgmt (hp := (fun x m => hp x (parts159_162 x m))) | split | intro _
    | dsimp only)

theorem State.afterReset_only {σ : State} {ps : List Part} (s : State) (hp : ∀ x ∈ parts165, x ∈ ps) (h : Only ps σ s) :
    Only ps σ (State.afterReset s) := by
  unfold State.afterReset
  apply State.put_only (hp := (fun x m => hp x (parts1_165 x m)))
  apply State.putB_only (hp := (fun x m => hp x (parts1_165 x m)))
  exact h.trans ⟨rfl, fun p hn => absurd (hp p (by cases p <;> decide)) hn⟩

theorem State.enterReset_only {σ : State} {ps : List Part} (s : State) (hp : ∀ x ∈ parts165, x ∈ ps) (h : Only ps σ s) :
    Only ps σ (State.enterReset s) := by
  unfold State.enterReset
  with_reducible repeat' (first
    | assumption | apply State.afterReset_only (hp := hp)
    | fail_if_no_progress apply Only.upd_inReset (hp := (fun x m => hp x (parts167_165 x m))))

theorem State.leaveReset_only {σ : State} {ps : List Part} (s : State) (hp : ∀ x ∈ parts165, x ∈ ps) (h : Only ps σ s) :
    Only ps σ (State.leaveReset s) := by
  unfold State.leaveReset
  with_reducible repeat' (first
    | assumption | apply State.afterReset_only (hp := hp)
    | fail_if_no_progress apply Only.upd_inReset (hp := (fun x m => hp x (parts167_165 x m))) | split)

theorem execResetNLow_only {σ : State} {ps : List Part} (ns : Nat) (s : State) {t : State} (hp : ∀ x ∈ parts165, x ∈ ps) (h : Only ps σ s)
    (e : (execResetNLow ns s) = .next t) : Only ps σ t := by
  unfold execResetNLow at e
  refine Only.next ?_ e
  with_reducible repeat' (first
    | assumption | apply State.enterReset_only (hp := hp)
    | apply State.draw_only (hp := (fun x m => hp x (parts6_165 x m)))
    | fail_if_no_progress apply Only.upd_pins (hp := (fun x m => hp x (parts140_165 x m))) | split | intro _
    | dsimp only)

theorem execResetNRise_only {σ : State} {ps : List Part} (s : State) {t : State} (hp : ∀ x ∈ parts165, x ∈ ps) (h : Only ps σ s)
    (e : (execResetNRise s) = .next t) : Only ps σ t := by
  unfold execResetNRise at e
  refine Only.next ?_ e
  with_reducible repeat' (first
    | assumption | apply State.leaveReset_only (hp := hp)
    | fail_if_no_progress apply Only.upd_pins (hp := (fun x m => hp x (parts140_165 x m))) | split)

theorem State.devRst_only {σ : State} {ps : List Part} (s : State) (key : Nat) (hp : ∀ x ∈ parts165, x ∈ ps) (h : Only ps σ s) :
    Only ps σ (State.devRst s key) := by
  unfold State.devRst
  with_reducible repeat' (first
    | assumption | apply State.enterReset_only (hp := hp)
    | apply State.log_only (hp := (fun x m => hp x (parts1_165 x m)))
    | fail_if_no_progress apply Only.upd_pins (hp := (fun x m => hp x (parts140_165 x m))) | split)

theorem execDevRst_only {σ : State} {ps : List Part} (key : Word) (s : State) {t : State} (hp : ∀ x ∈ parts165, x ∈ ps) (h : Only ps σ s)
    (e : (execDevRst key s) = .next t) : Only ps σ t := by
  unfold execDevRst at e
  refine Only.next ?_ e
  with_reducible repeat' (first
    | assumption | apply State.blockWrite_only (hp := (fun x m => hp x (parts1_165 x m)))
    | apply State.devRst_only (hp := hp) | split | intro _)

theorem execDevRstRelease_only {σ : State} {ps : List Part} (s : State) {t : State} (hp : ∀ x ∈ parts165, x ∈ ps) (h : Only ps σ s)
    (e : (execDevRstRelease s) = .next t) : Only ps σ t := by
  unfold execDevRstRelease at e
  refine Only.next ?_ e
  with_reducible repeat' (first
    | assumption | apply State.leaveReset_only (hp := hp)
    | fail_if_no_progress apply Only.upd_pins (hp := (fun x m => hp x (parts140_165 x m))) | split)

theorem execRootPllLock_only {σ : State} {ps : List Part} (s : State) {t : State} (hp : ∀ x ∈ parts153, x ∈ ps) (h : Only ps σ s)
    (e : (execRootPllLock s) = .next t) : Only ps σ t := by
  unfold execRootPllLock at e
  refine Only.next ?_ e
  with_reducible repeat' (first
    | assumption | apply State.putB_only (hp := (fun x m => hp x (parts1_153 x m)))
    | apply State.wakeNext_only (hp := hp) | apply State.rollNext_only (hp := hp) | split | intro _
    | dsimp only)

theorem State.loseDomains_only {σ : State} {ps : List Part} (s : State) (hp : ∀ x ∈ parts7, x ∈ ps) (h : Only ps σ s) :
    Only ps σ (State.loseDomains s) := by
  unfold State.loseDomains
  with_reducible repeat' (first | assumption | fail_if_no_progress apply Only.upd_undef (hp := hp))

theorem execRootUnlock_only {σ : State} {ps : List Part} (s : State) {t : State} (hp : ∀ x ∈ parts15, x ∈ ps) (h : Only ps σ s)
    (e : (execRootUnlock s) = .next t) : Only ps σ t := by
  unfold execRootUnlock at e
  refine Only.next ?_ e
  with_reducible repeat' (first
    | assumption | apply State.loseDomains_only (hp := (fun x m => hp x (parts7_15 x m)))
    | apply State.raise_only (hp := (fun x m => hp x (parts1_15 x m)))
    | apply State.putB_only (hp := (fun x m => hp x (parts1_15 x m))) | split)

theorem execXoLoss_only {σ : State} {ps : List Part} (s : State) {t : State} (hp : ∀ x ∈ parts15, x ∈ ps) (h : Only ps σ s)
    (e : (execXoLoss s) = .next t) : Only ps σ t := by
  unfold execXoLoss at e
  refine Only.next ?_ e
  with_reducible repeat' (first
    | assumption | apply State.loseDomains_only (hp := (fun x m => hp x (parts7_15 x m)))
    | apply State.raise_only (hp := (fun x m => hp x (parts1_15 x m)))
    | apply State.putB_only (hp := (fun x m => hp x (parts1_15 x m))) | split)

theorem State.bootFrom_only {σ : State} {ps : List Part} (s : State) (b : Bool) (mv : Nat) (hp : ∀ x ∈ parts141, x ∈ ps) (h : Only ps σ s) :
    Only ps σ (State.bootFrom s b mv) := by
  unfold State.bootFrom
  with_reducible repeat' (first
    | assumption | apply State.put_only (hp := (fun x m => hp x (parts1_141 x m)))
    | apply State.voutCommand_only (hp := (fun x m => hp x (parts139_141 x m)))
    | apply State.voutMode_only (hp := hp)
    | apply State.putB_only (hp := (fun x m => hp x (parts1_141 x m)))
    | fail_if_no_progress apply Only.upd_vcore (hp := (fun x m => hp x (parts125_141 x m))))

theorem execBootReady_only {σ : State} {ps : List Part} (vcoreMv : Nat) (s : State) {t : State} (hp : ∀ x ∈ parts141, x ∈ ps) (h : Only ps σ s)
    (e : (execBootReady vcoreMv s) = .next t) : Only ps σ t := by
  unfold execBootReady at e
  refine Only.next ?_ e
  with_reducible repeat' (first
    | assumption | apply State.slotSeen_only (hp := (fun x m => hp x (parts1_141 x m)))
    | apply State.bootFrom_only (hp := hp) | apply State.put_only (hp := (fun x m => hp x (parts1_141 x m)))
    | split | intro _ | dsimp only)

theorem State.setBit_only {σ : State} {ps : List Part} (s : State) (p : Nat) (f : Fld) (b : Nat) (v : Bool) (hp : ∀ x ∈ parts1, x ∈ ps) (h : Only ps σ s) :
    Only ps σ (State.setBit s p f b v) := by
  unfold State.setBit
  with_reducible repeat' (first | assumption | apply State.put_only (hp := hp) | split | intro _ | dsimp only)

theorem State.sendMessage_only {σ : State} {ps : List Part} (s : State) (v : Nat) (hp : ∀ x ∈ parts168, x ∈ ps) (h : Only ps σ s) :
    Only ps σ (State.sendMessage s v) := by
  unfold State.sendMessage
  with_reducible repeat' (first
    | assumption | apply State.setBit_only (hp := (fun x m => hp x (parts1_168 x m)))
    | fail_if_no_progress apply Only.upd_pins (hp := (fun x m => hp x (parts140_168 x m))) | split)

theorem State.pbaSettle_only {σ : State} {ps : List Part} (s : State) (hp : ∀ x ∈ parts1, x ∈ ps) (h : Only ps σ s) :
    Only ps σ (State.pbaSettle s) := by
  unfold State.pbaSettle
  with_reducible repeat' (first
    | assumption | apply State.setBit_only (hp := hp) | (refine Only.foldl ?_ (fun _ _ _ => ?_))
    | (refine Only.foldl_snd ?_ (fun _ _ _ => ?_)) | (refine Only.foldl_fst ?_ (fun _ _ _ => ?_)) | split)

theorem State.vecAssert_only {σ : State} {ps : List Part} (s : State) (v : Nat) (hp : ∀ x ∈ parts168, x ∈ ps) (h : Only ps σ s) :
    Only ps σ (State.vecAssert s v) := by
  unfold State.vecAssert
  with_reducible repeat' (first
    | assumption | apply State.put_only (hp := (fun x m => hp x (parts1_168 x m)))
    | apply State.sendMessage_only (hp := hp)
    | apply State.setBit_only (hp := (fun x m => hp x (parts1_168 x m))))

theorem State.sendWaiting_only {σ : State} {ps : List Part} (s : State) (hp : ∀ x ∈ parts168, x ∈ ps) (h : Only ps σ s) :
    Only ps σ (State.sendWaiting s) := by
  unfold State.sendWaiting
  with_reducible repeat' (first
    | assumption | apply State.sendMessage_only (hp := hp) | (refine Only.foldl ?_ (fun _ _ _ => ?_))
    | (refine Only.foldl_snd ?_ (fun _ _ _ => ?_)) | (refine Only.foldl_fst ?_ (fun _ _ _ => ?_))
    | fail_if_no_progress apply Only.upd_pins (hp := (fun x m => hp x (parts140_168 x m))) | split)

theorem State.endService_only {σ : State} {ps : List Part} (s : State) (reg : Nat) (bits_ : Nat) (hp : ∀ x ∈ parts168, x ∈ ps) (h : Only ps σ s) :
    Only ps σ (State.endService s reg bits_) := by
  unfold State.endService
  with_reducible repeat' (first
    | assumption | apply State.setBit_only (hp := (fun x m => hp x (parts1_168 x m)))
    | apply State.vecAssert_only (hp := hp) | (refine Only.foldl ?_ (fun _ _ _ => ?_))
    | (refine Only.foldl_snd ?_ (fun _ _ _ => ?_)) | (refine Only.foldl_fst ?_ (fun _ _ _ => ?_))
    | fail_if_no_progress apply Only.upd_pins (hp := (fun x m => hp x (parts140_168 x m))) | split | intro _
    | dsimp only)

theorem execVectorAssert_only {σ : State} {ps : List Part} (v : Nat) (s : State) {t : State} (hp : ∀ x ∈ parts168, x ∈ ps) (h : Only ps σ s)
    (e : (execVectorAssert v s) = .next t) : Only ps σ t := by
  unfold execVectorAssert at e
  refine Only.next ?_ e
  with_reducible repeat' (first
    | assumption | apply State.vecAssert_only (hp := hp)
    | fail_if_no_progress apply Only.upd_pins (hp := (fun x m => hp x (parts140_168 x m))) | split)

theorem execVecEoi_only {σ : State} {ps : List Part} (reg : Nat) (bits : Word) (s : State) {t : State} (hp : ∀ x ∈ parts168, x ∈ ps) (h : Only ps σ s)
    (e : (execVecEoi reg bits s) = .next t) : Only ps σ t := by
  unfold execVecEoi at e
  refine Only.next ?_ e
  with_reducible repeat' (first
    | assumption | apply State.blockWrite_only (hp := (fun x m => hp x (parts1_168 x m)))
    | apply State.endService_only (hp := hp) | split | intro _)

theorem State.actArm_only {σ : State} {ps : List Part} (s : State) (k : Nat) (hp : ∀ x ∈ parts1, x ∈ ps) (h : Only ps σ s) :
    Only ps σ (State.actArm s k) := by
  unfold State.actArm
  with_reducible repeat' (first
    | assumption | apply State.putB_only (hp := hp) | apply State.log_only (hp := hp)
    | apply State.bump_only (hp := hp) | apply State.raise_only (hp := hp)
    | (refine Only.foldl ?_ (fun _ _ _ => ?_)) | (refine Only.foldl_snd ?_ (fun _ _ _ => ?_))
    | (refine Only.foldl_fst ?_ (fun _ _ _ => ?_)) | split | intro _ | dsimp only)

theorem State.actCtrl_only {σ : State} {ps : List Part} (s : State) (k : Nat) (v : Nat) (hp : ∀ x ∈ parts1, x ∈ ps) (h : Only ps σ s) :
    Only ps σ (State.actCtrl s k v) := by
  unfold State.actCtrl
  with_reducible repeat' (first
    | assumption | apply State.putB_only (hp := hp) | apply State.log_only (hp := hp)
    | apply State.put_only (hp := hp) | apply State.actArm_only (hp := hp) | split | intro _ | dsimp only)

theorem execArm_only {σ : State} {ps : List Part} (k : Nat) (ctrl : Word) (s : State) {t : State} (hp : ∀ x ∈ parts1, x ∈ ps) (h : Only ps σ s)
    (e : (execArm k ctrl s) = .next t) : Only ps σ t := by
  unfold execArm at e
  refine Only.next ?_ e
  with_reducible repeat' (first
    | assumption | apply State.blockWrite_only (hp := hp) | apply State.actCtrl_only (hp := hp) | split
    | intro _)

theorem execDisarm_only {σ : State} {ps : List Part} (k : Nat) (ctrl : Word) (s : State) {t : State} (hp : ∀ x ∈ parts1, x ∈ ps) (h : Only ps σ s)
    (e : (execDisarm k ctrl s) = .next t) : Only ps σ t := by
  unfold execDisarm at e
  refine Only.next ?_ e
  with_reducible repeat' (first
    | assumption | apply State.blockWrite_only (hp := hp) | apply State.actCtrl_only (hp := hp) | split
    | intro _)

theorem State.actDone_only {σ : State} {ps : List Part} (s : State) (k : Nat) (hp : ∀ x ∈ parts1, x ∈ ps) (h : Only ps σ s) :
    Only ps σ (State.actDone s k) := by
  unfold State.actDone
  with_reducible repeat' (first
    | assumption | apply State.putB_only (hp := hp) | apply State.put_only (hp := hp)
    | apply State.raise_only (hp := hp) | split | intro _ | dsimp only)

theorem State.actRefused_only {σ : State} {ps : List Part} (s : State) (k : Nat) (hp : ∀ x ∈ parts1, x ∈ ps) (h : Only ps σ s) :
    Only ps σ (State.actRefused s k) := by
  unfold State.actRefused
  with_reducible repeat' (first
    | assumption | apply State.putB_only (hp := hp) | apply State.raise_only (hp := hp)
    | apply State.bump_only (hp := hp))

theorem State.actCommit_only {σ : State} {ps : List Part} (s : State) (k : Nat) (hp : ∀ x ∈ parts100, x ∈ ps) (h : Only ps σ s) :
    Only ps σ (State.actCommit s k) := by
  unfold State.actCommit
  with_reducible repeat' (first
    | assumption | apply State.actRefused_only (hp := (fun x m => hp x (parts1_100 x m)))
    | apply State.log_only (hp := (fun x m => hp x (parts1_100 x m)))
    | apply State.put_only (hp := (fun x m => hp x (parts1_100 x m)))
    | apply State.actDone_only (hp := (fun x m => hp x (parts1_100 x m)))
    | apply State.commitCtrl_only (hp := hp) | split)

theorem execSchedCommit_only {σ : State} {ps : List Part} (k : Nat) (s : State) {t : State} (hp : ∀ x ∈ parts100, x ∈ ps) (h : Only ps σ s)
    (e : (execSchedCommit k s) = .next t) : Only ps σ t := by
  unfold execSchedCommit at e
  refine Only.next ?_ e
  with_reducible repeat' (first | assumption | apply State.actCommit_only (hp := hp) | split)

theorem execSchedPortStart_only {σ : State} {ps : List Part} (k : Nat) (s : State) {t : State} (hp : ∀ x ∈ parts72, x ∈ ps) (h : Only ps σ s)
    (e : (execSchedPortStart k s) = .next t) : Only ps σ t := by
  unfold execSchedPortStart at e
  refine Only.next ?_ e
  with_reducible repeat' (first
    | assumption | apply State.actDone_only (hp := (fun x m => hp x (parts1_72 x m)))
    | apply State.portStartGroups_only (hp := hp) | split)

theorem execSchedPhaseStep_only {σ : State} {ps : List Part} (k : Nat) (s : State) {t : State} (hp : ∀ x ∈ parts44, x ∈ ps) (h : Only ps σ s)
    (e : (execSchedPhaseStep k s) = .next t) : Only ps σ t := by
  unfold execSchedPhaseStep at e
  refine Only.next ?_ e
  with_reducible repeat' (first
    | assumption | apply State.put_only (hp := (fun x m => hp x (parts1_44 x m)))
    | apply State.actDone_only (hp := (fun x m => hp x (parts1_44 x m)))
    | apply State.pstepCtrl_only (hp := hp) | split)

theorem State.actMute_only {σ : State} {ps : List Part} (s : State) (k : Nat) (on : Bool) (hp : ∀ x ∈ parts93, x ∈ ps) (h : Only ps σ s) :
    Only ps σ (State.actMute s k on) := by
  unfold State.actMute
  with_reducible repeat' (first
    | assumption | apply State.actDone_only (hp := (fun x m => hp x (parts1_93 x m)))
    | apply State.muteSet_only (hp := hp) | (refine Only.foldl ?_ (fun _ _ _ => ?_)))

theorem execSchedMute_only {σ : State} {ps : List Part} (k : Nat) (s : State) {t : State} (hp : ∀ x ∈ parts93, x ∈ ps) (h : Only ps σ s)
    (e : (execSchedMute k s) = .next t) : Only ps σ t := by
  unfold execSchedMute at e
  refine Only.next ?_ e
  with_reducible repeat' (first | assumption | apply State.actMute_only (hp := hp) | split)

theorem execSchedUnmute_only {σ : State} {ps : List Part} (k : Nat) (s : State) {t : State} (hp : ∀ x ∈ parts93, x ∈ ps) (h : Only ps σ s)
    (e : (execSchedUnmute k s) = .next t) : Only ps σ t := by
  unfold execSchedUnmute at e
  refine Only.next ?_ e
  with_reducible repeat' (first | assumption | apply State.actMute_only (hp := hp) | split)

theorem execSchedTrunkInsert_only {σ : State} {ps : List Part} (k : Nat) (s : State) {t : State} (hp : ∀ x ∈ parts1, x ∈ ps) (h : Only ps σ s)
    (e : (execSchedTrunkInsert k s) = .next t) : Only ps σ t := by
  unfold execSchedTrunkInsert at e
  refine Only.next ?_ e
  with_reducible repeat' (first
    | assumption | apply State.insSet_only (hp := hp) | apply State.actDone_only (hp := hp)
    | apply State.blockWrite_only (hp := hp) | split | intro _ | dsimp only)

theorem execSchedUserEvent_only {σ : State} {ps : List Part} (k : Nat) (s : State) {t : State} (hp : ∀ x ∈ parts1, x ∈ ps) (h : Only ps σ s)
    (e : (execSchedUserEvent k s) = .next t) : Only ps σ t := by
  unfold execSchedUserEvent at e
  refine Only.next ?_ e
  with_reducible repeat' (first
    | assumption | apply State.actDone_only (hp := hp) | apply State.raise_only (hp := hp)
    | apply State.put_only (hp := hp) | split)

theorem State.resetRegs_only {σ : State} {ps : List Part} (s : State) (p : Nat) (keep : List Fld) (hp : ∀ x ∈ parts169, x ∈ ps) (h : Only ps σ s) :
    Only ps σ (State.resetRegs s p keep) := by
  unfold State.resetRegs
  with_reducible repeat' (first
    | assumption | apply State.put_only (hp := (fun x m => hp x (parts1_169 x m)))
    | (refine Only.foldl ?_ (fun _ _ _ => ?_)) | (refine Only.foldl_snd ?_ (fun _ _ _ => ?_))
    | (refine Only.foldl_fst ?_ (fun _ _ _ => ?_))
    | fail_if_no_progress apply Only.upd_fld_shadow_staged (hp := hp))

theorem State.fsSel_only {σ : State} {ps : List Part} (s : State) (v : Nat) (hp : ∀ x ∈ parts1, x ∈ ps) (h : Only ps σ s) :
    Only ps σ (State.fsSel s v) := by
  unfold State.fsSel
  with_reducible repeat' (first
    | assumption | apply State.log_only (hp := hp) | apply State.put_only (hp := hp) | split)

theorem execFsSelWrite_only {σ : State} {ps : List Part} (value : Word) (s : State) {t : State} (hp : ∀ x ∈ parts1, x ∈ ps) (h : Only ps σ s)
    (e : (execFsSelWrite value s) = .next t) : Only ps σ t := by
  unfold execFsSelWrite at e
  refine Only.next ?_ e
  with_reducible repeat' (first
    | assumption | apply State.blockWrite_only (hp := hp) | apply State.fsSel_only (hp := hp) | split
    | intro _)

theorem execFsChangeApply_only {σ : State} {ps : List Part} (s : State) {t : State} (hp : ∀ x ∈ parts1, x ∈ ps) (h : Only ps σ s)
    (e : (execFsChangeApply s) = .next t) : Only ps σ t := by
  unfold execFsChangeApply at e
  refine Only.next ?_ e
  with_reducible repeat' (first | assumption | apply State.fsApply_only (hp := hp) | split)

theorem execMclkSelApply_only {σ : State} {ps : List Part} (s : State) {t : State} (hp : ∀ x ∈ parts140, x ∈ ps) (h : Only ps σ s)
    (e : (execMclkSelApply s) = .next t) : Only ps σ t := by
  unfold execMclkSelApply at e
  refine Only.next ?_ e
  with_reducible repeat' (first | assumption | fail_if_no_progress apply Only.upd_pins (hp := hp) | split)

theorem State.refsAgain_only {σ : State} {ps : List Part} (s : State) (hp : ∀ x ∈ parts44, x ∈ ps) (h : Only ps σ s) :
    Only ps σ (State.refsAgain s) := by
  unfold State.refsAgain
  with_reducible repeat' (first
    | assumption | apply State.timeSrcView_only (hp := (fun x m => hp x (parts1_44 x m)))
    | apply State.reselect_only (hp := hp)
    | apply State.portQuality_only (hp := (fun x m => hp x (parts1_44 x m)))
    | apply State.judge_only (hp := (fun x m => hp x (parts1_44 x m)))
    | apply State.setActive_only (hp := hp) | (refine Only.foldl ?_ (fun _ _ _ => ?_))
    | (refine Only.foldl_snd ?_ (fun _ _ _ => ?_)) | (refine Only.foldl_fst ?_ (fun _ _ _ => ?_)) | split)

theorem State.softRef_only {σ : State} {ps : List Part} (s : State) (hp : ∀ x ∈ parts170, x ∈ ps) (h : Only ps σ s) :
    Only ps σ (State.softRef s) := by
  unfold State.softRef
  with_reducible repeat' (first
    | assumption | apply State.resetRegs_only (hp := (fun x m => hp x (parts169_170 x m)))
    | apply State.timeSrcView_only (hp := (fun x m => hp x (parts1_170 x m)))
    | fail_if_no_progress apply Only.upd_dpll (hp := (fun x m => hp x (parts45_170 x m))))

theorem State.softNtime_only {σ : State} {ps : List Part} (s : State) (hp : ∀ x ∈ parts170, x ∈ ps) (h : Only ps σ s) :
    Only ps σ (State.softNtime s) := by
  unfold State.softNtime
  with_reducible repeat' (first
    | assumption | apply State.resetRegs_only (hp := (fun x m => hp x (parts169_170 x m)))
    | apply State.refsAgain_only (hp := (fun x m => hp x (parts44_170 x m)))
    | fail_if_no_progress apply Only.upd_dpll (hp := (fun x m => hp x (parts45_170 x m))))

theorem State.softStore_only {σ : State} {ps : List Part} (s : State) (hp : ∀ x ∈ parts171, x ∈ ps) (h : Only ps σ s) :
    Only ps σ (State.softStore s) := by
  unfold State.softStore
  with_reducible repeat' (first
    | assumption | apply State.scrubStop_only (hp := (fun x m => hp x (parts12_171 x m)))
    | apply State.resetRegs_only (hp := (fun x m => hp x (parts169_171 x m))) | split)

theorem State.pwrCancel_only {σ : State} {ps : List Part} (s : State) (hp : ∀ x ∈ parts153, x ∈ ps) (h : Only ps σ s) :
    Only ps σ (State.pwrCancel s) := by
  unfold State.pwrCancel
  with_reducible repeat' (first
    | assumption | apply State.release_only (hp := (fun x m => hp x (parts12_153 x m)))
    | apply State.unchargeNow_only (hp := (fun x m => hp x (parts12_153 x m)))
    | apply State.withPwr_only (hp := (fun x m => hp x (parts150_153 x m)))
    | fail_if_no_progress apply Only.upd_vcore (hp := (fun x m => hp x (parts125_153 x m))) | split)

theorem State.softPwr_only {σ : State} {ps : List Part} (s : State) (hp : ∀ x ∈ parts172, x ∈ ps) (h : Only ps σ s) :
    Only ps σ (State.softPwr s) := by
  unfold State.softPwr
  with_reducible repeat' (first
    | assumption | apply State.pwrCancel_only (hp := (fun x m => hp x (parts153_172 x m)))
    | apply State.pwrView_only (hp := (fun x m => hp x (parts1_172 x m)))
    | apply State.ledgerView_only (hp := (fun x m => hp x (parts1_172 x m)))
    | apply State.resetRegs_only (hp := (fun x m => hp x (parts169_172 x m)))
    | fail_if_no_progress apply Only.upd_ledger (hp := (fun x m => hp x (parts13_172 x m))))

theorem State.softLane_only {σ : State} {ps : List Part} (s : State) (l : Nat) (hp : ∀ x ∈ parts173, x ∈ ps) (h : Only ps σ s) :
    Only ps σ (State.softLane s l) := by
  unfold State.softLane
  with_reducible repeat' (first
    | assumption | apply State.laneDisable_only (hp := (fun x m => hp x (parts54_173 x m)))
    | apply State.setLane_only (hp := (fun x m => hp x (parts42_173 x m)))
    | apply State.resetRegs_only (hp := (fun x m => hp x (parts169_173 x m)))
    | apply State.newSequence_only (hp := (fun x m => hp x (parts54_173 x m))) | split | intro _
    | dsimp only)

theorem State.softPort_only {σ : State} {ps : List Part} (s : State) (p : Nat) (hp : ∀ x ∈ parts174, x ∈ ps) (h : Only ps σ s) :
    Only ps σ (State.softPort s p) := by
  unfold State.softPort
  with_reducible repeat' (first
    | assumption | apply State.resetRegs_only (hp := (fun x m => hp x (parts169_174 x m)))
    | apply State.setPort_only (hp := (fun x m => hp x (parts43_174 x m))))

theorem State.softRing_only {σ : State} {ps : List Part} (s : State) (hp : ∀ x ∈ parts175, x ∈ ps) (h : Only ps σ s) :
    Only ps σ (State.softRing s) := by
  unfold State.softRing
  with_reducible repeat' (first
    | assumption | apply State.insClear_only (hp := (fun x m => hp x (parts1_175 x m)))
    | apply State.masterReset_only (hp := (fun x m => hp x (parts129_175 x m)))
    | apply State.resetRegs_only (hp := (fun x m => hp x (parts169_175 x m)))
    | fail_if_no_progress apply Only.upd_ring (hp := (fun x m => hp x (parts43_175 x m))))

theorem State.softAudio_only {σ : State} {ps : List Part} (s : State) (p : Nat) (hp : ∀ x ∈ parts176, x ∈ ps) (h : Only ps σ s) :
    Only ps σ (State.softAudio s p) := by
  unfold State.softAudio
  with_reducible repeat' (first
    | assumption | apply State.portHalt_only (hp := (fun x m => hp x (parts72_176 x m)))
    | apply State.setAud_only (hp := (fun x m => hp x (parts71_176 x m)))
    | apply State.resetRegs_only (hp := (fun x m => hp x (parts169_176 x m))) | split)

theorem State.softAmp_only {σ : State} {ps : List Part} (s : State) (n : Nat) (hp : ∀ x ∈ parts177, x ∈ ps) (h : Only ps σ s) :
    Only ps σ (State.softAmp s n) := by
  unfold State.softAmp
  with_reducible repeat' (first
    | assumption | apply State.ampStop_only (hp := (fun x m => hp x (parts86_177 x m)))
    | apply State.windowSpoil_only (hp := (fun x m => hp x (parts86_177 x m)))
    | apply State.muteSet_only (hp := (fun x m => hp x (parts93_177 x m)))
    | apply State.resetRegs_only (hp := (fun x m => hp x (parts169_177 x m))))

theorem State.softClus_only {σ : State} {ps : List Part} (s : State) (c : Nat) (hp : ∀ x ∈ parts178, x ∈ ps) (h : Only ps σ s) :
    Only ps σ (State.softClus s c) := by
  unfold State.softClus
  with_reducible repeat' (first
    | assumption | apply State.masterReset_only (hp := (fun x m => hp x (parts129_178 x m)))
    | apply State.migCancel_only (hp := (fun x m => hp x (parts19_178 x m)))
    | apply State.resetRegs_only (hp := (fun x m => hp x (parts169_178 x m))))

theorem State.softIbex_only {σ : State} {ps : List Part} (s : State) (n : Nat) (hp : ∀ x ∈ parts179, x ∈ ps) (h : Only ps σ s) :
    Only ps σ (State.softIbex s n) := by
  unfold State.softIbex
  with_reducible repeat' (first
    | assumption | apply State.setCore_only (hp := (fun x m => hp x (parts18_179 x m)))
    | apply State.onCorePage_only (hp := (fun x m => hp x (parts20_179 x m)))
    | apply State.resetRegs_only (hp := (fun x m => hp x (parts169_179 x m))) | split | intro _)

theorem State.softFrame_only {σ : State} {ps : List Part} (s : State) (hp : ∀ x ∈ parts180, x ∈ ps) (h : Only ps σ s) :
    Only ps σ (State.softFrame s) := by
  unfold State.softFrame
  with_reducible repeat' (first
    | assumption | apply State.resetRegs_only (hp := (fun x m => hp x (parts169_180 x m)))
    | fail_if_no_progress apply Only.upd_fseq (hp := (fun x m => hp x (parts80_180 x m))))

theorem State.softDev_only {σ : State} {ps : List Part} (s : State) (hp : ∀ x ∈ parts181, x ∈ ps) (h : Only ps σ s) :
    Only ps σ (State.softDev s) := by
  unfold State.softDev
  with_reducible repeat' (first
    | assumption | apply State.resetRegs_only (hp := (fun x m => hp x (parts169_181 x m)))
    | fail_if_no_progress apply Only.upd_commit (hp := (fun x m => hp x (parts101_181 x m))))

theorem State.softRst_only {σ : State} {ps : List Part} (s : State) (p : Nat) (hp : ∀ x ∈ parts182, x ∈ ps) (h : Only ps σ s) :
    Only ps σ (State.softRst s p) := by
  unfold State.softRst
  with_reducible repeat' (first
    | assumption | apply State.takeUp_only (hp := (fun x m => hp x (parts79_182 x m)))
    | apply State.softDev_only (hp := (fun x m => hp x (parts181_182 x m)))
    | apply State.resetRegs_only (hp := (fun x m => hp x (parts169_182 x m)))
    | apply State.masterReset_only (hp := (fun x m => hp x (parts129_182 x m)))
    | apply State.softPwr_only (hp := (fun x m => hp x (parts172_182 x m)))
    | apply State.fsSel_only (hp := (fun x m => hp x (parts1_182 x m)))
    | apply State.softRef_only (hp := (fun x m => hp x (parts170_182 x m)))
    | apply State.softNtime_only (hp := (fun x m => hp x (parts170_182 x m)))
    | apply State.outstView_only (hp := (fun x m => hp x (parts1_182 x m)))
    | apply State.retriesEnd_only (hp := (fun x m => hp x (parts127_182 x m)))
    | apply State.softStore_only (hp := (fun x m => hp x (parts171_182 x m)))
    | apply State.dmaCancel_only (hp := (fun x m => hp x (parts131_182 x m)))
    | apply State.softFrame_only (hp := (fun x m => hp x (parts180_182 x m)))
    | apply State.softClus_only (hp := (fun x m => hp x (parts178_182 x m)))
    | apply State.softIbex_only (hp := (fun x m => hp x (parts179_182 x m)))
    | apply State.softRing_only (hp := (fun x m => hp x (parts175_182 x m)))
    | apply State.softPort_only (hp := (fun x m => hp x (parts174_182 x m)))
    | apply State.softLane_only (hp := (fun x m => hp x (parts173_182 x m)))
    | apply State.softAudio_only (hp := (fun x m => hp x (parts176_182 x m)))
    | apply State.calAbort_only (hp := (fun x m => hp x (parts93_182 x m)))
    | apply State.softAmp_only (hp := (fun x m => hp x (parts177_182 x m)))
    | apply State.boostOff_only (hp := (fun x m => hp x (parts89_182 x m)))
    | fail_if_no_progress apply Only.upd_oryx_meters_eqSecs_delay (hp := (fun x m => hp x (parts183_182 x m)))
    | split)

theorem State.softReq_only {σ : State} {ps : List Part} (s : State) (p : Nat) (hp : ∀ x ∈ parts182, x ∈ ps) (h : Only ps σ s) :
    Only ps σ (State.softReq s p) := by
  unfold State.softReq
  with_reducible repeat' (first
    | assumption | apply State.log_only (hp := (fun x m => hp x (parts1_182 x m)))
    | apply State.softRst_only (hp := hp) | split)

theorem State.syncReq_only {σ : State} {ps : List Part} (s : State) (p : Nat) (hp : ∀ x ∈ parts1, x ∈ ps) (h : Only ps σ s) :
    Only ps σ (State.syncReq s p) := by
  unfold State.syncReq
  with_reducible repeat' (first
    | assumption | apply State.log_only (hp := hp) | apply State.putB_only (hp := hp) | split | intro _
    | dsimp only)

theorem State.syncCopy_only {σ : State} {ps : List Part} (s : State) (p : Nat) (hp : ∀ x ∈ parts22, x ∈ ps) (h : Only ps σ s) :
    Only ps σ (State.syncCopy s p) := by
  unfold State.syncCopy
  with_reducible repeat' (first
    | assumption | fail_if_no_progress apply Only.upd_mem_ecc (hp := hp) | split | intro _ | dsimp only)

theorem execSyncDone_only {σ : State} {ps : List Part} (page : Nat) (s : State) {t : State} (hp : ∀ x ∈ parts184, x ∈ ps) (h : Only ps σ s)
    (e : (execSyncDone page s) = .next t) : Only ps σ t := by
  unfold execSyncDone at e
  refine Only.next ?_ e
  with_reducible repeat' (first
    | assumption | apply State.syncCopy_only (hp := (fun x m => hp x (parts22_184 x m)))
    | apply State.putB_only (hp := (fun x m => hp x (parts1_184 x m)))
    | fail_if_no_progress apply Only.upd_dirtyTab (hp := (fun x m => hp x (parts185_184 x m))) | split)

theorem execSoftRst_only {σ : State} {ps : List Part} (page : Nat) (s : State) {t : State} (hp : ∀ x ∈ parts182, x ∈ ps) (h : Only ps σ s)
    (e : (execSoftRst page s) = .next t) : Only ps σ t := by
  unfold execSoftRst at e
  refine Only.next ?_ e
  with_reducible repeat' (first
    | assumption | apply State.ctrlWrite_only (hp := (fun x m => hp x (parts1_182 x m)))
    | apply State.softReq_only (hp := hp) | split | intro _)

theorem execSync_only {σ : State} {ps : List Part} (page : Nat) (s : State) {t : State} (hp : ∀ x ∈ parts1, x ∈ ps) (h : Only ps σ s)
    (e : (execSync page s) = .next t) : Only ps σ t := by
  unfold execSync at e
  refine Only.next ?_ e
  with_reducible repeat' (first
    | assumption | apply State.ctrlWrite_only (hp := hp) | apply State.syncReq_only (hp := hp) | split
    | intro _)

end Sys2Proof.Machine
end

