-- ==== Sys2Proof/Laws/OnlyAccess.lean ====
section
/-! SUPPORT. Which parts of the state change (`Only`), for register accesses, the host interface and DMA: one lemma per function
that gives a state. -/

namespace Sys2Proof.Machine

theorem State.plainWrite_only {σ : State} {ps : List Part} (s : State) (p : Nat) (flds : List Fld) (v : Nat) (hp : ∀ x ∈ parts1, x ∈ ps) (h : Only ps σ s) :
    Only ps σ (State.plainWrite s p flds v) := by
  unfold State.plainWrite
  with_reducible repeat' (first
    | assumption | apply State.put_only (hp := hp) | (refine Only.foldl ?_ (fun _ _ _ => ?_))
    | (refine Only.foldl_snd ?_ (fun _ _ _ => ?_)) | (refine Only.foldl_fst ?_ (fun _ _ _ => ?_)) | split)

theorem State.fieldWrite_only {σ : State} {ps : List Part} (s : State) (p : Nat) (flds : List Fld) (v : Nat) (hp : ∀ x ∈ parts11, x ∈ ps) (h : Only ps σ s) :
    Only ps σ (State.fieldWrite s p flds v) := by
  unfold State.fieldWrite
  with_reducible repeat' (first
    | assumption | apply State.plainWrite_only (hp := (fun x m => hp x (parts1_11 x m)))
    | apply State.shadowWrite_only (hp := hp) | split | intro _ | dsimp only)

theorem State.onlyIf_only {σ : State} {ps : List Part} (s : State) (p : Nat) (ok : Bool) (f : State → State) (hp : ∀ x ∈ parts1, x ∈ ps) (hf : ∀ x, Only ps σ x → Only ps σ (f x)) (h : Only ps σ s) :
    Only ps σ (State.onlyIf s p ok f) := by
  unfold State.onlyIf
  with_reducible repeat' (first | assumption | apply hf | apply State.log_only (hp := hp) | split)

theorem State.ntCtrl_only {σ : State} {ps : List Part} (s : State) (v : Nat) (hp : ∀ x ∈ parts44, x ∈ ps) (h : Only ps σ s) :
    Only ps σ (State.ntCtrl s v) := by
  unfold State.ntCtrl
  with_reducible repeat' (first
    | assumption | apply State.plainWrite_only (hp := (fun x m => hp x (parts1_44 x m)))
    | apply State.refsAgain_only (hp := hp) | apply State.alignReq_only (hp := hp)
    | apply State.setReq_only (hp := (fun x m => hp x (parts1_44 x m)))
    | fail_if_no_progress apply Only.upd_dpll (hp := (fun x m => hp x (parts45_44 x m))) | split | intro _
    | dsimp only)

theorem State.refCfg_only {σ : State} {ps : List Part} (s : State) (k : Nat) (v : Nat) (hp : ∀ x ∈ parts44, x ∈ ps) (h : Only ps σ s) :
    Only ps σ (State.refCfg s k v) := by
  unfold State.refCfg
  with_reducible repeat' (first
    | assumption | apply State.plainWrite_only (hp := (fun x m => hp x (parts1_44 x m)))
    | apply State.portActivity_only (hp := hp) | apply State.refsAgain_only (hp := hp)
    | fail_if_no_progress apply Only.upd_dpll (hp := (fun x m => hp x (parts45_44 x m))) | split)

theorem State.writeClock_only {σ : State} {ps : List Part} (s : State) (b : Block) (off : Nat) (v : Nat) (flds : List Fld) (hp : ∀ x ∈ parts44, x ∈ ps) (h : Only ps σ s) :
    Only ps σ (State.writeClock s b off v flds) := by
  unfold State.writeClock
  with_reducible repeat' (first
    | assumption | apply State.fsSel_only (hp := (fun x m => hp x (parts1_44 x m)))
    | apply State.plainWrite_only (hp := (fun x m => hp x (parts1_44 x m)))
    | apply State.pstepCtrl_only (hp := hp) | apply State.numFreqWrite_only (hp := hp)
    | apply State.numPhaseWrite_only (hp := hp) | apply State.refCfg_only (hp := hp)
    | apply State.refsAgain_only (hp := hp) | apply State.ntCtrl_only (hp := hp)
    | apply State.actCtrl_only (hp := (fun x m => hp x (parts1_44 x m)))
    | apply State.onlyIf_only (hp := (fun x m => hp x (parts1_44 x m))) | split | intro _)

theorem State.sliceCtrl_only {σ : State} {ps : List Part} (s : State) (v : Nat) (hp : ∀ x ∈ parts1, x ∈ ps) (h : Only ps σ s) :
    Only ps σ (State.sliceCtrl s v) := by
  unfold State.sliceCtrl
  with_reducible repeat' (first
    | assumption | apply State.log_only (hp := hp) | apply State.put_only (hp := hp) | split)

theorem execSliceCtrlWrite_only {σ : State} {ps : List Part} (value : Word) (s : State) {t : State} (hp : ∀ x ∈ parts1, x ∈ ps) (h : Only ps σ s)
    (e : (execSliceCtrlWrite value s) = .next t) : Only ps σ t := by
  unfold execSliceCtrlWrite at e
  refine Only.next ?_ e
  with_reducible repeat' (first
    | assumption | apply State.blockWrite_only (hp := hp) | apply State.sliceCtrl_only (hp := hp) | split
    | intro _)

theorem State.msixCtrl_only {σ : State} {ps : List Part} (s : State) (flds : List Fld) (v : Nat) (hp : ∀ x ∈ parts168, x ∈ ps) (h : Only ps σ s) :
    Only ps σ (State.msixCtrl s flds v) := by
  unfold State.msixCtrl
  with_reducible repeat' (first
    | assumption | apply State.plainWrite_only (hp := (fun x m => hp x (parts1_168 x m)))
    | apply State.sendWaiting_only (hp := hp) | split)

theorem State.i2cWrite_only {σ : State} {ps : List Part} (s : State) (by_ : Master) (m : Nat) (off : Nat) (v : Nat) (flds : List Fld) (hp : ∀ x ∈ parts1, x ∈ ps) (h : Only ps σ s) :
    Only ps σ (State.i2cWrite s by_ m off v flds) := by
  unfold State.i2cWrite
  with_reducible repeat' (first
    | assumption | apply State.log_only (hp := hp) | apply State.i2cCmd_only (hp := hp)
    | apply State.onlyIf_only (hp := hp) | apply State.plainWrite_only (hp := hp) | split | intro _)

theorem State.writeDevice_only {σ : State} {ps : List Part} (s : State) (by_ : Master) (b : Block) (inst : Nat) (off : Nat) (v : Nat) (flds : List Fld) (hp : ∀ x ∈ parts165, x ∈ ps) (h : Only ps σ s) :
    Only ps σ (State.writeDevice s by_ b inst off v flds) := by
  unfold State.writeDevice
  with_reducible repeat' (first
    | assumption | apply State.commitCtrl_only (hp := (fun x m => hp x (parts100_165 x m)))
    | apply State.devRst_only (hp := hp)
    | apply State.plainWrite_only (hp := (fun x m => hp x (parts1_165 x m)))
    | apply State.msixCtrl_only (hp := (fun x m => hp x (parts168_165 x m)))
    | apply State.mbxCmd_only (hp := (fun x m => hp x (parts161_165 x m)))
    | apply State.mbxData_only (hp := (fun x m => hp x (parts1_165 x m)))
    | apply State.endService_only (hp := (fun x m => hp x (parts168_165 x m)))
    | apply State.pbaSettle_only (hp := (fun x m => hp x (parts1_165 x m)))
    | apply State.pwrReq_only (hp := (fun x m => hp x (parts154_165 x m)))
    | apply State.ledgerView_only (hp := (fun x m => hp x (parts1_165 x m)))
    | apply State.gpioSet_only (hp := (fun x m => hp x (parts1_165 x m)))
    | apply State.gpioClr_only (hp := (fun x m => hp x (parts1_165 x m)))
    | apply State.i2cWrite_only (hp := (fun x m => hp x (parts1_165 x m))) | split)

theorem State.dmaWrite_only {σ : State} {ps : List Part} (s : State) (e : Nat) (off : Nat) (v : Nat) (flds : List Fld) (hp : ∀ x ∈ parts1, x ∈ ps) (h : Only ps σ s) :
    Only ps σ (State.dmaWrite s e off v flds) := by
  unfold State.dmaWrite
  with_reducible repeat' (first
    | assumption | apply State.log_only (hp := hp) | apply State.plainWrite_only (hp := hp)
    | apply State.raise_only (hp := hp) | split | intro _ | dsimp only)

theorem State.spareWrite_only {σ : State} {ps : List Part} (s : State) (c : Nat) (v : Nat) (hp : ∀ x ∈ parts1, x ∈ ps) (h : Only ps σ s) :
    Only ps σ (State.spareWrite s c v) := by
  unfold State.spareWrite
  with_reducible repeat' (first
    | assumption | apply State.onlyIf_only (hp := hp) | apply State.putB_only (hp := hp) | split | intro _)

theorem State.writeBus_only {σ : State} {ps : List Part} (s : State) (b : Block) (inst : Nat) (off : Nat) (v : Nat) (flds : List Fld) (hp : ∀ x ∈ parts19, x ∈ ps) (h : Only ps σ s) :
    Only ps σ (State.writeBus s b inst off v flds) := by
  unfold State.writeBus
  with_reducible repeat' (first
    | assumption | apply State.sliceCtrl_only (hp := (fun x m => hp x (parts1_19 x m)))
    | apply State.plainWrite_only (hp := (fun x m => hp x (parts1_19 x m)))
    | apply State.zfill_only (hp := (fun x m => hp x (parts1_19 x m)))
    | apply State.scrubCtrl_only (hp := (fun x m => hp x (parts12_19 x m)))
    | apply State.dmaWrite_only (hp := (fun x m => hp x (parts1_19 x m)))
    | apply State.spareWrite_only (hp := (fun x m => hp x (parts1_19 x m)))
    | apply State.migCtrl_only (hp := hp) | split)

theorem State.dbgReg_only {σ : State} {ps : List Part} (s : State) (n : Nat) (off : Nat) (v : Nat) (flds : List Fld) (hp : ∀ x ∈ parts186, x ∈ ps) (h : Only ps σ s) :
    Only ps σ (State.dbgReg s n off v flds) := by
  unfold State.dbgReg
  with_reducible repeat' (first
    | assumption | apply State.log_only (hp := (fun x m => hp x (parts1_186 x m)))
    | apply State.plainWrite_only (hp := (fun x m => hp x (parts1_186 x m)))
    | apply State.haltReq_only (hp := (fun x m => hp x (parts18_186 x m)))
    | apply State.resumeCore_only (hp := (fun x m => hp x (parts26_186 x m)))
    | apply State.stepCore_only (hp := (fun x m => hp x (parts26_186 x m)))
    | apply State.loseDomain_only (hp := (fun x m => hp x (parts7_186 x m)))
    | apply State.putB_only (hp := (fun x m => hp x (parts1_186 x m)))
    | apply State.setCore_only (hp := (fun x m => hp x (parts18_186 x m))) | split)

theorem State.ibexWrite_only {σ : State} {ps : List Part} (s : State) (n : Nat) (off : Nat) (v : Nat) (flds : List Fld) (hp : ∀ x ∈ parts187, x ∈ ps) (h : Only ps σ s) :
    Only ps σ (State.ibexWrite s n off v flds) := by
  unfold State.ibexWrite
  with_reducible repeat' (first
    | assumption | apply State.ibexGate_only (hp := (fun x m => hp x (parts1_187 x m)))
    | apply State.setCore_only (hp := (fun x m => hp x (parts18_187 x m)))
    | apply State.dbgReg_only (hp := (fun x m => hp x (parts186_187 x m)))
    | apply State.fieldWrite_only (hp := (fun x m => hp x (parts11_187 x m))) | split | intro _)

theorem State.laneCtrl_only {σ : State} {ps : List Part} (s : State) (l : Nat) (v : Nat) (flds : List Fld) (hp : ∀ x ∈ parts54, x ∈ ps) (h : Only ps σ s) :
    Only ps σ (State.laneCtrl s l v flds) := by
  unfold State.laneCtrl
  with_reducible repeat' (first
    | assumption | apply State.onlyIf_only (hp := (fun x m => hp x (parts1_54 x m)))
    | apply State.plainWrite_only (hp := (fun x m => hp x (parts1_54 x m)))
    | apply State.put_only (hp := (fun x m => hp x (parts1_54 x m)))
    | apply State.laneRetrain_only (hp := hp) | split | intro _ | dsimp only)

theorem State.lanePwr_only {σ : State} {ps : List Part} (s : State) (l : Nat) (v : Nat) (hp : ∀ x ∈ parts1, x ∈ ps) (h : Only ps σ s) :
    Only ps σ (State.lanePwr s l v) := by
  unfold State.lanePwr
  with_reducible repeat' (first
    | assumption | apply State.onlyIf_only (hp := hp) | apply State.put_only (hp := hp) | split | intro _)

theorem State.laneWrite_only {σ : State} {ps : List Part} (s : State) (l : Nat) (off : Nat) (v : Nat) (flds : List Fld) (hp : ∀ x ∈ parts54, x ∈ ps) (h : Only ps σ s) :
    Only ps σ (State.laneWrite s l off v flds) := by
  unfold State.laneWrite
  with_reducible repeat' (first
    | assumption | apply State.laneCtrl_only (hp := hp)
    | apply State.lanePwr_only (hp := (fun x m => hp x (parts1_54 x m)))
    | apply State.ffeFixed_only (hp := (fun x m => hp x (parts48_54 x m)))
    | apply State.plainWrite_only (hp := (fun x m => hp x (parts1_54 x m)))
    | apply State.testCtrl_only (hp := hp)
    | apply State.injCtrl_only (hp := (fun x m => hp x (parts57_54 x m)))
    | apply State.ltSend_only (hp := (fun x m => hp x (parts48_54 x m))) | split)

theorem State.wrapEnWrite_only {σ : State} {ps : List Part} (s : State) (ringB : Bool) (on : Bool) (hp : ∀ x ∈ parts52, x ∈ ps) (h : Only ps σ s) :
    Only ps σ (State.wrapEnWrite s ringB on) := by
  unfold State.wrapEnWrite
  with_reducible repeat' (first
    | assumption | apply State.putB_only (hp := (fun x m => hp x (parts1_52 x m)))
    | apply State.wrapSoon_only (hp := hp)
    | apply State.setPort_only (hp := (fun x m => hp x (parts43_52 x m)))
    | apply State.raise_only (hp := (fun x m => hp x (parts1_52 x m)))
    | (refine Only.foldl ?_ (fun _ _ _ => ?_)) | (refine Only.foldl_snd ?_ (fun _ _ _ => ?_))
    | (refine Only.foldl_fst ?_ (fun _ _ _ => ?_)) | split | intro _ | dsimp only)

theorem State.bypCtrl_only {σ : State} {ps : List Part} (s : State) (v : Nat) (hp : ∀ x ∈ parts1, x ∈ ps) (h : Only ps σ s) :
    Only ps σ (State.bypCtrl s v) := by
  unfold State.bypCtrl
  with_reducible repeat' (first
    | assumption | apply State.put_only (hp := hp) | apply State.putB_only (hp := hp)
    | apply State.insSet_only (hp := hp) | apply State.insClear_only (hp := hp) | split | intro _
    | dsimp only)

theorem State.writeLink_only {σ : State} {ps : List Part} (s : State) (b : Block) (inst : Nat) (off : Nat) (v : Nat) (flds : List Fld) (hp : ∀ x ∈ parts188, x ∈ ps) (h : Only ps σ s) :
    Only ps σ (State.writeLink s b inst off v flds) := by
  unfold State.writeLink
  with_reducible repeat' (first
    | assumption | apply State.svcSend_only (hp := (fun x m => hp x (parts59_188 x m)))
    | apply State.svcPop_only (hp := (fun x m => hp x (parts59_188 x m)))
    | apply State.plainWrite_only (hp := (fun x m => hp x (parts1_188 x m)))
    | apply State.put_only (hp := (fun x m => hp x (parts1_188 x m)))
    | apply State.wrapEnWrite_only (hp := (fun x m => hp x (parts52_188 x m)))
    | apply State.bypCtrl_only (hp := (fun x m => hp x (parts1_188 x m)))
    | apply State.fieldWrite_only (hp := (fun x m => hp x (parts11_188 x m)))
    | apply State.laneWrite_only (hp := (fun x m => hp x (parts54_188 x m))) | split)

theorem State.audioWrite_only {σ : State} {ps : List Part} (s : State) (p : Nat) (off : Nat) (v : Nat) (flds : List Fld) (hp : ∀ x ∈ parts189, x ∈ ps) (h : Only ps σ s) :
    Only ps σ (State.audioWrite s p off v flds) := by
  unfold State.audioWrite
  with_reducible repeat' (first
    | assumption | apply State.onlyIf_only (hp := (fun x m => hp x (parts1_189 x m)))
    | apply State.portArm_only (hp := (fun x m => hp x (parts1_189 x m)))
    | apply State.plainWrite_only (hp := (fun x m => hp x (parts1_189 x m)))
    | apply State.maskWrite_only (hp := (fun x m => hp x (parts74_189 x m)))
    | apply State.portStartWrite_only (hp := (fun x m => hp x (parts75_189 x m)))
    | apply State.fieldWrite_only (hp := (fun x m => hp x (parts11_189 x m))) | split | intro _)

theorem State.ampCtrl_only {σ : State} {ps : List Part} (s : State) (n : Nat) (v : Nat) (hp : ∀ x ∈ parts190, x ∈ ps) (h : Only ps σ s) :
    Only ps σ (State.ampCtrl s n v) := by
  unfold State.ampCtrl
  with_reducible repeat' (first
    | assumption | apply State.muteSet_only (hp := (fun x m => hp x (parts93_190 x m)))
    | apply State.shadowWrite_only (hp := (fun x m => hp x (parts11_190 x m)))
    | apply State.pilotEn_only (hp := (fun x m => hp x (parts93_190 x m)))
    | apply State.latchClr_only (hp := (fun x m => hp x (parts91_190 x m)))
    | apply State.probeReq_only (hp := (fun x m => hp x (parts91_190 x m))) | split)

theorem State.ampWrite_only {σ : State} {ps : List Part} (s : State) (n : Nat) (off : Nat) (v : Nat) (flds : List Fld) (hp : ∀ x ∈ parts190, x ∈ ps) (h : Only ps σ s) :
    Only ps σ (State.ampWrite s n off v flds) := by
  unfold State.ampWrite
  with_reducible repeat' (first
    | assumption | apply State.ampCtrl_only (hp := hp)
    | apply State.log_only (hp := (fun x m => hp x (parts1_190 x m)))
    | apply State.onlyIf_only (hp := (fun x m => hp x (parts1_190 x m)))
    | apply State.plainWrite_only (hp := (fun x m => hp x (parts1_190 x m)))
    | apply State.windowSpoil_only (hp := (fun x m => hp x (parts86_190 x m)))
    | apply State.fieldWrite_only (hp := (fun x m => hp x (parts11_190 x m))) | split | intro _
    | dsimp only)

theorem State.boostWrite_only {σ : State} {ps : List Part} (s : State) (k : Nat) (off : Nat) (v : Nat) (flds : List Fld) (hp : ∀ x ∈ parts89, x ∈ ps) (h : Only ps σ s) :
    Only ps σ (State.boostWrite s k off v flds) := by
  unfold State.boostWrite
  with_reducible repeat' (first
    | assumption | apply State.railCfg_only (hp := hp)
    | apply State.plainWrite_only (hp := (fun x m => hp x (parts1_89 x m)))
    | apply State.boostEnter_only (hp := (fun x m => hp x (parts1_89 x m))) | split | intro _ | dsimp only)

theorem State.writeAudio_only {σ : State} {ps : List Part} (s : State) (b : Block) (inst : Nat) (off : Nat) (v : Nat) (flds : List Fld) (hp : ∀ x ∈ parts191, x ∈ ps) (h : Only ps σ s) :
    Only ps σ (State.writeAudio s b inst off v flds) := by
  unfold State.writeAudio
  with_reducible repeat' (first
    | assumption | apply State.audioWrite_only (hp := (fun x m => hp x (parts189_191 x m)))
    | apply State.onlyIf_only (hp := (fun x m => hp x (parts1_191 x m)))
    | apply State.plainWrite_only (hp := (fun x m => hp x (parts1_191 x m)))
    | apply State.calCtrl_only (hp := (fun x m => hp x (parts94_191 x m)))
    | apply State.ampWrite_only (hp := (fun x m => hp x (parts190_191 x m)))
    | apply State.boostWrite_only (hp := (fun x m => hp x (parts89_191 x m))) | split | intro _)

theorem State.regEffect_only {σ : State} {ps : List Part} (s : State) (by_ : Master) (p : Nat) (off : Nat) (v : Nat) (flds : List Fld) (hp : ∀ x ∈ parts165, x ∈ ps) (h : Only ps σ s) :
    Only ps σ (State.regEffect s by_ p off v flds) := by
  unfold State.regEffect
  with_reducible repeat' (first
    | assumption | apply State.log_only (hp := (fun x m => hp x (parts1_165 x m)))
    | apply State.writeClock_only (hp := (fun x m => hp x (parts44_165 x m)))
    | apply State.writeDevice_only (hp := hp)
    | apply State.writeBus_only (hp := (fun x m => hp x (parts19_165 x m)))
    | apply State.ibexWrite_only (hp := (fun x m => hp x (parts187_165 x m)))
    | apply State.writeLink_only (hp := (fun x m => hp x (parts188_165 x m)))
    | apply State.writeAudio_only (hp := (fun x m => hp x (parts191_165 x m)))
    | apply State.frameCfg_only (hp := (fun x m => hp x (parts117_165 x m)))
    | apply State.fieldWrite_only (hp := (fun x m => hp x (parts11_165 x m))) | split)

theorem State.pageEnable_only {σ : State} {ps : List Part} (s : State) (p : Nat) (en : Bool) (hp : ∀ x ∈ parts192, x ∈ ps) (h : Only ps σ s) :
    Only ps σ (State.pageEnable s p en) := by
  unfold State.pageEnable
  with_reducible repeat' (first
    | assumption | apply State.laneEnable_only (hp := (fun x m => hp x (parts54_192 x m)))
    | apply State.portEnable_only (hp := (fun x m => hp x (parts72_192 x m)))
    | apply State.putB_only (hp := (fun x m => hp x (parts1_192 x m)))
    | apply State.ampEnable_only (hp := (fun x m => hp x (parts91_192 x m)))
    | apply State.boostEnable_only (hp := (fun x m => hp x (parts89_192 x m))) | split)

theorem State.groupWrite_only {σ : State} {ps : List Part} (s : State) (p : Nat) (g : Nat) (hp : ∀ x ∈ parts1, x ∈ ps) (h : Only ps σ s) :
    Only ps σ (State.groupWrite s p g) := by
  unfold State.groupWrite
  with_reducible repeat' (first
    | assumption | apply State.log_only (hp := hp) | apply State.put_only (hp := hp) | split)

theorem State.pageCtrl_only {σ : State} {ps : List Part} (s : State) (p : Nat) (v : Nat) (hp : ∀ x ∈ parts182, x ∈ ps) (h : Only ps σ s) :
    Only ps σ (State.pageCtrl s p v) := by
  unfold State.pageCtrl
  with_reducible repeat' (first
    | assumption | apply State.putB_only (hp := (fun x m => hp x (parts1_182 x m)))
    | apply State.groupWrite_only (hp := (fun x m => hp x (parts1_182 x m)))
    | apply State.pageEnable_only (hp := (fun x m => hp x (parts192_182 x m)))
    | apply State.softReq_only (hp := hp)
    | apply State.syncReq_only (hp := (fun x m => hp x (parts1_182 x m))) | split | intro _ | dsimp only)

theorem State.irqForce_only {σ : State} {ps : List Part} (s : State) (p : Nat) (v : Nat) (hp : ∀ x ∈ parts1, x ∈ ps) (h : Only ps σ s) :
    Only ps σ (State.irqForce s p v) := by
  unfold State.irqForce
  with_reducible repeat' (first | assumption | apply State.put_only (hp := hp))

theorem State.headerWrite_only {σ : State} {ps : List Part} (s : State) (p : Nat) (off : Nat) (v : Nat) (hp : ∀ x ∈ parts1, x ∈ ps) (h : Only ps σ s) :
    Only ps σ (State.headerWrite s p off v) := by
  unfold State.headerWrite
  with_reducible repeat' (first
    | assumption | apply State.pbaSettle_only (hp := hp) | apply State.plainWrite_only (hp := hp)
    | apply State.put_only (hp := hp) | apply State.irqForce_only (hp := hp)
    | apply State.putB_only (hp := hp) | split)

theorem State.headerGate_only {σ : State} {ps : List Part} (s : State) (p : Nat) (f : State → State) (hp : ∀ x ∈ parts1, x ∈ ps) (hf : ∀ x, Only ps σ x → Only ps σ (f x)) (h : Only ps σ s) :
    Only ps σ (State.headerGate s p f) := by
  unfold State.headerGate
  with_reducible repeat' (first | assumption | apply hf | apply State.log_only (hp := hp) | split)

theorem execIrqForce_only {σ : State} {ps : List Part} (page : Nat) (bits : Word) (s : State) {t : State} (hp : ∀ x ∈ parts1, x ∈ ps) (h : Only ps σ s)
    (e : (execIrqForce page bits s) = .next t) : Only ps σ t := by
  unfold execIrqForce at e
  refine Only.next ?_ e
  with_reducible repeat' (first
    | assumption | apply State.headerGate_only (hp := hp) | apply State.irqForce_only (hp := hp) | split
    | intro _)

theorem execPageLock_only {σ : State} {ps : List Part} (page : Nat) (s : State) {t : State} (hp : ∀ x ∈ parts1, x ∈ ps) (h : Only ps σ s)
    (e : (execPageLock page s) = .next t) : Only ps σ t := by
  unfold execPageLock at e
  refine Only.next ?_ e
  with_reducible repeat' (first
    | assumption | apply State.headerGate_only (hp := hp) | apply State.headerWrite_only (hp := hp) | split
    | intro _)

theorem State.rcClear_only {σ : State} {ps : List Part} (s : State) (p : Nat) (flds : List Fld) (hp : ∀ x ∈ parts1, x ∈ ps) (h : Only ps σ s) :
    Only ps σ (State.rcClear s p flds) := by
  unfold State.rcClear
  with_reducible repeat' (first
    | assumption | apply State.put_only (hp := hp) | (refine Only.foldl ?_ (fun _ _ _ => ?_)))

theorem State.dbgView_only {σ : State} {ps : List Part} (s : State) (n : Nat) (k : Nat) (hp : ∀ x ∈ parts6, x ∈ ps) (h : Only ps σ s) :
    Only ps σ (State.dbgView s n k).2 := by
  unfold State.dbgView
  with_reducible repeat' (first | assumption | apply State.draw_only (hp := hp) | split)

theorem State.regRead_only {σ : State} {ps : List Part} (s : State) (p : Nat) (off : Nat) (flds : List Fld) (hp : ∀ x ∈ parts193, x ∈ ps) (h : Only ps σ s) :
    Only ps σ (State.regRead s p off flds).2 := by
  unfold State.regRead
  with_reducible repeat' (first
    | assumption | apply State.ntNowLatch_only (hp := (fun x m => hp x (parts1_193 x m)))
    | apply State.rcClear_only (hp := (fun x m => hp x (parts1_193 x m)))
    | apply State.clipDataRead_only (hp := (fun x m => hp x (parts118_193 x m)))
    | apply State.streamStatRead_only (hp := (fun x m => hp x (parts64_193 x m)))
    | apply State.chkLatch_only (hp := (fun x m => hp x (parts1_193 x m)))
    | apply State.dbgView_only (hp := (fun x m => hp x (parts6_193 x m))) | split)

theorem State.unmapped_only {σ : State} {ps : List Part} (s : State) (hp : ∀ x ∈ parts1, x ∈ ps) (h : Only ps σ s) :
    Only ps σ (State.unmapped s) := by
  unfold State.unmapped
  with_reducible repeat' (first | assumption | apply State.bump_only (hp := hp))

theorem State.busReg32_only {σ : State} {ps : List Part} (s : State) (by_ : Master) (p : Nat) (off : Nat) (v : Nat) (hp : ∀ x ∈ parts165, x ∈ ps) (h : Only ps σ s) :
    Only ps σ (State.busReg32 s by_ p off v) := by
  unfold State.busReg32
  with_reducible repeat' (first
    | assumption | apply State.unmapped_only (hp := (fun x m => hp x (parts1_165 x m)))
    | apply State.log_only (hp := (fun x m => hp x (parts1_165 x m)))
    | apply State.pageCtrl_only (hp := (fun x m => hp x (parts182_165 x m)))
    | apply State.headerWrite_only (hp := (fun x m => hp x (parts1_165 x m)))
    | apply State.regEffect_only (hp := hp) | split)

theorem State.overridden_only {σ : State} {ps : List Part} (s : State) (p : Nat) (hp : ∀ x ∈ parts15, x ∈ ps) (h : Only ps σ s) :
    Only ps σ (State.overridden s p) := by
  unfold State.overridden
  with_reducible repeat' (first
    | assumption | apply State.loseDomain_only (hp := (fun x m => hp x (parts7_15 x m)))
    | apply State.putB_only (hp := (fun x m => hp x (parts1_15 x m))))

theorem State.overrideEffect_only {σ : State} {ps : List Part} (s : State) (p : Nat) (off : Nat) (v : Nat) (flds : List Fld) (hp : ∀ x ∈ parts165, x ∈ ps) (h : Only ps σ s) :
    Only ps σ (State.overrideEffect s p off v flds) := by
  unfold State.overrideEffect
  with_reducible repeat' (first
    | assumption | apply State.pageCtrl_only (hp := (fun x m => hp x (parts182_165 x m)))
    | apply State.headerWrite_only (hp := (fun x m => hp x (parts1_165 x m)))
    | apply State.put_only (hp := (fun x m => hp x (parts1_165 x m)))
    | apply State.plainWrite_only (hp := (fun x m => hp x (parts1_165 x m)))
    | apply State.regEffect_only (hp := hp) | (refine Only.foldl ?_ (fun _ _ _ => ?_))
    | (refine Only.foldl_snd ?_ (fun _ _ _ => ?_)) | (refine Only.foldl_fst ?_ (fun _ _ _ => ?_)) | split)

theorem State.jtagEffect_only {σ : State} {ps : List Part} (s : State) (p : Nat) (off : Nat) (v : Nat) (flds : List Fld) (hp : ∀ x ∈ parts165, x ∈ ps) (h : Only ps σ s) :
    Only ps σ (State.jtagEffect s p off v flds) := by
  unfold State.jtagEffect
  with_reducible repeat' (first
    | assumption | apply State.regEffect_only (hp := hp)
    | apply State.putB_only (hp := (fun x m => hp x (parts1_165 x m)))
    | apply State.log_only (hp := (fun x m => hp x (parts1_165 x m)))
    | apply State.fieldWrite_only (hp := (fun x m => hp x (parts11_165 x m))) | split)

theorem State.jtagReg32_only {σ : State} {ps : List Part} (s : State) (p : Nat) (off : Nat) (v : Nat) (hp : ∀ x ∈ parts165, x ∈ ps) (h : Only ps σ s) :
    Only ps σ (State.jtagReg32 s p off v) := by
  unfold State.jtagReg32
  with_reducible repeat' (first
    | assumption | apply State.unmapped_only (hp := (fun x m => hp x (parts1_165 x m)))
    | apply State.log_only (hp := (fun x m => hp x (parts1_165 x m)))
    | apply State.jtagEffect_only (hp := hp)
    | apply State.overridden_only (hp := (fun x m => hp x (parts15_165 x m)))
    | apply State.overrideEffect_only (hp := hp) | split)

theorem State.reg32_only {σ : State} {ps : List Part} (s : State) (by_ : Master) (p : Nat) (off : Nat) (v : Nat) (hp : ∀ x ∈ parts165, x ∈ ps) (h : Only ps σ s) :
    Only ps σ (State.reg32 s by_ p off v) := by
  unfold State.reg32
  with_reducible repeat' (first
    | assumption | apply State.jtagReg32_only (hp := hp) | apply State.busReg32_only (hp := hp) | split)

theorem State.regPageWrite_only {σ : State} {ps : List Part} (s : State) (by_ : Master) (p : Nat) (off : Nat) (n : Nat) (full : Bool) (v : Nat) (hp : ∀ x ∈ parts165, x ∈ ps) (h : Only ps σ s) :
    Only ps σ (State.regPageWrite s by_ p off n full v) := by
  unfold State.regPageWrite
  with_reducible repeat' (first
    | assumption | apply State.unmapped_only (hp := (fun x m => hp x (parts1_165 x m)))
    | apply State.log_only (hp := (fun x m => hp x (parts1_165 x m))) | apply State.reg32_only (hp := hp)
    | split)

theorem State.copyWrite_only {σ : State} {ps : List Part} (s : State) (by_ : Master) (p : Nat) (active : Bool) (held : Bool) (f : State → State) (hp : ∀ x ∈ parts194, x ∈ ps) (hf : ∀ x, Only ps σ x → Only ps σ (f x)) (h : Only ps σ s) :
    Only ps σ (State.copyWrite s by_ p active held f) := by
  unfold State.copyWrite
  with_reducible repeat' (first
    | assumption | apply hf | apply State.log_only (hp := (fun x m => hp x (parts1_194 x m)))
    | apply State.overridden_only (hp := (fun x m => hp x (parts15_194 x m)))
    | fail_if_no_progress apply Only.upd_dirtyTab (hp := (fun x m => hp x (parts185_194 x m))) | split
    | intro _ | dsimp only)

theorem State.tableWrite_only {σ : State} {ps : List Part} (s : State) (by_ : Master) (p : Nat) (set : Nat) (a : Nat) (n : Nat) (l : List (Nat × Byte)) (hp : ∀ x ∈ parts195, x ∈ ps) (h : Only ps σ s) :
    Only ps σ (State.tableWrite s by_ p set a n l) := by
  unfold State.tableWrite
  with_reducible repeat' (first
    | assumption | apply State.log_only (hp := (fun x m => hp x (parts1_195 x m)))
    | apply State.copyWrite_only (hp := (fun x m => hp x (parts194_195 x m)))
    | apply State.setBytes_only (hp := (fun x m => hp x (parts10_195 x m))) | split | intro _)

theorem State.progWrite_only {σ : State} {ps : List Part} (s : State) (by_ : Master) (n : Nat) (set : Nat) (a : Nat) (len : Nat) (l : List (Nat × Byte)) (hp : ∀ x ∈ parts196, x ∈ ps) (h : Only ps σ s) :
    Only ps σ (State.progWrite s by_ n set a len l) := by
  unfold State.progWrite
  with_reducible repeat' (first
    | assumption | apply State.log_only (hp := (fun x m => hp x (parts1_196 x m)))
    | apply State.copyWrite_only (hp := (fun x m => hp x (parts194_196 x m)))
    | apply State.localWrite_only (hp := (fun x m => hp x (parts24_196 x m))) | split | intro _
    | dsimp only)

theorem State.dataWrite_only {σ : State} {ps : List Part} (s : State) (by_ : Master) (c : Nat) (a : Nat) (n : Nat) (l : List (Nat × Byte)) (hp : ∀ x ∈ parts24, x ∈ ps) (h : Only ps σ s) :
    Only ps σ (State.dataWrite s by_ c a n l) := by
  unfold State.dataWrite
  with_reducible repeat' (first
    | assumption | apply State.log_only (hp := (fun x m => hp x (parts1_24 x m)))
    | apply State.overridden_only (hp := (fun x m => hp x (parts15_24 x m)))
    | apply State.localWrite_only (hp := hp) | split)

theorem State.busWrite1_only {σ : State} {ps : List Part} (s : State) (by_ : Master) (core : Option Nat) (a : Nat) (n : Nat) (l : List (Nat × Byte)) (hp : ∀ x ∈ parts165, x ∈ ps) (h : Only ps σ s) :
    Only ps σ (State.busWrite1 s by_ core a n l) := by
  unfold State.busWrite1
  with_reducible repeat' (first
    | assumption | apply State.regPageWrite_only (hp := hp)
    | apply State.tableWrite_only (hp := (fun x m => hp x (parts195_165 x m)))
    | apply State.log_only (hp := (fun x m => hp x (parts1_165 x m)))
    | apply State.overridden_only (hp := (fun x m => hp x (parts15_165 x m)))
    | apply State.storeWrite_only (hp := (fun x m => hp x (parts16_165 x m)))
    | apply State.progWrite_only (hp := (fun x m => hp x (parts196_165 x m)))
    | apply State.dataWrite_only (hp := (fun x m => hp x (parts24_165 x m)))
    | apply State.planeBusWrite_only (hp := (fun x m => hp x (parts120_165 x m)))
    | apply State.respond_only (hp := (fun x m => hp x (parts0_165 x m)))
    | apply State.unmapped_only (hp := (fun x m => hp x (parts1_165 x m))) | split | intro _ | dsimp only)

theorem State.regPageRead_only {σ : State} {ps : List Part} (s : State) (p : Nat) (off : Nat) (n : Nat) (full : Bool) (hp : ∀ x ∈ parts193, x ∈ ps) (h : Only ps σ s) :
    Only ps σ (State.regPageRead s p off n full).2 := by
  unfold State.regPageRead
  with_reducible repeat' (first
    | assumption | apply State.unmapped_only (hp := (fun x m => hp x (parts1_193 x m)))
    | apply State.log_only (hp := (fun x m => hp x (parts1_193 x m)))
    | apply State.drawBytes_only (hp := (fun x m => hp x (parts6_193 x m)))
    | apply State.regRead_only (hp := hp) | (refine Only.foldl ?_ (fun _ _ _ => ?_))
    | (refine Only.foldl_snd ?_ (fun _ _ _ => ?_)) | (refine Only.foldl_fst ?_ (fun _ _ _ => ?_)) | split
    | intro _ | dsimp only)

theorem State.openBytes_only {σ : State} {ps : List Part} (s : State) (pl : Place) (a : Nat) (n : Nat) (hp : ∀ x ∈ parts6, x ∈ ps) (h : Only ps σ s) :
    Only ps σ (State.openBytes s pl a n).2 := by
  unfold State.openBytes
  with_reducible repeat' (first | assumption | apply State.drawBytes_only (hp := hp))

theorem State.windowRead_only {σ : State} {ps : List Part} (s : State) (pl : Place) (a : Nat) (n : Nat) (hp : ∀ x ∈ parts23, x ∈ ps) (h : Only ps σ s) :
    Only ps σ (State.windowRead s pl a n).2 := by
  unfold State.windowRead
  with_reducible repeat' (first
    | assumption | apply State.storeRead_only (hp := (fun x m => hp x (parts15_23 x m)))
    | apply State.respond_only (hp := (fun x m => hp x (parts0_23 x m)))
    | apply State.localRead_only (hp := hp) | split)

theorem State.aerTimeout_only {σ : State} {ps : List Part} (s : State) (hp : ∀ x ∈ parts140, x ∈ ps) (h : Only ps σ s) :
    Only ps σ (State.aerTimeout s) := by
  unfold State.aerTimeout
  with_reducible repeat' (first | assumption | fail_if_no_progress apply Only.upd_pins (hp := hp))

theorem State.busRead1_only {σ : State} {ps : List Part} (s : State) (by_ : Master) (a : Nat) (n : Nat) (full : Bool) (hp : ∀ x ∈ parts197, x ∈ ps) (h : Only ps σ s) :
    Only ps σ (State.busRead1 s by_ a n full).2 := by
  unfold State.busRead1
  with_reducible repeat' (first
    | assumption | apply State.regPageRead_only (hp := (fun x m => hp x (parts193_197 x m)))
    | apply State.unmapped_only (hp := (fun x m => hp x (parts1_197 x m)))
    | apply State.respond_only (hp := (fun x m => hp x (parts0_197 x m)))
    | apply State.draw_only (hp := (fun x m => hp x (parts6_197 x m)))
    | apply State.drawBytes_only (hp := (fun x m => hp x (parts6_197 x m)))
    | apply State.aerTimeout_only (hp := (fun x m => hp x (parts140_197 x m)))
    | apply State.log_only (hp := (fun x m => hp x (parts1_197 x m)))
    | apply State.openBytes_only (hp := (fun x m => hp x (parts6_197 x m)))
    | apply State.windowRead_only (hp := (fun x m => hp x (parts23_197 x m))) | split | intro _
    | dsimp only)

theorem State.busWrite_only {σ : State} {ps : List Part} (s : State) (by_ : Master) (core : Option Nat) (wide : Bool) (a : Nat) (n : Nat) (l : List (Nat × Byte)) (hp : ∀ x ∈ parts165, x ∈ ps) (h : Only ps σ s) :
    Only ps σ (State.busWrite s by_ core wide a n l) := by
  unfold State.busWrite
  with_reducible repeat' (first
    | assumption | apply State.busWrite1_only (hp := hp) | (refine Only.foldl ?_ (fun _ _ _ => ?_))
    | (refine Only.foldl_snd ?_ (fun _ _ _ => ?_)) | (refine Only.foldl_fst ?_ (fun _ _ _ => ?_)) | split
    | intro _ | dsimp only)

theorem State.busRead_only {σ : State} {ps : List Part} (s : State) (by_ : Master) (wide : Bool) (a : Nat) (n : Nat) (on : Nat → Bool) (hp : ∀ x ∈ parts197, x ∈ ps) (h : Only ps σ s) :
    Only ps σ (State.busRead s by_ wide a n on).2 := by
  unfold State.busRead
  with_reducible repeat' (first
    | assumption | apply State.busRead1_only (hp := hp) | (refine Only.foldl ?_ (fun _ _ _ => ?_))
    | (refine Only.foldl_snd ?_ (fun _ _ _ => ?_)))

theorem State.accessWrite_only {σ : State} {ps : List Part} (s : State) (acc : Access) (hp : ∀ x ∈ parts165, x ∈ ps) (h : Only ps σ s) :
    Only ps σ (State.accessWrite s acc) := by
  unfold State.accessWrite
  with_reducible repeat' (first
    | assumption | apply State.busWrite1_only (hp := hp)
    | fail_if_no_progress apply Only.upd_respErr (hp := (fun x m => hp x (parts0_165 x m))))

theorem execRegisterWrite_only {σ : State} {ps : List Part} (acc : Access) (s : State) {t : State} (hp : ∀ x ∈ parts165, x ∈ ps) (h : Only ps σ s)
    (e : (execRegisterWrite acc s) = .next t) : Only ps σ t := by
  unfold execRegisterWrite at e
  refine Only.next ?_ e
  with_reducible repeat' (first | assumption | apply State.accessWrite_only (hp := hp) | split)

theorem execTableWrite_only {σ : State} {ps : List Part} (acc : Access) (s : State) {t : State} (hp : ∀ x ∈ parts165, x ∈ ps) (h : Only ps σ s)
    (e : (execTableWrite acc s) = .next t) : Only ps σ t := by
  unfold execTableWrite at e
  refine Only.next ?_ e
  with_reducible repeat' (first | assumption | apply State.accessWrite_only (hp := hp) | split)

theorem State.hostReset_only {σ : State} {ps : List Part} (s : State) (hot : Bool) (hp : ∀ x ∈ parts198, x ∈ ps) (h : Only ps σ s) :
    Only ps σ (State.hostReset s hot) := by
  unfold State.hostReset
  with_reducible repeat' (first
    | assumption | apply State.resetRegs_only (hp := (fun x m => hp x (parts169_198 x m)))
    | apply State.raise_only (hp := (fun x m => hp x (parts1_198 x m)))
    | fail_if_no_progress apply Only.upd_pins (hp := (fun x m => hp x (parts140_198 x m))) | split | intro _
    | dsimp only)

theorem execPcieReset_only {σ : State} {ps : List Part} (kind : PcieReset) (s : State) {t : State} (hp : ∀ x ∈ parts199, x ∈ ps) (h : Only ps σ s)
    (e : (execPcieReset kind s) = .next t) : Only ps σ t := by
  unfold execPcieReset at e
  refine Only.next ?_ e
  with_reducible repeat' (first
    | assumption | apply State.hostReset_only (hp := (fun x m => hp x (parts198_199 x m)))
    | apply State.retriesEnd_only (hp := (fun x m => hp x (parts127_199 x m)))
    | apply State.masterReset_only (hp := (fun x m => hp x (parts129_199 x m)))
    | fail_if_no_progress apply Only.upd_respErr (hp := (fun x m => hp x (parts0_199 x m))) | split)

theorem execDstateChange_only {σ : State} {ps : List Part} (d3 : Bool) (s : State) {t : State} (hp : ∀ x ∈ parts168, x ∈ ps) (h : Only ps σ s)
    (e : (execDstateChange d3 s) = .next t) : Only ps σ t := by
  unfold execDstateChange at e
  refine Only.next ?_ e
  with_reducible repeat' (first
    | assumption | apply State.raise_only (hp := (fun x m => hp x (parts1_168 x m)))
    | apply State.put_only (hp := (fun x m => hp x (parts1_168 x m)))
    | apply State.sendWaiting_only (hp := hp) | split)

theorem execPcieLinkUp_only {σ : State} {ps : List Part} (speed : Nat) (x2 : Bool) (cfg : PcieCfg) (s : State) {t : State} (hp : ∀ x ∈ parts168, x ∈ ps) (h : Only ps σ s)
    (e : (execPcieLinkUp speed x2 cfg s) = .next t) : Only ps σ t := by
  unfold execPcieLinkUp at e
  refine Only.next ?_ e
  with_reducible repeat' (first
    | assumption | apply State.put_only (hp := (fun x m => hp x (parts1_168 x m)))
    | apply State.putB_only (hp := (fun x m => hp x (parts1_168 x m)))
    | apply State.sendWaiting_only (hp := hp)
    | fail_if_no_progress apply Only.upd_pins (hp := (fun x m => hp x (parts140_168 x m))) | split)

theorem State.noErrors_only {σ : State} {ps : List Part} (s : State) (hp : ∀ x ∈ parts1, x ∈ ps) (h : Only ps σ s) :
    Only ps σ (State.noErrors s) := by
  unfold State.noErrors
  with_reducible repeat' (first
    | assumption | apply State.put_only (hp := hp) | (refine Only.foldl ?_ (fun _ _ _ => ?_)))

theorem State.qspiSet_only {σ : State} {ps : List Part} (s : State) (done : Bool) (err : Bool) (aborted : Bool) (hp : ∀ x ∈ parts140, x ∈ ps) (h : Only ps σ s) :
    Only ps σ (State.qspiSet s done err aborted) := by
  unfold State.qspiSet
  with_reducible repeat' (first | assumption | fail_if_no_progress apply Only.upd_pins (hp := hp))

theorem State.qspiWrites_only {σ : State} {ps : List Part} (s : State) (addr : Nat) (words : List Word) (hp : ∀ x ∈ parts165, x ∈ ps) (h : Only ps σ s) :
    Only ps σ (State.qspiWrites s addr words) := by
  unfold State.qspiWrites
  with_reducible repeat' (first
    | assumption | apply State.busWrite1_only (hp := hp) | (refine Only.foldl ?_ (fun _ _ _ => ?_)))

theorem execQspiWrite_only {σ : State} {ps : List Part} (addr : Word) (cnt : Byte) (words : List Word) (s : State) {t : State} (hp : ∀ x ∈ parts165, x ∈ ps) (h : Only ps σ s)
    (e : (execQspiWrite addr cnt words s) = .next t) : Only ps σ t := by
  unfold execQspiWrite at e
  refine Only.next ?_ e
  with_reducible repeat' (first
    | assumption | apply State.qspiSet_only (hp := (fun x m => hp x (parts140_165 x m)))
    | apply State.qspiWrites_only (hp := hp)
    | fail_if_no_progress apply Only.upd_respErr (hp := (fun x m => hp x (parts0_165 x m))) | split)

theorem State.qspiReads_only {σ : State} {ps : List Part} (s : State) (addr : Nat) (n : Nat) (hp : ∀ x ∈ parts197, x ∈ ps) (h : Only ps σ s) :
    Only ps σ (State.qspiReads s addr n).2 := by
  unfold State.qspiReads
  with_reducible repeat' (first
    | assumption | apply State.busRead1_only (hp := hp) | (refine Only.foldl ?_ (fun _ _ _ => ?_))
    | (refine Only.foldl_snd ?_ (fun _ _ _ => ?_)))

theorem execQspiRead_only {σ : State} {ps : List Part} (addr : Word) (cnt : Byte) (frame : QspiFrame) (s : State) {t : State} (hp : ∀ x ∈ parts197, x ∈ ps) (h : Only ps σ s)
    (e : (execQspiRead addr cnt frame s) = .next t) : Only ps σ t := by
  unfold execQspiRead at e
  refine Only.next ?_ e
  with_reducible repeat' (first
    | assumption | apply State.qspiSet_only (hp := (fun x m => hp x (parts140_197 x m)))
    | apply State.qspiReads_only (hp := hp)
    | fail_if_no_progress apply Only.upd_readData_respErr (hp := (fun x m => hp x (parts200_197 x m)))
    | split)

theorem execQspiStatus_only {σ : State} {ps : List Part} (s : State) {t : State} (hp : ∀ x ∈ parts9, x ∈ ps) (h : Only ps σ s)
    (e : (execQspiStatus s) = .next t) : Only ps σ t := by
  unfold execQspiStatus at e
  refine Only.next ?_ e
  with_reducible repeat' (first | assumption | fail_if_no_progress apply Only.upd_readData (hp := hp) | split)

theorem State.retryFail_only {σ : State} {ps : List Part} (s : State) (hp : ∀ x ∈ parts201, x ∈ ps) (h : Only ps σ s) :
    Only ps σ (State.retryFail s) := by
  unfold State.retryFail
  with_reducible repeat' (first
    | assumption | apply State.respond_only (hp := (fun x m => hp x (parts0_201 x m)))
    | apply State.raise_only (hp := (fun x m => hp x (parts1_201 x m)))
    | apply State.bump_only (hp := (fun x m => hp x (parts1_201 x m))))

theorem State.timerStart_only {σ : State} {ps : List Part} (s : State) (m : Master) (hp : ∀ x ∈ parts126, x ∈ ps) (h : Only ps σ s) :
    Only ps σ (State.timerStart s m) := by
  unfold State.timerStart
  with_reducible repeat' (first
    | assumption | fail_if_no_progress apply Only.upd_dmas (hp := hp) | split | intro _ | dsimp only)

theorem State.timerStop_only {σ : State} {ps : List Part} (s : State) (m : Master) (hp : ∀ x ∈ parts126, x ∈ ps) (h : Only ps σ s) :
    Only ps σ (State.timerStop s m) := by
  unfold State.timerStop
  with_reducible repeat' (first | assumption | fail_if_no_progress apply Only.upd_dmas (hp := hp) | split)

theorem State.retryQueue_only {σ : State} {ps : List Part} (s : State) (r : Retry) (hp : ∀ x ∈ parts127, x ∈ ps) (h : Only ps σ s) :
    Only ps σ (State.retryQueue s r) := by
  unfold State.retryQueue
  with_reducible repeat' (first
    | assumption | apply State.retryFail_only (hp := (fun x m => hp x (parts201_127 x m)))
    | apply State.timerStart_only (hp := (fun x m => hp x (parts126_127 x m)))
    | apply State.outstView_only (hp := (fun x m => hp x (parts1_127 x m)))
    | fail_if_no_progress apply Only.upd_retries (hp := (fun x m => hp x (parts128_127 x m))) | split)

theorem State.busServe_only {σ : State} {ps : List Part} (s : State) (by_ : Master) (write : Bool) (addr : Nat) (bytes : List Byte) (strobes : List Bool) (core : Option Nat) (hp : ∀ x ∈ parts165, x ∈ ps) (h : Only ps σ s) :
    Only ps σ (State.busServe s by_ write addr bytes strobes core) := by
  unfold State.busServe
  with_reducible repeat' (first
    | assumption | apply State.busWrite_only (hp := hp)
    | apply State.busRead_only (hp := (fun x m => hp x (parts197_165 x m)))
    | fail_if_no_progress apply Only.upd_readData (hp := (fun x m => hp x (parts9_165 x m))) | split)

theorem State.busIssue_only {σ : State} {ps : List Part} (s : State) (r : Retry) (inL0 : Bool) (hp : ∀ x ∈ parts165, x ∈ ps) (h : Only ps σ s) :
    Only ps σ (State.busIssue s r inL0) := by
  unfold State.busIssue
  with_reducible repeat' (first
    | assumption | apply State.retryQueue_only (hp := (fun x m => hp x (parts127_165 x m)))
    | apply State.busServe_only (hp := hp) | split)

theorem execBusTransaction_only {σ : State} {ps : List Part} (by_ : Master) (write : Bool) (addr : Nat) (bytes : List Byte) (strobes : List Bool) (qos : BitVec 4) (core : Nat) (inL0 : Bool) (s : State) {t : State} (hp : ∀ x ∈ parts165, x ∈ ps) (h : Only ps σ s)
    (e : (execBusTransaction by_ write addr bytes strobes qos core inL0 s) = .next t) : Only ps σ t := by
  unfold execBusTransaction at e
  refine Only.next ?_ e
  with_reducible repeat' (first
    | assumption | apply State.busIssue_only (hp := hp)
    | fail_if_no_progress apply Only.upd_retries_readData_respErr (hp := (fun x m => hp x (parts202_165 x m)))
    | split | intro _ | dsimp only)

theorem State.busReissue_only {σ : State} {ps : List Part} (s : State) (r : Retry) (inL0 : Bool) (hp : ∀ x ∈ parts165, x ∈ ps) (h : Only ps σ s) :
    Only ps σ (State.busReissue s r inL0) := by
  unfold State.busReissue
  with_reducible repeat' (first
    | assumption | apply State.outstView_only (hp := (fun x m => hp x (parts1_165 x m)))
    | apply State.timerStop_only (hp := (fun x m => hp x (parts126_165 x m)))
    | apply State.respond_only (hp := (fun x m => hp x (parts0_165 x m)))
    | apply State.busServe_only (hp := hp)
    | apply State.retryFail_only (hp := (fun x m => hp x (parts201_165 x m)))
    | fail_if_no_progress apply Only.upd_retries (hp := (fun x m => hp x (parts128_165 x m))) | split)

theorem execBusRetry_only {σ : State} {ps : List Part} (by_ : Master) (inL0 : Bool) (s : State) {t : State} (hp : ∀ x ∈ parts165, x ∈ ps) (h : Only ps σ s)
    (e : (execBusRetry by_ inL0 s) = .next t) : Only ps σ t := by
  unfold execBusRetry at e
  refine Only.next ?_ e
  with_reducible repeat' (first
    | assumption | apply State.busIssue_only (hp := hp) | apply State.busReissue_only (hp := hp)
    | fail_if_no_progress apply Only.upd_retries_readData_respErr (hp := (fun x m => hp x (parts202_165 x m)))
    | split)

theorem State.setDma_only {σ : State} {ps : List Part} (s : State) (e : Nat) (d : Dma) (hp : ∀ x ∈ parts126, x ∈ ps) (h : Only ps σ s) :
    Only ps σ (State.setDma s e d) := by
  unfold State.setDma
  with_reducible repeat' (first | assumption | fail_if_no_progress apply Only.upd_dmas (hp := hp))

theorem execDmaDescriptorStart_only {σ : State} {ps : List Part} (e : Nat) (s : State) {t : State} (hp : ∀ x ∈ parts203, x ∈ ps) (h : Only ps σ s)
    (e : (execDmaDescriptorStart e s) = .next t) : Only ps σ t := by
  unfold execDmaDescriptorStart at e
  refine Only.next ?_ e
  with_reducible repeat' (first
    | assumption | apply State.busRead_only (hp := (fun x m => hp x (parts197_203 x m)))
    | apply State.setDma_only (hp := (fun x m => hp x (parts126_203 x m)))
    | apply State.putB_only (hp := (fun x m => hp x (parts1_203 x m)))
    | fail_if_no_progress apply Only.upd_respErr (hp := (fun x m => hp x (parts0_203 x m))) | split)

theorem State.dmaRead_only {σ : State} {ps : List Part} (s : State) (e : Nat) (a : Nat) (n : Nat) (hp : ∀ x ∈ parts197, x ∈ ps) (h : Only ps σ s) :
    Only ps σ (State.dmaRead s e a n).2 := by
  unfold State.dmaRead
  with_reducible repeat' (first
    | assumption | apply State.busRead1_only (hp := hp) | (refine Only.foldl ?_ (fun _ _ _ => ?_))
    | (refine Only.foldl_snd ?_ (fun _ _ _ => ?_)) | (refine Only.foldl_fst ?_ (fun _ _ _ => ?_)) | split
    | intro _ | dsimp only)

theorem State.dmaWriteRow_only {σ : State} {ps : List Part} (s : State) (e : Nat) (a : Nat) (l : List Byte) (hp : ∀ x ∈ parts165, x ∈ ps) (h : Only ps σ s) :
    Only ps σ (State.dmaWriteRow s e a l) := by
  unfold State.dmaWriteRow
  with_reducible repeat' (first
    | assumption | apply State.busWrite1_only (hp := hp) | (refine Only.foldl ?_ (fun _ _ _ => ?_))
    | (refine Only.foldl_snd ?_ (fun _ _ _ => ?_)) | (refine Only.foldl_fst ?_ (fun _ _ _ => ?_)) | split)

theorem State.dmaRow_only {σ : State} {ps : List Part} (s : State) (e : Nat) (d : Nat) (r : Nat) (n : Nat) (hp : ∀ x ∈ parts165, x ∈ ps) (h : Only ps σ s) :
    Only ps σ (State.dmaRow s e d r n) := by
  unfold State.dmaRow
  with_reducible repeat' (first
    | assumption | apply State.dmaRead_only (hp := (fun x m => hp x (parts197_165 x m)))
    | apply State.dmaWriteRow_only (hp := hp)
    | apply State.respond_only (hp := (fun x m => hp x (parts0_165 x m)))
    | fail_if_no_progress apply Only.upd_respErr (hp := (fun x m => hp x (parts0_165 x m))) | split)

theorem State.dmaMove_only {σ : State} {ps : List Part} (s : State) (e : Nat) (d : Nat) (limit : Nat) (hp : ∀ x ∈ parts165, x ∈ ps) (h : Only ps σ s) :
    Only ps σ (State.dmaMove s e d limit) := by
  unfold State.dmaMove
  with_reducible repeat' (first
    | assumption | apply State.dmaRow_only (hp := hp) | (refine Only.foldl ?_ (fun _ _ _ => ?_))
    | (refine Only.foldl_snd ?_ (fun _ _ _ => ?_)) | (refine Only.foldl_fst ?_ (fun _ _ _ => ?_))
    | fail_if_no_progress apply Only.upd_respErr (hp := (fun x m => hp x (parts0_165 x m))))

theorem State.dmaHalt_only {σ : State} {ps : List Part} (s : State) (e : Nat) (hp : ∀ x ∈ parts1, x ∈ ps) (h : Only ps σ s) :
    Only ps σ (State.dmaHalt s e) := by
  unfold State.dmaHalt
  with_reducible repeat' (first
    | assumption | apply State.raise_only (hp := hp) | apply State.putB_only (hp := hp) | split | intro _
    | dsimp only)

theorem State.dmaSignal_only {σ : State} {ps : List Part} (s : State) (d : Nat) (hp : ∀ x ∈ parts18, x ∈ ps) (h : Only ps σ s) :
    Only ps σ (State.dmaSignal s d) := by
  unfold State.dmaSignal
  with_reducible repeat' (first
    | assumption | apply State.setCore_only (hp := hp) | split | intro _ | dsimp only)

theorem State.dmaEnd_only {σ : State} {ps : List Part} (s : State) (e : Nat) (code : Nat) (hp : ∀ x ∈ parts165, x ∈ ps) (h : Only ps σ s) :
    Only ps σ (State.dmaEnd s e code) := by
  unfold State.dmaEnd
  with_reducible repeat' (first
    | assumption | apply State.busWrite_only (hp := hp)
    | apply State.put_only (hp := (fun x m => hp x (parts1_165 x m)))
    | apply State.bump_only (hp := (fun x m => hp x (parts1_165 x m)))
    | apply State.setDma_only (hp := (fun x m => hp x (parts126_165 x m)))
    | apply State.putB_only (hp := (fun x m => hp x (parts1_165 x m)))
    | apply State.raise_only (hp := (fun x m => hp x (parts1_165 x m)))
    | apply State.dmaSignal_only (hp := (fun x m => hp x (parts18_165 x m)))
    | apply State.log_only (hp := (fun x m => hp x (parts1_165 x m)))
    | apply State.dmaHalt_only (hp := (fun x m => hp x (parts1_165 x m))) | split)

theorem execDmaDescriptorDone_only {σ : State} {ps : List Part} (e : Nat) (busErr : Bool) (moved : Nat) (s : State) {t : State} (hp : ∀ x ∈ parts165, x ∈ ps) (h : Only ps σ s)
    (e : (execDmaDescriptorDone e busErr moved s) = .next t) : Only ps σ t := by
  unfold execDmaDescriptorDone at e
  refine Only.next ?_ e
  with_reducible repeat' (first
    | assumption | apply State.dmaEnd_only (hp := hp) | apply State.dmaMove_only (hp := hp) | split)

theorem execDmaTimeout_only {σ : State} {ps : List Part} (e : Nat) (moved : Nat) (s : State) {t : State} (hp : ∀ x ∈ parts165, x ∈ ps) (h : Only ps σ s)
    (e : (execDmaTimeout e moved s) = .next t) : Only ps σ t := by
  unfold execDmaTimeout at e
  refine Only.next ?_ e
  with_reducible repeat' (first
    | assumption | apply State.dmaMove_only (hp := hp) | apply State.dmaEnd_only (hp := hp)
    | apply State.masterReset_only (hp := (fun x m => hp x (parts129_165 x m))) | split)

end Sys2Proof.Machine
end

