-- ==== Sys2Proof/Laws/State.lean ====
section
/-! SUPPORT. What each named update of the state changes and leaves: one lemma per field of State, and the
values that registers, bytes and replicated parts read as after it. -/

namespace Sys2Proof.Machine

variable (s : State)

/-! ### put -/

@[simp] theorem State.put_pending (p : Nat) (f : Fld) (v : Nat) : (s.put p f v).pending = s.pending := rfl
@[simp] theorem State.put_inReset (p : Nat) (f : Fld) (v : Nat) : (s.put p f v).inReset = s.inReset := rfl
theorem State.put_fld (p : Nat) (f : Fld) (v : Nat) : (s.put p f v).fld = Tab.put f.rst s.fld (fkey p f) (v % 2 ^ f.w) := rfl
@[simp] theorem State.put_shadow (p : Nat) (f : Fld) (v : Nat) : (s.put p f v).shadow = s.shadow := rfl
@[simp] theorem State.put_staged (p : Nat) (f : Fld) (v : Nat) : (s.put p f v).staged = s.staged := rfl
@[simp] theorem State.put_dirtyTab (p : Nat) (f : Fld) (v : Nat) : (s.put p f v).dirtyTab = s.dirtyTab := rfl
@[simp] theorem State.put_dirtyReg (p : Nat) (f : Fld) (v : Nat) : (s.put p f v).dirtyReg = s.dirtyReg := rfl
@[simp] theorem State.put_mem (p : Nat) (f : Fld) (v : Nat) : (s.put p f v).mem = s.mem := rfl
@[simp] theorem State.put_marks (p : Nat) (f : Fld) (v : Nat) : (s.put p f v).marks = s.marks := rfl
@[simp] theorem State.put_ecc (p : Nat) (f : Fld) (v : Nat) : (s.put p f v).ecc = s.ecc := rfl
@[simp] theorem State.put_dom (p : Nat) (f : Fld) (v : Nat) : (s.put p f v).dom = s.dom := rfl
@[simp] theorem State.put_undef (p : Nat) (f : Fld) (v : Nat) : (s.put p f v).undef = s.undef := rfl
@[simp] theorem State.put_time (p : Nat) (f : Fld) (v : Nat) : (s.put p f v).time = s.time := rfl
@[simp] theorem State.put_cores (p : Nat) (f : Fld) (v : Nat) : (s.put p f v).cores = s.cores := rfl
@[simp] theorem State.put_clus (p : Nat) (f : Fld) (v : Nat) : (s.put p f v).clus = s.clus := rfl
@[simp] theorem State.put_fseq (p : Nat) (f : Fld) (v : Nat) : (s.put p f v).fseq = s.fseq := rfl
@[simp] theorem State.put_oryx (p : Nat) (f : Fld) (v : Nat) : (s.put p f v).oryx = s.oryx := rfl
@[simp] theorem State.put_meters (p : Nat) (f : Fld) (v : Nat) : (s.put p f v).meters = s.meters := rfl
@[simp] theorem State.put_eqSecs (p : Nat) (f : Fld) (v : Nat) : (s.put p f v).eqSecs = s.eqSecs := rfl
@[simp] theorem State.put_delay (p : Nat) (f : Fld) (v : Nat) : (s.put p f v).delay = s.delay := rfl
@[simp] theorem State.put_ledger (p : Nat) (f : Fld) (v : Nat) : (s.put p f v).ledger = s.ledger := rfl
@[simp] theorem State.put_pwr (p : Nat) (f : Fld) (v : Nat) : (s.put p f v).pwr = s.pwr := rfl
@[simp] theorem State.put_lanes (p : Nat) (f : Fld) (v : Nat) : (s.put p f v).lanes = s.lanes := rfl
@[simp] theorem State.put_ring (p : Nat) (f : Fld) (v : Nat) : (s.put p f v).ring = s.ring := rfl
@[simp] theorem State.put_dpll (p : Nat) (f : Fld) (v : Nat) : (s.put p f v).dpll = s.dpll := rfl
@[simp] theorem State.put_audio (p : Nat) (f : Fld) (v : Nat) : (s.put p f v).audio = s.audio := rfl
@[simp] theorem State.put_startTrig (p : Nat) (f : Fld) (v : Nat) : (s.put p f v).startTrig = s.startTrig := rfl
@[simp] theorem State.put_amps (p : Nat) (f : Fld) (v : Nat) : (s.put p f v).amps = s.amps := rfl
@[simp] theorem State.put_boosts (p : Nat) (f : Fld) (v : Nat) : (s.put p f v).boosts = s.boosts := rfl
@[simp] theorem State.put_cal (p : Nat) (f : Fld) (v : Nat) : (s.put p f v).cal = s.cal := rfl
@[simp] theorem State.put_commit (p : Nat) (f : Fld) (v : Nat) : (s.put p f v).commit = s.commit := rfl
@[simp] theorem State.put_mgmt (p : Nat) (f : Fld) (v : Nat) : (s.put p f v).mgmt = s.mgmt := rfl
@[simp] theorem State.put_pins (p : Nat) (f : Fld) (v : Nat) : (s.put p f v).pins = s.pins := rfl
@[simp] theorem State.put_dmas (p : Nat) (f : Fld) (v : Nat) : (s.put p f v).dmas = s.dmas := rfl
@[simp] theorem State.put_retries (p : Nat) (f : Fld) (v : Nat) : (s.put p f v).retries = s.retries := rfl
@[simp] theorem State.put_vcore (p : Nat) (f : Fld) (v : Nat) : (s.put p f v).vcore = s.vcore := rfl
@[simp] theorem State.put_freeCtr (p : Nat) (f : Fld) (v : Nat) : (s.put p f v).freeCtr = s.freeCtr := rfl
@[simp] theorem State.put_readData (p : Nat) (f : Fld) (v : Nat) : (s.put p f v).readData = s.readData := rfl
@[simp] theorem State.put_respErr (p : Nat) (f : Fld) (v : Nat) : (s.put p f v).respErr = s.respErr := rfl

/-! ### putB -/

@[simp] theorem State.putB_pending (p : Nat) (f : Fld) (b : Bool) : (s.putB p f b).pending = s.pending := rfl
@[simp] theorem State.putB_inReset (p : Nat) (f : Fld) (b : Bool) : (s.putB p f b).inReset = s.inReset := rfl
@[simp] theorem State.putB_shadow (p : Nat) (f : Fld) (b : Bool) : (s.putB p f b).shadow = s.shadow := rfl
@[simp] theorem State.putB_staged (p : Nat) (f : Fld) (b : Bool) : (s.putB p f b).staged = s.staged := rfl
@[simp] theorem State.putB_dirtyTab (p : Nat) (f : Fld) (b : Bool) : (s.putB p f b).dirtyTab = s.dirtyTab := rfl
@[simp] theorem State.putB_dirtyReg (p : Nat) (f : Fld) (b : Bool) : (s.putB p f b).dirtyReg = s.dirtyReg := rfl
@[simp] theorem State.putB_mem (p : Nat) (f : Fld) (b : Bool) : (s.putB p f b).mem = s.mem := rfl
@[simp] theorem State.putB_marks (p : Nat) (f : Fld) (b : Bool) : (s.putB p f b).marks = s.marks := rfl
@[simp] theorem State.putB_ecc (p : Nat) (f : Fld) (b : Bool) : (s.putB p f b).ecc = s.ecc := rfl
@[simp] theorem State.putB_dom (p : Nat) (f : Fld) (b : Bool) : (s.putB p f b).dom = s.dom := rfl
@[simp] theorem State.putB_undef (p : Nat) (f : Fld) (b : Bool) : (s.putB p f b).undef = s.undef := rfl
@[simp] theorem State.putB_time (p : Nat) (f : Fld) (b : Bool) : (s.putB p f b).time = s.time := rfl
@[simp] theorem State.putB_cores (p : Nat) (f : Fld) (b : Bool) : (s.putB p f b).cores = s.cores := rfl
@[simp] theorem State.putB_clus (p : Nat) (f : Fld) (b : Bool) : (s.putB p f b).clus = s.clus := rfl
@[simp] theorem State.putB_fseq (p : Nat) (f : Fld) (b : Bool) : (s.putB p f b).fseq = s.fseq := rfl
@[simp] theorem State.putB_oryx (p : Nat) (f : Fld) (b : Bool) : (s.putB p f b).oryx = s.oryx := rfl
@[simp] theorem State.putB_meters (p : Nat) (f : Fld) (b : Bool) : (s.putB p f b).meters = s.meters := rfl
@[simp] theorem State.putB_eqSecs (p : Nat) (f : Fld) (b : Bool) : (s.putB p f b).eqSecs = s.eqSecs := rfl
@[simp] theorem State.putB_delay (p : Nat) (f : Fld) (b : Bool) : (s.putB p f b).delay = s.delay := rfl
@[simp] theorem State.putB_ledger (p : Nat) (f : Fld) (b : Bool) : (s.putB p f b).ledger = s.ledger := rfl
@[simp] theorem State.putB_pwr (p : Nat) (f : Fld) (b : Bool) : (s.putB p f b).pwr = s.pwr := rfl
@[simp] theorem State.putB_lanes (p : Nat) (f : Fld) (b : Bool) : (s.putB p f b).lanes = s.lanes := rfl
@[simp] theorem State.putB_ring (p : Nat) (f : Fld) (b : Bool) : (s.putB p f b).ring = s.ring := rfl
@[simp] theorem State.putB_dpll (p : Nat) (f : Fld) (b : Bool) : (s.putB p f b).dpll = s.dpll := rfl
@[simp] theorem State.putB_audio (p : Nat) (f : Fld) (b : Bool) : (s.putB p f b).audio = s.audio := rfl
@[simp] theorem State.putB_startTrig (p : Nat) (f : Fld) (b : Bool) : (s.putB p f b).startTrig = s.startTrig := rfl
@[simp] theorem State.putB_amps (p : Nat) (f : Fld) (b : Bool) : (s.putB p f b).amps = s.amps := rfl
@[simp] theorem State.putB_boosts (p : Nat) (f : Fld) (b : Bool) : (s.putB p f b).boosts = s.boosts := rfl
@[simp] theorem State.putB_cal (p : Nat) (f : Fld) (b : Bool) : (s.putB p f b).cal = s.cal := rfl
@[simp] theorem State.putB_commit (p : Nat) (f : Fld) (b : Bool) : (s.putB p f b).commit = s.commit := rfl
@[simp] theorem State.putB_mgmt (p : Nat) (f : Fld) (b : Bool) : (s.putB p f b).mgmt = s.mgmt := rfl
@[simp] theorem State.putB_pins (p : Nat) (f : Fld) (b : Bool) : (s.putB p f b).pins = s.pins := rfl
@[simp] theorem State.putB_dmas (p : Nat) (f : Fld) (b : Bool) : (s.putB p f b).dmas = s.dmas := rfl
@[simp] theorem State.putB_retries (p : Nat) (f : Fld) (b : Bool) : (s.putB p f b).retries = s.retries := rfl
@[simp] theorem State.putB_vcore (p : Nat) (f : Fld) (b : Bool) : (s.putB p f b).vcore = s.vcore := rfl
@[simp] theorem State.putB_freeCtr (p : Nat) (f : Fld) (b : Bool) : (s.putB p f b).freeCtr = s.freeCtr := rfl
@[simp] theorem State.putB_readData (p : Nat) (f : Fld) (b : Bool) : (s.putB p f b).readData = s.readData := rfl
@[simp] theorem State.putB_respErr (p : Nat) (f : Fld) (b : Bool) : (s.putB p f b).respErr = s.respErr := rfl

/-! ### putI -/

@[simp] theorem State.putI_pending (p : Nat) (f : Fld) (z : Int) : (s.putI p f z).pending = s.pending := rfl
@[simp] theorem State.putI_inReset (p : Nat) (f : Fld) (z : Int) : (s.putI p f z).inReset = s.inReset := rfl
@[simp] theorem State.putI_shadow (p : Nat) (f : Fld) (z : Int) : (s.putI p f z).shadow = s.shadow := rfl
@[simp] theorem State.putI_staged (p : Nat) (f : Fld) (z : Int) : (s.putI p f z).staged = s.staged := rfl
@[simp] theorem State.putI_dirtyTab (p : Nat) (f : Fld) (z : Int) : (s.putI p f z).dirtyTab = s.dirtyTab := rfl
@[simp] theorem State.putI_dirtyReg (p : Nat) (f : Fld) (z : Int) : (s.putI p f z).dirtyReg = s.dirtyReg := rfl
@[simp] theorem State.putI_mem (p : Nat) (f : Fld) (z : Int) : (s.putI p f z).mem = s.mem := rfl
@[simp] theorem State.putI_marks (p : Nat) (f : Fld) (z : Int) : (s.putI p f z).marks = s.marks := rfl
@[simp] theorem State.putI_ecc (p : Nat) (f : Fld) (z : Int) : (s.putI p f z).ecc = s.ecc := rfl
@[simp] theorem State.putI_dom (p : Nat) (f : Fld) (z : Int) : (s.putI p f z).dom = s.dom := rfl
@[simp] theorem State.putI_undef (p : Nat) (f : Fld) (z : Int) : (s.putI p f z).undef = s.undef := rfl
@[simp] theorem State.putI_time (p : Nat) (f : Fld) (z : Int) : (s.putI p f z).time = s.time := rfl
@[simp] theorem State.putI_cores (p : Nat) (f : Fld) (z : Int) : (s.putI p f z).cores = s.cores := rfl
@[simp] theorem State.putI_clus (p : Nat) (f : Fld) (z : Int) : (s.putI p f z).clus = s.clus := rfl
@[simp] theorem State.putI_fseq (p : Nat) (f : Fld) (z : Int) : (s.putI p f z).fseq = s.fseq := rfl
@[simp] theorem State.putI_oryx (p : Nat) (f : Fld) (z : Int) : (s.putI p f z).oryx = s.oryx := rfl
@[simp] theorem State.putI_meters (p : Nat) (f : Fld) (z : Int) : (s.putI p f z).meters = s.meters := rfl
@[simp] theorem State.putI_eqSecs (p : Nat) (f : Fld) (z : Int) : (s.putI p f z).eqSecs = s.eqSecs := rfl
@[simp] theorem State.putI_delay (p : Nat) (f : Fld) (z : Int) : (s.putI p f z).delay = s.delay := rfl
@[simp] theorem State.putI_ledger (p : Nat) (f : Fld) (z : Int) : (s.putI p f z).ledger = s.ledger := rfl
@[simp] theorem State.putI_pwr (p : Nat) (f : Fld) (z : Int) : (s.putI p f z).pwr = s.pwr := rfl
@[simp] theorem State.putI_lanes (p : Nat) (f : Fld) (z : Int) : (s.putI p f z).lanes = s.lanes := rfl
@[simp] theorem State.putI_ring (p : Nat) (f : Fld) (z : Int) : (s.putI p f z).ring = s.ring := rfl
@[simp] theorem State.putI_dpll (p : Nat) (f : Fld) (z : Int) : (s.putI p f z).dpll = s.dpll := rfl
@[simp] theorem State.putI_audio (p : Nat) (f : Fld) (z : Int) : (s.putI p f z).audio = s.audio := rfl
@[simp] theorem State.putI_startTrig (p : Nat) (f : Fld) (z : Int) : (s.putI p f z).startTrig = s.startTrig := rfl
@[simp] theorem State.putI_amps (p : Nat) (f : Fld) (z : Int) : (s.putI p f z).amps = s.amps := rfl
@[simp] theorem State.putI_boosts (p : Nat) (f : Fld) (z : Int) : (s.putI p f z).boosts = s.boosts := rfl
@[simp] theorem State.putI_cal (p : Nat) (f : Fld) (z : Int) : (s.putI p f z).cal = s.cal := rfl
@[simp] theorem State.putI_commit (p : Nat) (f : Fld) (z : Int) : (s.putI p f z).commit = s.commit := rfl
@[simp] theorem State.putI_mgmt (p : Nat) (f : Fld) (z : Int) : (s.putI p f z).mgmt = s.mgmt := rfl
@[simp] theorem State.putI_pins (p : Nat) (f : Fld) (z : Int) : (s.putI p f z).pins = s.pins := rfl
@[simp] theorem State.putI_dmas (p : Nat) (f : Fld) (z : Int) : (s.putI p f z).dmas = s.dmas := rfl
@[simp] theorem State.putI_retries (p : Nat) (f : Fld) (z : Int) : (s.putI p f z).retries = s.retries := rfl
@[simp] theorem State.putI_vcore (p : Nat) (f : Fld) (z : Int) : (s.putI p f z).vcore = s.vcore := rfl
@[simp] theorem State.putI_freeCtr (p : Nat) (f : Fld) (z : Int) : (s.putI p f z).freeCtr = s.freeCtr := rfl
@[simp] theorem State.putI_readData (p : Nat) (f : Fld) (z : Int) : (s.putI p f z).readData = s.readData := rfl
@[simp] theorem State.putI_respErr (p : Nat) (f : Fld) (z : Int) : (s.putI p f z).respErr = s.respErr := rfl

/-! ### bump -/

@[simp] theorem State.bump_pending (p : Nat) (f : Fld) (n : Nat) : (s.bump p f n).pending = s.pending := rfl
@[simp] theorem State.bump_inReset (p : Nat) (f : Fld) (n : Nat) : (s.bump p f n).inReset = s.inReset := rfl
@[simp] theorem State.bump_shadow (p : Nat) (f : Fld) (n : Nat) : (s.bump p f n).shadow = s.shadow := rfl
@[simp] theorem State.bump_staged (p : Nat) (f : Fld) (n : Nat) : (s.bump p f n).staged = s.staged := rfl
@[simp] theorem State.bump_dirtyTab (p : Nat) (f : Fld) (n : Nat) : (s.bump p f n).dirtyTab = s.dirtyTab := rfl
@[simp] theorem State.bump_dirtyReg (p : Nat) (f : Fld) (n : Nat) : (s.bump p f n).dirtyReg = s.dirtyReg := rfl
@[simp] theorem State.bump_mem (p : Nat) (f : Fld) (n : Nat) : (s.bump p f n).mem = s.mem := rfl
@[simp] theorem State.bump_marks (p : Nat) (f : Fld) (n : Nat) : (s.bump p f n).marks = s.marks := rfl
@[simp] theorem State.bump_ecc (p : Nat) (f : Fld) (n : Nat) : (s.bump p f n).ecc = s.ecc := rfl
@[simp] theorem State.bump_dom (p : Nat) (f : Fld) (n : Nat) : (s.bump p f n).dom = s.dom := rfl
@[simp] theorem State.bump_undef (p : Nat) (f : Fld) (n : Nat) : (s.bump p f n).undef = s.undef := rfl
@[simp] theorem State.bump_time (p : Nat) (f : Fld) (n : Nat) : (s.bump p f n).time = s.time := rfl
@[simp] theorem State.bump_cores (p : Nat) (f : Fld) (n : Nat) : (s.bump p f n).cores = s.cores := rfl
@[simp] theorem State.bump_clus (p : Nat) (f : Fld) (n : Nat) : (s.bump p f n).clus = s.clus := rfl
@[simp] theorem State.bump_fseq (p : Nat) (f : Fld) (n : Nat) : (s.bump p f n).fseq = s.fseq := rfl
@[simp] theorem State.bump_oryx (p : Nat) (f : Fld) (n : Nat) : (s.bump p f n).oryx = s.oryx := rfl
@[simp] theorem State.bump_meters (p : Nat) (f : Fld) (n : Nat) : (s.bump p f n).meters = s.meters := rfl
@[simp] theorem State.bump_eqSecs (p : Nat) (f : Fld) (n : Nat) : (s.bump p f n).eqSecs = s.eqSecs := rfl
@[simp] theorem State.bump_delay (p : Nat) (f : Fld) (n : Nat) : (s.bump p f n).delay = s.delay := rfl
@[simp] theorem State.bump_ledger (p : Nat) (f : Fld) (n : Nat) : (s.bump p f n).ledger = s.ledger := rfl
@[simp] theorem State.bump_pwr (p : Nat) (f : Fld) (n : Nat) : (s.bump p f n).pwr = s.pwr := rfl
@[simp] theorem State.bump_lanes (p : Nat) (f : Fld) (n : Nat) : (s.bump p f n).lanes = s.lanes := rfl
@[simp] theorem State.bump_ring (p : Nat) (f : Fld) (n : Nat) : (s.bump p f n).ring = s.ring := rfl
@[simp] theorem State.bump_dpll (p : Nat) (f : Fld) (n : Nat) : (s.bump p f n).dpll = s.dpll := rfl
@[simp] theorem State.bump_audio (p : Nat) (f : Fld) (n : Nat) : (s.bump p f n).audio = s.audio := rfl
@[simp] theorem State.bump_startTrig (p : Nat) (f : Fld) (n : Nat) : (s.bump p f n).startTrig = s.startTrig := rfl
@[simp] theorem State.bump_amps (p : Nat) (f : Fld) (n : Nat) : (s.bump p f n).amps = s.amps := rfl
@[simp] theorem State.bump_boosts (p : Nat) (f : Fld) (n : Nat) : (s.bump p f n).boosts = s.boosts := rfl
@[simp] theorem State.bump_cal (p : Nat) (f : Fld) (n : Nat) : (s.bump p f n).cal = s.cal := rfl
@[simp] theorem State.bump_commit (p : Nat) (f : Fld) (n : Nat) : (s.bump p f n).commit = s.commit := rfl
@[simp] theorem State.bump_mgmt (p : Nat) (f : Fld) (n : Nat) : (s.bump p f n).mgmt = s.mgmt := rfl
@[simp] theorem State.bump_pins (p : Nat) (f : Fld) (n : Nat) : (s.bump p f n).pins = s.pins := rfl
@[simp] theorem State.bump_dmas (p : Nat) (f : Fld) (n : Nat) : (s.bump p f n).dmas = s.dmas := rfl
@[simp] theorem State.bump_retries (p : Nat) (f : Fld) (n : Nat) : (s.bump p f n).retries = s.retries := rfl
@[simp] theorem State.bump_vcore (p : Nat) (f : Fld) (n : Nat) : (s.bump p f n).vcore = s.vcore := rfl
@[simp] theorem State.bump_freeCtr (p : Nat) (f : Fld) (n : Nat) : (s.bump p f n).freeCtr = s.freeCtr := rfl
@[simp] theorem State.bump_readData (p : Nat) (f : Fld) (n : Nat) : (s.bump p f n).readData = s.readData := rfl
@[simp] theorem State.bump_respErr (p : Nat) (f : Fld) (n : Nat) : (s.bump p f n).respErr = s.respErr := rfl

/-! ### maxUp -/

@[simp] theorem State.maxUp_pending (p : Nat) (f : Fld) (v : Nat) : (s.maxUp p f v).pending = s.pending := rfl
@[simp] theorem State.maxUp_inReset (p : Nat) (f : Fld) (v : Nat) : (s.maxUp p f v).inReset = s.inReset := rfl
@[simp] theorem State.maxUp_shadow (p : Nat) (f : Fld) (v : Nat) : (s.maxUp p f v).shadow = s.shadow := rfl
@[simp] theorem State.maxUp_staged (p : Nat) (f : Fld) (v : Nat) : (s.maxUp p f v).staged = s.staged := rfl
@[simp] theorem State.maxUp_dirtyTab (p : Nat) (f : Fld) (v : Nat) : (s.maxUp p f v).dirtyTab = s.dirtyTab := rfl
@[simp] theorem State.maxUp_dirtyReg (p : Nat) (f : Fld) (v : Nat) : (s.maxUp p f v).dirtyReg = s.dirtyReg := rfl
@[simp] theorem State.maxUp_mem (p : Nat) (f : Fld) (v : Nat) : (s.maxUp p f v).mem = s.mem := rfl
@[simp] theorem State.maxUp_marks (p : Nat) (f : Fld) (v : Nat) : (s.maxUp p f v).marks = s.marks := rfl
@[simp] theorem State.maxUp_ecc (p : Nat) (f : Fld) (v : Nat) : (s.maxUp p f v).ecc = s.ecc := rfl
@[simp] theorem State.maxUp_dom (p : Nat) (f : Fld) (v : Nat) : (s.maxUp p f v).dom = s.dom := rfl
@[simp] theorem State.maxUp_undef (p : Nat) (f : Fld) (v : Nat) : (s.maxUp p f v).undef = s.undef := rfl
@[simp] theorem State.maxUp_time (p : Nat) (f : Fld) (v : Nat) : (s.maxUp p f v).time = s.time := rfl
@[simp] theorem State.maxUp_cores (p : Nat) (f : Fld) (v : Nat) : (s.maxUp p f v).cores = s.cores := rfl
@[simp] theorem State.maxUp_clus (p : Nat) (f : Fld) (v : Nat) : (s.maxUp p f v).clus = s.clus := rfl
@[simp] theorem State.maxUp_fseq (p : Nat) (f : Fld) (v : Nat) : (s.maxUp p f v).fseq = s.fseq := rfl
@[simp] theorem State.maxUp_oryx (p : Nat) (f : Fld) (v : Nat) : (s.maxUp p f v).oryx = s.oryx := rfl
@[simp] theorem State.maxUp_meters (p : Nat) (f : Fld) (v : Nat) : (s.maxUp p f v).meters = s.meters := rfl
@[simp] theorem State.maxUp_eqSecs (p : Nat) (f : Fld) (v : Nat) : (s.maxUp p f v).eqSecs = s.eqSecs := rfl
@[simp] theorem State.maxUp_delay (p : Nat) (f : Fld) (v : Nat) : (s.maxUp p f v).delay = s.delay := rfl
@[simp] theorem State.maxUp_ledger (p : Nat) (f : Fld) (v : Nat) : (s.maxUp p f v).ledger = s.ledger := rfl
@[simp] theorem State.maxUp_pwr (p : Nat) (f : Fld) (v : Nat) : (s.maxUp p f v).pwr = s.pwr := rfl
@[simp] theorem State.maxUp_lanes (p : Nat) (f : Fld) (v : Nat) : (s.maxUp p f v).lanes = s.lanes := rfl
@[simp] theorem State.maxUp_ring (p : Nat) (f : Fld) (v : Nat) : (s.maxUp p f v).ring = s.ring := rfl
@[simp] theorem State.maxUp_dpll (p : Nat) (f : Fld) (v : Nat) : (s.maxUp p f v).dpll = s.dpll := rfl
@[simp] theorem State.maxUp_audio (p : Nat) (f : Fld) (v : Nat) : (s.maxUp p f v).audio = s.audio := rfl
@[simp] theorem State.maxUp_startTrig (p : Nat) (f : Fld) (v : Nat) : (s.maxUp p f v).startTrig = s.startTrig := rfl
@[simp] theorem State.maxUp_amps (p : Nat) (f : Fld) (v : Nat) : (s.maxUp p f v).amps = s.amps := rfl
@[simp] theorem State.maxUp_boosts (p : Nat) (f : Fld) (v : Nat) : (s.maxUp p f v).boosts = s.boosts := rfl
@[simp] theorem State.maxUp_cal (p : Nat) (f : Fld) (v : Nat) : (s.maxUp p f v).cal = s.cal := rfl
@[simp] theorem State.maxUp_commit (p : Nat) (f : Fld) (v : Nat) : (s.maxUp p f v).commit = s.commit := rfl
@[simp] theorem State.maxUp_mgmt (p : Nat) (f : Fld) (v : Nat) : (s.maxUp p f v).mgmt = s.mgmt := rfl
@[simp] theorem State.maxUp_pins (p : Nat) (f : Fld) (v : Nat) : (s.maxUp p f v).pins = s.pins := rfl
@[simp] theorem State.maxUp_dmas (p : Nat) (f : Fld) (v : Nat) : (s.maxUp p f v).dmas = s.dmas := rfl
@[simp] theorem State.maxUp_retries (p : Nat) (f : Fld) (v : Nat) : (s.maxUp p f v).retries = s.retries := rfl
@[simp] theorem State.maxUp_vcore (p : Nat) (f : Fld) (v : Nat) : (s.maxUp p f v).vcore = s.vcore := rfl
@[simp] theorem State.maxUp_freeCtr (p : Nat) (f : Fld) (v : Nat) : (s.maxUp p f v).freeCtr = s.freeCtr := rfl
@[simp] theorem State.maxUp_readData (p : Nat) (f : Fld) (v : Nat) : (s.maxUp p f v).readData = s.readData := rfl
@[simp] theorem State.maxUp_respErr (p : Nat) (f : Fld) (v : Nat) : (s.maxUp p f v).respErr = s.respErr := rfl

/-! ### raise -/

@[simp] theorem State.raise_pending (p b : Nat) : (s.raise p b).pending = s.pending := rfl
@[simp] theorem State.raise_inReset (p b : Nat) : (s.raise p b).inReset = s.inReset := rfl
@[simp] theorem State.raise_shadow (p b : Nat) : (s.raise p b).shadow = s.shadow := rfl
@[simp] theorem State.raise_staged (p b : Nat) : (s.raise p b).staged = s.staged := rfl
@[simp] theorem State.raise_dirtyTab (p b : Nat) : (s.raise p b).dirtyTab = s.dirtyTab := rfl
@[simp] theorem State.raise_dirtyReg (p b : Nat) : (s.raise p b).dirtyReg = s.dirtyReg := rfl
@[simp] theorem State.raise_mem (p b : Nat) : (s.raise p b).mem = s.mem := rfl
@[simp] theorem State.raise_marks (p b : Nat) : (s.raise p b).marks = s.marks := rfl
@[simp] theorem State.raise_ecc (p b : Nat) : (s.raise p b).ecc = s.ecc := rfl
@[simp] theorem State.raise_dom (p b : Nat) : (s.raise p b).dom = s.dom := rfl
@[simp] theorem State.raise_undef (p b : Nat) : (s.raise p b).undef = s.undef := rfl
@[simp] theorem State.raise_time (p b : Nat) : (s.raise p b).time = s.time := rfl
@[simp] theorem State.raise_cores (p b : Nat) : (s.raise p b).cores = s.cores := rfl
@[simp] theorem State.raise_clus (p b : Nat) : (s.raise p b).clus = s.clus := rfl
@[simp] theorem State.raise_fseq (p b : Nat) : (s.raise p b).fseq = s.fseq := rfl
@[simp] theorem State.raise_oryx (p b : Nat) : (s.raise p b).oryx = s.oryx := rfl
@[simp] theorem State.raise_meters (p b : Nat) : (s.raise p b).meters = s.meters := rfl
@[simp] theorem State.raise_eqSecs (p b : Nat) : (s.raise p b).eqSecs = s.eqSecs := rfl
@[simp] theorem State.raise_delay (p b : Nat) : (s.raise p b).delay = s.delay := rfl
@[simp] theorem State.raise_ledger (p b : Nat) : (s.raise p b).ledger = s.ledger := rfl
@[simp] theorem State.raise_pwr (p b : Nat) : (s.raise p b).pwr = s.pwr := rfl
@[simp] theorem State.raise_lanes (p b : Nat) : (s.raise p b).lanes = s.lanes := rfl
@[simp] theorem State.raise_ring (p b : Nat) : (s.raise p b).ring = s.ring := rfl
@[simp] theorem State.raise_dpll (p b : Nat) : (s.raise p b).dpll = s.dpll := rfl
@[simp] theorem State.raise_audio (p b : Nat) : (s.raise p b).audio = s.audio := rfl
@[simp] theorem State.raise_startTrig (p b : Nat) : (s.raise p b).startTrig = s.startTrig := rfl
@[simp] theorem State.raise_amps (p b : Nat) : (s.raise p b).amps = s.amps := rfl
@[simp] theorem State.raise_boosts (p b : Nat) : (s.raise p b).boosts = s.boosts := rfl
@[simp] theorem State.raise_cal (p b : Nat) : (s.raise p b).cal = s.cal := rfl
@[simp] theorem State.raise_commit (p b : Nat) : (s.raise p b).commit = s.commit := rfl
@[simp] theorem State.raise_mgmt (p b : Nat) : (s.raise p b).mgmt = s.mgmt := rfl
@[simp] theorem State.raise_pins (p b : Nat) : (s.raise p b).pins = s.pins := rfl
@[simp] theorem State.raise_dmas (p b : Nat) : (s.raise p b).dmas = s.dmas := rfl
@[simp] theorem State.raise_retries (p b : Nat) : (s.raise p b).retries = s.retries := rfl
@[simp] theorem State.raise_vcore (p b : Nat) : (s.raise p b).vcore = s.vcore := rfl
@[simp] theorem State.raise_freeCtr (p b : Nat) : (s.raise p b).freeCtr = s.freeCtr := rfl
@[simp] theorem State.raise_readData (p b : Nat) : (s.raise p b).readData = s.readData := rfl
@[simp] theorem State.raise_respErr (p b : Nat) : (s.raise p b).respErr = s.respErr := rfl

/-! ### log -/

@[simp] theorem State.log_pending (p c : Nat) : (s.log p c).pending = s.pending := rfl
@[simp] theorem State.log_inReset (p c : Nat) : (s.log p c).inReset = s.inReset := rfl
@[simp] theorem State.log_shadow (p c : Nat) : (s.log p c).shadow = s.shadow := rfl
@[simp] theorem State.log_staged (p c : Nat) : (s.log p c).staged = s.staged := rfl
@[simp] theorem State.log_dirtyTab (p c : Nat) : (s.log p c).dirtyTab = s.dirtyTab := rfl
@[simp] theorem State.log_dirtyReg (p c : Nat) : (s.log p c).dirtyReg = s.dirtyReg := rfl
@[simp] theorem State.log_mem (p c : Nat) : (s.log p c).mem = s.mem := rfl
@[simp] theorem State.log_marks (p c : Nat) : (s.log p c).marks = s.marks := rfl
@[simp] theorem State.log_ecc (p c : Nat) : (s.log p c).ecc = s.ecc := rfl
@[simp] theorem State.log_dom (p c : Nat) : (s.log p c).dom = s.dom := rfl
@[simp] theorem State.log_undef (p c : Nat) : (s.log p c).undef = s.undef := rfl
@[simp] theorem State.log_time (p c : Nat) : (s.log p c).time = s.time := rfl
@[simp] theorem State.log_cores (p c : Nat) : (s.log p c).cores = s.cores := rfl
@[simp] theorem State.log_clus (p c : Nat) : (s.log p c).clus = s.clus := rfl
@[simp] theorem State.log_fseq (p c : Nat) : (s.log p c).fseq = s.fseq := rfl
@[simp] theorem State.log_oryx (p c : Nat) : (s.log p c).oryx = s.oryx := rfl
@[simp] theorem State.log_meters (p c : Nat) : (s.log p c).meters = s.meters := rfl
@[simp] theorem State.log_eqSecs (p c : Nat) : (s.log p c).eqSecs = s.eqSecs := rfl
@[simp] theorem State.log_delay (p c : Nat) : (s.log p c).delay = s.delay := rfl
@[simp] theorem State.log_ledger (p c : Nat) : (s.log p c).ledger = s.ledger := rfl
@[simp] theorem State.log_pwr (p c : Nat) : (s.log p c).pwr = s.pwr := rfl
@[simp] theorem State.log_lanes (p c : Nat) : (s.log p c).lanes = s.lanes := rfl
@[simp] theorem State.log_ring (p c : Nat) : (s.log p c).ring = s.ring := rfl
@[simp] theorem State.log_dpll (p c : Nat) : (s.log p c).dpll = s.dpll := rfl
@[simp] theorem State.log_audio (p c : Nat) : (s.log p c).audio = s.audio := rfl
@[simp] theorem State.log_startTrig (p c : Nat) : (s.log p c).startTrig = s.startTrig := rfl
@[simp] theorem State.log_amps (p c : Nat) : (s.log p c).amps = s.amps := rfl
@[simp] theorem State.log_boosts (p c : Nat) : (s.log p c).boosts = s.boosts := rfl
@[simp] theorem State.log_cal (p c : Nat) : (s.log p c).cal = s.cal := rfl
@[simp] theorem State.log_commit (p c : Nat) : (s.log p c).commit = s.commit := rfl
@[simp] theorem State.log_mgmt (p c : Nat) : (s.log p c).mgmt = s.mgmt := rfl
@[simp] theorem State.log_pins (p c : Nat) : (s.log p c).pins = s.pins := rfl
@[simp] theorem State.log_dmas (p c : Nat) : (s.log p c).dmas = s.dmas := rfl
@[simp] theorem State.log_retries (p c : Nat) : (s.log p c).retries = s.retries := rfl
@[simp] theorem State.log_vcore (p c : Nat) : (s.log p c).vcore = s.vcore := rfl
@[simp] theorem State.log_freeCtr (p c : Nat) : (s.log p c).freeCtr = s.freeCtr := rfl
@[simp] theorem State.log_readData (p c : Nat) : (s.log p c).readData = s.readData := rfl
@[simp] theorem State.log_respErr (p c : Nat) : (s.log p c).respErr = s.respErr := rfl

/-! ### putSh -/

@[simp] theorem State.putSh_pending (p : Nat) (f : Fld) (v : Nat) : (s.putSh p f v).pending = s.pending := rfl
@[simp] theorem State.putSh_inReset (p : Nat) (f : Fld) (v : Nat) : (s.putSh p f v).inReset = s.inReset := rfl
@[simp] theorem State.putSh_fld (p : Nat) (f : Fld) (v : Nat) : (s.putSh p f v).fld = s.fld := rfl
theorem State.putSh_shadow (p : Nat) (f : Fld) (v : Nat) : (s.putSh p f v).shadow = Tab.put f.rst s.shadow (fkey p f) (v % 2 ^ f.w) := rfl
@[simp] theorem State.putSh_staged (p : Nat) (f : Fld) (v : Nat) : (s.putSh p f v).staged = s.staged := rfl
@[simp] theorem State.putSh_dirtyTab (p : Nat) (f : Fld) (v : Nat) : (s.putSh p f v).dirtyTab = s.dirtyTab := rfl
@[simp] theorem State.putSh_dirtyReg (p : Nat) (f : Fld) (v : Nat) : (s.putSh p f v).dirtyReg = s.dirtyReg := rfl
@[simp] theorem State.putSh_mem (p : Nat) (f : Fld) (v : Nat) : (s.putSh p f v).mem = s.mem := rfl
@[simp] theorem State.putSh_marks (p : Nat) (f : Fld) (v : Nat) : (s.putSh p f v).marks = s.marks := rfl
@[simp] theorem State.putSh_ecc (p : Nat) (f : Fld) (v : Nat) : (s.putSh p f v).ecc = s.ecc := rfl
@[simp] theorem State.putSh_dom (p : Nat) (f : Fld) (v : Nat) : (s.putSh p f v).dom = s.dom := rfl
@[simp] theorem State.putSh_undef (p : Nat) (f : Fld) (v : Nat) : (s.putSh p f v).undef = s.undef := rfl
@[simp] theorem State.putSh_time (p : Nat) (f : Fld) (v : Nat) : (s.putSh p f v).time = s.time := rfl
@[simp] theorem State.putSh_cores (p : Nat) (f : Fld) (v : Nat) : (s.putSh p f v).cores = s.cores := rfl
@[simp] theorem State.putSh_clus (p : Nat) (f : Fld) (v : Nat) : (s.putSh p f v).clus = s.clus := rfl
@[simp] theorem State.putSh_fseq (p : Nat) (f : Fld) (v : Nat) : (s.putSh p f v).fseq = s.fseq := rfl
@[simp] theorem State.putSh_oryx (p : Nat) (f : Fld) (v : Nat) : (s.putSh p f v).oryx = s.oryx := rfl
@[simp] theorem State.putSh_meters (p : Nat) (f : Fld) (v : Nat) : (s.putSh p f v).meters = s.meters := rfl
@[simp] theorem State.putSh_eqSecs (p : Nat) (f : Fld) (v : Nat) : (s.putSh p f v).eqSecs = s.eqSecs := rfl
@[simp] theorem State.putSh_delay (p : Nat) (f : Fld) (v : Nat) : (s.putSh p f v).delay = s.delay := rfl
@[simp] theorem State.putSh_ledger (p : Nat) (f : Fld) (v : Nat) : (s.putSh p f v).ledger = s.ledger := rfl
@[simp] theorem State.putSh_pwr (p : Nat) (f : Fld) (v : Nat) : (s.putSh p f v).pwr = s.pwr := rfl
@[simp] theorem State.putSh_lanes (p : Nat) (f : Fld) (v : Nat) : (s.putSh p f v).lanes = s.lanes := rfl
@[simp] theorem State.putSh_ring (p : Nat) (f : Fld) (v : Nat) : (s.putSh p f v).ring = s.ring := rfl
@[simp] theorem State.putSh_dpll (p : Nat) (f : Fld) (v : Nat) : (s.putSh p f v).dpll = s.dpll := rfl
@[simp] theorem State.putSh_audio (p : Nat) (f : Fld) (v : Nat) : (s.putSh p f v).audio = s.audio := rfl
@[simp] theorem State.putSh_startTrig (p : Nat) (f : Fld) (v : Nat) : (s.putSh p f v).startTrig = s.startTrig := rfl
@[simp] theorem State.putSh_amps (p : Nat) (f : Fld) (v : Nat) : (s.putSh p f v).amps = s.amps := rfl
@[simp] theorem State.putSh_boosts (p : Nat) (f : Fld) (v : Nat) : (s.putSh p f v).boosts = s.boosts := rfl
@[simp] theorem State.putSh_cal (p : Nat) (f : Fld) (v : Nat) : (s.putSh p f v).cal = s.cal := rfl
@[simp] theorem State.putSh_commit (p : Nat) (f : Fld) (v : Nat) : (s.putSh p f v).commit = s.commit := rfl
@[simp] theorem State.putSh_mgmt (p : Nat) (f : Fld) (v : Nat) : (s.putSh p f v).mgmt = s.mgmt := rfl
@[simp] theorem State.putSh_pins (p : Nat) (f : Fld) (v : Nat) : (s.putSh p f v).pins = s.pins := rfl
@[simp] theorem State.putSh_dmas (p : Nat) (f : Fld) (v : Nat) : (s.putSh p f v).dmas = s.dmas := rfl
@[simp] theorem State.putSh_retries (p : Nat) (f : Fld) (v : Nat) : (s.putSh p f v).retries = s.retries := rfl
@[simp] theorem State.putSh_vcore (p : Nat) (f : Fld) (v : Nat) : (s.putSh p f v).vcore = s.vcore := rfl
@[simp] theorem State.putSh_freeCtr (p : Nat) (f : Fld) (v : Nat) : (s.putSh p f v).freeCtr = s.freeCtr := rfl
@[simp] theorem State.putSh_readData (p : Nat) (f : Fld) (v : Nat) : (s.putSh p f v).readData = s.readData := rfl
@[simp] theorem State.putSh_respErr (p : Nat) (f : Fld) (v : Nat) : (s.putSh p f v).respErr = s.respErr := rfl
@[simp] theorem State.putSh_get (p : Nat) (f : Fld) (v : Nat) (q : Nat) (g : Fld) : (s.putSh p f v).get q g = s.get q g := rfl
@[simp] theorem State.putSh_flag (p : Nat) (f : Fld) (v : Nat) (q : Nat) (g : Fld) : (s.putSh p f v).flag q g = s.flag q g := rfl

/-! ### setByte -/

@[simp] theorem State.setByte_pending (a : Nat) (v : Byte) : (s.setByte a v).pending = s.pending := rfl
@[simp] theorem State.setByte_inReset (a : Nat) (v : Byte) : (s.setByte a v).inReset = s.inReset := rfl
@[simp] theorem State.setByte_fld (a : Nat) (v : Byte) : (s.setByte a v).fld = s.fld := rfl
@[simp] theorem State.setByte_shadow (a : Nat) (v : Byte) : (s.setByte a v).shadow = s.shadow := rfl
@[simp] theorem State.setByte_staged (a : Nat) (v : Byte) : (s.setByte a v).staged = s.staged := rfl
@[simp] theorem State.setByte_dirtyTab (a : Nat) (v : Byte) : (s.setByte a v).dirtyTab = s.dirtyTab := rfl
@[simp] theorem State.setByte_dirtyReg (a : Nat) (v : Byte) : (s.setByte a v).dirtyReg = s.dirtyReg := rfl
theorem State.setByte_mem (a : Nat) (v : Byte) : (s.setByte a v).mem = Tab.put 0 s.mem a v := rfl
@[simp] theorem State.setByte_marks (a : Nat) (v : Byte) : (s.setByte a v).marks = s.marks := rfl
@[simp] theorem State.setByte_ecc (a : Nat) (v : Byte) : (s.setByte a v).ecc = s.ecc := rfl
@[simp] theorem State.setByte_dom (a : Nat) (v : Byte) : (s.setByte a v).dom = s.dom := rfl
@[simp] theorem State.setByte_undef (a : Nat) (v : Byte) : (s.setByte a v).undef = s.undef := rfl
@[simp] theorem State.setByte_time (a : Nat) (v : Byte) : (s.setByte a v).time = s.time := rfl
@[simp] theorem State.setByte_cores (a : Nat) (v : Byte) : (s.setByte a v).cores = s.cores := rfl
@[simp] theorem State.setByte_clus (a : Nat) (v : Byte) : (s.setByte a v).clus = s.clus := rfl
@[simp] theorem State.setByte_fseq (a : Nat) (v : Byte) : (s.setByte a v).fseq = s.fseq := rfl
@[simp] theorem State.setByte_oryx (a : Nat) (v : Byte) : (s.setByte a v).oryx = s.oryx := rfl
@[simp] theorem State.setByte_meters (a : Nat) (v : Byte) : (s.setByte a v).meters = s.meters := rfl
@[simp] theorem State.setByte_eqSecs (a : Nat) (v : Byte) : (s.setByte a v).eqSecs = s.eqSecs := rfl
@[simp] theorem State.setByte_delay (a : Nat) (v : Byte) : (s.setByte a v).delay = s.delay := rfl
@[simp] theorem State.setByte_ledger (a : Nat) (v : Byte) : (s.setByte a v).ledger = s.ledger := rfl
@[simp] theorem State.setByte_pwr (a : Nat) (v : Byte) : (s.setByte a v).pwr = s.pwr := rfl
@[simp] theorem State.setByte_lanes (a : Nat) (v : Byte) : (s.setByte a v).lanes = s.lanes := rfl
@[simp] theorem State.setByte_ring (a : Nat) (v : Byte) : (s.setByte a v).ring = s.ring := rfl
@[simp] theorem State.setByte_dpll (a : Nat) (v : Byte) : (s.setByte a v).dpll = s.dpll := rfl
@[simp] theorem State.setByte_audio (a : Nat) (v : Byte) : (s.setByte a v).audio = s.audio := rfl
@[simp] theorem State.setByte_startTrig (a : Nat) (v : Byte) : (s.setByte a v).startTrig = s.startTrig := rfl
@[simp] theorem State.setByte_amps (a : Nat) (v : Byte) : (s.setByte a v).amps = s.amps := rfl
@[simp] theorem State.setByte_boosts (a : Nat) (v : Byte) : (s.setByte a v).boosts = s.boosts := rfl
@[simp] theorem State.setByte_cal (a : Nat) (v : Byte) : (s.setByte a v).cal = s.cal := rfl
@[simp] theorem State.setByte_commit (a : Nat) (v : Byte) : (s.setByte a v).commit = s.commit := rfl
@[simp] theorem State.setByte_mgmt (a : Nat) (v : Byte) : (s.setByte a v).mgmt = s.mgmt := rfl
@[simp] theorem State.setByte_pins (a : Nat) (v : Byte) : (s.setByte a v).pins = s.pins := rfl
@[simp] theorem State.setByte_dmas (a : Nat) (v : Byte) : (s.setByte a v).dmas = s.dmas := rfl
@[simp] theorem State.setByte_retries (a : Nat) (v : Byte) : (s.setByte a v).retries = s.retries := rfl
@[simp] theorem State.setByte_vcore (a : Nat) (v : Byte) : (s.setByte a v).vcore = s.vcore := rfl
@[simp] theorem State.setByte_freeCtr (a : Nat) (v : Byte) : (s.setByte a v).freeCtr = s.freeCtr := rfl
@[simp] theorem State.setByte_readData (a : Nat) (v : Byte) : (s.setByte a v).readData = s.readData := rfl
@[simp] theorem State.setByte_respErr (a : Nat) (v : Byte) : (s.setByte a v).respErr = s.respErr := rfl
@[simp] theorem State.setByte_get (a : Nat) (v : Byte) (q : Nat) (g : Fld) : (s.setByte a v).get q g = s.get q g := rfl
@[simp] theorem State.setByte_flag (a : Nat) (v : Byte) (q : Nat) (g : Fld) : (s.setByte a v).flag q g = s.flag q g := rfl

/-! ### setBytes -/

@[simp] theorem State.setBytes_pending (l : List (Nat × Byte)) : (s.setBytes l).pending = s.pending := rfl
@[simp] theorem State.setBytes_inReset (l : List (Nat × Byte)) : (s.setBytes l).inReset = s.inReset := rfl
@[simp] theorem State.setBytes_fld (l : List (Nat × Byte)) : (s.setBytes l).fld = s.fld := rfl
@[simp] theorem State.setBytes_shadow (l : List (Nat × Byte)) : (s.setBytes l).shadow = s.shadow := rfl
@[simp] theorem State.setBytes_staged (l : List (Nat × Byte)) : (s.setBytes l).staged = s.staged := rfl
@[simp] theorem State.setBytes_dirtyTab (l : List (Nat × Byte)) : (s.setBytes l).dirtyTab = s.dirtyTab := rfl
@[simp] theorem State.setBytes_dirtyReg (l : List (Nat × Byte)) : (s.setBytes l).dirtyReg = s.dirtyReg := rfl
theorem State.setBytes_mem (l : List (Nat × Byte)) : (s.setBytes l).mem = Tab.puts 0 s.mem l := rfl
@[simp] theorem State.setBytes_marks (l : List (Nat × Byte)) : (s.setBytes l).marks = s.marks := rfl
@[simp] theorem State.setBytes_ecc (l : List (Nat × Byte)) : (s.setBytes l).ecc = s.ecc := rfl
@[simp] theorem State.setBytes_dom (l : List (Nat × Byte)) : (s.setBytes l).dom = s.dom := rfl
@[simp] theorem State.setBytes_undef (l : List (Nat × Byte)) : (s.setBytes l).undef = s.undef := rfl
@[simp] theorem State.setBytes_time (l : List (Nat × Byte)) : (s.setBytes l).time = s.time := rfl
@[simp] theorem State.setBytes_cores (l : List (Nat × Byte)) : (s.setBytes l).cores = s.cores := rfl
@[simp] theorem State.setBytes_clus (l : List (Nat × Byte)) : (s.setBytes l).clus = s.clus := rfl
@[simp] theorem State.setBytes_fseq (l : List (Nat × Byte)) : (s.setBytes l).fseq = s.fseq := rfl
@[simp] theorem State.setBytes_oryx (l : List (Nat × Byte)) : (s.setBytes l).oryx = s.oryx := rfl
@[simp] theorem State.setBytes_meters (l : List (Nat × Byte)) : (s.setBytes l).meters = s.meters := rfl
@[simp] theorem State.setBytes_eqSecs (l : List (Nat × Byte)) : (s.setBytes l).eqSecs = s.eqSecs := rfl
@[simp] theorem State.setBytes_delay (l : List (Nat × Byte)) : (s.setBytes l).delay = s.delay := rfl
@[simp] theorem State.setBytes_ledger (l : List (Nat × Byte)) : (s.setBytes l).ledger = s.ledger := rfl
@[simp] theorem State.setBytes_pwr (l : List (Nat × Byte)) : (s.setBytes l).pwr = s.pwr := rfl
@[simp] theorem State.setBytes_lanes (l : List (Nat × Byte)) : (s.setBytes l).lanes = s.lanes := rfl
@[simp] theorem State.setBytes_ring (l : List (Nat × Byte)) : (s.setBytes l).ring = s.ring := rfl
@[simp] theorem State.setBytes_dpll (l : List (Nat × Byte)) : (s.setBytes l).dpll = s.dpll := rfl
@[simp] theorem State.setBytes_audio (l : List (Nat × Byte)) : (s.setBytes l).audio = s.audio := rfl
@[simp] theorem State.setBytes_startTrig (l : List (Nat × Byte)) : (s.setBytes l).startTrig = s.startTrig := rfl
@[simp] theorem State.setBytes_amps (l : List (Nat × Byte)) : (s.setBytes l).amps = s.amps := rfl
@[simp] theorem State.setBytes_boosts (l : List (Nat × Byte)) : (s.setBytes l).boosts = s.boosts := rfl
@[simp] theorem State.setBytes_cal (l : List (Nat × Byte)) : (s.setBytes l).cal = s.cal := rfl
@[simp] theorem State.setBytes_commit (l : List (Nat × Byte)) : (s.setBytes l).commit = s.commit := rfl
@[simp] theorem State.setBytes_mgmt (l : List (Nat × Byte)) : (s.setBytes l).mgmt = s.mgmt := rfl
@[simp] theorem State.setBytes_pins (l : List (Nat × Byte)) : (s.setBytes l).pins = s.pins := rfl
@[simp] theorem State.setBytes_dmas (l : List (Nat × Byte)) : (s.setBytes l).dmas = s.dmas := rfl
@[simp] theorem State.setBytes_retries (l : List (Nat × Byte)) : (s.setBytes l).retries = s.retries := rfl
@[simp] theorem State.setBytes_vcore (l : List (Nat × Byte)) : (s.setBytes l).vcore = s.vcore := rfl
@[simp] theorem State.setBytes_freeCtr (l : List (Nat × Byte)) : (s.setBytes l).freeCtr = s.freeCtr := rfl
@[simp] theorem State.setBytes_readData (l : List (Nat × Byte)) : (s.setBytes l).readData = s.readData := rfl
@[simp] theorem State.setBytes_respErr (l : List (Nat × Byte)) : (s.setBytes l).respErr = s.respErr := rfl
@[simp] theorem State.setBytes_get (l : List (Nat × Byte)) (q : Nat) (g : Fld) : (s.setBytes l).get q g = s.get q g := rfl
@[simp] theorem State.setBytes_flag (l : List (Nat × Byte)) (q : Nat) (g : Fld) : (s.setBytes l).flag q g = s.flag q g := rfl

/-! ### setWord -/

@[simp] theorem State.setWord_pending (a : Nat) (v : Word) : (s.setWord a v).pending = s.pending := rfl
@[simp] theorem State.setWord_inReset (a : Nat) (v : Word) : (s.setWord a v).inReset = s.inReset := rfl
@[simp] theorem State.setWord_fld (a : Nat) (v : Word) : (s.setWord a v).fld = s.fld := rfl
@[simp] theorem State.setWord_shadow (a : Nat) (v : Word) : (s.setWord a v).shadow = s.shadow := rfl
@[simp] theorem State.setWord_staged (a : Nat) (v : Word) : (s.setWord a v).staged = s.staged := rfl
@[simp] theorem State.setWord_dirtyTab (a : Nat) (v : Word) : (s.setWord a v).dirtyTab = s.dirtyTab := rfl
@[simp] theorem State.setWord_dirtyReg (a : Nat) (v : Word) : (s.setWord a v).dirtyReg = s.dirtyReg := rfl
theorem State.setWord_mem (a : Nat) (v : Word) : (s.setWord a v).mem = Tab.puts 0 s.mem (leBytes a v.toNat 4) := rfl
@[simp] theorem State.setWord_marks (a : Nat) (v : Word) : (s.setWord a v).marks = s.marks := rfl
@[simp] theorem State.setWord_ecc (a : Nat) (v : Word) : (s.setWord a v).ecc = s.ecc := rfl
@[simp] theorem State.setWord_dom (a : Nat) (v : Word) : (s.setWord a v).dom = s.dom := rfl
@[simp] theorem State.setWord_undef (a : Nat) (v : Word) : (s.setWord a v).undef = s.undef := rfl
@[simp] theorem State.setWord_time (a : Nat) (v : Word) : (s.setWord a v).time = s.time := rfl
@[simp] theorem State.setWord_cores (a : Nat) (v : Word) : (s.setWord a v).cores = s.cores := rfl
@[simp] theorem State.setWord_clus (a : Nat) (v : Word) : (s.setWord a v).clus = s.clus := rfl
@[simp] theorem State.setWord_fseq (a : Nat) (v : Word) : (s.setWord a v).fseq = s.fseq := rfl
@[simp] theorem State.setWord_oryx (a : Nat) (v : Word) : (s.setWord a v).oryx = s.oryx := rfl
@[simp] theorem State.setWord_meters (a : Nat) (v : Word) : (s.setWord a v).meters = s.meters := rfl
@[simp] theorem State.setWord_eqSecs (a : Nat) (v : Word) : (s.setWord a v).eqSecs = s.eqSecs := rfl
@[simp] theorem State.setWord_delay (a : Nat) (v : Word) : (s.setWord a v).delay = s.delay := rfl
@[simp] theorem State.setWord_ledger (a : Nat) (v : Word) : (s.setWord a v).ledger = s.ledger := rfl
@[simp] theorem State.setWord_pwr (a : Nat) (v : Word) : (s.setWord a v).pwr = s.pwr := rfl
@[simp] theorem State.setWord_lanes (a : Nat) (v : Word) : (s.setWord a v).lanes = s.lanes := rfl
@[simp] theorem State.setWord_ring (a : Nat) (v : Word) : (s.setWord a v).ring = s.ring := rfl
@[simp] theorem State.setWord_dpll (a : Nat) (v : Word) : (s.setWord a v).dpll = s.dpll := rfl
@[simp] theorem State.setWord_audio (a : Nat) (v : Word) : (s.setWord a v).audio = s.audio := rfl
@[simp] theorem State.setWord_startTrig (a : Nat) (v : Word) : (s.setWord a v).startTrig = s.startTrig := rfl
@[simp] theorem State.setWord_amps (a : Nat) (v : Word) : (s.setWord a v).amps = s.amps := rfl
@[simp] theorem State.setWord_boosts (a : Nat) (v : Word) : (s.setWord a v).boosts = s.boosts := rfl
@[simp] theorem State.setWord_cal (a : Nat) (v : Word) : (s.setWord a v).cal = s.cal := rfl
@[simp] theorem State.setWord_commit (a : Nat) (v : Word) : (s.setWord a v).commit = s.commit := rfl
@[simp] theorem State.setWord_mgmt (a : Nat) (v : Word) : (s.setWord a v).mgmt = s.mgmt := rfl
@[simp] theorem State.setWord_pins (a : Nat) (v : Word) : (s.setWord a v).pins = s.pins := rfl
@[simp] theorem State.setWord_dmas (a : Nat) (v : Word) : (s.setWord a v).dmas = s.dmas := rfl
@[simp] theorem State.setWord_retries (a : Nat) (v : Word) : (s.setWord a v).retries = s.retries := rfl
@[simp] theorem State.setWord_vcore (a : Nat) (v : Word) : (s.setWord a v).vcore = s.vcore := rfl
@[simp] theorem State.setWord_freeCtr (a : Nat) (v : Word) : (s.setWord a v).freeCtr = s.freeCtr := rfl
@[simp] theorem State.setWord_readData (a : Nat) (v : Word) : (s.setWord a v).readData = s.readData := rfl
@[simp] theorem State.setWord_respErr (a : Nat) (v : Word) : (s.setWord a v).respErr = s.respErr := rfl
@[simp] theorem State.setWord_get (a : Nat) (v : Word) (q : Nat) (g : Fld) : (s.setWord a v).get q g = s.get q g := rfl
@[simp] theorem State.setWord_flag (a : Nat) (v : Word) (q : Nat) (g : Fld) : (s.setWord a v).flag q g = s.flag q g := rfl

/-! ### setCore1 -/

@[simp] theorem State.setCore1_pending (n : Nat) (c : Core) : (s.setCore1 n c).pending = s.pending := rfl
@[simp] theorem State.setCore1_inReset (n : Nat) (c : Core) : (s.setCore1 n c).inReset = s.inReset := rfl
@[simp] theorem State.setCore1_fld (n : Nat) (c : Core) : (s.setCore1 n c).fld = s.fld := rfl
@[simp] theorem State.setCore1_shadow (n : Nat) (c : Core) : (s.setCore1 n c).shadow = s.shadow := rfl
@[simp] theorem State.setCore1_staged (n : Nat) (c : Core) : (s.setCore1 n c).staged = s.staged := rfl
@[simp] theorem State.setCore1_dirtyTab (n : Nat) (c : Core) : (s.setCore1 n c).dirtyTab = s.dirtyTab := rfl
@[simp] theorem State.setCore1_dirtyReg (n : Nat) (c : Core) : (s.setCore1 n c).dirtyReg = s.dirtyReg := rfl
@[simp] theorem State.setCore1_mem (n : Nat) (c : Core) : (s.setCore1 n c).mem = s.mem := rfl
@[simp] theorem State.setCore1_marks (n : Nat) (c : Core) : (s.setCore1 n c).marks = s.marks := rfl
@[simp] theorem State.setCore1_ecc (n : Nat) (c : Core) : (s.setCore1 n c).ecc = s.ecc := rfl
@[simp] theorem State.setCore1_dom (n : Nat) (c : Core) : (s.setCore1 n c).dom = s.dom := rfl
@[simp] theorem State.setCore1_undef (n : Nat) (c : Core) : (s.setCore1 n c).undef = s.undef := rfl
@[simp] theorem State.setCore1_time (n : Nat) (c : Core) : (s.setCore1 n c).time = s.time := rfl
theorem State.setCore1_cores (n : Nat) (c : Core) : (s.setCore1 n c).cores = Tab.put Core.reset s.cores n c := rfl
@[simp] theorem State.setCore1_clus (n : Nat) (c : Core) : (s.setCore1 n c).clus = s.clus := rfl
@[simp] theorem State.setCore1_fseq (n : Nat) (c : Core) : (s.setCore1 n c).fseq = s.fseq := rfl
@[simp] theorem State.setCore1_oryx (n : Nat) (c : Core) : (s.setCore1 n c).oryx = s.oryx := rfl
@[simp] theorem State.setCore1_meters (n : Nat) (c : Core) : (s.setCore1 n c).meters = s.meters := rfl
@[simp] theorem State.setCore1_eqSecs (n : Nat) (c : Core) : (s.setCore1 n c).eqSecs = s.eqSecs := rfl
@[simp] theorem State.setCore1_delay (n : Nat) (c : Core) : (s.setCore1 n c).delay = s.delay := rfl
@[simp] theorem State.setCore1_ledger (n : Nat) (c : Core) : (s.setCore1 n c).ledger = s.ledger := rfl
@[simp] theorem State.setCore1_pwr (n : Nat) (c : Core) : (s.setCore1 n c).pwr = s.pwr := rfl
@[simp] theorem State.setCore1_lanes (n : Nat) (c : Core) : (s.setCore1 n c).lanes = s.lanes := rfl
@[simp] theorem State.setCore1_ring (n : Nat) (c : Core) : (s.setCore1 n c).ring = s.ring := rfl
@[simp] theorem State.setCore1_dpll (n : Nat) (c : Core) : (s.setCore1 n c).dpll = s.dpll := rfl
@[simp] theorem State.setCore1_audio (n : Nat) (c : Core) : (s.setCore1 n c).audio = s.audio := rfl
@[simp] theorem State.setCore1_startTrig (n : Nat) (c : Core) : (s.setCore1 n c).startTrig = s.startTrig := rfl
@[simp] theorem State.setCore1_amps (n : Nat) (c : Core) : (s.setCore1 n c).amps = s.amps := rfl
@[simp] theorem State.setCore1_boosts (n : Nat) (c : Core) : (s.setCore1 n c).boosts = s.boosts := rfl
@[simp] theorem State.setCore1_cal (n : Nat) (c : Core) : (s.setCore1 n c).cal = s.cal := rfl
@[simp] theorem State.setCore1_commit (n : Nat) (c : Core) : (s.setCore1 n c).commit = s.commit := rfl
@[simp] theorem State.setCore1_mgmt (n : Nat) (c : Core) : (s.setCore1 n c).mgmt = s.mgmt := rfl
@[simp] theorem State.setCore1_pins (n : Nat) (c : Core) : (s.setCore1 n c).pins = s.pins := rfl
@[simp] theorem State.setCore1_dmas (n : Nat) (c : Core) : (s.setCore1 n c).dmas = s.dmas := rfl
@[simp] theorem State.setCore1_retries (n : Nat) (c : Core) : (s.setCore1 n c).retries = s.retries := rfl
@[simp] theorem State.setCore1_vcore (n : Nat) (c : Core) : (s.setCore1 n c).vcore = s.vcore := rfl
@[simp] theorem State.setCore1_freeCtr (n : Nat) (c : Core) : (s.setCore1 n c).freeCtr = s.freeCtr := rfl
@[simp] theorem State.setCore1_readData (n : Nat) (c : Core) : (s.setCore1 n c).readData = s.readData := rfl
@[simp] theorem State.setCore1_respErr (n : Nat) (c : Core) : (s.setCore1 n c).respErr = s.respErr := rfl
@[simp] theorem State.setCore1_get (n : Nat) (c : Core) (q : Nat) (g : Fld) : (s.setCore1 n c).get q g = s.get q g := rfl
@[simp] theorem State.setCore1_flag (n : Nat) (c : Core) (q : Nat) (g : Fld) : (s.setCore1 n c).flag q g = s.flag q g := rfl

/-! ### setCl -/

@[simp] theorem State.setCl_pending (c : Nat) (v : Clus) : (s.setCl c v).pending = s.pending := rfl
@[simp] theorem State.setCl_inReset (c : Nat) (v : Clus) : (s.setCl c v).inReset = s.inReset := rfl
@[simp] theorem State.setCl_fld (c : Nat) (v : Clus) : (s.setCl c v).fld = s.fld := rfl
@[simp] theorem State.setCl_shadow (c : Nat) (v : Clus) : (s.setCl c v).shadow = s.shadow := rfl
@[simp] theorem State.setCl_staged (c : Nat) (v : Clus) : (s.setCl c v).staged = s.staged := rfl
@[simp] theorem State.setCl_dirtyTab (c : Nat) (v : Clus) : (s.setCl c v).dirtyTab = s.dirtyTab := rfl
@[simp] theorem State.setCl_dirtyReg (c : Nat) (v : Clus) : (s.setCl c v).dirtyReg = s.dirtyReg := rfl
@[simp] theorem State.setCl_mem (c : Nat) (v : Clus) : (s.setCl c v).mem = s.mem := rfl
@[simp] theorem State.setCl_marks (c : Nat) (v : Clus) : (s.setCl c v).marks = s.marks := rfl
@[simp] theorem State.setCl_ecc (c : Nat) (v : Clus) : (s.setCl c v).ecc = s.ecc := rfl
@[simp] theorem State.setCl_dom (c : Nat) (v : Clus) : (s.setCl c v).dom = s.dom := rfl
@[simp] theorem State.setCl_undef (c : Nat) (v : Clus) : (s.setCl c v).undef = s.undef := rfl
@[simp] theorem State.setCl_time (c : Nat) (v : Clus) : (s.setCl c v).time = s.time := rfl
@[simp] theorem State.setCl_cores (c : Nat) (v : Clus) : (s.setCl c v).cores = s.cores := rfl
theorem State.setCl_clus (c : Nat) (v : Clus) : (s.setCl c v).clus = Tab.put Clus.reset s.clus c v := rfl
@[simp] theorem State.setCl_fseq (c : Nat) (v : Clus) : (s.setCl c v).fseq = s.fseq := rfl
@[simp] theorem State.setCl_oryx (c : Nat) (v : Clus) : (s.setCl c v).oryx = s.oryx := rfl
@[simp] theorem State.setCl_meters (c : Nat) (v : Clus) : (s.setCl c v).meters = s.meters := rfl
@[simp] theorem State.setCl_eqSecs (c : Nat) (v : Clus) : (s.setCl c v).eqSecs = s.eqSecs := rfl
@[simp] theorem State.setCl_delay (c : Nat) (v : Clus) : (s.setCl c v).delay = s.delay := rfl
@[simp] theorem State.setCl_ledger (c : Nat) (v : Clus) : (s.setCl c v).ledger = s.ledger := rfl
@[simp] theorem State.setCl_pwr (c : Nat) (v : Clus) : (s.setCl c v).pwr = s.pwr := rfl
@[simp] theorem State.setCl_lanes (c : Nat) (v : Clus) : (s.setCl c v).lanes = s.lanes := rfl
@[simp] theorem State.setCl_ring (c : Nat) (v : Clus) : (s.setCl c v).ring = s.ring := rfl
@[simp] theorem State.setCl_dpll (c : Nat) (v : Clus) : (s.setCl c v).dpll = s.dpll := rfl
@[simp] theorem State.setCl_audio (c : Nat) (v : Clus) : (s.setCl c v).audio = s.audio := rfl
@[simp] theorem State.setCl_startTrig (c : Nat) (v : Clus) : (s.setCl c v).startTrig = s.startTrig := rfl
@[simp] theorem State.setCl_amps (c : Nat) (v : Clus) : (s.setCl c v).amps = s.amps := rfl
@[simp] theorem State.setCl_boosts (c : Nat) (v : Clus) : (s.setCl c v).boosts = s.boosts := rfl
@[simp] theorem State.setCl_cal (c : Nat) (v : Clus) : (s.setCl c v).cal = s.cal := rfl
@[simp] theorem State.setCl_commit (c : Nat) (v : Clus) : (s.setCl c v).commit = s.commit := rfl
@[simp] theorem State.setCl_mgmt (c : Nat) (v : Clus) : (s.setCl c v).mgmt = s.mgmt := rfl
@[simp] theorem State.setCl_pins (c : Nat) (v : Clus) : (s.setCl c v).pins = s.pins := rfl
@[simp] theorem State.setCl_dmas (c : Nat) (v : Clus) : (s.setCl c v).dmas = s.dmas := rfl
@[simp] theorem State.setCl_retries (c : Nat) (v : Clus) : (s.setCl c v).retries = s.retries := rfl
@[simp] theorem State.setCl_vcore (c : Nat) (v : Clus) : (s.setCl c v).vcore = s.vcore := rfl
@[simp] theorem State.setCl_freeCtr (c : Nat) (v : Clus) : (s.setCl c v).freeCtr = s.freeCtr := rfl
@[simp] theorem State.setCl_readData (c : Nat) (v : Clus) : (s.setCl c v).readData = s.readData := rfl
@[simp] theorem State.setCl_respErr (c : Nat) (v : Clus) : (s.setCl c v).respErr = s.respErr := rfl
@[simp] theorem State.setCl_get (c : Nat) (v : Clus) (q : Nat) (g : Fld) : (s.setCl c v).get q g = s.get q g := rfl
@[simp] theorem State.setCl_flag (c : Nat) (v : Clus) (q : Nat) (g : Fld) : (s.setCl c v).flag q g = s.flag q g := rfl

/-! ### clearEcc -/

@[simp] theorem State.clearEcc_pending (l : List (Nat × Byte)) : (s.clearEcc l).pending = s.pending := rfl
@[simp] theorem State.clearEcc_inReset (l : List (Nat × Byte)) : (s.clearEcc l).inReset = s.inReset := rfl
@[simp] theorem State.clearEcc_fld (l : List (Nat × Byte)) : (s.clearEcc l).fld = s.fld := rfl
@[simp] theorem State.clearEcc_shadow (l : List (Nat × Byte)) : (s.clearEcc l).shadow = s.shadow := rfl
@[simp] theorem State.clearEcc_staged (l : List (Nat × Byte)) : (s.clearEcc l).staged = s.staged := rfl
@[simp] theorem State.clearEcc_dirtyTab (l : List (Nat × Byte)) : (s.clearEcc l).dirtyTab = s.dirtyTab := rfl
@[simp] theorem State.clearEcc_dirtyReg (l : List (Nat × Byte)) : (s.clearEcc l).dirtyReg = s.dirtyReg := rfl
@[simp] theorem State.clearEcc_mem (l : List (Nat × Byte)) : (s.clearEcc l).mem = s.mem := rfl
@[simp] theorem State.clearEcc_marks (l : List (Nat × Byte)) : (s.clearEcc l).marks = s.marks := rfl
@[simp] theorem State.clearEcc_dom (l : List (Nat × Byte)) : (s.clearEcc l).dom = s.dom := rfl
@[simp] theorem State.clearEcc_undef (l : List (Nat × Byte)) : (s.clearEcc l).undef = s.undef := rfl
@[simp] theorem State.clearEcc_time (l : List (Nat × Byte)) : (s.clearEcc l).time = s.time := rfl
@[simp] theorem State.clearEcc_cores (l : List (Nat × Byte)) : (s.clearEcc l).cores = s.cores := rfl
@[simp] theorem State.clearEcc_clus (l : List (Nat × Byte)) : (s.clearEcc l).clus = s.clus := rfl
@[simp] theorem State.clearEcc_fseq (l : List (Nat × Byte)) : (s.clearEcc l).fseq = s.fseq := rfl
@[simp] theorem State.clearEcc_oryx (l : List (Nat × Byte)) : (s.clearEcc l).oryx = s.oryx := rfl
@[simp] theorem State.clearEcc_meters (l : List (Nat × Byte)) : (s.clearEcc l).meters = s.meters := rfl
@[simp] theorem State.clearEcc_eqSecs (l : List (Nat × Byte)) : (s.clearEcc l).eqSecs = s.eqSecs := rfl
@[simp] theorem State.clearEcc_delay (l : List (Nat × Byte)) : (s.clearEcc l).delay = s.delay := rfl
@[simp] theorem State.clearEcc_ledger (l : List (Nat × Byte)) : (s.clearEcc l).ledger = s.ledger := rfl
@[simp] theorem State.clearEcc_pwr (l : List (Nat × Byte)) : (s.clearEcc l).pwr = s.pwr := rfl
@[simp] theorem State.clearEcc_lanes (l : List (Nat × Byte)) : (s.clearEcc l).lanes = s.lanes := rfl
@[simp] theorem State.clearEcc_ring (l : List (Nat × Byte)) : (s.clearEcc l).ring = s.ring := rfl
@[simp] theorem State.clearEcc_dpll (l : List (Nat × Byte)) : (s.clearEcc l).dpll = s.dpll := rfl
@[simp] theorem State.clearEcc_audio (l : List (Nat × Byte)) : (s.clearEcc l).audio = s.audio := rfl
@[simp] theorem State.clearEcc_startTrig (l : List (Nat × Byte)) : (s.clearEcc l).startTrig = s.startTrig := rfl
@[simp] theorem State.clearEcc_amps (l : List (Nat × Byte)) : (s.clearEcc l).amps = s.amps := rfl
@[simp] theorem State.clearEcc_boosts (l : List (Nat × Byte)) : (s.clearEcc l).boosts = s.boosts := rfl
@[simp] theorem State.clearEcc_cal (l : List (Nat × Byte)) : (s.clearEcc l).cal = s.cal := rfl
@[simp] theorem State.clearEcc_commit (l : List (Nat × Byte)) : (s.clearEcc l).commit = s.commit := rfl
@[simp] theorem State.clearEcc_mgmt (l : List (Nat × Byte)) : (s.clearEcc l).mgmt = s.mgmt := rfl
@[simp] theorem State.clearEcc_pins (l : List (Nat × Byte)) : (s.clearEcc l).pins = s.pins := rfl
@[simp] theorem State.clearEcc_dmas (l : List (Nat × Byte)) : (s.clearEcc l).dmas = s.dmas := rfl
@[simp] theorem State.clearEcc_retries (l : List (Nat × Byte)) : (s.clearEcc l).retries = s.retries := rfl
@[simp] theorem State.clearEcc_vcore (l : List (Nat × Byte)) : (s.clearEcc l).vcore = s.vcore := rfl
@[simp] theorem State.clearEcc_freeCtr (l : List (Nat × Byte)) : (s.clearEcc l).freeCtr = s.freeCtr := rfl
@[simp] theorem State.clearEcc_readData (l : List (Nat × Byte)) : (s.clearEcc l).readData = s.readData := rfl
@[simp] theorem State.clearEcc_respErr (l : List (Nat × Byte)) : (s.clearEcc l).respErr = s.respErr := rfl
@[simp] theorem State.clearEcc_get (l : List (Nat × Byte)) (q : Nat) (g : Fld) : (s.clearEcc l).get q g = s.get q g := rfl
@[simp] theorem State.clearEcc_flag (l : List (Nat × Byte)) (q : Nat) (g : Fld) : (s.clearEcc l).flag q g = s.flag q g := rfl

/-! ### setStoreEcc -/

@[simp] theorem State.setStoreEcc_pending (a : Nat) (e : Option Ecc) : (s.setStoreEcc a e).pending = s.pending := rfl
@[simp] theorem State.setStoreEcc_inReset (a : Nat) (e : Option Ecc) : (s.setStoreEcc a e).inReset = s.inReset := rfl
@[simp] theorem State.setStoreEcc_fld (a : Nat) (e : Option Ecc) : (s.setStoreEcc a e).fld = s.fld := rfl
@[simp] theorem State.setStoreEcc_shadow (a : Nat) (e : Option Ecc) : (s.setStoreEcc a e).shadow = s.shadow := rfl
@[simp] theorem State.setStoreEcc_staged (a : Nat) (e : Option Ecc) : (s.setStoreEcc a e).staged = s.staged := rfl
@[simp] theorem State.setStoreEcc_dirtyTab (a : Nat) (e : Option Ecc) : (s.setStoreEcc a e).dirtyTab = s.dirtyTab := rfl
@[simp] theorem State.setStoreEcc_dirtyReg (a : Nat) (e : Option Ecc) : (s.setStoreEcc a e).dirtyReg = s.dirtyReg := rfl
@[simp] theorem State.setStoreEcc_mem (a : Nat) (e : Option Ecc) : (s.setStoreEcc a e).mem = s.mem := rfl
@[simp] theorem State.setStoreEcc_marks (a : Nat) (e : Option Ecc) : (s.setStoreEcc a e).marks = s.marks := rfl
@[simp] theorem State.setStoreEcc_dom (a : Nat) (e : Option Ecc) : (s.setStoreEcc a e).dom = s.dom := rfl
@[simp] theorem State.setStoreEcc_undef (a : Nat) (e : Option Ecc) : (s.setStoreEcc a e).undef = s.undef := rfl
@[simp] theorem State.setStoreEcc_time (a : Nat) (e : Option Ecc) : (s.setStoreEcc a e).time = s.time := rfl
@[simp] theorem State.setStoreEcc_cores (a : Nat) (e : Option Ecc) : (s.setStoreEcc a e).cores = s.cores := rfl
@[simp] theorem State.setStoreEcc_clus (a : Nat) (e : Option Ecc) : (s.setStoreEcc a e).clus = s.clus := rfl
@[simp] theorem State.setStoreEcc_fseq (a : Nat) (e : Option Ecc) : (s.setStoreEcc a e).fseq = s.fseq := rfl
@[simp] theorem State.setStoreEcc_oryx (a : Nat) (e : Option Ecc) : (s.setStoreEcc a e).oryx = s.oryx := rfl
@[simp] theorem State.setStoreEcc_meters (a : Nat) (e : Option Ecc) : (s.setStoreEcc a e).meters = s.meters := rfl
@[simp] theorem State.setStoreEcc_eqSecs (a : Nat) (e : Option Ecc) : (s.setStoreEcc a e).eqSecs = s.eqSecs := rfl
@[simp] theorem State.setStoreEcc_delay (a : Nat) (e : Option Ecc) : (s.setStoreEcc a e).delay = s.delay := rfl
@[simp] theorem State.setStoreEcc_ledger (a : Nat) (e : Option Ecc) : (s.setStoreEcc a e).ledger = s.ledger := rfl
@[simp] theorem State.setStoreEcc_pwr (a : Nat) (e : Option Ecc) : (s.setStoreEcc a e).pwr = s.pwr := rfl
@[simp] theorem State.setStoreEcc_lanes (a : Nat) (e : Option Ecc) : (s.setStoreEcc a e).lanes = s.lanes := rfl
@[simp] theorem State.setStoreEcc_ring (a : Nat) (e : Option Ecc) : (s.setStoreEcc a e).ring = s.ring := rfl
@[simp] theorem State.setStoreEcc_dpll (a : Nat) (e : Option Ecc) : (s.setStoreEcc a e).dpll = s.dpll := rfl
@[simp] theorem State.setStoreEcc_audio (a : Nat) (e : Option Ecc) : (s.setStoreEcc a e).audio = s.audio := rfl
@[simp] theorem State.setStoreEcc_startTrig (a : Nat) (e : Option Ecc) : (s.setStoreEcc a e).startTrig = s.startTrig := rfl
@[simp] theorem State.setStoreEcc_amps (a : Nat) (e : Option Ecc) : (s.setStoreEcc a e).amps = s.amps := rfl
@[simp] theorem State.setStoreEcc_boosts (a : Nat) (e : Option Ecc) : (s.setStoreEcc a e).boosts = s.boosts := rfl
@[simp] theorem State.setStoreEcc_cal (a : Nat) (e : Option Ecc) : (s.setStoreEcc a e).cal = s.cal := rfl
@[simp] theorem State.setStoreEcc_commit (a : Nat) (e : Option Ecc) : (s.setStoreEcc a e).commit = s.commit := rfl
@[simp] theorem State.setStoreEcc_mgmt (a : Nat) (e : Option Ecc) : (s.setStoreEcc a e).mgmt = s.mgmt := rfl
@[simp] theorem State.setStoreEcc_pins (a : Nat) (e : Option Ecc) : (s.setStoreEcc a e).pins = s.pins := rfl
@[simp] theorem State.setStoreEcc_dmas (a : Nat) (e : Option Ecc) : (s.setStoreEcc a e).dmas = s.dmas := rfl
@[simp] theorem State.setStoreEcc_retries (a : Nat) (e : Option Ecc) : (s.setStoreEcc a e).retries = s.retries := rfl
@[simp] theorem State.setStoreEcc_vcore (a : Nat) (e : Option Ecc) : (s.setStoreEcc a e).vcore = s.vcore := rfl
@[simp] theorem State.setStoreEcc_freeCtr (a : Nat) (e : Option Ecc) : (s.setStoreEcc a e).freeCtr = s.freeCtr := rfl
@[simp] theorem State.setStoreEcc_readData (a : Nat) (e : Option Ecc) : (s.setStoreEcc a e).readData = s.readData := rfl
@[simp] theorem State.setStoreEcc_respErr (a : Nat) (e : Option Ecc) : (s.setStoreEcc a e).respErr = s.respErr := rfl
@[simp] theorem State.setStoreEcc_get (a : Nat) (e : Option Ecc) (q : Nat) (g : Fld) : (s.setStoreEcc a e).get q g = s.get q g := rfl
@[simp] theorem State.setStoreEcc_flag (a : Nat) (e : Option Ecc) (q : Nat) (g : Fld) : (s.setStoreEcc a e).flag q g = s.flag q g := rfl

/-! ### setRamp -/

@[simp] theorem State.setRamp_pending (k : Nat) (r : Ramp) : (s.setRamp k r).pending = s.pending := rfl
@[simp] theorem State.setRamp_inReset (k : Nat) (r : Ramp) : (s.setRamp k r).inReset = s.inReset := rfl
@[simp] theorem State.setRamp_fld (k : Nat) (r : Ramp) : (s.setRamp k r).fld = s.fld := rfl
@[simp] theorem State.setRamp_shadow (k : Nat) (r : Ramp) : (s.setRamp k r).shadow = s.shadow := rfl
@[simp] theorem State.setRamp_staged (k : Nat) (r : Ramp) : (s.setRamp k r).staged = s.staged := rfl
@[simp] theorem State.setRamp_dirtyTab (k : Nat) (r : Ramp) : (s.setRamp k r).dirtyTab = s.dirtyTab := rfl
@[simp] theorem State.setRamp_dirtyReg (k : Nat) (r : Ramp) : (s.setRamp k r).dirtyReg = s.dirtyReg := rfl
@[simp] theorem State.setRamp_mem (k : Nat) (r : Ramp) : (s.setRamp k r).mem = s.mem := rfl
@[simp] theorem State.setRamp_marks (k : Nat) (r : Ramp) : (s.setRamp k r).marks = s.marks := rfl
@[simp] theorem State.setRamp_ecc (k : Nat) (r : Ramp) : (s.setRamp k r).ecc = s.ecc := rfl
@[simp] theorem State.setRamp_dom (k : Nat) (r : Ramp) : (s.setRamp k r).dom = s.dom := rfl
@[simp] theorem State.setRamp_undef (k : Nat) (r : Ramp) : (s.setRamp k r).undef = s.undef := rfl
@[simp] theorem State.setRamp_time (k : Nat) (r : Ramp) : (s.setRamp k r).time = s.time := rfl
@[simp] theorem State.setRamp_cores (k : Nat) (r : Ramp) : (s.setRamp k r).cores = s.cores := rfl
@[simp] theorem State.setRamp_clus (k : Nat) (r : Ramp) : (s.setRamp k r).clus = s.clus := rfl
@[simp] theorem State.setRamp_fseq (k : Nat) (r : Ramp) : (s.setRamp k r).fseq = s.fseq := rfl
@[simp] theorem State.setRamp_meters (k : Nat) (r : Ramp) : (s.setRamp k r).meters = s.meters := rfl
@[simp] theorem State.setRamp_eqSecs (k : Nat) (r : Ramp) : (s.setRamp k r).eqSecs = s.eqSecs := rfl
@[simp] theorem State.setRamp_delay (k : Nat) (r : Ramp) : (s.setRamp k r).delay = s.delay := rfl
@[simp] theorem State.setRamp_ledger (k : Nat) (r : Ramp) : (s.setRamp k r).ledger = s.ledger := rfl
@[simp] theorem State.setRamp_pwr (k : Nat) (r : Ramp) : (s.setRamp k r).pwr = s.pwr := rfl
@[simp] theorem State.setRamp_lanes (k : Nat) (r : Ramp) : (s.setRamp k r).lanes = s.lanes := rfl
@[simp] theorem State.setRamp_ring (k : Nat) (r : Ramp) : (s.setRamp k r).ring = s.ring := rfl
@[simp] theorem State.setRamp_dpll (k : Nat) (r : Ramp) : (s.setRamp k r).dpll = s.dpll := rfl
@[simp] theorem State.setRamp_audio (k : Nat) (r : Ramp) : (s.setRamp k r).audio = s.audio := rfl
@[simp] theorem State.setRamp_startTrig (k : Nat) (r : Ramp) : (s.setRamp k r).startTrig = s.startTrig := rfl
@[simp] theorem State.setRamp_amps (k : Nat) (r : Ramp) : (s.setRamp k r).amps = s.amps := rfl
@[simp] theorem State.setRamp_boosts (k : Nat) (r : Ramp) : (s.setRamp k r).boosts = s.boosts := rfl
@[simp] theorem State.setRamp_cal (k : Nat) (r : Ramp) : (s.setRamp k r).cal = s.cal := rfl
@[simp] theorem State.setRamp_commit (k : Nat) (r : Ramp) : (s.setRamp k r).commit = s.commit := rfl
@[simp] theorem State.setRamp_mgmt (k : Nat) (r : Ramp) : (s.setRamp k r).mgmt = s.mgmt := rfl
@[simp] theorem State.setRamp_pins (k : Nat) (r : Ramp) : (s.setRamp k r).pins = s.pins := rfl
@[simp] theorem State.setRamp_dmas (k : Nat) (r : Ramp) : (s.setRamp k r).dmas = s.dmas := rfl
@[simp] theorem State.setRamp_retries (k : Nat) (r : Ramp) : (s.setRamp k r).retries = s.retries := rfl
@[simp] theorem State.setRamp_vcore (k : Nat) (r : Ramp) : (s.setRamp k r).vcore = s.vcore := rfl
@[simp] theorem State.setRamp_freeCtr (k : Nat) (r : Ramp) : (s.setRamp k r).freeCtr = s.freeCtr := rfl
@[simp] theorem State.setRamp_readData (k : Nat) (r : Ramp) : (s.setRamp k r).readData = s.readData := rfl
@[simp] theorem State.setRamp_respErr (k : Nat) (r : Ramp) : (s.setRamp k r).respErr = s.respErr := rfl
@[simp] theorem State.setRamp_get (k : Nat) (r : Ramp) (q : Nat) (g : Fld) : (s.setRamp k r).get q g = s.get q g := rfl
@[simp] theorem State.setRamp_flag (k : Nat) (r : Ramp) (q : Nat) (g : Fld) : (s.setRamp k r).flag q g = s.flag q g := rfl

/-! ### setFade -/

@[simp] theorem State.setFade_pending (k : Nat) (f : Option Fade) : (s.setFade k f).pending = s.pending := rfl
@[simp] theorem State.setFade_inReset (k : Nat) (f : Option Fade) : (s.setFade k f).inReset = s.inReset := rfl
@[simp] theorem State.setFade_fld (k : Nat) (f : Option Fade) : (s.setFade k f).fld = s.fld := rfl
@[simp] theorem State.setFade_shadow (k : Nat) (f : Option Fade) : (s.setFade k f).shadow = s.shadow := rfl
@[simp] theorem State.setFade_staged (k : Nat) (f : Option Fade) : (s.setFade k f).staged = s.staged := rfl
@[simp] theorem State.setFade_dirtyTab (k : Nat) (f : Option Fade) : (s.setFade k f).dirtyTab = s.dirtyTab := rfl
@[simp] theorem State.setFade_dirtyReg (k : Nat) (f : Option Fade) : (s.setFade k f).dirtyReg = s.dirtyReg := rfl
@[simp] theorem State.setFade_mem (k : Nat) (f : Option Fade) : (s.setFade k f).mem = s.mem := rfl
@[simp] theorem State.setFade_marks (k : Nat) (f : Option Fade) : (s.setFade k f).marks = s.marks := rfl
@[simp] theorem State.setFade_ecc (k : Nat) (f : Option Fade) : (s.setFade k f).ecc = s.ecc := rfl
@[simp] theorem State.setFade_dom (k : Nat) (f : Option Fade) : (s.setFade k f).dom = s.dom := rfl
@[simp] theorem State.setFade_undef (k : Nat) (f : Option Fade) : (s.setFade k f).undef = s.undef := rfl
@[simp] theorem State.setFade_time (k : Nat) (f : Option Fade) : (s.setFade k f).time = s.time := rfl
@[simp] theorem State.setFade_cores (k : Nat) (f : Option Fade) : (s.setFade k f).cores = s.cores := rfl
@[simp] theorem State.setFade_clus (k : Nat) (f : Option Fade) : (s.setFade k f).clus = s.clus := rfl
@[simp] theorem State.setFade_fseq (k : Nat) (f : Option Fade) : (s.setFade k f).fseq = s.fseq := rfl
@[simp] theorem State.setFade_meters (k : Nat) (f : Option Fade) : (s.setFade k f).meters = s.meters := rfl
@[simp] theorem State.setFade_eqSecs (k : Nat) (f : Option Fade) : (s.setFade k f).eqSecs = s.eqSecs := rfl
@[simp] theorem State.setFade_delay (k : Nat) (f : Option Fade) : (s.setFade k f).delay = s.delay := rfl
@[simp] theorem State.setFade_ledger (k : Nat) (f : Option Fade) : (s.setFade k f).ledger = s.ledger := rfl
@[simp] theorem State.setFade_pwr (k : Nat) (f : Option Fade) : (s.setFade k f).pwr = s.pwr := rfl
@[simp] theorem State.setFade_lanes (k : Nat) (f : Option Fade) : (s.setFade k f).lanes = s.lanes := rfl
@[simp] theorem State.setFade_ring (k : Nat) (f : Option Fade) : (s.setFade k f).ring = s.ring := rfl
@[simp] theorem State.setFade_dpll (k : Nat) (f : Option Fade) : (s.setFade k f).dpll = s.dpll := rfl
@[simp] theorem State.setFade_audio (k : Nat) (f : Option Fade) : (s.setFade k f).audio = s.audio := rfl
@[simp] theorem State.setFade_startTrig (k : Nat) (f : Option Fade) : (s.setFade k f).startTrig = s.startTrig := rfl
@[simp] theorem State.setFade_amps (k : Nat) (f : Option Fade) : (s.setFade k f).amps = s.amps := rfl
@[simp] theorem State.setFade_boosts (k : Nat) (f : Option Fade) : (s.setFade k f).boosts = s.boosts := rfl
@[simp] theorem State.setFade_cal (k : Nat) (f : Option Fade) : (s.setFade k f).cal = s.cal := rfl
@[simp] theorem State.setFade_commit (k : Nat) (f : Option Fade) : (s.setFade k f).commit = s.commit := rfl
@[simp] theorem State.setFade_mgmt (k : Nat) (f : Option Fade) : (s.setFade k f).mgmt = s.mgmt := rfl
@[simp] theorem State.setFade_pins (k : Nat) (f : Option Fade) : (s.setFade k f).pins = s.pins := rfl
@[simp] theorem State.setFade_dmas (k : Nat) (f : Option Fade) : (s.setFade k f).dmas = s.dmas := rfl
@[simp] theorem State.setFade_retries (k : Nat) (f : Option Fade) : (s.setFade k f).retries = s.retries := rfl
@[simp] theorem State.setFade_vcore (k : Nat) (f : Option Fade) : (s.setFade k f).vcore = s.vcore := rfl
@[simp] theorem State.setFade_freeCtr (k : Nat) (f : Option Fade) : (s.setFade k f).freeCtr = s.freeCtr := rfl
@[simp] theorem State.setFade_readData (k : Nat) (f : Option Fade) : (s.setFade k f).readData = s.readData := rfl
@[simp] theorem State.setFade_respErr (k : Nat) (f : Option Fade) : (s.setFade k f).respErr = s.respErr := rfl
@[simp] theorem State.setFade_get (k : Nat) (f : Option Fade) (q : Nat) (g : Fld) : (s.setFade k f).get q g = s.get q g := rfl
@[simp] theorem State.setFade_flag (k : Nat) (f : Option Fade) (q : Nat) (g : Fld) : (s.setFade k f).flag q g = s.flag q g := rfl

/-! ### setMeter -/

@[simp] theorem State.setMeter_pending (c : Nat) (m : Meter) : (s.setMeter c m).pending = s.pending := rfl
@[simp] theorem State.setMeter_inReset (c : Nat) (m : Meter) : (s.setMeter c m).inReset = s.inReset := rfl
@[simp] theorem State.setMeter_fld (c : Nat) (m : Meter) : (s.setMeter c m).fld = s.fld := rfl
@[simp] theorem State.setMeter_shadow (c : Nat) (m : Meter) : (s.setMeter c m).shadow = s.shadow := rfl
@[simp] theorem State.setMeter_staged (c : Nat) (m : Meter) : (s.setMeter c m).staged = s.staged := rfl
@[simp] theorem State.setMeter_dirtyTab (c : Nat) (m : Meter) : (s.setMeter c m).dirtyTab = s.dirtyTab := rfl
@[simp] theorem State.setMeter_dirtyReg (c : Nat) (m : Meter) : (s.setMeter c m).dirtyReg = s.dirtyReg := rfl
@[simp] theorem State.setMeter_mem (c : Nat) (m : Meter) : (s.setMeter c m).mem = s.mem := rfl
@[simp] theorem State.setMeter_marks (c : Nat) (m : Meter) : (s.setMeter c m).marks = s.marks := rfl
@[simp] theorem State.setMeter_ecc (c : Nat) (m : Meter) : (s.setMeter c m).ecc = s.ecc := rfl
@[simp] theorem State.setMeter_dom (c : Nat) (m : Meter) : (s.setMeter c m).dom = s.dom := rfl
@[simp] theorem State.setMeter_undef (c : Nat) (m : Meter) : (s.setMeter c m).undef = s.undef := rfl
@[simp] theorem State.setMeter_time (c : Nat) (m : Meter) : (s.setMeter c m).time = s.time := rfl
@[simp] theorem State.setMeter_cores (c : Nat) (m : Meter) : (s.setMeter c m).cores = s.cores := rfl
@[simp] theorem State.setMeter_clus (c : Nat) (m : Meter) : (s.setMeter c m).clus = s.clus := rfl
@[simp] theorem State.setMeter_fseq (c : Nat) (m : Meter) : (s.setMeter c m).fseq = s.fseq := rfl
@[simp] theorem State.setMeter_oryx (c : Nat) (m : Meter) : (s.setMeter c m).oryx = s.oryx := rfl
@[simp] theorem State.setMeter_eqSecs (c : Nat) (m : Meter) : (s.setMeter c m).eqSecs = s.eqSecs := rfl
@[simp] theorem State.setMeter_delay (c : Nat) (m : Meter) : (s.setMeter c m).delay = s.delay := rfl
@[simp] theorem State.setMeter_ledger (c : Nat) (m : Meter) : (s.setMeter c m).ledger = s.ledger := rfl
@[simp] theorem State.setMeter_pwr (c : Nat) (m : Meter) : (s.setMeter c m).pwr = s.pwr := rfl
@[simp] theorem State.setMeter_lanes (c : Nat) (m : Meter) : (s.setMeter c m).lanes = s.lanes := rfl
@[simp] theorem State.setMeter_ring (c : Nat) (m : Meter) : (s.setMeter c m).ring = s.ring := rfl
@[simp] theorem State.setMeter_dpll (c : Nat) (m : Meter) : (s.setMeter c m).dpll = s.dpll := rfl
@[simp] theorem State.setMeter_audio (c : Nat) (m : Meter) : (s.setMeter c m).audio = s.audio := rfl
@[simp] theorem State.setMeter_startTrig (c : Nat) (m : Meter) : (s.setMeter c m).startTrig = s.startTrig := rfl
@[simp] theorem State.setMeter_amps (c : Nat) (m : Meter) : (s.setMeter c m).amps = s.amps := rfl
@[simp] theorem State.setMeter_boosts (c : Nat) (m : Meter) : (s.setMeter c m).boosts = s.boosts := rfl
@[simp] theorem State.setMeter_cal (c : Nat) (m : Meter) : (s.setMeter c m).cal = s.cal := rfl
@[simp] theorem State.setMeter_commit (c : Nat) (m : Meter) : (s.setMeter c m).commit = s.commit := rfl
@[simp] theorem State.setMeter_mgmt (c : Nat) (m : Meter) : (s.setMeter c m).mgmt = s.mgmt := rfl
@[simp] theorem State.setMeter_pins (c : Nat) (m : Meter) : (s.setMeter c m).pins = s.pins := rfl
@[simp] theorem State.setMeter_dmas (c : Nat) (m : Meter) : (s.setMeter c m).dmas = s.dmas := rfl
@[simp] theorem State.setMeter_retries (c : Nat) (m : Meter) : (s.setMeter c m).retries = s.retries := rfl
@[simp] theorem State.setMeter_vcore (c : Nat) (m : Meter) : (s.setMeter c m).vcore = s.vcore := rfl
@[simp] theorem State.setMeter_freeCtr (c : Nat) (m : Meter) : (s.setMeter c m).freeCtr = s.freeCtr := rfl
@[simp] theorem State.setMeter_readData (c : Nat) (m : Meter) : (s.setMeter c m).readData = s.readData := rfl
@[simp] theorem State.setMeter_respErr (c : Nat) (m : Meter) : (s.setMeter c m).respErr = s.respErr := rfl
@[simp] theorem State.setMeter_get (c : Nat) (m : Meter) (q : Nat) (g : Fld) : (s.setMeter c m).get q g = s.get q g := rfl
@[simp] theorem State.setMeter_flag (c : Nat) (m : Meter) (q : Nat) (g : Fld) : (s.setMeter c m).flag q g = s.flag q g := rfl

/-! ### setEqSec -/

@[simp] theorem State.setEqSec_pending (c k : Nat) (e : EqSec) : (s.setEqSec c k e).pending = s.pending := rfl
@[simp] theorem State.setEqSec_inReset (c k : Nat) (e : EqSec) : (s.setEqSec c k e).inReset = s.inReset := rfl
@[simp] theorem State.setEqSec_fld (c k : Nat) (e : EqSec) : (s.setEqSec c k e).fld = s.fld := rfl
@[simp] theorem State.setEqSec_shadow (c k : Nat) (e : EqSec) : (s.setEqSec c k e).shadow = s.shadow := rfl
@[simp] theorem State.setEqSec_staged (c k : Nat) (e : EqSec) : (s.setEqSec c k e).staged = s.staged := rfl
@[simp] theorem State.setEqSec_dirtyTab (c k : Nat) (e : EqSec) : (s.setEqSec c k e).dirtyTab = s.dirtyTab := rfl
@[simp] theorem State.setEqSec_dirtyReg (c k : Nat) (e : EqSec) : (s.setEqSec c k e).dirtyReg = s.dirtyReg := rfl
@[simp] theorem State.setEqSec_mem (c k : Nat) (e : EqSec) : (s.setEqSec c k e).mem = s.mem := rfl
@[simp] theorem State.setEqSec_marks (c k : Nat) (e : EqSec) : (s.setEqSec c k e).marks = s.marks := rfl
@[simp] theorem State.setEqSec_ecc (c k : Nat) (e : EqSec) : (s.setEqSec c k e).ecc = s.ecc := rfl
@[simp] theorem State.setEqSec_dom (c k : Nat) (e : EqSec) : (s.setEqSec c k e).dom = s.dom := rfl
@[simp] theorem State.setEqSec_undef (c k : Nat) (e : EqSec) : (s.setEqSec c k e).undef = s.undef := rfl
@[simp] theorem State.setEqSec_time (c k : Nat) (e : EqSec) : (s.setEqSec c k e).time = s.time := rfl
@[simp] theorem State.setEqSec_cores (c k : Nat) (e : EqSec) : (s.setEqSec c k e).cores = s.cores := rfl
@[simp] theorem State.setEqSec_clus (c k : Nat) (e : EqSec) : (s.setEqSec c k e).clus = s.clus := rfl
@[simp] theorem State.setEqSec_fseq (c k : Nat) (e : EqSec) : (s.setEqSec c k e).fseq = s.fseq := rfl
@[simp] theorem State.setEqSec_oryx (c k : Nat) (e : EqSec) : (s.setEqSec c k e).oryx = s.oryx := rfl
@[simp] theorem State.setEqSec_meters (c k : Nat) (e : EqSec) : (s.setEqSec c k e).meters = s.meters := rfl
@[simp] theorem State.setEqSec_delay (c k : Nat) (e : EqSec) : (s.setEqSec c k e).delay = s.delay := rfl
@[simp] theorem State.setEqSec_ledger (c k : Nat) (e : EqSec) : (s.setEqSec c k e).ledger = s.ledger := rfl
@[simp] theorem State.setEqSec_pwr (c k : Nat) (e : EqSec) : (s.setEqSec c k e).pwr = s.pwr := rfl
@[simp] theorem State.setEqSec_lanes (c k : Nat) (e : EqSec) : (s.setEqSec c k e).lanes = s.lanes := rfl
@[simp] theorem State.setEqSec_ring (c k : Nat) (e : EqSec) : (s.setEqSec c k e).ring = s.ring := rfl
@[simp] theorem State.setEqSec_dpll (c k : Nat) (e : EqSec) : (s.setEqSec c k e).dpll = s.dpll := rfl
@[simp] theorem State.setEqSec_audio (c k : Nat) (e : EqSec) : (s.setEqSec c k e).audio = s.audio := rfl
@[simp] theorem State.setEqSec_startTrig (c k : Nat) (e : EqSec) : (s.setEqSec c k e).startTrig = s.startTrig := rfl
@[simp] theorem State.setEqSec_amps (c k : Nat) (e : EqSec) : (s.setEqSec c k e).amps = s.amps := rfl
@[simp] theorem State.setEqSec_boosts (c k : Nat) (e : EqSec) : (s.setEqSec c k e).boosts = s.boosts := rfl
@[simp] theorem State.setEqSec_cal (c k : Nat) (e : EqSec) : (s.setEqSec c k e).cal = s.cal := rfl
@[simp] theorem State.setEqSec_commit (c k : Nat) (e : EqSec) : (s.setEqSec c k e).commit = s.commit := rfl
@[simp] theorem State.setEqSec_mgmt (c k : Nat) (e : EqSec) : (s.setEqSec c k e).mgmt = s.mgmt := rfl
@[simp] theorem State.setEqSec_pins (c k : Nat) (e : EqSec) : (s.setEqSec c k e).pins = s.pins := rfl
@[simp] theorem State.setEqSec_dmas (c k : Nat) (e : EqSec) : (s.setEqSec c k e).dmas = s.dmas := rfl
@[simp] theorem State.setEqSec_retries (c k : Nat) (e : EqSec) : (s.setEqSec c k e).retries = s.retries := rfl
@[simp] theorem State.setEqSec_vcore (c k : Nat) (e : EqSec) : (s.setEqSec c k e).vcore = s.vcore := rfl
@[simp] theorem State.setEqSec_freeCtr (c k : Nat) (e : EqSec) : (s.setEqSec c k e).freeCtr = s.freeCtr := rfl
@[simp] theorem State.setEqSec_readData (c k : Nat) (e : EqSec) : (s.setEqSec c k e).readData = s.readData := rfl
@[simp] theorem State.setEqSec_respErr (c k : Nat) (e : EqSec) : (s.setEqSec c k e).respErr = s.respErr := rfl
@[simp] theorem State.setEqSec_get (c k : Nat) (e : EqSec) (q : Nat) (g : Fld) : (s.setEqSec c k e).get q g = s.get q g := rfl
@[simp] theorem State.setEqSec_flag (c k : Nat) (e : EqSec) (q : Nat) (g : Fld) : (s.setEqSec c k e).flag q g = s.flag q g := rfl

/-! ### setTap -/

@[simp] theorem State.setTap_pending (i : Nat) (t : Tap) : (s.setTap i t).pending = s.pending := rfl
@[simp] theorem State.setTap_inReset (i : Nat) (t : Tap) : (s.setTap i t).inReset = s.inReset := rfl
@[simp] theorem State.setTap_fld (i : Nat) (t : Tap) : (s.setTap i t).fld = s.fld := rfl
@[simp] theorem State.setTap_shadow (i : Nat) (t : Tap) : (s.setTap i t).shadow = s.shadow := rfl
@[simp] theorem State.setTap_staged (i : Nat) (t : Tap) : (s.setTap i t).staged = s.staged := rfl
@[simp] theorem State.setTap_dirtyTab (i : Nat) (t : Tap) : (s.setTap i t).dirtyTab = s.dirtyTab := rfl
@[simp] theorem State.setTap_dirtyReg (i : Nat) (t : Tap) : (s.setTap i t).dirtyReg = s.dirtyReg := rfl
@[simp] theorem State.setTap_mem (i : Nat) (t : Tap) : (s.setTap i t).mem = s.mem := rfl
@[simp] theorem State.setTap_marks (i : Nat) (t : Tap) : (s.setTap i t).marks = s.marks := rfl
@[simp] theorem State.setTap_ecc (i : Nat) (t : Tap) : (s.setTap i t).ecc = s.ecc := rfl
@[simp] theorem State.setTap_dom (i : Nat) (t : Tap) : (s.setTap i t).dom = s.dom := rfl
@[simp] theorem State.setTap_undef (i : Nat) (t : Tap) : (s.setTap i t).undef = s.undef := rfl
@[simp] theorem State.setTap_time (i : Nat) (t : Tap) : (s.setTap i t).time = s.time := rfl
@[simp] theorem State.setTap_cores (i : Nat) (t : Tap) : (s.setTap i t).cores = s.cores := rfl
@[simp] theorem State.setTap_clus (i : Nat) (t : Tap) : (s.setTap i t).clus = s.clus := rfl
@[simp] theorem State.setTap_fseq (i : Nat) (t : Tap) : (s.setTap i t).fseq = s.fseq := rfl
@[simp] theorem State.setTap_oryx (i : Nat) (t : Tap) : (s.setTap i t).oryx = s.oryx := rfl
@[simp] theorem State.setTap_meters (i : Nat) (t : Tap) : (s.setTap i t).meters = s.meters := rfl
@[simp] theorem State.setTap_eqSecs (i : Nat) (t : Tap) : (s.setTap i t).eqSecs = s.eqSecs := rfl
@[simp] theorem State.setTap_ledger (i : Nat) (t : Tap) : (s.setTap i t).ledger = s.ledger := rfl
@[simp] theorem State.setTap_pwr (i : Nat) (t : Tap) : (s.setTap i t).pwr = s.pwr := rfl
@[simp] theorem State.setTap_lanes (i : Nat) (t : Tap) : (s.setTap i t).lanes = s.lanes := rfl
@[simp] theorem State.setTap_ring (i : Nat) (t : Tap) : (s.setTap i t).ring = s.ring := rfl
@[simp] theorem State.setTap_dpll (i : Nat) (t : Tap) : (s.setTap i t).dpll = s.dpll := rfl
@[simp] theorem State.setTap_audio (i : Nat) (t : Tap) : (s.setTap i t).audio = s.audio := rfl
@[simp] theorem State.setTap_startTrig (i : Nat) (t : Tap) : (s.setTap i t).startTrig = s.startTrig := rfl
@[simp] theorem State.setTap_amps (i : Nat) (t : Tap) : (s.setTap i t).amps = s.amps := rfl
@[simp] theorem State.setTap_boosts (i : Nat) (t : Tap) : (s.setTap i t).boosts = s.boosts := rfl
@[simp] theorem State.setTap_cal (i : Nat) (t : Tap) : (s.setTap i t).cal = s.cal := rfl
@[simp] theorem State.setTap_commit (i : Nat) (t : Tap) : (s.setTap i t).commit = s.commit := rfl
@[simp] theorem State.setTap_mgmt (i : Nat) (t : Tap) : (s.setTap i t).mgmt = s.mgmt := rfl
@[simp] theorem State.setTap_pins (i : Nat) (t : Tap) : (s.setTap i t).pins = s.pins := rfl
@[simp] theorem State.setTap_dmas (i : Nat) (t : Tap) : (s.setTap i t).dmas = s.dmas := rfl
@[simp] theorem State.setTap_retries (i : Nat) (t : Tap) : (s.setTap i t).retries = s.retries := rfl
@[simp] theorem State.setTap_vcore (i : Nat) (t : Tap) : (s.setTap i t).vcore = s.vcore := rfl
@[simp] theorem State.setTap_freeCtr (i : Nat) (t : Tap) : (s.setTap i t).freeCtr = s.freeCtr := rfl
@[simp] theorem State.setTap_readData (i : Nat) (t : Tap) : (s.setTap i t).readData = s.readData := rfl
@[simp] theorem State.setTap_respErr (i : Nat) (t : Tap) : (s.setTap i t).respErr = s.respErr := rfl
@[simp] theorem State.setTap_get (i : Nat) (t : Tap) (q : Nat) (g : Fld) : (s.setTap i t).get q g = s.get q g := rfl
@[simp] theorem State.setTap_flag (i : Nat) (t : Tap) (q : Nat) (g : Fld) : (s.setTap i t).flag q g = s.flag q g := rfl

/-! ### setLane -/

@[simp] theorem State.setLane_pending (l : Nat) (v : Lane) : (s.setLane l v).pending = s.pending := rfl
@[simp] theorem State.setLane_inReset (l : Nat) (v : Lane) : (s.setLane l v).inReset = s.inReset := rfl
@[simp] theorem State.setLane_fld (l : Nat) (v : Lane) : (s.setLane l v).fld = s.fld := rfl
@[simp] theorem State.setLane_shadow (l : Nat) (v : Lane) : (s.setLane l v).shadow = s.shadow := rfl
@[simp] theorem State.setLane_staged (l : Nat) (v : Lane) : (s.setLane l v).staged = s.staged := rfl
@[simp] theorem State.setLane_dirtyTab (l : Nat) (v : Lane) : (s.setLane l v).dirtyTab = s.dirtyTab := rfl
@[simp] theorem State.setLane_dirtyReg (l : Nat) (v : Lane) : (s.setLane l v).dirtyReg = s.dirtyReg := rfl
@[simp] theorem State.setLane_mem (l : Nat) (v : Lane) : (s.setLane l v).mem = s.mem := rfl
@[simp] theorem State.setLane_marks (l : Nat) (v : Lane) : (s.setLane l v).marks = s.marks := rfl
@[simp] theorem State.setLane_ecc (l : Nat) (v : Lane) : (s.setLane l v).ecc = s.ecc := rfl
@[simp] theorem State.setLane_dom (l : Nat) (v : Lane) : (s.setLane l v).dom = s.dom := rfl
@[simp] theorem State.setLane_undef (l : Nat) (v : Lane) : (s.setLane l v).undef = s.undef := rfl
@[simp] theorem State.setLane_time (l : Nat) (v : Lane) : (s.setLane l v).time = s.time := rfl
@[simp] theorem State.setLane_cores (l : Nat) (v : Lane) : (s.setLane l v).cores = s.cores := rfl
@[simp] theorem State.setLane_clus (l : Nat) (v : Lane) : (s.setLane l v).clus = s.clus := rfl
@[simp] theorem State.setLane_fseq (l : Nat) (v : Lane) : (s.setLane l v).fseq = s.fseq := rfl
@[simp] theorem State.setLane_oryx (l : Nat) (v : Lane) : (s.setLane l v).oryx = s.oryx := rfl
@[simp] theorem State.setLane_meters (l : Nat) (v : Lane) : (s.setLane l v).meters = s.meters := rfl
@[simp] theorem State.setLane_eqSecs (l : Nat) (v : Lane) : (s.setLane l v).eqSecs = s.eqSecs := rfl
@[simp] theorem State.setLane_delay (l : Nat) (v : Lane) : (s.setLane l v).delay = s.delay := rfl
@[simp] theorem State.setLane_ledger (l : Nat) (v : Lane) : (s.setLane l v).ledger = s.ledger := rfl
@[simp] theorem State.setLane_pwr (l : Nat) (v : Lane) : (s.setLane l v).pwr = s.pwr := rfl
theorem State.setLane_lanes (l : Nat) (v : Lane) : (s.setLane l v).lanes = Tab.put Lane.reset s.lanes l v := rfl
@[simp] theorem State.setLane_ring (l : Nat) (v : Lane) : (s.setLane l v).ring = s.ring := rfl
@[simp] theorem State.setLane_dpll (l : Nat) (v : Lane) : (s.setLane l v).dpll = s.dpll := rfl
@[simp] theorem State.setLane_audio (l : Nat) (v : Lane) : (s.setLane l v).audio = s.audio := rfl
@[simp] theorem State.setLane_startTrig (l : Nat) (v : Lane) : (s.setLane l v).startTrig = s.startTrig := rfl
@[simp] theorem State.setLane_amps (l : Nat) (v : Lane) : (s.setLane l v).amps = s.amps := rfl
@[simp] theorem State.setLane_boosts (l : Nat) (v : Lane) : (s.setLane l v).boosts = s.boosts := rfl
@[simp] theorem State.setLane_cal (l : Nat) (v : Lane) : (s.setLane l v).cal = s.cal := rfl
@[simp] theorem State.setLane_commit (l : Nat) (v : Lane) : (s.setLane l v).commit = s.commit := rfl
@[simp] theorem State.setLane_mgmt (l : Nat) (v : Lane) : (s.setLane l v).mgmt = s.mgmt := rfl
@[simp] theorem State.setLane_pins (l : Nat) (v : Lane) : (s.setLane l v).pins = s.pins := rfl
@[simp] theorem State.setLane_dmas (l : Nat) (v : Lane) : (s.setLane l v).dmas = s.dmas := rfl
@[simp] theorem State.setLane_retries (l : Nat) (v : Lane) : (s.setLane l v).retries = s.retries := rfl
@[simp] theorem State.setLane_vcore (l : Nat) (v : Lane) : (s.setLane l v).vcore = s.vcore := rfl
@[simp] theorem State.setLane_freeCtr (l : Nat) (v : Lane) : (s.setLane l v).freeCtr = s.freeCtr := rfl
@[simp] theorem State.setLane_readData (l : Nat) (v : Lane) : (s.setLane l v).readData = s.readData := rfl
@[simp] theorem State.setLane_respErr (l : Nat) (v : Lane) : (s.setLane l v).respErr = s.respErr := rfl
@[simp] theorem State.setLane_get (l : Nat) (v : Lane) (q : Nat) (g : Fld) : (s.setLane l v).get q g = s.get q g := rfl
@[simp] theorem State.setLane_flag (l : Nat) (v : Lane) (q : Nat) (g : Fld) : (s.setLane l v).flag q g = s.flag q g := rfl

/-! ### setPort -/

@[simp] theorem State.setPort_pending (p : Nat) (v : Port) : (s.setPort p v).pending = s.pending := rfl
@[simp] theorem State.setPort_inReset (p : Nat) (v : Port) : (s.setPort p v).inReset = s.inReset := rfl
@[simp] theorem State.setPort_fld (p : Nat) (v : Port) : (s.setPort p v).fld = s.fld := rfl
@[simp] theorem State.setPort_shadow (p : Nat) (v : Port) : (s.setPort p v).shadow = s.shadow := rfl
@[simp] theorem State.setPort_staged (p : Nat) (v : Port) : (s.setPort p v).staged = s.staged := rfl
@[simp] theorem State.setPort_dirtyTab (p : Nat) (v : Port) : (s.setPort p v).dirtyTab = s.dirtyTab := rfl
@[simp] theorem State.setPort_dirtyReg (p : Nat) (v : Port) : (s.setPort p v).dirtyReg = s.dirtyReg := rfl
@[simp] theorem State.setPort_mem (p : Nat) (v : Port) : (s.setPort p v).mem = s.mem := rfl
@[simp] theorem State.setPort_marks (p : Nat) (v : Port) : (s.setPort p v).marks = s.marks := rfl
@[simp] theorem State.setPort_ecc (p : Nat) (v : Port) : (s.setPort p v).ecc = s.ecc := rfl
@[simp] theorem State.setPort_dom (p : Nat) (v : Port) : (s.setPort p v).dom = s.dom := rfl
@[simp] theorem State.setPort_undef (p : Nat) (v : Port) : (s.setPort p v).undef = s.undef := rfl
@[simp] theorem State.setPort_time (p : Nat) (v : Port) : (s.setPort p v).time = s.time := rfl
@[simp] theorem State.setPort_cores (p : Nat) (v : Port) : (s.setPort p v).cores = s.cores := rfl
@[simp] theorem State.setPort_clus (p : Nat) (v : Port) : (s.setPort p v).clus = s.clus := rfl
@[simp] theorem State.setPort_fseq (p : Nat) (v : Port) : (s.setPort p v).fseq = s.fseq := rfl
@[simp] theorem State.setPort_oryx (p : Nat) (v : Port) : (s.setPort p v).oryx = s.oryx := rfl
@[simp] theorem State.setPort_meters (p : Nat) (v : Port) : (s.setPort p v).meters = s.meters := rfl
@[simp] theorem State.setPort_eqSecs (p : Nat) (v : Port) : (s.setPort p v).eqSecs = s.eqSecs := rfl
@[simp] theorem State.setPort_delay (p : Nat) (v : Port) : (s.setPort p v).delay = s.delay := rfl
@[simp] theorem State.setPort_ledger (p : Nat) (v : Port) : (s.setPort p v).ledger = s.ledger := rfl
@[simp] theorem State.setPort_pwr (p : Nat) (v : Port) : (s.setPort p v).pwr = s.pwr := rfl
@[simp] theorem State.setPort_lanes (p : Nat) (v : Port) : (s.setPort p v).lanes = s.lanes := rfl
@[simp] theorem State.setPort_dpll (p : Nat) (v : Port) : (s.setPort p v).dpll = s.dpll := rfl
@[simp] theorem State.setPort_audio (p : Nat) (v : Port) : (s.setPort p v).audio = s.audio := rfl
@[simp] theorem State.setPort_startTrig (p : Nat) (v : Port) : (s.setPort p v).startTrig = s.startTrig := rfl
@[simp] theorem State.setPort_amps (p : Nat) (v : Port) : (s.setPort p v).amps = s.amps := rfl
@[simp] theorem State.setPort_boosts (p : Nat) (v : Port) : (s.setPort p v).boosts = s.boosts := rfl
@[simp] theorem State.setPort_cal (p : Nat) (v : Port) : (s.setPort p v).cal = s.cal := rfl
@[simp] theorem State.setPort_commit (p : Nat) (v : Port) : (s.setPort p v).commit = s.commit := rfl
@[simp] theorem State.setPort_mgmt (p : Nat) (v : Port) : (s.setPort p v).mgmt = s.mgmt := rfl
@[simp] theorem State.setPort_pins (p : Nat) (v : Port) : (s.setPort p v).pins = s.pins := rfl
@[simp] theorem State.setPort_dmas (p : Nat) (v : Port) : (s.setPort p v).dmas = s.dmas := rfl
@[simp] theorem State.setPort_retries (p : Nat) (v : Port) : (s.setPort p v).retries = s.retries := rfl
@[simp] theorem State.setPort_vcore (p : Nat) (v : Port) : (s.setPort p v).vcore = s.vcore := rfl
@[simp] theorem State.setPort_freeCtr (p : Nat) (v : Port) : (s.setPort p v).freeCtr = s.freeCtr := rfl
@[simp] theorem State.setPort_readData (p : Nat) (v : Port) : (s.setPort p v).readData = s.readData := rfl
@[simp] theorem State.setPort_respErr (p : Nat) (v : Port) : (s.setPort p v).respErr = s.respErr := rfl
@[simp] theorem State.setPort_get (p : Nat) (v : Port) (q : Nat) (g : Fld) : (s.setPort p v).get q g = s.get q g := rfl
@[simp] theorem State.setPort_flag (p : Nat) (v : Port) (q : Nat) (g : Fld) : (s.setPort p v).flag q g = s.flag q g := rfl

/-! ### setStat -/

@[simp] theorem State.setStat_pending (id : Nat) (v : StreamStat) : (s.setStat id v).pending = s.pending := rfl
@[simp] theorem State.setStat_inReset (id : Nat) (v : StreamStat) : (s.setStat id v).inReset = s.inReset := rfl
@[simp] theorem State.setStat_fld (id : Nat) (v : StreamStat) : (s.setStat id v).fld = s.fld := rfl
@[simp] theorem State.setStat_shadow (id : Nat) (v : StreamStat) : (s.setStat id v).shadow = s.shadow := rfl
@[simp] theorem State.setStat_staged (id : Nat) (v : StreamStat) : (s.setStat id v).staged = s.staged := rfl
@[simp] theorem State.setStat_dirtyTab (id : Nat) (v : StreamStat) : (s.setStat id v).dirtyTab = s.dirtyTab := rfl
@[simp] theorem State.setStat_dirtyReg (id : Nat) (v : StreamStat) : (s.setStat id v).dirtyReg = s.dirtyReg := rfl
@[simp] theorem State.setStat_mem (id : Nat) (v : StreamStat) : (s.setStat id v).mem = s.mem := rfl
@[simp] theorem State.setStat_marks (id : Nat) (v : StreamStat) : (s.setStat id v).marks = s.marks := rfl
@[simp] theorem State.setStat_ecc (id : Nat) (v : StreamStat) : (s.setStat id v).ecc = s.ecc := rfl
@[simp] theorem State.setStat_dom (id : Nat) (v : StreamStat) : (s.setStat id v).dom = s.dom := rfl
@[simp] theorem State.setStat_undef (id : Nat) (v : StreamStat) : (s.setStat id v).undef = s.undef := rfl
@[simp] theorem State.setStat_time (id : Nat) (v : StreamStat) : (s.setStat id v).time = s.time := rfl
@[simp] theorem State.setStat_cores (id : Nat) (v : StreamStat) : (s.setStat id v).cores = s.cores := rfl
@[simp] theorem State.setStat_clus (id : Nat) (v : StreamStat) : (s.setStat id v).clus = s.clus := rfl
@[simp] theorem State.setStat_fseq (id : Nat) (v : StreamStat) : (s.setStat id v).fseq = s.fseq := rfl
@[simp] theorem State.setStat_oryx (id : Nat) (v : StreamStat) : (s.setStat id v).oryx = s.oryx := rfl
@[simp] theorem State.setStat_meters (id : Nat) (v : StreamStat) : (s.setStat id v).meters = s.meters := rfl
@[simp] theorem State.setStat_eqSecs (id : Nat) (v : StreamStat) : (s.setStat id v).eqSecs = s.eqSecs := rfl
@[simp] theorem State.setStat_delay (id : Nat) (v : StreamStat) : (s.setStat id v).delay = s.delay := rfl
@[simp] theorem State.setStat_ledger (id : Nat) (v : StreamStat) : (s.setStat id v).ledger = s.ledger := rfl
@[simp] theorem State.setStat_pwr (id : Nat) (v : StreamStat) : (s.setStat id v).pwr = s.pwr := rfl
@[simp] theorem State.setStat_lanes (id : Nat) (v : StreamStat) : (s.setStat id v).lanes = s.lanes := rfl
@[simp] theorem State.setStat_dpll (id : Nat) (v : StreamStat) : (s.setStat id v).dpll = s.dpll := rfl
@[simp] theorem State.setStat_audio (id : Nat) (v : StreamStat) : (s.setStat id v).audio = s.audio := rfl
@[simp] theorem State.setStat_startTrig (id : Nat) (v : StreamStat) : (s.setStat id v).startTrig = s.startTrig := rfl
@[simp] theorem State.setStat_amps (id : Nat) (v : StreamStat) : (s.setStat id v).amps = s.amps := rfl
@[simp] theorem State.setStat_boosts (id : Nat) (v : StreamStat) : (s.setStat id v).boosts = s.boosts := rfl
@[simp] theorem State.setStat_cal (id : Nat) (v : StreamStat) : (s.setStat id v).cal = s.cal := rfl
@[simp] theorem State.setStat_commit (id : Nat) (v : StreamStat) : (s.setStat id v).commit = s.commit := rfl
@[simp] theorem State.setStat_mgmt (id : Nat) (v : StreamStat) : (s.setStat id v).mgmt = s.mgmt := rfl
@[simp] theorem State.setStat_pins (id : Nat) (v : StreamStat) : (s.setStat id v).pins = s.pins := rfl
@[simp] theorem State.setStat_dmas (id : Nat) (v : StreamStat) : (s.setStat id v).dmas = s.dmas := rfl
@[simp] theorem State.setStat_retries (id : Nat) (v : StreamStat) : (s.setStat id v).retries = s.retries := rfl
@[simp] theorem State.setStat_vcore (id : Nat) (v : StreamStat) : (s.setStat id v).vcore = s.vcore := rfl
@[simp] theorem State.setStat_freeCtr (id : Nat) (v : StreamStat) : (s.setStat id v).freeCtr = s.freeCtr := rfl
@[simp] theorem State.setStat_readData (id : Nat) (v : StreamStat) : (s.setStat id v).readData = s.readData := rfl
@[simp] theorem State.setStat_respErr (id : Nat) (v : StreamStat) : (s.setStat id v).respErr = s.respErr := rfl
@[simp] theorem State.setStat_get (id : Nat) (v : StreamStat) (q : Nat) (g : Fld) : (s.setStat id v).get q g = s.get q g := rfl
@[simp] theorem State.setStat_flag (id : Nat) (v : StreamStat) (q : Nat) (g : Fld) : (s.setStat id v).flag q g = s.flag q g := rfl

/-! ### setAud -/

@[simp] theorem State.setAud_pending (p : Nat) (a : Audio) : (s.setAud p a).pending = s.pending := rfl
@[simp] theorem State.setAud_inReset (p : Nat) (a : Audio) : (s.setAud p a).inReset = s.inReset := rfl
@[simp] theorem State.setAud_fld (p : Nat) (a : Audio) : (s.setAud p a).fld = s.fld := rfl
@[simp] theorem State.setAud_shadow (p : Nat) (a : Audio) : (s.setAud p a).shadow = s.shadow := rfl
@[simp] theorem State.setAud_staged (p : Nat) (a : Audio) : (s.setAud p a).staged = s.staged := rfl
@[simp] theorem State.setAud_dirtyTab (p : Nat) (a : Audio) : (s.setAud p a).dirtyTab = s.dirtyTab := rfl
@[simp] theorem State.setAud_dirtyReg (p : Nat) (a : Audio) : (s.setAud p a).dirtyReg = s.dirtyReg := rfl
@[simp] theorem State.setAud_mem (p : Nat) (a : Audio) : (s.setAud p a).mem = s.mem := rfl
@[simp] theorem State.setAud_marks (p : Nat) (a : Audio) : (s.setAud p a).marks = s.marks := rfl
@[simp] theorem State.setAud_ecc (p : Nat) (a : Audio) : (s.setAud p a).ecc = s.ecc := rfl
@[simp] theorem State.setAud_dom (p : Nat) (a : Audio) : (s.setAud p a).dom = s.dom := rfl
@[simp] theorem State.setAud_undef (p : Nat) (a : Audio) : (s.setAud p a).undef = s.undef := rfl
@[simp] theorem State.setAud_time (p : Nat) (a : Audio) : (s.setAud p a).time = s.time := rfl
@[simp] theorem State.setAud_cores (p : Nat) (a : Audio) : (s.setAud p a).cores = s.cores := rfl
@[simp] theorem State.setAud_clus (p : Nat) (a : Audio) : (s.setAud p a).clus = s.clus := rfl
@[simp] theorem State.setAud_fseq (p : Nat) (a : Audio) : (s.setAud p a).fseq = s.fseq := rfl
@[simp] theorem State.setAud_oryx (p : Nat) (a : Audio) : (s.setAud p a).oryx = s.oryx := rfl
@[simp] theorem State.setAud_meters (p : Nat) (a : Audio) : (s.setAud p a).meters = s.meters := rfl
@[simp] theorem State.setAud_eqSecs (p : Nat) (a : Audio) : (s.setAud p a).eqSecs = s.eqSecs := rfl
@[simp] theorem State.setAud_delay (p : Nat) (a : Audio) : (s.setAud p a).delay = s.delay := rfl
@[simp] theorem State.setAud_ledger (p : Nat) (a : Audio) : (s.setAud p a).ledger = s.ledger := rfl
@[simp] theorem State.setAud_pwr (p : Nat) (a : Audio) : (s.setAud p a).pwr = s.pwr := rfl
@[simp] theorem State.setAud_lanes (p : Nat) (a : Audio) : (s.setAud p a).lanes = s.lanes := rfl
@[simp] theorem State.setAud_ring (p : Nat) (a : Audio) : (s.setAud p a).ring = s.ring := rfl
@[simp] theorem State.setAud_dpll (p : Nat) (a : Audio) : (s.setAud p a).dpll = s.dpll := rfl
theorem State.setAud_audio (p : Nat) (a : Audio) : (s.setAud p a).audio = Tab.put Audio.reset s.audio p a := rfl
@[simp] theorem State.setAud_startTrig (p : Nat) (a : Audio) : (s.setAud p a).startTrig = s.startTrig := rfl
@[simp] theorem State.setAud_amps (p : Nat) (a : Audio) : (s.setAud p a).amps = s.amps := rfl
@[simp] theorem State.setAud_boosts (p : Nat) (a : Audio) : (s.setAud p a).boosts = s.boosts := rfl
@[simp] theorem State.setAud_cal (p : Nat) (a : Audio) : (s.setAud p a).cal = s.cal := rfl
@[simp] theorem State.setAud_commit (p : Nat) (a : Audio) : (s.setAud p a).commit = s.commit := rfl
@[simp] theorem State.setAud_mgmt (p : Nat) (a : Audio) : (s.setAud p a).mgmt = s.mgmt := rfl
@[simp] theorem State.setAud_pins (p : Nat) (a : Audio) : (s.setAud p a).pins = s.pins := rfl
@[simp] theorem State.setAud_dmas (p : Nat) (a : Audio) : (s.setAud p a).dmas = s.dmas := rfl
@[simp] theorem State.setAud_retries (p : Nat) (a : Audio) : (s.setAud p a).retries = s.retries := rfl
@[simp] theorem State.setAud_vcore (p : Nat) (a : Audio) : (s.setAud p a).vcore = s.vcore := rfl
@[simp] theorem State.setAud_freeCtr (p : Nat) (a : Audio) : (s.setAud p a).freeCtr = s.freeCtr := rfl
@[simp] theorem State.setAud_readData (p : Nat) (a : Audio) : (s.setAud p a).readData = s.readData := rfl
@[simp] theorem State.setAud_respErr (p : Nat) (a : Audio) : (s.setAud p a).respErr = s.respErr := rfl
@[simp] theorem State.setAud_get (p : Nat) (a : Audio) (q : Nat) (g : Fld) : (s.setAud p a).get q g = s.get q g := rfl
@[simp] theorem State.setAud_flag (p : Nat) (a : Audio) (q : Nat) (g : Fld) : (s.setAud p a).flag q g = s.flag q g := rfl

/-! ### setAmp -/

@[simp] theorem State.setAmp_pending (n : Nat) (a : Amp) : (s.setAmp n a).pending = s.pending := rfl
@[simp] theorem State.setAmp_inReset (n : Nat) (a : Amp) : (s.setAmp n a).inReset = s.inReset := rfl
@[simp] theorem State.setAmp_fld (n : Nat) (a : Amp) : (s.setAmp n a).fld = s.fld := rfl
@[simp] theorem State.setAmp_shadow (n : Nat) (a : Amp) : (s.setAmp n a).shadow = s.shadow := rfl
@[simp] theorem State.setAmp_staged (n : Nat) (a : Amp) : (s.setAmp n a).staged = s.staged := rfl
@[simp] theorem State.setAmp_dirtyTab (n : Nat) (a : Amp) : (s.setAmp n a).dirtyTab = s.dirtyTab := rfl
@[simp] theorem State.setAmp_dirtyReg (n : Nat) (a : Amp) : (s.setAmp n a).dirtyReg = s.dirtyReg := rfl
@[simp] theorem State.setAmp_mem (n : Nat) (a : Amp) : (s.setAmp n a).mem = s.mem := rfl
@[simp] theorem State.setAmp_marks (n : Nat) (a : Amp) : (s.setAmp n a).marks = s.marks := rfl
@[simp] theorem State.setAmp_ecc (n : Nat) (a : Amp) : (s.setAmp n a).ecc = s.ecc := rfl
@[simp] theorem State.setAmp_dom (n : Nat) (a : Amp) : (s.setAmp n a).dom = s.dom := rfl
@[simp] theorem State.setAmp_undef (n : Nat) (a : Amp) : (s.setAmp n a).undef = s.undef := rfl
@[simp] theorem State.setAmp_time (n : Nat) (a : Amp) : (s.setAmp n a).time = s.time := rfl
@[simp] theorem State.setAmp_cores (n : Nat) (a : Amp) : (s.setAmp n a).cores = s.cores := rfl
@[simp] theorem State.setAmp_clus (n : Nat) (a : Amp) : (s.setAmp n a).clus = s.clus := rfl
@[simp] theorem State.setAmp_fseq (n : Nat) (a : Amp) : (s.setAmp n a).fseq = s.fseq := rfl
@[simp] theorem State.setAmp_oryx (n : Nat) (a : Amp) : (s.setAmp n a).oryx = s.oryx := rfl
@[simp] theorem State.setAmp_meters (n : Nat) (a : Amp) : (s.setAmp n a).meters = s.meters := rfl
@[simp] theorem State.setAmp_eqSecs (n : Nat) (a : Amp) : (s.setAmp n a).eqSecs = s.eqSecs := rfl
@[simp] theorem State.setAmp_delay (n : Nat) (a : Amp) : (s.setAmp n a).delay = s.delay := rfl
@[simp] theorem State.setAmp_ledger (n : Nat) (a : Amp) : (s.setAmp n a).ledger = s.ledger := rfl
@[simp] theorem State.setAmp_pwr (n : Nat) (a : Amp) : (s.setAmp n a).pwr = s.pwr := rfl
@[simp] theorem State.setAmp_lanes (n : Nat) (a : Amp) : (s.setAmp n a).lanes = s.lanes := rfl
@[simp] theorem State.setAmp_ring (n : Nat) (a : Amp) : (s.setAmp n a).ring = s.ring := rfl
@[simp] theorem State.setAmp_dpll (n : Nat) (a : Amp) : (s.setAmp n a).dpll = s.dpll := rfl
@[simp] theorem State.setAmp_audio (n : Nat) (a : Amp) : (s.setAmp n a).audio = s.audio := rfl
@[simp] theorem State.setAmp_startTrig (n : Nat) (a : Amp) : (s.setAmp n a).startTrig = s.startTrig := rfl
theorem State.setAmp_amps (n : Nat) (a : Amp) : (s.setAmp n a).amps = Tab.put Amp.reset s.amps n a := rfl
@[simp] theorem State.setAmp_boosts (n : Nat) (a : Amp) : (s.setAmp n a).boosts = s.boosts := rfl
@[simp] theorem State.setAmp_cal (n : Nat) (a : Amp) : (s.setAmp n a).cal = s.cal := rfl
@[simp] theorem State.setAmp_commit (n : Nat) (a : Amp) : (s.setAmp n a).commit = s.commit := rfl
@[simp] theorem State.setAmp_mgmt (n : Nat) (a : Amp) : (s.setAmp n a).mgmt = s.mgmt := rfl
@[simp] theorem State.setAmp_pins (n : Nat) (a : Amp) : (s.setAmp n a).pins = s.pins := rfl
@[simp] theorem State.setAmp_dmas (n : Nat) (a : Amp) : (s.setAmp n a).dmas = s.dmas := rfl
@[simp] theorem State.setAmp_retries (n : Nat) (a : Amp) : (s.setAmp n a).retries = s.retries := rfl
@[simp] theorem State.setAmp_vcore (n : Nat) (a : Amp) : (s.setAmp n a).vcore = s.vcore := rfl
@[simp] theorem State.setAmp_freeCtr (n : Nat) (a : Amp) : (s.setAmp n a).freeCtr = s.freeCtr := rfl
@[simp] theorem State.setAmp_readData (n : Nat) (a : Amp) : (s.setAmp n a).readData = s.readData := rfl
@[simp] theorem State.setAmp_respErr (n : Nat) (a : Amp) : (s.setAmp n a).respErr = s.respErr := rfl
@[simp] theorem State.setAmp_get (n : Nat) (a : Amp) (q : Nat) (g : Fld) : (s.setAmp n a).get q g = s.get q g := rfl
@[simp] theorem State.setAmp_flag (n : Nat) (a : Amp) (q : Nat) (g : Fld) : (s.setAmp n a).flag q g = s.flag q g := rfl

/-! ### setBoost -/

@[simp] theorem State.setBoost_pending (k : Nat) (b : Boost) : (s.setBoost k b).pending = s.pending := rfl
@[simp] theorem State.setBoost_inReset (k : Nat) (b : Boost) : (s.setBoost k b).inReset = s.inReset := rfl
@[simp] theorem State.setBoost_fld (k : Nat) (b : Boost) : (s.setBoost k b).fld = s.fld := rfl
@[simp] theorem State.setBoost_shadow (k : Nat) (b : Boost) : (s.setBoost k b).shadow = s.shadow := rfl
@[simp] theorem State.setBoost_staged (k : Nat) (b : Boost) : (s.setBoost k b).staged = s.staged := rfl
@[simp] theorem State.setBoost_dirtyTab (k : Nat) (b : Boost) : (s.setBoost k b).dirtyTab = s.dirtyTab := rfl
@[simp] theorem State.setBoost_dirtyReg (k : Nat) (b : Boost) : (s.setBoost k b).dirtyReg = s.dirtyReg := rfl
@[simp] theorem State.setBoost_mem (k : Nat) (b : Boost) : (s.setBoost k b).mem = s.mem := rfl
@[simp] theorem State.setBoost_marks (k : Nat) (b : Boost) : (s.setBoost k b).marks = s.marks := rfl
@[simp] theorem State.setBoost_ecc (k : Nat) (b : Boost) : (s.setBoost k b).ecc = s.ecc := rfl
@[simp] theorem State.setBoost_dom (k : Nat) (b : Boost) : (s.setBoost k b).dom = s.dom := rfl
@[simp] theorem State.setBoost_undef (k : Nat) (b : Boost) : (s.setBoost k b).undef = s.undef := rfl
@[simp] theorem State.setBoost_time (k : Nat) (b : Boost) : (s.setBoost k b).time = s.time := rfl
@[simp] theorem State.setBoost_cores (k : Nat) (b : Boost) : (s.setBoost k b).cores = s.cores := rfl
@[simp] theorem State.setBoost_clus (k : Nat) (b : Boost) : (s.setBoost k b).clus = s.clus := rfl
@[simp] theorem State.setBoost_fseq (k : Nat) (b : Boost) : (s.setBoost k b).fseq = s.fseq := rfl
@[simp] theorem State.setBoost_oryx (k : Nat) (b : Boost) : (s.setBoost k b).oryx = s.oryx := rfl
@[simp] theorem State.setBoost_meters (k : Nat) (b : Boost) : (s.setBoost k b).meters = s.meters := rfl
@[simp] theorem State.setBoost_eqSecs (k : Nat) (b : Boost) : (s.setBoost k b).eqSecs = s.eqSecs := rfl
@[simp] theorem State.setBoost_delay (k : Nat) (b : Boost) : (s.setBoost k b).delay = s.delay := rfl
@[simp] theorem State.setBoost_ledger (k : Nat) (b : Boost) : (s.setBoost k b).ledger = s.ledger := rfl
@[simp] theorem State.setBoost_pwr (k : Nat) (b : Boost) : (s.setBoost k b).pwr = s.pwr := rfl
@[simp] theorem State.setBoost_lanes (k : Nat) (b : Boost) : (s.setBoost k b).lanes = s.lanes := rfl
@[simp] theorem State.setBoost_ring (k : Nat) (b : Boost) : (s.setBoost k b).ring = s.ring := rfl
@[simp] theorem State.setBoost_dpll (k : Nat) (b : Boost) : (s.setBoost k b).dpll = s.dpll := rfl
@[simp] theorem State.setBoost_audio (k : Nat) (b : Boost) : (s.setBoost k b).audio = s.audio := rfl
@[simp] theorem State.setBoost_startTrig (k : Nat) (b : Boost) : (s.setBoost k b).startTrig = s.startTrig := rfl
@[simp] theorem State.setBoost_amps (k : Nat) (b : Boost) : (s.setBoost k b).amps = s.amps := rfl
theorem State.setBoost_boosts (k : Nat) (b : Boost) : (s.setBoost k b).boosts = Tab.put Boost.reset s.boosts k b := rfl
@[simp] theorem State.setBoost_cal (k : Nat) (b : Boost) : (s.setBoost k b).cal = s.cal := rfl
@[simp] theorem State.setBoost_commit (k : Nat) (b : Boost) : (s.setBoost k b).commit = s.commit := rfl
@[simp] theorem State.setBoost_mgmt (k : Nat) (b : Boost) : (s.setBoost k b).mgmt = s.mgmt := rfl
@[simp] theorem State.setBoost_pins (k : Nat) (b : Boost) : (s.setBoost k b).pins = s.pins := rfl
@[simp] theorem State.setBoost_dmas (k : Nat) (b : Boost) : (s.setBoost k b).dmas = s.dmas := rfl
@[simp] theorem State.setBoost_retries (k : Nat) (b : Boost) : (s.setBoost k b).retries = s.retries := rfl
@[simp] theorem State.setBoost_vcore (k : Nat) (b : Boost) : (s.setBoost k b).vcore = s.vcore := rfl
@[simp] theorem State.setBoost_freeCtr (k : Nat) (b : Boost) : (s.setBoost k b).freeCtr = s.freeCtr := rfl
@[simp] theorem State.setBoost_readData (k : Nat) (b : Boost) : (s.setBoost k b).readData = s.readData := rfl
@[simp] theorem State.setBoost_respErr (k : Nat) (b : Boost) : (s.setBoost k b).respErr = s.respErr := rfl
@[simp] theorem State.setBoost_get (k : Nat) (b : Boost) (q : Nat) (g : Fld) : (s.setBoost k b).get q g = s.get q g := rfl
@[simp] theorem State.setBoost_flag (k : Nat) (b : Boost) (q : Nat) (g : Fld) : (s.setBoost k b).flag q g = s.flag q g := rfl

/-! ### setDma -/

@[simp] theorem State.setDma_pending (e : Nat) (d : Dma) : (s.setDma e d).pending = s.pending := rfl
@[simp] theorem State.setDma_inReset (e : Nat) (d : Dma) : (s.setDma e d).inReset = s.inReset := rfl
@[simp] theorem State.setDma_fld (e : Nat) (d : Dma) : (s.setDma e d).fld = s.fld := rfl
@[simp] theorem State.setDma_shadow (e : Nat) (d : Dma) : (s.setDma e d).shadow = s.shadow := rfl
@[simp] theorem State.setDma_staged (e : Nat) (d : Dma) : (s.setDma e d).staged = s.staged := rfl
@[simp] theorem State.setDma_dirtyTab (e : Nat) (d : Dma) : (s.setDma e d).dirtyTab = s.dirtyTab := rfl
@[simp] theorem State.setDma_dirtyReg (e : Nat) (d : Dma) : (s.setDma e d).dirtyReg = s.dirtyReg := rfl
@[simp] theorem State.setDma_mem (e : Nat) (d : Dma) : (s.setDma e d).mem = s.mem := rfl
@[simp] theorem State.setDma_marks (e : Nat) (d : Dma) : (s.setDma e d).marks = s.marks := rfl
@[simp] theorem State.setDma_ecc (e : Nat) (d : Dma) : (s.setDma e d).ecc = s.ecc := rfl
@[simp] theorem State.setDma_dom (e : Nat) (d : Dma) : (s.setDma e d).dom = s.dom := rfl
@[simp] theorem State.setDma_undef (e : Nat) (d : Dma) : (s.setDma e d).undef = s.undef := rfl
@[simp] theorem State.setDma_time (e : Nat) (d : Dma) : (s.setDma e d).time = s.time := rfl
@[simp] theorem State.setDma_cores (e : Nat) (d : Dma) : (s.setDma e d).cores = s.cores := rfl
@[simp] theorem State.setDma_clus (e : Nat) (d : Dma) : (s.setDma e d).clus = s.clus := rfl
@[simp] theorem State.setDma_fseq (e : Nat) (d : Dma) : (s.setDma e d).fseq = s.fseq := rfl
@[simp] theorem State.setDma_oryx (e : Nat) (d : Dma) : (s.setDma e d).oryx = s.oryx := rfl
@[simp] theorem State.setDma_meters (e : Nat) (d : Dma) : (s.setDma e d).meters = s.meters := rfl
@[simp] theorem State.setDma_eqSecs (e : Nat) (d : Dma) : (s.setDma e d).eqSecs = s.eqSecs := rfl
@[simp] theorem State.setDma_delay (e : Nat) (d : Dma) : (s.setDma e d).delay = s.delay := rfl
@[simp] theorem State.setDma_ledger (e : Nat) (d : Dma) : (s.setDma e d).ledger = s.ledger := rfl
@[simp] theorem State.setDma_pwr (e : Nat) (d : Dma) : (s.setDma e d).pwr = s.pwr := rfl
@[simp] theorem State.setDma_lanes (e : Nat) (d : Dma) : (s.setDma e d).lanes = s.lanes := rfl
@[simp] theorem State.setDma_ring (e : Nat) (d : Dma) : (s.setDma e d).ring = s.ring := rfl
@[simp] theorem State.setDma_dpll (e : Nat) (d : Dma) : (s.setDma e d).dpll = s.dpll := rfl
@[simp] theorem State.setDma_audio (e : Nat) (d : Dma) : (s.setDma e d).audio = s.audio := rfl
@[simp] theorem State.setDma_startTrig (e : Nat) (d : Dma) : (s.setDma e d).startTrig = s.startTrig := rfl
@[simp] theorem State.setDma_amps (e : Nat) (d : Dma) : (s.setDma e d).amps = s.amps := rfl
@[simp] theorem State.setDma_boosts (e : Nat) (d : Dma) : (s.setDma e d).boosts = s.boosts := rfl
@[simp] theorem State.setDma_cal (e : Nat) (d : Dma) : (s.setDma e d).cal = s.cal := rfl
@[simp] theorem State.setDma_commit (e : Nat) (d : Dma) : (s.setDma e d).commit = s.commit := rfl
@[simp] theorem State.setDma_mgmt (e : Nat) (d : Dma) : (s.setDma e d).mgmt = s.mgmt := rfl
@[simp] theorem State.setDma_pins (e : Nat) (d : Dma) : (s.setDma e d).pins = s.pins := rfl
theorem State.setDma_dmas (e : Nat) (d : Dma) : (s.setDma e d).dmas = Tab.put Dma.reset s.dmas e d := rfl
@[simp] theorem State.setDma_retries (e : Nat) (d : Dma) : (s.setDma e d).retries = s.retries := rfl
@[simp] theorem State.setDma_vcore (e : Nat) (d : Dma) : (s.setDma e d).vcore = s.vcore := rfl
@[simp] theorem State.setDma_freeCtr (e : Nat) (d : Dma) : (s.setDma e d).freeCtr = s.freeCtr := rfl
@[simp] theorem State.setDma_readData (e : Nat) (d : Dma) : (s.setDma e d).readData = s.readData := rfl
@[simp] theorem State.setDma_respErr (e : Nat) (d : Dma) : (s.setDma e d).respErr = s.respErr := rfl
@[simp] theorem State.setDma_get (e : Nat) (d : Dma) (q : Nat) (g : Fld) : (s.setDma e d).get q g = s.get q g := rfl
@[simp] theorem State.setDma_flag (e : Nat) (d : Dma) (q : Nat) (g : Fld) : (s.setDma e d).flag q g = s.flag q g := rfl

/-! ### atPhase -/

@[simp] theorem State.atPhase_pending (n : Nat) : (s.atPhase n).pending = s.pending := rfl
@[simp] theorem State.atPhase_inReset (n : Nat) : (s.atPhase n).inReset = s.inReset := rfl
@[simp] theorem State.atPhase_fld (n : Nat) : (s.atPhase n).fld = s.fld := rfl
@[simp] theorem State.atPhase_shadow (n : Nat) : (s.atPhase n).shadow = s.shadow := rfl
@[simp] theorem State.atPhase_staged (n : Nat) : (s.atPhase n).staged = s.staged := rfl
@[simp] theorem State.atPhase_dirtyTab (n : Nat) : (s.atPhase n).dirtyTab = s.dirtyTab := rfl
@[simp] theorem State.atPhase_dirtyReg (n : Nat) : (s.atPhase n).dirtyReg = s.dirtyReg := rfl
@[simp] theorem State.atPhase_mem (n : Nat) : (s.atPhase n).mem = s.mem := rfl
@[simp] theorem State.atPhase_marks (n : Nat) : (s.atPhase n).marks = s.marks := rfl
@[simp] theorem State.atPhase_ecc (n : Nat) : (s.atPhase n).ecc = s.ecc := rfl
@[simp] theorem State.atPhase_dom (n : Nat) : (s.atPhase n).dom = s.dom := rfl
@[simp] theorem State.atPhase_undef (n : Nat) : (s.atPhase n).undef = s.undef := rfl
theorem State.atPhase_time (n : Nat) : (s.atPhase n).time = { s.time with phase := Nat.min n 32767 } := rfl
@[simp] theorem State.atPhase_cores (n : Nat) : (s.atPhase n).cores = s.cores := rfl
@[simp] theorem State.atPhase_clus (n : Nat) : (s.atPhase n).clus = s.clus := rfl
@[simp] theorem State.atPhase_fseq (n : Nat) : (s.atPhase n).fseq = s.fseq := rfl
@[simp] theorem State.atPhase_oryx (n : Nat) : (s.atPhase n).oryx = s.oryx := rfl
@[simp] theorem State.atPhase_meters (n : Nat) : (s.atPhase n).meters = s.meters := rfl
@[simp] theorem State.atPhase_eqSecs (n : Nat) : (s.atPhase n).eqSecs = s.eqSecs := rfl
@[simp] theorem State.atPhase_delay (n : Nat) : (s.atPhase n).delay = s.delay := rfl
@[simp] theorem State.atPhase_ledger (n : Nat) : (s.atPhase n).ledger = s.ledger := rfl
@[simp] theorem State.atPhase_pwr (n : Nat) : (s.atPhase n).pwr = s.pwr := rfl
@[simp] theorem State.atPhase_lanes (n : Nat) : (s.atPhase n).lanes = s.lanes := rfl
@[simp] theorem State.atPhase_ring (n : Nat) : (s.atPhase n).ring = s.ring := rfl
@[simp] theorem State.atPhase_dpll (n : Nat) : (s.atPhase n).dpll = s.dpll := rfl
@[simp] theorem State.atPhase_audio (n : Nat) : (s.atPhase n).audio = s.audio := rfl
@[simp] theorem State.atPhase_startTrig (n : Nat) : (s.atPhase n).startTrig = s.startTrig := rfl
@[simp] theorem State.atPhase_amps (n : Nat) : (s.atPhase n).amps = s.amps := rfl
@[simp] theorem State.atPhase_boosts (n : Nat) : (s.atPhase n).boosts = s.boosts := rfl
@[simp] theorem State.atPhase_cal (n : Nat) : (s.atPhase n).cal = s.cal := rfl
@[simp] theorem State.atPhase_commit (n : Nat) : (s.atPhase n).commit = s.commit := rfl
@[simp] theorem State.atPhase_mgmt (n : Nat) : (s.atPhase n).mgmt = s.mgmt := rfl
@[simp] theorem State.atPhase_pins (n : Nat) : (s.atPhase n).pins = s.pins := rfl
@[simp] theorem State.atPhase_dmas (n : Nat) : (s.atPhase n).dmas = s.dmas := rfl
@[simp] theorem State.atPhase_retries (n : Nat) : (s.atPhase n).retries = s.retries := rfl
@[simp] theorem State.atPhase_vcore (n : Nat) : (s.atPhase n).vcore = s.vcore := rfl
@[simp] theorem State.atPhase_freeCtr (n : Nat) : (s.atPhase n).freeCtr = s.freeCtr := rfl
@[simp] theorem State.atPhase_readData (n : Nat) : (s.atPhase n).readData = s.readData := rfl
@[simp] theorem State.atPhase_respErr (n : Nat) : (s.atPhase n).respErr = s.respErr := rfl
@[simp] theorem State.atPhase_get (n : Nat) (q : Nat) (g : Fld) : (s.atPhase n).get q g = s.get q g := rfl
@[simp] theorem State.atPhase_flag (n : Nat) (q : Nat) (g : Fld) : (s.atPhase n).flag q g = s.flag q g := rfl

/-! ### Registers -/

/-- Two fields at different places of the register space have different keys. -/
theorem fkey_ne {p q : Nat} {f g : Fld} (hf : f.off < 0x1000) (hg : g.off < 0x1000) (hl : f.lo < 32)
    (hm : g.lo < 32) (h : p ≠ q ∨ f.off ≠ g.off ∨ f.lo ≠ g.lo) : fkey p f ≠ fkey q g := by
  unfold fkey
  omega

@[simp] theorem State.get_put_self (p : Nat) (f : Fld) (v : Nat) : (s.put p f v).get p f = v % 2 ^ f.w :=
  Tab.get_put_self _ _ _

theorem State.get_put_ne {p q : Nat} {f g : Fld} (v : Nat) (h : fkey q g ≠ fkey p f) :
    (s.put p f v).get q g = s.get q g := by
  unfold State.get
  rw [State.put_fld]
  generalize g.rst = d
  exact Tab.get_put_other _ _ h

/-- The frame of one field written. -/
theorem OnlyRegs.put {rs : List (Nat × Nat)} {a b : State} (h : OnlyRegs rs a b) {p : Nat} {f : Fld} (v : Nat)
    (hm : (p, f.off) ∈ rs) (ho : f.off < 0x1000) (hl : f.lo < 32) : OnlyRegs rs a (b.put p f v) := by
  intro q g hg hgl hn
  rw [State.get_put_ne, h q g hg hgl hn]
  apply fkey_ne hg ho hgl hl
  by_cases e : q = p
  · subst e
    right; left
    intro e
    rw [e] at hn
    exact hn hm
  · exact .inl e

end Sys2Proof.Machine
end

