-- ==== Sys2Proof/Laws/Regs.lean ====
section
/-! SUPPORT. What registers read as after the shared operations over them, and their frames. -/

namespace Sys2Proof.Machine

theorem OnlyRegs.refl (rs : List (Nat × Nat)) (s : State) : OnlyRegs rs s s := fun _ _ _ _ _ => rfl

theorem OnlyRegs.trans {rs : List (Nat × Nat)} {a b c : State} (h : OnlyRegs rs a b) (g : OnlyRegs rs b c) :
    OnlyRegs rs a c := fun p f ho hl hn => (g p f ho hl hn).trans (h p f ho hl hn)

theorem OnlyRegs.mono {rs qs : List (Nat × Nat)} {a b : State} (h : OnlyRegs rs a b) (hq : ∀ x ∈ rs, x ∈ qs) :
    OnlyRegs qs a b := fun p f ho hl hn => h p f ho hl (fun m => hn (hq _ m))

/-- States with the same register file read alike. -/
theorem OnlyRegs.of_fld {rs : List (Nat × Nat)} {a b c : State} (h : OnlyRegs rs a b) (e : c.fld = b.fld) :
    OnlyRegs rs a c := fun p f ho hl hn => by
  rw [← h p f ho hl hn]; unfold State.get; rw [e]

theorem State.get_of_fld {s t : State} (e : t.fld = s.fld) (p : Nat) (f : Fld) : t.get p f = s.get p f := by
  unfold State.get; rw [e]

theorem OnlyRegs.putB {rs : List (Nat × Nat)} {a b : State} (h : OnlyRegs rs a b) {p : Nat} {f : Fld} (v : Bool)
    (hm : (p, f.off) ∈ rs) (ho : f.off < 0x1000) (hl : f.lo < 32) : OnlyRegs rs a (b.putB p f v) :=
  h.put _ hm ho hl

theorem OnlyRegs.putI {rs : List (Nat × Nat)} {a b : State} (h : OnlyRegs rs a b) {p : Nat} {f : Fld} (v : Int)
    (hm : (p, f.off) ∈ rs) (ho : f.off < 0x1000) (hl : f.lo < 32) : OnlyRegs rs a (b.putI p f v) :=
  h.put _ hm ho hl

theorem OnlyRegs.bump {rs : List (Nat × Nat)} {a b : State} (h : OnlyRegs rs a b) {p : Nat} {f : Fld} (n : Nat)
    (hm : (p, f.off) ∈ rs) (ho : f.off < 0x1000) (hl : f.lo < 32) : OnlyRegs rs a (b.bump p f n) :=
  h.put _ hm ho hl

theorem OnlyRegs.raise {rs : List (Nat × Nat)} {a b : State} (h : OnlyRegs rs a b) {p : Nat} (n : Nat)
    (hm : (p, 0x10) ∈ rs) : OnlyRegs rs a (b.raise p n) :=
  h.put _ hm (by decide) (by decide)

theorem OnlyRegs.log {rs : List (Nat × Nat)} {a b : State} (h : OnlyRegs rs a b) {p : Nat} (n : Nat)
    (hm : (p, 0x24) ∈ rs) (hn : (p, 0x28) ∈ rs) : OnlyRegs rs a (b.log p n) :=
  ((h.bump _ hm (by decide) (by decide)).put _ hn (by decide) (by decide)).put _ hn (by decide) (by decide)

/-- A field of another page. -/
theorem State.get_put_page (s : State) {p q : Nat} {f g : Fld} (v : Nat) (h : q ≠ p)
    (hf : f.off < 0x1000 := by decide) (hl : f.lo < 32 := by decide)
    (hg : g.off < 0x1000 := by decide) (hm : g.lo < 32 := by decide) : (s.put p f v).get q g = s.get q g :=
  State.get_put_ne _ _ (fkey_ne hg hf hm hl (.inl h))

/-- Another field of the same page. -/
theorem State.get_put_fld (s : State) {p : Nat} {f g : Fld} (v : Nat)
    (h : (g.off, g.lo) ≠ (f.off, f.lo) := by decide)
    (hf : f.off < 0x1000 := by decide) (hl : f.lo < 32 := by decide)
    (hg : g.off < 0x1000 := by decide) (hm : g.lo < 32 := by decide) : (s.put p f v).get p g = s.get p g := by
  refine State.get_put_ne _ _ (fkey_ne hg hf hm hl (.inr ?_))
  by_cases e : g.off = f.off
  · exact .inr (fun e2 => h (by rw [e, e2]))
  · exact .inl e

theorem State.get_raise (s : State) (p b : Nat) :
    (s.raise p b).get p HDR.IRQ_RAW.RAW = (s.get p HDR.IRQ_RAW.RAW ||| 2 ^ b) % 2 ^ 32 :=
  State.get_put_self _ _ _ _

theorem State.get_putB (s : State) (p : Nat) (f : Fld) (b : Bool) (hw : f.w ≠ 0) :
    (s.putB p f b).get p f = if b then 1 else 0 := by
  unfold State.putB
  rw [State.get_put_self]
  have h : 1 < 2 ^ f.w := Nat.one_lt_two_pow hw
  cases b
  · rfl
  · exact Nat.mod_eq_of_lt h

theorem State.flag_putB (s : State) (p : Nat) (f : Fld) (b : Bool) (hw : f.w ≠ 0) :
    (s.putB p f b).flag p f = b := by
  unfold State.flag
  rw [State.get_putB _ _ _ _ hw]
  cases b <;> rfl

/-- What logging an error does (R37). -/
theorem State.log_logged (s : State) (p : Nat) {code : Nat} (hc : code < 256) : Logged p code s (s.log p code) := by
  refine ⟨?_, ?_, ?_, ?_, ?_⟩
  · unfold State.log State.bump
    rw [State.get_put_fld, State.get_put_fld, State.get_put_self]
    exact Nat.mod_eq_of_lt (Nat.lt_of_le_of_lt (Nat.min_le_right _ _) (by decide))
  · unfold State.log
    rw [State.get_put_self]
    exact Nat.mod_eq_of_lt hc
  · unfold State.log
    rw [State.get_put_fld, State.get_put_self]
    rfl
  · exact (OnlyRegs.refl _ s).log _ (by simp) (by simp)
  · exact ⟨rfl, fun q hq => by cases q <;> first | rfl | exact absurd (List.mem_singleton.mpr rfl) hq⟩

/-- Where writes reach the page, a write has its effect. -/
theorem State.Takes.write {s : State} {p : Nat} (h : s.Takes p) (f : State → State) : s.blockWrite p f = f s := by
  unfold State.blockWrite
  simp [h.run, h.ready, h.on, h.opened, h.unheld]

theorem State.Takes.ctrl {s : State} {p : Nat} (h : s.Takes p) (f : State → State) : s.ctrlWrite p f = f s := by
  unfold State.ctrlWrite
  simp [h.run, h.ready, h.opened, h.unheld]

end Sys2Proof.Machine
end

