-- ==== Sys2Proof/WellFormed.lean ====
section
/-! DEFINITION. Which commands are well formed: every index an operand gives lies inside the set it indexes
(cores, lanes, pages, ports, channels and the others of R31), and an access has a width and an address that a
master of the matrix can make. The meanings are total all the same: an index outside its set names nothing
that exists. -/

namespace Sys2Proof

/-- An issue names a core, a slot of the bundle and an advance (R97, R99). -/
def Issue.ok (i : Issue) : Bool := decide (i.core < 32) && decide (i.slot < 4)

/-- An operation of a MAC slot: slot 0 or 1 (R97). -/
def Issue.macOk (i : Issue) : Bool := i.ok && decide (i.slot < 2)

/-- An operation of the load/store slot (R97). -/
def Issue.lsOk (i : Issue) : Bool := i.ok && i.slot == 2

/-- An address-register operation, in slot 2 or 3 (R97). -/
def Issue.addrOk (i : Issue) : Bool := i.ok && decide (2 ≤ i.slot)

/-- An operation of the control slot (R97). -/
def Issue.ctlOk (i : Issue) : Bool := i.ok && i.slot == 3

/-- A bus master of R230. -/
def Master.ok : Master → Bool
  | .clus c => decide (c < 4)
  | .dma e => decide (e < 4)
  | .oryx | .eq | .delay | .ring | .port | .pcie | .mgmt | .qspi | .jtag => true

/-- An access of 1, 2, 4 or 8 bytes at a 32-bit address. -/
def Access.ok (a : Access) : Bool :=
  decide (a.addr < 2 ^ 32) && [1, 2, 4, 8].contains a.size && Master.ok a.by_

/-- The input pins that the package has of a kind (R416). -/
def InPin.count : InPin → Nat
  | .receive => 14
  | .port => 52
  | .sense => 80
  | .xo => 1
  | .reference => 4
  | .resetN => 1
  | .jtag => 3
  | .trstN => 1

/-- A pin that the package has (R416). -/
def Pin.ok : Pin → Bool
  | .mclkOut n => decide (n < 8)
  | .wclkOut n => decide (n < 2)
  | .irqN m => decide (m < 4)
  | .gpio n => decide (n < 32)
  | .ampGate n leg => decide (n < 16) && decide (leg < 4)
  | .ampDrvEn g => decide (g < 4)
  | .boostGate k => decide (k < 8)
  | .portOut p role => decide (p < 52) && decide (role < if p < 48 then 5 else 3)
  | .laneTx n => decide (n < 12)
  | .pcieTx n => decide (n < 2)
  | .i2c m _ => decide (m < 2)
  | .qspi _ n => decide (n < 6)
  | .input k n => decide (n < k.count)
  | .other n => decide (n < 2116)
  | .ppsOut | .tdo | .bypCtl _ => true

/-- A well-formed command. -/
def Instr.wf : Instr → Bool
  | .resetNLow _ => true
  | .resetNRise => true
  | .rootPllLock => true
  | .rootUnlock => true
  | .xoLoss => true
  | .bootReady _ => true
  | .devRst _ => true
  | .devRstRelease => true
  | .fsSelWrite _ => true
  | .fsChangeApply => true
  | .mclkSelApply => true
  | .nominalCycleStart => true
  | .fsTick sense => sense.all (fun p => decide (p.chan < 16))
  | .passStart pass => decide (pass < 64)
  | .clusterPassOverrun pass => decide (pass < 64)
  | .registerWrite acc => acc.ok
  | .tableWrite acc => acc.ok
  | .softRst page => decide (page < 256)
  | .sync page => decide (page < 256)
  | .syncDone page => decide (page < 256)
  | .irqForce page _ => decide (page < 256)
  | .pageLock page => decide (page < 256)
  | .commitGo _ => true
  | .commitAbort _ => true
  | .commitValidationDone => true
  | .commitApply => true
  | .vectorAssert v => decide (v < 64)
  | .vecEoi reg _ => decide (reg < 2)
  | .pcieReset _ => true
  | .dstateChange _ => true
  | .qspiWrite _ cnt _ => decide (cnt.toNat < 64)
  | .qspiRead _ _ frame => frame.cmd != 0x02 && frame.cmd != 0x05
  | .qspiStatus => true
  | .getVersion _ _ => true
  | .getUid _ _ => true
  | .flashRead _ _ => true
  | .flashWrite _ _ => true
  | .flashErase _ _ => true
  | .imageVerify _ _ => true
  | .imageSetPref _ _ => true
  | .imageSwitch _ _ => true
  | .thermalRead _ _ => true
  | .thermalSetAlarm _ _ => true
  | .debugChallenge _ _ => true
  | .debugResponse _ _ => true
  | .debugKeyProgram _ _ => true
  | .rollbackAdvance _ _ => true
  | .mbxCommandEnd _ => true
  | .watchdogRestart => true
  | .controllerRestartDone => true
  | .gpioSet _ => true
  | .gpioClr _ => true
  | .gpioEdge pin _ => decide (pin < 32)
  | .i2cGo m _ => decide (m < 2)
  | .i2cTransactionEnd m _ _ _ => decide (m < 2)
  | .stretchTmo m _ _ => decide (m < 2)
  | .extest _ drive => drive.all (fun p => Pin.ok p.pin)
  | .frameCfgWrite _ => true
  | .signalPlaneWrite acc _ => acc.ok
  | .clipDataRead => true
  | .stageInStart c => decide (c < 4)
  | .coreFrameStart c => decide (c < 4)
  | .stageOutStart c => decide (c < 4)
  | .stageOutDone c => decide (c < 4)
  | .frameBarrierReached n => decide (n < 32)
  | .coreOverrun n => decide (n < 32)
  | .interruptEntry n => decide (n < 32)
  | .doorbell n _ => decide (n < 32)
  | .csyncRelease c => decide (c < 4)
  | .ibexEccWriteback addr => decide (0x20000000 ≤ addr) && decide (addr < 0x22000000)
  | .nop at_ => at_.ok
  | .mac at_ _ => at_.macOk
  | .msu at_ _ => at_.macOk
  | .mova at_ _ _ _ => at_.macOk
  | .ext at_ _ _ _ => at_.macOk
  | .extd at_ _ _ _ => at_.macOk
  | .mul at_ _ _ _ => at_.macOk
  | .divs at_ _ _ _ => at_.macOk
  | .divq at_ _ _ _ _ => at_.macOk
  | .add at_ _ _ _ => at_.macOk
  | .sub at_ _ _ _ => at_.macOk
  | .adds at_ _ _ _ => at_.macOk
  | .subs at_ _ _ _ => at_.macOk
  | .and at_ _ _ _ => at_.macOk
  | .or at_ _ _ _ => at_.macOk
  | .xor at_ _ _ _ => at_.macOk
  | .shli at_ _ _ _ => at_.macOk
  | .shri at_ _ _ _ => at_.macOk
  | .srai at_ _ _ _ => at_.macOk
  | .addi at_ _ _ _ => at_.macOk
  | .mov at_ _ _ => at_.macOk
  | .movi at_ _ _ => at_.macOk
  | .movhi at_ _ _ => at_.macOk
  | .abs at_ _ _ => at_.macOk
  | .neg at_ _ _ => at_.macOk
  | .min at_ _ _ _ => at_.macOk
  | .max at_ _ _ _ => at_.macOk
  | .cmp at_ _ _ _ _ => at_.macOk
  | .cmpi at_ _ _ _ _ => at_.macOk
  | .ld at_ _ _ _ _ => at_.lsOk
  | .st at_ _ _ _ _ => at_.lsOk
  | .lda at_ _ _ _ => at_.lsOk
  | .sta at_ _ _ _ => at_.lsOk
  | .pairedAccess at_ _ _ => at_.lsOk
  | .aaddi at_ _ _ => at_.addrOk
  | .aadd at_ _ _ => at_.addrOk
  | .amovi at_ _ _ => at_.addrOk
  | .amovhi at_ _ _ => at_.addrOk
  | .amov at_ _ _ => at_.addrOk
  | .rda at_ _ _ => at_.addrOk
  | .br at_ _ => at_.ctlOk
  | .brl at_ _ _ => at_.ctlOk
  | .brr at_ _ => at_.ctlOk
  | .reti at_ => at_.ctlOk
  | .swi at_ => at_.ctlOk
  | .rep at_ _ _ => at_.ctlOk
  | .loop at_ _ => at_.ctlOk
  | .fbar at_ => at_.ctlOk
  | .csync at_ => at_.ctlOk
  | .mfsr at_ _ _ => at_.ctlOk
  | .mtsr at_ _ _ => at_.ctlOk
  | .mtsri at_ _ _ => at_.ctlOk
  | .plog at_ _ _ _ _ => at_.ctlOk
  | .reservedEncodingIssue at_ => at_.ok
  | .haltReq n => decide (n < 32)
  | .coreHalted n _ => decide (n < 32)
  | .resume n => decide (n < 32)
  | .step n => decide (n < 32)
  | .migStart c _ => decide (c < 4)
  | .migrationCopyStart c => decide (c < 4)
  | .migFollowing c => decide (c < 4)
  | .migCancel c _ => decide (c < 4)
  | .storeEccWriteback addr => decide (addr < 0x04000000)
  | .busTransaction by_ _ addr bytes strobes _ _ _ => Master.ok by_ && decide (addr < 2 ^ 32) &&
      bytes.length == strobes.length
  | .busRetry by_ _ => Master.ok by_
  | .sliceCtrlWrite _ => true
  | .zfill _ => true
  | .zfillDone bank => decide (bank < 8)
  | .scrubPassStart => true
  | .scrubPassEnd => true
  | .scrubLate => true
  | .dmaDescriptorStart e => decide (e < 4)
  | .dmaDescriptorDone e _ _ => decide (e < 4)
  | .dmaTimeout e _ => decide (e < 4)
  | .markerReceive lane _ arrive => decide (lane < 12) && decide (arrive < 2 ^ 64)
  | .markerMissing lane => decide (lane < 12)
  | .idleReceive lane _ => decide (lane < 12)
  | .serviceReceive lane _ _ => decide (lane < 12)
  | .ts1Receive lane _ => decide (lane < 12)
  | .ts2Receive lane _ => decide (lane < 12)
  | .loopTestReceive lane _ => decide (lane < 12)
  | .invalidHeader lane => decide (lane < 12)
  | .retrain lane => decide (lane < 12)
  | .laneEnable lane _ => decide (lane < 12)
  | .laneTrainGranted lane => decide (lane < 12)
  | .trainPhaseAdvance lane => decide (lane < 12)
  | .confirmCountDone lane => decide (lane < 12)
  | .trainPhaseTimeout lane => decide (lane < 12)
  | .trainTotalTimeout lane => decide (lane < 12)
  | .backoffExpiry lane => decide (lane < 12)
  | .energyDetect lane => decide (lane < 12)
  | .beaconBurst lane => decide (lane < 12)
  | .spurHuntTimeout lane => decide (lane < 12)
  | .testCtrlWrite lane _ => decide (lane < 12)
  | .chkRestart lane => decide (lane < 12)
  | .chkBitsLoRead lane => decide (lane < 12)
  | .injGo lane _ => decide (lane < 12)
  | .injPeriod lane => decide (lane < 12)
  | .ltSend lane => decide (lane < 12)
  | .ltTimeout lane => decide (lane < 12)
  | .cellReceive trunk _ _ => decide (trunk < 4)
  | .spurCellReceive spur _ _ => decide (spur < 4)
  | .wrappedCellExpiry trunk => decide (trunk < 4)
  | .insSet _ => true
  | .insertionProceed _ => true
  | .insDone _ => true
  | .insFail _ => true
  | .insClear _ => true
  | .svcSend port => decide (port < 8)
  | .svcPop port => decide (port < 8)
  | .streamStatRead => true
  | .freqMeasurement k _ => decide (k < 16)
  | .refActivityLoss k => decide (k < 16)
  | .soakComplete k => decide (k < 16)
  | .numFreqWrite _ => true
  | .numPhaseWrite _ => true
  | .dpllPhaseSample _ => true
  | .dpllLocked => true
  | .holdoverEvaluate => true
  | .pstepGo _ => true
  | .pstepDone => true
  | .align => true
  | .alignDone => true
  | .set => true
  | .setDone => true
  | .ntNowRead at_ => decide (at_ < 32768)
  | .ppsInEdge at_ => decide (at_ < 32768)
  | .ppsOutCycWrite _ => true
  | .arm k _ => decide (k < 64)
  | .disarm k _ => decide (k < 64)
  | .schedCommit k => decide (k < 64)
  | .schedPortStart k => decide (k < 64)
  | .schedPhaseStep k => decide (k < 64)
  | .schedMute k => decide (k < 64)
  | .schedUnmute k => decide (k < 64)
  | .schedTrunkInsert k => decide (k < 64)
  | .schedUserEvent k => decide (k < 64)
  | .portStartWrite _ => true
  | .portStartTick => true
  | .portRxFrame port _ => decide (port < 52)
  | .portTxFrame port _ _ _ => decide (port < 52)
  | .clkLoss port _ => decide (port < 52)
  | .maskImmWrite port _ _ => decide (port < 52)
  | .portStop port => decide (port < 52)
  | .senseSample chan _ _ => decide (chan < 16)
  | .carrierPeriod chan => decide (chan < 16)
  | .ocpComparator chan => decide (chan < 16)
  | .ampEnable chan _ => decide (chan < 16)
  | .probeStart chan => decide (chan < 16)
  | .probeDone chan _ _ => decide (chan < 16)
  | .holdExpiry chan => decide (chan < 16)
  | .attemptsClear chan => decide (chan < 16)
  | .latchClr chan => decide (chan < 16)
  | .probeReq chan => decide (chan < 16)
  | .mute chan _ => decide (chan < 16)
  | .pilotWindowEnd chan => decide (chan < 16)
  | .calGo _ => true
  | .calStepEnd => true
  | .boostEnable k _ => decide (k < 8)
  | .boostRiseGranted k => decide (k < 8)
  | .railReady k => decide (k < 8)
  | .railCfgWrite k _ => decide (k < 8)
  | .boostSwitchPeriod k _ _ => decide (k < 8)
  | .railOv k => decide (k < 8)
  | .railUv k => decide (k < 8)
  | .pwrReqGo _ => true
  | .retSigDone => true
  | .domainStopped => true
  | .domainWakeGranted => true
  | .domainWakeDone => true
  | .ledgerGrant => true
  | .ledgerTimeout kind inst => decide (kind < 11) && decide (inst < 32)
  | .thermalSample _ => true
  | .vcoreEvaluate _ => true
  | .vcoreMove _ => true
  | .chkLocked lane => decide (lane < 12)
  | .chkLockLost lane => decide (lane < 12)
  | .refActivityReturn k => decide (k < 16)
  | .pcieLinkUp speed _ _ => decide (speed < 5)
  | .holdoverEstimatorMean => true
  | .ntBit31Change at_ => decide (at_ < 32768)

end Sys2Proof
end

