-- ==== Sys2Proof/Tests/Slice0.lean ====
section
/-! SUPPORT. Tests of the model. For every statement with hypotheses there is a witness, `witness_<Name>`: for
each clause a concrete state and operands that meet its hypotheses together, with boundary values where the
clauses meet. The well-formedness checks refuse ill-formed commands and take well-formed ones; single commands
give what the spec's examples and rules say. -/

namespace Sys2Proof.Tests
open Sys2Proof Sys2Proof.Machine

set_option Elab.async false

/-! ### States and operands -/

/-- The device out of reset, READY, with every switched domain ON and no bank of the Store lost. -/
def live : State :=
  { (State.reset.putB Page.mgmt MGMT.BOOT_STAT.READY true).put Page.store STORE.STORE_STAT.LOST 0 with
    inReset := false
    dom := [(1, .on), (2, .on), (3, .on), (4, .on), (5, .on), (6, .on), (7, .on), (8, .on), (9, .on)] }

/-- The same after its first nominal start. -/
def ticked : State := { live with time := { live.time with starts := 1 } }

/-- The same with core 0 in its frame at bundle 0. -/
def run0 : State := live.setCore 0 { Core.reset with run := .running }

/-- An operation of core 0 in the bundle that stands there, in slot `k`. -/
def opAt (k : Nat) : Issue := ⟨0, k, 0, 0⟩

/-- Core 0 of `run0` at that bundle, its slots up to `k` issued. -/
def coreAt (k : Nat) : Core := { (run0.core 0).advance 0 with slotNext := k + 1 }

theorem takes_iff (s : State) (p : Nat) : s.Takes p ↔
    s.inReset = false ∧ s.notReady p = false ∧ s.pageOn p = true ∧ s.locked p = false ∧ s.spareHeld p = false :=
  ⟨fun h => ⟨h.run, h.ready, h.on, h.opened, h.unheld⟩, fun h => ⟨h.1, h.2.1, h.2.2.1, h.2.2.2.1, h.2.2.2.2⟩⟩

theorem reaches_iff (s : State) (at_ : Issue) (c : Core) : s.Reaches at_ c ↔
    s.inReset = false ∧ at_.core < 32 ∧ s.domOn (1 + at_.core / 8) = true ∧
    (s.core at_.core).takes (s.bundlesOn at_) at_.slot = true ∧
    { (s.core at_.core).advance (s.bundlesOn at_) with slotNext := at_.slot + 1 } = c ∧
    (∀ pc ∈ (s.core at_.core).fetches (s.bundlesOn at_), ∀ h, h < 2 →
      s.unitEcc 8 ((s.fetchBase at_.core + 16 * pc.toNat + 8 * h) / 8) = none) ∧
    s.slotLost at_.core at_.slot c = false ∧ c.issues 0 = true :=
  ⟨fun h => ⟨h.run, h.core, h.on, h.before, h.bundle, h.clean, h.whole, h.issues⟩,
    fun h => ⟨h.1, h.2.1, h.2.2.1, h.2.2.2.1, h.2.2.2.2.1, h.2.2.2.2.2.1, h.2.2.2.2.2.2.1, h.2.2.2.2.2.2.2⟩⟩

theorem acts_iff (s : State) (at_ : Issue) (c : Core) : s.Acts at_ c ↔
    s.Reaches at_ c ∧ c.readP at_.pred.toNat = true :=
  ⟨fun h => ⟨h.toReaches, h.pred⟩, fun h => ⟨h.1, h.2⟩⟩

theorem writes_iff (acc : Access) (p off v : Nat) : Writes acc p off v ↔
    acc.by_ ≠ .jtag ∧ acc.size = 4 ∧ acc.enables.toNat % 16 = 15 ∧ p < 256 ∧ (off < 0x1000 ∧ off % 4 = 0) ∧
    acc.addr = 0x10000000 + p * 0x1000 + off ∧ acc.data.toNat % 2 ^ 32 = v :=
  ⟨fun h => ⟨h.master, h.size, h.enables, h.page, h.offset, h.addr, h.data⟩,
    fun h => ⟨h.1, h.2.1, h.2.2.1, h.2.2.2.1, h.2.2.2.2.1, h.2.2.2.2.2.1, h.2.2.2.2.2.2⟩⟩

theorem clean_iff (s : State) (a n : Nat) : StoreClean s a n ↔
    s.domOn 6 = true ∧ Tab.get false s.undef 6 = false ∧ a + n ≤ 0x04000000 ∧
    (∀ b, b < 8 → s.bankLost b = false) ∧ ∀ x, x < n → s.storeEcc (a + x) = none := by
  constructor
  · intro h
    exact ⟨h.on, h.kept, h.top, h.lost, fun x hx => h.ecc (a + x) (by omega) (by omega)⟩
  · intro h
    refine ⟨h.1, h.2.1, h.2.2.1, h.2.2.2.1, fun x hl hh => ?_⟩
    have e := h.2.2.2.2 (x - a) (by omega)
    rwa [show a + (x - a) = x by omega] at e

/-- One Oryx pass in the list, its window open. -/
def passes : State :=
  { ticked.put Page.frame (FRAME.PASS_CTRL.TYPE 0) 1 with fseq := { live.fseq with winOn := true } }

/-- The same, the pass started already. -/
def passesDone : State := { passes with fseq := { passes.fseq with passDone := [(0, true)] } }

/-- A cluster pass of cluster 0 that stands again while its cluster is not idle. -/
def passesLate : State :=
  { passesDone.put Page.frame (FRAME.PASS_CTRL.TYPE 0) 4 with clus := [(0, { Clus.reset with phase := .frame })] }

/-- Cluster 0 in its frame, core 0 enabled with Signal Plane signal 0 among its outputs. -/
def planeOut : State :=
  { (live.put (Page.ibex 0) IBEX.CORE_CTRL.ENABLE 1).put (Page.ibex 0) (IBEX.OUT_SIG.VALID 0) 1 with
    clus := [(0, { Clus.reset with phase := .frame })] }

/-- A 32-bit write of cluster 0 at `a`. -/
def planeAcc (a : Nat) : Access := ⟨a, 4, 0xF, 0, .clus 0⟩

/-- A commit of no page pending, its checks to come. -/
def pendingCommit : State := ticked.putB Page.dev DEV.COMMIT_STAT.PENDING true

/-- The same, its checks passed. -/
def checkedCommit : State := { pendingCommit with commit := { CommitReq.reset with checked := true } }

/-- A commit pending whose EQ pass has a chain in transition beyond its allowance. -/
def deferredCommit : State :=
  { (((checkedCommit.put Page.frame (FRAME.PASS_CTRL.TYPE 0) 2).put Page.eq EQ.EQ_LEN.LEN 1).setByte 0x10300018 3) with
    eqSecs := [(0, { EqSec.zero with tr := some ⟨Coef.identity, EqSec.zero.h, 0, 6⟩ })] }

/-- A commit pending that would take one EQ section with no head and no tail. -/
def refusedCommit : State := checkedCommit.put Page.eq EQ.EQ_LEN.LEN 1

/-- The GPIO page mapped to vector 0, its first interrupt enabled and set. -/
def pendingVector : State :=
  (((live.put Page.irq (IRQ.IRQ_MAP.EN (Page.gpio / 4) (Page.gpio % 4)) 1).put Page.gpio HDR.IRQ_EN.EN 1).put
    Page.gpio HDR.IRQ_RAW.RAW 1)

/-- A mailbox command running. -/
def mailbox : State :=
  { live.put Page.mgmt MGMT.BOOT_STAT.MODE 1 with mgmt := { live.mgmt with running := some (1, 0) } }

/-- The I2CM1 master busy. -/
def i2cOn : State := live.putB (Page.i2cm 1) I2CM.I2C_STAT.BUSY true

/-- `run0` with a MAC and a DIVS on accumulator 0 in the MAC slots of bundle 0. -/
def pairRun : State :=
  run0.setBytes [(0x20000000, 0x60), (0x20000001, 0x80), (0x20000002, 0x10), (0x20000003, 0xA1),
    (0x20000004, 0x60), (0x20000005, 0x80), (0x20000006, 0x10), (0x20000007, 0xA7)]

/-- `run0` with core 0 in a delay slot. -/
def delayRun : State := live.setCore 0 { Core.reset with run := .running, guard := 1 }

/-- `run0` with core 0 at the last bundle. -/
def lastRun : State := live.setCore 0 { Core.reset with run := .running, pc := 4095 }

/-- Cluster 0 in `ph`, core 0 enabled in the state `c`. -/
def clusAt (ph : ClusPhase) (c : Core) : State :=
  { (live.put (Page.ibex 0) IBEX.CORE_CTRL.ENABLE 1).setCore 0 c with
    clus := [(0, { Clus.reset with phase := ph })] }

/-- Cluster 0 as spare in migration state `st`. -/
def spareAt (st : Nat) : State := live.put (Page.clus 0) CLUS.MIG_STAT.STATE st

/-- A write of one byte to the Store that waits to be issued by PCIe, or to the outbound window. -/
def waitingAt (a : Nat) : State := { live with retries := [⟨.pcie, true, a, [0], [true], 1, none, 0, false⟩] }

/-- The scrubber enabled. -/
def scrubber : State := live.put Page.store STORE.SCRUB_CTRL.EN 1

/-- A DMA engine with a descriptor under way that copies the 8 bytes at 0x100 to 0x200. -/
def dmaOn : State :=
  { live.putB (Page.dma 0) DMA.DMA_STAT.ACTIVE true with
    dmas := [(0, ⟨8 * 2 ^ 96 + 0x200 * 2 ^ 64 + 0x100 * 2 ^ 32, 0x1000, none, none⟩)] }

/-- Lane `l` receiving in phase `ph`, aligned. -/
def rxLane (l ph : Nat) : State :=
  ((live.put (Page.lane l) LANE.LANE_STAT.PHASE ph).put (Page.lane l) LANE.LANE_STAT.CDR_LOCKED 1).put
    (Page.lane l) LANE.LANE_STAT.ALIGNED 1

/-- The body of a control block of type `ty` with `x` in its type-specific word, sealed with its CRC. -/
def ctlBody (ty x : Nat) : Body :=
  let u := ty * 2 ^ 230 + Ctl.sync * 2 ^ 190 + 0x6996 * 2 ^ 174 + x
  BitVec.ofNat 254 (u * 65536 + crc16 238 u)

/-- A marker of cycle 0 and LIDX 0 as it stands on the line. -/
def markerBody : Body :=
  let u := Ctl.marker * 2 ^ 230 + Ctl.sync * 2 ^ 190 + 0xA * 2 ^ 174
  descramble (BitVec.ofNat 254 (u * 65536 + crc16 238 u))

/-- Lane `l` in phase `ph`. -/
def laneAt (l ph : Nat) : State := live.put (Page.lane l) LANE.LANE_STAT.PHASE ph

/-- Port `p` carrying traffic, its ring inserted. -/
def carryAt (p : Nat) : State :=
  ((live.put (portPage p) TRUNK.PORT_STAT.STATE 3).put Page.ring RING.BYP_STAT.A_STATE 3).put
    Page.ring RING.BYP_STAT.B_STATE 3

/-- A cell that waits for its wrap on trunk `p`. -/
def wrapAt (p : Nat) : State :=
  { live with ring := { live.ring with ports := [(p, { Port.reset with waitq := [⟨⟨0, false, false, [], 0⟩, 0, false, false⟩] })] } }

/-- Reference `k` enabled, active, soaking and selected. -/
def refAt (k : Nat) : State :=
  ((((live.put Page.ref (REF.REF_CFG.EN k) 1).put Page.ref (REF.REF_STAT.ACTIVE k) 1).put
    Page.ref (REF.REF_STAT.SOAKING k) 1).put Page.ref REF.DPLL_STAT.SEL_VALID 1).put Page.ref REF.DPLL_STAT.SELECTED k

/-- An entry that is armed and whose instant has come, as the statement on scheduled actions reads it. -/
abbrev readyAct (s : State) (k : Nat) : Prop := s.actArmed k = true ∧
  if s.flag Page.sched (SCHED.ACT_CTRL.LATE k) then s.boundary = true
  else s.nextTick.isSome ∧ ((if s.actBase k then { s.time with phase := s.tickPhase }.nt else s.cycle) +
    2 ^ 32 - s.actDue k) % 2 ^ 32 < 2 ^ 31

/-- The lowest ready entry, of type `ty`. -/
abbrev dueAct (s : State) (k ty : Nat) : Prop := s.inReset = false ∧ k < 64 ∧ s.actType k = ty ∧ readyAct s k ∧
  ∀ j, j < k → ¬ readyAct s j

/-- Entry `k` armed with an action of type `ty` that is due. -/
def actAt (k ty : Nat) : State :=
  ((ticked.put Page.sched (SCHED.ACT_CTRL.ARMED k) 1).put Page.sched (SCHED.ACT_CTRL.TYPE k) ty).put
    Page.sched (SCHED.ACT_TARGET.TARGET k) (if ty = 1 then 60 else 0)

/-- Audio port `p` running with both directions. -/
def portOn (p : Nat) : State :=
  ((live.put (audioPage p) TDM.PORT_STAT.STATE 2).put (audioPage p) TDM.PORT_CTRL.RX_EN 1).put
    (audioPage p) TDM.PORT_CTRL.TX_EN 1

/-- Amplifier channel `n` in state `st`. -/
def ampAt (n st : Nat) : State := live.put (Page.amp n) AMP.AMP_STAT.STATE st

/-- A grant request that waits and finds no room. -/
def waitingGrant : State :=
  { live with ledger := { live.ledger with queue := [⟨Kind.laneTrain, 0⟩], held := [⟨⟨Kind.laneTrain, 1⟩, 0x7FFFFFFF, 0x7FFFFFFF, false⟩] } }

/-! Commits whose first fault is of one check -/

/-- Two crosspoint entries of one key. -/
def unordered : State := { pendingCommit.put Page.oryx ORYX.ORYX_LEN.LEN 2 with commit := CommitReq.reset }

/-- Two test generators on signal 5. -/
def twoProducers : State :=
  { (((pendingCommit.put Page.frame (FRAME.TG_CTRL.MODE 0) 1).put Page.frame (FRAME.TG_CTRL.MODE 1) 1).put
    Page.frame (FRAME.TG_CTRL.SIGNAL 0) 5).put Page.frame (FRAME.TG_CTRL.SIGNAL 1) 5 with commit := CommitReq.reset }

/-- A cluster pass whose core declares no cycles. -/
def shortCore : State :=
  { (pendingCommit.put Page.frame (FRAME.PASS_CTRL.TYPE 0) 4).put (Page.ibex 0) IBEX.CORE_CTRL.ENABLE 1 with
    commit := CommitReq.reset }

/-- Two EQ passes, of which the first takes the whole budget. -/
def overBudget : State :=
  { ((((((pendingCommit.put Page.frame (FRAME.PASS_CTRL.TYPE 0) 2).put Page.frame (FRAME.PASS_CTRL.TYPE 1) 2).put
    Page.frame (FRAME.PASS_CTRL.FIRST 1) 1).put Page.frame (FRAME.PASS_LAST.LAST 1) 1).put
    Page.eq (EQ.XALLOW.ALLOW 0) 2048).put Page.eq EQ.EQ_LEN.LEN 2).setBytes
      [(0x10300018, 3), (0x10300038, 3), (0x10300036, 1)] with commit := CommitReq.reset }

/-- 127 pairs of streams for a spur lane that has 252 slots. -/
def overPlan : State :=
  { (pendingCommit.put (Page.lane 8) LANE.LANE_CTRL.RATE 2).setBytes
    ((List.range 127).map (fun i => (0x10420001 + 16 * i, 0x42))) with commit := CommitReq.reset }

/-- DMA engine 0 with the descriptor `d` under way. -/
def dmaWith (d : Nat) : State :=
  { live.putB (Page.dma 0) DMA.DMA_STAT.ACTIVE true with dmas := [(0, ⟨d, 0x1000, none, none⟩)] }

/-- An EQ pass over one chain of one section, its window open. -/
def eqWindow : State :=
  (((passes.put Page.frame (FRAME.PASS_CTRL.TYPE 0) 2).put Page.eq EQ.EQ_LEN.LEN 1).setByte 0x10300018 3)

/-- A delay pass over one tap of a line of 64 samples, with a delay of 2, its window open in frame 2. -/
def tapWindow : State :=
  let s := ((passes.put Page.frame (FRAME.PASS_CTRL.TYPE 0) 3).put Page.delay DELAY.DELAY_LEN.LEN 1).setBytes
    [(0x10400001, 0x40), (0x1040000C, 64)]
  { s with fseq := { s.fseq with winFrame := 2 } }

/-- Stream 0, extracted at 96 kHz with an offset of 2 into signal 3. -/
def extracting : State :=
  ((ticked.put Page.clk CLK.CLK_CTRL.FS_SEL 1).put Page.clk CLK.CLK_STAT.FS_ACTIVE 1).setBytes
    [(0x10420001, 0xA0), (0x10420002, 2), (0x10428000, 3), (0x10428001, 0x80)]

/-- DMA engine 0 copying 8 bytes from 0x100: to 0x200, in two rows, to the shadow and to the active copy of EQ. -/
def dmaRow : State := dmaWith (0x100 * 2 ^ 32 + 0x200 * 2 ^ 64 + 8 * 2 ^ 96)
def dmaRows : State := dmaWith (2 + 0x100 * 2 ^ 32 + 0x200 * 2 ^ 64 + 8 * 2 ^ 96 + 2 ^ 128 + 16 * 2 ^ 160 + 8 * 2 ^ 192)
def dmaShadow : State := dmaWith (0x100 * 2 ^ 32 + 0x10380000 * 2 ^ 64 + 8 * 2 ^ 96)
def dmaActiveCopy : State := dmaWith (0x100 * 2 ^ 32 + 0x10300000 * 2 ^ 64 + 8 * 2 ^ 96)

/-- The same from signal 0 of the Signal Plane. -/
def dmaPlane : State := dmaWith (0x22000000 * 2 ^ 32 + 0x200 * 2 ^ 64 + 8 * 2 ^ 96)

/-- A commit of the EQ page, which has a write in its shadow registers. -/
def dirtyCommit : State :=
  { checkedCommit with dirtyReg := [(Page.eq, true)], commit := { checkedCommit.commit with pages := [Page.eq] } }

/-! ### Well-formedness -/

/-- Each check of a command refuses an operand outside its range. -/
theorem test_wf_refuses_0 :
    ([
    .fsTick [⟨16, 0, 0⟩], .passStart 64, .clusterPassOverrun 64, .registerWrite ⟨2 ^ 32, 4, 15, 0, .pcie⟩,
    .registerWrite ⟨0, 3, 7, 0, .pcie⟩, .registerWrite ⟨0, 4, 15, 0, .clus 4⟩,
    .registerWrite ⟨0, 4, 15, 0, .dma 4⟩, .tableWrite ⟨2 ^ 32, 4, 15, 0, .pcie⟩,
    .tableWrite ⟨0, 3, 7, 0, .pcie⟩, .tableWrite ⟨0, 4, 15, 0, .clus 4⟩, .tableWrite ⟨0, 4, 15, 0, .dma 4⟩,
    .softRst 256, .sync 256, .syncDone 256, .irqForce 256 0, .pageLock 256, .vectorAssert 64, .vecEoi 2 0,
    .qspiWrite 0 64 [], .qspiRead 0 0 ⟨0x02, 0⟩, .qspiRead 0 0 ⟨0x05, 0⟩, .gpioEdge 32 false, .i2cGo 2 0,
    .i2cTransactionEnd 2 .ok 0 [], .stretchTmo 2 0 [], .extest false [⟨.mclkOut 8, false⟩],
    .extest false [⟨.wclkOut 2, false⟩], .extest false [⟨.irqN 4, false⟩],
    .extest false [⟨.gpio 32, false⟩], .extest false [⟨.ampGate 16 0, false⟩],
    .extest false [⟨.ampGate 0 4, false⟩], .extest false [⟨.ampDrvEn 4, false⟩],
    .extest false [⟨.boostGate 8, false⟩], .extest false [⟨.portOut 52 0, false⟩],
    .extest false [⟨.portOut 0 5, false⟩], .extest false [⟨.portOut 48 3, false⟩],
    .extest false [⟨.laneTx 12, false⟩], .extest false [⟨.other 2116, false⟩],
    .extest false [⟨.pcieTx 2, false⟩], .extest false [⟨.i2c 2 false, false⟩],
    .extest false [⟨.qspi true 6, false⟩], .signalPlaneWrite ⟨2 ^ 32, 4, 15, 0, .pcie⟩ 0] :
      List Instr).all (fun i => i.wf == false) = true := by decide +kernel

/-- Each check of a command refuses an operand outside its range. -/
theorem test_wf_refuses_1 :
    ([
    .signalPlaneWrite ⟨0, 3, 7, 0, .pcie⟩ 0, .signalPlaneWrite ⟨0, 4, 15, 0, .clus 4⟩ 0,
    .signalPlaneWrite ⟨0, 4, 15, 0, .dma 4⟩ 0, .stageInStart 4, .coreFrameStart 4, .stageOutStart 4,
    .stageOutDone 4, .frameBarrierReached 32, .coreOverrun 32, .interruptEntry 32, .doorbell 32 0,
    .csyncRelease 4, .ibexEccWriteback 0x22000000, .ibexEccWriteback 0x1FFFFFFF, .nop ⟨32, 0, 0, 0⟩,
    .nop ⟨0, 4, 0, 0⟩, .mac ⟨32, 0, 0, 0⟩ ⟨0, 0, 0, 0, false, false⟩,
    .mac ⟨0, 2, 0, 0⟩ ⟨0, 0, 0, 0, false, false⟩, .msu ⟨32, 0, 0, 0⟩ ⟨0, 0, 0, 0, false, false⟩,
    .msu ⟨0, 2, 0, 0⟩ ⟨0, 0, 0, 0, false, false⟩, .mova ⟨32, 0, 0, 0⟩ 0 0 0, .mova ⟨0, 2, 0, 0⟩ 0 0 0,
    .ext ⟨32, 0, 0, 0⟩ 0 0 0, .ext ⟨0, 2, 0, 0⟩ 0 0 0, .extd ⟨32, 0, 0, 0⟩ 0 0 0, .extd ⟨0, 2, 0, 0⟩ 0 0 0,
    .mul ⟨32, 0, 0, 0⟩ 0 0 0, .mul ⟨0, 2, 0, 0⟩ 0 0 0, .divs ⟨32, 0, 0, 0⟩ 0 0 0, .divs ⟨0, 2, 0, 0⟩ 0 0 0,
    .divq ⟨32, 0, 0, 0⟩ 0 0 0 0, .divq ⟨0, 2, 0, 0⟩ 0 0 0 0, .add ⟨32, 0, 0, 0⟩ 0 0 0,
    .add ⟨0, 2, 0, 0⟩ 0 0 0, .sub ⟨32, 0, 0, 0⟩ 0 0 0, .sub ⟨0, 2, 0, 0⟩ 0 0 0, .adds ⟨32, 0, 0, 0⟩ 0 0 0,
    .adds ⟨0, 2, 0, 0⟩ 0 0 0, .subs ⟨32, 0, 0, 0⟩ 0 0 0, .subs ⟨0, 2, 0, 0⟩ 0 0 0, .and ⟨32, 0, 0, 0⟩ 0 0 0,
    .and ⟨0, 2, 0, 0⟩ 0 0 0] :
      List Instr).all (fun i => i.wf == false) = true := by decide +kernel

/-- Each check of a command refuses an operand outside its range. -/
theorem test_wf_refuses_2 :
    ([
    .or ⟨32, 0, 0, 0⟩ 0 0 0, .or ⟨0, 2, 0, 0⟩ 0 0 0, .xor ⟨32, 0, 0, 0⟩ 0 0 0, .xor ⟨0, 2, 0, 0⟩ 0 0 0,
    .shli ⟨32, 0, 0, 0⟩ 0 0 0, .shli ⟨0, 2, 0, 0⟩ 0 0 0, .shri ⟨32, 0, 0, 0⟩ 0 0 0,
    .shri ⟨0, 2, 0, 0⟩ 0 0 0, .srai ⟨32, 0, 0, 0⟩ 0 0 0, .srai ⟨0, 2, 0, 0⟩ 0 0 0,
    .addi ⟨32, 0, 0, 0⟩ 0 0 0, .addi ⟨0, 2, 0, 0⟩ 0 0 0, .mov ⟨32, 0, 0, 0⟩ 0 0, .mov ⟨0, 2, 0, 0⟩ 0 0,
    .movi ⟨32, 0, 0, 0⟩ 0 0, .movi ⟨0, 2, 0, 0⟩ 0 0, .movhi ⟨32, 0, 0, 0⟩ 0 0, .movhi ⟨0, 2, 0, 0⟩ 0 0,
    .abs ⟨32, 0, 0, 0⟩ 0 0, .abs ⟨0, 2, 0, 0⟩ 0 0, .neg ⟨32, 0, 0, 0⟩ 0 0, .neg ⟨0, 2, 0, 0⟩ 0 0,
    .min ⟨32, 0, 0, 0⟩ 0 0 0, .min ⟨0, 2, 0, 0⟩ 0 0 0, .max ⟨32, 0, 0, 0⟩ 0 0 0, .max ⟨0, 2, 0, 0⟩ 0 0 0,
    .cmp ⟨32, 0, 0, 0⟩ 0 .eq 0 0, .cmp ⟨0, 2, 0, 0⟩ 0 .eq 0 0, .cmpi ⟨32, 0, 0, 0⟩ 0 .eq 0 0,
    .cmpi ⟨0, 2, 0, 0⟩ 0 .eq 0 0, .ld ⟨32, 2, 0, 0⟩ .w4 0 0 (.off 0), .ld ⟨0, 1, 0, 0⟩ .w4 0 0 (.off 0),
    .ld ⟨0, 3, 0, 0⟩ .w4 0 0 (.off 0), .st ⟨32, 2, 0, 0⟩ .w4 0 0 (.off 0),
    .st ⟨0, 1, 0, 0⟩ .w4 0 0 (.off 0), .st ⟨0, 3, 0, 0⟩ .w4 0 0 (.off 0), .lda ⟨32, 2, 0, 0⟩ 0 0 (.off 0),
    .lda ⟨0, 1, 0, 0⟩ 0 0 (.off 0), .lda ⟨0, 3, 0, 0⟩ 0 0 (.off 0), .sta ⟨32, 2, 0, 0⟩ 0 0 (.off 0),
    .sta ⟨0, 1, 0, 0⟩ 0 0 (.off 0), .sta ⟨0, 3, 0, 0⟩ 0 0 (.off 0)] :
      List Instr).all (fun i => i.wf == false) = true := by decide +kernel

/-- Each check of a command refuses an operand outside its range. -/
theorem test_wf_refuses_3 :
    ([
    .pairedAccess ⟨32, 2, 0, 0⟩ none none, .pairedAccess ⟨0, 1, 0, 0⟩ none none,
    .pairedAccess ⟨0, 3, 0, 0⟩ none none, .aaddi ⟨32, 2, 0, 0⟩ 0 0, .aaddi ⟨0, 1, 0, 0⟩ 0 0,
    .aaddi ⟨0, 4, 0, 0⟩ 0 0, .aadd ⟨32, 2, 0, 0⟩ 0 0, .aadd ⟨0, 1, 0, 0⟩ 0 0, .aadd ⟨0, 4, 0, 0⟩ 0 0,
    .amovi ⟨32, 2, 0, 0⟩ 0 0, .amovi ⟨0, 1, 0, 0⟩ 0 0, .amovi ⟨0, 4, 0, 0⟩ 0 0, .amovhi ⟨32, 2, 0, 0⟩ 0 0,
    .amovhi ⟨0, 1, 0, 0⟩ 0 0, .amovhi ⟨0, 4, 0, 0⟩ 0 0, .amov ⟨32, 2, 0, 0⟩ 0 0, .amov ⟨0, 1, 0, 0⟩ 0 0,
    .amov ⟨0, 4, 0, 0⟩ 0 0, .rda ⟨32, 2, 0, 0⟩ 0 0, .rda ⟨0, 1, 0, 0⟩ 0 0, .rda ⟨0, 4, 0, 0⟩ 0 0,
    .br ⟨32, 3, 0, 0⟩ 0, .br ⟨0, 2, 0, 0⟩ 0, .br ⟨0, 4, 0, 0⟩ 0, .brl ⟨32, 3, 0, 0⟩ 0 0,
    .brl ⟨0, 2, 0, 0⟩ 0 0, .brl ⟨0, 4, 0, 0⟩ 0 0, .brr ⟨32, 3, 0, 0⟩ 0, .brr ⟨0, 2, 0, 0⟩ 0,
    .brr ⟨0, 4, 0, 0⟩ 0, .reti ⟨32, 3, 0, 0⟩, .reti ⟨0, 2, 0, 0⟩, .reti ⟨0, 4, 0, 0⟩, .swi ⟨32, 3, 0, 0⟩,
    .swi ⟨0, 2, 0, 0⟩, .swi ⟨0, 4, 0, 0⟩, .rep ⟨32, 3, 0, 0⟩ 0 0, .rep ⟨0, 2, 0, 0⟩ 0 0,
    .rep ⟨0, 4, 0, 0⟩ 0 0, .loop ⟨32, 3, 0, 0⟩ 0, .loop ⟨0, 2, 0, 0⟩ 0, .loop ⟨0, 4, 0, 0⟩ 0] :
      List Instr).all (fun i => i.wf == false) = true := by decide +kernel

/-- Each check of a command refuses an operand outside its range. -/
theorem test_wf_refuses_4 :
    ([
    .fbar ⟨32, 3, 0, 0⟩, .fbar ⟨0, 2, 0, 0⟩, .fbar ⟨0, 4, 0, 0⟩, .csync ⟨32, 3, 0, 0⟩, .csync ⟨0, 2, 0, 0⟩,
    .csync ⟨0, 4, 0, 0⟩, .mfsr ⟨32, 3, 0, 0⟩ 0 0, .mfsr ⟨0, 2, 0, 0⟩ 0 0, .mfsr ⟨0, 4, 0, 0⟩ 0 0,
    .mtsr ⟨32, 3, 0, 0⟩ 0 0, .mtsr ⟨0, 2, 0, 0⟩ 0 0, .mtsr ⟨0, 4, 0, 0⟩ 0 0, .mtsri ⟨32, 3, 0, 0⟩ 0 0,
    .mtsri ⟨0, 2, 0, 0⟩ 0 0, .mtsri ⟨0, 4, 0, 0⟩ 0 0, .plog ⟨32, 3, 0, 0⟩ 0 0 0 0,
    .plog ⟨0, 2, 0, 0⟩ 0 0 0 0, .plog ⟨0, 4, 0, 0⟩ 0 0 0 0, .reservedEncodingIssue ⟨32, 0, 0, 0⟩,
    .reservedEncodingIssue ⟨0, 4, 0, 0⟩, .haltReq 32, .coreHalted 32 .request, .resume 32, .step 32,
    .migStart 4 0, .migrationCopyStart 4, .migFollowing 4, .migCancel 4 0, .storeEccWriteback 0x04000000,
    .busTransaction .pcie false (2 ^ 32) [] [] 0 0 false, .busTransaction (.clus 4) false 0 [] [] 0 0 false,
    .busTransaction (.dma 4) false 0 [] [] 0 0 false, .busTransaction .pcie false 0 [0] [] 0 0 false,
    .busRetry (.clus 4) false, .busRetry (.dma 4) false, .zfillDone 8, .dmaDescriptorStart 4,
    .dmaDescriptorDone 4 false 0, .dmaTimeout 4 0, .markerReceive 12 0 0, .markerReceive 0 0 (2 ^ 64),
    .markerMissing 12] :
      List Instr).all (fun i => i.wf == false) = true := by decide +kernel

/-- Each check of a command refuses an operand outside its range. -/
theorem test_wf_refuses_5 :
    ([
    .idleReceive 12 0, .serviceReceive 12 0 0, .ts1Receive 12 0, .ts2Receive 12 0, .loopTestReceive 12 0,
    .invalidHeader 12, .retrain 12, .laneEnable 12 false, .laneTrainGranted 12, .trainPhaseAdvance 12,
    .confirmCountDone 12, .trainPhaseTimeout 12, .trainTotalTimeout 12, .backoffExpiry 12, .energyDetect 12,
    .beaconBurst 12, .spurHuntTimeout 12, .testCtrlWrite 12 0, .chkRestart 12, .chkBitsLoRead 12,
    .injGo 12 0, .injPeriod 12, .ltSend 12, .ltTimeout 12, .cellReceive 4 ⟨0, false, false, [], 0⟩ 0,
    .spurCellReceive 4 ⟨0, false, false, [], 0⟩ 0, .wrappedCellExpiry 4, .svcSend 8, .svcPop 8,
    .freqMeasurement 16 0, .refActivityLoss 16, .soakComplete 16, .ntNowRead 32768, .ppsInEdge 32768,
    .arm 64 0, .disarm 64 0, .schedCommit 64, .schedPortStart 64, .schedPhaseStep 64, .schedMute 64,
    .schedUnmute 64, .schedTrunkInsert 64] :
      List Instr).all (fun i => i.wf == false) = true := by decide +kernel

/-- Each check of a command refuses an operand outside its range. -/
theorem test_wf_refuses_6 :
    ([
    .schedUserEvent 64, .portRxFrame 52 ⟨0, 0, 0, 0, 0⟩, .portTxFrame 52 0 0 0, .clkLoss 52 false,
    .maskImmWrite 52 false 0, .portStop 52, .senseSample 16 0 0, .carrierPeriod 16, .ocpComparator 16,
    .ampEnable 16 false, .probeStart 16, .probeDone 16 0 0, .holdExpiry 16, .attemptsClear 16, .latchClr 16,
    .probeReq 16, .mute 16 false, .pilotWindowEnd 16, .boostEnable 8 false, .boostRiseGranted 8,
    .railReady 8, .railCfgWrite 8 0, .boostSwitchPeriod 8 0 0, .railOv 8, .railUv 8, .ledgerTimeout 11 0,
    .ledgerTimeout 0 32, .chkLocked 12, .chkLockLost 12, .refActivityReturn 16,
    .pcieLinkUp 5 false ⟨false, false, false, 0, 0, 0⟩, .ntBit31Change 32768] :
      List Instr).all (fun i => i.wf == false) = true := by decide +kernel

/-- The same commands with operands in range are accepted. -/
theorem test_wf_accepts_0 :
    ([
    .resetNLow 0, .resetNRise, .rootPllLock, .rootUnlock, .xoLoss, .bootReady 0, .devRst 0, .devRstRelease,
    .fsSelWrite 0, .fsChangeApply, .mclkSelApply, .nominalCycleStart, .fsTick [], .passStart 0,
    .clusterPassOverrun 0, .registerWrite ⟨0x10000040, 4, 15, 0, .pcie⟩,
    .tableWrite ⟨0x10000040, 4, 15, 0, .pcie⟩, .softRst 0, .sync 0, .syncDone 0, .irqForce 0 0, .pageLock 0,
    .commitGo 0, .commitAbort 0, .commitValidationDone, .commitApply, .vectorAssert 0, .vecEoi 0 0,
    .pcieReset .perst, .dstateChange false, .qspiWrite 0 0 [], .qspiRead 0 0 ⟨0x0B, 0⟩, .qspiStatus,
    .getVersion 0 0, .getUid 0 0, .flashRead 0 0, .flashWrite 0 0, .flashErase 0 0, .imageVerify 0 0,
    .imageSetPref 0 0, .imageSwitch 0 0, .thermalRead 0 0] :
      List Instr).all (fun i => i.wf == true) = true := by decide +kernel

/-- The same commands with operands in range are accepted. -/
theorem test_wf_accepts_1 :
    ([
    .thermalSetAlarm 0 0, .debugChallenge 0 0, .debugResponse 0 0, .debugKeyProgram 0 0,
    .rollbackAdvance 0 0, .mbxCommandEnd false, .watchdogRestart, .controllerRestartDone, .gpioSet 0,
    .gpioClr 0, .gpioEdge 0 false, .i2cGo 0 0, .i2cTransactionEnd 0 .ok 0 [], .stretchTmo 0 0 [],
    .extest false [], .frameCfgWrite 0, .signalPlaneWrite ⟨0x10000040, 4, 15, 0, .pcie⟩ 0, .clipDataRead,
    .stageInStart 0, .coreFrameStart 0, .stageOutStart 0, .stageOutDone 0, .frameBarrierReached 0,
    .coreOverrun 0, .interruptEntry 0, .doorbell 0 0, .csyncRelease 0, .ibexEccWriteback 0x20000000,
    .nop ⟨0, 0, 0, 0⟩, .mac ⟨0, 0, 0, 0⟩ ⟨0, 0, 0, 0, false, false⟩,
    .msu ⟨0, 0, 0, 0⟩ ⟨0, 0, 0, 0, false, false⟩, .mova ⟨0, 0, 0, 0⟩ 0 0 0, .ext ⟨0, 0, 0, 0⟩ 0 0 0,
    .extd ⟨0, 0, 0, 0⟩ 0 0 0, .mul ⟨0, 0, 0, 0⟩ 0 0 0, .divs ⟨0, 0, 0, 0⟩ 0 0 0, .divq ⟨0, 0, 0, 0⟩ 0 0 0 0,
    .add ⟨0, 0, 0, 0⟩ 0 0 0, .sub ⟨0, 0, 0, 0⟩ 0 0 0, .adds ⟨0, 0, 0, 0⟩ 0 0 0, .subs ⟨0, 0, 0, 0⟩ 0 0 0,
    .and ⟨0, 0, 0, 0⟩ 0 0 0] :
      List Instr).all (fun i => i.wf == true) = true := by decide +kernel

/-- The same commands with operands in range are accepted. -/
theorem test_wf_accepts_2 :
    ([
    .or ⟨0, 0, 0, 0⟩ 0 0 0, .xor ⟨0, 0, 0, 0⟩ 0 0 0, .shli ⟨0, 0, 0, 0⟩ 0 0 0, .shri ⟨0, 0, 0, 0⟩ 0 0 0,
    .srai ⟨0, 0, 0, 0⟩ 0 0 0, .addi ⟨0, 0, 0, 0⟩ 0 0 0, .mov ⟨0, 0, 0, 0⟩ 0 0, .movi ⟨0, 0, 0, 0⟩ 0 0,
    .movhi ⟨0, 0, 0, 0⟩ 0 0, .abs ⟨0, 0, 0, 0⟩ 0 0, .neg ⟨0, 0, 0, 0⟩ 0 0, .min ⟨0, 0, 0, 0⟩ 0 0 0,
    .max ⟨0, 0, 0, 0⟩ 0 0 0, .cmp ⟨0, 0, 0, 0⟩ 0 .eq 0 0, .cmpi ⟨0, 0, 0, 0⟩ 0 .eq 0 0,
    .ld ⟨0, 2, 0, 0⟩ .w4 0 0 (.off 0), .st ⟨0, 2, 0, 0⟩ .w4 0 0 (.off 0), .lda ⟨0, 2, 0, 0⟩ 0 0 (.off 0),
    .sta ⟨0, 2, 0, 0⟩ 0 0 (.off 0), .pairedAccess ⟨0, 2, 0, 0⟩ none none, .aaddi ⟨0, 2, 0, 0⟩ 0 0,
    .aadd ⟨0, 2, 0, 0⟩ 0 0, .amovi ⟨0, 2, 0, 0⟩ 0 0, .amovhi ⟨0, 2, 0, 0⟩ 0 0, .amov ⟨0, 2, 0, 0⟩ 0 0,
    .rda ⟨0, 2, 0, 0⟩ 0 0, .br ⟨0, 3, 0, 0⟩ 0, .brl ⟨0, 3, 0, 0⟩ 0 0, .brr ⟨0, 3, 0, 0⟩ 0,
    .reti ⟨0, 3, 0, 0⟩, .swi ⟨0, 3, 0, 0⟩, .rep ⟨0, 3, 0, 0⟩ 0 0, .loop ⟨0, 3, 0, 0⟩ 0, .fbar ⟨0, 3, 0, 0⟩,
    .csync ⟨0, 3, 0, 0⟩, .mfsr ⟨0, 3, 0, 0⟩ 0 0, .mtsr ⟨0, 3, 0, 0⟩ 0 0, .mtsri ⟨0, 3, 0, 0⟩ 0 0,
    .plog ⟨0, 3, 0, 0⟩ 0 0 0 0, .reservedEncodingIssue ⟨0, 0, 0, 0⟩, .haltReq 0, .coreHalted 0 .request] :
      List Instr).all (fun i => i.wf == true) = true := by decide +kernel

/-- The same commands with operands in range are accepted. -/
theorem test_wf_accepts_3 :
    ([
    .resume 0, .step 0, .migStart 0 0, .migrationCopyStart 0, .migFollowing 0, .migCancel 0 0,
    .storeEccWriteback 0, .busTransaction .pcie false 0 [] [] 0 0 false, .busRetry .pcie false,
    .sliceCtrlWrite 0, .zfill 0, .zfillDone 0, .scrubPassStart, .scrubPassEnd, .scrubLate,
    .dmaDescriptorStart 0, .dmaDescriptorDone 0 false 0, .dmaTimeout 0 0, .markerReceive 0 0 0,
    .markerMissing 0, .idleReceive 0 0, .serviceReceive 0 0 0, .ts1Receive 0 0, .ts2Receive 0 0,
    .loopTestReceive 0 0, .invalidHeader 0, .retrain 0, .laneEnable 0 false, .laneTrainGranted 0,
    .trainPhaseAdvance 0, .confirmCountDone 0, .trainPhaseTimeout 0, .trainTotalTimeout 0, .backoffExpiry 0,
    .energyDetect 0, .beaconBurst 0, .spurHuntTimeout 0, .testCtrlWrite 0 0, .chkRestart 0,
    .chkBitsLoRead 0, .injGo 0 0, .injPeriod 0] :
      List Instr).all (fun i => i.wf == true) = true := by decide +kernel

/-- The same commands with operands in range are accepted. -/
theorem test_wf_accepts_4 :
    ([
    .ltSend 0, .ltTimeout 0, .cellReceive 0 ⟨0, false, false, [], 0⟩ 0,
    .spurCellReceive 0 ⟨0, false, false, [], 0⟩ 0, .wrappedCellExpiry 0, .insSet false,
    .insertionProceed false, .insDone false, .insFail false, .insClear false, .svcSend 0, .svcPop 0,
    .streamStatRead, .freqMeasurement 0 0, .refActivityLoss 0, .soakComplete 0, .numFreqWrite 0,
    .numPhaseWrite 0, .dpllPhaseSample 0, .dpllLocked, .holdoverEvaluate, .pstepGo 0, .pstepDone, .align,
    .alignDone, .set, .setDone, .ntNowRead 0, .ppsInEdge 0, .ppsOutCycWrite 0, .arm 0 0, .disarm 0 0,
    .schedCommit 0, .schedPortStart 0, .schedPhaseStep 0, .schedMute 0, .schedUnmute 0, .schedTrunkInsert 0,
    .schedUserEvent 0, .portStartWrite 0, .portStartTick, .portRxFrame 0 ⟨0, 0, 0, 0, 0⟩] :
      List Instr).all (fun i => i.wf == true) = true := by decide +kernel

/-- The same commands with operands in range are accepted. -/
theorem test_wf_accepts_5 :
    ([
    .portTxFrame 0 0 0 0, .clkLoss 0 false, .maskImmWrite 0 false 0, .portStop 0, .senseSample 0 0 0,
    .carrierPeriod 0, .ocpComparator 0, .ampEnable 0 false, .probeStart 0, .probeDone 0 0 0, .holdExpiry 0,
    .attemptsClear 0, .latchClr 0, .probeReq 0, .mute 0 false, .pilotWindowEnd 0, .calGo 0, .calStepEnd,
    .boostEnable 0 false, .boostRiseGranted 0, .railReady 0, .railCfgWrite 0 0, .boostSwitchPeriod 0 0 0,
    .railOv 0, .railUv 0, .pwrReqGo 0, .retSigDone, .domainStopped, .domainWakeGranted, .domainWakeDone,
    .ledgerGrant, .ledgerTimeout 0 0, .thermalSample [], .vcoreEvaluate 0, .vcoreMove [], .chkLocked 0,
    .chkLockLost 0, .refActivityReturn 0, .pcieLinkUp 0 false ⟨false, false, false, 0, 0, 0⟩,
    .holdoverEstimatorMean, .ntBit31Change 0] :
      List Instr).all (fun i => i.wf == true) = true := by decide +kernel
/-! ### Witnesses of the hypotheses, statement by statement -/

theorem witness_ResetTakesTheWholeDevice :
    (∃ (s : State) (ns : Nat), ns < 1000) ∧
    (∃ (s : State) (ns : Nat), 2000 ≤ ns) ∧
    (1000 ≤ 1000 ∧ 1000 < 2000) ∧
    (1000 ≤ 1999 ∧ 1999 < 2000) ∧
    (∃ (s : State), s.inReset = true ∧ s.pins.rstDev = false) ∧
    (∃ (s : State) (key : Word), s.Takes Page.dev ∧ key = 0xA5C3) ∧
    (∃ (s : State) (key : Word), s.Takes Page.dev ∧ key ≠ 0xA5C3) ∧
    (∃ (s : State), s.pins.rstDev = true ∧ s.pins.rstLow = false) ∧
    (∃ (s : State), s.pins.rstDev = true ∧ s.pins.rstLow = true) :=
    ⟨⟨live, 999, by decide +kernel⟩, ⟨live, 2000, by decide +kernel⟩, by decide +kernel, by decide +kernel,
    ⟨{ State.reset with inReset := true }, by decide +kernel⟩, ⟨live,
    0xA5C3, by simp only [takes_iff]; decide +kernel⟩, ⟨live, 0, by simp only [takes_iff]; decide +kernel⟩,
    ⟨{ live with pins := { live.pins with rstDev := true, rstLow := false } }, by decide +kernel⟩,
    ⟨{ live with pins := { live.pins with rstDev := true, rstLow := true } }, by decide +kernel⟩⟩

theorem witness_RootClockEvents :
    (∃ (s : State), s.inReset = false ∧ s.pwr.phase ≠ .waitRoot ∧ s.pwr.phase ≠ .rollRoot) ∧
    (∃ (s : State) (d : Nat) (rest : List Nat), s.inReset = false ∧ s.pwr.phase = .waitRoot ∧ s.pwr.todo = d ::
      rest) ∧
    (∃ (s : State) (d : Nat) (rest : List Nat), s.inReset = false ∧ s.pwr.phase = .rollRoot ∧ s.pwr.todo = d ::
      rest) ∧
    (∃ (s : State), s.inReset = false ∧ s.flag Page.clk CLK.CLK_STAT.ROOT_LOCK = true) ∧
    (∃ (s : State), s.inReset = false) :=
    ⟨⟨live, by decide +kernel⟩, ⟨{ live with pwr := { live.pwr with phase := .waitRoot, todo := [1] } }, 1,
    [], by decide +kernel⟩, ⟨{ live with pwr := { live.pwr with phase := .rollRoot, todo := [1] } }, 1,
    [], by decide +kernel⟩, ⟨live.putB Page.clk CLK.CLK_STAT.ROOT_LOCK true, by decide +kernel⟩,
    ⟨live, by decide +kernel⟩⟩

theorem witness_BootVerifiesPreferredSlotFirst :
    (∃ (s : State) (mv : Nat), s.inReset = false ∧ s.bootMode = 0) ∧
    (∃ (s : State) (mv : Nat), s.inReset = false ∧ s.bootMode = 0 ∧ s.mgmt.flash = []) :=
    ⟨⟨live, 800, by decide +kernel⟩, ⟨live, 800, by decide +kernel⟩⟩

theorem witness_RateAndClockSelection :
    (∃ (s : State) (v : Word), s.Takes Page.clk ∧ bits v.toNat 0 2 = 3) ∧
    (∃ (s : State) (v : Word), s.Takes Page.clk ∧ bits v.toNat 0 2 ≠ 3 ∧ bits v.toNat 0 2 ≠ s.get Page.clk
      CLK.CLK_CTRL.FS_SEL ∧ (∃ d ∈ [1, 2, 3, 4, 5, 8, 9], s.domCode d ≠ 0)) ∧
    (∃ (s : State) (v : Word), s.Takes Page.clk ∧ bits v.toNat 0 2 ≠ 3 ∧ (∀ d ∈ [1, 2, 3, 4, 5, 8, 9], s.domCode
      d = 0)) ∧
    (∃ (s : State), s.inReset = false) ∧
    (∃ (s : State), s.inReset = false ∧ (∀ i, i < 8 → s.get Page.clk (CLK.MCLK_CTRL.MCLK_SEL i) < 4) ∧ (∀ i, i <
      2 → s.get Page.clk (CLK.WCLK_CTRL.WCLK_SEL i) < 4)) :=
    ⟨⟨live, 3, by simp only [takes_iff]; decide +kernel⟩, ⟨live, 2, by simp only [takes_iff]; decide +kernel⟩,
    ⟨{ live with dom := [(6, .on)] }, 2, by simp only [takes_iff]; decide +kernel⟩, ⟨live, by decide +kernel⟩,
    ⟨live, by decide +kernel⟩⟩

theorem witness_NominalStartAdvancesTime :
    (ticked.inReset = false ∧ (ticked.time.starts ≠ 0 ∨ ticked.flag Page.clk CLK.CLK_STAT.ROOT_LOCK = true)) ∧
    ((live.putB Page.clk CLK.CLK_STAT.ROOT_LOCK true).inReset = false ∧ ((live.putB Page.clk
      CLK.CLK_STAT.ROOT_LOCK true).time.starts ≠ 0 ∨ (live.putB Page.clk CLK.CLK_STAT.ROOT_LOCK true).flag
      Page.clk CLK.CLK_STAT.ROOT_LOCK = true)) ∧
    (∃ (s : State), s.time.starts = 0 ∧ s.flag Page.clk CLK.CLK_STAT.ROOT_LOCK = false) ∧
    (∃ (s : State), s.inReset = false ∧ s.flag Page.ntime NTIME.NT_STAT.SET_PEND = true ∧ s.time.starts ≠ 0) :=
    ⟨by decide +kernel, by decide +kernel, ⟨live, by decide +kernel⟩,
    ⟨ticked.putB Page.ntime NTIME.NT_STAT.SET_PEND true, by decide +kernel⟩⟩

theorem witness_FsTickAdvancesSampleIndex :
    (∃ (s : State) (sense : List SensePair) (i : BitVec 32), s.inReset = false ∧ s.nextTick = some i) ∧
    (∃ (s : State) (sense : List SensePair), s.nextTick = none) ∧
    (∃ (s : State), s.time.starts ≠ 0 ∧ s.fseq.ticksDone = 0) ∧
    (∃ (s : State), s.time.starts ≠ 0 ∧ s.fseq.ticksDone = 1) :=
    ⟨⟨ticked, [], 0, by decide +kernel⟩, ⟨live, [], by decide +kernel⟩, ⟨ticked, by decide +kernel⟩,
    ⟨{ ticked with fseq := { ticked.fseq with ticksDone := 1 } }, by decide +kernel⟩⟩

theorem witness_PassesStartOnceAndOverrun :
    (∃ (s : State) (q : Nat), s.inReset = false ∧ s.domOn 5 = true ∧ s.fseq.winOn = true ∧ q ∈
      s.windowView.passList ∧ Tab.get false s.fseq.passDone q = false) ∧
    (∃ (s : State) (q : Nat), Tab.get false s.fseq.passDone q = true) ∧
    (∃ (s : State) (q : Nat), s.inReset = false ∧ s.domOn 5 = true ∧ q ∈ s.windowView.passList ∧
      s.windowView.passType q = 4 ∧ Tab.get false s.fseq.passDone q = true ∧ (s.cl (s.windowView.passClus
      q)).phase ≠ .idle ∧ (∀ e ∈ s.fseq.old, e.key ∉ [fkey Page.frame FRAME.OVERRUN_COUNT.COUNT, fkey Page.frame
      HDR.IRQ_RAW.RAW, fkey (Page.clus (s.windowView.passClus q)) HDR.IRQ_RAW.RAW])) :=
    ⟨⟨passes, 0, by decide +kernel⟩, ⟨passesDone, 0, by decide +kernel⟩, ⟨passesLate, 0, by decide +kernel⟩⟩

theorem witness_FrameSizeAndClipCounter :
    (live.Takes Page.frame ∧ 6 ≤ bits (6 : Word).toNat 0 3) ∧
    (live.Takes Page.frame ∧ 6 ≤ bits (7 : Word).toNat 0 3) ∧
    (∃ (s : State) (v : Word), s.Takes Page.frame ∧ bits v.toNat 0 3 < 6 ∧ s.run = true) ∧
    (∃ (s : State) (v : Word), s.Takes Page.frame ∧ bits v.toNat 0 3 < 6 ∧ s.run = false) ∧
    (∃ (s : State), s.inReset = false ∧ s.pageOn Page.oryx = true ∧ Tab.get false s.undef 5 = false) ∧
    (∃ (s : State), s.inReset = false ∧ s.pageOn Page.oryx = false) :=
    ⟨by simp only [takes_iff]; decide +kernel, by simp only [takes_iff]; decide +kernel,
    ⟨live.putB Page.frame FRAME.FRAME_RUN.RUN true, 5, by simp only [takes_iff]; decide +kernel⟩, ⟨live,
    5, by simp only [takes_iff]; decide +kernel⟩, ⟨live, by decide +kernel⟩,
    ⟨{ live with dom := [] }, by decide +kernel⟩⟩

theorem witness_SignalPlaneTakesDeclaredOutputsOnly :
    (∃ (s : State) (acc : Access) (n : Nat), s.inReset = false ∧ s.domOn 5 = true ∧ (0x22000000 ≤ acc.addr ∧
      acc.addr + acc.size ≤ 0x22400000) ∧ acc.by_ = .clus (n / 8) ∧ accBytes acc ≠ [] ∧ (∀ x ∈ accBytes acc,
      s.mayWritePlane n ((x.1 - 0x22000000) / 0x200000) ((x.1 - 0x22000000) / 128 % 16384) ((x.1 - 0x22000000) %
      128 / 4) = true)) ∧
    (planeOut.inReset = false ∧ planeOut.domOn 5 = true ∧ (0x22000000 ≤ (planeAcc 0x22000004).addr ∧ (planeAcc
      0x22000004).addr + (planeAcc 0x22000004).size ≤ 0x22400000) ∧ accBytes (planeAcc 0x22000004) ≠ [] ∧ (∀ x ∈
      accBytes (planeAcc 0x22000004), planeOut.mayWritePlane 0 ((x.1 - 0x22000000) / 0x200000) ((x.1 -
      0x22000000) / 128 % 16384) ((x.1 - 0x22000000) % 128 / 4) = false)) ∧
    (planeOut.inReset = false ∧ planeOut.domOn 5 = true ∧ (0x22000000 ≤ (planeAcc 0x22200000).addr ∧ (planeAcc
      0x22200000).addr + (planeAcc 0x22200000).size ≤ 0x22400000) ∧ accBytes (planeAcc 0x22200000) ≠ [] ∧ (∀ x ∈
      accBytes (planeAcc 0x22200000), planeOut.mayWritePlane 0 ((x.1 - 0x22000000) / 0x200000) ((x.1 -
      0x22000000) / 128 % 16384) ((x.1 - 0x22000000) % 128 / 4) = false)) ∧
    (planeOut.inReset = false ∧ planeOut.domOn 5 = true ∧ (0x22000000 ≤ (planeAcc 0x223FFFFC).addr ∧ (planeAcc
      0x223FFFFC).addr + (planeAcc 0x223FFFFC).size ≤ 0x22400000) ∧ accBytes (planeAcc 0x223FFFFC) ≠ [] ∧ (∀ x ∈
      accBytes (planeAcc 0x223FFFFC), planeOut.mayWritePlane 0 ((x.1 - 0x22000000) / 0x200000) ((x.1 -
      0x22000000) / 128 % 16384) ((x.1 - 0x22000000) % 128 / 4) = false)) ∧
    (∃ (s : State) (acc : Access) (n : Nat), s.inReset = false ∧ s.domOn 5 = true ∧ (0x22000000 ≤ acc.addr ∧
      acc.addr + acc.size ≤ 0x22400000) ∧ acc.by_ ≠ .clus (n / 8)) ∧
    (∃ (s : State) (acc : Access) (n : Nat), s.inReset = false ∧ s.domOn 5 = false ∧ (0x22000000 ≤ acc.addr ∧
      acc.addr + acc.size ≤ 0x22400000)) :=
    ⟨⟨planeOut, planeAcc 0x22000000, 0, by decide +kernel⟩, by decide +kernel, by decide +kernel,
    by decide +kernel, ⟨live, planeAcc 0x22000000, 8, by decide +kernel⟩, ⟨{ live with dom := [] },
    planeAcc 0x223FFFFC, 0, by decide +kernel⟩⟩

theorem witness_RegisterWriteIsJudgedInOrder :
    (∃ (s : State) (acc : Access) (p : Nat) (off : Nat) (v : Nat), s.inReset = false ∧ Writes acc p off v ∧
      regAt p off = none) ∧
    (∃ (s : State) (acc : Access) (p : Nat) (off : Nat) (v : Nat), s.inReset = false ∧ Writes acc p off v ∧
      regAt p off ≠ none ∧ (s.locked p = false ∨ (off < 0x40 ∧ off ≠ 0x08)) ∧ s.notReady p = true) ∧
    (∃ (s : State) (acc : Access) (p : Nat) (off : Nat) (v : Nat), s.inReset = false ∧ Writes acc p off v ∧
      regAt p off ≠ none ∧ 0x40 ≤ off ∧ s.locked p = false ∧ s.notReady p = false ∧ s.pageOn p = false) ∧
    (∃ (s : State) (acc : Access) (p : Nat) (off : Nat) (v : Nat), s.inReset = false ∧ Writes acc p off v ∧
      regAt p off ≠ none ∧ (0x40 ≤ off ∨ off = 0x08) ∧ s.locked p = true) ∧
    (∃ (s : State) (acc : Access) (p : Nat) (off : Nat), s.inReset = false ∧ p < 256 ∧ off < 0x1000 ∧ acc.addr =
      0x10000000 + p * 0x1000 + off ∧ (blockOf p).isSome = true ∧ (acc.size = 1 ∨ acc.size = 2 ∨ (acc.size = 4 ∧
      (off % 4 ≠ 0 ∨ acc.enables.toNat % 16 ≠ 15))) ∧ acc.by_ ≠ .jtag) :=
    ⟨⟨live, ⟨0x10000000 + Page.dev * 0x1000 + 0xFFC, 4, 0xF, 0, .pcie⟩, Page.dev, 0xFFC,
    0, by simp only [writes_iff]; decide +kernel⟩, ⟨{ State.reset with inReset := false },
    ⟨0x10000000 + Page.clk * 0x1000 + 0x40, 4, 0xF, 0, .pcie⟩, Page.clk, 0x40,
    0, by simp only [writes_iff]; decide +kernel⟩, ⟨{ live with dom := [] },
    ⟨0x10000000 + Page.frame * 0x1000 + 0x40, 4, 0xF, 0, .pcie⟩, Page.frame, 0x40,
    0, by simp only [writes_iff]; decide +kernel⟩, ⟨live.putB Page.frame HDR.PAGE_LOCK.LOCK true,
    ⟨0x10000000 + Page.frame * 0x1000 + 0x40, 4, 0xF, 0, .pcie⟩, Page.frame, 0x40,
    0, by simp only [writes_iff]; decide +kernel⟩, ⟨live,
    ⟨0x10000000 + Page.frame * 0x1000 + 0x41, 2, 0x3, 0, .pcie⟩, Page.frame, 0x41, by decide +kernel⟩⟩

theorem witness_RegisterWriteEffect :
    (∃ (s : State) (acc : Access) (p : Nat) (off : Nat) (v : Nat), s.Takes p ∧ Writes acc p off v ∧ 0x40 ≤ off ∧
      regAt p off ≠ none ∧ rangeBad p off v = true) ∧
    (∃ (s : State) (acc : Access) (p : Nat) (off : Nat) (v : Nat) (flds : List Fld), s.Takes p ∧ Writes acc p
      off v ∧ (blockOf p).map (·.1) = some .eq ∧ 0x40 ≤ off ∧ regAt p off = some flds ∧ rangeBad p off v = false
      ∧ s.shadowHeld p = false) ∧
    (∃ (s : State) (acc : Access) (p : Nat) (v : Nat), s.inReset = false ∧ Writes acc p 0x10 v ∧ (blockOf
      p).isSome = true ∧ s.notReady p = false ∧ s.spareHeld p = false) ∧
    (∃ (s : State) (acc : Access) (p : Nat) (v : Nat), s.inReset = false ∧ Writes acc p 0x14 v ∧ (blockOf
      p).isSome = true ∧ s.notReady p = false ∧ s.spareHeld p = false) :=
    ⟨⟨live, ⟨0x10000000 + 16 * 0x1000 + 0x40, 4, 0xF, 0xFFFFFFFF, .pcie⟩, 16, 0x40,
    0xFFFFFFFF, by simp only [takes_iff, writes_iff]; decide +kernel⟩, ⟨live,
    ⟨0x10000000 + Page.eq * 0x1000 + 0x40, 4, 0xF, 1, .pcie⟩, Page.eq, 0x40, 1,
    (regAt Page.eq 0x40).get!, by simp only [takes_iff, writes_iff]; decide +kernel⟩, ⟨live,
    ⟨0x10000000 + Page.frame * 0x1000 + 0x10, 4, 0xF, 1, .pcie⟩, Page.frame,
    1, by simp only [writes_iff]; decide +kernel⟩, ⟨live,
    ⟨0x10000000 + Page.frame * 0x1000 + 0x14, 4, 0xF, 1, .pcie⟩, Page.frame,
    1, by simp only [writes_iff]; decide +kernel⟩⟩

theorem witness_RegisterReadShowsItsFields :
    (∃ (s : State) (by_ : Master) (p : Nat) (off : Nat) (flds : List Fld) (qos : BitVec 4), s.inReset = false ∧
      by_ ≠ .jtag ∧ s.admits by_ qos.toNat = true ∧ s.waiting.any (fun w => w.by_ == by_) = false ∧ p < 256 ∧
      off < 0x1000 ∧ off % 4 = 0 ∧ regAt p off = some flds ∧ (blockOf p).map (·.1) = some .eq ∧ (off < 0x40 ∨
      (s.pageOn p = true ∧ Tab.get false s.undef (pageDomain p) = false)) ∧ (∀ x ∈ blockOf p, 0x40 ≤ off →
      s.blockView x.1 x.2 off = none) ∧ (∀ f ∈ flds, s.get p f < 2 ^ f.w ∧ s.getSh p f < 2 ^ f.w)) ∧
    (live.inReset = false ∧ (.pcie : Master) ≠ .jtag ∧ live.admits (.pcie : Master) (0 : BitVec 4).toNat = true
      ∧ live.waiting.any (fun w => w.by_ == (.pcie : Master)) = false ∧ 255 < 256 ∧ 0xFFC < 0x1000 ∧ 0xFFC % 4 =
      0 ∧ regAt 255 0xFFC = none) ∧
    (({ live with dom := [] } : State).inReset = false ∧ (.dma 3 : Master) ≠ .jtag ∧ ({ live with dom := [] } :
      State).admits (.dma 3 : Master) (15 : BitVec 4).toNat = true ∧ ({ live with dom := [] } :
      State).waiting.any (fun w => w.by_ == (.dma 3 : Master)) = false ∧ Page.eq < 256 ∧ 0x40 < 0x1000 ∧ 0x40 %
      4 = 0 ∧ regAt Page.eq 0x40 ≠ none ∧ 0x40 ≤ 0x40 ∧ ({ live with dom := [] } : State).pageOn Page.eq =
      false) :=
    ⟨⟨live, .pcie, Page.eq, 0x40, (regAt Page.eq 0x40).get!, 0, by decide +kernel⟩, by decide +kernel,
    by decide +kernel⟩

theorem witness_TableWriteReachesShadowCopyOnly :
    (∃ (s : State) (acc : Access) (p : Nat) (set : Nat), s.inReset = false ∧ (acc.by_ ≠ .jtag ∧ ((acc.size = 4 ∧
      acc.enables.toNat % 16 = 15 ∧ acc.addr % 4 = 0) ∨ (acc.size = 8 ∧ acc.enables = 0xFF#8 ∧ acc.addr % 8 =
      0))) ∧ placeOf acc.addr = .table p set ∧ s.pageOn p = true ∧ s.locked p = false ∧ set ≠ s.activeSet p ∧
      s.shadowHeld p = false) ∧
    (∃ (s : State) (acc : Access) (p : Nat), s.inReset = false ∧ (acc.by_ ≠ .jtag ∧ ((acc.size = 4 ∧
      acc.enables.toNat % 16 = 15 ∧ acc.addr % 4 = 0) ∨ (acc.size = 8 ∧ acc.enables = 0xFF#8 ∧ acc.addr % 8 =
      0))) ∧ placeOf acc.addr = .table p (s.activeSet p) ∧ s.pageOn p = true ∧ s.locked p = false) ∧
    (∃ (s : State) (acc : Access) (p : Nat) (set : Nat), s.inReset = false ∧ acc.by_ ≠ .jtag ∧ acc.addr % 256 +
      acc.size ≤ 256 ∧ 1 ≤ acc.size ∧ acc.size ≤ 8 ∧ placeOf acc.addr = .table p set ∧ s.locked p = true) ∧
    (∃ (s : State) (acc : Access) (p : Nat) (set : Nat), s.inReset = false ∧ (acc.by_ ≠ .jtag ∧ ((acc.size = 4 ∧
      acc.enables.toNat % 16 = 15 ∧ acc.addr % 4 = 0) ∨ (acc.size = 8 ∧ acc.enables = 0xFF#8 ∧ acc.addr % 8 =
      0))) ∧ placeOf acc.addr = .table p set ∧ s.pageOn p = true ∧ s.locked p = false ∧ set ≠ s.activeSet p ∧
      s.shadowHeld p = true) ∧
    (∃ (s : State) (acc : Access) (p : Nat) (set : Nat), s.inReset = false ∧ (acc.by_ ≠ .jtag ∧ ((acc.size = 4 ∧
      acc.enables.toNat % 16 = 15 ∧ acc.addr % 4 = 0) ∨ (acc.size = 8 ∧ acc.enables = 0xFF#8 ∧ acc.addr % 8 =
      0))) ∧ placeOf acc.addr = .table p set ∧ s.locked p = false ∧ s.pageOn p = false) ∧
    (∃ (s : State) (acc : Access) (n : Nat) (set : Nat), s.inReset = false ∧ (acc.by_ ≠ .jtag ∧ ((acc.size = 4 ∧
      acc.enables.toNat % 16 = 15 ∧ acc.addr % 4 = 0) ∨ (acc.size = 8 ∧ acc.enables = 0xFF#8 ∧ acc.addr % 8 =
      0))) ∧ placeOf acc.addr = .prog n set ∧ s.pageOn (Page.ibex n) = true ∧ s.locked (Page.ibex n) = false ∧
      set = s.activeSet (Page.ibex n)) ∧
    (∃ (s : State) (acc : Access) (n : Nat) (set : Nat), s.inReset = false ∧ (acc.by_ ≠ .jtag ∧ ((acc.size = 4 ∧
      acc.enables.toNat % 16 = 15 ∧ acc.addr % 4 = 0) ∨ (acc.size = 8 ∧ acc.enables = 0xFF#8 ∧ acc.addr % 8 =
      0))) ∧ acc.size = 4 ∧ placeOf acc.addr = .prog n set ∧ s.pageOn (Page.ibex n) = true ∧ s.locked (Page.ibex
      n) = false ∧ set ≠ s.activeSet (Page.ibex n) ∧ s.shadowHeld (Page.ibex n) = false ∧ (s.core n).swapPend =
      false ∧ s.memMirror (n / 8) = none) :=
    ⟨⟨live, ⟨0x10380000, 4, 0xF, 0, .pcie⟩, Page.eq, 1, by decide +kernel⟩, ⟨live,
    ⟨0x10300000, 8, 0xFF, 0, .pcie⟩, Page.eq, by decide +kernel⟩, ⟨live.putB Page.eq HDR.PAGE_LOCK.LOCK true,
    ⟨0x10380000, 4, 0xF, 0, .pcie⟩, Page.eq, 1, by decide +kernel⟩, ⟨live.putB Page.eq HDR.PAGE_STAT.BUSY true,
    ⟨0x10380000, 4, 0xF, 0, .pcie⟩, Page.eq, 1, by decide +kernel⟩, ⟨{ live with dom := [] },
    ⟨0x10380000, 4, 0xF, 0, .pcie⟩, Page.eq, 1, by decide +kernel⟩, ⟨live, ⟨0x20000000, 4, 0xF, 0, .pcie⟩, 0,
    0, by decide +kernel⟩, ⟨live, ⟨0x21F1FFFC, 4, 0xF, 0, .pcie⟩, 31, 1, by decide +kernel⟩⟩

theorem witness_SoftResetAndSync :
    (∃ (s : State) (p : Nat) (off : Nat) (flds : List Fld), s.Takes p ∧ s.inCommit p = false ∧ 0x40 ≤ off ∧ off
      < 0x1000 ∧ regAt p off = some flds ∧ (p, off) ∉ [(Page.clk, 0x40), (Page.gpio, 0x40), (Page.gpio, 0x44),
      (Page.gpio, 0x54), (Page.gpio, 0x58)]) ∧
    (∃ (s : State) (p : Nat), (blockOf p).isSome = true ∧ s.Takes p ∧ s.inCommit p = true) ∧
    (∃ (s : State) (p : Nat), (pageTables p).isSome = true ∧ s.Takes p ∧ s.inCommit p = false ∧ s.syncing p =
      false) ∧
    (∃ (s : State) (p : Nat), (blockOf p).isSome = true ∧ s.Takes p ∧ s.inCommit p = true) ∧
    (∃ (s : State) (p : Nat) (a : Nat) (b : Nat) (n : Nat), s.inReset = false ∧ s.pageOn p = true ∧ s.syncing p
      = true ∧ pageTables p = some (a, b, n) ∧ (a < 0x20000000 ∨ s.memMirror (clusOfAddr a) = none)) :=
    ⟨⟨live, Page.frame, 0x40, (regAt Page.frame 0x40).get!, by simp only [takes_iff]; decide +kernel⟩,
    ⟨{ live.putB Page.dev DEV.COMMIT_STAT.PENDING true with commit := { CommitReq.reset with pages := [Page.eq] } },
    Page.eq, by simp only [takes_iff]; decide +kernel⟩, ⟨live,
    Page.eq, by simp only [takes_iff]; decide +kernel⟩,
    ⟨{ live.putB Page.dev DEV.COMMIT_STAT.PENDING true with commit := { CommitReq.reset with pages := [Page.eq] } },
    Page.eq, by simp only [takes_iff]; decide +kernel⟩, ⟨live.putB Page.eq HDR.PAGE_STAT.BUSY true, Page.eq,
    0x10300000, 0x10380000, 0x80000, by decide +kernel⟩⟩

theorem witness_IrqForceAndPageLock :
    (∃ (s : State) (p : Nat) (b : Word), s.inReset = false ∧ (blockOf p).isSome = true ∧ s.notReady p = false ∧
      s.spareHeld p = false) ∧
    (∃ (s : State) (p : Nat), s.inReset = false ∧ (blockOf p).isSome = true ∧ s.notReady p = false ∧ s.spareHeld
      p = false) ∧
    (∃ (s : State) (p : Nat) (b : Word), s.inReset = false ∧ (blockOf p).isSome = true ∧ (s.notReady p = true ∨
      s.spareHeld p = true)) :=
    ⟨⟨live, Page.frame, 1, by decide +kernel⟩, ⟨live.putB Page.frame HDR.PAGE_LOCK.LOCK true,
    Page.frame, by decide +kernel⟩, ⟨live.put (Page.clus 0) CLUS.MIG_STAT.STATE 3, Page.ibex 7,
    1, by decide +kernel⟩⟩

theorem witness_CommitGoAndAbort :
    (live.Takes Page.dev ∧ (live.commitPending = false ∨ (0x10001 : Word).getLsbD 18 = true ∧ live.commitAtOnce
      = false) ∧ bits (0x10001 : Word).toNat 8 2 = 0 ∧ live.pwrBusy = false) ∧
    (pendingCommit.Takes Page.dev ∧ (pendingCommit.commitPending = false ∨ (0x50001 : Word).getLsbD 18 = true ∧
      pendingCommit.commitAtOnce = false) ∧ bits (0x50001 : Word).toNat 8 2 = 0 ∧ pendingCommit.pwrBusy = false)
      ∧
    (live.Takes Page.dev ∧ (live.commitPending = false ∨ (0x10101 : Word).getLsbD 18 = true ∧ live.commitAtOnce
      = false) ∧ (bits (0x10101 : Word).toNat 8 2 = 1 ∨ bits (0x10101 : Word).toNat 8 2 = 2) ∧ live.pwrBusy =
      false) ∧
    (live.Takes Page.dev ∧ (live.commitPending = false ∨ (0x302FF : Word).getLsbD 18 = true ∧ live.commitAtOnce
      = false) ∧ (bits (0x302FF : Word).toNat 8 2 = 1 ∨ bits (0x302FF : Word).toNat 8 2 = 2) ∧ live.pwrBusy =
      false) ∧
    (live.Takes Page.dev ∧ ((0x10300 : Word).getLsbD 18 = false ∨ live.commitAtOnce = true) ∧ (bits (0x10300 :
      Word).toNat 8 2 = 3 ∨ live.commitPending = true ∨ live.pwrBusy = true)) ∧
    (pendingCommit.Takes Page.dev ∧ ((0x10001 : Word).getLsbD 18 = false ∨ pendingCommit.commitAtOnce = true) ∧
      (bits (0x10001 : Word).toNat 8 2 = 3 ∨ pendingCommit.commitPending = true ∨ pendingCommit.pwrBusy = true))
      ∧
    (∃ (s : State) (ctrl : Word), s.Takes Page.dev ∧ ctrl.getLsbD 18 = true ∧ s.commitAtOnce = false ∧ (bits
      ctrl.toNat 8 2 = 3 ∨ s.pwrBusy = true)) ∧
    (∃ (ctrl : Word), ctrl.getLsbD 16 = true) ∧
    (∃ (s : State) (ctrl : Word), s.Takes Page.dev ∧ ctrl.getLsbD 16 = false) :=
    ⟨by simp only [takes_iff]; decide +kernel, by simp only [takes_iff]; decide +kernel,
    by simp only [takes_iff]; decide +kernel, by simp only [takes_iff]; decide +kernel,
    by simp only [takes_iff]; decide +kernel, by simp only [takes_iff]; decide +kernel, ⟨pendingCommit,
    0x50300, by simp only [takes_iff]; decide +kernel⟩, ⟨0x10000, by decide +kernel⟩, ⟨live,
    0x40000, by simp only [takes_iff]; decide +kernel⟩⟩

theorem witness_CommitChecksDecide :
    (∃ (s : State), s.inReset = false ∧ s.commitPending = true ∧ s.commit.checked = false ∧ s.commitPast = false
      ∧ s.refusal s.commitConfig = none) ∧
    (∃ (s : State) (f : Fail), s.inReset = false ∧ s.commitPending = true ∧ s.commit.checked = false ∧
      s.commitPast = false ∧ s.refusal s.commitConfig = some f) ∧
    (∃ (s : State) (f : Fail) (b : BitVec 32), s.inReset = false ∧ s.nextTick = some b ∧ s.commitDue = true ∧
      s.commitMissed = false ∧ (s.throughG2 b).refusal (s.throughG2 b).commitConfig = some f) ∧
    (∃ (s : State) (f : Fail) (b : BitVec 32), s.inReset = false ∧ s.nextTick = some b ∧ s.commitDue = true ∧
      s.commitMissed = false ∧ (s.throughG2 b).refusal (s.throughG2 b).commitConfig = none ∧ (s.throughG2
      b).deferral (s.throughG2 b).commitConfig = some f) ∧
    (∃ (s : State) (b : BitVec 32), s.inReset = false ∧ s.nextTick = some b ∧ s.commitDue = true ∧
      s.commitMissed = true) ∧
    (∃ (s : State), s.commitPending = false) :=
    ⟨⟨pendingCommit, by decide +kernel⟩, ⟨{ refusedCommit with commit := CommitReq.reset },
    (2, Page.eq, 0), by decide +kernel⟩, ⟨refusedCommit, (2, Page.eq, 0), 0, by decide +kernel⟩,
    ⟨deferredCommit, (0x45, Page.eq, 0), 0, by decide +kernel⟩,
    ⟨{ ticked.putB Page.dev DEV.COMMIT_STAT.PENDING true with commit := { CommitReq.reset with checked := true, strict := true, timing := 1, target := 2 ^ 32 - 2 } },
    0, by decide +kernel⟩, ⟨live, by decide +kernel⟩⟩

theorem witness_AppliedCommitIsReported :
    ∃ (s : State) (b : BitVec 32), s.inReset = false ∧ s.nextTick = some b ∧ s.commitDue = true ∧ s.commitMissed
      = false ∧ (s.throughG2 b).refusal (s.throughG2 b).commitConfig = none ∧ (s.throughG2 b).deferral
      (s.throughG2 b).commitConfig = none :=
    ⟨checkedCommit, 0, by decide +kernel⟩

theorem witness_CommitChecksFindTheirFaults_1 :
    ∃ (s : State), s.inReset = false ∧ s.commitPending = true ∧ s.commit.checked = false ∧ s.commitPast = false
      ∧ s.commitConfig.check1 s s.scans ≠ none :=
    ⟨{ refusedCommit with commit := CommitReq.reset }, by decide +kernel⟩

theorem witness_CommitChecksFindTheirFaults_2 :
    ∃ (s : State) (i : Nat), s.inReset = false ∧ s.commitPending = true ∧ s.commit.checked = false ∧
      s.commitPast = false ∧ s.commitConfig.check1 s s.scans = none ∧ s.commitConfig.domOn 5 = true ∧ i + 1 <
      (s.commitConfig.xpts.map (fun e => e.dst * 16384 + e.src)).length ∧ (s.commitConfig.xpts.map (fun e =>
      e.dst * 16384 + e.src)).getD (i + 1) 0 ≤ (s.commitConfig.xpts.map (fun e => e.dst * 16384 + e.src)).getD i
      0 :=
    ⟨unordered, 0, by decide +kernel⟩

theorem witness_CommitChecksFindTheirFaults_3 :
    ∃ (s : State) (sig : Nat), s.inReset = false ∧ s.commitPending = true ∧ s.commit.checked = false ∧
      s.commitPast = false ∧ s.commitConfig.check1 s s.scans = none ∧ s.commitConfig.check2 = none ∧ 1 <
      s.commitConfig.producers.countP (fun e => e.2 == sig) ∧ (∀ k < sig, s.commitConfig.producers.countP (fun e
      => e.2 == k) ≤ 1) :=
    ⟨twoProducers, 5, by decide +kernel⟩

theorem witness_CommitChecksFindTheirFaults_4 :
    ∃ (s : State) (i : Nat) (n : Nat), s.inReset = false ∧ s.commitPending = true ∧ s.commit.checked = false ∧
      s.commitPast = false ∧ s.commitConfig.check1 s s.scans = none ∧ s.commitConfig.check2 = none ∧
      s.commitConfig.check3 = none ∧ i ∈ s.commitConfig.presentPasses 4 ∧ n ∈ s.commitConfig.enCores
      (s.commitConfig.passClus i) ∧ s.commitConfig.ibexCfg n IBEX.DECL_WCET.CYCLES < s.commitConfig.stageCycles
      (n / 8) false + s.commitConfig.stageCycles (n / 8) true + 16 :=
    ⟨shortCore, 0, 0, by decide +kernel⟩

theorem witness_CommitChecksFindTheirFaults_5 :
    ∃ (s : State), s.inReset = false ∧ s.commitPending = true ∧ s.commit.checked = false ∧ s.commitPast = false
      ∧ s.commitConfig.check1 s s.scans = none ∧ s.commitConfig.check2 = none ∧ s.commitConfig.check3 = none ∧
      s.commitConfig.coreLate = none ∧ s.commitConfig.domOn 5 = true ∧ (s.commitConfig.schedule.any (fun q =>
      decide (s.commitConfig.budget < q.start + q.cost))) = true :=
    ⟨overBudget, by decide +kernel⟩

theorem witness_CommitChecksFindTheirFaults_6 :
    ∃ (s : State) (p : Nat) (lidx : Nat) (par : Nat), s.inReset = false ∧ s.commitPending = true ∧
      s.commit.checked = false ∧ s.commitPast = false ∧ s.commitConfig.check1 s s.scans = none ∧
      s.commitConfig.check2 = none ∧ s.commitConfig.check3 = none ∧ s.commitConfig.check4 = none ∧
      s.commitConfig.domOn 7 = true ∧ p < 8 ∧ par < 2 ∧ s.commitConfig.slots p < (s.commitConfig.portPlan p lidx
      par).length :=
    ⟨overPlan, 4, 0, 0, by decide +kernel⟩

theorem witness_CommitChecksFindTheirFaults_7 :
    ∃ (s : State) (b : BitVec 32), s.inReset = false ∧ s.nextTick = some b ∧ s.commitDue = true ∧ s.commitMissed
      = false ∧ s.commit.strict = false ∧ (s.throughG2 b).refusal (s.throughG2 b).commitConfig = none ∧
      (s.throughG2 b).commitConfig.domOn 5 = true ∧ (∃ i < 8, (s.throughG2 b).commitConfig.get Page.eq
      (EQ.XALLOW.ALLOW i) < (eqMoving (s.throughG2 b) (s.throughG2 b).commitConfig).countP (fun e => e.1 == some
      i)) :=
    ⟨deferredCommit, 0, by decide +kernel⟩

theorem witness_AppliedCommitTakesShadowCopies :
    (checkedCommit.inReset = false ∧ checkedCommit.nextTick = some (0 : BitVec 32) ∧ checkedCommit.commitDue =
      true ∧ checkedCommit.commitMissed = false ∧ (checkedCommit.throughG2 (0 : BitVec 32)).refusal
      (checkedCommit.throughG2 (0 : BitVec 32)).commitConfig = none ∧ (checkedCommit.throughG2 (0 : BitVec
      32)).deferral (checkedCommit.throughG2 (0 : BitVec 32)).commitConfig = none ∧ (blockOf Page.eq).isSome =
      true ∧ checkedCommit.fseq.oldTabs = [] ∧ checkedCommit.commit.pages.Nodup) ∧
    (dirtyCommit.inReset = false ∧ dirtyCommit.nextTick = some (0 : BitVec 32) ∧ dirtyCommit.commitDue = true ∧
      dirtyCommit.commitMissed = false ∧ (dirtyCommit.throughG2 (0 : BitVec 32)).refusal (dirtyCommit.throughG2
      (0 : BitVec 32)).commitConfig = none ∧ (dirtyCommit.throughG2 (0 : BitVec 32)).deferral
      (dirtyCommit.throughG2 (0 : BitVec 32)).commitConfig = none ∧ (blockOf Page.eq).isSome = true ∧
      dirtyCommit.fseq.oldTabs = [] ∧ dirtyCommit.commit.pages.Nodup ∧ (dirtyCommit.commit.pages.contains
      Page.eq && dirtyCommit.dirty Page.eq && dirtyCommit.pageOn Page.eq) = true) :=
    ⟨by decide +kernel, by decide +kernel⟩

theorem witness_PendingVectorAsserts :
    (∃ (s : State) (v : Nat), s.inReset = false ∧ v < 64 ∧ s.vecPending v = true ∧ s.inService v = false) ∧
    (∃ (s : State) (v : Nat), (s.vecPending v = false ∨ s.inService v = true)) :=
    ⟨⟨pendingVector, 0, by decide +kernel⟩, ⟨live, 63, by decide +kernel⟩⟩

theorem witness_EndOfServiceReassertsPendingVectors :
    (pendingVector.Takes Page.irq ∧ 0 < 2) ∧
    (pendingVector.Takes Page.irq ∧ 1 < 2) :=
    ⟨by simp only [takes_iff]; decide +kernel, by simp only [takes_iff]; decide +kernel⟩

theorem witness_PcieEventsChangeHostPage :
    (∃ (s : State), s.inReset = false) ∧
    (∃ (s : State), s.inReset = false ∧ s.d3hot = false) ∧
    (∃ (s : State), s.inReset = false ∧ s.d3hot = true) ∧
    (live.inReset = false ∧ 1 ≤ 1 ∧ 1 ≤ 4) ∧
    (live.inReset = false ∧ 1 ≤ 4 ∧ 4 ≤ 4) :=
    ⟨⟨live, by decide +kernel⟩, ⟨live, by decide +kernel⟩,
    ⟨live.put Page.host HOST.HOST_STAT.DSTATE 3, by decide +kernel⟩, by decide +kernel, by decide +kernel⟩

theorem witness_QspiFrames :
    (live.inReset = false ∧ ((2 : Word).toNat % 4 ≠ 0 ∨ 64 ≤ (0 : Byte).toNat)) ∧
    (live.inReset = false ∧ ((0 : Word).toNat % 4 ≠ 0 ∨ 64 ≤ (64 : Byte).toNat)) ∧
    (∃ (s : State) (addr : Word) (cnt : Byte) (frame : QspiFrame), s.inReset = false ∧ (frame.cmd ≠ 0x0B ∨
      addr.toNat % 4 ≠ 0 ∨ 64 ≤ cnt.toNat)) ∧
    (∃ (s : State) (addr : Word) (cnt : Byte), s.inReset = false ∧ addr.toNat % 4 = 0 ∧ cnt.toNat < 64) ∧
    (∃ (s : State) (addr : Word) (cnt : Byte) (frame : QspiFrame), s.inReset = false ∧ frame.cmd = 0x0B ∧
      addr.toNat % 4 = 0 ∧ cnt.toNat < 64 ∧ slowRead addr.toNat = true ∧ 64 < frame.waits) ∧
    (∃ (s : State) (addr : Word) (cnt : Byte) (frame : QspiFrame), s.inReset = false ∧ frame.cmd = 0x0B ∧
      addr.toNat % 4 = 0 ∧ cnt.toNat < 64 ∧ (slowRead addr.toNat = false ∨ frame.waits ≤ 64)) ∧
    (∃ (s : State), s.inReset = false) :=
    ⟨by decide +kernel, by decide +kernel, ⟨live, 0, 63, ⟨0x0C, 0⟩, by decide +kernel⟩, ⟨live, 4,
    63, by decide +kernel⟩, ⟨live, 0, 0, ⟨0x0B, 65⟩, by decide +kernel⟩, ⟨live, 0, 0,
    ⟨0x0B, 64⟩, by decide +kernel⟩, ⟨live, by decide +kernel⟩⟩

theorem witness_MailboxCommandEnds :
    ∃ (s : State) (op : Nat) (len : Nat), s.mgmtLive = true ∧ s.mgmt.running = some (op, len) :=
    ⟨mailbox, 1, 0, by decide +kernel⟩

theorem witness_ControllerRestart :
    (∃ (s : State), s.inReset = false ∧ s.bootMode ≠ 0) ∧
    (∃ (s : State), s.inReset = false ∧ s.mgmt.restart = true) :=
    ⟨⟨mailbox, by decide +kernel⟩,
    ⟨{ mailbox with mgmt := { mailbox.mgmt with restart := true } }, by decide +kernel⟩⟩

theorem witness_GpioPins :
    (∃ (s : State), s.Takes Page.gpio) ∧
    (live.inReset = false ∧ 0 < 32 ∧ (live.get Page.gpio GPIO.GPIO_IN.IN).testBit 0 = !true) ∧
    ((live.put Page.gpio GPIO.GPIO_IN.IN 0x80000000).inReset = false ∧ 31 < 32 ∧ ((live.put Page.gpio
      GPIO.GPIO_IN.IN 0x80000000).get Page.gpio GPIO.GPIO_IN.IN).testBit 31 = !false) :=
    ⟨⟨live, by simp only [takes_iff]; decide +kernel⟩, by decide +kernel, by decide +kernel⟩

theorem witness_I2cTransactions :
    (∃ (s : State), s.Takes (Page.i2cm 0)) ∧
    (∃ (s : State), s.Takes (Page.i2cm 1) ∧ s.i2cBusy 1 = true) ∧
    (∃ (s : State) (cmd : Word), s.Takes (Page.i2cm 1) ∧ s.i2cBusy 1 = false ∧ (32 < bits cmd.toNat 8 6 ∨ 32 <
      bits cmd.toNat 16 6)) ∧
    (live.Takes (Page.i2cm 1) ∧ live.i2cBusy 1 = false ∧ bits (0x00202001 : Word).toNat 8 6 ≤ 32 ∧ bits
      (0x00202001 : Word).toNat 16 6 ≤ 32) ∧
    (live.Takes (Page.i2cm 1) ∧ live.i2cBusy 1 = false ∧ bits (0 : Word).toNat 8 6 ≤ 32 ∧ bits (0 : Word).toNat
      16 6 ≤ 32) ∧
    (((i2cOn.put (Page.i2cm 1) I2CM.I2C_CMD.WLEN 32).put (Page.i2cm 1) I2CM.I2C_CMD.RLEN 32).inReset = false ∧ 1
      < 2 ∧ ((i2cOn.put (Page.i2cm 1) I2CM.I2C_CMD.WLEN 32).put (Page.i2cm 1) I2CM.I2C_CMD.RLEN 32).i2cBusy 1 =
      true ∧ ((i2cOn.put (Page.i2cm 1) I2CM.I2C_CMD.WLEN 32).put (Page.i2cm 1) I2CM.I2C_CMD.RLEN 32).get
      (Page.i2cm 1) I2CM.I2C_CMD.WLEN ≤ 32 ∧ ((i2cOn.put (Page.i2cm 1) I2CM.I2C_CMD.WLEN 32).put (Page.i2cm 1)
      I2CM.I2C_CMD.RLEN 32).get (Page.i2cm 1) I2CM.I2C_CMD.RLEN ≤ 32 ∧ ((.dataNack : I2cResult) = .dataNack →
      ((i2cOn.put (Page.i2cm 1) I2CM.I2C_CMD.WLEN 32).put (Page.i2cm 1) I2CM.I2C_CMD.RLEN 32).get (Page.i2cm 1)
      I2CM.I2C_CMD.WLEN ≠ 0)) ∧
    (i2cOn.inReset = false ∧ 1 < 2 ∧ i2cOn.i2cBusy 1 = true ∧ i2cOn.get (Page.i2cm 1) I2CM.I2C_CMD.WLEN ≤ 32 ∧
      i2cOn.get (Page.i2cm 1) I2CM.I2C_CMD.RLEN ≤ 32 ∧ ((.busStuck : I2cResult) = .dataNack → i2cOn.get
      (Page.i2cm 1) I2CM.I2C_CMD.WLEN ≠ 0)) ∧
    (∃ (s : State) (m : Nat), s.inReset = false ∧ m < 2 ∧ s.i2cBusy m = true ∧ s.get (Page.i2cm m)
      I2CM.I2C_CMD.RLEN ≤ 32) :=
    ⟨⟨live, by simp only [takes_iff]; decide +kernel⟩, ⟨i2cOn, by simp only [takes_iff]; decide +kernel⟩, ⟨live,
    0x2101, by simp only [takes_iff]; decide +kernel⟩, by simp only [takes_iff]; decide +kernel,
    by simp only [takes_iff]; decide +kernel, by decide +kernel, by decide +kernel, ⟨i2cOn,
    1, by decide +kernel⟩⟩

theorem witness_EnginePassesComputeAndWrite :
    (∃ (s : State) (q : Nat), s.inReset = false ∧ s.domOn 5 = true ∧ s.fseq.winOn = true ∧ s.fseq.old = [] ∧ q ∈
      s.passList ∧ Tab.get false s.fseq.passDone q = false ∧ s.passPresent q = true ∧ s.passType q = 1 ∧ s.fsize
      ≤ 32 ∧ ((s.oryxDsts q).flatMap (fun d => ((s.passXpts q).filter (fun e => e.dst == d)).map Xpt.key ++ (if
      s.fadePass d == some q then s.fadesOf false d else []))).Nodup ∧ s.oryxDsts q ≠ []) ∧
    (∃ (s : State) (q : Nat), s.inReset = false ∧ s.domOn 5 = true ∧ s.fseq.winOn = true ∧ s.fseq.old = [] ∧ q ∈
      s.passList ∧ Tab.get false s.fseq.passDone q = false ∧ s.passPresent q = true ∧ s.passType q = 2 ∧ s.fsize
      ≤ 32 ∧ s.get Page.eq EQ.EQ_LEN.LEN ≤ 16384 ∧ (∀ e ∈ s.eqSecs, e.2.extra = false) ∧ ((s.passChains q).map
      (fun c => c.2.dst)).Nodup ∧ s.passChains q ≠ []) ∧
    (∃ (e : EqSec), e.tr = none) ∧
    (∃ (e : EqSec) (x : EqTrans), e.tr = some x) ∧
    (∃ (s : State) (q : Nat) (l : Line), s.inReset = false ∧ s.domOn 5 = true ∧ s.fseq.winOn = true ∧ s.fseq.old
      = [] ∧ q ∈ s.passList ∧ Tab.get false s.fseq.passDone q = false ∧ s.passPresent q = true ∧ s.passType q =
      3 ∧ s.fsize ≤ 32 ∧ (∀ x ∈ s.passTaps q, x.line = l) ∧ ((s.passTaps q).map (fun x => x.e.dst)).Nodup ∧
      s.gathered l.base = none ∧ s.ecc = [] ∧ (∀ b, b < 8 → s.bankLost b = false) ∧ l.base + 4 * l.len ≤
      0x04000000 ∧ s.fsize ≤ l.len ∧ s.fseq.winFrame * s.fsize + s.fsize ≤ 2 ^ 32 ∧ (∃ x ∈ s.passTaps q, (s.tap
      x.idx).cur ≤ s.fseq.winFrame * s.fsize ∧ (s.tap x.idx).cur + s.fsize ≤ l.len)) :=
    ⟨⟨(passes.put Page.oryx ORYX.ORYX_LEN.LEN 1), 0, by decide +kernel⟩, ⟨eqWindow, 0, by decide +kernel⟩,
    ⟨EqSec.zero, by decide +kernel⟩, ⟨⟨EqSec.zero.h, some ⟨Coef.identity, EqSec.zero.h, 0, 6⟩, false⟩,
    ⟨Coef.identity, EqSec.zero.h, 0, 6⟩, by decide +kernel⟩, ⟨tapWindow, 0,
    ((tapWindow.passTaps 0).head?.map (·.line)).getD ⟨0, 0, 0, 0⟩, by decide +kernel⟩⟩

theorem witness_AluOperationsSendTheirResult :
    ∃ (s : State) (at_ : Issue) (c : Core), at_.slot < 2 ∧ s.Acts at_ c :=
    ⟨run0, opAt 1, coreAt 1, by simp only [acts_iff, reaches_iff]; decide +kernel⟩

theorem witness_PredicateAndAddressOperations :
    ∃ (s : State) (at_ : Issue) (c : Core), s.Acts at_ c :=
    ⟨run0, opAt 3, coreAt 3, by simp only [acts_iff, reaches_iff]; decide +kernel⟩

theorem witness_AccumulatingOperations :
    ((opAt 0).slot < 2 ∧ run0.Acts (opAt 0) (coreAt 0) ∧ dualReserved ⟨0, 0, 0, 0, true, false⟩ = false ∧
      run0.pairBad (opAt 0).core (coreAt 0) = false) ∧
    ((opAt 1).slot < 2 ∧ pairRun.Acts (opAt 1) ({ (pairRun.core 0).advance 0 with slotNext := 2 } : Core) ∧
      pairRun.pairBad (opAt 1).core ({ (pairRun.core 0).advance 0 with slotNext := 2 } : Core) = true) ∧
    ((opAt 1).slot < 2 ∧ run0.Acts (opAt 1) (coreAt 1) ∧ dualReserved ⟨0, 63, 0, 0, true, false⟩ = true) :=
    ⟨by simp only [acts_iff, reaches_iff]; decide +kernel, by simp only [acts_iff, reaches_iff]; decide +kernel,
    by simp only [acts_iff, reaches_iff]; decide +kernel⟩

theorem witness_ExtractionRoundsAndSaturates :
    ∃ (s : State) (at_ : Issue) (c : Core), at_.slot < 2 ∧ s.Acts at_ c :=
    ⟨run0, opAt 0, coreAt 0, by simp only [acts_iff, reaches_iff]; decide +kernel⟩

theorem witness_MulSaturatesOnOnePairOnly :
    ∃ (s : State) (at_ : Issue) (c : Core), at_.slot < 2 ∧ s.Acts at_ c :=
    ⟨run0, opAt 0, coreAt 0, by simp only [acts_iff, reaches_iff]; decide +kernel⟩

theorem witness_DivisionSteps :
    (∃ (s : State) (at_ : Issue) (c : Core), at_.slot < 2 ∧ s.Acts at_ c ∧ s.pairBad at_.core c = false) ∧
    (∃ (s : State) (at_ : Issue) (c : Core), at_.slot < 2 ∧ s.Acts at_ c ∧ s.pairBad at_.core c = true) ∧
    (∃ (s : State) (at_ : Issue) (c : Core), at_.slot < 2 ∧ s.Acts at_ c ∧ s.pairBad at_.core c = false) :=
    ⟨⟨run0, opAt 1, coreAt 1, by simp only [acts_iff, reaches_iff]; decide +kernel⟩, ⟨pairRun, opAt 1,
    { (pairRun.core 0).advance 0 with slotNext := 2 }, by simp only [acts_iff, reaches_iff]; decide +kernel⟩,
    ⟨run0, opAt 1, coreAt 1, by simp only [acts_iff, reaches_iff]; decide +kernel⟩⟩

theorem witness_DivisionChainDivides :
    ∃ (x : Word) (y : Word), y.toInt ≠ 0 ∧ x.toInt.natAbs < y.toInt.natAbs :=
    ⟨6, 7, by decide +kernel⟩

theorem witness_LoadsTakeAlignedWords :
    ∃ (s : State) (at_ : Issue) (c : Core), at_.slot = 2 ∧ s.Acts at_ c ∧ s.eccAt (coreMemAddr at_.core 0) =
      none :=
    ⟨run0, opAt 2, coreAt 2, by simp only [acts_iff, reaches_iff]; decide +kernel⟩

theorem witness_StoresWriteTheirBytesOnly :
    ∃ (s : State) (at_ : Issue) (c : Core), at_.slot = 2 ∧ s.Acts at_ c :=
    ⟨run0, opAt 2, coreAt 2, by simp only [acts_iff, reaches_iff]; decide +kernel⟩

theorem witness_PairedAccesses :
    ∃ (s : State) (at_ : Issue) (c : Core), at_.slot = 2 ∧ s.Acts at_ c :=
    ⟨run0, opAt 2, coreAt 2, by simp only [acts_iff, reaches_iff]; decide +kernel⟩

theorem witness_ControlFlowOperations :
    ∃ (s : State) (at_ : Issue) (c : Core), at_.slot = 3 ∧ s.Reaches at_ c :=
    ⟨run0, opAt 3, coreAt 3, by simp only [reaches_iff]; decide +kernel⟩

theorem witness_ReservedPlacesAreIllegal :
    ((opAt 3).slot = 3 ∧ delayRun.Reaches (opAt 3) ({ (delayRun.core 0).advance 0 with slotNext := 4 } : Core) ∧
      delayRun.flowBad (opAt 3).core ({ (delayRun.core 0).advance 0 with slotNext := 4 } : Core) = true ∧ ({
      (delayRun.core 0).advance 0 with slotNext := 4 } : Core).readP (opAt 3).pred.toNat = true) ∧
    ((opAt 3).slot = 3 ∧ lastRun.Reaches (opAt 3) ({ (lastRun.core 0).advance 0 with slotNext := 4 } : Core) ∧
      4095 < ({ (lastRun.core 0).advance 0 with slotNext := 4 } : Core).pc.toNat + (1 : BitVec 4).toNat) ∧
    ((opAt 3).slot = 3 ∧ lastRun.Reaches (opAt 3) ({ (lastRun.core 0).advance 0 with slotNext := 4 } : Core) ∧
      4095 < ({ (lastRun.core 0).advance 0 with slotNext := 4 } : Core).pc.toNat + (0 : BitVec 6).toNat + 1) ∧
    (∃ (s : State) (at_ : Issue) (c : Core), s.Reaches at_ c) :=
    ⟨by simp only [reaches_iff]; decide +kernel, by simp only [reaches_iff]; decide +kernel,
    by simp only [reaches_iff]; decide +kernel, ⟨run0, opAt 0,
    coreAt 0, by simp only [reaches_iff]; decide +kernel⟩⟩

theorem witness_SystemRegisters :
    ∃ (s : State) (at_ : Issue) (c : Core), at_.slot = 3 ∧ s.Acts at_ c :=
    ⟨run0, opAt 3, coreAt 3, by simp only [acts_iff, reaches_iff]; decide +kernel⟩

theorem witness_PredicateZeroDoesNothing :
    (run0.Reaches (⟨0, 0, 1, 0⟩ : Issue) (coreAt 0) ∧ (coreAt 0).readP (⟨0, 0, 1, 0⟩ : Issue).pred.toNat =
      false) ∧
    (run0.Reaches (⟨0, 2, 1, 0⟩ : Issue) (coreAt 2) ∧ (coreAt 2).readP (⟨0, 2, 1, 0⟩ : Issue).pred.toNat =
      false) ∧
    (run0.Reaches (⟨0, 3, 1, 0⟩ : Issue) (coreAt 3) ∧ (coreAt 3).readP (⟨0, 3, 1, 0⟩ : Issue).pred.toNat =
      false) :=
    ⟨by simp only [reaches_iff]; decide +kernel, by simp only [reaches_iff]; decide +kernel,
    by simp only [reaches_iff]; decide +kernel⟩

theorem witness_ResultsLandAfterTheirLatency :
    ∃ (c : Core) (slot : Nat) (l : Nat) (n : Nat), c.flight = [] ∧ c.redirect = none ∧ c.branch = none ∧ c.rep =
      none ∧ c.loop = none ∧ n < 64 ∧ 1 ≤ l :=
    ⟨Core.reset, 0, 1, 63, by decide +kernel⟩

theorem witness_BundlesIssueInTheirOrder :
    (∃ (c : Core), c.redirect = none ∧ c.branch = none ∧ c.rep = none ∧ c.loop = none) ∧
    (Core.reset.redirect = none ∧ 1 ≤ 1 ∧ 1 ≤ 6) ∧
    (Core.reset.redirect = none ∧ 1 ≤ 6 ∧ 6 ≤ 6) ∧
    (Core.reset.redirect = none ∧ Core.reset.branch = none ∧ 1 ≤ 16 ∧ 16 ≤ 16 ∧ Core.reset.pc.toNat + 16 ≤ 4096
      ∧ 1023 < 16 * (63 + 1)) ∧
    (({ Core.reset with pc := 4095 } : Core).redirect = none ∧ ({ Core.reset with pc := 4095 } : Core).branch =
      none ∧ 1 ≤ 1 ∧ 1 ≤ 16 ∧ ({ Core.reset with pc := 4095 } : Core).pc.toNat + 1 ≤ 4096 ∧ 0 < 1 * (0 + 1)) ∧
    (∃ (c : Core) (len : Nat) (count : Nat), c.redirect = none ∧ c.branch = none ∧ c.loop = none ∧ 1 ≤ len ∧ len
      ≤ 16 ∧ c.pc.toNat + len ≤ 4096) ∧
    (∃ (c : Core) (len : Nat), c.redirect = none ∧ c.branch = none ∧ c.rep = none ∧ c.flight = [] ∧ 1 ≤ len ∧
      len ≤ 64 ∧ c.pc.toNat + len ≤ 4095) :=
    ⟨⟨Core.reset, by decide +kernel⟩, by decide +kernel, by decide +kernel, by decide +kernel,
    by decide +kernel, ⟨{ Core.reset with pc := 4080 }, 16, 0, by decide +kernel⟩,
    ⟨{ Core.reset with pc := 4031 }, 64, by decide +kernel⟩⟩

theorem witness_ClusterPassPhases :
    (∃ (s : State) (c : Nat), s.clusLive c = true ∧ (s.cl c).phase = .waiting ∧ (s.nowCores c).all (fun n =>
      ((s.settleCores c).core n).waits) = true) ∧
    (∃ (s : State) (c : Nat), s.clusLive c = true ∧ (s.cl c).phase = .stageIn) ∧
    (∃ (s : State) (c : Nat), s.clusLive c = true ∧ (s.cl c).phase = .frame ∧ (s.cl c).overrun = false ∧
      (s.nowCores c).all (fun n => (s.core n).run == .barrier) = true) ∧
    (∃ (s : State) (c : Nat), s.clusLive c = true ∧ (s.cl c).phase = .stageOut) :=
    ⟨⟨clusAt .waiting { Core.reset with run := .barrier }, 0, by decide +kernel⟩,
    ⟨clusAt .stageIn { Core.reset with run := .barrier }, 0, by decide +kernel⟩,
    ⟨clusAt .frame { Core.reset with run := .barrier }, 0, by decide +kernel⟩,
    ⟨clusAt .stageOut { Core.reset with run := .barrier }, 0, by decide +kernel⟩⟩

theorem witness_BarrierAndOverrun :
    (∃ (s : State) (n : Nat), s.coreLive n = true ∧ (s.core n).run = .draining) ∧
    ((clusAt .waiting { Core.reset with run := .barrier }).coreLive 0 = true ∧ 0 ∈ (clusAt .waiting { Core.reset
      with run := .barrier }).nowCores (0 / 8) ∧ ((clusAt .waiting { Core.reset with run := .barrier }).core
      0).overrun = false ∧ (((clusAt .waiting { Core.reset with run := .barrier }).cl (0 / 8)).phase = .waiting
      ∨ ((clusAt .waiting { Core.reset with run := .barrier }).cl (0 / 8)).phase = .stageIn ∨ (((clusAt .waiting
      { Core.reset with run := .barrier }).cl (0 / 8)).phase = .frame ∧ ((clusAt .waiting { Core.reset with run
      := .barrier }).core 0).run ≠ .barrier))) ∧
    ((clusAt .stageIn { Core.reset with run := .barrier }).coreLive 0 = true ∧ 0 ∈ (clusAt .stageIn { Core.reset
      with run := .barrier }).nowCores (0 / 8) ∧ ((clusAt .stageIn { Core.reset with run := .barrier }).core
      0).overrun = false ∧ (((clusAt .stageIn { Core.reset with run := .barrier }).cl (0 / 8)).phase = .waiting
      ∨ ((clusAt .stageIn { Core.reset with run := .barrier }).cl (0 / 8)).phase = .stageIn ∨ (((clusAt .stageIn
      { Core.reset with run := .barrier }).cl (0 / 8)).phase = .frame ∧ ((clusAt .stageIn { Core.reset with run
      := .barrier }).core 0).run ≠ .barrier))) ∧
    ((clusAt .frame { Core.reset with run := .running }).coreLive 0 = true ∧ 0 ∈ (clusAt .frame { Core.reset
      with run := .running }).nowCores (0 / 8) ∧ ((clusAt .frame { Core.reset with run := .running }).core
      0).overrun = false ∧ (((clusAt .frame { Core.reset with run := .running }).cl (0 / 8)).phase = .waiting ∨
      ((clusAt .frame { Core.reset with run := .running }).cl (0 / 8)).phase = .stageIn ∨ (((clusAt .frame {
      Core.reset with run := .running }).cl (0 / 8)).phase = .frame ∧ ((clusAt .frame { Core.reset with run :=
      .running }).core 0).run ≠ .barrier))) :=
    ⟨⟨clusAt .frame { Core.reset with run := .draining }, 0, by decide +kernel⟩, by decide +kernel,
    by decide +kernel, by decide +kernel⟩

theorem witness_InterruptEntrySavesState :
    (∃ (s : State) (n : Nat), s.coreLive n = true ∧ (s.core n).settle.halted = false ∧ (s.core
      n).settle.atPosition.ie = true ∧ (s.core n).settle.atPosition.pendingSrc = true ∧ (s.core
      n).settle.interruptible = true ∧ ((s.core n).settle.run = .barrier → (s.cl (n / 8)).phase = .idle ∨ (s.cl
      (n / 8)).phase = .waiting) ∧ ((s.core n).settle.run ≠ .barrier → (s.core n).settle.run ≠ .csync →
      (s.setCore n (s.core n).settle).repAhead n (s.core n).settle.atPosition = false)) ∧
    (0 < 32 ∧ live.Takes (Page.ibex 0)) ∧
    (31 < 32 ∧ live.Takes (Page.ibex 31)) ∧
    (0 < 32 ∧ (spareAt 2).inReset = false ∧ (spareAt 2).locked (Page.ibex 0) = false ∧ (spareAt 2).notReady
      (Page.ibex 0) = false ∧ (spareAt 2).pageOn (Page.ibex 0) = true ∧ ((spareAt 2).migState (0 / 8) = 2 ∨
      (spareAt 2).migState (0 / 8) = 3)) ∧
    (7 < 32 ∧ (spareAt 3).inReset = false ∧ (spareAt 3).locked (Page.ibex 7) = false ∧ (spareAt 3).notReady
      (Page.ibex 7) = false ∧ (spareAt 3).pageOn (Page.ibex 7) = true ∧ ((spareAt 3).migState (7 / 8) = 2 ∨
      (spareAt 3).migState (7 / 8) = 3)) :=
    ⟨⟨clusAt .frame { Core.reset with run := .running, sr := 0x100, isrc := 8, imask := 8 },
    0, by decide +kernel⟩, by simp only [takes_iff]; decide +kernel, by simp only [takes_iff]; decide +kernel,
    by decide +kernel, by decide +kernel⟩

theorem witness_CsyncAndWriteback :
    (∃ (s : State) (c : Nat), s.clusLive c = true ∧ s.nowCores c ≠ [] ∧ (∀ n ∈ s.nowCores c, ((s.settleCores
      c).core n).run = .csync ∧ ((s.settleCores c).core n).inh = false ∧ ((s.settleCores c).core n).halted =
      false)) ∧
    (∃ (s : State) (a : Nat), s.inReset = false ∧ 0x20000000 ≤ a ∧ a < 0x22000000 ∧ s.eccAt a = some .single) :=
    ⟨⟨clusAt .frame { Core.reset with run := .csync }, 0, by decide +kernel⟩,
    ⟨{ live with ecc := [(0x21FFFFFC / 4, some .single)] }, 0x21FFFFFC, by decide +kernel⟩⟩

theorem witness_CoreDebug :
    (31 < 32 ∧ (.haltReq 31 : Instr) ∈ [.haltReq 31, .resume 31, .step 31] ∧ live.inReset = false ∧ live.locked
      (Page.ibex 31) = false ∧ live.notReady (Page.ibex 31) = false ∧ live.pageOn (Page.ibex 31) = true ∧
      (live.migState (31 / 8) = 2 ∨ live.migState (31 / 8) = 3 ∨ live.debugLevel < 2)) ∧
    (7 < 32 ∧ (.step 7 : Instr) ∈ [.haltReq 7, .resume 7, .step 7] ∧ (spareAt 2).inReset = false ∧ (spareAt
      2).locked (Page.ibex 7) = false ∧ (spareAt 2).notReady (Page.ibex 7) = false ∧ (spareAt 2).pageOn
      (Page.ibex 7) = true ∧ ((spareAt 2).migState (7 / 8) = 2 ∨ (spareAt 2).migState (7 / 8) = 3 ∨ (spareAt
      2).debugLevel < 2)) ∧
    (0 < 32 ∧ (live.put Page.dev DEV.DBG_STAT.LEVEL 2).Takes (Page.ibex 0) ∧ 2 ≤ (live.put Page.dev
      DEV.DBG_STAT.LEVEL 2).debugLevel) ∧
    (31 < 32 ∧ (live.put Page.dev DEV.DBG_STAT.LEVEL 2).Takes (Page.ibex 31) ∧ 2 ≤ (live.put Page.dev
      DEV.DBG_STAT.LEVEL 2).debugLevel) ∧
    ((run0.setCore 0 { (run0.core 0) with haltReq := true }).coreLive 0 = true ∧ ((run0.setCore 0 { (run0.core
      0) with haltReq := true }).core 0).halted = false ∧ ((run0.setCore 0 { (run0.core 0) with haltReq := true
      }).core 0).interruptible = true ∧ (run0.setCore 0 { (run0.core 0) with haltReq := true }).repAhead 0
      ((run0.setCore 0 { (run0.core 0) with haltReq := true }).core 0).atPosition = false ∧ (run0.setCore 0 {
      (run0.core 0) with haltReq := true }).haltCause 0 (.request : HaltCause) = true) ∧
    ((run0.setCore 0 { (run0.core 0) with stepping := true }).coreLive 0 = true ∧ ((run0.setCore 0 { (run0.core
      0) with stepping := true }).core 0).halted = false ∧ ((run0.setCore 0 { (run0.core 0) with stepping :=
      true }).core 0).interruptible = true ∧ (run0.setCore 0 { (run0.core 0) with stepping := true }).repAhead 0
      ((run0.setCore 0 { (run0.core 0) with stepping := true }).core 0).atPosition = false ∧ (run0.setCore 0 {
      (run0.core 0) with stepping := true }).haltCause 0 (.step : HaltCause) = true) :=
    ⟨by decide +kernel, by decide +kernel, by simp only [takes_iff]; decide +kernel,
    by simp only [takes_iff]; decide +kernel, by decide +kernel, by decide +kernel⟩

theorem witness_MigrationPhases :
    (∃ (s : State) (c : Nat) (source : BitVec 2), c < 4 ∧ s.Takes (Page.clus c) ∧ s.flag (Page.clus c)
      CLUS.CLUS_CTRL.SPARE = true ∧ source.toNat ≠ c ∧ (s.migState c = 0 ∨ s.migState c = 4)) ∧
    (0 < 4 ∧ live.Takes (Page.clus 0) ∧ (live.flag (Page.clus 0) CLUS.CLUS_CTRL.SPARE = false ∨ (1 : BitVec
      2).toNat = 0 ∨ (live.migState 0 ≠ 0 ∧ live.migState 0 ≠ 4))) ∧
    (3 < 4 ∧ (live.putB (Page.clus 3) CLUS.CLUS_CTRL.SPARE true).Takes (Page.clus 3) ∧ ((live.putB (Page.clus 3)
      CLUS.CLUS_CTRL.SPARE true).flag (Page.clus 3) CLUS.CLUS_CTRL.SPARE = false ∨ (3 : BitVec 2).toNat = 3 ∨
      ((live.putB (Page.clus 3) CLUS.CLUS_CTRL.SPARE true).migState 3 ≠ 0 ∧ (live.putB (Page.clus 3)
      CLUS.CLUS_CTRL.SPARE true).migState 3 ≠ 4))) ∧
    (3 < 4 ∧ ((live.putB (Page.clus 3) CLUS.CLUS_CTRL.SPARE true).put (Page.clus 3) CLUS.MIG_STAT.STATE 1).Takes
      (Page.clus 3) ∧ (((live.putB (Page.clus 3) CLUS.CLUS_CTRL.SPARE true).put (Page.clus 3)
      CLUS.MIG_STAT.STATE 1).flag (Page.clus 3) CLUS.CLUS_CTRL.SPARE = false ∨ (0 : BitVec 2).toNat = 3 ∨
      (((live.putB (Page.clus 3) CLUS.CLUS_CTRL.SPARE true).put (Page.clus 3) CLUS.MIG_STAT.STATE 1).migState 3
      ≠ 0 ∧ ((live.putB (Page.clus 3) CLUS.CLUS_CTRL.SPARE true).put (Page.clus 3) CLUS.MIG_STAT.STATE
      1).migState 3 ≠ 4))) ∧
    (∃ (s : State) (c : Nat), s.clusLive c = true ∧ s.migState c = 1 ∧ s.holds Kind.migration c = true) ∧
    (∃ (s : State) (c : Nat), s.clusLive c = true ∧ s.migState c = 2 ∧ (s.cl c).copied = true ∧ (s.cl c).src ≠ c
      ∧ (s.cl c).src < 4 ∧ (clusCores (s.cl c).src).all (fun n => ((s.settleCores (s.cl c).src).core n).waits) =
      true) ∧
    (0 < 4 ∧ (spareAt 1).inReset = false ∧ 1 ≤ (1 : Byte).toNat ∧ (1 : Byte).toNat ≤ 5 ∧ ((1 : Byte) = 1 →
      (spareAt 1).Takes (Page.clus 0)) ∧ (spareAt 1).migState 0 ∈ [1, 2, 3]) ∧
    (0 < 4 ∧ (spareAt 3).inReset = false ∧ 1 ≤ (5 : Byte).toNat ∧ (5 : Byte).toNat ≤ 5 ∧ ((5 : Byte) = 1 →
      (spareAt 3).Takes (Page.clus 0)) ∧ (spareAt 3).migState 0 ∈ [1, 2, 3]) ∧
    (((spareAt 4).migState 0 = 0 ∨ 4 ≤ (spareAt 4).migState 0) ∧ 2 ≤ (2 : Byte).toNat) ∧
    ((live.migState 3 = 0 ∨ 4 ≤ live.migState 3) ∧ 2 ≤ (5 : Byte).toNat) :=
    ⟨⟨live.putB (Page.clus 3) CLUS.CLUS_CTRL.SPARE true, 3, 0, by simp only [takes_iff]; decide +kernel⟩,
    by simp only [takes_iff]; decide +kernel, by simp only [takes_iff]; decide +kernel,
    by simp only [takes_iff]; decide +kernel,
    ⟨{ spareAt 1 with ledger := { live.ledger with held := [⟨⟨Kind.migration, 0⟩, 0, 0, false⟩] } },
    0, by decide +kernel⟩, ⟨{ spareAt 2 with clus := [(0, { Clus.reset with copied := true, src := 3 })] },
    0, by decide +kernel⟩, by simp only [takes_iff]; decide +kernel, by simp only [takes_iff]; decide +kernel,
    by decide +kernel, by decide +kernel⟩

theorem witness_BusTransactions :
    (∃ (s : State) (by_ : Master) (addr : Nat) (bytes : List Byte) (strobes : List Bool) (qos : BitVec 4),
      s.inReset = false ∧ by_ ≠ .jtag ∧ s.admits by_ qos.toNat = true ∧ s.waiting.any (fun w => w.by_ == by_) =
      false ∧ StoreClean s addr bytes.length ∧ strobes.length = bytes.length) ∧
    (∃ (s : State) (by_ : Master) (qos : BitVec 4), s.inReset = false ∧ by_ ≠ .jtag ∧ s.admits by_ qos.toNat =
      true ∧ s.waiting.any (fun w => w.by_ == by_) = false ∧ placeOf 0x04000000 = .hole ∧ placeOf 0x0FFFFFFF =
      .hole ∧ placeOf 0 = .store) ∧
    (((live.putB Page.host HOST.HOST_STAT.LINK_UP true).putB Page.host HOST.HOST_STAT.BUS_MASTER true).inReset =
      false ∧ ((live.putB Page.host HOST.HOST_STAT.LINK_UP true).putB Page.host HOST.HOST_STAT.BUS_MASTER
      true).admits (.clus 0 : Master) (0 : BitVec 4).toNat = true ∧ ((live.putB Page.host HOST.HOST_STAT.LINK_UP
      true).putB Page.host HOST.HOST_STAT.BUS_MASTER true).waiting.any (fun w => w.by_ == (.clus 0 : Master)) =
      false ∧ placeOf 0x40000000 = .outbound ∧ ((live.putB Page.host HOST.HOST_STAT.LINK_UP true).putB Page.host
      HOST.HOST_STAT.BUS_MASTER true).outboundDown = false ∧ ((live.putB Page.host HOST.HOST_STAT.LINK_UP
      true).putB Page.host HOST.HOST_STAT.BUS_MASTER true).get Page.busm BUSM.RETRY_CTRL.RETRY_MAX ≠ 0) ∧
    (live.inReset = false ∧ live.admits (.clus 0 : Master) (0 : BitVec 4).toNat = true ∧ live.waiting.any (fun w
      => w.by_ == (.clus 0 : Master)) = false ∧ placeOf 0x7FFFFFFF = .outbound ∧ live.outboundDown = true ∧
      (.clus 0 : Master) ≠ .jtag) ∧
    (∃ (s : State) (by_ : Master) (qos : BitVec 4), s.inReset = false ∧ s.waiting.any (fun w => w.by_ == by_) =
      true) ∧
    (∃ (s : State) (by_ : Master) (r : Retry), s.inReset = false ∧ placeOf r.addr = .store ∧ s.nextIssue by_ =
      some r ∧ r.tried = false ∧ r.write = true ∧ StoreClean s r.addr r.bytes.length ∧ r.strobes.length =
      r.bytes.length ∧ by_ ≠ .jtag) ∧
    ((waitingAt 0x7FFFFFFF).inReset = false ∧ placeOf (⟨.pcie, true, 0x7FFFFFFF, [0], [true], 1, none, 0, false⟩
      : Retry).addr = .outbound ∧ (waitingAt 0x7FFFFFFF).nextIssue (.pcie : Master) = some (⟨.pcie, true,
      0x7FFFFFFF, [0], [true], 1, none, 0, false⟩ : Retry) ∧ (waitingAt 0x7FFFFFFF).timerOver (.pcie : Master) =
      false) ∧
    (({ live with retries := [⟨.pcie, true, 0x40000000, [0], [true], 1, none, 0, true⟩] } : State).inReset =
      false ∧ placeOf (⟨.pcie, true, 0x40000000, [0], [true], 1, none, 0, true⟩ : Retry).addr = .outbound ∧ ({
      live with retries := [⟨.pcie, true, 0x40000000, [0], [true], 1, none, 0, true⟩] } : State).nextIssue
      (.pcie : Master) = some (⟨.pcie, true, 0x40000000, [0], [true], 1, none, 0, true⟩ : Retry) ∧ ({ live with
      retries := [⟨.pcie, true, 0x40000000, [0], [true], 1, none, 0, true⟩] } : State).timerOver (.pcie :
      Master) = false) :=
    ⟨⟨live, .pcie, 0x03FFFFFF, [0], [true], 0, by simp only [clean_iff]; decide +kernel⟩,
    ⟨{ live with retries := List.replicate 31 ⟨.pcie, true, 0, [0], [true], 1, none, 0, false⟩ }, .clus 0,
    15, by decide +kernel⟩, by decide +kernel, by decide +kernel,
    ⟨{ live with retries := List.replicate 32 ⟨.pcie, true, 0, [0], [true], 1, none, 0, false⟩ }, .pcie,
    0, by decide +kernel⟩, ⟨waitingAt 0x100, .pcie,
    ⟨.pcie, true, 0x100, [0], [true], 1, none, 0, false⟩, by simp only [clean_iff]; decide +kernel⟩,
    by decide +kernel, by decide +kernel⟩

theorem witness_StoreMaintenance :
    (∃ (s : State), s.Takes Page.busm) ∧
    (∃ (s : State), s.Takes Page.store) ∧
    ((live.put Page.store STORE.STORE_STAT.ZFILL_BUSY 0x81).inReset = false ∧ (live.put Page.store
      STORE.STORE_STAT.ZFILL_BUSY 0x81).domOn 6 = true ∧ 0 < 8 ∧ (live.put Page.store
      STORE.STORE_STAT.ZFILL_BUSY 0x81).bitOf Page.store STORE.STORE_STAT.ZFILL_BUSY 0 = true) ∧
    ((live.put Page.store STORE.STORE_STAT.ZFILL_BUSY 0x81).inReset = false ∧ (live.put Page.store
      STORE.STORE_STAT.ZFILL_BUSY 0x81).domOn 6 = true ∧ 7 < 8 ∧ (live.put Page.store
      STORE.STORE_STAT.ZFILL_BUSY 0x81).bitOf Page.store STORE.STORE_STAT.ZFILL_BUSY 7 = true) ∧
    (∃ (s : State) (a : Nat), s.inReset = false ∧ s.domOn 6 = true ∧ a < 0x04000000 ∧ s.storeEcc a = some
      .single) :=
    ⟨⟨live, by simp only [takes_iff]; decide +kernel⟩, ⟨live, by simp only [takes_iff]; decide +kernel⟩,
    by decide +kernel, by decide +kernel, ⟨{ live with ecc := [(0x03FFFFF8 / 8 * 2, some .single)] },
    0x03FFFFF8, by decide +kernel⟩⟩

theorem witness_Scrubbing :
    (∃ (s : State), s.scrubOn = true ∧ s.scrubbing = false ∧ s.waits Kind.scrub 6 = false ∧ s.holds Kind.scrub 6
      = false) ∧
    (∃ (s : State), s.scrubOn = true ∧ s.scrubbing = true) ∧
    (∃ (s : State), s.scrubOn = true ∧ (s.scrubbing = true ∨ s.waits Kind.scrub 6 = true)) :=
    ⟨⟨scrubber, by decide +kernel⟩, ⟨scrubber.putB Page.store STORE.SCRUB_STAT.RUNNING true, by decide +kernel⟩,
    ⟨{ scrubber with ledger := { live.ledger with queue := [⟨Kind.scrub, 6⟩] } }, by decide +kernel⟩⟩

theorem witness_DmaDescriptors_1 :
    ((live.putB (Page.dma 0) DMA.DMA_CTRL.RUN true).put (Page.dma 0) DMA.RING_HEAD.HEAD 1).inReset = false ∧ 0 <
      4 ∧ ((live.putB (Page.dma 0) DMA.DMA_CTRL.RUN true).put (Page.dma 0) DMA.RING_HEAD.HEAD 1).dmaActive 0 =
      false ∧ ((live.putB (Page.dma 0) DMA.DMA_CTRL.RUN true).put (Page.dma 0) DMA.RING_HEAD.HEAD 1).flag
      (Page.dma 0) DMA.DMA_CTRL.RUN = true ∧ ((live.putB (Page.dma 0) DMA.DMA_CTRL.RUN true).put (Page.dma 0)
      DMA.RING_HEAD.HEAD 1).get (Page.dma 0) DMA.RING_HEAD.HEAD ≠ ((live.putB (Page.dma 0) DMA.DMA_CTRL.RUN
      true).put (Page.dma 0) DMA.RING_HEAD.HEAD 1).get (Page.dma 0) DMA.RING_TAIL.TAIL ∧ StoreClean ((live.putB
      (Page.dma 0) DMA.DMA_CTRL.RUN true).put (Page.dma 0) DMA.RING_HEAD.HEAD 1) (((live.putB (Page.dma 0)
      DMA.DMA_CTRL.RUN true).put (Page.dma 0) DMA.RING_HEAD.HEAD 1).descAddr 0) 32 :=
    by simp only [clean_iff]; decide +kernel

theorem witness_DmaDescriptors_2 :
    ((live.putB (Page.dma 3) DMA.DMA_CTRL.RUN true).put (Page.dma 3) DMA.RING_HEAD.HEAD 1).inReset = false ∧ 3 <
      4 ∧ ((live.putB (Page.dma 3) DMA.DMA_CTRL.RUN true).put (Page.dma 3) DMA.RING_HEAD.HEAD 1).dmaActive 3 =
      false ∧ ((live.putB (Page.dma 3) DMA.DMA_CTRL.RUN true).put (Page.dma 3) DMA.RING_HEAD.HEAD 1).flag
      (Page.dma 3) DMA.DMA_CTRL.RUN = true ∧ ((live.putB (Page.dma 3) DMA.DMA_CTRL.RUN true).put (Page.dma 3)
      DMA.RING_HEAD.HEAD 1).get (Page.dma 3) DMA.RING_HEAD.HEAD ≠ ((live.putB (Page.dma 3) DMA.DMA_CTRL.RUN
      true).put (Page.dma 3) DMA.RING_HEAD.HEAD 1).get (Page.dma 3) DMA.RING_TAIL.TAIL ∧ StoreClean ((live.putB
      (Page.dma 3) DMA.DMA_CTRL.RUN true).put (Page.dma 3) DMA.RING_HEAD.HEAD 1) (((live.putB (Page.dma 3)
      DMA.DMA_CTRL.RUN true).put (Page.dma 3) DMA.RING_HEAD.HEAD 1).descAddr 3) 32 :=
    by simp only [clean_iff]; decide +kernel

theorem witness_DmaDescriptors_3 :
    ({ dmaOn with dmas := [(0, ⟨0, 0x1000, some 0, none⟩)] } : State).inReset = false ∧ 0 < 4 ∧ ({ dmaOn with
      dmas := [(0, ⟨0, 0x1000, some 0, none⟩)] } : State).dmaActive 0 = true ∧ (({ dmaOn with dmas := [(0, ⟨0,
      0x1000, some 0, none⟩)] } : State).dma 0).code = some 0 ∧ StoreClean ({ dmaOn with dmas := [(0, ⟨0,
      0x1000, some 0, none⟩)] } : State) (({ dmaOn with dmas := [(0, ⟨0, 0x1000, some 0, none⟩)] } : State).dma
      0).from_ 32 ∧ 0 < 256 :=
    by simp only [clean_iff]; decide +kernel

theorem witness_DmaDescriptors_4 :
    ({ dmaOn with dmas := [(0, ⟨0, 0x1000, some 255, none⟩)] } : State).inReset = false ∧ 0 < 4 ∧ ({ dmaOn with
      dmas := [(0, ⟨0, 0x1000, some 255, none⟩)] } : State).dmaActive 0 = true ∧ (({ dmaOn with dmas := [(0, ⟨0,
      0x1000, some 255, none⟩)] } : State).dma 0).code = some 255 ∧ StoreClean ({ dmaOn with dmas := [(0, ⟨0,
      0x1000, some 255, none⟩)] } : State) (({ dmaOn with dmas := [(0, ⟨0, 0x1000, some 255, none⟩)] } :
      State).dma 0).from_ 32 ∧ 255 < 256 :=
    by simp only [clean_iff]; decide +kernel

theorem witness_DmaDescriptors_5 :
    dmaRow.inReset = false ∧ 0 < 4 ∧ dmaRow.dmaActive 0 = true ∧ (dmaRow.dma 0).code = none ∧ StoreClean dmaRow
      (dmaRow.dma 0).from_ 32 ∧ (Desc.rows (dmaRow.dma 0).desc ≠ 0 → Desc.len (dmaRow.dma 0).desc ≤
      Desc.dstStride (dmaRow.dma 0).desc) ∧ StoreClean dmaRow (Desc.src (dmaRow.dma 0).desc) (Desc.src
      (dmaRow.dma 0).desc + Desc.rows (dmaRow.dma 0).desc * Desc.srcStride (dmaRow.dma 0).desc + Desc.len
      (dmaRow.dma 0).desc - Desc.src (dmaRow.dma 0).desc) ∧ StoreClean dmaRow (Desc.dst (dmaRow.dma 0).desc)
      (Desc.dst (dmaRow.dma 0).desc + Desc.rows (dmaRow.dma 0).desc * Desc.dstStride (dmaRow.dma 0).desc +
      Desc.len (dmaRow.dma 0).desc - Desc.dst (dmaRow.dma 0).desc) ∧ (Desc.src (dmaRow.dma 0).desc + Desc.rows
      (dmaRow.dma 0).desc * Desc.srcStride (dmaRow.dma 0).desc + Desc.len (dmaRow.dma 0).desc ≤ Desc.dst
      (dmaRow.dma 0).desc ∨ Desc.dst (dmaRow.dma 0).desc + Desc.rows (dmaRow.dma 0).desc * Desc.dstStride
      (dmaRow.dma 0).desc + Desc.len (dmaRow.dma 0).desc ≤ Desc.src (dmaRow.dma 0).desc) ∧ ((dmaRow.dma 0).from_
      + 32 ≤ Desc.dst (dmaRow.dma 0).desc ∨ Desc.dst (dmaRow.dma 0).desc + Desc.rows (dmaRow.dma 0).desc *
      Desc.dstStride (dmaRow.dma 0).desc + Desc.len (dmaRow.dma 0).desc ≤ (dmaRow.dma 0).from_) ∧ Desc.rows
      (dmaRow.dma 0).desc = 0 :=
    by simp only [clean_iff]; decide +kernel

theorem witness_DmaDescriptors_6 :
    dmaRows.inReset = false ∧ 0 < 4 ∧ dmaRows.dmaActive 0 = true ∧ (dmaRows.dma 0).code = none ∧ StoreClean
      dmaRows (dmaRows.dma 0).from_ 32 ∧ (Desc.rows (dmaRows.dma 0).desc ≠ 0 → Desc.len (dmaRows.dma 0).desc ≤
      Desc.dstStride (dmaRows.dma 0).desc) ∧ StoreClean dmaRows (Desc.src (dmaRows.dma 0).desc) (Desc.src
      (dmaRows.dma 0).desc + Desc.rows (dmaRows.dma 0).desc * Desc.srcStride (dmaRows.dma 0).desc + Desc.len
      (dmaRows.dma 0).desc - Desc.src (dmaRows.dma 0).desc) ∧ StoreClean dmaRows (Desc.dst (dmaRows.dma 0).desc)
      (Desc.dst (dmaRows.dma 0).desc + Desc.rows (dmaRows.dma 0).desc * Desc.dstStride (dmaRows.dma 0).desc +
      Desc.len (dmaRows.dma 0).desc - Desc.dst (dmaRows.dma 0).desc) ∧ (Desc.src (dmaRows.dma 0).desc +
      Desc.rows (dmaRows.dma 0).desc * Desc.srcStride (dmaRows.dma 0).desc + Desc.len (dmaRows.dma 0).desc ≤
      Desc.dst (dmaRows.dma 0).desc ∨ Desc.dst (dmaRows.dma 0).desc + Desc.rows (dmaRows.dma 0).desc *
      Desc.dstStride (dmaRows.dma 0).desc + Desc.len (dmaRows.dma 0).desc ≤ Desc.src (dmaRows.dma 0).desc) ∧
      ((dmaRows.dma 0).from_ + 32 ≤ Desc.dst (dmaRows.dma 0).desc ∨ Desc.dst (dmaRows.dma 0).desc + Desc.rows
      (dmaRows.dma 0).desc * Desc.dstStride (dmaRows.dma 0).desc + Desc.len (dmaRows.dma 0).desc ≤ (dmaRows.dma
      0).from_) ∧ Desc.rows (dmaRows.dma 0).desc = 1 :=
    by simp only [clean_iff]; decide +kernel

theorem witness_DmaDescriptors_7 :
    dmaShadow.inReset = false ∧ 0 < 4 ∧ dmaShadow.dmaActive 0 = true ∧ (dmaShadow.dma 0).code = none ∧
      StoreClean dmaShadow (dmaShadow.dma 0).from_ 32 ∧ Desc.rows (dmaShadow.dma 0).desc = 0 ∧ StoreClean
      dmaShadow (Desc.src (dmaShadow.dma 0).desc) (Desc.len (dmaShadow.dma 0).desc) ∧ Desc.len (dmaShadow.dma
      0).desc ≠ 0 ∧ Desc.len (dmaShadow.dma 0).desc % 4 = 0 ∧ Desc.dst (dmaShadow.dma 0).desc % 4 = 0 ∧ Desc.dst
      (dmaShadow.dma 0).desc % 256 + Desc.len (dmaShadow.dma 0).desc ≤ 256 ∧ placeOf (Desc.dst (dmaShadow.dma
      0).desc) = .table Page.eq 1 ∧ dmaShadow.pageOn Page.eq = true ∧ dmaShadow.locked Page.eq = false ∧
      dmaShadow.shadowHeld Page.eq = false ∧ 1 ≠ dmaShadow.activeSet Page.eq :=
    by simp only [clean_iff]; decide +kernel

theorem witness_DmaDescriptors_8 :
    dmaActiveCopy.inReset = false ∧ 0 < 4 ∧ dmaActiveCopy.dmaActive 0 = true ∧ (dmaActiveCopy.dma 0).code = none
      ∧ StoreClean dmaActiveCopy (dmaActiveCopy.dma 0).from_ 32 ∧ Desc.rows (dmaActiveCopy.dma 0).desc = 0 ∧
      StoreClean dmaActiveCopy (Desc.src (dmaActiveCopy.dma 0).desc) (Desc.len (dmaActiveCopy.dma 0).desc) ∧
      Desc.len (dmaActiveCopy.dma 0).desc ≠ 0 ∧ Desc.len (dmaActiveCopy.dma 0).desc % 4 = 0 ∧ Desc.dst
      (dmaActiveCopy.dma 0).desc % 4 = 0 ∧ Desc.dst (dmaActiveCopy.dma 0).desc % 256 + Desc.len
      (dmaActiveCopy.dma 0).desc ≤ 256 ∧ placeOf (Desc.dst (dmaActiveCopy.dma 0).desc) = .table Page.eq 0 ∧
      dmaActiveCopy.pageOn Page.eq = true ∧ dmaActiveCopy.locked Page.eq = false ∧ dmaActiveCopy.shadowHeld
      Page.eq = false ∧ 0 = dmaActiveCopy.activeSet Page.eq :=
    by simp only [clean_iff]; decide +kernel

theorem witness_DmaDescriptors_9 :
    ∃ (s : State) (e : Nat), s.inReset = false ∧ e < 4 ∧ s.dmaActive e = true ∧ (s.dma e).code = none ∧
      StoreClean s (s.dma e).from_ 32 ∧ Desc.rows (s.dma e).desc = 0 ∧ StoreClean s (Desc.dst (s.dma e).desc)
      (Desc.len (s.dma e).desc) ∧ Desc.len (s.dma e).desc ≠ 0 ∧ 0x22000000 ≤ Desc.src (s.dma e).desc ∧ Desc.src
      (s.dma e).desc + Desc.len (s.dma e).desc ≤ 0x22400000 ∧ s.domOn 5 = true ∧ Tab.get false s.undef 5 = false
      ∧ ((s.dma e).from_ + 32 ≤ Desc.dst (s.dma e).desc ∨ Desc.dst (s.dma e).desc + Desc.len (s.dma e).desc ≤
      (s.dma e).from_) :=
    ⟨dmaPlane, 0, by simp only [clean_iff]; decide +kernel⟩

theorem witness_DmaDescriptors_10 :
    ∃ (s : State) (e : Nat) (moved : Nat), s.inReset = false ∧ e < 4 ∧ s.domOn 6 = true ∧ s.dmaActive e = true ∧
      (s.dma e).code = none ∧ s.get (Page.dma e) DMA.DMA_TMO.US ≠ 0 ∧ s.dmaTimer e = true ∧ StoreClean s (s.dma
      e).from_ 32 :=
  ⟨{ (dmaOn.put (Page.dma 0) DMA.DMA_TMO.US 1) with dmas := [(0, ⟨0, 0x1000, none, some 0⟩)], time := { live.time with phase := 32000 } },
    0, 0, by simp only [clean_iff]; decide +kernel⟩

theorem witness_MarkersAlignLanes :
    (rxLane 0 7).receives 0 = true ∧
    (rxLane 11 4).receives 11 = true ∧
    (∃ (s : State) (l : Nat), s.receives l = true ∧ s.aligned l = true) ∧
    live.receives 0 = false ∧
    live.receives 12 = false :=
    ⟨by decide +kernel, by decide +kernel, ⟨rxLane 11 7, 11, by decide +kernel⟩, by decide +kernel,
    by decide +kernel⟩

theorem witness_ControlBlocksReceived :
    (∃ (s : State) (l : Nat), s.receives l = true) ∧
    (∃ (s : State) (l : Nat) (body : Body), s.receives l = true ∧ s.readsBlocks l = true ∧ ctlOk body Ctl.idle
      false = true) ∧
    ((rxLane 0 7).receives 0 = true ∧ (rxLane 0 7).readsBlocks 0 = true ∧ ctlOk (ctlBody Ctl.service (1 * 2 ^
      166)) Ctl.service true = true ∧ (2 ^ 64 - 1) < 2 ^ 64 ∧ 1 ≤ bodyField (ctlBody Ctl.service (1 * 2 ^ 166))
      64 8 ∧ bodyField (ctlBody Ctl.service (1 * 2 ^ 166)) 64 8 ≤ 0x3F) ∧
    ((rxLane 0 7).receives 0 = true ∧ (rxLane 0 7).readsBlocks 0 = true ∧ ctlOk (ctlBody Ctl.service (0x3F * 2 ^
      166)) Ctl.service true = true ∧ (2 ^ 64 - 1) < 2 ^ 64 ∧ 1 ≤ bodyField (ctlBody Ctl.service (0x3F * 2 ^
      166)) 64 8 ∧ bodyField (ctlBody Ctl.service (0x3F * 2 ^ 166)) 64 8 ≤ 0x3F) ∧
    (∃ (s : State) (l : Nat) (body : Body), s.receives l = true ∧ s.readsBlocks l = true ∧ ctlOk body Ctl.ts1
      true = true) ∧
    (∃ (s : State) (l : Nat) (body : Body), s.receives l = true ∧ s.readsBlocks l = true ∧ ctlOk body Ctl.ts2
      true = true) ∧
    (∃ (s : State) (l : Nat) (body : Body), s.receives l = true ∧ s.readsBlocks l = true ∧ ctlOk body
      Ctl.loopTest true = true) :=
    ⟨⟨rxLane 0 7, 0, by decide +kernel⟩, ⟨rxLane 0 7, 0, ctlBody Ctl.idle 0, by decide +kernel⟩,
    by decide +kernel, by decide +kernel, ⟨rxLane 0 7, 0, ctlBody Ctl.ts1 0, by decide +kernel⟩, ⟨rxLane 8 6, 8,
    ctlBody Ctl.ts2 0, by decide +kernel⟩, ⟨rxLane 11 7, 11, ctlBody Ctl.loopTest 0, by decide +kernel⟩⟩

theorem witness_InvalidHeadersAreCounted :
    ((rxLane 0 7).receives 0 = true ∧ (8 ≤ 0 ∨ (rxLane 0 7).aligned 0 = true)) ∧
    (((rxLane 8 7).put (Page.lane 8) LANE.LANE_STAT.ALIGNED 0).receives 8 = true ∧ (8 ≤ 8 ∨ ((rxLane 8 7).put
      (Page.lane 8) LANE.LANE_STAT.ALIGNED 0).aligned 8 = true)) :=
    ⟨by decide +kernel, by decide +kernel⟩

theorem witness_TrainingWaitsForItsGrant :
    (0 < 12 ∧ live.Takes (Page.lane 0)) ∧
    (11 < 12 ∧ live.Takes (Page.lane 11)) ∧
    (∃ (s : State) (l : Nat), l < 12 ∧ s.inReset = false ∧ s.notReady (Page.lane l) = false ∧ s.locked
      (Page.lane l) = false) ∧
    (∃ (s : State) (l : Nat), l < 12 ∧ s.laneOn = true ∧ s.phase l = Phase.waitGrant ∧ s.holds Kind.laneTrain l
      = true) :=
    ⟨by simp only [takes_iff]; decide +kernel, by simp only [takes_iff]; decide +kernel, ⟨live,
    11, by decide +kernel⟩,
    ⟨{ laneAt 11 1 with ledger := { live.ledger with held := [⟨⟨Kind.laneTrain, 11⟩, 0, 0, false⟩] } },
    11, by decide +kernel⟩⟩

theorem witness_TrainingPhasesAdvance :
    (0 < 12 ∧ live.laneOn = true) ∧
    (11 < 12 ∧ live.laneOn = true) :=
    ⟨by decide +kernel, by decide +kernel⟩

theorem witness_FailedAttemptBacksOff :
    (0 < 12 ∧ (laneAt 0 2).laneOn = true ∧ 2 ≤ (laneAt 0 2).phase 0 ∧ (laneAt 0 2).phase 0 ≤ 6 ∧
      ((Instr.trainPhaseTimeout 0), 1) ∈ [(Instr.trainPhaseTimeout 0, 1), (.trainTotalTimeout 0, 2)]) ∧
    (11 < 12 ∧ (laneAt 11 6).laneOn = true ∧ 2 ≤ (laneAt 11 6).phase 11 ∧ (laneAt 11 6).phase 11 ≤ 6 ∧
      ((Instr.trainTotalTimeout 11), 2) ∈ [(Instr.trainPhaseTimeout 11, 1), (.trainTotalTimeout 11, 2)]) :=
    ⟨by decide +kernel, by decide +kernel⟩

theorem witness_NextAttemptStarts :
    (0 < 12 ∧ (laneAt 0 8).laneOn = true ∧ (laneAt 0 8).phase 0 = Phase.backoff ∧ (Instr.backoffExpiry 0) ∈
      [.backoffExpiry 0, .energyDetect 0]) ∧
    (11 < 12 ∧ (laneAt 11 8).laneOn = true ∧ (laneAt 11 8).phase 11 = Phase.backoff ∧ (Instr.energyDetect 11) ∈
      [.backoffExpiry 11, .energyDetect 11]) ∧
    (∃ (s : State) (l : Nat), l < 12 ∧ s.laneOn = true ∧ s.phase l = Phase.listen) ∧
    (∃ (s : State) (l : Nat), 8 ≤ l ∧ l < 12 ∧ s.laneOn = true ∧ (s.lane l).hunting = true) :=
    ⟨by decide +kernel, by decide +kernel, ⟨laneAt 11 9, 11, by decide +kernel⟩,
    ⟨{ live with lanes := [(8, { Lane.reset with hunting := true })] }, 8, by decide +kernel⟩⟩

theorem witness_LaneTests :
    (∃ (s : State) (l : Nat), l < 12 ∧ s.Takes (Page.lane l)) ∧
    (∃ (s : State) (l : Nat), l < 12 ∧ s.Takes (Page.lane l)) ∧
    (∃ (s : State) (l : Nat), l < 12 ∧ s.laneOn = true) ∧
    (∃ (s : State) (l : Nat), l < 12 ∧ s.inReset = false ∧ s.pageOn (Page.lane l) = true) :=
    ⟨⟨live, 11, by simp only [takes_iff]; decide +kernel⟩, ⟨live, 11, by simp only [takes_iff]; decide +kernel⟩,
    ⟨live, 11, by decide +kernel⟩, ⟨live, 11, by decide +kernel⟩⟩

theorem witness_InjectionAndLoopTests :
    (∃ (s : State) (l : Nat), l < 12 ∧ s.Takes (Page.lane l)) ∧
    (∃ (s : State) (l : Nat), l < 12 ∧ s.laneOn = true ∧ (s.lane l).injOn = true ∧ s.injectable l = true ∧
      s.phase l = Phase.test ∧ s.get (Page.lane l) LANE.INJ_CTRL.KIND = 2) ∧
    (0 < 12 ∧ (({ laneAt 0 2 with lanes := [(0, { Lane.reset with injOn := true })] } : State).put (Page.lane 0)
      LANE.INJ_CTRL.KIND 2).laneOn = true ∧ ((({ laneAt 0 2 with lanes := [(0, { Lane.reset with injOn := true
      })] } : State).put (Page.lane 0) LANE.INJ_CTRL.KIND 2).lane 0).injOn = true ∧ (({ laneAt 0 2 with lanes :=
      [(0, { Lane.reset with injOn := true })] } : State).put (Page.lane 0) LANE.INJ_CTRL.KIND 2).injectable 0 =
      true ∧ (¬ ((({ laneAt 0 2 with lanes := [(0, { Lane.reset with injOn := true })] } : State).put (Page.lane
      0) LANE.INJ_CTRL.KIND 2).phase 0 = Phase.test ∧ (({ laneAt 0 2 with lanes := [(0, { Lane.reset with injOn
      := true })] } : State).put (Page.lane 0) LANE.INJ_CTRL.KIND 2).get (Page.lane 0) LANE.INJ_CTRL.KIND = 2)))
      ∧
    (11 < 12 ∧ (({ laneAt 11 10 with lanes := [(11, { Lane.reset with injOn := true })] } : State).put
      (Page.lane 11) LANE.INJ_CTRL.KIND 1).laneOn = true ∧ ((({ laneAt 11 10 with lanes := [(11, { Lane.reset
      with injOn := true })] } : State).put (Page.lane 11) LANE.INJ_CTRL.KIND 1).lane 11).injOn = true ∧ (({
      laneAt 11 10 with lanes := [(11, { Lane.reset with injOn := true })] } : State).put (Page.lane 11)
      LANE.INJ_CTRL.KIND 1).injectable 11 = true ∧ (¬ ((({ laneAt 11 10 with lanes := [(11, { Lane.reset with
      injOn := true })] } : State).put (Page.lane 11) LANE.INJ_CTRL.KIND 1).phase 11 = Phase.test ∧ (({ laneAt
      11 10 with lanes := [(11, { Lane.reset with injOn := true })] } : State).put (Page.lane 11)
      LANE.INJ_CTRL.KIND 1).get (Page.lane 11) LANE.INJ_CTRL.KIND = 2))) ∧
    (∃ (s : State) (l : Nat), l < 12 ∧ s.Takes (Page.lane l)) ∧
    (∃ (s : State) (l : Nat), l < 12 ∧ s.laneOn = true ∧ s.flag (Page.lane l) LANE.LT_STAT.PENDING = true) :=
    ⟨⟨live, 11, by simp only [takes_iff]; decide +kernel⟩,
    ⟨({ laneAt 11 10 with lanes := [(11, { Lane.reset with injOn := true })] } : State).put (Page.lane 11) LANE.INJ_CTRL.KIND 2,
    11, by decide +kernel⟩, by decide +kernel, by decide +kernel, ⟨live,
    11, by simp only [takes_iff]; decide +kernel⟩, ⟨live.putB (Page.lane 11) LANE.LT_STAT.PENDING true,
    11, by decide +kernel⟩⟩

theorem witness_CellsReceived :
    (0 < 8 ∧ (carryAt 0).laneOn = true ∧ (carryAt 0).carrying 0 = true ∧ (0 < 4 → (carryAt 0).inserted 0 = true)
      ∧ (carryAt 0).phase ((carryAt 0).cellArrives 0 (⟨0, false, false, [], 0⟩ : Cell)) ≠ Phase.confirm) ∧
    (7 < 8 ∧ (carryAt 7).laneOn = true ∧ (carryAt 7).carrying 7 = true ∧ (7 < 4 → (carryAt 7).inserted 7 = true)
      ∧ (carryAt 7).phase (7 + 4) ≠ Phase.confirm) ∧
    (∃ (s : State) (p : Nat), p < 4 ∧ (s.inserted p = false ∨ s.carrying p = false)) ∧
    (∃ (s : State) (p : Nat), p < 8 ∧ s.receives (p + 4) = true ∧ s.readsBlocks (p + 4) = true ∧ s.phase (p + 4)
      = Phase.confirm ∧ (s.lane (p + 4)).confDone = true ∧ (s.lane (p + 4)).afterMark = true) ∧
    (∃ (s : State) (t : Nat) (c : TxCell) (q : List TxCell), t < 4 ∧ s.laneOn = true ∧ (s.port t).waitq = c ::
      q) :=
    ⟨by decide +kernel, by decide +kernel, ⟨live, 3, by decide +kernel⟩,
    ⟨{ rxLane 11 6 with lanes := [(11, { Lane.reset with confDone := true, afterMark := true })] },
    7, by decide +kernel⟩, ⟨wrapAt 3, 3, ⟨⟨0, false, false, [], 0⟩, 0, false, false⟩, [], by decide +kernel⟩⟩

theorem witness_RingInsertion :
    (∃ (s : State), s.Takes Page.ring) ∧
    (∃ (s : State), s.laneOn = true) :=
    ⟨⟨live, by simp only [takes_iff]; decide +kernel⟩, ⟨live, by decide +kernel⟩⟩

theorem witness_ServiceMessagesAndStreamCounters :
    (0 < 8 ∧ live.Takes (portPage 0)) ∧
    (7 < 8 ∧ live.Takes (portPage 7)) ∧
    (∃ (s : State) (p : Nat), p < 8 ∧ s.Takes (portPage p)) ∧
    (∃ (s : State), s.inReset = false ∧ s.pageOn Page.ring = true) :=
    ⟨by simp only [takes_iff]; decide +kernel, by simp only [takes_iff]; decide +kernel, ⟨live,
    7, by simp only [takes_iff]; decide +kernel⟩, ⟨live, by decide +kernel⟩⟩

theorem witness_ReferencesAreMeasured :
    ((refAt 0).inReset = false ∧ 0 < 12 ∧ (refAt 0).refEn 0 = true ∧ (refAt 0).refActive 0 = true) ∧
    ((refAt 11).inReset = false ∧ 11 < 12 ∧ (refAt 11).refEn 11 = true ∧ (refAt 11).refActive 11 = true) ∧
    (live.inReset = true ∨ 12 ≤ 12 ∨ live.refEn 12 = false ∨ live.refActive 12 = false) ∧
    (live.inReset = true ∨ 12 ≤ 0 ∨ live.refEn 0 = false ∨ live.refActive 0 = false) ∧
    (∃ (s : State) (k : Nat), s.inReset = false ∧ k < 13) ∧
    (∃ (s : State), s.inReset = false) :=
    ⟨by decide +kernel, by decide +kernel, by decide +kernel, by decide +kernel, ⟨live, 12, by decide +kernel⟩,
    ⟨live, by decide +kernel⟩⟩

theorem witness_SelectionFollowsQualification :
    (∃ (s : State) (k : Nat), s.inReset = false ∧ k < 13 ∧ s.flag Page.ref (REF.REF_STAT.SOAKING k) = true ∧
      s.hoExpires = false ∧ s.refEn k = true ∧ s.refActive k = true ∧ (isPortRef k = true → s.flag Page.ref
      (REF.REF_STAT.QL_BAD k) = false ∧ s.flag Page.ref (REF.REF_STAT.LOOP k) = false)) ∧
    (∃ (s : State) (k : Nat), s.inReset = false ∧ k < 13 ∧ s.selected = some k ∧ s.refActive k = true ∧
      s.qualified k = true ∧ (∀ j, j < 13 → j ≠ k → s.qualified j = false) ∧ s.dpllState = 2 ∧ s.get Page.ref
      REF.REF_CTRL.MODE = 0) ∧
    (live.inReset = true ∨ 13 ≤ 13 ∨ live.flag Page.ref (REF.REF_STAT.SOAKING 13) = false ∨ live.hoExpires =
      true) ∧
    (live.inReset = true ∨ 13 ≤ 0 ∨ live.flag Page.ref (REF.REF_STAT.SOAKING 0) = false ∨ live.hoExpires = true) :=
    ⟨⟨refAt 12, 12, by decide +kernel⟩,
    ⟨((refAt 2).put Page.ref (REF.REF_STAT.QUALIFIED 2) 1).put Page.ref REF.DPLL_STAT.STATE 2,
    2, by decide +kernel⟩, by decide +kernel, by decide +kernel⟩

theorem witness_PhaseSamplesSteer :
    ((refAt 0).inReset = false ∧ (refAt 0).selected = some 0 ∧ 0 < 13) ∧
    ((refAt 12).inReset = false ∧ (refAt 12).selected = some 12 ∧ 12 < 13) ∧
    (∃ (s : State), s.selected = none) ∧
    (∃ (s : State), s.Takes Page.ref) ∧
    (∃ (s : State), s.Takes Page.ref) ∧
    (∃ (s : State), s.inReset = false) :=
    ⟨by decide +kernel, by decide +kernel, ⟨live, by decide +kernel⟩,
    ⟨live, by simp only [takes_iff]; decide +kernel⟩, ⟨live, by simp only [takes_iff]; decide +kernel⟩,
    ⟨live, by decide +kernel⟩⟩

theorem witness_HoldoverIsBounded :
    (∃ (s : State), s.inReset = false) ∧
    ((live.put Page.ref REF.DPLL_STAT.STATE 3).inReset = false ∧ ((live.put Page.ref REF.DPLL_STAT.STATE
      3).dpllState = 3 ∨ (live.put Page.ref REF.DPLL_STAT.STATE 3).dpllState = 4)) ∧
    ((live.put Page.ref REF.DPLL_STAT.STATE 4).inReset = false ∧ ((live.put Page.ref REF.DPLL_STAT.STATE
      4).dpllState = 3 ∨ (live.put Page.ref REF.DPLL_STAT.STATE 4).dpllState = 4)) ∧
    (∃ (s : State), (s.inReset = true ∨ s.dpllState < 3 ∨ 4 < s.dpllState)) :=
    ⟨⟨live, by decide +kernel⟩, by decide +kernel, by decide +kernel, ⟨live, by decide +kernel⟩⟩

theorem witness_TimeIsReadSetAndStepped :
    (∃ (s : State), s.Takes Page.ref) ∧
    (∃ (s : State), s.inReset = false ∧ s.flag Page.ref REF.PSTEP_CTRL.BUSY = true ∧ s.dpll.stepLeft = 0) ∧
    (∃ (s : State), s.dpll.stepLeft ≠ 0) ∧
    (live.Takes Page.ntime ∧ live.isMaster = false) ∧
    ((live.putB Page.ntime NTIME.NT_CTRL.ROLE true).Takes Page.ntime ∧ (live.putB Page.ntime NTIME.NT_CTRL.ROLE
      true).isMaster = true ∧ (!(live.putB Page.ntime NTIME.NT_CTRL.ROLE true).domOn 5 || !(live.putB Page.ntime
      NTIME.NT_CTRL.ROLE true).flag Page.frame FRAME.FRAME_RUN.RUN) = true) ∧
    (live.inReset = false ∧ 0 < 32768) ∧
    (live.inReset = false ∧ 32767 < 32768) ∧
    (∃ (s : State), s.Takes Page.ntime) :=
    ⟨⟨live, by simp only [takes_iff]; decide +kernel⟩,
    ⟨live.putB Page.ref REF.PSTEP_CTRL.BUSY true, by decide +kernel⟩,
    ⟨{ live with dpll := { live.dpll with stepLeft := -1 } }, by decide +kernel⟩,
    by simp only [takes_iff]; decide +kernel, by simp only [takes_iff]; decide +kernel, by decide +kernel,
    by decide +kernel, ⟨live, by simp only [takes_iff]; decide +kernel⟩⟩

theorem witness_SchedEntriesAreArmed :
    (∃ (s : State) (k : Nat) (ctrl : Word), k < 64 ∧ s.Takes Page.sched ∧ (s.actArmed k = false ∨ ctrl.getLsbD 7
      = true)) ∧
    (∃ (s : State) (k : Nat) (ctrl : Word), k < 64 ∧ s.Takes Page.sched ∧ s.actArmed k = true ∧ ctrl.getLsbD 7 =
      false) ∧
    (∃ (s : State) (k : Nat) (ctrl : Word), k < 64 ∧ s.Takes Page.sched ∧ ctrl.getLsbD 6 = false) ∧
    (∃ (ctrl : Word), ctrl.getLsbD 6 = true ∧ ctrl.getLsbD 7 = true) :=
    ⟨⟨live, 63, 0x40, by simp only [takes_iff]; decide +kernel⟩, ⟨actAt 63 7, 63,
    0x40, by simp only [takes_iff]; decide +kernel⟩, ⟨live, 63, 0, by simp only [takes_iff]; decide +kernel⟩,
    ⟨0xC0, by decide +kernel⟩⟩

theorem witness_SchedActionsExecute :
    (∃ (s : State) (k : Nat), dueAct s k 1) ∧
    (∃ (s : State) (k : Nat), dueAct s k 2) ∧
    (∃ (s : State) (k : Nat), dueAct s k 3) ∧
    dueAct (actAt 0 4) 0 4 ∧
    dueAct (actAt 0 5) 0 5 ∧
    (∃ (s : State) (k : Nat), dueAct s k 6) ∧
    dueAct (actAt 0 7) 0 7 ∧
    dueAct (actAt 63 7) 63 7 ∧
    ¬ dueAct (actAt 0 1) 0 7 ∧
    ¬ dueAct ((actAt 0 7).put Page.sched (SCHED.ACT_CTRL.ARMED 1) 1) 1 7 :=
    ⟨⟨actAt 63 1, 63, by decide +kernel⟩, ⟨actAt 0 2, 0, by decide +kernel⟩, ⟨actAt 0 3, 0, by decide +kernel⟩,
    by decide +kernel, by decide +kernel, ⟨actAt 0 6, 0, by decide +kernel⟩, by decide +kernel,
    by decide +kernel, by decide +kernel, by decide +kernel⟩

theorem witness_PortsStartAndStop :
    (∃ (s : State), s.Takes (audioPage 0)) ∧
    (∃ (s : State), s.inReset = false ∧ s.startTrig ≠ 0) ∧
    (live.inReset = false ∧ live.domOn 8 = true ∧ 0 < 52) ∧
    (live.inReset = false ∧ live.domOn 8 = true ∧ 51 < 52) ∧
    (0 < 52 ∧ live.Takes (audioPage 0)) ∧
    (51 < 52 ∧ live.Takes (audioPage 51)) :=
    ⟨⟨live, by simp only [takes_iff]; decide +kernel⟩, ⟨{ live with startTrig := 1 }, by decide +kernel⟩,
    by decide +kernel, by decide +kernel, by simp only [takes_iff]; decide +kernel,
    by simp only [takes_iff]; decide +kernel⟩

theorem witness_PortFramesMove :
    ((portOn 0).inReset = false ∧ (portOn 0).domOn 8 = true ∧ 0 < 52 ∧ (portOn 0).portRuns 0 = true ∧ (portOn
      0).dirEn 0 false = true) ∧
    ((portOn 51).inReset = false ∧ (portOn 51).domOn 8 = true ∧ 51 < 52 ∧ (portOn 51).portRuns 51 = true ∧
      (portOn 51).dirEn 51 false = true) ∧
    ((portOn 0).inReset = false ∧ (portOn 0).domOn 8 = true ∧ 0 < 52 ∧ (portOn 0).portRuns 0 = true ∧ (portOn
      0).dirEn 0 true = true) ∧
    ((portOn 51).inReset = false ∧ (portOn 51).domOn 8 = true ∧ 51 < 52 ∧ (portOn 51).portRuns 51 = true ∧
      (portOn 51).dirEn 51 true = true) ∧
    (∃ (s : State) (p : Nat), s.portRuns p = false) :=
    ⟨by decide +kernel, by decide +kernel, by decide +kernel, by decide +kernel, ⟨live, 51, by decide +kernel⟩⟩

theorem witness_ChannelsMoveThroughTheirStates :
    (∃ (s : State) (n : Nat), n < 16 ∧ s.inReset = false ∧ s.notReady (Page.amp n) = false ∧ s.locked (Page.amp
      n) = false) ∧
    (∃ (s : State) (n : Nat), s.inReset = false ∧ s.domOn 9 = true ∧ n < 16) ∧
    (∃ (s : State) (n : Nat), s.inReset = false ∧ s.domOn 9 = true ∧ n < 16 ∧ s.ampState n = 2) ∧
    (∃ (s : State) (n : Nat), n < 16 ∧ s.Takes (Page.amp n)) :=
    ⟨⟨live, 15, by decide +kernel⟩, ⟨live, 15, by decide +kernel⟩, ⟨ampAt 15 2, 15, by decide +kernel⟩, ⟨live,
    15, by simp only [takes_iff]; decide +kernel⟩⟩

theorem witness_CarrierPeriodsDriveAndTrip :
    ∃ (s : State) (n : Nat), s.inReset = false ∧ s.domOn 9 = true ∧ n < 16 :=
    ⟨live, 15, by decide +kernel⟩

theorem witness_ChannelsAreMeasured :
    (∃ (s : State) (n : Nat), s.inReset = false ∧ s.domOn 9 = true ∧ n < 16) ∧
    (∃ (s : State) (n : Nat), n < 16 ∧ s.Takes (Page.amp n)) ∧
    (∃ (s : State) (n : Nat), s.inReset = false ∧ s.domOn 9 = true ∧ n < 16) ∧
    (∃ (s : State), s.Takes Page.ampc) ∧
    (∃ (s : State), s.inReset = false ∧ s.domOn 9 = true ∧ s.flag Page.ampc AMPC.CAL_STAT.BUSY = true) :=
    ⟨⟨live, 15, by decide +kernel⟩, ⟨live, 15, by simp only [takes_iff]; decide +kernel⟩, ⟨live,
    15, by decide +kernel⟩, ⟨live, by simp only [takes_iff]; decide +kernel⟩,
    ⟨live.putB Page.ampc AMPC.CAL_STAT.BUSY true, by decide +kernel⟩⟩

theorem witness_RailsRiseUnderTheirGrant :
    (∃ (s : State) (k : Nat), k < 8 ∧ s.inReset = false ∧ s.notReady (Page.boost k) = false ∧ s.locked
      (Page.boost k) = false) ∧
    (∃ (s : State) (k : Nat), s.inReset = false ∧ s.domOn 9 = true ∧ k < 8) ∧
    (∃ (s : State) (k : Nat), k < 8 ∧ s.Takes (Page.boost k)) :=
    ⟨⟨live, 7, by decide +kernel⟩, ⟨live, 7, by decide +kernel⟩, ⟨live,
    7, by simp only [takes_iff]; decide +kernel⟩⟩

theorem witness_RailsAreProtected :
    (∃ (s : State) (k : Nat), s.inReset = false ∧ s.domOn 9 = true ∧ k < 8) ∧
    (∃ (s : State) (k : Nat), s.inReset = false ∧ s.domOn 9 = true ∧ k < 8) :=
    ⟨⟨live, 7, by decide +kernel⟩, ⟨live, 7, by decide +kernel⟩⟩

theorem witness_PowerRequestsStart :
    ∃ (s : State), s.Takes Page.pwr :=
    ⟨live, by simp only [takes_iff]; decide +kernel⟩

theorem witness_PowerRequestsRunThrough :
    (∃ (s : State) (d : Nat) (rest : List Nat), s.inReset = false ∧ s.pwr.phase = .stopping ∧ s.pwr.todo = d ::
      rest) ∧
    (∃ (s : State), s.inReset = false ∧ s.pwr.phase = .signing ∧ s.holds Kind.retSig 6 = true) ∧
    (∃ (s : State), s.inReset = false ∧ s.pwr.phase = .waitGrant) ∧
    (({ live with pwr := { live.pwr with todo := [1] } } : State).inReset = false ∧ ({ live with pwr := {
      live.pwr with todo := [1] } } : State).pwr.todo = 1 :: [] ∧ 1 ≤ 1 ∧ 1 ≤ 9) ∧
    (({ live with pwr := { live.pwr with todo := [9] } } : State).inReset = false ∧ ({ live with pwr := {
      live.pwr with todo := [9] } } : State).pwr.todo = 9 :: [] ∧ 1 ≤ 9 ∧ 9 ≤ 9) :=
    ⟨⟨{ live with pwr := { live.pwr with phase := .stopping, todo := [9] } }, 9, [], by decide +kernel⟩,
    ⟨{ { live with pwr := { live.pwr with phase := .signing } } with ledger := { live.ledger with held := [⟨⟨Kind.retSig, 6⟩, 0, 0, false⟩] } }, by decide +kernel⟩,
    ⟨{ live with pwr := { live.pwr with phase := .waitGrant } }, by decide +kernel⟩, by decide +kernel,
    by decide +kernel⟩

theorem witness_LedgerKeepsItsBudgets :
    ∃ (s : State), s.inReset = false :=
    ⟨live, by decide +kernel⟩

theorem witness_TimeoutsAlarmsAndVcore :
    (∃ (s : State) (kind : Nat) (inst : Nat), s.inReset = false ∧ s.waits kind inst = true ∧ kind < 11 ∧ inst <
      32 ∧ s.ledger.untimed.contains ⟨kind, inst⟩ = false ∧ (s.ledger.scanned = some s.mgmtNow ∨
      s.ledgerCycle.waits kind inst = true)) ∧
    (∃ (s : State) (kind : Nat) (inst : Nat), (s.waits kind inst = false ∨ s.ledger.untimed.contains ⟨kind,
      inst⟩ = true)) ∧
    (∃ (s : State), s.inReset = false) ∧
    (∃ (s : State), s.inReset = false ∧ s.ready = true ∧ s.mgmt.restart = false) ∧
    (∃ (s : State), s.inReset = false ∧ s.ready = true ∧ s.mgmt.restart = false ∧ s.vcore.failed = false ∧
      s.vcore.want ≠ 0 ∧ s.get Page.busm BUSM.VCORE_SET.MV ≠ s.vcoreGoal) :=
    ⟨⟨waitingGrant, Kind.laneTrain, 0, by decide +kernel⟩, ⟨live, 0, 0, by decide +kernel⟩,
    ⟨live, by decide +kernel⟩, ⟨live, by decide +kernel⟩,
    ⟨{ live with vcore := { live.vcore with want := 900 } }, by decide +kernel⟩⟩

theorem witness_TicksAndStartsMoveSamples :
    (∃ (s : State) (i : BitVec 32), s.inReset = false ∧ s.nextTick = some i ∧ s.domOn 5 = true ∧ s.fseq.old = []
      ∧ s.fsize ≤ 32 ∧ (s.fseq.entered.map (·.1)).Nodup ∧ s.fseq.held = false) ∧
    (∃ (s : State) (i : BitVec 32), s.inReset = false ∧ s.nextTick = some i ∧ s.domOn 5 = true ∧ s.fseq.old = []
      ∧ s.fsize ≤ 32 ∧ (s.fseq.entered.map (·.1)).Nodup ∧ s.fseq.held = false ∧ (s.fastDsts.flatMap (fun d =>
      ((s.xpts.filter (fun e => e.fast && e.dst == d)).map Xpt.key) ++ s.fadesOf true d)).Nodup ∧ (∀ d ∈
      s.fastDsts, ∀ x ∈ (fun d => ((s.xpts.filter (fun e => e.fast && e.dst == d)).map Xpt.key) ++ s.fadesOf
      true d) d, keySrc x ∉ s.fastDsts)) ∧
    (((laneAt 0 7).putB Page.clk CLK.CLK_STAT.ROOT_LOCK true).inReset = false ∧ ((laneAt 0 7).putB Page.clk
      CLK.CLK_STAT.ROOT_LOCK true).domOn 7 = true ∧ 0 < 12 ∧ ((laneAt 0 7).putB Page.clk CLK.CLK_STAT.ROOT_LOCK
      true).sendsBlocks 0 = true ∧ (((laneAt 0 7).putB Page.clk CLK.CLK_STAT.ROOT_LOCK true).time.starts ≠ 0 ∨
      ((laneAt 0 7).putB Page.clk CLK.CLK_STAT.ROOT_LOCK true).flag Page.clk CLK.CLK_STAT.ROOT_LOCK = true) ∧
      ((laneAt 0 7).putB Page.clk CLK.CLK_STAT.ROOT_LOCK true).flag Page.ntime NTIME.NT_STAT.SET_PEND = false ∧
      ((laneAt 0 7).putB Page.clk CLK.CLK_STAT.ROOT_LOCK true).flag Page.ntime NTIME.NT_STAT.ALIGN_PEND = false)
      ∧
    (((laneAt 11 4).putB Page.clk CLK.CLK_STAT.ROOT_LOCK true).inReset = false ∧ ((laneAt 11 4).putB Page.clk
      CLK.CLK_STAT.ROOT_LOCK true).domOn 7 = true ∧ 11 < 12 ∧ ((laneAt 11 4).putB Page.clk
      CLK.CLK_STAT.ROOT_LOCK true).sendsBlocks 11 = true ∧ (((laneAt 11 4).putB Page.clk CLK.CLK_STAT.ROOT_LOCK
      true).time.starts ≠ 0 ∨ ((laneAt 11 4).putB Page.clk CLK.CLK_STAT.ROOT_LOCK true).flag Page.clk
      CLK.CLK_STAT.ROOT_LOCK = true) ∧ ((laneAt 11 4).putB Page.clk CLK.CLK_STAT.ROOT_LOCK true).flag Page.ntime
      NTIME.NT_STAT.SET_PEND = false ∧ ((laneAt 11 4).putB Page.clk CLK.CLK_STAT.ROOT_LOCK true).flag Page.ntime
      NTIME.NT_STAT.ALIGN_PEND = false) ∧
    (∃ (s : State) (id : Nat), s.inReset = false ∧ s.domOn 7 = true ∧ s.domOn 5 = true ∧ s.ecc = [] ∧ s.domOn 6
      = true ∧ (s.time.starts ≠ 0 ∨ s.flag Page.clk CLK.CLK_STAT.ROOT_LOCK = true) ∧ s.commitPending = false ∧
      s.flag Page.ntime NTIME.NT_STAT.SET_PEND = false ∧ s.flag Page.ntime NTIME.NT_STAT.ALIGN_PEND = false ∧
      s.get Page.clk CLK.CLK_CTRL.FS_SEL = s.fs ∧ (s.fs = 0 → s.time.starts ≠ 0 → s.time.c.getLsbD 0 = true) ∧
      id ∈ s.streams ∧ s.extracts (s.streamEnt id) = true ∧ Tab.get none s.ring.restart id = none) :=
    ⟨⟨ticked, 0, by decide +kernel⟩, ⟨ticked, 0, by decide +kernel⟩, by decide +kernel, by decide +kernel,
    ⟨extracting, 0, by decide +kernel⟩⟩

theorem witness_StepRunsTheCommandInFront :
    ∃ (s : State), s.pending = [] :=
    ⟨live, by decide +kernel⟩

theorem witness_SlotWordsSpellCommands :
    (∃ (slot : Nat), slot < 4) ∧
    (∃ (slot : Nat) (v : Nat), slotReserved slot v = true) :=
    ⟨⟨3, by decide +kernel⟩, ⟨0, 0x1F000000, by decide +kernel⟩⟩

theorem witness_CommandsCompleteWithTheirEffect :
    (∃ (s : State), s.inReset = false ∧ s.time.starts ≠ 0 ∧ s.flag Page.ntime NTIME.NT_STAT.SET_PEND = false ∧
      s.flag Page.ntime NTIME.NT_STAT.ALIGN_PEND = false) ∧
    (∃ (s : State) (sense : List SensePair) (i : BitVec 32), s.inReset = false ∧ s.nextTick = some i) ∧
    (∃ (s : State), s.inReset = false ∧ s.flag Page.ntime NTIME.NT_STAT.SET_PEND = true ∧ s.time.starts ≠ 0) ∧
    (∃ (s : State) (acc : Access) (v : Nat), s.Takes Page.gpio ∧ Writes acc Page.gpio 0x40 v) ∧
    (∃ (s : State) (acc : Access) (p : Nat) (set : Nat), s.inReset = false ∧ acc.by_ ≠ .jtag ∧ acc.size = 4 ∧
      acc.enables.toNat % 16 = 15 ∧ acc.addr % 4 = 0 ∧ placeOf acc.addr = .table p set ∧ s.pageOn p = true ∧
      s.locked p = false ∧ set ≠ s.activeSet p ∧ s.shadowHeld p = false) ∧
    (∃ (s : State) (acc : Access) (n : Nat), s.inReset = false ∧ s.domOn 5 = true ∧ 0x22000000 ≤ acc.addr ∧
      acc.addr + acc.size ≤ 0x22400000 ∧ acc.by_ = .clus (n / 8) ∧ accBytes acc ≠ [] ∧ (∀ x ∈ accBytes acc,
      s.mayWritePlane n ((x.1 - 0x22000000) / 0x200000) ((x.1 - 0x22000000) / 128 % 16384) ((x.1 - 0x22000000) %
      128 / 4) = true)) ∧
    live.clusLive 0 = true ∧
    live.clusLive 3 = true ∧
    live.coreLive 0 = true ∧
    live.coreLive 31 = true ∧
    (0 < 32 ∧ live.Takes (Page.ibex 0) ∧ (1 : Word).getLsbD 0 = true) ∧
    (31 < 32 ∧ live.Takes (Page.ibex 31) ∧ (1 : Word).getLsbD 0 = true) ∧
    (∃ (s : State) (c : Nat), s.clusLive c = true ∧ s.nowCores c ≠ [] ∧ (∀ n ∈ s.nowCores c, (s.core n).run =
      .csync ∧ (s.core n).inh = false ∧ (s.core n).halted = false)) ∧
    (∃ (s : State) (by_ : Master) (addr : Nat) (bytes : List Byte) (qos : BitVec 4), s.inReset = false ∧ by_ ≠
      .jtag ∧ s.admits by_ qos.toNat = true ∧ s.waiting.any (fun w => w.by_ == by_) = false ∧ StoreClean s addr
      bytes.length) ∧
    (live.inReset = false ∧ 0 < 4) ∧
    (live.inReset = false ∧ 3 < 4) ∧
    (∃ (s : State) (l : Nat), s.receives l = true ∧ s.aligned l = true ∧ (let b := descramble (if s.rxInverts l
      then ~~~markerBody else markerBody); markerOk b = true ∧ (markerOf b (s.lineBits 0)).cyc = (s.lane l).due
      ∧ s.pairSkew l (markerOf b (s.lineBits 0)) = none)) ∧
    (∃ (s : State) (l : Nat), s.receives l = true ∧ s.aligned l = true) ∧
    (∃ (s : State) (p : Nat) (cell : Cell), p < 4 ∧ s.laneOn = true ∧ (cellOrigin cell s.cycle).2 ≤ s.get
      Page.ring RING.RING_CFG.AGE_MAX ∧ oddHalfRate (s.streamEnt (s.governs cell.stream.toNat)) (cellOrigin cell
      s.cycle).1 = false) ∧
    (∃ (s : State) (k : Nat) (c : TxCell) (q : List TxCell), k < 4 ∧ s.laneOn = true ∧ (s.port k).waitq = c ::
      q) :=
    ⟨⟨ticked, by decide +kernel⟩, ⟨ticked, [], 0, by decide +kernel⟩,
    ⟨ticked.putB Page.ntime NTIME.NT_STAT.SET_PEND true, by decide +kernel⟩, ⟨live,
    ⟨0x10000000 + Page.gpio * 0x1000 + 0x40, 4, 0xF, 1, .pcie⟩,
    1, by simp only [takes_iff, writes_iff]; decide +kernel⟩, ⟨live, ⟨0x10380000, 4, 0xF, 0, .pcie⟩, Page.eq,
    1, by decide +kernel⟩, ⟨planeOut, planeAcc 0x22000000, 0, by decide +kernel⟩, by decide +kernel,
    by decide +kernel, by decide +kernel, by decide +kernel, by simp only [takes_iff]; decide +kernel,
    by simp only [takes_iff]; decide +kernel, ⟨clusAt .frame { Core.reset with run := .csync },
    0, by decide +kernel⟩, ⟨live, .pcie, 0x03FFFFFC, [1, 2, 3, 4], 0, by simp only [clean_iff]; decide +kernel⟩,
    by decide +kernel, by decide +kernel, ⟨rxLane 0 7, 0, by decide +kernel⟩, ⟨rxLane 11 7,
    11, by decide +kernel⟩, ⟨live, 3,
    ⟨0, false, false, [], BitVec.ofNat 16 (crc16 238 (cellBody ⟨0, false, false, [], 0⟩))⟩, by decide +kernel⟩,
    ⟨wrapAt 3, 3, ⟨⟨0, false, false, [], 0⟩, 0, false, false⟩, [], by decide +kernel⟩⟩

/-! ### The hypotheses that an opaque value or a computed one decides -/

/-- A device whose rollback counter is past the security version of slot A. -/
theorem witness_rolledBackImage : ∃ s : State, Config.securityVersion (s.imageHeader false) < s.mgmt.rollback :=
  ⟨{ live with mgmt := { live.mgmt with rollback := Config.securityVersion (live.imageHeader false) + 1 } },
    Nat.lt_succ_self _⟩

/-- An ALIGN pending on the marker of cycle 1 of lane 0, whose delay is known. -/
def aligning : State :=
  { (ticked.put Page.ntime NTIME.NT_STAT.ALIGN_PEND 1).put Page.ntime (NTIME.LDLY.DELAY 0) 0 with
    dpll := { live.dpll with align := some (0, ⟨1, 0, 0, 0, 0, 0, 0, 0, 0⟩) }
    lanes := [(0, { Lane.reset with rxSd := some (1, 0) })] }

theorem witness_aligning : aligning.inReset = false ∧ aligning.dpll.align = some (0, ⟨1, 0, 0, 0, 0, 0, 0, 0, 0⟩) ∧
    aligning.flag Page.ntime NTIME.NT_STAT.ALIGN_PEND = true ∧
    aligning.flag Page.ntime NTIME.NT_STAT.SET_PEND = false ∧
    (State.alignValues { aligning with
      time := ⟨aligning.time.nextCQ.1, aligning.time.nextCQ.2, 0, aligning.time.starts + 1, aligning.time.bit31⟩ }).isSome :=
  by decide +kernel

theorem witness_MailboxCommandStarts : live.Takes Page.mgmt := by
  simp only [takes_iff]; decide +kernel

/-- The invariant holds at reset, and a step follows there and in any state with a command in front. -/
theorem witness_EveryStepKeepsTheInvariant : State.reset.Inv ∧ (∃ t, step State.reset = .next t) ∧
    ∃ t, step { State.reset with pending := [.rootPllLock] } = .next t :=
  ⟨⟨by decide, by decide, by decide⟩, ⟨_, rfl⟩, ⟨_, rfl⟩⟩

theorem witness_CommandsChangeTheirPartsOnly : ∃ t, exec (.gpioSet 1) live = .next t := ⟨_, rfl⟩

/-! ### Worked examples of the spec and single commands -/

/-- The state after a command. -/
def after (i : Instr) (s : State) : State :=
  match exec i s with
  | .next t => t
  | _ => s

/-- The marker of cycle 0x0012342C on the odd lane of a trunk (the example of chapter 10): LCHK 0b0101 with a
type-specific word 0x12C5, the seed 0x44B2A5C3, and 0xC2 as the first eight scrambler outputs. -/
theorem test_marker_example : (1 ^^^ 2 ^^^ 0xC ^^^ 0xA) = 5 ∧ scrSeed 1 0x2C = 0x44B2A5C3 ∧
    scrBits 8 (scrSeed 1 0x2C) 0 = 0xC2 := by decide +kernel

/-- ADD wraps at 32 bits and its result lands after one bundle (R101, R165). -/
theorem test_add_wraps :
    let s := live.setCore 0 { Core.reset with run := .running, d := [(1, 0x80000001)] }
    let c := ((after (.add (opAt 0) 2 1 1) s).core 0)
    c.readD 2 = 0 ∧ (c.advance 1).readD 2 = 2 := by decide +kernel

/-- ADDS saturates at the most negative number (R165). -/
theorem test_adds_saturates :
    let s := live.setCore 0 { Core.reset with run := .running, d := [(1, 0x80000001)] }
    ((((after (.adds (opAt 0) 2 1 1) s).core 0).advance 1).readD 2) = 0x80000000 := by decide +kernel

/-- A source that is the destination is read before it is written. -/
theorem test_sub_same_register :
    let s := live.setCore 0 { Core.reset with run := .running, d := [(1, 7)] }
    ((((after (.sub (opAt 1) 1 1 1) s).core 0).advance 1).readD 1) = 0 := by decide +kernel

/-- A store writes a word with its least significant byte lowest, and a load of it a bundle later reads it back four
bundles on (R135, R166). -/
theorem test_store_then_load :
    let s := live.setCore 0 { Core.reset with run := .running, d := [(3, 0x11223344)], a := [(1, 0x40)] }
    let t := after (.st (opAt 2) .w4 3 1 (.off 0)) s
    let u := after (.ld ⟨0, 2, 0, 1⟩ .w4 5 1 (.off 0)) t
    t.byte (coreMemAddr 0 0x40) = 0x44 ∧ t.byte (coreMemAddr 0 0x43) = 0x11 ∧
      ((u.core 0).advance 4).readD 5 = 0x11223344 := by decide +kernel

/-- A branch goes on after its five delay slots (R142). -/
theorem test_branch_delay_slots :
    let c := (after (.br (opAt 3) 100) run0).core 0
    (c.advance 5).pc = 5 ∧ (c.advance 6).pc = 100 := by decide +kernel

/-- A write through PCIe reaches a GPIO register whole, and its mirror bits are set and cleared one by one
(R37, R65). -/
theorem test_gpio_writes :
    let s := after (.registerWrite ⟨0x10000000 + Page.gpio * 0x1000 + 0x44, 4, 15, 0xF0, .pcie⟩) live
    let t := after (.gpioSet 1) s
    let u := after (.gpioClr 0x80) t
    s.get Page.gpio GPIO.GPIO_OUT.OUT = 0xF0 ∧ t.get Page.gpio GPIO.GPIO_OUT.OUT = 0xF1 ∧
      u.get Page.gpio GPIO.GPIO_OUT.OUT = 0x71 := by decide +kernel

/-- A commit of nothing is done at the boundary after its validation, and COMMIT_SEQ counts it (R51). -/
theorem test_commit_applies :
    let s := after .commitApply (after .commitValidationDone (after (.commitGo 0x10001) ticked))
    s.get Page.dev DEV.COMMIT_SEQ.SEQ = 1 ∧ s.commitPending = false := by decide +kernel

/-- The top word of the Store takes a write; the byte above it is unmapped (R32, R34). -/
theorem test_store_top :
    let s := after (.busTransaction .pcie true 0x03FFFFFF [0x5A] [true] 0 0 false) live
    let t := after (.busTransaction .pcie true 0x04000000 [0x5A] [true] 0 0 false) s
    s.byte 0x03FFFFFF = 0x5A ∧ t.get Page.dev DEV.UNMAPPED_COUNT.COUNT = 1 ∧ t.mem = s.mem := by decide +kernel

/-- A valid marker of the cycle that is due keeps its lane aligned; the same body with one bit wrong counts as
missing (R246, R254). -/
theorem test_marker_received :
    ((after (.markerReceive 0 markerBody 0) (rxLane 0 7)).lane 0).miss = 0 ∧
    ((after (.markerReceive 0 (markerBody ^^^ 1#254) 0) (rxLane 0 7)).lane 0).miss = 1 := by decide +kernel

/-- A low level of 2 µs takes the device, whatever it held (R423). -/
theorem test_reset_low : (after (.resetNLow 2000) live).inReset = true ∧
    (after (.resetNLow 999) live) = live := by decide +kernel

end Sys2Proof.Tests
end

section
/-! SUPPORT. What a commit reports as it is applied (R51). -/

namespace Sys2Proof.Machine

/-! ### The end of a commit -/

/-- Of DEV, the end of a commit writes PENDING and DEFERRED alone. -/
theorem State.get_commitEnd (s : State) {f : Fld}
    (hp : (f.off, f.lo) ≠ (DEV.COMMIT_STAT.PENDING.off, DEV.COMMIT_STAT.PENDING.lo) := by decide)
    (hd : (f.off, f.lo) ≠ (DEV.COMMIT_STAT.DEFERRED.off, DEV.COMMIT_STAT.DEFERRED.lo) := by decide)
    (ho : f.off < 0x1000 := by decide) (hl : f.lo < 32 := by decide) :
    s.commitEnd.get Page.dev f = s.get Page.dev f := by
  have deferred : s.commitEnd.get Page.dev f = (s.commitStat DEV.COMMIT_STAT.PENDING false).get Page.dev f :=
    State.get_put_fld _ _ hd (by decide) (by decide) ho hl
  rw [deferred]
  exact State.get_put_fld _ _ hp (by decide) (by decide) ho hl

theorem State.commitPending_commitEnd (s : State) : s.commitEnd.commitPending = false := by
  have deferred : s.commitEnd.commitPending = (s.commitStat DEV.COMMIT_STAT.PENDING false).commitPending := by
    unfold State.commitPending State.flag
    congr 1
    exact State.get_put_fld _ _ (by decide)
  rw [deferred]
  exact State.flag_putB _ _ _ _ (by decide)

theorem State.commit_commitEnd (s : State) : s.commitEnd.commit = CommitReq.reset := rfl

/-! ### The report -/

/-- The report of a commit that is applied: COMMIT_SEQ after the value `seq`, the cycle number, DONE and
COMMIT_DONE; with it the commit ends (R51). -/
def State.reportApplied (s : State) (seq cycle : Nat) : State :=
  let s := (s.put Page.dev DEV.COMMIT_SEQ.SEQ (seq + 1)).put Page.dev DEV.COMMIT_DONE_CYCLE.CYCLE cycle
  ((s.commitStat DEV.COMMIT_STAT.DONE true).raise Page.dev 0).commitEnd

section
variable (s : State) (seq cycle : Nat)

theorem State.seq_reportApplied :
    (s.reportApplied seq cycle).get Page.dev DEV.COMMIT_SEQ.SEQ = (seq + 1) % 2 ^ 32 := by
  unfold State.reportApplied State.raise State.commitStat State.putB
  rw [State.get_commitEnd, State.get_put_fld, State.get_put_fld, State.get_put_fld, State.get_put_self]
  rfl

theorem State.doneCycle_reportApplied (h : cycle < 2 ^ 32) :
    (s.reportApplied seq cycle).get Page.dev DEV.COMMIT_DONE_CYCLE.CYCLE = cycle := by
  unfold State.reportApplied State.raise State.commitStat State.putB
  rw [State.get_commitEnd, State.get_put_fld, State.get_put_fld, State.get_put_self]
  exact Nat.mod_eq_of_lt h

theorem State.done_reportApplied : (s.reportApplied seq cycle).get Page.dev DEV.COMMIT_STAT.DONE = 1 := by
  unfold State.reportApplied State.raise State.commitStat
  rw [State.get_commitEnd, State.get_put_fld]
  exact State.get_putB _ _ _ true (by decide)

theorem State.raised_reportApplied :
    ((s.reportApplied seq cycle).get Page.dev HDR.IRQ_RAW.RAW).testBit 0 = true := by
  unfold State.reportApplied
  rw [State.get_commitEnd, State.get_raise]
  simp

end

/-! ### The application of a commit -/

/-- What precedes the application of a commit at its boundary leaves the time. -/
theorem State.time_takeUp_freezeIngress (s : State) : s.takeUp.freezeIngress.time = s.time :=
  (State.freezeIngress_only s.takeUp parts109_110 (State.takeUp_only s parts79_110 (.refl _ s))).same .time (by decide)

/-- Whatever else the application of a commit does, the report is its last act. -/
theorem State.commitApplied_reports (s : State) (b : BitVec 32) :
    ∃ u : State, s.commitApplied b = u.reportApplied (s.get Page.dev DEV.COMMIT_SEQ.SEQ) s.cycle := by
  have cycle : s.takeUp.freezeIngress.cycle = s.cycle :=
    congrArg (fun t : Time => t.c.toNat) s.time_takeUp_freezeIngress
  rw [← cycle]
  exact ⟨_, rfl⟩

/-- A commit that is due, whose target boundary is not missed and that passes its checks is applied (R47 to R49). -/
theorem exec_commitApply_of_passes {s : State} {b : BitVec 32} (run : s.inReset = false) (tick : s.nextTick = some b)
    (due : s.commitDue = true) (met : s.commitMissed = false)
    (accepted : (s.throughG2 b).refusal (s.throughG2 b).commitConfig = none)
    (undeferred : (s.throughG2 b).deferral (s.throughG2 b).commitConfig = none) :
    exec .commitApply s = .next (s.commitApplied b) := by
  have boundary : s.commitBoundary b = s.commitApplied b := by
    unfold State.commitBoundary
    simp only [accepted, undeferred]
  have arm : exec .commitApply s = execCommitApply s := rfl
  rw [arm]
  unfold execCommitApply
  simp only [tick, run, due, met, boundary, Bool.false_eq_true, Bool.true_eq_false, or_self, if_false]

/-- Settles O18: the application of a commit ends with its report, which nothing after it touches. -/
theorem appliedCommitIsReported : Obligations.AppliedCommitIsReported := by
  unfold Obligations.AppliedCommitIsReported
  intro s b run tick due met accepted undeferred
  obtain ⟨u, applied⟩ := s.commitApplied_reports b
  refine ⟨_, exec_commitApply_of_passes run tick due met accepted undeferred, ?_⟩
  rw [applied]
  exact ⟨u.seq_reportApplied _ _, u.doneCycle_reportApplied _ _ s.time.c.isLt, u.done_reportApplied _ _,
    u.raised_reportApplied _ _, State.commitPending_commitEnd _, State.commit_commitEnd _⟩

end Sys2Proof.Machine
end

section
/-! SUPPORT. Interrupt service: what setting a bit of a field does, what `vecAssert` and the end of a vector's
service do to the service bits, VEC_NT, the messages and the PBA, and what the end of service of the written
vectors (R54) comes to. -/

namespace Sys2Proof.Machine

/-! ### One bit of a field -/

/-- Adding a clear bit of a number sets that bit alone. -/
theorem testBit_add_two_pow {x i : Nat} (h : x.testBit i = false) (j : Nat) :
    (x + 2 ^ i).testBit j = if j = i then true else x.testBit j := by
  rcases Nat.lt_trichotomy j i with hj | rfl | hj
  · rw [if_neg (by omega), Nat.add_comm, Nat.testBit_two_pow_add_gt hj]
  · rw [if_pos rfl, Nat.add_comm, Nat.testBit_two_pow_add_eq, h]
    rfl
  · obtain ⟨k, rfl⟩ : ∃ k, j = k + 1 + i := ⟨j - i - 1, by omega⟩
    rw [if_neg (by omega)]
    rw [Nat.testBit_eq_decide_div_mod_eq, decide_eq_false_iff_not] at h
    have even : (x / 2 ^ i + 1) / 2 = x / 2 ^ i / 2 := by omega
    have high (y : Nat) : y.testBit (k + 1 + i) = (y / 2 ^ i / 2).testBit k := by
      rw [← Nat.testBit_succ, Nat.testBit_div_two_pow]
    rw [high, high x, Nat.add_div_right _ (Nat.two_pow_pos i), even]

/-- Taking a set bit of a number away clears that bit alone. -/
theorem testBit_sub_two_pow {x i : Nat} (h : x.testBit i = true) (j : Nat) :
    (x - 2 ^ i).testBit j = if j = i then false else x.testBit j := by
  obtain ⟨y, rfl⟩ : ∃ y, x = y + 2 ^ i := ⟨x - 2 ^ i, by have := Nat.ge_two_pow_of_testBit h; omega⟩
  have hy : y.testBit i = false := by
    rw [Nat.add_comm, Nat.testBit_two_pow_add_eq] at h
    simpa using h
  rw [Nat.add_sub_cancel, testBit_add_two_pow hy]
  split
  · next e => rw [e, hy]
  · rfl

/-- Setting or clearing a bit of a field changes that bit alone. -/
theorem State.testBit_setBit (s : State) (p : Nat) (f : Fld) (b : Nat) (v : Bool) {j : Nat} (hj : j < f.w) :
    ((s.setBit p f b v).get p f).testBit j = if j = b then v else (s.get p f).testBit j := by
  unfold State.setBit
  by_cases h : (s.get p f).testBit b = v
  · simp only [h, if_true]
    split
    · next e => rw [e, h]
    · rfl
  · simp only [h, if_false, State.get_put_self, Nat.testBit_mod_two_pow, hj, decide_true, Bool.true_and]
    cases v with
    | true => exact testBit_add_two_pow (Bool.eq_false_iff.mpr h) j
    | false => exact testBit_sub_two_pow (by simpa using h) j

theorem State.get_setBit_ne (s : State) {p q : Nat} {f g : Fld} (b : Nat) (v : Bool) (h : fkey q g ≠ fkey p f) :
    (s.setBit p f b v).get q g = s.get q g := by
  unfold State.setBit
  dsimp only
  split
  · rfl
  · exact State.get_put_ne _ _ h

@[simp] theorem State.setBit_pins (s : State) (p : Nat) (f : Fld) (b : Nat) (v : Bool) :
    (s.setBit p f b v).pins = s.pins := by
  unfold State.setBit
  dsimp only
  split <;> rfl

@[simp] theorem State.setBit_time (s : State) (p : Nat) (f : Fld) (b : Nat) (v : Bool) :
    (s.setBit p f b v).time = s.time := by
  unfold State.setBit
  dsimp only
  split <;> rfl

theorem OnlyRegs.setBit {rs : List (Nat × Nat)} {a b : State} (h : OnlyRegs rs a b) {p : Nat} {f : Fld} (k : Nat)
    (v : Bool) (hm : (p, f.off) ∈ rs) (ho : f.off < 0x1000) (hl : f.lo < 32) : OnlyRegs rs a (b.setBit p f k v) := by
  unfold State.setBit
  dsimp only
  split
  · exact h
  · exact h.put _ hm ho hl

/-! ### The bits that vectors have in a pair of registers -/

/-- Whether a vector's message waits in the PBA (R59). -/
def State.pbaBit (s : State) (v : Nat) : Bool := (s.get Page.host (pbaFld v)).testBit (v % 32)

theorem insvcFld_lo (v : Nat) : (insvcFld v).lo < 32 := by unfold insvcFld; split <;> decide

theorem insvcFld_off (v : Nat) : (insvcFld v).off = if v < 32 then 0x68 else 0x6c := by
  unfold insvcFld; split <;> rfl

theorem insvcFld_off_le (v : Nat) : (insvcFld v).off ≤ 0x6c := by rw [insvcFld_off]; split <;> decide

theorem pbaFld_lo (v : Nat) : (pbaFld v).lo < 32 := by unfold pbaFld; split <;> decide

theorem pbaFld_off (v : Nat) : (pbaFld v).off = if v < 32 then 0xc00 else 0xc04 := by
  unfold pbaFld; split <;> rfl

theorem pbaFld_off_lt (v : Nat) : (pbaFld v).off < 0x1000 := by rw [pbaFld_off]; split <;> decide

theorem vecNt_off_lt {v : Nat} (hv : v < 64) : (IRQ.VEC_NT.NT v).off < 0x1000 := by
  dsimp only [IRQ.VEC_NT.NT]; omega

theorem vecNt_lo (v : Nat) : (IRQ.VEC_NT.NT v).lo < 32 := (by decide : 0 < 32)

/-- A bit of a register pair that holds 64 vectors' bits: setting that of `v` leaves that of every other vector. -/
theorem State.testBit_setBit_pair (s : State) (p : Nat) {fld : Nat → Fld} {f0 f1 : Fld} (b : Bool) {u v : Nat}
    (hfld : ∀ v, fld v = if v < 32 then f0 else f1) (h0 : f0.w = 32) (h1 : f1.w = 32)
    (hne : fkey p f0 ≠ fkey p f1) (hu : u < 64) (hv : v < 64) :
    ((s.setBit p (fld v) (v % 32) b).get p (fld u)).testBit (u % 32) =
      if u = v then b else (s.get p (fld u)).testBit (u % 32) := by
  have wide : u % 32 < (fld u).w := by
    rw [hfld]; split <;> omega
  by_cases same : u / 32 = v / 32
  · have e : fld v = fld u := by
      rw [hfld, hfld]
      congr 1
      exact propext ⟨by omega, by omega⟩
    have hb : u % 32 = v % 32 ↔ u = v := by omega
    rw [e, State.testBit_setBit _ _ _ _ _ wide]
    simp only [hb]
  · rw [if_neg (by omega), State.get_setBit_ne]
    rw [hfld, hfld]
    split <;> split
    · omega
    · exact hne
    · exact hne.symm
    · omega

theorem State.inService_setBit (s : State) (b : Bool) {u v : Nat} (hu : u < 64) (hv : v < 64) :
    (s.setBit Page.irq (insvcFld v) (v % 32) b).inService u = if u = v then b else s.inService u :=
  s.testBit_setBit_pair Page.irq b (fun _ => rfl) rfl rfl (by decide) hu hv

theorem State.pbaBit_setBit (s : State) (b : Bool) {u v : Nat} (hu : u < 64) (hv : v < 64) :
    (s.setBit Page.host (pbaFld v) (v % 32) b).pbaBit u = if u = v then b else s.pbaBit u :=
  s.testBit_setBit_pair Page.host b (fun _ => rfl) rfl rfl (by decide) hu hv

/-! ### What service leaves alone -/

/-- The registers that the service of vectors writes: VEC_INSVC, the PBA and VEC_NT. -/
def serviceRegs : List (Nat × Nat) :=
  [(Page.irq, 0x68), (Page.irq, 0x6c), (Page.host, 0xc00), (Page.host, 0xc04)] ++
    (List.range 64).map (fun v => (Page.irq, 0x400 + 4 * v))

theorem insvcFld_mem_serviceRegs (v : Nat) : (Page.irq, (insvcFld v).off) ∈ serviceRegs := by
  rw [insvcFld_off]; split <;> decide

theorem pbaFld_mem_serviceRegs (v : Nat) : (Page.host, (pbaFld v).off) ∈ serviceRegs := by
  rw [pbaFld_off]; split <;> decide

theorem vecNt_mem_serviceRegs {v : Nat} (hv : v < 64) : (Page.irq, (IRQ.VEC_NT.NT v).off) ∈ serviceRegs := by
  unfold serviceRegs
  exact List.mem_append_right _ (List.mem_map.mpr ⟨v, List.mem_range.mpr hv, rfl⟩)

/-- What is not among them: a register of another page, or one that stands clear of them on IRQ or HOST. -/
theorem not_mem_serviceRegs {p off : Nat}
    (hirq : p = Page.irq → off < 0x400 ∧ off ≠ 0x68 ∧ off ≠ 0x6c) (hhost : p = Page.host → off < 0xc00) :
    (p, off) ∉ serviceRegs := by
  simp only [serviceRegs, List.mem_append, List.mem_cons, List.mem_map, Prod.mk.injEq, List.not_mem_nil, or_false]
  rintro ((⟨rfl, e⟩ | ⟨rfl, e⟩ | ⟨rfl, e⟩ | ⟨rfl, e⟩) | ⟨v, -, rfl, e⟩)
  · have := hirq rfl; omega
  · have := hirq rfl; omega
  · have := hhost rfl; omega
  · have := hhost rfl; omega
  · have := hirq rfl; omega

/-- What every step of vector service leaves: the registers other than `serviceRegs`, the time, and the PCIe
configuration that masks messages. It decides which vectors are pending, their messages and what holds these. -/
structure ServiceFrame (s t : State) : Prop where
  regs : OnlyRegs serviceRegs s t
  time : t.time = s.time
  pcie : t.pins.pcie = s.pins.pcie

namespace ServiceFrame

variable {s t : State}

theorem trans {a b c : State} (h : ServiceFrame a b) (g : ServiceFrame b c) : ServiceFrame a c :=
  ⟨h.regs.trans g.regs, g.time.trans h.time, g.pcie.trans h.pcie⟩

theorem nt (h : ServiceFrame s t) : t.nt = s.nt := congrArg Time.nt h.time

/-- Which vectors are pending rests on IRQ_RAW, IRQ_EN and IRQ_MAP, which service leaves. -/
theorem vecPending (h : ServiceFrame s t) (v : Nat) : t.vecPending v = s.vecPending v := by
  have header (p : Nat) (f : Fld) (ho : f.off < 0x40) (hl : f.lo < 32) : t.get p f = s.get p f :=
    h.regs p f (by omega) hl (not_mem_serviceRegs (by omega) (by omega))
  have map (f : Fld) (ho : 0x100 ≤ f.off ∧ f.off < 0x200) (hl : f.lo < 32) :
      t.get Page.irq f = s.get Page.irq f :=
    h.regs _ f (by omega) hl (not_mem_serviceRegs (by omega) (fun e => absurd e (by decide)))
  have page (p : Nat) (hp : p ∈ allPages) :
      (t.mapsTo p v && t.irqPend p != 0) = (s.mapsTo p v && s.irqPend p != 0) := by
    have hp : p < 0x100 := List.mem_range.mp (List.mem_filter.mp hp).1
    have hen := map (IRQ.IRQ_MAP.EN (p / 4) (p % 4)) (by dsimp only [IRQ.IRQ_MAP.EN]; omega)
      (by dsimp only [IRQ.IRQ_MAP.EN]; omega)
    have hvec := map (IRQ.IRQ_MAP.VEC (p / 4) (p % 4)) (by dsimp only [IRQ.IRQ_MAP.VEC]; omega)
      (by dsimp only [IRQ.IRQ_MAP.VEC]; omega)
    unfold State.mapsTo State.irqPend State.flag
    rw [hen, hvec, header p HDR.IRQ_RAW.RAW (by decide) (by decide), header p HDR.IRQ_EN.EN (by decide) (by decide)]
  unfold State.vecPending
  rw [Bool.eq_iff_iff, List.any_eq_true, List.any_eq_true]
  exact exists_congr fun p => and_congr_right fun hp => by rw [page p hp]

/-- The table of messages and HOST_STAT stand below the PBA. -/
theorem host (h : ServiceFrame s t) (f : Fld) (ho : f.off < 0xc00) (hl : f.lo < 32) :
    t.get Page.host f = s.get Page.host f :=
  h.regs _ f (by omega) hl (not_mem_serviceRegs (fun e => absurd e (by decide)) (fun _ => ho))

theorem message (h : ServiceFrame s t) {v : Nat} (hv : v < 64) : t.message v = s.message v := by
  unfold State.message
  rw [h.host (HOST.MSIX_ADDR_LO.ADDR v) (by dsimp only [HOST.MSIX_ADDR_LO.ADDR]; omega) (by decide : 2 < 32),
    h.host (HOST.MSIX_ADDR_HI.ADDR v) (by dsimp only [HOST.MSIX_ADDR_HI.ADDR]; omega) (by decide : 0 < 32),
    h.host (HOST.MSIX_DATA.DATA v) (by dsimp only [HOST.MSIX_DATA.DATA]; omega) (by decide : 0 < 32)]

theorem msixHolds (h : ServiceFrame s t) {v : Nat} (hv : v < 64) : t.msixHolds v = s.msixHolds v := by
  unfold State.msixHolds State.messageMasked State.d3hot State.flag
  rw [h.pcie, h.host HOST.HOST_STAT.DSTATE (by decide) (by decide),
    h.host (HOST.MSIX_CTRL.MASK v) (by dsimp only [HOST.MSIX_CTRL.MASK]; omega) (by decide : 0 < 32)]

end ServiceFrame

/-! ### A vector put in service or taken out of it -/

/-- VEC_INSVC, VEC_NT and the PBA do not meet. -/
theorem State.get_setBit_insvc (s : State) (v k : Nat) (b : Bool) {p : Nat} {f : Fld}
    (h : p = Page.irq → 0x6c < f.off) (ho : f.off < 0x1000) (hl : f.lo < 32) :
    (s.setBit Page.irq (insvcFld v) k b).get p f = s.get p f := by
  have hoff := insvcFld_off_le v
  exact s.get_setBit_ne k b (fkey_ne ho (by omega) hl (insvcFld_lo v) (by omega))

theorem State.get_setBit_pba (s : State) (v k : Nat) (b : Bool) {f : Fld} (ho : f.off < 0x1000) (hl : f.lo < 32) :
    (s.setBit Page.host (pbaFld v) k b).get Page.irq f = s.get Page.irq f :=
  s.get_setBit_ne k b (fkey_ne ho (pbaFld_off_lt v) hl (pbaFld_lo v) (.inl (by decide)))

theorem State.get_put_vecNt (s : State) (x : Nat) {u v : Nat} (hu : u < 64) (hv : v < 64) :
    (s.put Page.irq (IRQ.VEC_NT.NT v) x).get Page.irq (IRQ.VEC_NT.NT u) =
      if u = v then x % 2 ^ 32 else s.get Page.irq (IRQ.VEC_NT.NT u) := by
  split
  · next e => subst e; exact State.get_put_self _ _ _ _
  · next ne =>
    refine s.get_put_ne _ (fkey_ne (vecNt_off_lt hu) (vecNt_off_lt hv) (vecNt_lo u) (vecNt_lo v) (.inr (.inl ?_)))
    dsimp only [IRQ.VEC_NT.NT]
    omega

theorem State.nt_lt (s : State) : s.nt < 2 ^ 32 := Nat.mod_lt _ (by decide)

/-- A message goes out, or waits in the PBA where something holds it. -/
theorem State.sendMessage_eq (s : State) (v : Nat) :
    s.sendMessage v = { s.setBit Page.host (pbaFld v) (v % 32) (s.msixHolds v) with
      pins := { s.pins with messages := s.pins.messages ++ if s.msixHolds v then [] else [s.message v] } } := by
  unfold State.sendMessage
  cases s.msixHolds v with
  | true =>
    have h := s.setBit_pins Page.host (pbaFld v) (v % 32) true
    simp only [if_true, List.append_nil, ← h]
  | false => simp only [Bool.false_eq_true, if_false]

/-! ### What each step of service leaves, and what `serviceRegs` hold after it -/

theorem ServiceFrame.setInsvc (s : State) (v k : Nat) (b : Bool) :
    ServiceFrame s (s.setBit Page.irq (insvcFld v) k b) :=
  ⟨(OnlyRegs.refl _ s).setBit _ _ (insvcFld_mem_serviceRegs v) ((insvcFld_off_le _).trans_lt (by decide))
    (insvcFld_lo _), State.setBit_time .., by rw [State.setBit_pins]⟩

theorem ServiceFrame.putVecNt (s : State) (x : Nat) {v : Nat} (hv : v < 64) :
    ServiceFrame s (s.put Page.irq (IRQ.VEC_NT.NT v) x) :=
  ⟨(OnlyRegs.refl _ s).put _ (vecNt_mem_serviceRegs hv) (vecNt_off_lt hv) (vecNt_lo v), rfl, rfl⟩

theorem ServiceFrame.sendMessage (s : State) (v : Nat) : ServiceFrame s (s.sendMessage v) := by
  rw [State.sendMessage_eq]
  exact ⟨((OnlyRegs.refl _ s).setBit (v % 32) (s.msixHolds v) (pbaFld_mem_serviceRegs v)
    (pbaFld_off_lt _) (pbaFld_lo _)).of_fld rfl, State.setBit_time .., rfl⟩

theorem State.get_sendMessage (s : State) (v : Nat) {f : Fld} (ho : f.off < 0x1000) (hl : f.lo < 32) :
    (s.sendMessage v).get Page.irq f = s.get Page.irq f := by
  rw [State.sendMessage_eq]
  exact s.get_setBit_pba v _ _ ho hl

theorem State.inService_sendMessage (s : State) (u v : Nat) : (s.sendMessage v).inService u = s.inService u := by
  unfold State.inService
  rw [s.get_sendMessage v ((insvcFld_off_le _).trans_lt (by decide)) (insvcFld_lo _)]

theorem State.pbaBit_sendMessage (s : State) {u v : Nat} (hu : u < 64) (hv : v < 64) :
    (s.sendMessage v).pbaBit u = if u = v then s.msixHolds v else s.pbaBit u := by
  rw [State.sendMessage_eq]
  exact s.pbaBit_setBit _ hu hv

theorem State.messages_sendMessage (s : State) (v : Nat) :
    (s.sendMessage v).pins.messages = s.pins.messages ++ if s.msixHolds v then [] else [s.message v] := by
  rw [State.sendMessage_eq]

theorem State.vecNt_setInsvc (s : State) (v k : Nat) (b : Bool) {u : Nat} (hu : u < 64) :
    (s.setBit Page.irq (insvcFld v) k b).get Page.irq (IRQ.VEC_NT.NT u) = s.get Page.irq (IRQ.VEC_NT.NT u) :=
  s.get_setBit_insvc v k b (fun _ => by dsimp only [IRQ.VEC_NT.NT]; omega) (vecNt_off_lt hu) (vecNt_lo u)

theorem State.pbaBit_setInsvc (s : State) (u v k : Nat) (b : Bool) :
    (s.setBit Page.irq (insvcFld v) k b).pbaBit u = s.pbaBit u := by
  unfold State.pbaBit
  rw [s.get_setBit_insvc v k b (fun e => absurd e (by decide)) (pbaFld_off_lt _) (pbaFld_lo _)]

theorem State.inService_putVecNt (s : State) (x u : Nat) {v : Nat} (hv : v < 64) :
    (s.put Page.irq (IRQ.VEC_NT.NT v) x).inService u = s.inService u := by
  unfold State.inService
  have hoff := insvcFld_off_le u
  rw [State.get_put_ne]
  refine fkey_ne (by omega) (vecNt_off_lt hv) (insvcFld_lo u) (vecNt_lo v) (.inr (.inl ?_))
  dsimp only [IRQ.VEC_NT.NT]
  omega

theorem State.pbaBit_putVecNt (s : State) (x u : Nat) {v : Nat} (hv : v < 64) :
    (s.put Page.irq (IRQ.VEC_NT.NT v) x).pbaBit u = s.pbaBit u := by
  unfold State.pbaBit
  rw [State.get_put_page s x (by decide) (vecNt_off_lt hv) (vecNt_lo v) (pbaFld_off_lt _) (pbaFld_lo _)]

/-! ### A vector put in service or taken out of it -/

/-- Vector `v` has gone out of service in `t` (`on` false), or into service with the time in VEC_NT and a message
that is sent or waits (`on` true, R52). -/
structure ServiceSet (v : Nat) (on : Bool) (s t : State) : Prop where
  frame    : ServiceFrame s t
  service  : ∀ u, u < 64 → t.inService u = if u = v then on else s.inService u
  stamp    : ∀ u, u < 64 → t.get Page.irq (IRQ.VEC_NT.NT u) =
    if u = v ∧ on = true then s.nt else s.get Page.irq (IRQ.VEC_NT.NT u)
  waiting  : ∀ u, u < 64 → t.pbaBit u = if u = v ∧ on = true then s.msixHolds v else s.pbaBit u
  messages : t.pins.messages = s.pins.messages ++ if on && !s.msixHolds v then [s.message v] else []

namespace ServiceSet

theorem clear (s : State) {v : Nat} (hv : v < 64) :
    ServiceSet v false s (s.setBit Page.irq (insvcFld v) (v % 32) false) where
  frame := .setInsvc s v _ _
  service u hu := s.inService_setBit false hu hv
  stamp u hu := by simp [s.vecNt_setInsvc v _ _ hu]
  waiting u hu := by simp [s.pbaBit_setInsvc]
  messages := by simp

/-- The assertion of a vector (R52): it is put in service with the time, then its message goes out or waits. -/
theorem assert (s : State) {v : Nat} (hv : v < 64) : ServiceSet v true s (s.vecAssert v) := by
  have served : ServiceFrame s _ :=
    (ServiceFrame.putVecNt s s.nt hv).trans (.setInsvc _ v (v % 32) true)
  unfold State.vecAssert
  dsimp only
  refine ⟨served.trans (.sendMessage _ v), fun u hu => ?_, fun u hu => ?_, fun u hu => ?_, ?_⟩
  · rw [State.inService_sendMessage, State.inService_setBit _ _ hu hv, State.inService_putVecNt _ _ _ hv]
  · rw [State.get_sendMessage _ _ (vecNt_off_lt hu) (vecNt_lo u), State.vecNt_setInsvc _ _ _ _ hu,
      State.get_put_vecNt _ _ hu hv, Nat.mod_eq_of_lt s.nt_lt]
    simp
  · rw [State.pbaBit_sendMessage _ hu hv, served.msixHolds hv, State.pbaBit_setInsvc,
      State.pbaBit_putVecNt _ _ _ hv]
    simp
  · rw [State.messages_sendMessage, served.msixHolds hv, served.message hv, State.setBit_pins,
      State.put_pins]
    cases s.msixHolds v <;> rfl

/-- A vector taken out of service and put in again is in service with a new time and a new message. -/
theorem again {a b c : State} {v : Nat} (hv : v < 64) (h : ServiceSet v false a b) (g : ServiceSet v true b c) :
    ServiceSet v true a c where
  frame := h.frame.trans g.frame
  service u hu := by
    rw [g.service u hu, h.service u hu]
    split <;> rfl
  stamp u hu := by
    rw [g.stamp u hu, h.stamp u hu, h.frame.nt]
    simp
  waiting u hu := by
    rw [g.waiting u hu, h.waiting u hu, h.frame.msixHolds hv]
    simp
  messages := by
    rw [g.messages, h.messages, h.frame.msixHolds hv, h.frame.message hv]
    simp

end ServiceSet

/-! ### End of service (R54) -/

/-- The end of service of vector `v`: it goes out of service, and in again where it is pending. -/
def State.endVector (s : State) (v : Nat) : State :=
  let s := s.setBit Page.irq (insvcFld v) (v % 32) false
  if s.vecPending v then s.vecAssert v else s

theorem ServiceSet.endVector (s : State) {v : Nat} (hv : v < 64) :
    ServiceSet v (s.vecPending v) s (s.endVector v) := by
  have cleared := ServiceSet.clear s hv
  unfold State.endVector
  dsimp only
  rw [cleared.frame.vecPending]
  cases s.vecPending v with
  | true => exact cleared.again hv (.assert _ hv)
  | false => exact cleared

/-- What a write of VEC_EOI does with its bit `i`. -/
def State.eoiBit (reg : Nat) (bits : Word) (s : State) (i : Nat) : State :=
  if bits.getLsbD i && s.inService (32 * reg + i) then s.endVector (32 * reg + i) else s

theorem State.endService_eq (s : State) (reg : Nat) (bits : Word) :
    s.endService reg bits.toNat = (List.range 32).foldl (State.eoiBit reg bits)
      { s with pins := { s.pins with messages := [] } } := by
  unfold State.endService
  refine List.foldl_ext _ _ _ fun t i hi => ?_
  have low : (32 * reg + i) % 32 = i := by have := List.mem_range.mp hi; omega
  unfold State.eoiBit State.endVector
  rw [BitVec.testBit_toNat, low]

/-- Whether the first `n` bits of a write of VEC_EOI end the service of vector `v`. -/
def endedBelow (reg : Nat) (bits : Word) (n v : Nat) : Bool :=
  decide (v / 32 = reg) && (decide (v % 32 < n) && bits.getLsbD (v % 32))

/-- Whether a written vector is in service and still pending, so that it asserts again (R54). -/
def State.reasserts (s : State) (reg : Nat) (bits : Word) (i : Nat) : Bool :=
  bits.getLsbD i && s.inService (32 * reg + i) && s.vecPending (32 * reg + i)

/-- The first `n` bits of a write of VEC_EOI have been served, from `s` to `t`. -/
structure EndedBelow (reg : Nat) (bits : Word) (n : Nat) (s t : State) : Prop where
  frame    : ServiceFrame s t
  service  : ∀ v, v < 64 → t.inService v = (s.inService v && (!endedBelow reg bits n v || s.vecPending v))
  stamp    : ∀ v, v < 64 → t.get Page.irq (IRQ.VEC_NT.NT v) =
    if endedBelow reg bits n v && s.inService v && s.vecPending v then s.nt else s.get Page.irq (IRQ.VEC_NT.NT v)
  messages : t.pins.messages = ((List.range n).filter (fun i =>
    s.reasserts reg bits i && !s.msixHolds (32 * reg + i))).map (fun i => s.message (32 * reg + i))
  waiting  : ∀ i, i < n → s.reasserts reg bits i = true → s.msixHolds (32 * reg + i) = true →
    t.pbaBit (32 * reg + i) = true

theorem endedBelow_self (reg : Nat) (bits : Word) (n : Nat) (hn : n < 32) :
    endedBelow reg bits n (32 * reg + n) = false := by
  have : (32 * reg + n) % 32 = n := by omega
  simp [endedBelow, this]

theorem endedBelow_succ (reg : Nat) (bits : Word) {n : Nat} (hn : n < 32) (v : Nat) :
    endedBelow reg bits (n + 1) v = if v = 32 * reg + n then bits.getLsbD n else endedBelow reg bits n v := by
  unfold endedBelow
  split
  · next e =>
    obtain ⟨hreg, hbit⟩ : v / 32 = reg ∧ v % 32 = n := by omega
    simp [hreg, hbit]
  · next ne =>
    by_cases hreg : v / 32 = reg
    · have : v % 32 < n + 1 ↔ v % 32 < n := by omega
      simp [hreg, this]
    · simp [hreg]

namespace EndedBelow

variable {reg n : Nat} {bits : Word} {s t : State}

theorem zero (reg : Nat) (bits : Word) (s : State) :
    EndedBelow reg bits 0 s { s with pins := { s.pins with messages := [] } } where
  frame := ⟨.refl _ s, rfl, rfl⟩
  service v _ := by
    have : endedBelow reg bits 0 v = false := by simp [endedBelow]
    simp only [this, Bool.not_false, Bool.true_or, Bool.and_true]
    rfl
  stamp v _ := by
    have : endedBelow reg bits 0 v = false := by simp [endedBelow]
    simp only [this, Bool.false_and, Bool.false_eq_true, if_false]
    rfl
  messages := rfl
  waiting i hi := absurd hi (Nat.not_lt_zero i)

/-- The vector of the next bit is as it was. -/
theorem inService_next (h : EndedBelow reg bits n s t) (hreg : reg < 2) (hn : n < 32) :
    t.inService (32 * reg + n) = s.inService (32 * reg + n) := by
  rw [h.service _ (by omega), endedBelow_self reg bits n hn]
  simp

/-- A vector not written, or not in service, is left alone. -/
theorem skip (h : EndedBelow reg bits n s t) (hn : n < 32)
    (hv : (bits.getLsbD n && s.inService (32 * reg + n)) = false) : EndedBelow reg bits (n + 1) s t := by
  have quiet : s.reasserts reg bits n = false := by unfold State.reasserts; rw [hv]; rfl
  refine ⟨h.frame, fun v hv64 => ?_, fun v hv64 => ?_, ?_, fun i hi hre => ?_⟩
  · rw [h.service v hv64, endedBelow_succ reg bits hn]
    by_cases e : v = 32 * reg + n
    · subst e
      rcases Bool.and_eq_false_iff.mp hv with hbit | hin
      · simp [endedBelow_self reg bits n hn, hbit]
      · simp [hin]
    · rw [if_neg e]
  · rw [h.stamp v hv64, endedBelow_succ reg bits hn]
    by_cases e : v = 32 * reg + n
    · subst e
      simp [endedBelow_self reg bits n hn, hv]
    · rw [if_neg e]
  · rw [h.messages, List.range_succ, List.filter_append]
    simp [quiet]
  · refine h.waiting i ?_ hre
    have : i ≠ n := fun e => by rw [e, quiet] at hre; cases hre
    omega

/-- A vector written and in service ends its service and asserts again where it is pending. -/
theorem serve (h : EndedBelow reg bits n s t) (hreg : reg < 2) (hn : n < 32) {t' : State}
    (hbit : bits.getLsbD n = true) (hin : s.inService (32 * reg + n) = true)
    (g : ServiceSet (32 * reg + n) (s.vecPending (32 * reg + n)) t t') : EndedBelow reg bits (n + 1) s t' := by
  have hv : 32 * reg + n < 64 := by omega
  have again : s.reasserts reg bits n = s.vecPending (32 * reg + n) := by
    unfold State.reasserts
    rw [hbit, hin, Bool.true_and, Bool.true_and]
  refine ⟨h.frame.trans g.frame, fun v hv64 => ?_, fun v hv64 => ?_, ?_, fun i hi hre hold => ?_⟩
  · rw [g.service v hv64, h.service v hv64, endedBelow_succ reg bits hn]
    split
    · next e => subst e; rw [hbit, hin]; simp
    · rfl
  · rw [g.stamp v hv64, h.stamp v hv64, endedBelow_succ reg bits hn, h.frame.nt]
    by_cases e : v = 32 * reg + n
    · subst e
      simp [hbit, hin, endedBelow_self reg bits n hn]
    · simp [e]
  · rw [g.messages, h.messages, List.range_succ, List.filter_append, List.map_append, h.frame.msixHolds hv,
      h.frame.message hv]
    simp only [List.filter_cons, List.filter_nil, again]
    split <;> rfl
  · rw [g.waiting _ (by omega), h.frame.msixHolds hv]
    by_cases e : i = n
    · subst e
      rw [if_pos ⟨rfl, by rw [← again, hre]⟩, hold]
    · rw [if_neg (by omega), h.waiting i (by omega) hre hold]

theorem step (h : EndedBelow reg bits n s t) (hreg : reg < 2) (hn : n < 32) :
    EndedBelow reg bits (n + 1) s (t.eoiBit reg bits n) := by
  have hv : 32 * reg + n < 64 := by omega
  unfold State.eoiBit
  rw [h.inService_next hreg hn]
  split
  · next acts =>
    obtain ⟨hbit, hin⟩ := Bool.and_eq_true_iff.mp acts
    have ended := ServiceSet.endVector t hv
    rw [h.frame.vecPending] at ended
    exact h.serve hreg hn hbit hin ended
  · next rests => exact h.skip hn (Bool.eq_false_iff.mpr rests)

/-- Bit after bit, the write is served. -/
theorem foldl (s : State) (hreg : reg < 2) (bits : Word) (hn : n ≤ 32) :
    EndedBelow reg bits n s ((List.range n).foldl (State.eoiBit reg bits)
      { s with pins := { s.pins with messages := [] } }) := by
  induction n with
  | zero => exact .zero reg bits s
  | succ n ih =>
    rw [List.range_succ, List.foldl_append]
    exact (ih (by omega)).step hreg (by omega)

theorem endService (s : State) (hreg : reg < 2) (bits : Word) :
    EndedBelow reg bits 32 s (s.endService reg bits.toNat) := by
  rw [State.endService_eq]
  exact foldl s hreg bits (Nat.le_refl 32)

end EndedBelow

theorem endedBelow_all (reg : Nat) (bits : Word) (v : Nat) :
    endedBelow reg bits 32 v = (decide (v / 32 = reg) && bits.getLsbD (v % 32)) := by
  simp [endedBelow, Nat.mod_lt]

/-- A write of VEC_EOI that reaches the page ends service. -/
theorem exec_vecEoi_of_takes {s : State} (h : s.Takes Page.irq) {reg : Nat} (bits : Word) (hreg : reg < 2) :
    exec (.vecEoi reg bits) s = .next (s.endService reg bits.toNat) := by
  have arm : exec (.vecEoi reg bits) s = execVecEoi reg bits s := rfl
  rw [arm]
  unfold execVecEoi
  rw [if_neg (by omega), h.write]

/-- Settles O20: the write is served bit by bit, and what the first `n` bits have come to (`EndedBelow`) is an
invariant of that, for the end of one vector's service leaves what decides the others. -/
theorem endOfServiceReassertsPendingVectors : Obligations.EndOfServiceReassertsPendingVectors := by
  unfold Obligations.EndOfServiceReassertsPendingVectors
  intro s reg bits takes hreg
  have ended := EndedBelow.endService s hreg bits
  refine ⟨_, exec_vecEoi_of_takes takes bits hreg, fun v hv => ⟨?_, ?_⟩, ended.messages,
    fun i hi hbit hin hpend hold => ?_, fun p f ho hl hirq hhost => ?_,
    State.endService_only s reg _ (fun _ m => m) (.refl _ s)⟩
  · rw [ended.service v hv, endedBelow_all]
  · rw [ended.stamp v hv, endedBelow_all]
  · have waits := ended.waiting i hi (by simp [State.reasserts, hbit, hin, hpend]) hold
    have low : (32 * reg + i) % 32 = i := by omega
    unfold State.pbaBit at waits
    rwa [low] at waits
  · exact ended.frame.regs p f ho hl (not_mem_serviceRegs (fun e => absurd e hirq) (fun e => absurd e hhost))

end Sys2Proof.Machine
end

section
/-! SUPPORT. The issue of a MAC slot operation (R97, R99, R103): what the replacement of a core, the events of an
operation and their record on the pages of the core and its follower leave, and the arithmetic of MUL (R118,
R120). -/

namespace Sys2Proof.Machine

/-! ### The core and its follower -/

/-- The follower of a cluster is told by MIG_STAT.STATE, the clusters and the frame sequencer alone. -/
theorem State.follower_congr {s t : State} (mig : ∀ k, k < 4 → t.migState k = s.migState k)
    (clus : t.clus = s.clus) (fseq : t.fseq = s.fseq) (c : Nat) : t.follower c = s.follower c := by
  unfold State.follower
  refine List.find?_congr fun k hk => ?_
  unfold State.inTail State.cl
  rw [mig k (List.mem_range.mp hk), clus, fseq]

theorem State.follower_lt {s : State} {c k : Nat} (h : s.follower c = some k) : k < 4 :=
  List.mem_range.mp (List.mem_of_find?_eq_some h)

theorem State.core_setCore1 (s : State) (n m : Nat) (c : Core) :
    (s.setCore1 n c).core m = if m = n then c else s.core m := Tab.get_put _ _ _ _

theorem State.fld_setCore (s : State) (n : Nat) (c : Core) : (s.setCore n c).fld = s.fld :=
  (State.setCore_only s n c (ps := parts18) (fun _ m => m) (.refl _ s)).same .fld (by decide)

theorem State.follower_setCore (s : State) (n : Nat) (c : Core) (d : Nat) :
    (s.setCore n c).follower d = s.follower d := by
  have only := State.setCore_only s n c (ps := parts18) (fun _ m => m) (.refl _ s)
  exact State.follower_congr (fun k _ => State.get_of_fld (s.fld_setCore n c) _ _) (only.same .clus (by decide))
    (only.same .fseq (by decide)) d

/-- Core `n` is replaced, and its follower with it (R158). -/
theorem CoreIs.setCore (s : State) (n : Nat) (c : Core) : CoreIs n c s (s.setCore n c) := by
  unfold State.setCore
  cases follows : s.follower (n / 8) with
  | none =>
    constructor
    · simp [State.core_setCore1]
    · intro m hm _
      simp [State.core_setCore1, hm]
  | some k =>
    constructor
    · simp only [State.core_setCore1]
      split <;> simp
    · intro m hm other
      simp [State.core_setCore1, hm, other k follows]

/-- Nothing but the cores decides what core a state has. -/
theorem CoreIs.of_cores {n : Nat} {c : Core} {s t u : State} (h : CoreIs n c s t) (e : u.cores = t.cores) :
    CoreIs n c s u := by
  have same (m : Nat) : u.core m = t.core m := by unfold State.core; rw [e]
  exact ⟨(same n).trans h.core, fun m hm hk => (same m).trans (h.others m hm hk)⟩

/-! ### The events of an operation -/

/-- What an event of core `n` does to one page, its own or that of its follower (R124, R125). -/
def evOnPage (n : Nat) (e : Ev) (s : State) (p : Nat) : State :=
  match e with
  | .xov => (s.bump p IBEX.XOV_COUNT.COUNT).raise p 0
  | .xlost => s.raise p 1
  | .sat => (s.bump p IBEX.SAT_COUNT.COUNT).raise p 2
  | .satCountOnlyDz => (s.bump p IBEX.SAT_COUNT.COUNT).raise p 3
  | .align => s.raise p 4
  | .bankStall => (s.bump p IBEX.STALL_COUNT.COUNT).maxUp p IBEX.STALL_FRAME_MAX.MAX (s.core n).stallsWin

theorem State.coreEv_eq (s : State) (n : Nat) (e : Ev) : s.coreEv n e = s.onCorePage n (evOnPage n e) := by
  cases e <;> rfl

/-- The registers of an Ibex page that show events: IRQ_RAW, XOV_COUNT, SAT_COUNT, STALL_COUNT, STALL_FRAME_MAX. -/
def evRegs (p : Nat) : List (Nat × Nat) := [(p, 0x10), (p, 0x44), (p, 0x48), (p, 0x4c), (p, 0x50)]

theorem OnlyRegs.evOnPage (n : Nat) (e : Ev) (s : State) (p : Nat) : OnlyRegs (evRegs p) s (evOnPage n e s p) := by
  have raised (t : State) (h : OnlyRegs (evRegs p) s t) (b : Nat) : OnlyRegs (evRegs p) s (t.raise p b) :=
    h.raise b (by simp [evRegs])
  have counted (f : Fld) (hm : (p, f.off) ∈ evRegs p) (ho : f.off < 0x1000) (hl : f.lo < 32) :
      OnlyRegs (evRegs p) s (s.bump p f) := (OnlyRegs.refl _ s).bump 1 hm ho hl
  have sat := counted IBEX.SAT_COUNT.COUNT (by simp [evRegs, IBEX.SAT_COUNT.COUNT]) (by decide) (by decide)
  cases e with
  | xov => exact raised _ (counted _ (by simp [evRegs, IBEX.XOV_COUNT.COUNT]) (by decide) (by decide)) 0
  | xlost => exact raised s (.refl _ s) 1
  | sat => exact raised _ sat 2
  | satCountOnlyDz => exact raised _ sat 3
  | align => exact raised s (.refl _ s) 4
  | bankStall =>
    exact (counted _ (by simp [evRegs, IBEX.STALL_COUNT.COUNT]) (by decide) (by decide)).put _
      (by simp [evRegs, IBEX.STALL_FRAME_MAX.MAX]) (by decide) (by decide)

theorem get_evOnPage_ne (n : Nat) (e : Ev) (s : State) {p q : Nat} {f : Fld} (hq : q ≠ p) (ho : f.off < 0x1000)
    (hl : f.lo < 32) : (evOnPage n e s p).get q f = s.get q f :=
  OnlyRegs.evOnPage n e s p q f ho hl (by simp [evRegs, hq])

theorem State.get_bump_self (s : State) (p : Nat) (f : Fld) :
    (s.bump p f).get p f = Nat.min (s.get p f + 1) (2 ^ f.w - 1) := by
  unfold State.bump
  rw [State.get_put_self]
  have := Nat.two_pow_pos f.w
  exact Nat.mod_eq_of_lt (Nat.lt_of_le_of_lt (Nat.min_le_right _ _) (by omega))

theorem eventShown_evOnPage (n : Nat) (e : Ev) (s : State) : EventShown n s (evOnPage n e s (Page.ibex n)) e := by
  have counted (f : Fld) (b : Nat) (hf : (f.off, f.lo) ≠ (0x10, 0)) (ho : f.off < 0x1000) (hl : f.lo < 32) :
      ((s.bump (Page.ibex n) f).raise (Page.ibex n) b).get (Page.ibex n) f =
        Nat.min (s.get (Page.ibex n) f + 1) (2 ^ f.w - 1) ∧
      Raised (Page.ibex n) b s ((s.bump (Page.ibex n) f).raise (Page.ibex n) b) := by
    constructor
    · exact (State.get_put_fld _ _ hf (by decide) (by decide) ho hl).trans (s.get_bump_self _ f)
    · unfold Raised
      rw [State.get_raise]
      unfold State.bump
      rw [State.get_put_fld s _ hf.symm ho hl]
  cases e with
  | xov => exact counted _ 0 (by decide) (by decide) (by decide)
  | xlost => exact State.get_raise _ _ _
  | sat => exact counted _ 2 (by decide) (by decide) (by decide)
  | satCountOnlyDz => exact counted _ 3 (by decide) (by decide) (by decide)
  | align => exact State.get_raise _ _ _
  | bankStall => exact (State.get_put_fld _ _).trans (s.get_bump_self _ _)

/-- What an event shows is read from registers of the page alone. -/
theorem EventShown.of_get {n : Nat} {e : Ev} {s t u : State} (h : EventShown n s t e)
    (same : ∀ f : Fld, f.off < 0x1000 → f.lo < 32 → u.get (Page.ibex n) f = t.get (Page.ibex n) f) :
    EventShown n s u e := by
  have raised (b : Nat) (r : Raised (Page.ibex n) b s t) : Raised (Page.ibex n) b s u :=
    (same _ (by decide) (by decide)).trans r
  cases e with
  | xov => exact ⟨(same _ (by decide) (by decide)).trans h.1, raised 0 h.2⟩
  | xlost => exact raised 1 h
  | sat => exact ⟨(same _ (by decide) (by decide)).trans h.1, raised 2 h.2⟩
  | satCountOnlyDz => exact ⟨(same _ (by decide) (by decide)).trans h.1, raised 3 h.2⟩
  | align => exact raised 4 h
  | bankStall => exact (same _ (by decide) (by decide)).trans h

theorem EventShown.of_fld {n : Nat} {e : Ev} {r s t : State} (h : EventShown n s t e) (same : s.fld = r.fld) :
    EventShown n r t e := by
  have get := State.get_of_fld same
  cases e <;> simpa only [EventShown, Raised, get] using h

/-! ### The events on the pages of the core and of its follower -/

theorem State.get_coreEv_ne (s : State) {n : Nat} (e : Ev) {p : Nat} {f : Fld} (ho : f.off < 0x1000) (hl : f.lo < 32)
    (own : p ≠ Page.ibex n) (other : ∀ k, s.follower (n / 8) = some k → p ≠ Page.ibex (8 * k + n % 8)) :
    (s.coreEv n e).get p f = s.get p f := by
  rw [State.coreEv_eq]
  unfold State.onCorePage
  cases follows : s.follower (n / 8) with
  | none => exact get_evOnPage_ne n e s own ho hl
  | some k => exact (get_evOnPage_ne n e _ (other k follows) ho hl).trans (get_evOnPage_ne n e s own ho hl)

theorem eventShown_coreEv (s : State) (n : Nat) (e : Ev) (own : s.follower (n / 8) ≠ some (n / 8)) :
    EventShown n s (s.coreEv n e) e := by
  rw [State.coreEv_eq]
  unfold State.onCorePage
  cases follows : s.follower (n / 8) with
  | none => exact eventShown_evOnPage n e s
  | some k =>
    have apart : Page.ibex n ≠ Page.ibex (8 * k + n % 8) := by
      have : k ≠ n / 8 := fun h => own (h ▸ follows)
      unfold Page.ibex
      omega
    exact (eventShown_evOnPage n e s).of_get fun _ ho hl => get_evOnPage_ne n e _ apart ho hl

/-- No event of a core changes who follows whom. -/
theorem State.follower_coreEv (s : State) (n : Nat) (e : Ev) (c : Nat) :
    (s.coreEv n e).follower c = s.follower c := by
  have only := State.coreEv_only s n e (ps := parts1) (fun _ m => m) (.refl _ s)
  have apart (m : Nat) {k : Nat} (hk : k < 4) : Page.clus k ≠ Page.ibex m := by
    unfold Page.clus Page.ibex
    omega
  refine State.follower_congr (fun k hk => ?_) (only.same .clus (by decide)) (only.same .fseq (by decide)) c
  exact State.get_coreEv_ne s e (by decide) (by decide) (apart _ hk) (fun _ _ => apart _ hk)

theorem State.coreEvs_only (s : State) (n : Nat) (evs : List Ev) :
    Only [.fld] s (evs.foldl (fun s e => s.coreEv n e) s) :=
  (Only.refl _ s).foldl fun t e h => State.coreEv_only t n e (ps := [.fld]) (fun _ m => m) h

theorem State.get_coreEvs_ne (s : State) {n : Nat} (evs : List Ev) {p : Nat} {f : Fld} (ho : f.off < 0x1000)
    (hl : f.lo < 32) (own : p ≠ Page.ibex n)
    (other : ∀ k, s.follower (n / 8) = some k → p ≠ Page.ibex (8 * k + n % 8)) :
    (evs.foldl (fun s e => s.coreEv n e) s).get p f = s.get p f := by
  induction evs generalizing s with
  | nil => rfl
  | cons e evs ih =>
    refine (ih (s.coreEv n e) fun k hk => ?_).trans (s.get_coreEv_ne e ho hl own other)
    exact other k ((s.follower_coreEv n e _).symm.trans hk)

/-! ### The issue of an operation -/

theorem State.writeLocal_nil (s : State) : s.writeLocal [] = s := by
  have bytes (t : State) : t.setBytes [] = t := rfl
  have checks (t : State) : t.clearEcc [] = t := rfl
  unfold State.writeLocal
  rw [List.filterMap_nil, bytes, checks, bytes, checks]

theorem State.coreStore_nil (s : State) (n clk : Nat) : s.coreStore n clk [] = s := by
  unfold State.coreStore
  rw [List.filter_nil, List.filter_nil, State.writeLocal_nil, List.foldl_nil]

/-- An operation without memory accesses leaves its core and its events. -/
theorem State.finishOp_eq (s : State) (n slot : Nat) (c : Core) (evs : List Ev) :
    s.finishOp n slot ⟨c, evs, [], []⟩ =
      evs.foldl (fun s e => s.coreEv n e) (s.setCore n (c.sendFlags slot evs)) :=
  State.coreStore_nil _ _ _

theorem Issued.finishOp (s : State) (n slot : Nat) (c : Core) (evs : List Ev) :
    Issued n slot c evs s (s.finishOp n slot ⟨c, evs, [], []⟩) := by
  rw [State.finishOp_eq]
  have events := (s.setCore n (c.sendFlags slot evs)).coreEvs_only n evs
  have replaced := State.setCore_only s n (c.sendFlags slot evs) (ps := [.cores]) (fun _ m => m) (.refl _ s)
  refine ⟨?core, ?quiet, ?event, ?pages, ?parts⟩
  case core => exact (CoreIs.setCore s n _).of_cores (events.same .cores (by decide))
  case quiet =>
    rintro rfl
    exact replaced
  case event =>
    rintro e rfl own
    refine (eventShown_coreEv _ n e ?_).of_fld (s.fld_setCore n _)
    rwa [State.follower_setCore]
  case pages =>
    intro p f ho hl own other
    refine (State.get_coreEvs_ne _ evs ho hl own fun k hk => other k ?_).trans (State.get_of_fld (s.fld_setCore n _) p f)
    rwa [State.follower_setCore] at hk
  case parts => exact (replaced.mono (by decide)).trans (events.mono (by decide))

theorem State.fetchCheck_of_clean {s : State} {base : Nat} {pc : BitVec 12}
    (clean : ∀ h, h < 2 → s.unitEcc 8 ((base + 16 * pc.toNat + 8 * h) / 8) = none) : s.fetchCheck base pc = s := by
  have low := clean 0 (by decide)
  have high := clean 1 (by decide)
  unfold State.fetchCheck
  simp only [Nat.mul_zero, Nat.mul_one] at low high
  simp only [List.foldl_cons, List.foldl_nil, low, high]

/-- A core that reaches an operation has fetched its way there without an error. -/
theorem State.Reaches.fetchFor {s : State} {at_ : Issue} {c : Core} (h : s.Reaches at_ c) : s.fetchFor at_ = s := by
  unfold State.fetchFor
  have clean := h.clean
  generalize (s.core at_.core).fetches (s.bundlesOn at_) = pcs at clean
  induction pcs with
  | nil => rfl
  | cons pc pcs ih =>
    obtain ⟨first, rest⟩ := List.forall_mem_cons.mp clean
    rw [List.foldl_cons, State.fetchCheck_of_clean first]
    exact ih rest

theorem State.Reaches.reach {s : State} {at_ : Issue} {c : Core} (h : s.Reaches at_ c) : s.reach at_ = some c := by
  have here : ¬ 32 ≤ at_.core := Nat.not_le.mpr h.core
  unfold State.reach
  simp [h.run, here, h.on, h.before, h.bundle]

/-- An operation whose core reaches it and whose predicate is 1 acts (R99). -/
theorem State.Acts.issueOr {s : State} {at_ : Issue} {c : Core} (h : s.Acts at_ c) {bad : Core → Bool}
    (good : bad c = false) (f : State → Core → OpOut) :
    s.issueOr at_ bad f = s.finishOp at_.core at_.slot (f s c) := by
  unfold State.issueOr Core.predOf
  simp [h.reach, h.fetchFor, h.issues, h.pred, h.whole, good]

/-- A MAC slot operation that acts and reaches no memory has issued with its core and its events. -/
theorem State.Acts.issueMac {s : State} {at_ : Issue} {c c' : Core} {evs : List Ev} {f : Core → OpOut}
    (h : s.Acts at_ c) (slot : at_.slot < 2) (out : f c = ⟨c', evs, [], []⟩) :
    Issued at_.core at_.slot c' evs s (s.issueMac at_ false f) := by
  unfold State.issueMac
  rw [if_neg (Nat.not_le.mpr slot), h.issueOr rfl, out]
  exact Issued.finishOp s _ _ _ _

/-! ### The arithmetic of MUL -/

/-- Rounding keeps a lower bound that is a whole number of steps (R118). -/
theorem le_roundShift {a z : Int} {sh : Nat} (trunc : Bool) (h : a * (2 ^ sh : Nat) ≤ z) :
    a ≤ roundShift trunc z sh := by
  have down : a ≤ z / (2 ^ sh : Nat) := (Int.le_ediv_iff_mul_le (by exact_mod_cast Nat.two_pow_pos sh)).mpr h
  unfold roundShift
  dsimp only
  split_ifs <;> omega

/-- Rounding keeps an upper bound that is a whole number of steps: at the bound itself no part of a step is left to
round up (R118). -/
theorem roundShift_le {b z : Int} {sh : Nat} (trunc : Bool) (h : z ≤ b * (2 ^ sh : Nat)) :
    roundShift trunc z sh ≤ b := by
  have pos : (0 : Int) < (2 ^ sh : Nat) := by exact_mod_cast Nat.two_pow_pos sh
  have down : z / (2 ^ sh : Nat) ≤ b := by
    have := Int.ediv_le_ediv pos h
    rwa [Int.mul_ediv_cancel _ pos.ne'] at this
  have exact_at_bound (e : z / (2 ^ sh : Nat) = b) : z % (2 ^ sh : Nat) ≤ 0 := by
    have parts := Int.ediv_mul_add_emod z (2 ^ sh : Nat)
    rw [e] at parts
    omega
  unfold roundShift
  dsimp only
  split_ifs <;> omega

/-- A result that fits is not limited. -/
theorem sat32_of_fits {z : Int} (low : -2 ^ 31 ≤ z) (high : z < 2 ^ 31) : sat32 z = (Word.ofInt z, []) := by
  have fits : satTo 32 z = (z, false) := by
    unfold satTo
    rw [if_neg (by omega), if_neg (by omega)]
  unfold sat32
  rw [fits]
  rfl

theorem abs_toInt_le (w : Word) : |w.toInt| ≤ 2 ^ 31 :=
  abs_le.mpr ⟨BitVec.le_toInt w, (BitVec.toInt_lt (x := w)).le⟩

theorem abs_toInt_le_of_ne_least {w : Word} (h : w ≠ 0x80000000) : |w.toInt| ≤ 2 ^ 31 - 1 := by
  have low : -2 ^ 31 ≤ w.toInt := BitVec.le_toInt w
  have high : w.toInt < 2 ^ 31 := BitVec.toInt_lt
  have ne : w.toInt ≠ -2 ^ 31 := fun e => h (BitVec.eq_of_toInt_eq e)
  rw [abs_le]
  omega

/-- The product of two words lies a step of Q1.31 below 1, unless both are -1. -/
theorem mul_toInt_bounds {x y : Word} (h : ¬ (x = 0x80000000 ∧ y = 0x80000000)) :
    -2 ^ 31 * 2 ^ 31 ≤ x.toInt * y.toInt ∧ x.toInt * y.toInt ≤ (2 ^ 31 - 1) * 2 ^ 31 := by
  have size : |x.toInt * y.toInt| ≤ (2 ^ 31 - 1) * 2 ^ 31 := by
    rw [abs_mul]
    rcases not_and_or.mp h with hx | hy
    · exact mul_le_mul (abs_toInt_le_of_ne_least hx) (abs_toInt_le y) (abs_nonneg _) (by decide)
    · rw [mul_comm]
      exact mul_le_mul (abs_toInt_le_of_ne_least hy) (abs_toInt_le x) (abs_nonneg _) (by decide)
  rw [abs_le] at size
  omega

/-- Away from the one pair, the rounded product fits (R120). -/
theorem roundShift_mul_fits {x y : Word} (trunc : Bool) (h : ¬ (x = 0x80000000 ∧ y = 0x80000000)) :
    -2 ^ 31 ≤ roundShift trunc (x.toInt * y.toInt) 31 ∧ roundShift trunc (x.toInt * y.toInt) 31 < 2 ^ 31 := by
  obtain ⟨low, high⟩ := mul_toInt_bounds h
  exact ⟨le_roundShift trunc low, Int.lt_of_le_sub_one (roundShift_le trunc high)⟩

theorem mulQ31_of_fits {x y : Word} (trunc : Bool) (h : ¬ (x = 0x80000000 ∧ y = 0x80000000)) :
    mulQ31 trunc x y = (Word.ofInt (roundShift trunc (x.toInt * y.toInt) 31), []) := by
  obtain ⟨low, high⟩ := roundShift_mul_fits trunc h
  exact sat32_of_fits low high

theorem mulQ31_least (trunc : Bool) : mulQ31 trunc 0x80000000 0x80000000 = (0x7FFFFFFF, [.sat]) := by
  cases trunc <;> decide

/-- MUL that acts sends the product with its event (R105, R120). -/
theorem issued_mul {s : State} {at_ : Issue} {c : Core} (h : s.Acts at_ c) (slot : at_.slot < 2)
    (dd da db : BitVec 6) {v : Word} {evs : List Ev}
    (result : mulQ31 (c.rnd.getLsbD 0) (c.readD da.toNat) (c.readD db.toNat) = (v, evs)) :
    ∃ t, exec (.mul at_ dd da db) s = .next t ∧ Issued at_.core at_.slot (c.sendD at_.slot 4 dd.toNat v) evs s t :=
  ⟨_, rfl, h.issueMac slot (by simp only [result])⟩

/-- Settles O26: the product of two words stays a step below 1 but for the one pair, and rounding keeps that
bound. -/
theorem mulSaturatesOnOnePairOnly : Obligations.MulSaturatesOnOnePairOnly := by
  unfold Obligations.MulSaturatesOnOnePairOnly
  intro s at_ c dd da db slot acts
  refine ⟨fun other => ?_, fun hx hy => ?_⟩
  · obtain ⟨t, next, issued⟩ := issued_mul acts slot dd da db (mulQ31_of_fits _ other)
    exact ⟨t, next, issued, roundShift_mul_fits _ other⟩
  · exact issued_mul acts slot dd da db (by rw [hx, hy, mulQ31_least])

end Sys2Proof.Machine
end
